-- ==== Sys2Proof/Word.lean ====
section
/-!
DEFINITION. The machine words of the NH64: the register word of 64 bits, the byte, and the two views of a word
that the whole model uses.
-/

namespace Sys2Proof

/-- A register of a register page, a scalar register, an address word (R28, R149). -/
abbrev Word := BitVec 64

/-- A byte of memory. -/
abbrev Byte := BitVec 8

/-- A vector register of 2,048 bits (R149). -/
abbrev VReg := BitVec 2048

/-- A mask register of 512 bits (R149). -/
abbrev MReg := BitVec 512

/-- The word that holds a number, modulo 2^64. -/
def word (n : Nat) : Word := BitVec.ofNat 64 n

/-- The byte that holds a number, modulo 2^8. -/
def byte (n : Nat) : Byte := BitVec.ofNat 8 n

end Sys2Proof
end

