-- ==== Sys2Proof/Syntax.lean ====
section
/-!
DEFINITION. The commands of the block: the operand types and `Instr`, one constructor per row of
spec/opcode_table.json.
-/

namespace Sys2Proof

/-- Who writes a register (R31, R379, R474): the host over BAR0, Henair, the package management controller, the
debug port, the sideband. -/
inductive Writer where
  | host | henair | pmc | dbg | sideband
  deriving DecidableEq, Repr

/-- What tile memory's SECDED reports on a read (R151): 64-bit words, by byte offset, corrected and uncorrectable. -/
structure TmEcc where
  corrected : List Nat := []
  uncorr : List Nat := []
  deriving DecidableEq, Repr

/-- What a recovery meets (R73, R308, R416, R421): pages of tested units whose test fails, the coherent cache failing
its test, a FATAL condition still present, the images read again and the records of the OWN_WRITE commands read again,
by slot. -/
structure RecovEnv where
  failing : List (Fin 512) := []
  cacheBad : Bool := false
  fatalPresent : Bool := false
  images : List (Fin 16 × List Byte) := []
  owns : List (Fin 16 × List (Option (List Byte))) := []
  deriving DecidableEq, Repr

/-- A PRI group response (R397). -/
inductive PageCode where
  | success | invalid | failure
  deriving DecidableEq, Repr

/-- A row that a JOIN, BUILD or AGG operator hands to the owner of its key (R190 to R204): the operator, the issuing
tile, the row's number there, its key components (none for null), its TIME, and its PAYLOAD or AGG columns. -/
structure JoinRow where
  op : Nat
  tile : Fin 64
  row : Nat
  key : List (Option (List Byte))
  time : Word := 0
  cols : List (Option (List Byte)) := []
  deriving DecidableEq, Repr

/-- A size that a frame, page or message claims (R127): column record (0xFF for all), the rows it covers within this
input (first, count), its input offset, the decoded size it states and the encoded size beside it. -/
structure DecClaim where
  col : Nat
  first : Nat
  count : Nat
  offset : Nat
  decoded : Nat
  encoded : Nat
  dict : Bool := false
  deriving DecidableEq, Repr

/-- A damage that the format finds (R129): cause, column (0xFF for all), rows within this input, input offset. -/
structure DecDamage where
  cause : Nat
  col : Nat
  first : Nat
  count : Nat
  offset : Nat
  deriving DecidableEq, Repr

/-- What a context save takes from the decompressor's inner state (Table DEC-9): history and the fields of the state
record that no rule computes. -/
structure DecCtx where
  hist : List Byte := []
  histHead : Nat := 0
  inFrame : Bool := false
  inBlock : Bool := false
  dict : Nat := 0xFFFF
  frameStart : Nat := 0
  blockRemain : Nat := 0
  rowBack : Nat := 0
  checksum : List Byte := []
  levels : List Byte := []
  entropy : List Byte := []
  codec : Nat := 0
  deriving DecidableEq, Repr

/-- What a decompressor and its decode unit consume in one step (R116 to R141). The outside formats (RFC 8878, RFC 1951
to 1952, LZ4, Snappy, Parquet, Arrow, CSV, JSON) say which rows the input decodes to: `rows` holds them, a value for
each column, none for null. For DECOMPRESS, FIXED and SPILL_READ `bytes` holds the decompressed bytes, and the block
decodes the rows itself; `payload` is what a compressed spill block expands to. `consumed` input bytes were read,
`poison` says that a line of them carried poison; `cuts` blocks ended; `verify` more source rows have their checksums
verified, or with `mismatch` fail for that column (0xFF for all); `passed` is a frame, page or line for the steward cores (R119). -/
structure DecUnit where
  consumed : Nat := 0
  bytes : List Byte := []
  payload : List Byte := []
  rows : List (List (Option (List Byte))) := []
  claims : List DecClaim := []
  damages : List DecDamage := []
  passed : Option DecDamage := none
  poison : Bool := false
  frameEnd : Bool := false
  cuts : Nat := 0
  verify : Nat := 0
  mismatch : Option Nat := none
  newStream : Bool := false
  rowBase : Option Nat := none
  groupEnd : Bool := false
  inputEnd : Bool := false
  /-- ring pages that the consumers have freed since (R92, R120) -/
  freed : Nat := 0
  /-- decompressed bytes where `bytes` does not hold them; the open frame states its encoded size (R128); its codec -/
  produced : Nat := 0
  sized : Bool := false
  codec : Nat := 0
  /-- the decompressor's inner state, where the end of the chunk saves it (R124) -/
  ctx : DecCtx := {}
  deriving DecidableEq, Repr

/-- The rows of a batch that opens (R292, R310): its chunk and the last chunk that holds a row of it, the step of its
first position, positions drawn, rows delivered and dropped, a short batch, token offsets and extents (Table SAMP-6). -/
structure BatchEnv where
  chunk : Nat
  last : Nat
  firstStep : Nat
  span : Nat
  rows : Nat
  dropped : Nat := 0
  short : Bool := false
  firstToken : Nat := 0
  endToken : Nat := 0
  extFirst : Nat := 0
  extCount : Nat := 0
  augStep : Nat := 2 ^ 64 - 1
  deriving DecidableEq, Repr

/-- A row that a SORT or TOPK operator reads (R266, R270): operator, logical tile, row of the chunk, key (none for null),
index. -/
structure SelRow where
  op : Nat
  tile : Nat
  row : Nat
  key : Option Nat
  idx : Nat
  deriving DecidableEq, Repr

/-- A sequence that a PACK or RAGGED operator reads (R288, R291): operator, logical tile, the input slab in which it
ends, its STEP, its tokens. -/
structure SeqIn where
  op : Nat
  tile : Nat
  slab : Nat
  step : Word
  tokens : List (BitVec 32)
  deriving DecidableEq, Repr

/-- What STAGE_START meets outside the device's registers and memory: entries of an order list in host memory, for the
positions drawn (R282), a list read that faults or returns poison; the rows that the stage's operators read; records
of partial lists in host memory, by operator and record number (R269). -/
structure StageEnv where
  list : List Word := []
  listBad : Bool := false
  rows : List SelRow := []
  seqs : List SeqIn := []
  lists : List (Nat × Nat × List Byte) := []
  deriving DecidableEq, Repr

/-- What a comparison of a bell entry with its shadow record finds in the array (R242): it differs, its parity is bad. -/
structure ScrubEnv where
  differs : Bool := false
  parityBad : Bool := false
  deriving DecidableEq, Repr

/-- Classes of the bandwidth split (R99). -/
inductive MemClass where
  | read | write | remote
  deriving DecidableEq, Repr

/-- An access of a unit to HBM or store memory, within one line of 64 B: the requester's page, the device address, the
bytes written or the number of bytes read, and whether the bytes written carry poison. -/
structure MemReq where
  page : Fin 512
  cls : MemClass := .read
  write : Bool := false
  addr : Nat
  data : List Byte := []
  len : Nat := 0
  poison : Bool := false
  deriving DecidableEq, Repr

/-- What the error code finds on a line that is read (R361, R368): byte offsets of the 64-bit words in error, of the
line as a whole in HBM; and the bus time the line took, in tokens (R99). -/
structure MemEnv where
  corrected : List Nat := []
  uncorr : List Nat := []
  cost : Nat := 1
  deriving DecidableEq, Repr

/-- The host's answer to a CXL.cache request (R384). -/
inductive HostResp where
  | data (bytes : List Byte) (poison : Bool)
  | done
  | refused
  deriving DecidableEq, Repr

/-- What a configuration read asks for (R381, R385): serial number, class code, identifiers, a DVSEC range size. -/
inductive CfgReg where
  | serial | classCode | ids
  | rangeSize (d : Fin 2)
  deriving DecidableEq, Repr

/-- A CXL.io configuration request (R381, R382, R395 to R398): bus and device number captured, the host's enables, the
PRI allocation, the MSI-X function mask, a read. -/
inductive CfgReq where
  | identity (bus : Byte) (dev : BitVec 5)
  | cacheEn (on : Bool)
  | memEn (on : Bool)
  | ats (on : Bool)
  | pasid (on : Bool)
  | pri (on : Bool)
  | priAlloc (n : Fin 513)
  | fnMask (on : Bool)
  | read (reg : CfgReg)
  deriving DecidableEq, Repr

/-- An HDM decoder that the host commits, or takes down (R385): base and size in units of 256 MiB, interleave ways,
log2 of the granule, DPA skip. -/
structure DecReq where
  commit : Bool := true
  base : BitVec 36
  size : BitVec 36
  ways : BitVec 4
  granLog2 : Nat := 12
  skip : Nat := 0
  deriving DecidableEq, Repr

/-- A sideband register access (R379, R474): to a register of the SBND page, to the mailbox data, to the STATUS of the
mailbox control word. -/
inductive SbReq where
  | regWrite (off : Fin 4096) (bytes : Nat) (v : Word)
  | mboxWrite (off : Fin 4096) (data : List Byte)
  | mboxRead (off : Fin 4096)
  | mboxStatus (st : Byte)
  deriving DecidableEq, Repr

/-- What starts a power-on reset (R454, R457). -/
inductive PorCause where
  | pwrok | baseUv | railUv | clockLoss
  deriving DecidableEq, Repr

/-- A firmware image that a source delivers (R431, R432): its 256 B header, the bytes fetched, SHA-256 of the signed
message, and whether the two HSS signatures verify (RFC 8554). -/
structure FwImage where
  header : List Byte
  fetched : Nat
  digest : List Byte
  avdorSig : Bool
  ownerSig : Bool := false
  deriving DecidableEq, Repr

/-- A burn of one fuse bit (R447): aborted by a sag, and the reads at the two margin references after it. -/
structure BurnRes where
  aborted : Bool := false
  lo : Bool := true
  hi : Bool := true
  deriving DecidableEq, Repr

/-- What a stack reports and how its channels train (R351, R352): height, die density, supported organisation, the
channels that fail at each rate tried, highest rate first. -/
structure StackEnv where
  height : Nat := 16
  dieGbit : Nat := 32
  orgOk : Bool := true
  fails : List (BitVec 32) := []
  deriving DecidableEq, Repr

/-- What a cold boot meets outside the device (R459): modules whose sideband comes up, what the boot sources deliver in
the order tried, the stacks, BIST of the two halves, the new boot tree's public key, health failures of the entropy
source, the burns of the boot counter and those of the other bits of step 12, a supply that does not recover, the
reference frequency in kHz. -/
structure BootEnv where
  sideband : BitVec 12 := 0xFFF
  images : List (Option FwImage) := []
  hbm : List StackEnv := []
  baseBist : Bool := true
  storeBist : Bool := true
  treePub : List Byte := []
  trngFails : Nat := 0
  burns : List BurnRes := []
  others : List BurnRes := []
  supplyLost : Bool := false
  refKhz : Nat := 100000
  deriving DecidableEq, Repr

/-- What a warm reset meets (R436): the digest of the firmware held matches, or else what the boot sources deliver. -/
structure WarmEnv where
  match_ : Bool := true
  images : List (Option FwImage) := []
  deriving DecidableEq, Repr


/-- The commands of the block: one constructor per row of spec/opcode_table.json, with its operands. -/
inductive Instr where
  -- register accesses (02)
  /-- REG_WRITE (R33) -/
  | regWrite (by_ : Writer) (port : Fin 3) (page : Fin 512) (off : Fin 4096) (bytes : Nat) (v : Word)
  /-- ENABLE (R42) -/
  | enable (page : Fin 512) (on : Bool)
  /-- BLOCK_DRAINED (R42) -/
  | blockDrained (page : Fin 512)
  /-- SRESET (R43) -/
  | sreset (page : Fin 512)
  /-- SRESET_DONE (R43) -/
  | sresetDone (page : Fin 512)
  /-- SHD_APPLY (R37) -/
  | shdApply (page : Fin 512)
  /-- CUE_ARM (R40) -/
  | cueArm (page : Fin 512) (arm : Bool) (sel : Fin 32)
  /-- ERR_FORCE (R409) -/
  | errForce (page : Fin 512) (bits : BitVec 32)
  /-- PERF_CLEAR (R41) -/
  | perfClear (page : Fin 512) (ctr : Fin 9)
  /-- PERF_CLEAR_ALL (R41) -/
  | perfClearAll (page : Fin 512)
  -- faults and recovery (15)
  /-- ERROR_DETECTED (R45) -/
  | errorDetected (page : Fin 512) (src : Fin 32) (arg : Nat)
  /-- SAFE_STATE_COMPLETE (R410) -/
  | safeStateComplete
  /-- QUIET_END (R415) -/
  | quietEnd (env : RecovEnv)
  /-- DBG_RECOV_GO (R422) -/
  | dbgRecovGo (env : RecovEnv)
  /-- RELEASE (R421) -/
  | release
  /-- IN_HOUR_EXPIRE (R421) -/
  | inHourExpire
  /-- DBG_1500_GO (R427) -/
  | dbg1500Go (stack : Fin 4) (instr : Byte)
  -- register fields with an action of their own (02, 03, 13)
  /-- GLB_LGRP_BIND (R50) -/
  | glbLgrpBind (port : Fin 3)
  /-- HMC0_ZONE_WRITE (R356) -/
  | hmc0ZoneWrite (fineGib : Byte) (clUnits : BitVec 6)
  /-- CMDQ_RING_ENABLE (R74) -/
  | cmdqRingEnable (ring : Fin 16)
  -- command rings (03, 14)
  /-- CMDQ_DOORBELL (R393) -/
  | cmdqDoorbell (ring : Fin 16) (off : Fin 4096) (bytes : Nat) (v : Word)
  /-- CMD_ENTRY_FETCH (R74) -/
  | cmdEntryFetch (ring : Fin 16) (entry : Option (List Byte))
  /-- CPL_WRITE_ACK (R392) -/
  | cplWriteAck (ring : Fin 16)
  /-- NOP (R391) -/
  | nop (ring : Fin 16)
  -- plans, stages and gongs (03)
  /-- PLAN_LOAD (R58) -/
  | planLoad (ring : Fin 16) (image : Option (List Byte))
  /-- ADMISSION_COPY_DONE (R58) -/
  | admissionCopyDone (copy : Option (List Byte))
  /-- PLAN_START (R63) -/
  | planStart (ring : Fin 16)
  /-- PLAN_STOP (R63) -/
  | planStop (ring : Fin 16)
  /-- PLAN_ABORT (R63) -/
  | planAbort (ring : Fin 16)
  /-- PLAN_UNLOAD (R63) -/
  | planUnload (ring : Fin 16)
  /-- PLAN_SET_PARAM (R69) -/
  | planSetParam (ring : Fin 16) (record : Option (List Word))
  /-- STAGE_START (R65) -/
  | stageStart (slot : Fin 16) (stage : Fin 64) (env : StageEnv)
  /-- TILE_ARRIVE (R66) -/
  | tileArrive (tile : Fin 64)
  /-- STEWARD_ARRIVE (R66) -/
  | stewardArrive (slot : Fin 16) (stw : Fin 16)
  /-- GONG_TIMEOUT (R68) -/
  | gongTimeout (slot : Fin 16) (stage : Fin 64)
  -- vector and scalar instructions of a tile thread (06)
  /-- VARITH (R162) -/
  | varith (tile : Fin 64) (th : Fin 8) (var : BitVec 3) (mask : BitVec 3) (ty : BitVec 4) (b : BitVec 5) (a : BitVec 5) (d : BitVec 5)
  /-- VFMA (R162) -/
  | vfma (tile : Fin 64) (th : Fin 8) (var : BitVec 3) (mask : BitVec 3) (ty : BitVec 4) (b : BitVec 5) (a : BitVec 5) (d : BitVec 5)
  /-- VLOGIC (R162) -/
  | vlogic (tile : Fin 64) (th : Fin 8) (var : BitVec 3) (mask : BitVec 3) (ty : BitVec 4) (b : BitVec 5) (a : BitVec 5) (d : BitVec 5)
  /-- VUNARY (R162) -/
  | vunary (tile : Fin 64) (th : Fin 8) (var : BitVec 3) (mask : BitVec 3) (ty : BitVec 4) (b : BitVec 5) (a : BitVec 5) (d : BitVec 5)
  /-- VTRANS (R158) -/
  | vtrans (tile : Fin 64) (th : Fin 8) (var : BitVec 3) (mask : BitVec 3) (ty : BitVec 4) (b : BitVec 5) (a : BitVec 5) (d : BitVec 5)
  /-- VCMP (R162) -/
  | vcmp (tile : Fin 64) (th : Fin 8) (var : BitVec 3) (mask : BitVec 3) (ty : BitVec 4) (b : BitVec 5) (a : BitVec 5) (d : BitVec 5)
  /-- VSEL (R162) -/
  | vsel (tile : Fin 64) (th : Fin 8) (var : BitVec 3) (mask : BitVec 3) (ty : BitVec 4) (b : BitVec 5) (a : BitVec 5) (d : BitVec 5)
  /-- VCVT (R154) -/
  | vcvt (tile : Fin 64) (th : Fin 8) (var : BitVec 3) (mask : BitVec 3) (ty : BitVec 4) (b : BitVec 5) (a : BitVec 5) (d : BitVec 5)
  /-- VMX (R155) -/
  | vmx (tile : Fin 64) (th : Fin 8) (var : BitVec 3) (mask : BitVec 3) (ty : BitVec 4) (b : BitVec 5) (a : BitVec 5) (d : BitVec 5)
  /-- VDEC (R162) -/
  | vdec (tile : Fin 64) (th : Fin 8) (var : BitVec 3) (mask : BitVec 3) (ty : BitVec 4) (b : BitVec 5) (a : BitVec 5) (d : BitVec 5)
  /-- VRED (R160) -/
  | vred (tile : Fin 64) (th : Fin 8) (var : BitVec 3) (mask : BitVec 3) (ty : BitVec 4) (b : BitVec 5) (a : BitVec 5) (d : BitVec 5)
  /-- VPERM (R162) -/
  | vperm (tile : Fin 64) (th : Fin 8) (var : BitVec 3) (mask : BitVec 3) (ty : BitVec 4) (b : BitVec 5) (a : BitVec 5) (d : BitVec 5)
  /-- VSORT_SORT64 (R256) -/
  | vsortSort64 (tile : Fin 64) (th : Fin 8) (mask : BitVec 3) (ty : BitVec 4) (b : BitVec 5) (a : BitVec 5) (d : BitVec 5)
  /-- VSORT_MERGE (R257) -/
  | vsortMerge (tile : Fin 64) (th : Fin 8) (mask : BitVec 3) (ty : BitVec 4) (b : BitVec 5) (a : BitVec 5) (d : BitVec 5)
  /-- VSORT_TOPK (R258) -/
  | vsortTopk (tile : Fin 64) (th : Fin 8) (mask : BitVec 3) (ty : BitVec 4) (b : BitVec 5) (a : BitVec 5) (d : BitVec 5)
  /-- VHASH (R172) -/
  | vhash (tile : Fin 64) (th : Fin 8) (var : BitVec 3) (mask : BitVec 3) (ty : BitVec 4) (b : BitVec 5) (a : BitVec 5) (d : BitVec 5)
  /-- VBUCKET (R171) -/
  | vbucket (tile : Fin 64) (th : Fin 8) (var : BitVec 3) (mask : BitVec 3) (ty : BitVec 4) (b : BitVec 5) (a : BitVec 5) (d : BitVec 5)
  /-- VNORM (R170) -/
  | vnorm (tile : Fin 64) (th : Fin 8) (var : BitVec 3) (mask : BitVec 3) (ty : BitVec 4) (b : BitVec 5) (a : BitVec 5) (d : BitVec 5)
  /-- VLD (R162) -/
  | vld (tile : Fin 64) (th : Fin 8) (imm : BitVec 12) (f3 : BitVec 3) (a : BitVec 5) (d : BitVec 5) (ecc : TmEcc)
  /-- VST (R162) -/
  | vst (tile : Fin 64) (th : Fin 8) (imm : BitVec 12) (f3 : BitVec 3) (a : BitVec 5) (d : BitVec 5)
  /-- VLDX (R162) -/
  | vldx (tile : Fin 64) (th : Fin 8) (var : BitVec 3) (mask : BitVec 3) (ty : BitVec 4) (b : BitVec 5) (a : BitVec 5) (d : BitVec 5) (ecc : TmEcc)
  /-- VSTX (R162) -/
  | vstx (tile : Fin 64) (th : Fin 8) (var : BitVec 3) (mask : BitVec 3) (ty : BitVec 4) (b : BitVec 5) (a : BitVec 5) (d : BitVec 5)
  /-- SLD (R162) -/
  | sld (tile : Fin 64) (th : Fin 8) (imm : BitVec 12) (f3 : BitVec 3) (a : BitVec 5) (d : BitVec 5) (ecc : TmEcc)
  /-- SST (R162) -/
  | sst (tile : Fin 64) (th : Fin 8) (imm : BitVec 12) (f3 : BitVec 3) (a : BitVec 5) (d : BitVec 5)
  /-- VMOVS (R162) -/
  | vmovs (tile : Fin 64) (th : Fin 8) (imm : BitVec 12) (f3 : BitVec 3) (a : BitVec 5) (d : BitVec 5)
  /-- VINS (R162) -/
  | vins (tile : Fin 64) (th : Fin 8) (imm : BitVec 12) (f3 : BitVec 3) (a : BitVec 5) (d : BitVec 5)
  /-- SALU (R162) -/
  | salu (tile : Fin 64) (th : Fin 8) (var : BitVec 3) (mask : BitVec 3) (ty : BitVec 4) (b : BitVec 5) (a : BitVec 5) (d : BitVec 5)
  /-- SALUI (R162) -/
  | salui (tile : Fin 64) (th : Fin 8) (imm : BitVec 12) (f3 : BitVec 3) (a : BitVec 5) (d : BitVec 5)
  /-- SLUI (R162) -/
  | slui (tile : Fin 64) (th : Fin 8) (imm : BitVec 20) (d : BitVec 5)
  /-- SCONST (R165) -/
  | sconst (tile : Fin 64) (th : Fin 8) (imm : BitVec 12) (f3 : BitVec 3) (a : BitVec 5) (d : BitVec 5)
  /-- SPARAM (R162) -/
  | sparam (tile : Fin 64) (th : Fin 8) (imm : BitVec 12) (f3 : BitVec 3) (a : BitVec 5) (d : BitVec 5)
  /-- SMISC (R162) -/
  | smisc (tile : Fin 64) (th : Fin 8) (imm : BitVec 12) (f3 : BitVec 3) (a : BitVec 5) (d : BitVec 5)
  /-- BR (R162) -/
  | br (tile : Fin 64) (th : Fin 8) (imm : BitVec 10) (b : BitVec 5) (a : BitVec 5) (cond : BitVec 5)
  /-- JMP (R162) -/
  | jmp (tile : Fin 64) (th : Fin 8) (imm : BitVec 25)
  /-- CALL (R162) -/
  | call (tile : Fin 64) (th : Fin 8) (imm : BitVec 25)
  /-- RET (R164) -/
  | ret (tile : Fin 64) (th : Fin 8) (imm : BitVec 25)
  /-- END (R147) -/
  | endThread (tile : Fin 64) (th : Fin 8) (imm : BitVec 25)
  -- instructions of a thread that use the tile's units (04, 06, 07, 08, 12)
  /-- STRM_ISSUE (R166) -/
  | strmIssue (tile : Fin 64) (th : Fin 8) (a : BitVec 5) (d : BitVec 5)
  /-- STRM_WAIT (R166) -/
  | strmWait (tile : Fin 64) (th : Fin 8) (a : BitVec 5) (d : BitVec 5)
  /-- STRM_TAKE (R167) -/
  | strmTake (tile : Fin 64) (th : Fin 8) (a : BitVec 5) (d : BitVec 5)
  /-- STRM_FREE (R169) -/
  | strmFree (tile : Fin 64) (th : Fin 8) (a : BitVec 5) (d : BitVec 5)
  /-- EVENT_GET (R335) -/
  | eventGet (tile : Fin 64) (th : Fin 8) (imm : BitVec 12) (a : BitVec 5) (d : BitVec 5)
  /-- EVENT_DONE (R335) -/
  | eventDone (tile : Fin 64) (th : Fin 8) (imm : BitVec 12) (a : BitVec 5) (d : BitVec 5)
  /-- EVENT_POST (R335) -/
  | eventPost (tile : Fin 64) (th : Fin 8) (imm : BitVec 12) (a : BitVec 5) (d : BitVec 5)
  /-- EVENT_DELAY (R335) -/
  | eventDelay (tile : Fin 64) (th : Fin 8) (imm : BitVec 12) (a : BitVec 5) (d : BitVec 5)
  /-- ITEM_BEGIN (R181) -/
  | itemBegin (tile : Fin 64) (th : Fin 8) (imm : BitVec 10) (b : BitVec 5) (a : BitVec 5)
  /-- ITEM_END (R183) -/
  | itemEnd (tile : Fin 64) (th : Fin 8) (imm : BitVec 10) (b : BitVec 5) (a : BitVec 5)
  /-- PROBE_LOOKUP (R211) -/
  | probeLookup (tile : Fin 64) (th : Fin 8) (mask : BitVec 3) (ty : BitVec 4) (b : BitVec 5) (a : BitVec 5) (d : BitVec 5)
  /-- PROBE_INSERT (R211) -/
  | probeInsert (tile : Fin 64) (th : Fin 8) (mask : BitVec 3) (ty : BitVec 4) (b : BitVec 5) (a : BitVec 5) (d : BitVec 5)
  /-- PROBE_UPDATE (R211) -/
  | probeUpdate (tile : Fin 64) (th : Fin 8) (mask : BitVec 3) (ty : BitVec 4) (b : BitVec 5) (a : BitVec 5) (d : BitVec 5)
  /-- CSRCH_SEARCH (R227) -/
  | csrchSearch (tile : Fin 64) (th : Fin 8) (mask : BitVec 3) (ty : BitVec 4) (b : BitVec 5) (a : BitVec 5) (d : BitVec 5)
  /-- CSRCH_TOKENISE (R227) -/
  | csrchTokenise (tile : Fin 64) (th : Fin 8) (mask : BitVec 3) (ty : BitVec 4) (b : BitVec 5) (a : BitVec 5) (d : BitVec 5)
  /-- CSRCH_RANGE (R227) -/
  | csrchRange (tile : Fin 64) (th : Fin 8) (mask : BitVec 3) (ty : BitVec 4) (b : BitVec 5) (a : BitVec 5) (d : BitVec 5)
  /-- PROJ_LOADW (R179) -/
  | projLoadw (tile : Fin 64) (th : Fin 8) (var : BitVec 3) (mask : BitVec 3) (ty : BitVec 4) (b : BitVec 5) (a : BitVec 5) (d : BitVec 5)
  /-- PROJ_MV (R180) -/
  | projMv (tile : Fin 64) (th : Fin 8) (var : BitVec 3) (mask : BitVec 3) (ty : BitVec 4) (b : BitVec 5) (a : BitVec 5) (d : BitVec 5)
  /-- PROJ_MVACC (R180) -/
  | projMvacc (tile : Fin 64) (th : Fin 8) (var : BitVec 3) (mask : BitVec 3) (ty : BitVec 4) (b : BitVec 5) (a : BitVec 5) (d : BitVec 5)
  /-- ITEM_DIVERT (R181) -/
  | itemDivert (tile : Fin 64) (th : Fin 8)
  /-- ITEM_RETURN (R182) -/
  | itemReturn (tile : Fin 64) (th : Fin 8) (pos : Nat)
  /-- DIVERT_TAKE (R182) -/
  | divertTake (tile : Fin 64)
  -- stream engines (04)
  /-- READ_LINE_RETURN (R92) -/
  | readLineReturn (tile : Fin 64) (slot : Fin 8) (n : Nat) (data : List Byte) (idx : List Word) (poison : Bool)
  /-- WRITE_ACK (R93) -/
  | writeAck (tile : Fin 64) (slot : Fin 8) (n : Nat) (idx : List Word) (ecc : TmEcc) (ok : Bool)
  /-- COMBINE_REQUEST (R87) -/
  | combineRequest (tile : Fin 64) (slot : Fin 8) (idx : Word)
  /-- XLATE_RESPONSE (R104) -/
  | xlateResponse (tile : Fin 64) (slot : Fin 8) (ok : Bool) (addr : Word)
  /-- PAGE_RESPONSE (R105) -/
  | pageResponse (page : Nat) (pasid : BitVec 20) (code : PageCode)
  /-- PF_TIMEOUT (R105) -/
  | pfTimeout (tile : Fin 64) (slot : Fin 8)
  /-- BWSPLIT_WINDOW (R99) -/
  | bwsplitWindow (stack : Fin 4)
  -- decoders and compressors (05)
  /-- DECODE_INPUT (R116) -/
  | decodeInput (dec : Fin 32) (unit : DecUnit)
  /-- DEC_STREAM_SWITCH (R123) -/
  | decStreamSwitch (dec : Fin 32) (ctx : DecCtx)
  /-- CONTEXT_RESTORE (R126) -/
  | contextRestore (dec : Fin 32)
  /-- DEC_ASSIST_RETURN (R119) -/
  | decAssistReturn (dec : Fin 32) (unit : DecUnit)
  /-- ECHO_CHECK_DONE (R136) -/
  | echoCheckDone (cmp : Fin 16) (slot : Fin 16) (op : Fin 256) (block : List Byte) (packed : List Byte) (head : List Byte) (tail : List Byte) (same : Bool)
  -- joins and aggregation (07)
  /-- PROBE_SERVE (R193) -/
  | probeServe (tile : Fin 64) (row : Option JoinRow)
  /-- PROBE_RESPONSE (R211) -/
  | probeResponse (tile : Fin 64)
  /-- GRACE_PASS (R196) -/
  | gracePass (tile : Fin 64)
  /-- HOT_REPLICATE (R209) -/
  | hotReplicate (tile : Fin 64)
  -- the Carillon (08)
  /-- CAR_SEARCH (R224) -/
  | carSearch (port : Fin 4) (parityBad : Bool)
  /-- CAR_INSERT (R232) -/
  | carInsert (ring : Fin 16) (records : Option (List Byte))
  /-- SHIFT_DONE (R233) -/
  | shiftDone (bell : Fin 32)
  /-- CAR_DELETE (R235) -/
  | carDelete (ring : Fin 16) (records : Option (List Byte))
  /-- CAR_MODIFY (R237) -/
  | carModify (ring : Fin 16) (records : Option (List Byte))
  /-- CAR_LOAD (R234) -/
  | carLoad (ring : Fin 16) (records : Option (List Byte))
  /-- CAR_SWAP (R238) -/
  | carSwap (ring : Fin 16)
  /-- CAR_REGAP (R234) -/
  | carRegap (ring : Fin 16)
  /-- WINDOW_WRITE (R216) -/
  | windowWrite (addr : Nat)
  /-- SCRUB_COMPARE (R242) -/
  | scrubCompare (bell : Fin 32) (env : ScrubEnv)
  /-- CAR_LOAD_DONE (R234) -/
  | carLoadDone (table : Fin 32)
  /-- CAR_REGAP_DONE (R234) -/
  | carRegapDone (table : Fin 32)
  -- augmentation, owner tables and batches (10, 11)
  /-- AUG_RECORD_READ (R286) -/
  | augRecordRead (slot : Fin 16) (op : Fin 256) (row : Word) (record : Option (List Byte))
  /-- AUG_REREAD (R286) -/
  | augReread (slot : Fin 16) (op : Fin 256) (row : Word)
  /-- AUG_WAIT_EXPIRE (R286) -/
  | augWaitExpire (slot : Fin 16) (op : Fin 256) (row : Word)
  /-- BATCH_OPEN (R314) -/
  | batchOpen (queue : Fin 64) (env : BatchEnv)
  /-- OWN_MAP (R303) -/
  | ownMap (slot : Fin 16) (table : Fin 64) (queue : Fin 64) (seq : Word) (off : Nat) (data : List Byte) (tile : Fin 64)
  /-- OWN_WRITE (R306) -/
  | ownWrite (ring : Fin 16) (records : Option (List Byte))
  /-- BATCH_COMPLETE (R312) -/
  | batchComplete (queue : Fin 64) (concealed : List Nat)
  /-- BATCH_COMMIT (R312) -/
  | batchCommit (queue : Fin 64)
  /-- BATQ_CONS (R313) -/
  | batqCons (queue : Fin 64) (door : Option (Fin 4096)) (bytes : Nat) (v : Word)
  /-- BATCH_DEADLINE (R320) -/
  | batchDeadline (queue : Fin 64) (seq : Word)
  -- events and flows (12)
  /-- EVENT_DOORBELL (R393) -/
  | eventDoorbell (ring : Fin 16) (off : Fin 4096) (bytes : Nat) (v : Word)
  /-- HOST_EVENT (R328) -/
  | hostEvent (ring : Fin 16) (ev : Option (List Byte))
  /-- EVENT_DELIVER (R334) -/
  | eventDeliver (slot : Fin 16)
  /-- RECLAIM (R334) -/
  | reclaim (tile : Fin 64) (th : Fin 8)
  /-- DELAY_RELEASE (R338) -/
  | delayRelease (slot : Fin 16)
  /-- ALIGN_RELEASE (R339) -/
  | alignRelease (group : Fin 32)
  /-- STREAM_IDLE (R339) -/
  | streamIdle (group : Fin 32) (stream : Fin 16)
  /-- HIST_CLEAR (R348) -/
  | histClear
  /-- POOL_HWM_CLEAR (R348) -/
  | poolHwmClear
  /-- WATCH_CLEAR (R348) -/
  | watchClear
  -- the beat, cues and wall time (12)
  /-- CUE_FIRE (R345) -/
  | cueFire (cue : Fin 32) (lost : List (Fin 512))
  /-- TIME_CUE_POST (R344) -/
  | timeCuePost (cue : Fin 32)
  /-- BEAT_CHECK (R342) -/
  | beatCheck (page : Fin 512)
  /-- TIME_SNAP_TAKE (R346) -/
  | timeSnapTake
  /-- SYNC_EDGE (R347) -/
  | syncEdge (falling : Bool)
  /-- SYNC_MISSING (R347) -/
  | syncMissing
  -- memory (13)
  /-- HBM_ACCESS (R359) -/
  | hbmAccess (req : MemReq) (env : MemEnv)
  /-- STORE_ACCESS (R368) -/
  | storeAccess (req : MemReq) (env : MemEnv)
  /-- HBM_SCRUB_READ (R362) -/
  | hbmScrubRead (stack : Fin 4) (addr : Nat) (env : MemEnv) (passDone : Bool)
  /-- STOR_SCRUB_READ (R368) -/
  | storScrubRead (bank : Fin 256) (addr : Nat) (env : MemEnv) (passDone : Bool)
  /-- HBM_TEMP_READ (R360) -/
  | hbmTempRead (stack : Fin 4) (temp : Byte)
  /-- HBM_REFRESH (R353) -/
  | hbmRefresh (stack : Fin 4) (pc : Fin 64) (bank : Nat) (rfm : Bool)
  /-- HPHY_STEP (R372) -/
  | hphyStep (phy : Fin 4) (stepNo : BitVec 4) (result : Fin 4) (chFail : BitVec 32)
  -- the CXL host link (14)
  /-- CXL_MEM_READ (R385) -/
  | cxlMemRead (port : Fin 3) (addr : Word) (env : MemEnv)
  /-- CXL_MEM_WRITE (R385) -/
  | cxlMemWrite (port : Fin 3) (addr : Word) (data : List Byte) (mask : BitVec 64) (poison : Bool) (env : MemEnv)
  /-- MEM_INV (R381) -/
  | memInv (port : Fin 3) (addr : Word)
  /-- MEM_SPEC_RD (R381) -/
  | memSpecRd (port : Fin 3) (addr : Word)
  /-- MEM_RD_FWD (R387) -/
  | memRdFwd (port : Fin 3) (id : Nat) (env : MemEnv)
  /-- MEM_WR_FWD (R387) -/
  | memWrFwd (port : Fin 3) (id : Nat) (env : MemEnv)
  /-- SNP_DATA (R381) -/
  | snpData (port : Fin 3) (addr : Word)
  /-- SNP_INV (R381) -/
  | snpInv (port : Fin 3) (addr : Word)
  /-- SNP_CUR (R381) -/
  | snpCur (port : Fin 3) (addr : Word)
  /-- CXL_CACHE_RESPONSE (R384) -/
  | cxlCacheResponse (id : Nat) (resp : HostResp)
  /-- CONFIG_REQUEST (R381) -/
  | configRequest (port : Fin 3) (req : CfgReq)
  /-- DECODER_COMMIT (R385) -/
  | decoderCommit (port : Fin 3) (dec : Fin 2) (req : DecReq)
  /-- ATS_INVALIDATE (R396) -/
  | atsInvalidate (port : Fin 3)
  /-- MSIX_UNMASK (R395) -/
  | msixUnmask (vec : Fin 2048)
  /-- FLIT_RETRY (R377) -/
  | flitRetry (link : Fin 3) (mod : Fin 4)
  /-- BIAS_SET (R388) -/
  | biasSet (ring : Fin 16)
  /-- FAST_LOOKUP (R399) -/
  | fastLookup (k : Fin 64) (off : Fin 4096) (data : List Byte) (parityBad : Bool) (fcycles : Nat)
  /-- FAST_LAT_CLEAR (R404) -/
  | fastLatClear
  /-- SIDEBAND_ACCESS (R379) -/
  | sidebandAccess (link : Fin 3) (req : SbReq)
  /-- LINK_TRAINED (R376) -/
  | linkTrained (link : Fin 3) (fails : List (BitVec 4))
  -- security, fuses and flash (16)
  /-- SEC_QUOTE_GO (R440) -/
  | secQuoteGo
  /-- QUOTE_DONE (R440) -/
  | quoteDone (ok : Bool)
  /-- SEC_EXTEND_GO (R437) -/
  | secExtendGo
  /-- FUSE_PROG_GO (R446) -/
  | fuseProgGo (bit : BitVec 16)
  /-- FUSE_BURN_DONE (R447) -/
  | fuseBurnDone (lo : Bool) (hi : Bool)
  /-- XSPI_CMD_GO (R450) -/
  | xspiCmdGo (v : Word)
  /-- XSPI_CMD_DONE (R450) -/
  | xspiCmdDone (data : List Byte)
  /-- XSPI_TIMEOUT (R453) -/
  | xspiTimeout
  /-- TRNG_HEALTH_FAIL (R444) -/
  | trngHealthFail
  -- resets (17)
  /-- POWER_ON_RESET (R454) -/
  | powerOnReset (cause : PorCause) (env : BootEnv)
  /-- COLD_RESET (R454) -/
  | coldReset (env : BootEnv)
  /-- PWROK_RISE (R459) -/
  | pwrokRise (env : BootEnv)
  /-- WARM_RESET (R456) -/
  | warmReset (by_ : Writer) (env : WarmEnv)
  /-- CXL_RESET (R454) -/
  | cxlReset (port : Fin 3) (env : WarmEnv)
  /-- RST_DOMAIN_GO (R458) -/
  | rstDomainGo (domain : BitVec 5)
  /-- WDT_KICK (R473) -/
  | wdtKick (stw : Fin 16)
  /-- WDT_EXPIRE (R473) -/
  | wdtExpire (stw : Fin 16) (env : WarmEnv)
  -- power, clocks, temperature and supplies (17)
  /-- PWR_REQ (R464) -/
  | pwrReq (v : Word)
  /-- PWR_DOMAIN_DONE (R463) -/
  | pwrDomainDone (domain : Fin 20)
  /-- SWITCH_FAIL (R478) -/
  | switchFail (domain : Fin 20)
  /-- POWER_ESTIMATE (R465) -/
  | powerEstimate (watts : Nat)
  /-- QUAD_CLOCK_GATE (R468) -/
  | quadClockGate (quad : Fin 16)
  /-- QUAD_CLOCK_RESTART (R468) -/
  | quadClockRestart (quad : Fin 16)
  /-- THRM_SAMPLE (R469) -/
  | thrmSample (temps : List (BitVec 8))
  /-- SUPV_SAMPLE (R461) -/
  | supvSample (mv : List Nat)
  /-- I3C_WRITE (R474) -/
  | i3cWrite (bytes : List Byte)
  /-- I3C_READ (R474) -/
  | i3cRead (addr : List Byte)
  /-- I3C_DAA (R474) -/
  | i3cDaa (addr : BitVec 7)
  deriving DecidableEq, Repr

end Sys2Proof
end

