-- ==== Sys2Proof/Decode.lean ====
section
/-!
DEFINITION. The command that a word spells by the bits of spec/opcode_table.json. The table gives no row any bits: the
block takes its commands from outside and decodes no command word, so no word spells one. (The instruction words that
the steward cores fetch, R162 and R163, arrive here as operands of the commands of their threads.)
-/

namespace Sys2Proof

/-- The command that the low `nbits` bits of `w` spell: none, since no row of the table has bits. -/
def decodeTableWord (_nbits _w : Nat) : Option Instr := none

end Sys2Proof
end

