-- ==== Sys2Proof/Config.lean ====
section
/-!
DEFINITION. What one part fixes and the spec leaves open, and the free values: constants without a body, so that
no proof can rest on a choice of theirs. The log entry of each is named.
-/

namespace Sys2Proof.Config

/-- A fresh free value: the k-th value the device picks where the spec states none (log 6). -/
opaque freeNat : Nat → Nat

/-- A byte of the OTP array as the factory left it (R445, log 4). -/
opaque otpByte : Nat → Byte

/-- The value a register field takes from fuses where Table SEC-5 gives no bit position (log 4): page, offset of
the register, low bit of the field. -/
opaque fuseField : Nat → Nat → Nat → Nat

/-- Sign and payload of a NaN result (log 20): what was computed, and its operands. -/
opaque nanBits : Nat → Nat → Nat → Nat

/-- Tininess detected after rounding rather than before (log 21; IEEE 754 leaves it to the implementer). -/
opaque tinyAfterRounding : Bool

/-- Which of two zeros of different sign MIN or MAX yields (log 22). -/
opaque zeroTie : Nat → Nat → Bool

/-- An element that an instruction writes where its rule states no value (log 23): operation, operands. -/
opaque elemFree : Nat → Nat → Nat → Nat

/-- VTRANS: the F32 pattern of a result that R158 bounds but does not fix (log 24): function, operands. -/
opaque trans : Nat → Nat → Nat → Nat

/-- Sticky flags that a VTRANS sets (log 24). -/
opaque transFlags : Nat → Nat → Nat → Nat

/-- A float reduction whose order of combination R159 leaves open (log 25): operation, register, mask. -/
opaque reduce : Nat → Nat → Nat → Nat

/-- Whether VRED SUMF64's balanced tree pairs neighbours, or halves of the register (log 25). -/
opaque sumPairsNeighbours : Bool

/-- PROJ: an output within the bound of R180 (log 26): the two input vectors' bits and the output's number. -/
opaque proj : Nat → Nat → Nat → Nat

/-- The host physical address that ATS answers for a PASID and a host virtual address (R396, log 31). -/
opaque ats : Nat → Nat → Nat

/-- SHA-256 of the boot ROM (R437), as a number in byte order, and the two Avdor keys, 60 B each, whose hashes it holds
(R432, log 160). -/
opaque romDigest : Nat
opaque romKey : Nat → BitVec 480

/-- The hash values of an LMS signature (R441): key (0 identity, else the boot tree's public key), leaf, message
(log 160). -/
opaque lmsSig : Nat → Nat → Nat → Nat

end Sys2Proof.Config
end

