-- ==== Sys2Proof/Machine/Float.lean ====
section
/-!
DEFINITION. Floating-point values of Table TILE-3 (R153): exact dyadic arithmetic, narrowed once to a format with
round to nearest even (R156). Bit patterns are `Nat`s below `2 ^ width`.
-/

namespace Sys2Proof.Machine

/-- A binary floating-point format: exponent bits, fraction bits, whether the top exponent holds infinities
(E4M3 has none: only S.1111.111 is NaN), and whether it holds NaNs at all (the MX element formats do not). -/
structure Fmt where
  eb : Nat
  fb : Nat
  hasInf : Bool := true
  hasNan : Bool := true
  deriving DecidableEq, Repr

namespace Fmt
def bf16 : Fmt := { eb := 8, fb := 7 }
def f16 : Fmt := { eb := 5, fb := 10 }
def f32 : Fmt := { eb := 8, fb := 23 }
def f64 : Fmt := { eb := 11, fb := 52 }
def e4m3 : Fmt := { eb := 4, fb := 3, hasInf := false }
def e5m2 : Fmt := { eb := 5, fb := 2 }
def e2m3 : Fmt := { eb := 2, fb := 3, hasInf := false, hasNan := false }
def e3m2 : Fmt := { eb := 3, fb := 2, hasInf := false, hasNan := false }
def e2m1 : Fmt := { eb := 2, fb := 1, hasInf := false, hasNan := false }
end Fmt

/-- Width of a format in bits. -/
def Fmt.width (f : Fmt) : Nat := 1 + f.eb + f.fb
def Fmt.bias (f : Fmt) : Nat := 2 ^ (f.eb - 1) - 1
/-- Exponent of the unit in the last place of a subnormal. -/
def Fmt.qmin (f : Fmt) : Int := 1 - (f.bias : Int) - (f.fb : Int)
/-- The magnitude code of infinity, in formats that have it. -/
def Fmt.infCode (f : Fmt) : Nat := (2 ^ f.eb - 1) * 2 ^ f.fb
/-- The magnitude code of the largest finite value. -/
def Fmt.maxCode (f : Fmt) : Nat :=
  if f.hasInf then f.infCode - 1
  else if f.hasNan then 2 ^ (f.eb + f.fb) - 2 else 2 ^ (f.eb + f.fb) - 1
/-- The sign bit's weight. -/
def Fmt.signBit (f : Fmt) : Nat := 2 ^ (f.eb + f.fb)

/-- What a bit pattern stands for: a NaN, an infinity, or the value (−1)^neg × m × 2^e. -/
inductive FVal where
  | nan
  | inf (neg : Bool)
  | fin (neg : Bool) (m : Nat) (e : Int)
  deriving DecidableEq, Repr

/-- The value of a bit pattern (R153). -/
def Fmt.value (f : Fmt) (x : Nat) : FVal :=
  let neg := x / f.signBit % 2 == 1
  let mag := x % f.signBit
  if f.hasInf && mag == f.infCode then .inf neg
  else if f.hasNan && mag > f.maxCode then .nan
  else if mag / 2 ^ f.fb == 0 then .fin neg mag f.qmin
  else .fin neg (mag % 2 ^ f.fb + 2 ^ f.fb) (f.qmin + ((mag / 2 ^ f.fb : Nat) : Int) - 1)

def Fmt.isNan (f : Fmt) (x : Nat) : Bool := f.value x == .nan
/-- A signalling NaN of the IEEE 754 formats: the top fraction bit clear. -/
def Fmt.isSnan (f : Fmt) (x : Nat) : Bool :=
  f.isNan x && f.hasInf && x / 2 ^ (f.fb - 1) % 2 == 0
/-- A subnormal number, for R156's flush to zero. -/
def Fmt.isSub (f : Fmt) (x : Nat) : Bool :=
  x % f.signBit != 0 && x % f.signBit / 2 ^ f.fb == 0

/-- The NaN a result takes. IEEE 754 leaves sign and payload open: they are the free value `Config.nanBits` of
what was computed (`tag`) and its operands; a format with infinities keeps the quiet bit set (log 20). -/
def Fmt.nan (f : Fmt) (tag a b : Nat) : Nat :=
  let free := Config.nanBits tag a b
  if f.hasInf then (free % 2) * f.signBit + f.infCode + 2 ^ (f.fb - 1) + free / 2 % 2 ^ (f.fb - 1)
  else (free % 2) * f.signBit + (f.signBit - 1)

/-- Sticky flags of a thread, by bit number (R156). -/
def flagNV : Nat := 1
def flagDZ : Nat := 2
def flagOF : Nat := 4
def flagUF : Nat := 8
def flagNX : Nat := 16
def flagPZ : Nat := 32

/-- Bits of a number's binary form. -/
def bitLen (m : Nat) : Nat := if m = 0 then 0 else Nat.log2 m + 1

/-- `m × 2^e`, as an integer multiple of `2^q`, rounded to nearest even; the flag says that bits were lost. -/
def scaleRne (m : Nat) (e q : Int) : Nat × Bool :=
  if q ≤ e then (m * 2 ^ (e - q).toNat, false)
  else
    let sh := (q - e).toNat
    let hi := m / 2 ^ sh
    let rem := m % 2 ^ sh
    let half := 2 ^ (sh - 1)
    let up := rem > half || (rem == half && hi % 2 == 1)
    (if up then hi + 1 else hi, rem != 0)

/-- What a narrowing does on overflow (R154, R155): the IEEE result (infinity, or NaN in E4M3), or the largest
finite value. -/
inductive OnOver where
  | ieee | saturate
  deriving DecidableEq, Repr

/-- The pattern of the exact value (−1)^neg × m × 2^e in a format, rounded to nearest even, with the flags OF, UF
and NX of IEEE 754 (R156). Whether tininess is detected before or after rounding is `Config.tinyAfterRounding`
(log 21). `tag`, `a`, `b` name the computation for a NaN made by an overflow of E4M3. -/
def Fmt.round (f : Fmt) (ovf : OnOver) (tag a b : Nat) (neg : Bool) (m : Nat) (e : Int) : Nat × Nat :=
  let sg := if neg then f.signBit else 0
  if m = 0 then (sg, 0)
  else
    let top : Int := e + (bitLen m : Int) - 1
    let q : Int := max (top - (f.fb : Int)) f.qmin
    let (mant, inexact) := scaleRne m e q
    let code := (q - f.qmin).toNat * 2 ^ f.fb + mant
    if code > f.maxCode then
      match ovf with
      | .saturate => (sg + f.maxCode, flagOF ||| flagNX)
      | .ieee => (if f.hasInf then sg + f.infCode else if f.hasNan then f.nan tag a b else sg + f.maxCode,
                  flagOF ||| flagNX)
    else
      let nmin : Int := f.qmin + (f.fb : Int)
      let (mu, _) := scaleRne m e (top - (f.fb : Int))
      let topU : Int := (top - (f.fb : Int)) + (bitLen mu : Int) - 1
      let tiny := if Config.tinyAfterRounding then decide (topU < nmin) else decide (top < nmin)
      (sg + code, if inexact then (if tiny then flagUF ||| flagNX else flagNX) else 0)

/-- Round an exact value of any kind. -/
def Fmt.ofVal (f : Fmt) (ovf : OnOver) (tag a b : Nat) : FVal → Nat × Nat
  | .nan => (f.nan tag a b, 0)
  | .inf neg =>
    if f.hasInf then ((if neg then f.signBit else 0) + f.infCode, 0)
    else match ovf with
      | .saturate => ((if neg then f.signBit else 0) + f.maxCode, 0)
      | .ieee => (f.nan tag a b, 0)
  | .fin neg m e => f.round ovf tag a b neg m e

/-- Flush a subnormal to zero of the same sign when TILE_CFG.FTZ is 1 (R156). -/
def Fmt.flush (f : Fmt) (ftz : Bool) (x : Nat) : Nat :=
  if ftz && f.isSub x then x / f.signBit * f.signBit else x

/-- Exact sum of two finite values; a zero sum is +0 unless both are −0. -/
def addExact (n1 : Bool) (m1 : Nat) (e1 : Int) (n2 : Bool) (m2 : Nat) (e2 : Int) : FVal :=
  let e := min e1 e2
  let a : Int := (m1 * 2 ^ (e1 - e).toNat : Nat)
  let b : Int := (m2 * 2 ^ (e2 - e).toNat : Nat)
  let s := (if n1 then -a else a) + (if n2 then -b else b)
  if s = 0 then .fin (n1 && n2) 0 e else .fin (decide (s < 0)) s.natAbs e

/-- Sum of two values. -/
def FVal.add : FVal → FVal → FVal
  | .nan, _ => .nan
  | _, .nan => .nan
  | .inf a, .inf b => if a == b then .inf a else .nan
  | .inf a, _ => .inf a
  | _, .inf b => .inf b
  | .fin n1 m1 e1, .fin n2 m2 e2 => addExact n1 m1 e1 n2 m2 e2

def FVal.neg : FVal → FVal
  | .nan => .nan
  | .inf a => .inf (!a)
  | .fin n m e => .fin (!n) m e

/-- Product of two values. -/
def FVal.mul : FVal → FVal → FVal
  | .nan, _ => .nan
  | _, .nan => .nan
  | .inf a, .inf b => .inf (a != b)
  | .inf a, .fin n m _ => if m = 0 then .nan else .inf (a != n)
  | .fin n m _, .inf b => if m = 0 then .nan else .inf (n != b)
  | .fin n1 m1 e1, .fin n2 m2 e2 => .fin (n1 != n2) (m1 * m2) (e1 + e2)

/-- Quotient, with 140 bits and a sticky bit kept below the exact quotient's top bit, so that one rounding of it
to any format of the device is the rounding of the exact quotient. -/
def FVal.div : FVal → FVal → FVal
  | .nan, _ => .nan
  | _, .nan => .nan
  | .inf _, .inf _ => .nan
  | .inf a, .fin n _ _ => .inf (a != n)
  | .fin n _ _, .inf b => .fin (n != b) 0 0
  | .fin n1 m1 e1, .fin n2 m2 e2 =>
    if m2 = 0 then (if m1 = 0 then .nan else .inf (n1 != n2))
    else
      let k := bitLen m2 + 140
      let q := m1 * 2 ^ k / m2
      let r := m1 * 2 ^ k % m2
      .fin (n1 != n2) (2 * q + (if r = 0 then 0 else 1)) (e1 - e2 - (k : Int) - 1)

/-- Integer square root, bit by bit from bit `k - 1` down. -/
def isqrtFrom (n : Nat) : Nat → Nat → Nat
  | 0, r => r
  | k + 1, r => isqrtFrom n k (if (r + 2 ^ k) * (r + 2 ^ k) ≤ n then r + 2 ^ k else r)

/-- Square root, with a sticky bit as in `FVal.div`. -/
def FVal.sqrt : FVal → FVal
  | .nan => .nan
  | .inf neg => if neg then .nan else .inf false
  | .fin neg m e =>
    if m = 0 then .fin neg 0 e
    else if neg then .nan
    else
      let (m1, e1) := if e % 2 = 0 then (m, e) else (2 * m, e - 1)
      let big := m1 * 2 ^ 280
      let r := isqrtFrom big (bitLen big / 2 + 1) 0
      .fin false (2 * r + (if r * r = big then 0 else 1)) (e1 / 2 - 140 - 1)

/-- Order of two values that are not NaN, −0 equal to +0: sign of `a − b` as −1, 0 or 1. -/
def FVal.cmp : FVal → FVal → Int
  | .inf a, .inf b => if a == b then 0 else if a then -1 else 1
  | .inf a, _ => if a then -1 else 1
  | _, .inf b => if b then 1 else -1
  | .fin n1 m1 e1, .fin n2 m2 e2 =>
    match addExact n1 m1 e1 (!n2) m2 e2 with
    | .fin neg m _ => if m = 0 then 0 else if neg then -1 else 1
    | _ => 0
  | _, _ => 0

/-- A two-operand IEEE 754 operation: its exact result, rounded once, and the flags (R156). A NaN result of
operands none of which is NaN, and a signalling NaN operand, set NV. -/
def Fmt.arith2 (f : Fmt) (ftz : Bool) (tag : Nat) (op : FVal → FVal → FVal) (a b : Nat) : Nat × Nat :=
  let a := f.flush ftz a
  let b := f.flush ftz b
  let v := op (f.value a) (f.value b)
  let (r, fl) := f.ofVal .ieee tag a b v
  let nv := (v == .nan && !(f.isNan a || f.isNan b)) || f.isSnan a || f.isSnan b
  (f.flush ftz r, fl ||| (if nv then flagNV else 0))

/-- Division: a finite non-zero number over zero also sets DZ (R156). -/
def Fmt.fdiv (f : Fmt) (ftz : Bool) (a b : Nat) : Nat × Nat :=
  let (r, fl) := f.arith2 ftz 4 FVal.div a b
  let dz := match f.value (f.flush ftz a), f.value (f.flush ftz b) with
    | .fin _ m _, .fin _ 0 _ => m != 0
    | _, _ => false
  (r, fl ||| (if dz then flagDZ else 0))

/-- a × b + c with one rounding (R156). `na` negates the product, `nc` the addend. -/
def Fmt.fma (f : Fmt) (ftz na nc : Bool) (a b c : Nat) : Nat × Nat :=
  let a := f.flush ftz a
  let b := f.flush ftz b
  let c := f.flush ftz c
  let p := (f.value a).mul (f.value b)
  let p := if na then p.neg else p
  let vc := if nc then (f.value c).neg else f.value c
  let v := p.add vc
  let (r, fl) := f.ofVal .ieee 5 (a + 2 ^ 64 * b) c v
  let anyNan := f.isNan a || f.isNan b || f.isNan c
  let nv := (v == .nan && !anyNan) || f.isSnan a || f.isSnan b || f.isSnan c
    || (p == .nan && !(f.isNan a || f.isNan b))
  (f.flush ftz r, fl ||| (if nv then flagNV else 0))

/-- Square root (R156). -/
def Fmt.fsqrt (f : Fmt) (ftz : Bool) (a : Nat) : Nat × Nat :=
  f.arith2 ftz 6 (fun x _ => x.sqrt) a 0

/-- MIN and MAX: a NaN operand yields the other operand (R156). Between zeros of different sign the rule states no
choice: `Config.zeroTie` makes it (log 22). -/
def Fmt.minmax (f : Fmt) (ftz isMax : Bool) (a b : Nat) : Nat :=
  let a := f.flush ftz a
  let b := f.flush ftz b
  if f.isNan a then b
  else if f.isNan b then a
  else
    let c := (f.value a).cmp (f.value b)
    if c = 0 then (if Config.zeroTie a b then a else b)
    else if (decide (c < 0)) != isMax then a else b

/-- a = b, a < b, a ≤ b as R156 orders them: false when either is NaN. -/
def Fmt.feq (f : Fmt) (a b : Nat) : Bool :=
  !(f.isNan a || f.isNan b) && (f.value a).cmp (f.value b) == 0
def Fmt.flt (f : Fmt) (a b : Nat) : Bool :=
  !(f.isNan a || f.isNan b) && decide ((f.value a).cmp (f.value b) < 0)
def Fmt.fle (f : Fmt) (a b : Nat) : Bool :=
  !(f.isNan a || f.isNan b) && decide ((f.value a).cmp (f.value b) ≤ 0)

end Sys2Proof.Machine
end

