-- ==== Sys2Proof/Machine/Lanes.lean ====
section
/-!
DEFINITION. The vector unit: elements of registers (R149, R150), element types (Table TILE-3), and what each
vector instruction of Table TILE-6 computes, as functions of register contents. Sticky flags come back as a number.
-/

namespace Sys2Proof.Machine

/-- Width of an element type in bits (Table TILE-3). -/
def tyWidth (t : Nat) : Nat :=
  if t = 0 || t = 4 || t = 12 || t = 13 then 8
  else if t = 1 || t = 5 || t = 8 || t = 9 then 16
  else if t = 2 || t = 6 || t = 10 then 32
  else if t = 3 || t = 7 || t = 11 then 64
  else 4

/-- The floating-point format of an element type, none for the integer types. -/
def tyFmt (t : Nat) : Option Fmt :=
  if t = 8 then some .bf16 else if t = 9 then some .f16 else if t = 10 then some .f32
  else if t = 11 then some .f64 else if t = 12 then some .e4m3 else if t = 13 then some .e5m2 else none

/-- The type is two's complement. -/
def tySigned (t : Nat) : Bool := t ≤ 3 || t = 14

/-- FTZ governs types 8 to 11 only (R156). -/
def ftzOf (t : Nat) (ftz : Bool) : Bool := ftz && 8 ≤ t && t ≤ 11

/-- Element j of width w of a number (R149). -/
def elem (x w j : Nat) : Nat := x / 2 ^ (w * j) % 2 ^ w

/-- The number whose elements of width w are f 0 to f (n − 1). -/
def pack (w n : Nat) (f : Nat → Nat) : Nat :=
  (List.range n).foldr (fun j acc => acc + (f j % 2 ^ w) * 2 ^ (w * j)) 0

/-- Two's complement value of a w-bit pattern. -/
def toS (w x : Nat) : Int := if x % 2 ^ w ≥ 2 ^ (w - 1) then (x % 2 ^ w : Int) - 2 ^ w else (x % 2 ^ w : Int)

/-- The w-bit pattern of an integer, modulo 2^w. -/
def ofI (w : Nat) (i : Int) : Nat := (i % (2 ^ w : Int)).toNat

/-- Value of an integer pattern of a type. -/
def tyInt (t x : Nat) : Int := if tySigned t then toS (tyWidth t) x else (x % 2 ^ tyWidth t : Nat)

/-- Write the n elements of width w of register d that the mask selects (R149); the others keep their value. The
sticky flags of the elements written are joined. -/
def lanes (w n : Nat) (mask d : Nat) (f : Nat → Nat × Nat) : Nat × Nat :=
  let sel := fun j => mask / 2 ^ j % 2 == 1
  (pack w (2048 / w) fun j => if j < n && sel j then (f j).1 else elem d w j,
   (List.range n).foldl (fun fl j => if sel j then fl ||| (f j).2 else fl) 0)

/-- Integer division and remainder of R157; the flag says division by zero. -/
def intDiv (t a b : Nat) : Nat × Nat :=
  let w := tyWidth t
  if b % 2 ^ w = 0 then (2 ^ w - 1, flagDZ)
  else if tySigned t then (ofI w (Int.tdiv (tyInt t a) (tyInt t b)), 0)
  else (a / b, 0)
def intRem (t a b : Nat) : Nat × Nat :=
  let w := tyWidth t
  if b % 2 ^ w = 0 then (a, flagDZ)
  else if tySigned t then (ofI w (Int.tmod (tyInt t a) (tyInt t b)), 0)
  else (a % b, 0)

/-- VARITH on one element (0x01). A signed absolute difference that the type cannot hold has no stated value:
`Config.elemFree` (log 23). -/
def varithElem (var t : Nat) (ftz : Bool) (a b : Nat) : Nat × Nat :=
  let w := tyWidth t
  match tyFmt t with
  | some f =>
    let z := ftzOf t ftz
    match var with
    | 0 => f.arith2 z 1 FVal.add a b
    | 1 => f.arith2 z 2 (fun x y => x.add y.neg) a b
    | 2 => f.arith2 z 3 FVal.mul a b
    | 3 => (f.minmax z false a b, 0)
    | 4 => (f.minmax z true a b, 0)
    | 5 => let (r, fl) := f.arith2 z 2 (fun x y => x.add y.neg) a b; (r % f.signBit, fl)
    | _ => f.fdiv z a b
  | none =>
    match var with
    | 0 => ((a + b) % 2 ^ w, 0)
    | 1 => (ofI w ((a : Int) - (b : Int)), 0)
    | 2 => (a * b % 2 ^ w, 0)
    | 3 => (if tyInt t a ≤ tyInt t b then a else b, 0)
    | 4 => (if tyInt t a ≤ tyInt t b then b else a, 0)
    | 5 =>
      let d := (tyInt t a - tyInt t b).natAbs
      (if tySigned t && d ≥ 2 ^ (w - 1) then Config.elemFree 5 a b % 2 ^ w else d % 2 ^ w, 0)
    | 6 => intDiv t a b
    | _ => intRem t a b

def varith (var t : Nat) (ftz : Bool) (mask a b d : Nat) : Nat × Nat :=
  let w := tyWidth t
  lanes w (2048 / w) mask d fun j => varithElem var t ftz (elem a w j) (elem b w j)

/-- DOT2 and DOT4 (0x02): the products are exact and the sum with the accumulator is rounded once (R156); integer
sums wrap in I32. -/
def dotElem (t k : Nat) (ftz : Bool) (a b d : Nat) : Nat × Nat :=
  let w := tyWidth t
  match tyFmt t with
  | none =>
    let s := (List.range k).foldl (fun s i => s + tyInt t (elem a w i) * tyInt t (elem b w i)) (0 : Int)
    (ofI 32 ((d : Int) + s), 0)
  | some f =>
    let z := ftzOf t ftz
    let ea := fun i => f.flush z (elem a w i)
    let eb := fun i => f.flush z (elem b w i)
    let dd := Fmt.f32.flush ftz d
    let s := (List.range k).foldl (fun s i => s.add ((f.value (ea i)).mul (f.value (eb i)))) (Fmt.f32.value dd)
    let (r, fl) := Fmt.f32.ofVal .ieee 7 (a + 2 ^ 32 * b) d s
    let anyNan := (List.range k).any (fun i => f.isNan (ea i) || f.isNan (eb i)) || Fmt.f32.isNan dd
    let snan := (List.range k).any (fun i => f.isSnan (ea i) || f.isSnan (eb i)) || Fmt.f32.isSnan dd
    (Fmt.f32.flush ftz r, fl ||| (if (s == .nan && !anyNan) || snan then flagNV else 0))

/-- VFMA (0x02). -/
def vfma (var t : Nat) (ftz : Bool) (mask a b d : Nat) : Nat × Nat :=
  let w := tyWidth t
  if var = 3 then lanes 32 64 mask d fun j => dotElem t 2 ftz (elem a 32 j) (elem b 32 j) (elem d 32 j)
  else if var = 4 then lanes 32 64 mask d fun j => dotElem t 4 ftz (elem a 32 j) (elem b 32 j) (elem d 32 j)
  else match tyFmt t with
    | none => (d, 0)
    | some f => lanes w (2048 / w) mask d fun j =>
        f.fma (ftzOf t ftz) (var == 2) (var == 1) (elem a w j) (elem b w j) (elem d w j)

/-- VLOGIC on one element (0x03): the shift count is b mod w. -/
def vlogicElem (var w a b : Nat) : Nat :=
  let c := b % w
  match var with
  | 0 => a &&& b
  | 1 => a ||| b
  | 2 => a ^^^ b
  | 3 => a &&& (2 ^ w - 1 - b)
  | 4 => a * 2 ^ c % 2 ^ w
  | 5 => a / 2 ^ c
  | 6 => ofI w (toS w a / 2 ^ c)
  | _ => (a * 2 ^ c % 2 ^ w) ||| (a / 2 ^ (w - c))

def vlogic (var t : Nat) (mask a b d : Nat) : Nat × Nat :=
  let w := tyWidth t
  lanes w (2048 / w) mask d fun j => (vlogicElem var w (elem a w j) (elem b w j), 0)

/-- Leading zeros of a w-bit pattern. -/
def clz (w a : Nat) : Nat := w - bitLen a
/-- Bits set in the low n bits. -/
def popcount (n a : Nat) : Nat := (List.range n).foldl (fun c i => c + a / 2 ^ i % 2) 0
/-- The bytes of a w-bit pattern in reverse order. -/
def bswap (w a : Nat) : Nat := pack 8 (w / 8) fun i => elem a 8 (w / 8 - 1 - i)

/-- VUNARY on one element (0x04). The magnitude of the most negative integer has no stated value (log 23). -/
def vunaryElem (var t : Nat) (ftz : Bool) (a : Nat) : Nat × Nat :=
  let w := tyWidth t
  match var, tyFmt t with
  | 0, _ => (a, 0)
  | 1, some f => ((a + f.signBit) % 2 ^ w, 0)
  | 1, none => (ofI w (-(a : Int)), 0)
  | 2, some f => (a % f.signBit, 0)
  | 2, none =>
    (if tySigned t then
      (if a = 2 ^ (w - 1) then Config.elemFree 2 a 0 % 2 ^ w else (toS w a).natAbs) else a, 0)
  | 3, _ => (2 ^ w - 1 - a, 0)
  | 4, some f => f.fsqrt (ftzOf t ftz) a
  | 4, none => (a, 0)
  | 5, _ => (clz w a, 0)
  | 6, _ => (popcount w a, 0)
  | _, _ => (bswap w a, 0)

def vunary (var t : Nat) (ftz : Bool) (mask a d : Nat) : Nat × Nat :=
  let w := tyWidth t
  lanes w (2048 / w) mask d fun j => vunaryElem var t ftz (elem a w j)

/-- Whether a finite value is an integer, and an odd one. -/
def FVal.isInt : FVal → Bool
  | .fin _ m e => m = 0 || decide (0 ≤ e) || m % 2 ^ (-e).toNat = 0
  | _ => false
def FVal.isOdd : FVal → Bool
  | .fin _ m e => if 0 ≤ e then e = 0 && m % 2 = 1 else m % 2 ^ (-e).toNat = 0 && m / 2 ^ (-e).toNat % 2 = 1
  | _ => false
def FVal.isNeg : FVal → Bool
  | .fin n _ _ => n
  | .inf n => n
  | .nan => false
def one : FVal := .fin false 1 0

/-- The special values of pow in IEEE 754-2019 clause 9.2 (R158); none where the result is an ordinary one. -/
def powSpecial (x y : FVal) : Option FVal :=
  match x, y with
  | _, .fin _ 0 _ => some one
  | .nan, _ => some .nan
  | x, .nan => if x.cmp one == 0 then some one else some .nan
  | .fin _ 0 _, .inf yn => some (if yn then .inf false else .fin false 0 0)
  | .fin n 0 _, y =>
    let neg := n && y.isOdd
    some (if y.isNeg then .inf neg else .fin neg 0 0)
  | x, .inf yn =>
    let ax : FVal := match x with | .fin _ m e => .fin false m e | .inf _ => .inf false | .nan => .nan
    let c := ax.cmp one
    some (if c = 0 then one else if (decide (c > 0)) != yn then .inf false else .fin false 0 0)
  | .inf n, y =>
    let neg := n && y.isOdd
    some (if y.isNeg then .fin neg 0 0 else .inf neg)
  | x, y =>
    if x.cmp one == 0 then some one
    else if x.isNeg && !y.isInt then some .nan else none

/-- The special values of the VTRANS functions (R158): NaN operands, zeros, infinities, the poles and the invalid
arguments; none where the result is an ordinary one. -/
def transSpecial (var : Nat) (x y : FVal) : Option FVal :=
  let mone : FVal := .fin true 1 0
  match var with
  | 0 => match x with
    | .nan => some .nan
    | .inf n => some (if n then .nan else .inf false)
    | .fin _ 0 _ => some (.inf true)
    | .fin n m e => if n then some .nan else if (FVal.fin n m e).cmp one == 0 then some (.fin false 0 0) else none
  | 1 => match x with
    | .nan => some .nan
    | .inf n => some (if n then .nan else .inf false)
    | .fin n 0 e => some (.fin n 0 e)
    | x => let c := x.cmp mone
           if c = 0 then some (.inf true) else if c < 0 then some .nan else none
  | 2 => match x with
    | .nan => some .nan
    | .inf n => some (if n then .fin false 0 0 else .inf false)
    | .fin _ 0 _ => some one
    | _ => none
  | 3 => match x with
    | .nan => some .nan
    | .inf n => some (.fin n 1 0)
    | .fin n 0 e => some (.fin n 0 e)
    | _ => none
  | _ => powSpecial x y

/-- VTRANS on one element (0x05): special values as stated; any other result is the free value `Config.trans`, an
F32 pattern rounded once to the element type (R158, log 24). -/
def vtransElem (var t : Nat) (ftz : Bool) (a b : Nat) : Nat × Nat :=
  match tyFmt t with
  | none => (a, 0)
  | some f =>
    let a := f.flush ftz a
    let b := f.flush ftz b
    let fl := Config.transFlags var a b % 32
    match transSpecial var (f.value a) (f.value b) with
    | some v => (f.flush ftz (f.ofVal .ieee (10 + var) a b v).1, fl)
    | none =>
      (f.flush ftz (f.ofVal .ieee (10 + var) a b (Fmt.f32.value (Config.trans var a b % 2 ^ 32))).1, fl)

def vtrans (var t : Nat) (ftz : Bool) (mask a b d : Nat) : Nat × Nat :=
  let w := tyWidth t
  lanes w (2048 / w) mask d fun j => vtransElem var t ftz (elem a w j) (elem b w j)

/-- VCMP's test on one element (0x06). -/
def vcmpElem (var t : Nat) (ftz : Bool) (a b : Nat) : Bool :=
  match var, tyFmt t with
  | 5, _ => a &&& b != 0
  | 4, some f => f.isNan a || f.isNan b
  | 4, none => false
  | 0, some f => f.feq (f.flush (ftzOf t ftz) a) (f.flush (ftzOf t ftz) b)
  | 1, some f => !f.feq (f.flush (ftzOf t ftz) a) (f.flush (ftzOf t ftz) b)
  | 2, some f => f.flt (f.flush (ftzOf t ftz) a) (f.flush (ftzOf t ftz) b)
  | _, some f => f.fle (f.flush (ftzOf t ftz) a) (f.flush (ftzOf t ftz) b)
  | 0, none => a == b
  | 1, none => a != b
  | 2, none => decide (tyInt t a < tyInt t b)
  | _, none => decide (tyInt t a ≤ tyInt t b)

/-- The mask that VCMP writes: bit j is 1 when element j satisfies the test and MASK selects it; bits at or above
the element count are 0. -/
def vcmp (var t : Nat) (ftz : Bool) (mask a b : Nat) : Nat :=
  let w := tyWidth t
  (List.range (2048 / w)).foldl
    (fun m j => if mask / 2 ^ j % 2 == 1 && vcmpElem var t ftz (elem a w j) (elem b w j) then m + 2 ^ j else m) 0

/-- VSEL (0x07): the mask selects and does not guard. -/
def vsel (t mask a b : Nat) : Nat :=
  let w := tyWidth t
  pack w (2048 / w) fun j => if mask / 2 ^ j % 2 == 1 then elem a w j else elem b w j

/-- An exact value to an integer, toward zero or to nearest even. -/
def toIntRne (neg : Bool) (m : Nat) (e : Int) (rne : Bool) : Int :=
  let mag := if 0 ≤ e then m * 2 ^ e.toNat
    else if rne then (scaleRne m e 0).1 else m / 2 ^ (-e).toNat
  if neg then -(mag : Int) else mag

/-- Range of an integer type. -/
def tyMin (t : Nat) : Int := if tySigned t then -(2 ^ (tyWidth t - 1) : Int) else 0
def tyMax (t : Nat) : Int := if tySigned t then 2 ^ (tyWidth t - 1) - 1 else 2 ^ tyWidth t - 1
def saturate (t : Nat) (i : Int) : Int := max (tyMin t) (min (tyMax t) i)

/-- One element of VCVT, or of a stream descriptor's CONV (R154, R296): from type `s` to type `t`, `var` bit 0 SAT,
bit 1 RNE. -/
def vcvtElem (s t var : Nat) (ftz : Bool) (a : Nat) : Nat × Nat :=
  let sat := var % 2 == 1
  let rne := var / 2 % 2 == 1
  match tyFmt s, tyFmt t with
  | some f, some g =>
    let a := f.flush (ftzOf s ftz) a
    let v := f.value a
    let ovf := if sat && (t = 12 || t = 13) then OnOver.saturate else OnOver.ieee
    let (r, fl) := g.ofVal ovf 8 a 0 v
    (g.flush (ftzOf t ftz) r, fl ||| (if f.isSnan a then flagNV else 0))
  | none, some g =>
    let i := tyInt s a
    let ovf := if sat && (t = 12 || t = 13) then OnOver.saturate else OnOver.ieee
    g.ofVal ovf 8 a 0 (.fin (decide (i < 0)) i.natAbs 0)
  | some f, none =>
    let a := f.flush (ftzOf s ftz) a
    match f.value a with
    | .nan => (0, flagNV)
    | .inf neg => (ofI (tyWidth t) (if neg then tyMin t else tyMax t), flagNV)
    | .fin neg m e =>
      let i := toIntRne neg m e rne
      let c := saturate t i
      (ofI (tyWidth t) c, if c = i then 0 else flagNV)
  | none, none =>
    let i := tyInt s a
    (ofI (tyWidth t) (if sat && tyWidth t < tyWidth s then saturate t i else i), 0)

/-- VCVT (0x08): PART selects the source elements of a widening and the destination elements of a narrowing; with
equal widths the field is the write mask (R154). `mask` is the mask register then. -/
def vcvt (s t var part : Nat) (ftz : Bool) (mask a d : Nat) : Nat × Nat :=
  let ws := tyWidth s
  let wt := tyWidth t
  let n := 2048 / max ws wt
  if ws = wt then lanes wt n mask d fun j => vcvtElem s t var ftz (elem a ws j)
  else if ws < wt then lanes wt n (2 ^ 512 - 1) d fun j => vcvtElem s t var ftz (elem a ws (part * n + j))
  else
    (pack wt (2048 / wt) fun j =>
        if part * n ≤ j && j < part * n + n then (vcvtElem s t var ftz (elem a ws (j - part * n))).1 else elem d wt j,
     (List.range n).foldl (fun fl j => fl ||| (vcvtElem s t var ftz (elem a ws j)).2) 0)

/-- Element width, emax and float format of an MX block format (Table TILE-4); MXINT8 has no float format. -/
def mxBits (c : Nat) : Nat := if c ≤ 1 || c = 5 then 8 else if c ≤ 3 then 6 else 4
def mxEmax (c : Nat) : Nat :=
  if c = 0 then 8 else if c = 1 then 15 else if c = 2 then 2 else if c = 3 then 4 else if c = 4 then 2 else 0
def mxFmt (c : Nat) : Option Fmt :=
  if c = 0 then some .e4m3 else if c = 1 then some .e5m2 else if c = 2 then some .e2m3
  else if c = 3 then some .e3m2 else if c = 4 then some .e2m1 else none

/-- The E8M0 scale code of a block (R155, step 2). -/
def mxScale (c : Nat) (xs : List Nat) : Nat :=
  if xs.any (fun x => x % 2 ^ 31 ≥ Fmt.f32.infCode) then 0xFF
  else
    let amax := xs.foldl (fun m x => max m (x % 2 ^ 31)) 0
    match Fmt.f32.value amax with
    | .fin _ 0 _ => 0
    | .fin _ m e => (max 0 (min 254 (e + (bitLen m : Int) - 1 - (mxEmax c : Int) + 127))).toNat
    | _ => 0xFF

/-- One packed element (R155, step 3). In a block whose scale is the NaN code the quotient is not stated: a free
value (log 23). -/
def mxPackElem (c : Nat) (sat : Bool) (scale x : Nat) : Nat × Nat :=
  if scale = 0xFF then (Config.elemFree 9 c x % 2 ^ mxBits c, 0)
  else match Fmt.f32.value x with
    | .fin neg m e =>
      let e' := e - ((scale : Int) - 127)
      match mxFmt c with
      | some f => f.round (if c ≤ 1 && !sat then .ieee else .saturate) 9 x scale neg m e'
      | none =>
        let i := toIntRne neg m (e' + 6) true
        let k := max (-128) (min 127 i)
        (ofI 8 k, if i = k then 0 else flagOF)
    | _ => (Config.elemFree 9 c x % 2 ^ mxBits c, 0)

/-- One unpacked element: element × scale, rounded to F32 (R155). -/
def mxUnpackElem (c scale x : Nat) : Nat × Nat :=
  if scale = 0xFF then (Fmt.f32.nan 9 c x, 0)
  else
    let v : FVal := match mxFmt c with
      | some f => f.value x
      | none => .fin (decide (toS 8 x < 0)) (toS 8 x).natAbs (-6)
    match v with
    | .fin neg m e => Fmt.f32.round .ieee 9 x scale neg m (e + (scale : Int) - 127)
    | v => Fmt.f32.ofVal .ieee 9 x scale v

/-- VMX PACK (0x09, VAR[1] = 0): both blocks, their scales at bytes 64 and 65, zeros from byte 66. -/
def vmxPack (c : Nat) (sat : Bool) (a : Nat) : Nat :=
  let blk := fun k => (List.range 32).map fun j => elem a 32 (32 * k + j)
  let sc := fun k => mxScale c (blk k)
  let b := mxBits c
  let body := fun k => pack b 32 fun j => (mxPackElem c sat (sc k) (elem a 32 (32 * k + j))).1
  body 0 + body 1 * 2 ^ (32 * b) + sc 0 * 2 ^ 512 + sc 1 * 2 ^ 520

/-- VMX UNPACK (0x09, VAR[1] = 1). -/
def vmxUnpack (c a : Nat) : Nat × Nat :=
  let b := mxBits c
  let r := fun j => mxUnpackElem c (elem a 8 (64 + j / 32)) (a / 2 ^ (b * j) % 2 ^ b)
  (pack 32 64 fun j => (r j).1, (List.range 64).foldl (fun fl j => fl ||| (r j).2) 0)

/-- A 128-bit coefficient, beyond 38 digits saturated with OF (R162, 0x0A). -/
def decSat (i : Int) : Nat × Nat :=
  if i > 10 ^ 38 - 1 then (ofI 128 (10 ^ 38 - 1), flagOF)
  else if i < -(10 ^ 38 - 1) then (ofI 128 (-(10 ^ 38 - 1)), flagOF) else (ofI 128 i, 0)

/-- Division with round half to even. -/
def divRne (i : Int) (d : Nat) : Int :=
  let m := i.natAbs
  let q := m / d
  let r := m % d
  let q' := if 2 * r > d || (2 * r = d && q % 2 = 1) then q + 1 else q
  if i < 0 then -(q' : Int) else q'

/-- The value of a decimal at a scale as F64 (VDEC TOF64): coefficient × 10^−scale, rounded once. -/
def decToF64 (i sc : Int) : Nat × Nat :=
  let v : FVal := .fin (decide (i < 0)) i.natAbs 0
  if 0 ≤ sc then Fmt.f64.ofVal .ieee 14 i.natAbs 0 (v.div (.fin false (10 ^ (min sc 400).toNat) 0))
  else Fmt.f64.ofVal .ieee 14 i.natAbs 0 (v.mul (.fin false (10 ^ (min (-sc) 400).toNat) 0))

/-- Power of ten of a RESCALE, bounded: beyond 10^80 every 128-bit coefficient gives 0 or saturates alike. -/
def pow10 (n : Nat) : Nat := 10 ^ min n 80

/-- VDEC on one decimal (0x0A). TOF64 and FROMI64 use the element pair as 128 bits: TOF64 writes the F64 in the low
element; its high element has no stated value (log 23). -/
def vdecElem (var : Nat) (sb : Int) (a b : Nat) : Nat × Nat :=
  let x := toS 128 a
  match var with
  | 0 => decSat (x + toS 128 b)
  | 1 => decSat (x - toS 128 b)
  | 2 => decSat (-x)
  | 3 => if 0 ≤ sb then decSat (x * pow10 sb.toNat) else decSat (divRne x (pow10 (-sb).toNat))
  | 4 => let (r, fl) := decToF64 x sb; (r + 2 ^ 64 * (Config.elemFree 4 a sb.natAbs % 2 ^ 64), fl)
  | _ => (ofI 128 (toS 64 (a % 2 ^ 64)), 0)

/-- VDEC (0x0A): 16 decimals; mask bits 2k and 2k + 1 govern the halves of decimal k. -/
def vdec (var : Nat) (sb : Int) (mask a b d : Nat) : Nat × Nat :=
  let r := fun k => vdecElem var sb (elem a 128 k) (elem b 128 k)
  lanes 64 32 mask d fun j => (elem (r (j / 2)).1 64 (j % 2), (r (j / 2)).2)

/-- VRED over a register (0x0B). Integer sums wrap modulo 2^w; bits of s[D] above the element's width, the MIN or
MAX of no element and float sums in another order have no stated value (log 25). -/
def redHigh (var t x mask r : Nat) : Nat :=
  let w := tyWidth t
  r + (Config.reduce (8 + var) x mask % 2 ^ (64 - w)) * 2 ^ w

/-- A balanced binary tree of F64 sums over a list of 2^k values: neighbours, or halves (log 25). -/
def pairSum : Nat → List Nat → Nat × Nat
  | 0, xs => (xs.headD 0, 0)
  | k + 1, xs =>
    let pr := if Config.sumPairsNeighbours
      then ((List.range (2 ^ k)).map fun i => (xs.getD (2 * i) 0, xs.getD (2 * i + 1) 0))
      else ((List.range (2 ^ k)).map fun i => (xs.getD i 0, xs.getD (i + 2 ^ k) 0))
    let ys := pr.map fun p => Fmt.f64.arith2 false 1 FVal.add p.1 p.2
    let (r, fl) := pairSum k (ys.map Prod.fst)
    (r, ys.foldl (fun f y => f ||| y.2) fl)

def vred (var t : Nat) (ftz : Bool) (mask a : Nat) : Nat × Nat :=
  let w := tyWidth t
  let n := 2048 / w
  let xs := ((List.range n).filter fun j => mask / 2 ^ j % 2 == 1).map fun j => elem a w j
  match var, tyFmt t with
  | 4, _ => (popcount 512 mask, 0)
  | 3, some f =>
    let ys := (List.range n).map fun j => vcvtElem t 11 0 ftz (elem a w j)
    let (r, fl) := pairSum (if t = 10 then 6 else 5) (ys.map Prod.fst)
    (if f.width = 0 then 0 else r, fl)
  | 3, none => (Config.reduce 3 a mask % 2 ^ 64, 0)
  | 0, some _ =>
    (redHigh 0 t a mask (match xs with | [] => 0 | [x] => x | _ => Config.reduce 0 a mask % 2 ^ w),
     Config.reduce 16 a mask % 32)
  | 0, none => (redHigh 0 t a mask (xs.foldl (· + ·) 0 % 2 ^ w), 0)
  | v, some f =>
    (redHigh v t a mask (match xs with
      | [] => Config.reduce v a mask % 2 ^ w
      | x :: xs => xs.foldl (f.minmax (ftzOf t ftz) (v == 2)) x), 0)
  | v, none =>
    (redHigh v t a mask (match xs with
      | [] => Config.reduce v a mask % 2 ^ w
      | x :: xs => xs.foldl (fun m y => if (decide (tyInt t y < tyInt t m)) != (v == 2) && y != m then y else m) x), 0)

/-- VPERM (0x0C). `sa` and `sb` are s[A] and s[B]. -/
def vperm (var t : Nat) (ftz : Bool) (mask a b d sa sb : Nat) : Nat × Nat :=
  let w := tyWidth t
  let n := 2048 / w
  match var with
  | 0 => lanes w n mask d fun i => (elem a w (elem b w i % n), 0)
  | 1 => lanes w n mask d fun _ => (sa % 2 ^ w, 0)
  | 2 => lanes w n mask d fun i => match tyFmt t with
    | none => ((sa + i) % 2 ^ w, 0)
    | some _ => varithElem 0 t ftz (sa % 2 ^ w) (vcvtElem 7 t 0 false i).1
  | 3 =>
    let xs := ((List.range n).filter fun j => mask / 2 ^ j % 2 == 1).map fun j => elem a w j
    (pack w n fun i => xs.getD i 0, 0)
  | 4 => lanes w n mask d fun i => match tyFmt t with
    | none => ((List.range (i + 1)).foldl (fun s j => s + elem a w j) 0 % 2 ^ w, 0)
    | some _ => (if i = 0 then elem a w 0 else Config.reduce (32 + i) a t % 2 ^ w, Config.reduce (1000 + i) a t % 32)
  | _ => lanes w n mask d fun i => (if i + sb < n then elem a w (i + sb) else 0, 0)

/-- VBUCKET (0x0F): every element of d is the count of selected elements of b at or below (VAR 0), or below (VAR 1),
the element of a; a NaN gives all ones. -/
def vbucket (var t : Nat) (ftz : Bool) (mask a b : Nat) : Nat :=
  let w := tyWidth t
  let n := 2048 / max w 32
  let z := ftzOf t ftz
  let leq := fun x y => match tyFmt t with
    | some f => if var = 0 then f.fle (f.flush z x) (f.flush z y) else f.flt (f.flush z x) (f.flush z y)
    | none => if var = 0 then decide (tyInt t x ≤ tyInt t y) else decide (tyInt t x < tyInt t y)
  pack 32 64 fun i =>
    let x := elem a w i
    if i ≥ n then Config.elemFree 15 a i
    else if (match tyFmt t with | some f => f.isNan x | none => false) then 2 ^ 32 - 1
    else ((List.range n).filter fun k => mask / 2 ^ k % 2 == 1 && leq (elem b w k) x).length

/-- VNORM (0x10): each step rounds; CLIP passes NaN unchanged. `lo` and `hi` are the low bits of s[B], s[B + 1]. -/
def vnormElem (var : Nat) (f : Fmt) (z : Bool) (a b d lo hi : Nat) : Nat × Nat :=
  let sub := fun x y => f.arith2 z 2 (fun p q => p.add q.neg) x y
  let mul := fun x y => f.arith2 z 3 FVal.mul x y
  match var with
  | 0 => let (r, f1) := sub a lo; let (q, f2) := mul r hi; (q, f1 ||| f2)
  | 1 => if f.isNan a then (a, 0) else (f.minmax z false (f.minmax z true a lo) hi, 0)
  | _ => let (r, f1) := sub a b; let (q, f2) := mul r d; (q, f1 ||| f2)

def vnorm (var t : Nat) (ftz : Bool) (mask a b d sb sb1 : Nat) : Nat × Nat :=
  match tyFmt t with
  | none => (d, 0)
  | some f =>
    let w := tyWidth t
    lanes w (2048 / w) mask d fun j =>
      vnormElem var f (ftzOf t ftz) (elem a w j) (elem b w j) (elem d w j) (sb % 2 ^ w) (sb1 % 2 ^ w)

/-- The scalar functions of SALU (0x20). A shift count of 64 or more has no stated result (log 23). -/
def saluFn (fn a b : Nat) : Nat × Nat :=
  let sh := fun (r : Nat) => if b < 64 then r else Config.elemFree (100 + fn) a b % 2 ^ 64
  match fn with
  | 0 => ((a + b) % 2 ^ 64, 0)
  | 1 => (ofI 64 ((a : Int) - (b : Int)), 0)
  | 2 => (a * b % 2 ^ 64, 0)
  | 3 => (a * b / 2 ^ 64, 0)
  | 4 => intDiv 7 a b
  | 5 => intDiv 3 a b
  | 6 => intRem 7 a b
  | 7 => intRem 3 a b
  | 8 => (a &&& b, 0)
  | 9 => (a ||| b, 0)
  | 10 => (a ^^^ b, 0)
  | 11 => (sh (a * 2 ^ (b % 64) % 2 ^ 64), 0)
  | 12 => (sh (a / 2 ^ (b % 64)), 0)
  | 13 => (sh (ofI 64 (toS 64 a / 2 ^ (b % 64))), 0)
  | 14 => (if toS 64 a < toS 64 b then 1 else 0, 0)
  | _ => (if a < b then 1 else 0, 0)

/-- The function of SALUI's F3 in SALU's numbering (0x21). -/
def saluiFn (f3 : Nat) : Nat :=
  match f3 with
  | 0 => 0
  | 1 => 8
  | 2 => 9
  | 3 => 10
  | 4 => 11
  | 5 => 12
  | 6 => 13
  | _ => 14

/-- BR's condition (0x30): `ma` is m[A]. -/
def brTaken (cond a b ma : Nat) : Bool :=
  match cond with
  | 0 => a == b
  | 1 => a != b
  | 2 => decide (toS 64 a < toS 64 b)
  | 3 => decide (toS 64 b ≤ toS 64 a)
  | 4 => decide (a < b)
  | 5 => decide (b ≤ a)
  | 6 => ma != 0
  | _ => ma == 0

/-- One 32-element dot product of the projection array in F32 (R180): exact products; a value within the rule's
bound is the free value `Config.proj` where it lies in it, else the exactly rounded sum (log 26). -/
def projDot (t : Nat) (ws xs : List Nat) (tag i : Nat) : Nat :=
  match tyFmt t with
  | none => 0
  | some f =>
    let prods := List.zipWith (fun a b => (f.value a).mul (f.value b)) ws xs
    let s := prods.foldl FVal.add (.fin false 0 0)
    let absSum := prods.foldl (fun (acc p : FVal) => acc.add (match p with
      | .fin _ m e => .fin false m e
      | .inf _ => .inf false
      | .nan => .nan)) (.fin false 0 0)
    let exact := (Fmt.f32.ofVal .ieee 17 tag i s).1
    let cand := Config.proj tag i t % 2 ^ 32
    match s, absSum, Fmt.f32.value cand with
    | .fin n m e, .fin _ ma ea, .fin nc mc ec =>
      match addExact nc mc ec (!n) m e with
      | .fin _ md ed =>
        if (FVal.fin false md ed).cmp (.fin false ma (ea - 19)) ≤ 0 then cand else exact
      | _ => exact
    | _, _, _ => exact

end Sys2Proof.Machine
end

