-- ==== Sys2Proof/Machine/Hash.lean ====
section
/-!
DEFINITION. Hash functions and digests: CRC-32C and NH-mix64 (R173), XXH64 and MurmurHash3 x86_32 as their authors
published them (R172, log 30), VHASH (R172 to R178), SHA-256 (R52; FIPS 180-4, log 30).
-/

namespace Sys2Proof.Machine

/-- Arithmetic modulo 2^64 and 2^32. -/
def m64 (x : Nat) : Nat := x % 2 ^ 64
def m32 (x : Nat) : Nat := x % 2 ^ 32
def rotl64 (v k : Nat) : Nat := m64 (v * 2 ^ k) ||| (v / 2 ^ (64 - k))
def rotl32 (v k : Nat) : Nat := m32 (v * 2 ^ k) ||| (v / 2 ^ (32 - k))
def rotr32 (v k : Nat) : Nat := rotl32 v (32 - k)
def mulhi64 (a b : Nat) : Nat := a * b / 2 ^ 64

/-- Little-endian number of a byte list (R9). -/
def leNat : List Byte → Nat
  | [] => 0
  | b :: bs => b.toNat + 256 * leNat bs

/-- The n little-endian bytes of a number. -/
def leBytes : Nat → Nat → List Byte
  | 0, _ => []
  | n + 1, x => byte x :: leBytes n (x / 256)

/-- The n big-endian bytes of a number. -/
def beBytes (n x : Nat) : List Byte := (leBytes n x).reverse

/-- Bytes off to off + n − 1 of a byte list. -/
def slice (bs : List Byte) (off n : Nat) : List Byte := (bs.drop off).take n

/-- One bit step of CRC-32C (R173). -/
def crcBit : Nat → Nat → Nat
  | 0, c => c
  | k + 1, c => crcBit k ((c / 2) ^^^ (if c % 2 = 1 then 0x82F63B78 else 0))

def crcBytes : List Byte → Nat → Nat
  | [], c => c
  | b :: bs, c => crcBytes bs (crcBit 8 (c ^^^ b.toNat))

/-- crc32c_cont() and crc32c() (R173). -/
def crc32cCont (prev : Nat) (bs : List Byte) : Nat := crcBytes bs (prev ^^^ 0xFFFFFFFF) ^^^ 0xFFFFFFFF
def crc32c (bs : List Byte) : Nat := crc32cCont 0 bs

/-- nh_mix64() (R173). -/
def nhMix64 (x seed : Nat) : Nat :=
  let h := m64 (x + seed * 0xA24BAED4963EE407)
  let h := h ^^^ (h / 2 ^ 29)
  let h := m64 (h * 0xD6E8FEB86659FD93)
  let h := h ^^^ rotl64 h 23 ^^^ rotl64 h 47
  let h := m64 (h * 0x9FB21C651E98DF25)
  h ^^^ (h / 2 ^ 32)

/-- The loop of nh_mix64_bytes(): 8 bytes at a time, then the rest (R173). The first argument bounds the rounds. -/
def nhBytesFrom (seed : Nat) : Nat → List Byte → Nat → Nat
  | 0, _, h => h
  | k + 1, bs, h =>
    if bs.isEmpty then h else nhBytesFrom seed k (bs.drop 8) (nhMix64 (leNat (bs.take 8) ^^^ h) seed)

def nhMix64Bytes (bs : List Byte) (seed : Nat) : Nat :=
  nhBytesFrom seed (bs.length / 8 + 1) bs (nhMix64 bs.length seed)

/-! XXH64 (its author's definition). -/

def xp1 : Nat := 0x9E3779B185EBCA87
def xp2 : Nat := 0xC2B2AE3D27D4EB4F
def xp3 : Nat := 0x165667B19E3779F9
def xp4 : Nat := 0x85EBCA77C2B2AE63
def xp5 : Nat := 0x27D4EB2F165667C5

def xxRound (acc w : Nat) : Nat := m64 (rotl64 (m64 (acc + w * xp2)) 31 * xp1)
def xxMerge (h v : Nat) : Nat := m64 ((h ^^^ xxRound 0 v) * xp1 + xp4)

/-- The stripes of 32 bytes; the rest of the bytes comes back. -/
def xxStripes : Nat → List Byte → Nat × Nat × Nat × Nat → List Byte × (Nat × Nat × Nat × Nat)
  | 0, bs, v => (bs, v)
  | k + 1, bs, (a, b, c, d) =>
    if bs.length < 32 then (bs, (a, b, c, d))
    else xxStripes k (bs.drop 32)
      (xxRound a (leNat (slice bs 0 8)), xxRound b (leNat (slice bs 8 8)),
       xxRound c (leNat (slice bs 16 8)), xxRound d (leNat (slice bs 24 8)))

/-- The last bytes: words of 8, one of 4, then single bytes. -/
def xxTail : Nat → List Byte → Nat → Nat
  | 0, _, h => h
  | k + 1, bs, h =>
    if bs.length ≥ 8 then
      xxTail k (bs.drop 8) (m64 (rotl64 (h ^^^ xxRound 0 (leNat (bs.take 8))) 27 * xp1 + xp4))
    else if bs.length ≥ 4 then
      xxTail k (bs.drop 4) (m64 (rotl64 (h ^^^ m64 (leNat (bs.take 4) * xp1)) 23 * xp2 + xp3))
    else match bs with
      | [] => h
      | b :: bs => xxTail k bs (m64 (rotl64 (h ^^^ m64 (b.toNat * xp5)) 11 * xp1))

def xxh64 (bs : List Byte) (seed : Nat) : Nat :=
  let n := bs.length
  let (rest, h) :=
    if n ≥ 32 then
      let (rest, a, b, c, d) := xxStripes (n / 32) bs
        (m64 (seed + xp1 + xp2), m64 (seed + xp2), seed, m64 (seed + 2 ^ 64 - xp1))
      let h := m64 (rotl64 a 1 + rotl64 b 7 + rotl64 c 12 + rotl64 d 18)
      (rest, xxMerge (xxMerge (xxMerge (xxMerge h a) b) c) d)
    else (bs, m64 (seed + xp5))
  let h := xxTail 16 rest (m64 (h + n))
  let h := m64 ((h ^^^ h / 2 ^ 33) * xp2)
  let h := m64 ((h ^^^ h / 2 ^ 29) * xp3)
  h ^^^ h / 2 ^ 32

/-! MurmurHash3 x86_32 (its author's definition). -/

def mmK (k : Nat) : Nat := m32 (rotl32 (m32 (k * 0xCC9E2D51)) 15 * 0x1B873593)

def mmBlocks : Nat → List Byte → Nat → Nat
  | 0, bs, h => h ^^^ (if bs.isEmpty then 0 else mmK (leNat bs))
  | k + 1, bs, h =>
    if bs.length < 4 then h ^^^ (if bs.isEmpty then 0 else mmK (leNat bs))
    else mmBlocks k (bs.drop 4) (m32 (rotl32 (h ^^^ mmK (leNat (bs.take 4))) 13 * 5 + 0xE6546B64))

def murmur3 (bs : List Byte) (seed : Nat) : Nat :=
  let h := mmBlocks (bs.length / 4) bs (m32 seed) ^^^ m32 bs.length
  let h := m32 ((h ^^^ h / 2 ^ 16) * 0x85EBCA6B)
  let h := m32 ((h ^^^ h / 2 ^ 13) * 0xC2B2AE35)
  h ^^^ h / 2 ^ 16

/-! VHASH (R172 to R178). -/

/-- Width of the result of a hash of fixed-width elements (Table TILE-7). -/
def hashWidth (var : Nat) : Nat := if var = 0 || var = 2 then 32 else 64

/-- Hash of a byte string by VAR 0 to 3 (R172, R177). -/
def hashBytes (var : Nat) (bs : List Byte) (seed : Nat) : Nat :=
  match var with
  | 0 => crc32cCont (m32 seed) bs
  | 1 => xxh64 bs (m64 seed)
  | 2 => murmur3 bs (m32 seed)
  | _ => nhMix64Bytes bs (m64 seed)

/-- Hash of an element of width w (R172). -/
def hashElem (var w x seed : Nat) : Nat :=
  if var = 3 then nhMix64 x (m64 seed) else hashBytes var (leBytes (w / 8) x) seed

/-- VHASH without string references: VAR 0 to 3 hash, VAR 4 and 5 map (R176, R178). -/
def vhash (var t : Nat) (mask a d seed : Nat) : Nat × Nat :=
  if var ≤ 3 then
    let w := tyWidth t
    let rw := hashWidth var
    lanes rw (2048 / max w rw) mask d fun j => (hashElem var w (elem a w j) seed, 0)
  else
    let h32 := t = 2 || t = 6
    let dz := if seed = 0 then flagDZ else 0
    if var = 4 then
      lanes 64 32 mask d fun j =>
        (mulhi64 (if h32 then elem a 32 j * 2 ^ 32 else elem a 64 j) seed, dz)
    else if h32 then lanes 32 64 mask d fun j => (if seed = 0 then 0 else elem a 32 j % seed, dz)
    else lanes 64 32 mask d fun j => (if seed = 0 then 0 else elem a 64 j % seed, dz)

/-- VHASH of string references (TYPE 15, R177); `bytesAt` reads a tile-memory string. -/
def vhashStr (var mask a d seed : Nat) (bytesAt : Nat → Nat → List Byte) : Nat × Nat :=
  lanes 64 32 mask d fun j =>
    let r := elem a 64 j
    (hashBytes var (bytesAt (r % 2 ^ 23) (r / 2 ^ 32 % 2 ^ 16)) seed, 0)

/-! SHA-256. -/

def shaK : List Nat :=
  [0x428a2f98, 0x71374491, 0xb5c0fbcf, 0xe9b5dba5, 0x3956c25b, 0x59f111f1, 0x923f82a4, 0xab1c5ed5,
   0xd807aa98, 0x12835b01, 0x243185be, 0x550c7dc3, 0x72be5d74, 0x80deb1fe, 0x9bdc06a7, 0xc19bf174,
   0xe49b69c1, 0xefbe4786, 0x0fc19dc6, 0x240ca1cc, 0x2de92c6f, 0x4a7484aa, 0x5cb0a9dc, 0x76f988da,
   0x983e5152, 0xa831c66d, 0xb00327c8, 0xbf597fc7, 0xc6e00bf3, 0xd5a79147, 0x06ca6351, 0x14292967] ++
  [0x27b70a85, 0x2e1b2138, 0x4d2c6dfc, 0x53380d13, 0x650a7354, 0x766a0abb, 0x81c2c92e, 0x92722c85,
   0xa2bfe8a1, 0xa81a664b, 0xc24b8b70, 0xc76c51a3, 0xd192e819, 0xd6990624, 0xf40e3585, 0x106aa070,
   0x19a4c116, 0x1e376c08, 0x2748774c, 0x34b0bcb5, 0x391c0cb3, 0x4ed8aa4a, 0x5b9cca4f, 0x682e6ff3,
   0x748f82ee, 0x78a5636f, 0x84c87814, 0x8cc70208, 0x90befffa, 0xa4506ceb, 0xbef9a3f7, 0xc67178f2]

def shaInit : List Nat :=
  [0x6a09e667, 0xbb67ae85, 0x3c6ef372, 0xa54ff53a, 0x510e527f, 0x9b05688c, 0x1f83d9ab, 0x5be0cd19]

/-- Message schedule: 16 words of the block, extended one word at a time (kept in order). -/
def shaExtend : Nat → List Nat → List Nat
  | 0, ws => ws
  | k + 1, ws =>
    let n := ws.length
    let g := fun i => ws.getD (n - i) 0
    let s0 := rotr32 (g 15) 7 ^^^ rotr32 (g 15) 18 ^^^ (g 15 / 2 ^ 3)
    let s1 := rotr32 (g 2) 17 ^^^ rotr32 (g 2) 19 ^^^ (g 2 / 2 ^ 10)
    shaExtend k (ws ++ [m32 (g 16 + s0 + g 7 + s1)])

def shaRounds : List (Nat × Nat) → List Nat → List Nat
  | (k, w) :: rest, [a, b, c, d, e, f, g, h] =>
    let s1 := rotr32 e 6 ^^^ rotr32 e 11 ^^^ rotr32 e 25
    let ch := (e &&& f) ^^^ ((0xFFFFFFFF ^^^ e) &&& g)
    let t1 := m32 (h + s1 + ch + k + w)
    let s0 := rotr32 a 2 ^^^ rotr32 a 13 ^^^ rotr32 a 22
    let mj := (a &&& b) ^^^ (a &&& c) ^^^ (b &&& c)
    shaRounds rest [m32 (t1 + s0 + mj), a, b, c, m32 (d + t1), e, f, g]
  | _, hs => hs

def beNat (bs : List Byte) : Nat := leNat bs.reverse

def shaBlock (hs : List Nat) (blk : List Byte) : List Nat :=
  let ws := shaExtend 48 ((List.range 16).map fun i => beNat (slice blk (4 * i) 4))
  List.zipWith (fun a b => m32 (a + b)) hs (shaRounds (shaK.zip ws) hs)

def shaBlocks : Nat → List Byte → List Nat → List Nat
  | 0, _, hs => hs
  | k + 1, bs, hs => shaBlocks k (bs.drop 64) (shaBlock hs (bs.take 64))

/-- SHA-256 of a byte string, 32 bytes. -/
def sha256 (bs : List Byte) : List Byte :=
  let n := bs.length
  let pad := (119 - n % 64) % 64
  let msg := bs ++ [byte 0x80] ++ List.replicate pad (byte 0) ++ beBytes 8 (8 * n)
  (shaBlocks (msg.length / 64) msg shaInit).flatMap (beBytes 4)

end Sys2Proof.Machine
end

