-- ==== Sys2Proof/Machine/Image.lean ====
section
/-!
DEFINITION. The plan image (R52 to R56): its header, records and sections, read from the bytes.
-/

namespace Sys2Proof.Machine

/-- An image is its bytes. -/
abbrev Image := List Byte

/-- The little-endian number of n bytes at an offset. -/
def Image.at (i : Image) (off n : Nat) : Nat := leNat (slice i off n)

def Image.imageBytes (i : Image) : Nat := i.at 0x8 4
def Image.realtime (i : Image) : Bool := i.at 0x6 2 % 2 == 1
def Image.pipeline (i : Image) : Bool := i.at 0x6 2 / 2 % 2 == 1
def Image.planId (i : Image) : Nat := i.at 0x10 8
def Image.nStages (i : Image) : Nat := i.at 0x18 1
def Image.nClaims (i : Image) : Nat := i.at 0x19 1
def Image.nOps (i : Image) : Nat := i.at 0x1A 2
def Image.nParams (i : Image) : Nat := i.at 0x1C 1
def Image.stageOff (i : Image) : Nat := i.at 0x20 4
def Image.opOff (i : Image) : Nat := i.at 0x24 4
def Image.claimOff (i : Image) : Nat := i.at 0x28 4
def Image.paramOff (i : Image) : Nat := i.at 0x2C 4
def Image.codeOff (i : Image) : Nat := i.at 0x30 4
def Image.codeBytes (i : Image) : Nat := i.at 0x34 4
def Image.constOff (i : Image) : Nat := i.at 0x38 4
def Image.constBytes (i : Image) : Nat := i.at 0x3C 4
def Image.chunkUnit (i : Image) : Nat := i.at 0x40 1
def Image.chunkSize (i : Image) : Nat := i.at 0x48 8
def Image.chunkCount (i : Image) : Nat := i.at 0x50 8
def Image.digest (i : Image) : List Byte := slice i 0xE0 32

/-- A stage record (Table PLAN-2). -/
structure StageRec where
  kind : Nat
  threads : Nat
  bufDepth : Nat
  outMem : Nat
  firstOp : Nat
  nOps : Nat
  preds : Nat
  tileSet : Nat
  stwSet : Nat
  entry : Nat
  budget : Nat
  resv : Nat
  deriving DecidableEq, Repr

def Image.stage (i : Image) (k : Nat) : StageRec :=
  let o := i.stageOff + 64 * k
  { kind := i.at o 1, threads := i.at (o + 1) 1, bufDepth := i.at (o + 2) 1, outMem := i.at (o + 3) 1
    firstOp := i.at (o + 4) 2, nOps := i.at (o + 6) 2, preds := i.at (o + 8) 8, tileSet := i.at (o + 0x10) 8
    stwSet := i.at (o + 0x18) 2, entry := i.at (o + 0x1C) 4, budget := i.at (o + 0x20) 4
    resv := i.at (o + 0x1A) 2 + i.at (o + 0x24) 28 }

/-- An operator record (Table PLAN-3). -/
structure OpRec where
  opcode : Nat
  stage : Nat
  cfgOff : Nat
  cfgBytes : Nat
  in0 : Nat
  in1 : Nat
  resv : Nat
  deriving DecidableEq, Repr

def Image.op (i : Image) (k : Nat) : OpRec :=
  let o := i.opOff + 32 * k
  { opcode := i.at o 2, stage := i.at (o + 2) 1, cfgOff := i.at (o + 4) 4, cfgBytes := i.at (o + 8) 4
    in0 := i.at (o + 0xC) 2, in1 := i.at (o + 0xE) 2, resv := i.at (o + 3) 1 + i.at (o + 0x10) 16 }

def Image.ops (i : Image) : List OpRec := (List.range i.nOps).map i.op
def OpRec.cls (o : OpRec) : Nat := o.opcode / 256
def OpRec.code (o : OpRec) : Nat := o.opcode % 256

/-- An operator's configuration block. -/
def Image.cfg (i : Image) (o : OpRec) : List Byte := slice i (i.constOff + o.cfgOff) o.cfgBytes

/-- The first operator of a class and code, with its index. -/
def Image.findOp (i : Image) (cls code : Nat) : Option (Nat × OpRec) :=
  ((List.range i.nOps).map fun k => (k, i.op k)).find? fun p => p.2.cls == cls && p.2.code == code

/-- A claim record (Table PLAN-5). -/
structure ClaimRec where
  ty : Nat
  flags : Nat
  arg : Nat
  resv : Nat
  amount : Nat
  deriving DecidableEq, Repr

def Image.claim (i : Image) (k : Nat) : ClaimRec :=
  let o := i.claimOff + 16 * k
  { ty := i.at o 1, flags := i.at (o + 1) 1, arg := i.at (o + 2) 2, resv := i.at (o + 4) 4, amount := i.at (o + 8) 8 }

def Image.claims (i : Image) : List ClaimRec := (List.range i.nClaims).map i.claim
/-- The claims of a type, with their indexes, in table order. -/
def Image.claimsOf (i : Image) (ty : Nat) : List (Nat × ClaimRec) :=
  ((List.range i.nClaims).map fun k => (k, i.claim k)).filter fun p => p.2.ty == ty
/-- The amount of the one claim of a type, 0 without one. -/
def Image.amount (i : Image) (ty : Nat) : Nat := ((i.claimsOf ty).head?.map fun p => p.2.amount).getD 0

/-- A parameter record (R56). -/
structure ParamRec where
  dflt : Nat
  lo : Nat
  hi : Nat
  ty : Nat
  static_ : Bool
  resv : Nat
  deriving DecidableEq, Repr

def Image.param (i : Image) (k : Nat) : ParamRec :=
  let o := i.paramOff + 32 * k
  { dflt := i.at o 8, lo := i.at (o + 8) 8, hi := i.at (o + 16) 8, ty := i.at (o + 24) 1 % 4
    static_ := i.at (o + 24) 1 / 4 % 2 == 1, resv := i.at (o + 24) 1 / 8 + i.at (o + 25) 7 }

/-- A value lies within MIN to MAX, compared according to TYPE (R56). -/
def ParamRec.inRange (p : ParamRec) (v : Nat) : Bool :=
  if p.ty = 0 then p.lo ≤ v && v ≤ p.hi
  else if p.ty = 1 then decide (toS 64 p.lo ≤ toS 64 v) && decide (toS 64 v ≤ toS 64 p.hi)
  else Fmt.f64.fle p.lo v && Fmt.f64.fle v p.hi

/-- A word of the expression code, and its number of words. -/
def Image.codeWord (i : Image) (pc : Nat) : Nat := i.at (i.codeOff + 4 * pc) 4
def Image.codeWords (i : Image) : Nat := i.codeBytes / 4

end Sys2Proof.Machine
end

