-- ==== Sys2Proof/Machine/KMap.lean ====
section
/-!
DEFINITION. Sparse data by number: a list of (key, value) pairs in strictly rising key order, in which a key that is
not listed stands for a default. One canonical form: an entry never holds its key's default.
-/

namespace Sys2Proof.Machine

/-- A sparse map from numbers. -/
abbrev KMap (α : Type) := List (Nat × α)

/-- The value listed for a key. -/
def kfind {α : Type} : KMap α → Nat → Option α
  | [], _ => none
  | (k, v) :: m, q => if q = k then some v else kfind m q

/-- The value at a key, `d` giving what an unlisted key stands for. -/
def kget {α : Type} (d : Nat → α) (m : KMap α) (q : Nat) : α := (kfind m q).getD (d q)

/-- List a key with a value, in order. -/
def kins {α : Type} : KMap α → Nat → α → KMap α
  | [], q, x => [(q, x)]
  | (k, v) :: m, q, x =>
    if q < k then (q, x) :: (k, v) :: m
    else if q = k then (q, x) :: m
    else (k, v) :: kins m q x

/-- Take a key off the list. -/
def kdel {α : Type} : KMap α → Nat → KMap α
  | [], _ => []
  | (k, v) :: m, q => if q = k then kdel m q else (k, v) :: kdel m q

/-- Write a value: a default takes its key off the list, so that equal maps are equal lists. -/
def kset {α : Type} [DecidableEq α] (d : Nat → α) (m : KMap α) (q : Nat) (x : α) : KMap α :=
  if x = d q then kdel m q else kins m q x

/-- Keys strictly rise from a bound on. -/
def krises {α : Type} : Nat → KMap α → Bool
  | _, [] => true
  | lo, (k, _) :: m => decide (lo ≤ k) && krises (k + 1) m

/-- The canonical form: keys strictly rise and no entry holds its key's default. -/
def kwf {α : Type} [DecidableEq α] (d : Nat → α) (m : KMap α) : Bool :=
  krises 0 m && m.all fun p => decide (p.2 ≠ d p.1)

end Sys2Proof.Machine
end

