-- ==== Sys2Proof/Machine/Parts.lean ====
section
/-!
DEFINITION. Structured state outside the register pages, first part: events and flows (12), tile threads (06),
stream engines (04), plans (03). Numbers are `Nat`; words that arithmetic or software sees as bits are bit vectors.
-/

namespace Sys2Proof.Machine

/-- An event record (Table FLOW-1, R327). -/
structure Event where
  flow : Nat := 0
  prio : Nat := 0
  keyed : Bool := false
  align : Bool := false
  delayed : Bool := false
  redelivered : Bool := false
  late : Bool := false
  slot : Nat := 0
  resv : Nat := 0
  group : Nat := 0
  stream : Nat := 0
  typ : Nat := 0
  time : Word := 0
  key : Word := 0
  data : Word := 0
  deriving DecidableEq, Repr

/-- Who made a posted or delayed event (R336): an event in service, a logical tile's thread, or a steward core. -/
inductive Origin where
  | event (arr : Nat)
  | thread (ltile th : Nat)
  | core (lcore : Nat)
  deriving DecidableEq, Repr

/-- Where an event of the pool stands (R333, R339). -/
inductive EvState where
  | aligned
  | waiting
  | prefetch (tile th : Nat)
  | inService (tile th : Nat)
  | inCore (stw : Nat)
  | done
  deriving DecidableEq, Repr

/-- An entry of the event pool (R330): the event, its plan slot, arrival number, chunk, state, the order in which it
was accepted, the beat from which its wait counts. -/
structure PoolEnt where
  ev : Event
  slot : Nat
  flow : Nat
  arr : Nat
  chunk : Nat
  st : EvState
  acc : Nat
  since : Nat
  /-- beat of its last delivery -/
  held : Nat := 0
  deriving DecidableEq, Repr

/-- An entry of a plan's delay list (R338). -/
structure DelayEnt where
  ev : Event
  slot : Nat
  chunk : Nat
  due : Nat
  seq : Nat
  deriving DecidableEq, Repr

/-- Posts or delays of one origin in one chunk (R336, R337): made in the first run, made in this run. -/
structure PostCount where
  slot : Nat
  chunk : Nat
  origin : Origin
  delay : Bool
  first : Nat
  now : Nat
  deriving DecidableEq, Repr

/-- One stream of an alignment group (R339). -/
structure AlignStream where
  active : Bool := false
  maxTime : Int := 0
  lastBeat : Nat := 0
  seen : Bool := false
  deriving DecidableEq, Repr

/-- An alignment group in use: its plan slot, local number, configuration, streams, frontier. -/
structure AlignGroup where
  slot : Nat
  lg : Nat
  pass : Bool
  lateness : Nat
  idleBeats : Nat
  streams : List AlignStream
  frontier : Option Int
  deriving DecidableEq, Repr

/-- The flow scheduler's tables beyond its registers. -/
structure Fsch where
  pool : List PoolEnt := []
  delay : List DelayEnt := []
  posts : List PostCount := []
  groups : KMap (Option AlignGroup) := []
  accSeq : Nat := 0
  delaySeq : Nat := 0
  getSeq : Nat := 0
  /-- consumed since the last HEAD writeback, by ring (R328) -/
  sinceWb : KMap Nat := []
  /-- events delivered, per unit (tiles 0-63, steward cores 64-79), and service time (FSCH_LOAD) -/
  delivered : KMap Nat := []
  service : KMap Nat := []
  /-- host event ring whose turn is next (R328) -/
  turn : Nat := 0
  deriving DecidableEq, Repr

/-- Run state of a thread (TILE_THR.STATE, R184); the wait of 4 STEWARD_WAIT has no duration here (log 60). -/
inductive RunState where
  | idle | run | streamWait | eventWait | ended | faulted
  deriving DecidableEq, Repr

/-- An open item (R181). -/
structure Item where
  pos : Nat
  recOff : Nat
  beginPc : Nat
  endPc : Nat
  beat : Nat
  /-- its count has reached the budget while it could not be diverted (R183) -/
  spent : Bool := false
  diverted : Bool := false
  deriving DecidableEq, Repr

/-- What a thread waits for, with what it needs to finish the instruction. -/
inductive Wait where
  /-- STRM ISSUE while 8 descriptors are held: descriptor offset, D -/
  | issue (off d : Nat)
  /-- STRM WAIT on a slot -/
  | strm (slot : Nat)
  /-- STRM TAKE on a slot, D -/
  | take (slot d : Nat)
  /-- EVENT GET: address, D, the order in which consumers began to wait -/
  | get (addr d seq : Nat)
  /-- EVENT POST while the pool is full: address, D -/
  | post (addr d : Nat)
  /-- EVENT DELAY while every claimed entry is in use: address, tick count -/
  | delay (addr ticks : Nat)
  /-- answers of probes or searches: lanes outstanding -/
  | answers (left : Nat)
  deriving DecidableEq, Repr

/-- A hardware thread (R149). -/
structure Thread where
  s : KMap Word := []
  v : KMap VReg := []
  m : KMap MReg := []
  flags : BitVec 6 := 0
  pc : Nat := 0
  run : RunState := .idle
  wait : Option Wait := none
  item : Option Item := none
  /-- arrival number of the event in service (R335) -/
  event : Option Nat := none
  /-- arrival number of the event in the prefetch slot (R148) -/
  prefetch : Option Nat := none
  /-- the thread has issued an EVENT GET in the stage (R334) -/
  consumer : Bool := false
  deriving DecidableEq, Repr

/-- A stream descriptor (Table STRM-1, R76). -/
structure Desc where
  base : Nat := 0
  space : Nat := 0
  write : Bool := false
  indexed : Bool := false
  ndim : Nat := 1
  subbyte : Bool := false
  elem : Nat := 1
  combine : Nat := 0
  ctype : Nat := 0
  conv : Nat := 0
  pasid : Nat := 0
  idx64 : Bool := false
  idxPolicy : Nat := 0
  idxSpace : Nat := 0
  onError : Bool := false
  counts : List Nat := []
  strides : List Int := []
  ownTable : Nat := 0
  ownEn : Bool := false
  idxBase : Nat := 0
  idxLimit : Nat := 0
  fill : Nat := 0
  peal : Nat := 0
  tmBase : Nat := 0
  tmPages : Nat := 0
  cplOff : Nat := 0
  resv : Nat := 0
  deriving DecidableEq, Repr

/-- State of a held descriptor (TILE_STRM_Dn.STATE). -/
inductive StrmState where
  | active | pfWait | completing
  deriving DecidableEq, Repr

/-- A consumer's view of a page ring: pages taken and pages freed, counted from the start of the transfer. -/
structure RingUse where
  tile : Nat
  taken : Nat := 0
  freed : Nat := 0
  deriving DecidableEq, Repr

/-- A descriptor held by a stream engine. -/
structure StrmSlot where
  desc : Desc
  thread : Nat
  /-- order of issue in the engine (R91) -/
  seq : Nat := 0
  st : StrmState := .active
  /-- elements delivered, or written and acknowledged, in iteration order (R96) -/
  done : Nat := 0
  /-- elements of a combining write that their destination has combined (R87) -/
  applied : Nat := 0
  flagged : Nat := 0
  poison : Nat := 0
  /-- pages released to the consumers (R92) -/
  released : Nat := 0
  rings : List RingUse := []
  /-- valid bytes of the pages handed over for writing, oldest first, 0 for a whole page (R93, R169) -/
  handed : List Nat := []
  /-- the completion record is written -/
  complete : Bool := false
  /-- restart point, while a page request is out (R104), and the address it asked for -/
  restart : Option Nat := none
  faultAddr : Nat := 0
  /-- the descriptor was issued inside the thread's open item (R181) -/
  inItem : Bool := false
  /-- index cache: index and the bytes of its row so far, most recent first (R91) -/
  cache : List (Int × List Byte) := []
  /-- indexes whose row a scatter has written (R88) -/
  seen : List Int := []
  /-- the last line fetched, and the last one that carried poison (R97) -/
  lastLine : Option Nat := none
  lastBad : Option Nat := none
  deriving DecidableEq, Repr

/-- A diverted item's record (Table TILE-8, R181). -/
structure Divert where
  pos : Nat
  chunk : Nat
  slot : Nat
  stage : Nat
  ltile : Nat
  thread : Nat
  pc : Nat
  beat : Nat
  rest : List Byte
  event : Option Nat := none
  deriving DecidableEq, Repr

/-- A weight set of the projection array (R179): type and rows. -/
structure Weights where
  ty : Nat := 8
  w : List Nat := []
  deriving DecidableEq, Repr

/-- Kinds of probe (R211). -/
inductive ProbeKind where
  | lookup | insert | update
  deriving DecidableEq, Repr

/-- A probe, insert or update waiting at its owner (R189, R211): issuing tile and thread, lane, table handle, key
bytes, payload words, and the registers the answer goes to. -/
structure Probe where
  kind : ProbeKind
  slot : Nat
  tile : Nat
  th : Nat
  lane : Nat
  handle : Nat
  key : List Byte
  load : List Word
  d : Nat
  row : Nat := 0
  deriving DecidableEq, Repr

/-- A tile beyond its registers (06, 04, 07). -/
structure Tile where
  /-- plan slot, stage and chunk of the running stage (R145) -/
  running : Option (Nat × Nat × Nat) := none
  threads : KMap Thread := []
  strm : KMap (Option StrmSlot) := []
  divert : List Divert := []
  /-- Henair's records taken and not yet returned (R182) -/
  taken : List Divert := []
  weights : KMap Weights := []
  probes : List Probe := []
  /-- partial aggregates of hot keys held at this tile (R210): handle, key, null mask, states -/
  partials : List (Nat × List Byte × Nat × List (List Byte)) := []
  /-- descriptors of STREAM operators that wait for a slot of the engine (log 70), and the engine's issue counter -/
  opDescs : List Desc := []
  issueSeq : Nat := 0
  deriving DecidableEq, Repr

/-- A placed region of memory: claim index, region id, base, bytes, placement. -/
structure Region where
  claim : Nat
  id : Nat
  base : Nat
  size : Nat
  place : Nat := 0
  sub : Nat := 0
  scratch : Bool := false
  deriving DecidableEq, Repr

/-- What a plan holds (R59, R60). -/
structure Alloc where
  tiles : List Nat := []
  stws : List Nat := []
  stwShared : Bool := false
  bells : List Nat := []
  cues : List Nat := []
  store : List Region := []
  hbm : List Region := []
  image : Option Region := none
  /-- reorder windows of the queues, in the order of their claims (R59) -/
  windowMem : List Region := []
  saveArea : Option Region := none
  shadow : Option Region := none
  flowBase : Nat := 0
  flows : Nat := 0
  /-- device owner tables and destination windows -/
  owns : List Nat := []
  wins : List Nat := []
  queues : List Nat := []
  decs : List Nat := []
  aligns : List Nat := []
  delay : Nat := 0
  /-- device ids of Carillon tables -/
  tables : List Nat := []
  tmBytes : Nat := 0
  threads : Nat := 0
  deriving DecidableEq, Repr

/-- State of a stage's run on a chunk (R65, R66): at work, or every participant arrived and the release cue posted for a
beat (0: it is posted once the pending cue has fired, R344). -/
inductive StageState where
  | running
  | releasing (beat : Nat)
  deriving DecidableEq, Repr

/-- Discipline of wall time (R347): the previous edge was accepted; beat from which a missing edge counts; the missing
edge is recorded. -/
structure TimeSt where
  prevOk : Bool := false
  since : Nat := 0
  missed : Bool := false
  deriving DecidableEq, Repr

/-- A stage of a chunk in progress. -/
structure StageRun where
  stage : Nat
  chunk : Nat
  st : StageState
  /-- physical tiles and steward cores that have arrived -/
  tiles : List Nat := []
  stws : List Nat := []
  began : Nat := 0
  firstArr : Option Nat := none
  timedOut : Bool := false
  deriving DecidableEq, Repr

/-- A chunk with its parameter values (R69) and cadence beat (R340). -/
structure ChunkRec where
  k : Nat
  params : List Word
  cadence : Nat := 0
  /-- started again by regeneration (R317) -/
  regen : Bool := false
  /-- closed for events (R332) -/
  closed : Bool := false
  /-- every exit stage's gong has completed -/
  done : Bool := false
  deriving DecidableEq, Repr

/-- Parameters that wait for a cue (R69): ring that the command came from, its entry's number there, cue slot. -/
structure SetWait where
  ring : Nat
  tag : Word
  cue : Nat
  deriving DecidableEq, Repr

/-- Where an image was loaded from (R73): PLAN_LOAD's operands. -/
structure LoadRef where
  addr : Word := 0
  pasid : Nat := 0
  virt : Bool := false
  dev : Bool := false
  len : Nat := 0
  deriving DecidableEq, Repr

/-- A plan slot beyond its registers (03). -/
structure PlanSlot where
  image : List Byte := []
  digest : List Byte := []
  load : LoadRef := {}
  alloc : Alloc := {}
  params : List Word := []
  staged : KMap (Option Word) := []
  setWaits : List SetWait := []
  /-- command tags (ring, tag) of PLAN_STOP commands that complete later -/
  stopWaits : List (Nat × Word) := []
  runs : List StageRun := []
  chunks : List ChunkRec := []
  /-- next chunk whose entry stages start; chunks done by each stage; chunks counted in DONE -/
  next : Nat := 0
  stageDone : KMap Nat := []
  counted : Nat := 0
  heldFrom : Nat := 0
  tablesLoaded : Bool := false
  /-- stages that run again because the storage of a table of theirs is lost (R201) -/
  rebuild : List Nat := []
  /-- real-time cadence (R340): S0, the next chunk to be cued, cadence beats of chunks that have not yet started -/
  s0 : Nat := 0
  cadChunk : Nat := 0
  cued : KMap Nat := []
  /-- chunk that the FSCH fills now and events it holds (R332) -/
  evChunk : Nat := 0
  evCount : Nat := 0
  deriving DecidableEq, Repr

/-- A batch that holds a reorder entry (R310 to R321). Phases: 0 in production, 1 its slot and flags are being written,
2 these are acknowledged, 3 its COMMIT is out. -/
structure Batch where
  seq : Nat
  slot : Nat
  /-- first and last chunk that hold a row of it -/
  chunk : Nat
  last : Nat
  rows : Nat
  dropped : Nat := 0
  lineage : List Byte := []
  /-- version of the owner table that it uses (R307) -/
  gen : Nat := 0
  /-- rows with the tile that wrote last to each (R320) -/
  writers : KMap Nat := []
  concealed : List Nat := []
  late : List Nat := []
  short : Bool := false
  lateBeat : Bool := false
  regenerated : Bool := false
  diverged : Bool := false
  /-- times it was regenerated (R318) -/
  regens : Nat := 0
  /-- closed at its deadline (R320) -/
  closed : Bool := false
  /-- it is to be drawn again from its lineage (R293) -/
  reopen : Bool := false
  /-- zeros of late rows wait for its slot (R313, R320) -/
  zeroDue : Bool := false
  phase : Nat := 0
  /-- writes out and not yet acknowledged -/
  unacked : Nat := 0
  deriving DecidableEq, Repr

/-- A batch queue in use (R309 to R314): plan slot, local number, ring slots, reorder depth, the BATCH operator's
configuration, the next sequence number to open, uncommitted batches in sequence order. -/
structure Queue where
  slot : Nat
  lq : Nat
  slots : Nat
  depth : Nat
  samples : Nat
  latePolicy : Nat
  keep : Bool
  ringWin : Nat
  ringOff : Nat
  flagOff : Nat
  stage : Nat
  next : Nat := 0
  batches : List Batch := []
  /-- COMMIT of the last committed batch is not yet acknowledged -/
  commitOut : Option Batch := none
  /-- the ready count has been at CHIME_LOW or more since the last chime (R315) -/
  armed : Bool := false
  deriving DecidableEq, Repr

/-- An owner table entry (Table BATQ-4) and a destination window (Table BATQ-2). -/
structure OwnEntry where
  off : Nat := 0
  owner : Nat := 0
  win : Nat := 0
  valid : Bool := false
  deriving DecidableEq, Repr

structure OwnWindow where
  base : Nat
  limit : Nat
  stride : Nat
  space : Nat
  pasid : Nat
  consumer : Nat
  /-- SPACE 0: the region that holds the window; `base` is then an offset in it (R301) -/
  region : Nat := 0
  hbm : Bool := false
  deriving DecidableEq, Repr

/-- The tensor that an owner table places (Table BATQ-3). -/
structure OwnTable where
  lt : Nat
  layout : Nat
  e : Nat
  rowBytes : Nat
  b0 : Nat
  b1 : Nat
  pitch : Nat
  t0 : Nat
  t1 : Nat
  samples : Nat
  /-- device queue whose batches it places -/
  queue : Nat
  /-- sizes of its columns' elements at the memory side (R304) -/
  colSizes : List Nat
  entries : List OwnEntry
  deriving DecidableEq, Repr

/-- One version of a plan's owner tables and windows (R306, R307). -/
structure OwnVer where
  gen : Nat := 0
  tables : List OwnTable := []
  windows : List OwnWindow := []
  deriving DecidableEq, Repr

/-- Where the records of an applied OWN_WRITE stand, for a reload (R308): operands of the command. -/
structure OwnRef where
  op0 : Word
  op1 : Word
  op2 : Word
  deriving DecidableEq, Repr

/-- An OWN_WRITE that waits for its application point: ring, version, cue slot or none for the gong. -/
structure OwnStaged where
  ring : Nat
  ver : OwnVer
  cue : Option Nat
  /-- stage of the BATCH operator at whose next gong the version applies -/
  stage : Nat
  ref : OwnRef
  deriving DecidableEq, Repr

/-- A plan's owner tables: the active version, the previous one while a batch uses it, a staged one. -/
structure OwnPlan where
  cur : OwnVer := {}
  prev : Option OwnVer := none
  staged : Option OwnStaged := none
  refs : List OwnRef := []
  deriving DecidableEq, Repr

/-- A command-ring entry waiting or in progress (R391): command code, tag, operands. -/
structure Cmd where
  code : Nat
  tag : Word
  op0 : Word
  op1 : Word
  op2 : Word
  bad : Bool := false
  deriving DecidableEq, Repr

/-- A completion (R392): tag, command code, result code, slot, count, info, beat. -/
structure Cpl where
  tag : Word
  cmd : Nat
  code : Nat
  slot : Nat
  count : Nat
  info : Nat
  beat : Nat
  deriving DecidableEq, Repr

/-- A command ring beyond its registers (R64, R74, R392). -/
structure Ring where
  waiting : List Cmd := []
  /-- completion entries written and not yet acknowledged, oldest first -/
  cpls : List Cpl := []
  phase : Bool := true
  /-- the oldest command is in progress (admission, CAR job, PLAN_STOP ...) -/
  busy : Bool := false
  deriving DecidableEq, Repr

/-- An admission in progress (R57, R58). -/
structure Admission where
  slot : Nat
  ring : Nat
  tag : Word
  deriving DecidableEq, Repr

end Sys2Proof.Machine
end

