-- ==== Sys2Proof/Machine/LinkParts.lean ====
section
/-!
DEFINITION. Structured state of the boundary: requests to the host, messages that leave the device, the link's own
tables (14), memory cells (13), pins (17).
-/

namespace Sys2Proof.Machine

open Sys2Proof

/-- D2H CXL.cache requests that the device uses (Table LINK-2), and ATS translation requests. -/
inductive ReqKind where
  | rdCurr | rdOwn | itoMWr | woWrInv | dirtyEvict | cleanEvict | ats
  deriving DecidableEq, Repr

/-- The unit that issued a request, and what the answer is for (R384). -/
inductive ReqSrc where
  | completion (ring : Nat)
  | headWb (ring : Nat)
  | strm (tile slot : Nat)
  | batchSlot (queue : Nat) (seq : Nat)
  | batchCommit (queue : Nat) (seq : Nat)
  | fastResp (slot : Nat)
  | quote
  | bias (addr : Nat) (write : Bool)
  | combine (line tile slot : Nat)
  | evict (line : Nat)
  | unit (page : Nat)
  deriving DecidableEq, Repr

/-- A request to the host: outstanding on a link, or held (R382). -/
structure HostReq where
  id : Nat
  kind : ReqKind
  link : Nat := 0
  addr : Nat
  data : List Byte := []
  poison : Bool := false
  src : ReqSrc
  deriving DecidableEq, Repr

/-- What leaves the device at its boundary. -/
inductive Msg where
  | msix (vec : Nat)
  | request (r : HostReq)
  | memData (port : Nat) (addr : Nat) (data : List Byte) (poison : Bool)
  | unitData (page addr : Nat) (data : List Byte) (poison : Bool)
  | memCmp (port : Nat) (addr : Nat)
  | snpResp (port : Nat) (addr : Nat) (data : List Byte) (hit : Bool)
  | configResp (port : Nat) (data : Word)
  | atsDone (port : Nat)
  | pri (link pasid : Nat) (addr : Nat) (write : Bool)
  | sideband (link : Nat) (data : List Byte)
  | i3c (data : List Byte)
  | flash (opcode addr : Nat) (data : List Byte)
  | hotJoin
  deriving DecidableEq, Repr

/-- A PRI page request (R397): page and PASID, and the access that faulted. -/
structure PageReq where
  page : Nat
  pasid : Nat
  write : Bool
  deriving DecidableEq, Repr

/-- A device access that waits for the host to resolve its caches (R387): the access, by the id of the request. -/
structure BiasAcc where
  id : Nat
  req : MemReq
  /-- the host has resolved its caches -/
  resolved : Bool := false
  deriving DecidableEq, Repr

/-- A BIAS_SET that waits for accesses under the old bias (R388): ring, regions, ids of the accesses. -/
structure BiasJob where
  ring : Nat
  count : Nat
  ids : List Nat
  deriving DecidableEq, Repr

/-- The link's tables beyond the ULNK registers. -/
structure Link where
  /-- the CXL write gate is closed (R411) -/
  gateClosed : Bool := false
  reqs : List HostReq := []
  held : List HostReq := []
  nextId : Nat := 0
  /-- unmasked MSI-X vectors, pending vectors, function mask and enable (R395) -/
  unmasked : List Nat := []
  msixPend : List Nat := []
  fnMask : Bool := false
  /-- translations held, by page and PASID (R396) -/
  atc : List (Nat × Nat) := []
  /-- page requests outstanding, and those that wait for an allocation (R397) -/
  pri : List PageReq := []
  priWait : List PageReq := []
  /-- lines of the coherent cache (R381) -/
  cache : KMap (Option (List Byte)) := []
  /-- ports on which the host has enabled ATS, and PASID (R398) -/
  atsEn : List Nat := []
  pasidEn : List Nat := []
  /-- device accesses to host-bias regions that wait for the host (R387) -/
  biasAccs : List BiasAcc := []
  /-- responses written so far, by lookup slot, and requests that hold a slot (R399, R400) -/
  fastSeq : KMap Nat := []
  /-- the lookup path failed, and lookups are answered with RESULT 4 until recovery (R405) -/
  fastBad : Bool := false
  /-- the coherent cache failed its test: combines to host memory are refused (Table FLT-3) -/
  combineOff : Bool := false
  /-- beats of a module's flit retries within the last second, by module number (R377) -/
  retries : KMap (List Nat) := []
  /-- BIAS_SET commands whose old accesses are not yet complete (R388): ring, regions, ids of the accesses -/
  biasJobs : List BiasJob := []
  /-- mailbox data (R379) -/
  mailbox : KMap Byte := []
  deriving DecidableEq, Repr

/-- Memory cells by storage location, and poison (13). Addresses of HBM and store memory are device addresses. -/
structure Mem where
  dev : List Host.Cell := []
  tile : List Host.Cell := []
  /-- poisoned 64 B lines of HBM (R361) and 8 B words of store memory (R368), by device address -/
  hbmPoison : List Nat := []
  storePoison : List Nat := []
  /-- beats of recent errors by channel: corrected at c, uncorrectable at 128 + c (R364) -/
  chErrs : KMap (List Nat) := []
  /-- 2 MiB regions in device bias (R387) -/
  deviceBias : List Nat := []
  deriving DecidableEq, Repr

/-- Pin levels and drive (R413, R454, R460, R469). -/
structure Pins where
  pwrok : Bool := false
  coldRstL : Bool := true
  faultL : Bool := true
  thermL : Bool := true
  /-- power-on reset holds every pin HIZ (R460) -/
  held : Bool := true
  /-- the xSPI function has taken over its pins -/
  xspi : Bool := false
  deriving DecidableEq, Repr

/-- Units that recovery fences (Table FLT-3, R427). -/
inductive FUnit where
  | tile (n : Nat)
  | quad (n : Nat)
  | dec (n : Nat)
  | cmp (n : Nat)
  | port (n : Nat)
  | bell (n : Nat)
  | stw (n : Nat)
  | stack (n : Nat)
  | channel (n : Nat)
  | half (n : Nat)
  | module (n : Nat)
  | link (n : Nat)
  /-- a block without a bit in the DBG_FENCE registers, by its page -/
  | page (n : Nat)
  deriving DecidableEq, Repr

/-- The recovery sequencer beyond the DBG registers (15): signals of the fault being handled (page, source,
argument), the units that recoveries have fenced, those that a boot or link training has fenced, the pages that
recorded a FATAL source. -/
structure Flt where
  signals : List (Nat × Nat × Nat) := []
  fenced : List FUnit := []
  bootFenced : List FUnit := []
  /-- GLB MODE at the fault's detection (R44), and the length of its quiet period in beats (R51) -/
  assist : Bool := false
  quiet : Nat := 0
  /-- the safe state is complete (R410) -/
  complete : Bool := false
  fatal : List Nat := []
  /-- quiet period of a RELEASE (R421) -/
  releasing : Bool := false
  /-- states of the slots before 6 HELD (R420) -/
  prev : KMap Nat := []
  deriving DecidableEq, Repr

/-- A quote in progress (R440): its bytes, whether its write is out, lines not yet acknowledged. -/
structure Quote where
  body : List Byte
  sent : Bool := false
  left : Nat := 0
  deriving DecidableEq, Repr

/-- The security block beyond its registers (16): the measurement log, newest record first, at most 2,048 (R438); the
quote; fuse bits that burns have changed, 1 marginal and 2 burned (R445); the digest of the firmware held (R436); the
bit that the host burns now, if any; failures of the entropy source in this boot (R444). -/
structure Sec where
  log : List (List Byte) := []
  quote : Option Quote := none
  otp : KMap Nat := []
  digest : List Byte := []
  burn : Option Nat := none
  /-- a sag has aborted that burn (R447) -/
  burnCut : Bool := false
  /-- a warm reset that waits for the burn (R455): RST_CAUSE, and what the reset meets -/
  warmWait : Option (Nat × WarmEnv) := none
  trng : Nat := 0
  deriving DecidableEq, Repr

/-- History of a junction sensor (R469): its reading, the beat since which it stands, and all readings at that beat. -/
structure Sensor where
  t : Int
  since : Nat
  all : List Int
  deriving DecidableEq, Repr

/-- Power, clocks, temperature and supplies beyond their registers (17): engine clocks stopped by the trip (R472),
quads whose sensor limits their issue come from THRM_STAT; sensors; samples for which each rail has been out of range,
below, above and below its NV floor (R461); beats of the last KICK (R473) and of each domain request (R463); address of
the next I3C read (R474). -/
structure Pwr where
  stopped : Bool := false
  sensors : KMap (Option Sensor) := []
  uvRun : KMap Nat := []
  ovRun : KMap Nat := []
  nvRun : KMap Nat := []
  kicks : KMap Nat := []
  moving : KMap (Option Nat) := []
  i3cAddr : Nat := 0
  deriving DecidableEq, Repr

end Sys2Proof.Machine
end

