-- ==== Sys2Proof/Machine/RegMap.lean ====
section
/-!
DEFINITION. The register map: every field of every register page, as the field tables of spec/ give it.
`Reg.<REGISTER>_<FIELD>` is a field's place in its page (an index `i` selects the instance of a repeated
register); `Block.fields` gives access type (R32), class (R34 to R36) and reset value of the same fields.
-/

namespace Sys2Proof.Machine

/-- A field of a register: byte offset of the register in its page, highest and lowest bit. -/
structure Fld where
  off : Nat
  hi : Nat
  lo : Nat
  deriving DecidableEq, Repr

/-- Access types of Table REGS-2 (R32). -/
inductive Acc where
  | ro | rw | w1c | wo
  deriving DecidableEq, Repr

/-- Configuration classes (R34, R35, R36). -/
inductive Cls where
  | static_ | shadow | live
  deriving DecidableEq, Repr

/-- The block types of Table REGS-1 (R28). -/
inductive Block where
  | glb
  | rst
  | pwr
  | clk
  | fuse
  | sec
  | thrm
  | supv
  | ulnk
  | sbnd
  | xspi
  | i3c
  | dbg
  | hmc
  | hphy
  | stor
  | noc
  | plan
  | fsch
  | time
  | batq
  | own
  | shuf
  | fast
  | cmdq
  | quad
  | dec
  | cmp
  | tile
  | car
  | bell
  | stw
  deriving DecidableEq, Repr

/-- A row of a field table: first offset, distance and count of the repeated registers, bits, access, class,
reset value. -/
structure FieldDef where
  off : Nat
  stride : Nat
  count : Nat
  hi : Nat
  lo : Nat
  acc : Acc
  cls : Cls
  reset : Nat
  deriving DecidableEq, Repr

namespace Reg

def BLK_ID_TYPE : Fld := ⟨0x0, 15, 0⟩
def BLK_ID_INSTANCE : Fld := ⟨0x0, 31, 16⟩
def BLK_ID_VERSION : Fld := ⟨0x0, 39, 32⟩
def BLK_CTRL_ENABLE : Fld := ⟨0x8, 0, 0⟩
def BLK_CTRL_SRESET : Fld := ⟨0x8, 1, 1⟩
def BLK_CTRL_MODE : Fld := ⟨0x8, 2, 2⟩
def BLK_CTRL_SHD_HOLD : Fld := ⟨0x8, 3, 3⟩
def BLK_CTRL_SHD_APPLY : Fld := ⟨0x8, 4, 4⟩
def BLK_CTRL_CUE_ARM : Fld := ⟨0x8, 5, 5⟩
def BLK_CTRL_CUE_SEL : Fld := ⟨0x8, 12, 8⟩
def BLK_STAT_READY : Fld := ⟨0x10, 0, 0⟩
def BLK_STAT_BUSY : Fld := ⟨0x10, 1, 1⟩
def BLK_STAT_CFG_REJECT : Fld := ⟨0x10, 2, 2⟩
def BLK_STAT_SHD_PEND : Fld := ⟨0x10, 3, 3⟩
def BLK_STAT_FENCED : Fld := ⟨0x10, 4, 4⟩
def BLK_STAT_PWR_OFF : Fld := ⟨0x10, 5, 5⟩
def BLK_STAT_REJ_CAUSE : Fld := ⟨0x10, 11, 8⟩
def BLK_STAT_REJ_OFFSET : Fld := ⟨0x10, 27, 16⟩
def BLK_GEN_GEN : Fld := ⟨0x18, 31, 0⟩
def BLK_GEN_APPLY_BEAT : Fld := ⟨0x18, 63, 32⟩
def ERR_STAT_SRC : Fld := ⟨0x20, 31, 0⟩
def ERR_SEV_SEV : Fld := ⟨0x28, 63, 0⟩
def ERR_FORCE_FORCE : Fld := ⟨0x30, 31, 0⟩
def ERR_FIRST_SOURCE : Fld := ⟨0x38, 4, 0⟩
def ERR_FIRST_FORCED : Fld := ⟨0x38, 5, 5⟩
def ERR_FIRST_VALID : Fld := ⟨0x38, 7, 7⟩
def ERR_FIRST_BEAT : Fld := ⟨0x38, 63, 8⟩
def ERR_MERGED_COUNT : Fld := ⟨0x40, 31, 0⟩
def ERR_RECOV_COUNT : Fld := ⟨0x48, 31, 0⟩
def INT_EN_EN : Fld := ⟨0x50, 63, 0⟩
def INT_STAT_ERR : Fld := ⟨0x58, 0, 0⟩
def INT_STAT_CFG : Fld := ⟨0x58, 1, 1⟩
def INT_STAT_GEN : Fld := ⟨0x58, 2, 2⟩
def INT_STAT_BLK : Fld := ⟨0x58, 63, 3⟩
def INT_VEC_VECTOR : Fld := ⟨0x60, 10, 0⟩
def PERF_SEL_EVENT (i : Nat) : Fld := ⟨0x68 + 0x10 * i, 15, 0⟩
def PERF_SEL_COUNT_EN (i : Nat) : Fld := ⟨0x68 + 0x10 * i, 16, 16⟩
def PERF_SEL_CLEAR (i : Nat) : Fld := ⟨0x68 + 0x10 * i, 17, 17⟩
def PERF_CNT_COUNT (i : Nat) : Fld := ⟨0x70 + 0x10 * i, 47, 0⟩
def PERF_CTL_FREEZE : Fld := ⟨0xf8, 0, 0⟩
def PERF_CTL_CLEAR_ALL : Fld := ⟨0xf8, 1, 1⟩
def GLB_STAT_READY : Fld := ⟨0x100, 0, 0⟩
def GLB_STAT_SAFE : Fld := ⟨0x100, 1, 1⟩
def GLB_STAT_RECOVERING : Fld := ⟨0x100, 2, 2⟩
def GLB_STAT_DOWN : Fld := ⟨0x100, 3, 3⟩
def GLB_STAT_ATTEST_EXHAUSTED : Fld := ⟨0x100, 4, 4⟩
def GLB_STAT_LGRP_OK : Fld := ⟨0x100, 5, 5⟩
def GLB_STAT_BOOT_STEP : Fld := ⟨0x100, 11, 8⟩
def GLB_PART_PART : Fld := ⟨0x108, 15, 0⟩
def GLB_PART_STEPPING : Fld := ⟨0x108, 23, 16⟩
def GLB_PART_SAMPLE : Fld := ⟨0x108, 24, 24⟩
def GLB_PART_FW_VERSION : Fld := ⟨0x108, 63, 32⟩
def GLB_SERIAL_SERIAL : Fld := ⟨0x110, 63, 0⟩
def GLB_HBM_STACK_GIB : Fld := ⟨0x118, 7, 0⟩
def GLB_HBM_HEIGHT : Fld := ⟨0x118, 15, 8⟩
def GLB_HBM_DIE_GBIT : Fld := ⟨0x118, 23, 16⟩
def GLB_HBM_RATE : Fld := ⟨0x118, 31, 24⟩
def GLB_HBM_STACK_OK : Fld := ⟨0x118, 35, 32⟩
def GLB_LGRP_PRESENT : Fld := ⟨0x120, 2, 0⟩
def GLB_LGRP_BOUND : Fld := ⟨0x120, 6, 4⟩
def GLB_LGRP_WAYS : Fld := ⟨0x120, 9, 8⟩
def GLB_LGRP_GRAN_LOG2 : Fld := ⟨0x120, 15, 12⟩
def GLB_PORT_BUS (i : Nat) : Fld := ⟨0x128 + 0x8 * i, 7, 0⟩
def GLB_PORT_DEVICE (i : Nat) : Fld := ⟨0x128 + 0x8 * i, 12, 8⟩
def GLB_PORT_FUNC (i : Nat) : Fld := ⟨0x128 + 0x8 * i, 15, 13⟩
def GLB_PORT_MODULES_UP (i : Nat) : Fld := ⟨0x128 + 0x8 * i, 19, 16⟩
def GLB_PORT_RATE (i : Nat) : Fld := ⟨0x128 + 0x8 * i, 23, 20⟩
def GLB_PORT_TRAINED (i : Nat) : Fld := ⟨0x128 + 0x8 * i, 24, 24⟩
def GLB_RECOV_COUNT : Fld := ⟨0x140, 31, 0⟩
def GLB_RECOV_IN_HOUR : Fld := ⟨0x140, 39, 32⟩
def GLB_RECOV_RECOV_LIMIT : Fld := ⟨0x140, 47, 40⟩
def GLB_RECOV_RELEASE : Fld := ⟨0x140, 48, 48⟩
def GLB_FLT_QUIET_MS : Fld := ⟨0x148, 16, 0⟩
def PLAN_SLOT_OCCUPIED : Fld := ⟨0x100, 15, 0⟩
def PLAN_SLOT_RUNNING : Fld := ⟨0x100, 31, 16⟩
def PLAN_FREE_TILES_MASK : Fld := ⟨0x108, 63, 0⟩
def PLAN_FREE_BELLS_MASK : Fld := ⟨0x110, 31, 0⟩
def PLAN_FREE_BELLS_STW : Fld := ⟨0x110, 47, 32⟩
def PLAN_FREE_BELLS_CUES : Fld := ⟨0x110, 63, 48⟩
def PLAN_FREE_STORE_GRAN : Fld := ⟨0x118, 10, 0⟩
def PLAN_FREE_STORE_RUN : Fld := ⟨0x118, 42, 32⟩
def PLAN_FREE_HBM_GRAN : Fld := ⟨0x120, 17, 0⟩
def PLAN_FREE_HBM_RUN : Fld := ⟨0x120, 49, 32⟩
def PLAN_FREE_MISC0_FLOWS : Fld := ⟨0x128, 18, 0⟩
def PLAN_FREE_MISC0_OWN : Fld := ⟨0x128, 38, 32⟩
def PLAN_FREE_MISC0_QUEUES : Fld := ⟨0x128, 46, 40⟩
def PLAN_FREE_MISC0_DEC : Fld := ⟨0x128, 53, 48⟩
def PLAN_FREE_MISC0_ALIGN : Fld := ⟨0x128, 61, 56⟩
def PLAN_FREE_MISC1_DELAY : Fld := ⟨0x130, 16, 0⟩
def PLAN_FREE_MISC1_WINDOWS : Fld := ⟨0x130, 42, 32⟩
def PLAN_GONG_TMO_LOG2 : Fld := ⟨0x138, 5, 0⟩
def PLAN_GONG_TMO_START_LOG2 : Fld := ⟨0x138, 13, 8⟩
def PLAN_GONG_MISS_TILES : Fld := ⟨0x140, 63, 0⟩
def PLAN_GONG_WHERE_STW : Fld := ⟨0x148, 15, 0⟩
def PLAN_GONG_WHERE_SLOT : Fld := ⟨0x148, 19, 16⟩
def PLAN_GONG_WHERE_STAGE : Fld := ⟨0x148, 25, 20⟩
def PLAN_ADMIT_REASON : Fld := ⟨0x150, 7, 0⟩
def PLAN_ADMIT_SLOT : Fld := ⟨0x150, 11, 8⟩
def PLAN_ADMIT_CLAIM : Fld := ⟨0x150, 21, 16⟩
def PLAN_ADMIT_DERIVED : Fld := ⟨0x150, 22, 22⟩
def PLAN_ADMIT_IMAGE_AREA : Fld := ⟨0x150, 23, 23⟩
def PLAN_REGION_SEL_SLOT : Fld := ⟨0x158, 3, 0⟩
def PLAN_REGION_SEL_HBM : Fld := ⟨0x158, 4, 4⟩
def PLAN_REGION_SEL_REGION : Fld := ⟨0x158, 11, 8⟩
def PLAN_REGION_BASE : Fld := ⟨0x160, 47, 0⟩
def PLAN_REGION_VALID : Fld := ⟨0x160, 63, 63⟩
def PLAN_P_STAT_STATE (i : Nat) : Fld := ⟨0x200 + 0x20 * i, 2, 0⟩
def PLAN_P_STAT_REASON (i : Nat) : Fld := ⟨0x200 + 0x20 * i, 15, 8⟩
def PLAN_P_STAT_STAGES (i : Nat) : Fld := ⟨0x200 + 0x20 * i, 22, 16⟩
def PLAN_P_ID_PLAN_ID (i : Nat) : Fld := ⟨0x208 + 0x20 * i, 63, 0⟩
def PLAN_P_CHUNKS_DONE (i : Nat) : Fld := ⟨0x210 + 0x20 * i, 47, 0⟩
def PLAN_P_PGEN_GEN (i : Nat) : Fld := ⟨0x218 + 0x20 * i, 31, 0⟩
def PLAN_P_PGEN_APPLY_BEAT (i : Nat) : Fld := ⟨0x218 + 0x20 * i, 63, 32⟩
def CMDQ_R_BASE_ADDR (i : Nat) : Fld := ⟨0x100 + 0x20 * i, 63, 6⟩
def CMDQ_R_CFG_SIZE_LOG2 (i : Nat) : Fld := ⟨0x108 + 0x20 * i, 4, 0⟩
def CMDQ_R_CFG_EN (i : Nat) : Fld := ⟨0x108 + 0x20 * i, 8, 8⟩
def CMDQ_R_CFG_VIRT (i : Nat) : Fld := ⟨0x108 + 0x20 * i, 9, 9⟩
def CMDQ_R_CFG_PASID (i : Nat) : Fld := ⟨0x108 + 0x20 * i, 29, 10⟩
def CMDQ_R_CFG_VECTOR (i : Nat) : Fld := ⟨0x108 + 0x20 * i, 40, 30⟩
def CMDQ_R_CFG_CPL_INT (i : Nat) : Fld := ⟨0x108 + 0x20 * i, 41, 41⟩
def CMDQ_R_CPL_ADDR (i : Nat) : Fld := ⟨0x110 + 0x20 * i, 63, 6⟩
def CMDQ_R_IDX_HEAD (i : Nat) : Fld := ⟨0x118 + 0x20 * i, 15, 0⟩
def CMDQ_R_IDX_TAIL (i : Nat) : Fld := ⟨0x118 + 0x20 * i, 31, 16⟩
def CMDQ_R_IDX_CPL_TAIL (i : Nat) : Fld := ⟨0x118 + 0x20 * i, 47, 32⟩
def HMC_BWSPLIT_READ : Fld := ⟨0x400, 5, 0⟩
def HMC_BWSPLIT_WRITE : Fld := ⟨0x400, 13, 8⟩
def HMC_BWSPLIT_REMOTE : Fld := ⟨0x400, 21, 16⟩
def TILE_STRM_CFG_PF_TIMEOUT_MS : Fld := ⟨0x800, 15, 0⟩
def TILE_STRM_STAT_OUTSTANDING : Fld := ⟨0x808, 3, 0⟩
def TILE_STRM_STAT_LINES : Fld := ⟨0x808, 16, 8⟩
def TILE_STRM_STAT_PF_WAIT : Fld := ⟨0x808, 24, 24⟩
def TILE_STRM_D_STATE (i : Nat) : Fld := ⟨0x810 + 0x8 * i, 2, 0⟩
def TILE_STRM_D_THREAD (i : Nat) : Fld := ⟨0x810 + 0x8 * i, 6, 4⟩
def TILE_STRM_D_DIR (i : Nat) : Fld := ⟨0x810 + 0x8 * i, 7, 7⟩
def TILE_STRM_D_ELEMS_DONE (i : Nat) : Fld := ⟨0x810 + 0x8 * i, 63, 16⟩
def DEC_CFG_QUANTUM : Fld := ⟨0x100, 7, 0⟩
def DEC_STAT_ACTIVE : Fld := ⟨0x108, 0, 0⟩
def DEC_STAT_SLOT : Fld := ⟨0x108, 7, 4⟩
def DEC_STAT_OP : Fld := ⟨0x108, 23, 8⟩
def DEC_STAT_STREAMS : Fld := ⟨0x108, 31, 24⟩
def DEC_STAT_CODEC : Fld := ⟨0x108, 39, 32⟩
def DEC_IN_POS_POS : Fld := ⟨0x110, 47, 0⟩
def DEC_OUT_TOTAL_BYTES : Fld := ⟨0x118, 63, 0⟩
def DEC_DMG_NEXT_SEQ : Fld := ⟨0x120, 31, 0⟩
def DEC_DMG_COUNT : Fld := ⟨0x120, 63, 32⟩
def DEC_DMG_LAST_WORD (i : Nat) : Fld := ⟨0x128 + 0x8 * i, 63, 0⟩
def DEC_CTX_SAVES : Fld := ⟨0x148, 31, 0⟩
def DEC_CTX_RESTORES : Fld := ⟨0x148, 63, 32⟩
def DEC_ASSIST_FRAMES : Fld := ⟨0x150, 31, 0⟩
def DEC_ASSIST_UNSUPPORTED : Fld := ⟨0x150, 63, 32⟩
def CMP_CFG_LEVEL : Fld := ⟨0x100, 2, 0⟩
def CMP_STAT_FRAMES : Fld := ⟨0x108, 31, 0⟩
def CMP_STAT_STORED_BLOCKS : Fld := ⟨0x108, 63, 32⟩
def CMP_ECHO_OFFSET : Fld := ⟨0x110, 47, 0⟩
def CMP_ECHO_SLOT : Fld := ⟨0x110, 51, 48⟩
def CMP_ECHO_OP : Fld := ⟨0x110, 59, 52⟩
def TILE_CFG_FTZ : Fld := ⟨0x100, 0, 0⟩
def TILE_THR_STATE : Fld := ⟨0x108, 31, 0⟩
def TILE_THR_PREFETCH : Fld := ⟨0x108, 39, 32⟩
def TILE_THR_DIVERT_HELD : Fld := ⟨0x108, 44, 40⟩
def TILE_RUN_SLOT : Fld := ⟨0x110, 3, 0⟩
def TILE_RUN_STAGE : Fld := ⟨0x110, 9, 4⟩
def TILE_RUN_CHUNK : Fld := ⟨0x110, 63, 16⟩
def TILE_PC_PC (i : Nat) : Fld := ⟨0x118 + 0x8 * i, 13, 0⟩
def TILE_PC_IN_ITEM (i : Nat) : Fld := ⟨0x118 + 0x8 * i, 16, 16⟩
def TILE_PC_ITEM_CYCLES (i : Nat) : Fld := ⟨0x118 + 0x8 * i, 63, 32⟩
def TILE_ITEM_ITEMS : Fld := ⟨0x158, 31, 0⟩
def TILE_ITEM_DIVERTED : Fld := ⟨0x158, 63, 32⟩
def TILE_FAULT_THREAD : Fld := ⟨0x160, 2, 0⟩
def TILE_FAULT_PC : Fld := ⟨0x160, 16, 3⟩
def TILE_FAULT_CAUSE : Fld := ⟨0x160, 19, 17⟩
def TILE_FAULT_OFFSET : Fld := ⟨0x160, 54, 32⟩
def TILE_TM_ECC_CORRECTED : Fld := ⟨0x168, 31, 0⟩
def TILE_TM_ECC_LAST_ADDR : Fld := ⟨0x168, 54, 32⟩
def TILE_TM_ECC_LAST_UNCORR : Fld := ⟨0x168, 63, 63⟩
def QUAD_STAT_TILE_READY : Fld := ⟨0x100, 3, 0⟩
def QUAD_STAT_DEC_READY : Fld := ⟨0x100, 5, 4⟩
def QUAD_STAT_CMP_READY : Fld := ⟨0x100, 6, 6⟩
def QUAD_SORT_ASSISTED : Fld := ⟨0x108, 31, 0⟩
def TILE_PROBE_STAT_SERVED : Fld := ⟨0x880, 31, 0⟩
def TILE_PROBE_STAT_QUEUED : Fld := ⟨0x880, 39, 32⟩
def TILE_PROBE_HOT_REPLICAS : Fld := ⟨0x888, 6, 0⟩
def TILE_PROBE_HOT_PARTIALS : Fld := ⟨0x888, 17, 8⟩
def TILE_PROBE_HOT_REFUSED : Fld := ⟨0x888, 63, 32⟩
def TILE_PROBE_SPILL_EVICTED : Fld := ⟨0x890, 31, 0⟩
def TILE_PROBE_SPILL_PASSES : Fld := ⟨0x890, 47, 32⟩
def TILE_PROBE_SPILL_MAX_LEVEL : Fld := ⟨0x890, 49, 48⟩
def TILE_PROBE_NULL_SKIPPED : Fld := ⟨0x898, 31, 0⟩
def CAR_CFG_THR_OFFSET : Fld := ⟨0x100, 3, 0⟩
def CAR_CFG_SCRUB_EN : Fld := ⟨0x100, 8, 8⟩
def CAR_STAT_THROTTLE : Fld := ⟨0x108, 1, 0⟩
def CAR_STAT_TEMP : Fld := ⟨0x108, 15, 8⟩
def CAR_STAT_PORTS_UP : Fld := ⟨0x108, 19, 16⟩
def CAR_T_CFG_SLOT (i : Nat) : Fld := ⟨0x200 + 0x10 * i, 3, 0⟩
def CAR_T_CFG_LT (i : Nat) : Fld := ⟨0x200 + 0x10 * i, 7, 4⟩
def CAR_T_CFG_KIND (i : Nat) : Fld := ⟨0x200 + 0x10 * i, 9, 8⟩
def CAR_T_CFG_REPL (i : Nat) : Fld := ⟨0x200 + 0x10 * i, 11, 10⟩
def CAR_T_CFG_BELLS (i : Nat) : Fld := ⟨0x200 + 0x10 * i, 17, 12⟩
def CAR_T_CFG_STANDBY (i : Nat) : Fld := ⟨0x200 + 0x10 * i, 18, 18⟩
def CAR_T_CFG_VALID (i : Nat) : Fld := ⟨0x200 + 0x10 * i, 19, 19⟩
def CAR_T_CFG_LAT_EN (i : Nat) : Fld := ⟨0x200 + 0x10 * i, 20, 20⟩
def CAR_T_CFG_LAT_REPLICA (i : Nat) : Fld := ⟨0x200 + 0x10 * i, 22, 21⟩
def CAR_T_CFG_ACTIVE_SET (i : Nat) : Fld := ⟨0x200 + 0x10 * i, 23, 23⟩
def CAR_T_CFG_LOADING (i : Nat) : Fld := ⟨0x200 + 0x10 * i, 24, 24⟩
def CAR_T_CFG_LOST (i : Nat) : Fld := ⟨0x200 + 0x10 * i, 25, 25⟩
def CAR_T_STAT_ENTRIES (i : Nat) : Fld := ⟨0x208 + 0x10 * i, 19, 0⟩
def CAR_T_STAT_SWAPS (i : Nat) : Fld := ⟨0x208 + 0x10 * i, 63, 32⟩
def BELL_STAT_TABLE : Fld := ⟨0x100, 4, 0⟩
def BELL_STAT_IN_USE : Fld := ⟨0x100, 5, 5⟩
def BELL_STAT_REPLICA : Fld := ⟨0x100, 7, 6⟩
def BELL_STAT_SET : Fld := ⟨0x100, 8, 8⟩
def BELL_STAT_LOGICAL : Fld := ⟨0x100, 13, 9⟩
def BELL_STAT_SHIFTING : Fld := ⟨0x100, 14, 14⟩
def BELL_STAT_CURSOR_OPEN : Fld := ⟨0x100, 15, 15⟩
def BELL_STAT_SHIFT_REMAIN : Fld := ⟨0x100, 29, 16⟩
def BELL_STAT_SHIFTS : Fld := ⟨0x100, 63, 32⟩
def BELL_OCC_VALID : Fld := ⟨0x108, 14, 0⟩
def BELL_OCC_CLASSES : Fld := ⟨0x108, 24, 16⟩
def BELL_OCC_FREE : Fld := ⟨0x108, 46, 32⟩
def BELL_SCRUB_POS : Fld := ⟨0x110, 13, 0⟩
def BELL_SCRUB_LOST : Fld := ⟨0x110, 14, 14⟩
def BELL_SCRUB_LOST_IDX : Fld := ⟨0x110, 29, 16⟩
def BELL_SCRUB_FIXED : Fld := ⟨0x110, 63, 32⟩
def BELL_SHADOW_ADDR : Fld := ⟨0x118, 47, 21⟩
def TILE_SORT_STAT_NAN_DROPPED : Fld := ⟨0x900, 31, 0⟩
def TILE_SORT_STAT_CONFLICTS : Fld := ⟨0x900, 47, 32⟩
def TILE_SORT_STAT_LISTS_BAD : Fld := ⟨0x900, 63, 48⟩
def TILE_SORT_DUP_REMOVED : Fld := ⟨0x908, 31, 0⟩
def OWN_STAT_TABLES : Fld := ⟨0x100, 6, 0⟩
def OWN_STAT_WINDOWS : Fld := ⟨0x100, 26, 16⟩
def OWN_STAT_PREV_HELD : Fld := ⟨0x100, 32, 32⟩
def OWN_DROPPED_INVALID : Fld := ⟨0x108, 31, 0⟩
def OWN_DROPPED_LATE : Fld := ⟨0x108, 63, 32⟩
def OWN_ECC_CORRECTED : Fld := ⟨0x110, 31, 0⟩
def OWN_ECC_LAST_ADDR : Fld := ⟨0x110, 53, 32⟩
def OWN_ECC_LAST_UNCORR : Fld := ⟨0x110, 63, 63⟩
def OWN_GEN_GEN : Fld := ⟨0x118, 31, 0⟩
def OWN_GEN_APPLY_BEAT : Fld := ⟨0x118, 63, 32⟩
def BATQ_CFG_REGEN_LIMIT : Fld := ⟨0x100, 3, 0⟩
def BATQ_CHIME_PENDING : Fld := ⟨0x108, 63, 0⟩
def BATQ_Q_CFG_CHIME_LOW (i : Nat) : Fld := ⟨0x200 + 0x20 * i, 16, 0⟩
def BATQ_Q_CFG_VECTOR (i : Nat) : Fld := ⟨0x200 + 0x20 * i, 42, 32⟩
def BATQ_Q_PROD_SEQ (i : Nat) : Fld := ⟨0x208 + 0x20 * i, 63, 0⟩
def BATQ_Q_CONS_SEQ (i : Nat) : Fld := ⟨0x210 + 0x20 * i, 63, 0⟩
def BATQ_Q_STAT_SLOT (i : Nat) : Fld := ⟨0x218 + 0x20 * i, 3, 0⟩
def BATQ_Q_STAT_IN_USE (i : Nat) : Fld := ⟨0x218 + 0x20 * i, 4, 4⟩
def BATQ_Q_STAT_RING_STALL (i : Nat) : Fld := ⟨0x218 + 0x20 * i, 5, 5⟩
def BATQ_Q_STAT_WINDOW_STALL (i : Nat) : Fld := ⟨0x218 + 0x20 * i, 6, 6⟩
def BATQ_Q_STAT_SLOTS_LOG2 (i : Nat) : Fld := ⟨0x218 + 0x20 * i, 12, 8⟩
def BATQ_Q_STAT_DEPTH (i : Nat) : Fld := ⟨0x218 + 0x20 * i, 20, 14⟩
def BATQ_Q_STAT_OPEN (i : Nat) : Fld := ⟨0x218 + 0x20 * i, 27, 21⟩
def BATQ_Q_STAT_REGENERATED (i : Nat) : Fld := ⟨0x218 + 0x20 * i, 63, 32⟩
def SHUF_STAT_WALK_MAX : Fld := ⟨0x100, 31, 0⟩
def SHUF_STAT_AHEAD : Fld := ⟨0x100, 39, 32⟩
def SHUF_CNT_AUG_MISSING : Fld := ⟨0x108, 31, 0⟩
def SHUF_CNT_AUG_READ_ERR : Fld := ⟨0x108, 47, 32⟩
def SHUF_CNT_DIVERGED : Fld := ⟨0x108, 63, 48⟩
def SHUF_P_EPOCH_EPOCH (i : Nat) : Fld := ⟨0x200 + 0x10 * i, 31, 0⟩
def SHUF_P_EPOCH_NEXT_KEYS (i : Nat) : Fld := ⟨0x200 + 0x10 * i, 32, 32⟩
def SHUF_P_STEP_STEP (i : Nat) : Fld := ⟨0x208 + 0x10 * i, 63, 0⟩
def FSCH_CFG_RECLAIM_BEATS : Fld := ⟨0x100, 23, 0⟩
def FSCH_CFG_HIST_CLEAR : Fld := ⟨0x100, 32, 32⟩
def FSCH_CFG_HIST_PRIO : Fld := ⟨0x100, 47, 40⟩
def FSCH_TICK_DIV : Fld := ⟨0x108, 20, 0⟩
def FSCH_TICK_NOW_TICK : Fld := ⟨0x110, 63, 0⟩
def FSCH_POOL_USED : Fld := ⟨0x118, 20, 0⟩
def FSCH_POOL_HOST_LIMIT : Fld := ⟨0x118, 52, 32⟩
def FSCH_POOL_HWM_MAX : Fld := ⟨0x120, 20, 0⟩
def FSCH_POOL_HWM_CLEAR : Fld := ⟨0x120, 32, 32⟩
def FSCH_DEPTH_LOW (i : Nat) : Fld := ⟨0x128 + 0x8 * i, 20, 0⟩
def FSCH_DEPTH_HIGH (i : Nat) : Fld := ⟨0x128 + 0x8 * i, 52, 32⟩
def FSCH_WATCH_FLOW : Fld := ⟨0x148, 17, 0⟩
def FSCH_WATCH_CLEAR : Fld := ⟨0x148, 32, 32⟩
def FSCH_WATCH_STAT_DELIVERED : Fld := ⟨0x150, 31, 0⟩
def FSCH_WATCH_STAT_MAX_WAIT : Fld := ⟨0x150, 63, 32⟩
def FSCH_WATCH_LAST_LAST_WAIT : Fld := ⟨0x158, 31, 0⟩
def FSCH_WATCH_LAST_WAITING : Fld := ⟨0x158, 52, 32⟩
def FSCH_WATCH_LAST_IN_SERVICE : Fld := ⟨0x158, 56, 56⟩
def FSCH_LOAD_SEL_UNIT : Fld := ⟨0x160, 6, 0⟩
def FSCH_LOAD_DELIVERED : Fld := ⟨0x168, 31, 0⟩
def FSCH_LOAD_SERVICE : Fld := ⟨0x168, 63, 32⟩
def FSCH_LOST_FLOW : Fld := ⟨0x170, 17, 0⟩
def FSCH_LOST_SLOT : Fld := ⟨0x170, 27, 24⟩
def FSCH_LOST_COUNT : Fld := ⟨0x170, 63, 32⟩
def FSCH_HIST_COUNT (i : Nat) : Fld := ⟨0x180 + 0x8 * i, 47, 0⟩
def FSCH_R_BASE_ADDR (i : Nat) : Fld := ⟨0x200 + 0x20 * i, 63, 6⟩
def FSCH_R_CFG_SIZE_LOG2 (i : Nat) : Fld := ⟨0x208 + 0x20 * i, 4, 0⟩
def FSCH_R_CFG_EN (i : Nat) : Fld := ⟨0x208 + 0x20 * i, 8, 8⟩
def FSCH_R_CFG_VIRT (i : Nat) : Fld := ⟨0x208 + 0x20 * i, 9, 9⟩
def FSCH_R_CFG_PASID (i : Nat) : Fld := ⟨0x208 + 0x20 * i, 29, 10⟩
def FSCH_R_WB_ADDR (i : Nat) : Fld := ⟨0x210 + 0x20 * i, 63, 3⟩
def FSCH_R_IDX_HEAD (i : Nat) : Fld := ⟨0x218 + 0x20 * i, 15, 0⟩
def FSCH_R_IDX_TAIL (i : Nat) : Fld := ⟨0x218 + 0x20 * i, 31, 16⟩
def FSCH_R_IDX_REJECTED (i : Nat) : Fld := ⟨0x218 + 0x20 * i, 63, 32⟩
def FSCH_P_FLOW_BASE (i : Nat) : Fld := ⟨0x400 + 0x10 * i, 17, 0⟩
def FSCH_P_FLOW_LOG2 (i : Nat) : Fld := ⟨0x400 + 0x10 * i, 24, 20⟩
def FSCH_P_ARR_NEXT (i : Nat) : Fld := ⟨0x408 + 0x10 * i, 63, 0⟩
def FSCH_G_WM_WM (i : Nat) : Fld := ⟨0x500 + 0x10 * i, 63, 0⟩
def FSCH_G_STAT_ACTIVE (i : Nat) : Fld := ⟨0x508 + 0x10 * i, 15, 0⟩
def FSCH_G_STAT_SLOT (i : Nat) : Fld := ⟨0x508 + 0x10 * i, 19, 16⟩
def FSCH_G_STAT_IN_USE (i : Nat) : Fld := ⟨0x508 + 0x10 * i, 20, 20⟩
def FSCH_G_STAT_LATE (i : Nat) : Fld := ⟨0x508 + 0x10 * i, 63, 32⟩
def TIME_BEAT_BEAT : Fld := ⟨0x100, 63, 0⟩
def TIME_SNAP_TAKE : Fld := ⟨0x108, 0, 0⟩
def TIME_SNAP_BEAT_BEAT : Fld := ⟨0x110, 63, 0⟩
def TIME_SNAP_WALL_NS : Fld := ⟨0x118, 63, 0⟩
def TIME_REF_BEAT_BEAT : Fld := ⟨0x120, 63, 0⟩
def TIME_REF_WALL_NS : Fld := ⟨0x128, 63, 0⟩
def TIME_RATE_PPB : Fld := ⟨0x130, 31, 0⟩
def TIME_SYNC_EN : Fld := ⟨0x138, 0, 0⟩
def TIME_SYNC_DISCIPLINE : Fld := ⟨0x138, 1, 1⟩
def TIME_SYNC_FALLING : Fld := ⟨0x138, 2, 2⟩
def TIME_SYNC_PERIOD_US : Fld := ⟨0x138, 31, 8⟩
def TIME_SYNC_TOL_US : Fld := ⟨0x138, 47, 32⟩
def TIME_SYNC_BEAT_BEAT : Fld := ⟨0x140, 63, 0⟩
def TIME_SYNC_ERR_NS : Fld := ⟨0x148, 63, 0⟩
def TIME_SYNC_STAT_ACCEPTED : Fld := ⟨0x150, 31, 0⟩
def TIME_SYNC_STAT_REJECTED : Fld := ⟨0x150, 63, 32⟩
def TIME_REPL_MISMATCHES : Fld := ⟨0x158, 31, 0⟩
def TIME_REPL_LAST_PAGE : Fld := ⟨0x158, 47, 32⟩
def TIME_CUE_BEAT_TARGET (i : Nat) : Fld := ⟨0x200 + 0x10 * i, 63, 0⟩
def TIME_CUE_CTL_POST (i : Nat) : Fld := ⟨0x208 + 0x10 * i, 0, 0⟩
def TIME_CUE_CTL_PENDING (i : Nat) : Fld := ⟨0x208 + 0x10 * i, 1, 1⟩
def TIME_CUE_CTL_LATE (i : Nat) : Fld := ⟨0x208 + 0x10 * i, 2, 2⟩
def TIME_CUE_CTL_PLAN (i : Nat) : Fld := ⟨0x208 + 0x10 * i, 3, 3⟩
def TIME_CUE_CTL_FIRED (i : Nat) : Fld := ⟨0x208 + 0x10 * i, 63, 32⟩
def TIME_P_CAD_NEXT (i : Nat) : Fld := ⟨0x400 + 0x10 * i, 63, 0⟩
def TIME_P_RT_LATE_STARTS (i : Nat) : Fld := ⟨0x408 + 0x10 * i, 31, 0⟩
def TIME_P_RT_CHUNKS (i : Nat) : Fld := ⟨0x408 + 0x10 * i, 63, 32⟩
def HMC_CFG_HOT_C : Fld := ⟨0x100, 7, 0⟩
def HMC_CFG_CRIT_C : Fld := ⟨0x100, 15, 8⟩
def HMC_CFG_SCRUB_EN : Fld := ⟨0x100, 16, 16⟩
def HMC_STAT_CH_UP : Fld := ⟨0x108, 31, 0⟩
def HMC_STAT_TEMP : Fld := ⟨0x108, 39, 32⟩
def HMC_STAT_REF_RATE : Fld := ⟨0x108, 41, 40⟩
def HMC_STAT_THROTTLED : Fld := ⟨0x108, 42, 42⟩
def HMC_ECC_CORRECTED : Fld := ⟨0x110, 31, 0⟩
def HMC_ECC_UNCORR : Fld := ⟨0x110, 47, 32⟩
def HMC_ECC_LAST_CH : Fld := ⟨0x110, 52, 48⟩
def HMC_ECC_CFG_CE_LIMIT : Fld := ⟨0x118, 15, 0⟩
def HMC_ECC_CFG_UE_LIMIT : Fld := ⟨0x118, 23, 16⟩
def HMC_SCRUB_PERIOD_H : Fld := ⟨0x120, 7, 0⟩
def HMC_SCRUB_PASSES : Fld := ⟨0x120, 63, 32⟩
def HMC0_ZONE_FINE_GIB : Fld := ⟨0x408, 7, 0⟩
def HMC0_ZONE_CL_UNITS : Fld := ⟨0x408, 13, 8⟩
def HPHY_CFG_MAX_RATE : Fld := ⟨0x100, 2, 0⟩
def HPHY_CFG_FALLBACK : Fld := ⟨0x100, 3, 3⟩
def HPHY_STAT_RATE : Fld := ⟨0x108, 2, 0⟩
def HPHY_STAT_FUSE_MAX : Fld := ⟨0x108, 5, 3⟩
def HPHY_STAT_TRAINED : Fld := ⟨0x108, 6, 6⟩
def HPHY_STAT_CH_TRAINED : Fld := ⟨0x108, 63, 32⟩
def HPHY_TRAIN_STEP : Fld := ⟨0x110, 3, 0⟩
def HPHY_TRAIN_RESULT : Fld := ⟨0x110, 15, 8⟩
def HPHY_TRAIN_CH_FAIL : Fld := ⟨0x110, 63, 32⟩
def HPHY_STEP_STEP : Fld := ⟨0x118, 3, 0⟩
def STOR_STAT_BIST_DONE : Fld := ⟨0x100, 0, 0⟩
def STOR_STAT_BASE_FENCED : Fld := ⟨0x100, 1, 1⟩
def STOR_STAT_STORE_FENCED : Fld := ⟨0x100, 2, 2⟩
def STOR_ECC_CORRECTED : Fld := ⟨0x108, 31, 0⟩
def STOR_ECC_UNCORR : Fld := ⟨0x108, 47, 32⟩
def STOR_ECC_LAST_BANK : Fld := ⟨0x108, 55, 48⟩
def STOR_SCRUB_EN : Fld := ⟨0x110, 0, 0⟩
def STOR_SCRUB_PASSES : Fld := ⟨0x110, 63, 32⟩
def NOC_HOLE_ADDR : Fld := ⟨0x100, 47, 0⟩
def NOC_HOLE_PAGE : Fld := ⟨0x100, 56, 48⟩
def NOC_STAT_HOLES : Fld := ⟨0x108, 31, 0⟩
def NOC_STAT_LINK_CORR : Fld := ⟨0x108, 63, 32⟩
def ULNK_CFG_MAX_RATE : Fld := ⟨0x100, 2, 0⟩
def ULNK_CFG_FALLBACK : Fld := ⟨0x100, 3, 3⟩
def ULNK_CFG_RETRY_LIMIT : Fld := ⟨0x100, 23, 8⟩
def ULNK_STAT_TRAINED : Fld := ⟨0x108, 0, 0⟩
def ULNK_STAT_PRIMARY : Fld := ⟨0x108, 1, 1⟩
def ULNK_STAT_BOUND : Fld := ⟨0x108, 2, 2⟩
def ULNK_STAT_FENCED : Fld := ⟨0x108, 3, 3⟩
def ULNK_STAT_RATE : Fld := ⟨0x108, 6, 4⟩
def ULNK_STAT_MODULES_UP : Fld := ⟨0x108, 11, 8⟩
def ULNK_STAT_RANK : Fld := ⟨0x108, 13, 12⟩
def ULNK_STAT_CACHE_EN : Fld := ⟨0x108, 14, 14⟩
def ULNK_STAT_MEM_EN : Fld := ⟨0x108, 15, 15⟩
def ULNK_STAT_FUSE_MAX : Fld := ⟨0x108, 18, 16⟩
def ULNK_RETRY_MOD : Fld := ⟨0x110, 63, 0⟩
def ULNK_HDM_BASE_ADDR (i : Nat) : Fld := ⟨0x118 + 0x10 * i, 63, 28⟩
def ULNK_HDM_SIZE_IW (i : Nat) : Fld := ⟨0x120 + 0x10 * i, 3, 0⟩
def ULNK_HDM_SIZE_COMMITTED (i : Nat) : Fld := ⟨0x120 + 0x10 * i, 4, 4⟩
def ULNK_HDM_SIZE_BYTES (i : Nat) : Fld := ⟨0x120 + 0x10 * i, 63, 28⟩
def ULNK_ATS_ENTRIES : Fld := ⟨0x138, 13, 0⟩
def ULNK_ATS_INVALIDATIONS : Fld := ⟨0x138, 63, 32⟩
def ULNK_PRI_OUTSTANDING : Fld := ⟨0x140, 9, 0⟩
def ULNK_PRI_ALLOC : Fld := ⟨0x140, 25, 16⟩
def ULNK_PRI_ENABLED : Fld := ⟨0x140, 26, 26⟩
def ULNK_PRI_FAILED : Fld := ⟨0x140, 27, 27⟩
def ULNK_PRI_REQUESTS : Fld := ⟨0x140, 63, 32⟩
def ULNK_CNT_RESENT : Fld := ⟨0x148, 31, 0⟩
def ULNK_CNT_MEM_POISON : Fld := ⟨0x148, 63, 32⟩
def SBND_STAT_UP : Fld := ⟨0x100, 11, 0⟩
def SBND_STAT_MBX_LINK : Fld := ⟨0x100, 13, 12⟩
def SBND_STAT_FW_BYTES : Fld := ⟨0x100, 63, 32⟩
def SBND_MBX_WORD : Fld := ⟨0x108, 63, 0⟩
def FAST_RESP_ADDR : Fld := ⟨0x108, 63, 12⟩
def FAST_STAT_LOOKUPS : Fld := ⟨0x110, 31, 0⟩
def FAST_STAT_DROPPED : Fld := ⟨0x110, 63, 32⟩
def FAST_LAT_LAST : Fld := ⟨0x118, 7, 0⟩
def FAST_LAT_MIN : Fld := ⟨0x118, 15, 8⟩
def FAST_LAT_MAX : Fld := ⟨0x118, 23, 16⟩
def FAST_LAT_CLEAR : Fld := ⟨0x118, 24, 24⟩
def FAST_GMASK_MASK (i : Nat) : Fld := ⟨0x200 + 0x8 * i, 63, 0⟩
def DBG_FLT_STATE : Fld := ⟨0x100, 2, 0⟩
def DBG_FLT_SEV : Fld := ⟨0x100, 5, 4⟩
def DBG_FLT_RESTARTS : Fld := ⟨0x100, 7, 6⟩
def DBG_FLT_FIRST_PAGE : Fld := ⟨0x100, 24, 16⟩
def DBG_FLT_FIRST_SRC : Fld := ⟨0x100, 29, 25⟩
def DBG_FLT_BEAT_BEAT : Fld := ⟨0x108, 63, 0⟩
def DBG_FLT_MERGED_COUNT : Fld := ⟨0x110, 31, 0⟩
def DBG_QUIET_END_BEAT : Fld := ⟨0x118, 63, 0⟩
def DBG_FENCE_TILE_TILES : Fld := ⟨0x120, 63, 0⟩
def DBG_FENCE_MISC_QUADS : Fld := ⟨0x128, 15, 0⟩
def DBG_FENCE_MISC_STW : Fld := ⟨0x128, 31, 16⟩
def DBG_FENCE_MISC_PORTS : Fld := ⟨0x128, 35, 32⟩
def DBG_FENCE_MEM_BELLS : Fld := ⟨0x130, 31, 0⟩
def DBG_FENCE_MEM_STACKS : Fld := ⟨0x130, 35, 32⟩
def DBG_FENCE_MEM_HALVES : Fld := ⟨0x130, 37, 36⟩
def DBG_FENCE_MEM_MODULES : Fld := ⟨0x130, 49, 38⟩
def DBG_FENCE_MEM_LINKS : Fld := ⟨0x130, 52, 50⟩
def DBG_FENCE_CH0_CH : Fld := ⟨0x138, 63, 0⟩
def DBG_FENCE_CH1_CH : Fld := ⟨0x140, 63, 0⟩
def DBG_FENCE_DEC_DEC : Fld := ⟨0x148, 31, 0⟩
def DBG_FENCE_DEC_CMP : Fld := ⟨0x148, 47, 32⟩
def DBG_RECOV_GO : Fld := ⟨0x150, 0, 0⟩
def DBG_LAST_MS : Fld := ⟨0x158, 31, 0⟩
def DBG_LAST_READMITTED : Fld := ⟨0x158, 47, 32⟩
def DBG_LAST_FAILED : Fld := ⟨0x158, 63, 48⟩
def DBG_1500_STACK : Fld := ⟨0x160, 1, 0⟩
def DBG_1500_GO : Fld := ⟨0x160, 2, 2⟩
def DBG_1500_BUSY : Fld := ⟨0x160, 3, 3⟩
def DBG_1500_INSTR : Fld := ⟨0x160, 15, 8⟩
def DBG_1500_DATA_DATA : Fld := ⟨0x168, 63, 0⟩
def SEC_BOOT_SOURCE : Fld := ⟨0x100, 1, 0⟩
def SEC_BOOT_RESULT : Fld := ⟨0x100, 15, 8⟩
def SEC_BOOT_BOOT_INDEX : Fld := ⟨0x100, 27, 16⟩
def SEC_BOOT_TREE : Fld := ⟨0x100, 28, 28⟩
def SEC_BOOT_WARM : Fld := ⟨0x100, 63, 32⟩
def SEC_QUOTE_ADDR_ADDR : Fld := ⟨0x108, 63, 6⟩
def SEC_QUOTE_CTL_GO : Fld := ⟨0x110, 0, 0⟩
def SEC_QUOTE_CTL_BUSY : Fld := ⟨0x110, 1, 1⟩
def SEC_QUOTE_CTL_DONE : Fld := ⟨0x110, 2, 2⟩
def SEC_QUOTE_CTL_STATUS : Fld := ⟨0x110, 11, 8⟩
def SEC_QUOTE_CTL_COUNT : Fld := ⟨0x110, 47, 32⟩
def SEC_EXTEND_GO : Fld := ⟨0x118, 0, 0⟩
def SEC_NONCE_DATA (i : Nat) : Fld := ⟨0x120 + 0x8 * i, 63, 0⟩
def SEC_EXTEND_DATA_DATA (i : Nat) : Fld := ⟨0x140 + 0x8 * i, 63, 0⟩
def SEC_LOG_CTL_IDX : Fld := ⟨0x160, 10, 0⟩
def SEC_LOG_CTL_TOTAL : Fld := ⟨0x160, 63, 16⟩
def SEC_LOG_DATA_DATA (i : Nat) : Fld := ⟨0x168 + 0x8 * i, 63, 0⟩
def SEC_M_DATA (i : Nat) : Fld := ⟨0x200 + 0x8 * i, 63, 0⟩
def SEC_ID_PUB_DATA (i : Nat) : Fld := ⟨0x280 + 0x8 * i, 63, 0⟩
def SEC_BT_PUB_DATA (i : Nat) : Fld := ⟨0x2c0 + 0x8 * i, 63, 0⟩
def FUSE_STAT_LOADED : Fld := ⟨0x100, 0, 0⟩
def FUSE_STAT_PROV_LOCK : Fld := ⟨0x100, 1, 1⟩
def FUSE_STAT_BOOT_USED : Fld := ⟨0x100, 28, 16⟩
def FUSE_STAT_SVN : Fld := ⟨0x100, 40, 32⟩
def FUSE_STAT_OWNER_LIVE : Fld := ⟨0x100, 51, 48⟩
def FUSE_PROG_BIT : Fld := ⟨0x108, 15, 0⟩
def FUSE_PROG_GO : Fld := ⟨0x108, 16, 16⟩
def FUSE_PROG_BUSY : Fld := ⟨0x108, 17, 17⟩
def FUSE_PROG_RESULT : Fld := ⟨0x108, 26, 24⟩
def FUSE_RADDR_ADDR : Fld := ⟨0x110, 12, 3⟩
def FUSE_RDATA_DATA : Fld := ⟨0x118, 63, 0⟩
def XSPI_CFG_DIV : Fld := ⟨0x100, 3, 0⟩
def XSPI_CFG_DUMMY : Fld := ⟨0x100, 11, 8⟩
def XSPI_CFG_OCTAL : Fld := ⟨0x100, 12, 12⟩
def XSPI_CMD_OPCODE : Fld := ⟨0x108, 15, 0⟩
def XSPI_CMD_NV : Fld := ⟨0x108, 16, 16⟩
def XSPI_CMD_WRITE : Fld := ⟨0x108, 17, 17⟩
def XSPI_CMD_LEN : Fld := ⟨0x108, 26, 18⟩
def XSPI_CMD_GO : Fld := ⟨0x108, 31, 31⟩
def XSPI_CMD_BUSY : Fld := ⟨0x108, 32, 32⟩
def XSPI_CMD_RESULT : Fld := ⟨0x108, 35, 33⟩
def XSPI_ADDR_ADDR : Fld := ⟨0x110, 31, 0⟩
def XSPI_DATA_DATA (i : Nat) : Fld := ⟨0x118 + 0x8 * i, 63, 0⟩
def RST_CTRL_WARM : Fld := ⟨0x100, 0, 0⟩
def RST_CAUSE_CAUSE : Fld := ⟨0x108, 3, 0⟩
def RST_CAUSE_CORE : Fld := ⟨0x108, 7, 4⟩
def RST_CAUSE_BY : Fld := ⟨0x108, 9, 8⟩
def RST_DOMAIN_DOMAIN : Fld := ⟨0x110, 4, 0⟩
def RST_DOMAIN_GO : Fld := ⟨0x110, 8, 8⟩
def RST_GPIO_OUT : Fld := ⟨0x118, 3, 0⟩
def RST_GPIO_OE : Fld := ⟨0x118, 11, 8⟩
def RST_GPIO_IN : Fld := ⟨0x118, 19, 16⟩
def RST_GPIO_HELD : Fld := ⟨0x118, 20, 20⟩
def RST_PINMAP_MAP : Fld := ⟨0x120, 63, 0⟩
def PWR_REQ_REQ : Fld := ⟨0x100, 39, 0⟩
def PWR_STATE_STATE : Fld := ⟨0x108, 39, 0⟩
def PWR_CAP_LIMIT_W : Fld := ⟨0x110, 8, 0⟩
def PWR_EST_W : Fld := ⟨0x118, 8, 0⟩
def PWR_EST_LEVEL : Fld := ⟨0x118, 18, 16⟩
def PWR_EST_CAPPED : Fld := ⟨0x118, 63, 32⟩
def CLK_STAT_ROOT_LOCK : Fld := ⟨0x100, 0, 0⟩
def CLK_STAT_HBM_LOCK : Fld := ⟨0x100, 4, 1⟩
def CLK_STAT_UCIE_LOCK : Fld := ⟨0x100, 7, 5⟩
def CLK_GATE_EN : Fld := ⟨0x108, 0, 0⟩
def CLK_GATE_IDLE : Fld := ⟨0x108, 23, 8⟩
def CLK_GATE_GATED : Fld := ⟨0x108, 47, 32⟩
def CLK_REFMON_KHZ : Fld := ⟨0x110, 31, 0⟩
def SUPV_SET_ENG_MV : Fld := ⟨0x100, 11, 0⟩
def SUPV_SET_STW_MV : Fld := ⟨0x100, 27, 16⟩
def SUPV_SET_HMQ_MV : Fld := ⟨0x100, 43, 32⟩
def SUPV_SET_ENG_MIN_MV : Fld := ⟨0x100, 59, 48⟩
def SUPV_STAT_GOOD : Fld := ⟨0x108, 9, 0⟩
def SUPV_STAT_UV : Fld := ⟨0x108, 25, 16⟩
def SUPV_STAT_OV : Fld := ⟨0x108, 41, 32⟩
def SUPV_STAT_NV_OK : Fld := ⟨0x108, 48, 48⟩
def SUPV_STAT_FUSE_OK : Fld := ⟨0x108, 49, 49⟩
def SUPV_MV_MV (i : Nat) : Fld := ⟨0x110 + 0x8 * i, 63, 0⟩
def THRM_CFG_WARN_C : Fld := ⟨0x100, 7, 0⟩
def THRM_CFG_TILE_C : Fld := ⟨0x100, 15, 8⟩
def THRM_STAT_MAX : Fld := ⟨0x108, 7, 0⟩
def THRM_STAT_MAX_IDX : Fld := ⟨0x108, 12, 8⟩
def THRM_STAT_THERM_L : Fld := ⟨0x108, 16, 16⟩
def THRM_STAT_TRIPPED : Fld := ⟨0x108, 17, 17⟩
def THRM_STAT_THROTTLED : Fld := ⟨0x108, 47, 32⟩
def THRM_S_TEMP (i : Nat) : Fld := ⟨0x110 + 0x8 * i, 63, 0⟩
def STW_STAT_STATE : Fld := ⟨0x100, 2, 0⟩
def STW_WDT_TIMEOUT_MS : Fld := ⟨0x108, 15, 0⟩
def STW_WDT_KICK : Fld := ⟨0x108, 16, 16⟩
def STW_WDT_ACTION : Fld := ⟨0x108, 17, 17⟩
def STW_WDT_EXPIRED : Fld := ⟨0x108, 18, 18⟩
def STW_ECC_L2_CORR : Fld := ⟨0x110, 31, 0⟩
def STW_ECC_L3_CORR : Fld := ⟨0x110, 63, 32⟩
def I3C_CFG_STATIC_ADDR : Fld := ⟨0x100, 6, 0⟩
def I3C_STAT_DYN_ADDR : Fld := ⟨0x108, 6, 0⟩
def I3C_STAT_HJ_PEND : Fld := ⟨0x108, 7, 7⟩
def I3C_STAT_XFERS : Fld := ⟨0x108, 63, 32⟩

end Reg

/-- The common header of every page (R41). -/
def headerFields : List FieldDef := [
  ⟨0x0, 0x8, 1, 15, 0, .ro, .live, 0⟩,
  ⟨0x0, 0x8, 1, 31, 16, .ro, .live, 0⟩,
  ⟨0x0, 0x8, 1, 39, 32, .ro, .live, 1⟩,
  ⟨0x8, 0x8, 1, 0, 0, .rw, .live, 0⟩,
  ⟨0x8, 0x8, 1, 1, 1, .wo, .live, 0⟩,
  ⟨0x8, 0x8, 1, 2, 2, .rw, .static_, 0⟩,
  ⟨0x8, 0x8, 1, 3, 3, .rw, .live, 0⟩,
  ⟨0x8, 0x8, 1, 4, 4, .wo, .live, 0⟩,
  ⟨0x8, 0x8, 1, 5, 5, .rw, .live, 0⟩,
  ⟨0x8, 0x8, 1, 12, 8, .rw, .live, 0⟩,
  ⟨0x10, 0x8, 1, 0, 0, .ro, .live, 0⟩,
  ⟨0x10, 0x8, 1, 1, 1, .ro, .live, 0⟩,
  ⟨0x10, 0x8, 1, 2, 2, .w1c, .live, 0⟩,
  ⟨0x10, 0x8, 1, 3, 3, .ro, .live, 0⟩,
  ⟨0x10, 0x8, 1, 4, 4, .ro, .live, 0⟩,
  ⟨0x10, 0x8, 1, 5, 5, .ro, .live, 0⟩,
  ⟨0x10, 0x8, 1, 11, 8, .ro, .live, 0⟩,
  ⟨0x10, 0x8, 1, 27, 16, .ro, .live, 0⟩,
  ⟨0x18, 0x8, 1, 31, 0, .ro, .live, 0⟩,
  ⟨0x18, 0x8, 1, 63, 32, .ro, .live, 0⟩,
  ⟨0x20, 0x8, 1, 31, 0, .w1c, .live, 0⟩,
  ⟨0x28, 0x8, 1, 63, 0, .rw, .live, 0⟩,
  ⟨0x30, 0x8, 1, 31, 0, .wo, .live, 0⟩,
  ⟨0x38, 0x8, 1, 4, 0, .ro, .live, 0⟩,
  ⟨0x38, 0x8, 1, 5, 5, .ro, .live, 0⟩,
  ⟨0x38, 0x8, 1, 7, 7, .w1c, .live, 0⟩,
  ⟨0x38, 0x8, 1, 63, 8, .ro, .live, 0⟩,
  ⟨0x40, 0x8, 1, 31, 0, .rw, .live, 0⟩,
  ⟨0x48, 0x8, 1, 31, 0, .ro, .live, 0⟩,
  ⟨0x50, 0x8, 1, 63, 0, .rw, .live, 0⟩,
  ⟨0x58, 0x8, 1, 0, 0, .w1c, .live, 0⟩,
  ⟨0x58, 0x8, 1, 1, 1, .w1c, .live, 0⟩,
  ⟨0x58, 0x8, 1, 2, 2, .w1c, .live, 0⟩,
  ⟨0x58, 0x8, 1, 63, 3, .w1c, .live, 0⟩,
  ⟨0x60, 0x8, 1, 10, 0, .rw, .live, 0⟩,
  ⟨0x68, 0x10, 9, 15, 0, .rw, .live, 0⟩,
  ⟨0x68, 0x10, 9, 16, 16, .rw, .live, 0⟩,
  ⟨0x68, 0x10, 9, 17, 17, .wo, .live, 0⟩,
  ⟨0x70, 0x10, 9, 47, 0, .ro, .live, 0⟩,
  ⟨0xf8, 0x8, 1, 0, 0, .rw, .live, 0⟩,
  ⟨0xf8, 0x8, 1, 1, 1, .wo, .live, 0⟩]

/-- The one register that HMC0 alone has (R371). -/
def hmc0Fields : List FieldDef := [
  ⟨0x408, 0x8, 1, 7, 0, .rw, .static_, 0xff⟩,
  ⟨0x408, 0x8, 1, 13, 8, .rw, .static_, 0⟩]

/-- The block-specific fields of the GLB page. -/
def fields_glb : List FieldDef :=
  [
  ⟨0x100, 0x8, 1, 0, 0, .ro, .live, 0⟩,
  ⟨0x100, 0x8, 1, 1, 1, .ro, .live, 0⟩,
  ⟨0x100, 0x8, 1, 2, 2, .ro, .live, 0⟩,
  ⟨0x100, 0x8, 1, 3, 3, .ro, .live, 0⟩,
  ⟨0x100, 0x8, 1, 4, 4, .ro, .live, 0⟩,
  ⟨0x100, 0x8, 1, 5, 5, .ro, .live, 0⟩,
  ⟨0x100, 0x8, 1, 11, 8, .ro, .live, 0⟩,
  ⟨0x108, 0x8, 1, 15, 0, .ro, .live, 0x64⟩,
  ⟨0x108, 0x8, 1, 23, 16, .ro, .live, 0xb0⟩,
  ⟨0x108, 0x8, 1, 24, 24, .ro, .live, 0⟩,
  ⟨0x108, 0x8, 1, 63, 32, .ro, .live, 0⟩,
  ⟨0x110, 0x8, 1, 63, 0, .ro, .live, 0⟩,
  ⟨0x118, 0x8, 1, 7, 0, .ro, .live, 0⟩,
  ⟨0x118, 0x8, 1, 15, 8, .ro, .live, 0⟩,
  ⟨0x118, 0x8, 1, 23, 16, .ro, .live, 0⟩,
  ⟨0x118, 0x8, 1, 31, 24, .ro, .live, 0⟩,
  ⟨0x118, 0x8, 1, 35, 32, .ro, .live, 0⟩,
  ⟨0x120, 0x8, 1, 2, 0, .ro, .live, 0⟩,
  ⟨0x120, 0x8, 1, 6, 4, .rw, .live, 0⟩,
  ⟨0x120, 0x8, 1, 9, 8, .ro, .live, 0⟩,
  ⟨0x120, 0x8, 1, 15, 12, .ro, .live, 0xc⟩,
  ⟨0x128, 0x8, 3, 7, 0, .ro, .live, 0⟩,
  ⟨0x128, 0x8, 3, 12, 8, .ro, .live, 0⟩,
  ⟨0x128, 0x8, 3, 15, 13, .ro, .live, 0⟩] ++
  [
  ⟨0x128, 0x8, 3, 19, 16, .ro, .live, 0⟩,
  ⟨0x128, 0x8, 3, 23, 20, .ro, .live, 0⟩,
  ⟨0x128, 0x8, 3, 24, 24, .ro, .live, 0⟩,
  ⟨0x140, 0x8, 1, 31, 0, .ro, .live, 0⟩,
  ⟨0x140, 0x8, 1, 39, 32, .ro, .live, 0⟩,
  ⟨0x140, 0x8, 1, 47, 40, .rw, .live, 8⟩,
  ⟨0x140, 0x8, 1, 48, 48, .wo, .live, 0⟩,
  ⟨0x148, 0x8, 1, 16, 0, .rw, .live, 0x7d0⟩]

/-- The block-specific fields of the RST page. -/
def fields_rst : List FieldDef :=
  [
  ⟨0x100, 0x8, 1, 0, 0, .wo, .live, 0⟩,
  ⟨0x108, 0x8, 1, 3, 0, .ro, .live, 0⟩,
  ⟨0x108, 0x8, 1, 7, 4, .ro, .live, 0⟩,
  ⟨0x108, 0x8, 1, 9, 8, .ro, .live, 0⟩,
  ⟨0x110, 0x8, 1, 4, 0, .rw, .live, 0⟩,
  ⟨0x110, 0x8, 1, 8, 8, .wo, .live, 0⟩,
  ⟨0x118, 0x8, 1, 3, 0, .rw, .live, 0⟩,
  ⟨0x118, 0x8, 1, 11, 8, .rw, .live, 0⟩,
  ⟨0x118, 0x8, 1, 19, 16, .ro, .live, 0⟩,
  ⟨0x118, 0x8, 1, 20, 20, .ro, .live, 1⟩,
  ⟨0x120, 0x8, 1, 63, 0, .ro, .live, 0⟩]

/-- The block-specific fields of the PWR page. -/
def fields_pwr : List FieldDef :=
  [
  ⟨0x100, 0x8, 1, 39, 0, .rw, .live, 0⟩,
  ⟨0x108, 0x8, 1, 39, 0, .ro, .live, 0⟩,
  ⟨0x110, 0x8, 1, 8, 0, .rw, .live, 0x1e0⟩,
  ⟨0x118, 0x8, 1, 8, 0, .ro, .live, 0⟩,
  ⟨0x118, 0x8, 1, 18, 16, .ro, .live, 0⟩,
  ⟨0x118, 0x8, 1, 63, 32, .ro, .live, 0⟩]

/-- The block-specific fields of the CLK page. -/
def fields_clk : List FieldDef :=
  [
  ⟨0x100, 0x8, 1, 0, 0, .ro, .live, 0⟩,
  ⟨0x100, 0x8, 1, 4, 1, .ro, .live, 0⟩,
  ⟨0x100, 0x8, 1, 7, 5, .ro, .live, 0⟩,
  ⟨0x108, 0x8, 1, 0, 0, .rw, .live, 1⟩,
  ⟨0x108, 0x8, 1, 23, 8, .rw, .live, 0x1000⟩,
  ⟨0x108, 0x8, 1, 47, 32, .ro, .live, 0⟩,
  ⟨0x110, 0x8, 1, 31, 0, .ro, .live, 0⟩]

/-- The block-specific fields of the FUSE page. -/
def fields_fuse : List FieldDef :=
  [
  ⟨0x100, 0x8, 1, 0, 0, .ro, .live, 0⟩,
  ⟨0x100, 0x8, 1, 1, 1, .ro, .live, 0⟩,
  ⟨0x100, 0x8, 1, 28, 16, .ro, .live, 0⟩,
  ⟨0x100, 0x8, 1, 40, 32, .ro, .live, 0⟩,
  ⟨0x100, 0x8, 1, 51, 48, .ro, .live, 0⟩,
  ⟨0x108, 0x8, 1, 15, 0, .rw, .live, 0⟩,
  ⟨0x108, 0x8, 1, 16, 16, .wo, .live, 0⟩,
  ⟨0x108, 0x8, 1, 17, 17, .ro, .live, 0⟩,
  ⟨0x108, 0x8, 1, 26, 24, .ro, .live, 0⟩,
  ⟨0x110, 0x8, 1, 12, 3, .rw, .live, 0⟩,
  ⟨0x118, 0x8, 1, 63, 0, .ro, .live, 0⟩]

/-- The block-specific fields of the SEC page. -/
def fields_sec : List FieldDef :=
  [
  ⟨0x100, 0x8, 1, 1, 0, .ro, .live, 0⟩,
  ⟨0x100, 0x8, 1, 15, 8, .ro, .live, 0⟩,
  ⟨0x100, 0x8, 1, 27, 16, .ro, .live, 0⟩,
  ⟨0x100, 0x8, 1, 28, 28, .ro, .live, 0⟩,
  ⟨0x100, 0x8, 1, 63, 32, .ro, .live, 0⟩,
  ⟨0x108, 0x8, 1, 63, 6, .rw, .live, 0⟩,
  ⟨0x110, 0x8, 1, 0, 0, .wo, .live, 0⟩,
  ⟨0x110, 0x8, 1, 1, 1, .ro, .live, 0⟩,
  ⟨0x110, 0x8, 1, 2, 2, .w1c, .live, 0⟩,
  ⟨0x110, 0x8, 1, 11, 8, .ro, .live, 0⟩,
  ⟨0x110, 0x8, 1, 47, 32, .ro, .live, 0⟩,
  ⟨0x118, 0x8, 1, 0, 0, .wo, .live, 0⟩,
  ⟨0x120, 0x8, 4, 63, 0, .rw, .live, 0⟩,
  ⟨0x140, 0x8, 4, 63, 0, .rw, .live, 0⟩,
  ⟨0x160, 0x8, 1, 10, 0, .rw, .live, 0⟩,
  ⟨0x160, 0x8, 1, 63, 16, .ro, .live, 0⟩,
  ⟨0x168, 0x8, 8, 63, 0, .ro, .live, 0⟩,
  ⟨0x200, 0x8, 16, 63, 0, .ro, .live, 0⟩,
  ⟨0x280, 0x8, 8, 63, 0, .ro, .live, 0⟩,
  ⟨0x2c0, 0x8, 8, 63, 0, .ro, .live, 0⟩]

/-- The block-specific fields of the THRM page. -/
def fields_thrm : List FieldDef :=
  [
  ⟨0x100, 0x8, 1, 7, 0, .rw, .live, 0x64⟩,
  ⟨0x100, 0x8, 1, 15, 8, .rw, .live, 0x68⟩,
  ⟨0x108, 0x8, 1, 7, 0, .ro, .live, 0⟩,
  ⟨0x108, 0x8, 1, 12, 8, .ro, .live, 0⟩,
  ⟨0x108, 0x8, 1, 16, 16, .ro, .live, 0⟩,
  ⟨0x108, 0x8, 1, 17, 17, .ro, .live, 0⟩,
  ⟨0x108, 0x8, 1, 47, 32, .ro, .live, 0⟩,
  ⟨0x110, 0x8, 4, 63, 0, .ro, .live, 0⟩]

/-- The block-specific fields of the SUPV page. -/
def fields_supv : List FieldDef :=
  [
  ⟨0x100, 0x8, 1, 11, 0, .rw, .live, 0⟩,
  ⟨0x100, 0x8, 1, 27, 16, .rw, .live, 0⟩,
  ⟨0x100, 0x8, 1, 43, 32, .rw, .live, 0⟩,
  ⟨0x100, 0x8, 1, 59, 48, .ro, .live, 0⟩,
  ⟨0x108, 0x8, 1, 9, 0, .ro, .live, 0⟩,
  ⟨0x108, 0x8, 1, 25, 16, .ro, .live, 0⟩,
  ⟨0x108, 0x8, 1, 41, 32, .ro, .live, 0⟩,
  ⟨0x108, 0x8, 1, 48, 48, .ro, .live, 0⟩,
  ⟨0x108, 0x8, 1, 49, 49, .ro, .live, 0⟩,
  ⟨0x110, 0x8, 3, 63, 0, .ro, .live, 0⟩]

/-- The block-specific fields of the ULNK page. -/
def fields_ulnk : List FieldDef :=
  [
  ⟨0x100, 0x8, 1, 2, 0, .rw, .static_, 5⟩,
  ⟨0x100, 0x8, 1, 3, 3, .rw, .static_, 0⟩,
  ⟨0x100, 0x8, 1, 23, 8, .rw, .live, 0x3e8⟩,
  ⟨0x108, 0x8, 1, 0, 0, .ro, .live, 0⟩,
  ⟨0x108, 0x8, 1, 1, 1, .ro, .live, 0⟩,
  ⟨0x108, 0x8, 1, 2, 2, .ro, .live, 0⟩,
  ⟨0x108, 0x8, 1, 3, 3, .ro, .live, 0⟩,
  ⟨0x108, 0x8, 1, 6, 4, .ro, .live, 0⟩,
  ⟨0x108, 0x8, 1, 11, 8, .ro, .live, 0⟩,
  ⟨0x108, 0x8, 1, 13, 12, .ro, .live, 0⟩,
  ⟨0x108, 0x8, 1, 14, 14, .ro, .live, 0⟩,
  ⟨0x108, 0x8, 1, 15, 15, .ro, .live, 0⟩,
  ⟨0x108, 0x8, 1, 18, 16, .ro, .live, 0⟩,
  ⟨0x110, 0x8, 1, 63, 0, .ro, .live, 0⟩,
  ⟨0x118, 0x10, 2, 63, 28, .ro, .live, 0⟩,
  ⟨0x120, 0x10, 2, 3, 0, .ro, .live, 0⟩,
  ⟨0x120, 0x10, 2, 4, 4, .ro, .live, 0⟩,
  ⟨0x120, 0x10, 2, 63, 28, .ro, .live, 0⟩,
  ⟨0x138, 0x8, 1, 13, 0, .ro, .live, 0⟩,
  ⟨0x138, 0x8, 1, 63, 32, .ro, .live, 0⟩,
  ⟨0x140, 0x8, 1, 9, 0, .ro, .live, 0⟩,
  ⟨0x140, 0x8, 1, 25, 16, .ro, .live, 0⟩,
  ⟨0x140, 0x8, 1, 26, 26, .ro, .live, 0⟩,
  ⟨0x140, 0x8, 1, 27, 27, .ro, .live, 0⟩] ++
  [
  ⟨0x140, 0x8, 1, 63, 32, .ro, .live, 0⟩,
  ⟨0x148, 0x8, 1, 31, 0, .ro, .live, 0⟩,
  ⟨0x148, 0x8, 1, 63, 32, .ro, .live, 0⟩]

/-- The block-specific fields of the SBND page. -/
def fields_sbnd : List FieldDef :=
  [
  ⟨0x100, 0x8, 1, 11, 0, .ro, .live, 0⟩,
  ⟨0x100, 0x8, 1, 13, 12, .ro, .live, 0⟩,
  ⟨0x100, 0x8, 1, 63, 32, .ro, .live, 0⟩,
  ⟨0x108, 0x8, 1, 63, 0, .ro, .live, 0⟩]

/-- The block-specific fields of the XSPI page. -/
def fields_xspi : List FieldDef :=
  [
  ⟨0x100, 0x8, 1, 3, 0, .rw, .static_, 2⟩,
  ⟨0x100, 0x8, 1, 11, 8, .rw, .static_, 8⟩,
  ⟨0x100, 0x8, 1, 12, 12, .rw, .static_, 0⟩,
  ⟨0x108, 0x8, 1, 15, 0, .rw, .live, 0⟩,
  ⟨0x108, 0x8, 1, 16, 16, .rw, .live, 0⟩,
  ⟨0x108, 0x8, 1, 17, 17, .rw, .live, 0⟩,
  ⟨0x108, 0x8, 1, 26, 18, .rw, .live, 0⟩,
  ⟨0x108, 0x8, 1, 31, 31, .wo, .live, 0⟩,
  ⟨0x108, 0x8, 1, 32, 32, .ro, .live, 0⟩,
  ⟨0x108, 0x8, 1, 35, 33, .ro, .live, 0⟩,
  ⟨0x110, 0x8, 1, 31, 0, .rw, .live, 0⟩,
  ⟨0x118, 0x8, 32, 63, 0, .rw, .live, 0⟩]

/-- The block-specific fields of the I3C page. -/
def fields_i3c : List FieldDef :=
  [
  ⟨0x100, 0x8, 1, 6, 0, .rw, .static_, 0⟩,
  ⟨0x108, 0x8, 1, 6, 0, .ro, .live, 0⟩,
  ⟨0x108, 0x8, 1, 7, 7, .ro, .live, 0⟩,
  ⟨0x108, 0x8, 1, 63, 32, .ro, .live, 0⟩]

/-- The block-specific fields of the DBG page. -/
def fields_dbg : List FieldDef :=
  [
  ⟨0x100, 0x8, 1, 2, 0, .ro, .live, 0⟩,
  ⟨0x100, 0x8, 1, 5, 4, .ro, .live, 0⟩,
  ⟨0x100, 0x8, 1, 7, 6, .ro, .live, 0⟩,
  ⟨0x100, 0x8, 1, 24, 16, .ro, .live, 0⟩,
  ⟨0x100, 0x8, 1, 29, 25, .ro, .live, 0⟩,
  ⟨0x108, 0x8, 1, 63, 0, .ro, .live, 0⟩,
  ⟨0x110, 0x8, 1, 31, 0, .ro, .live, 0⟩,
  ⟨0x118, 0x8, 1, 63, 0, .ro, .live, 0⟩,
  ⟨0x120, 0x8, 1, 63, 0, .rw, .live, 0⟩,
  ⟨0x128, 0x8, 1, 15, 0, .rw, .live, 0⟩,
  ⟨0x128, 0x8, 1, 31, 16, .rw, .live, 0⟩,
  ⟨0x128, 0x8, 1, 35, 32, .rw, .live, 0⟩,
  ⟨0x130, 0x8, 1, 31, 0, .rw, .live, 0⟩,
  ⟨0x130, 0x8, 1, 35, 32, .rw, .live, 0⟩,
  ⟨0x130, 0x8, 1, 37, 36, .rw, .live, 0⟩,
  ⟨0x130, 0x8, 1, 49, 38, .rw, .live, 0⟩,
  ⟨0x130, 0x8, 1, 52, 50, .rw, .live, 0⟩,
  ⟨0x138, 0x8, 1, 63, 0, .rw, .live, 0⟩,
  ⟨0x140, 0x8, 1, 63, 0, .rw, .live, 0⟩,
  ⟨0x148, 0x8, 1, 31, 0, .rw, .live, 0⟩,
  ⟨0x148, 0x8, 1, 47, 32, .rw, .live, 0⟩,
  ⟨0x150, 0x8, 1, 0, 0, .wo, .live, 0⟩,
  ⟨0x158, 0x8, 1, 31, 0, .ro, .live, 0⟩,
  ⟨0x158, 0x8, 1, 47, 32, .ro, .live, 0⟩] ++
  [
  ⟨0x158, 0x8, 1, 63, 48, .ro, .live, 0⟩,
  ⟨0x160, 0x8, 1, 1, 0, .rw, .live, 0⟩,
  ⟨0x160, 0x8, 1, 2, 2, .wo, .live, 0⟩,
  ⟨0x160, 0x8, 1, 3, 3, .ro, .live, 0⟩,
  ⟨0x160, 0x8, 1, 15, 8, .rw, .live, 0⟩,
  ⟨0x168, 0x8, 1, 63, 0, .rw, .live, 0⟩]

/-- The block-specific fields of the HMC page. -/
def fields_hmc : List FieldDef :=
  [
  ⟨0x400, 0x8, 1, 5, 0, .rw, .static_, 0x28⟩,
  ⟨0x400, 0x8, 1, 13, 8, .rw, .static_, 0x10⟩,
  ⟨0x400, 0x8, 1, 21, 16, .rw, .static_, 8⟩,
  ⟨0x100, 0x8, 1, 7, 0, .rw, .live, 0x5f⟩,
  ⟨0x100, 0x8, 1, 15, 8, .rw, .live, 0x69⟩,
  ⟨0x100, 0x8, 1, 16, 16, .rw, .live, 1⟩,
  ⟨0x108, 0x8, 1, 31, 0, .ro, .live, 0⟩,
  ⟨0x108, 0x8, 1, 39, 32, .ro, .live, 0⟩,
  ⟨0x108, 0x8, 1, 41, 40, .ro, .live, 0⟩,
  ⟨0x108, 0x8, 1, 42, 42, .ro, .live, 0⟩,
  ⟨0x110, 0x8, 1, 31, 0, .ro, .live, 0⟩,
  ⟨0x110, 0x8, 1, 47, 32, .ro, .live, 0⟩,
  ⟨0x110, 0x8, 1, 52, 48, .ro, .live, 0⟩,
  ⟨0x118, 0x8, 1, 15, 0, .rw, .live, 0x1000⟩,
  ⟨0x118, 0x8, 1, 23, 16, .rw, .live, 0x10⟩,
  ⟨0x120, 0x8, 1, 7, 0, .rw, .live, 0x18⟩,
  ⟨0x120, 0x8, 1, 63, 32, .ro, .live, 0⟩]

/-- The block-specific fields of the HPHY page. -/
def fields_hphy : List FieldDef :=
  [
  ⟨0x100, 0x8, 1, 2, 0, .rw, .static_, 5⟩,
  ⟨0x100, 0x8, 1, 3, 3, .rw, .static_, 0⟩,
  ⟨0x108, 0x8, 1, 2, 0, .ro, .live, 0⟩,
  ⟨0x108, 0x8, 1, 5, 3, .ro, .live, 0⟩,
  ⟨0x108, 0x8, 1, 6, 6, .ro, .live, 0⟩,
  ⟨0x108, 0x8, 1, 63, 32, .ro, .live, 0⟩,
  ⟨0x110, 0x8, 1, 3, 0, .ro, .live, 0⟩,
  ⟨0x110, 0x8, 1, 15, 8, .ro, .live, 0⟩,
  ⟨0x110, 0x8, 1, 63, 32, .ro, .live, 0⟩,
  ⟨0x118, 0x8, 1, 3, 0, .wo, .live, 0⟩]

/-- The block-specific fields of the STOR page. -/
def fields_stor : List FieldDef :=
  [
  ⟨0x100, 0x8, 1, 0, 0, .ro, .live, 0⟩,
  ⟨0x100, 0x8, 1, 1, 1, .ro, .live, 0⟩,
  ⟨0x100, 0x8, 1, 2, 2, .ro, .live, 0⟩,
  ⟨0x108, 0x8, 1, 31, 0, .ro, .live, 0⟩,
  ⟨0x108, 0x8, 1, 47, 32, .ro, .live, 0⟩,
  ⟨0x108, 0x8, 1, 55, 48, .ro, .live, 0⟩,
  ⟨0x110, 0x8, 1, 0, 0, .rw, .live, 1⟩,
  ⟨0x110, 0x8, 1, 63, 32, .ro, .live, 0⟩]

/-- The block-specific fields of the NOC page. -/
def fields_noc : List FieldDef :=
  [
  ⟨0x100, 0x8, 1, 47, 0, .ro, .live, 0⟩,
  ⟨0x100, 0x8, 1, 56, 48, .ro, .live, 0⟩,
  ⟨0x108, 0x8, 1, 31, 0, .ro, .live, 0⟩,
  ⟨0x108, 0x8, 1, 63, 32, .ro, .live, 0⟩]

/-- The block-specific fields of the PLAN page. -/
def fields_plan : List FieldDef :=
  [
  ⟨0x100, 0x8, 1, 15, 0, .ro, .live, 0⟩,
  ⟨0x100, 0x8, 1, 31, 16, .ro, .live, 0⟩,
  ⟨0x108, 0x8, 1, 63, 0, .ro, .live, 0⟩,
  ⟨0x110, 0x8, 1, 31, 0, .ro, .live, 0⟩,
  ⟨0x110, 0x8, 1, 47, 32, .ro, .live, 0⟩,
  ⟨0x110, 0x8, 1, 63, 48, .ro, .live, 0⟩,
  ⟨0x118, 0x8, 1, 10, 0, .ro, .live, 0⟩,
  ⟨0x118, 0x8, 1, 42, 32, .ro, .live, 0⟩,
  ⟨0x120, 0x8, 1, 17, 0, .ro, .live, 0⟩,
  ⟨0x120, 0x8, 1, 49, 32, .ro, .live, 0⟩,
  ⟨0x128, 0x8, 1, 18, 0, .ro, .live, 0⟩,
  ⟨0x128, 0x8, 1, 38, 32, .ro, .live, 0⟩,
  ⟨0x128, 0x8, 1, 46, 40, .ro, .live, 0⟩,
  ⟨0x128, 0x8, 1, 53, 48, .ro, .live, 0⟩,
  ⟨0x128, 0x8, 1, 61, 56, .ro, .live, 0⟩,
  ⟨0x130, 0x8, 1, 16, 0, .ro, .live, 0⟩,
  ⟨0x130, 0x8, 1, 42, 32, .ro, .live, 0⟩,
  ⟨0x138, 0x8, 1, 5, 0, .rw, .live, 0x1a⟩,
  ⟨0x138, 0x8, 1, 13, 8, .rw, .live, 0x20⟩,
  ⟨0x140, 0x8, 1, 63, 0, .ro, .live, 0⟩,
  ⟨0x148, 0x8, 1, 15, 0, .ro, .live, 0⟩,
  ⟨0x148, 0x8, 1, 19, 16, .ro, .live, 0⟩,
  ⟨0x148, 0x8, 1, 25, 20, .ro, .live, 0⟩,
  ⟨0x150, 0x8, 1, 7, 0, .ro, .live, 0⟩] ++
  [
  ⟨0x150, 0x8, 1, 11, 8, .ro, .live, 0⟩,
  ⟨0x150, 0x8, 1, 21, 16, .ro, .live, 0⟩,
  ⟨0x150, 0x8, 1, 22, 22, .ro, .live, 0⟩,
  ⟨0x150, 0x8, 1, 23, 23, .ro, .live, 0⟩,
  ⟨0x158, 0x8, 1, 3, 0, .rw, .live, 0⟩,
  ⟨0x158, 0x8, 1, 4, 4, .rw, .live, 0⟩,
  ⟨0x158, 0x8, 1, 11, 8, .rw, .live, 0⟩,
  ⟨0x160, 0x8, 1, 47, 0, .ro, .live, 0⟩,
  ⟨0x160, 0x8, 1, 63, 63, .ro, .live, 0⟩,
  ⟨0x200, 0x20, 16, 2, 0, .ro, .live, 0⟩,
  ⟨0x200, 0x20, 16, 15, 8, .ro, .live, 0⟩,
  ⟨0x200, 0x20, 16, 22, 16, .ro, .live, 0⟩,
  ⟨0x208, 0x20, 16, 63, 0, .ro, .live, 0⟩,
  ⟨0x210, 0x20, 16, 47, 0, .ro, .live, 0⟩,
  ⟨0x218, 0x20, 16, 31, 0, .ro, .live, 0⟩,
  ⟨0x218, 0x20, 16, 63, 32, .ro, .live, 0⟩]

/-- The block-specific fields of the FSCH page. -/
def fields_fsch : List FieldDef :=
  [
  ⟨0x100, 0x8, 1, 23, 0, .rw, .live, 0x1b58⟩,
  ⟨0x100, 0x8, 1, 32, 32, .wo, .live, 0⟩,
  ⟨0x100, 0x8, 1, 47, 40, .rw, .live, 0xff⟩,
  ⟨0x108, 0x8, 1, 20, 0, .rw, .static_, 0x2bc⟩,
  ⟨0x110, 0x8, 1, 63, 0, .ro, .live, 0⟩,
  ⟨0x118, 0x8, 1, 20, 0, .ro, .live, 0⟩,
  ⟨0x118, 0x8, 1, 52, 32, .rw, .live, 0xf0000⟩,
  ⟨0x120, 0x8, 1, 20, 0, .ro, .live, 0⟩,
  ⟨0x120, 0x8, 1, 32, 32, .wo, .live, 0⟩,
  ⟨0x128, 0x8, 4, 20, 0, .ro, .live, 0⟩,
  ⟨0x128, 0x8, 4, 52, 32, .ro, .live, 0⟩,
  ⟨0x148, 0x8, 1, 17, 0, .rw, .live, 0⟩,
  ⟨0x148, 0x8, 1, 32, 32, .wo, .live, 0⟩,
  ⟨0x150, 0x8, 1, 31, 0, .ro, .live, 0⟩,
  ⟨0x150, 0x8, 1, 63, 32, .ro, .live, 0⟩,
  ⟨0x158, 0x8, 1, 31, 0, .ro, .live, 0⟩,
  ⟨0x158, 0x8, 1, 52, 32, .ro, .live, 0⟩,
  ⟨0x158, 0x8, 1, 56, 56, .ro, .live, 0⟩,
  ⟨0x160, 0x8, 1, 6, 0, .rw, .live, 0⟩,
  ⟨0x168, 0x8, 1, 31, 0, .ro, .live, 0⟩,
  ⟨0x168, 0x8, 1, 63, 32, .ro, .live, 0⟩,
  ⟨0x170, 0x8, 1, 17, 0, .ro, .live, 0⟩,
  ⟨0x170, 0x8, 1, 27, 24, .ro, .live, 0⟩,
  ⟨0x170, 0x8, 1, 63, 32, .ro, .live, 0⟩] ++
  [
  ⟨0x180, 0x8, 16, 47, 0, .ro, .live, 0⟩,
  ⟨0x200, 0x20, 16, 63, 6, .rw, .static_, 0⟩,
  ⟨0x208, 0x20, 16, 4, 0, .rw, .static_, 6⟩,
  ⟨0x208, 0x20, 16, 8, 8, .rw, .static_, 0⟩,
  ⟨0x208, 0x20, 16, 9, 9, .rw, .static_, 0⟩,
  ⟨0x208, 0x20, 16, 29, 10, .rw, .static_, 0⟩,
  ⟨0x210, 0x20, 16, 63, 3, .rw, .static_, 0⟩,
  ⟨0x218, 0x20, 16, 15, 0, .ro, .live, 0⟩,
  ⟨0x218, 0x20, 16, 31, 16, .ro, .live, 0⟩,
  ⟨0x218, 0x20, 16, 63, 32, .ro, .live, 0⟩,
  ⟨0x400, 0x10, 16, 17, 0, .ro, .live, 0⟩,
  ⟨0x400, 0x10, 16, 24, 20, .ro, .live, 0⟩,
  ⟨0x408, 0x10, 16, 63, 0, .ro, .live, 0⟩,
  ⟨0x500, 0x10, 32, 63, 0, .ro, .live, 0x8000000000000000⟩,
  ⟨0x508, 0x10, 32, 15, 0, .ro, .live, 0⟩,
  ⟨0x508, 0x10, 32, 19, 16, .ro, .live, 0⟩,
  ⟨0x508, 0x10, 32, 20, 20, .ro, .live, 0⟩,
  ⟨0x508, 0x10, 32, 63, 32, .ro, .live, 0⟩]

/-- The block-specific fields of the TIME page. -/
def fields_time : List FieldDef :=
  [
  ⟨0x100, 0x8, 1, 63, 0, .ro, .live, 0⟩,
  ⟨0x108, 0x8, 1, 0, 0, .wo, .live, 0⟩,
  ⟨0x110, 0x8, 1, 63, 0, .ro, .live, 0⟩,
  ⟨0x118, 0x8, 1, 63, 0, .ro, .live, 0⟩,
  ⟨0x120, 0x8, 1, 63, 0, .rw, .shadow, 0⟩,
  ⟨0x128, 0x8, 1, 63, 0, .rw, .shadow, 0⟩,
  ⟨0x130, 0x8, 1, 31, 0, .rw, .shadow, 0⟩,
  ⟨0x138, 0x8, 1, 0, 0, .rw, .live, 0⟩,
  ⟨0x138, 0x8, 1, 1, 1, .rw, .live, 0⟩,
  ⟨0x138, 0x8, 1, 2, 2, .rw, .live, 0⟩,
  ⟨0x138, 0x8, 1, 31, 8, .rw, .live, 0xf4240⟩,
  ⟨0x138, 0x8, 1, 47, 32, .rw, .live, 0x1f4⟩,
  ⟨0x140, 0x8, 1, 63, 0, .ro, .live, 0⟩,
  ⟨0x148, 0x8, 1, 63, 0, .ro, .live, 0⟩,
  ⟨0x150, 0x8, 1, 31, 0, .ro, .live, 0⟩,
  ⟨0x150, 0x8, 1, 63, 32, .ro, .live, 0⟩,
  ⟨0x158, 0x8, 1, 31, 0, .ro, .live, 0⟩,
  ⟨0x158, 0x8, 1, 47, 32, .ro, .live, 0⟩,
  ⟨0x200, 0x10, 32, 63, 0, .rw, .live, 0⟩,
  ⟨0x208, 0x10, 32, 0, 0, .wo, .live, 0⟩,
  ⟨0x208, 0x10, 32, 1, 1, .ro, .live, 0⟩,
  ⟨0x208, 0x10, 32, 2, 2, .ro, .live, 0⟩,
  ⟨0x208, 0x10, 32, 3, 3, .ro, .live, 0⟩,
  ⟨0x208, 0x10, 32, 63, 32, .ro, .live, 0⟩] ++
  [
  ⟨0x400, 0x10, 16, 63, 0, .ro, .live, 0⟩,
  ⟨0x408, 0x10, 16, 31, 0, .ro, .live, 0⟩,
  ⟨0x408, 0x10, 16, 63, 32, .ro, .live, 0⟩]

/-- The block-specific fields of the BATQ page. -/
def fields_batq : List FieldDef :=
  [
  ⟨0x100, 0x8, 1, 3, 0, .rw, .live, 3⟩,
  ⟨0x108, 0x8, 1, 63, 0, .w1c, .live, 0⟩,
  ⟨0x200, 0x20, 64, 16, 0, .rw, .live, 0⟩,
  ⟨0x200, 0x20, 64, 42, 32, .rw, .live, 0⟩,
  ⟨0x208, 0x20, 64, 63, 0, .ro, .live, 0⟩,
  ⟨0x210, 0x20, 64, 63, 0, .rw, .live, 0⟩,
  ⟨0x218, 0x20, 64, 3, 0, .ro, .live, 0⟩,
  ⟨0x218, 0x20, 64, 4, 4, .ro, .live, 0⟩,
  ⟨0x218, 0x20, 64, 5, 5, .ro, .live, 0⟩,
  ⟨0x218, 0x20, 64, 6, 6, .ro, .live, 0⟩,
  ⟨0x218, 0x20, 64, 12, 8, .ro, .live, 0⟩,
  ⟨0x218, 0x20, 64, 20, 14, .ro, .live, 0⟩,
  ⟨0x218, 0x20, 64, 27, 21, .ro, .live, 0⟩,
  ⟨0x218, 0x20, 64, 63, 32, .ro, .live, 0⟩]

/-- The block-specific fields of the OWN page. -/
def fields_own : List FieldDef :=
  [
  ⟨0x100, 0x8, 1, 6, 0, .ro, .live, 0⟩,
  ⟨0x100, 0x8, 1, 26, 16, .ro, .live, 0⟩,
  ⟨0x100, 0x8, 1, 32, 32, .ro, .live, 0⟩,
  ⟨0x108, 0x8, 1, 31, 0, .ro, .live, 0⟩,
  ⟨0x108, 0x8, 1, 63, 32, .ro, .live, 0⟩,
  ⟨0x110, 0x8, 1, 31, 0, .ro, .live, 0⟩,
  ⟨0x110, 0x8, 1, 53, 32, .ro, .live, 0⟩,
  ⟨0x110, 0x8, 1, 63, 63, .ro, .live, 0⟩,
  ⟨0x118, 0x8, 1, 31, 0, .ro, .live, 0⟩,
  ⟨0x118, 0x8, 1, 63, 32, .ro, .live, 0⟩]

/-- The block-specific fields of the SHUF page. -/
def fields_shuf : List FieldDef :=
  [
  ⟨0x100, 0x8, 1, 31, 0, .ro, .live, 0⟩,
  ⟨0x100, 0x8, 1, 39, 32, .ro, .live, 0⟩,
  ⟨0x108, 0x8, 1, 31, 0, .ro, .live, 0⟩,
  ⟨0x108, 0x8, 1, 47, 32, .ro, .live, 0⟩,
  ⟨0x108, 0x8, 1, 63, 48, .ro, .live, 0⟩,
  ⟨0x200, 0x10, 16, 31, 0, .ro, .live, 0⟩,
  ⟨0x200, 0x10, 16, 32, 32, .ro, .live, 0⟩,
  ⟨0x208, 0x10, 16, 63, 0, .ro, .live, 0⟩]

/-- The block-specific fields of the FAST page. -/
def fields_fast : List FieldDef :=
  [
  ⟨0x108, 0x8, 1, 63, 12, .rw, .static_, 0⟩,
  ⟨0x110, 0x8, 1, 31, 0, .ro, .live, 0⟩,
  ⟨0x110, 0x8, 1, 63, 32, .ro, .live, 0⟩,
  ⟨0x118, 0x8, 1, 7, 0, .ro, .live, 0⟩,
  ⟨0x118, 0x8, 1, 15, 8, .ro, .live, 0xff⟩,
  ⟨0x118, 0x8, 1, 23, 16, .ro, .live, 0⟩,
  ⟨0x118, 0x8, 1, 24, 24, .wo, .live, 0⟩,
  ⟨0x200, 0x8, 16, 63, 0, .rw, .shadow, 0xffffffffffffffff⟩]

/-- The block-specific fields of the CMDQ page. -/
def fields_cmdq : List FieldDef :=
  [
  ⟨0x100, 0x20, 16, 63, 6, .rw, .static_, 0⟩,
  ⟨0x108, 0x20, 16, 4, 0, .rw, .static_, 6⟩,
  ⟨0x108, 0x20, 16, 8, 8, .rw, .static_, 0⟩,
  ⟨0x108, 0x20, 16, 9, 9, .rw, .static_, 0⟩,
  ⟨0x108, 0x20, 16, 29, 10, .rw, .static_, 0⟩,
  ⟨0x108, 0x20, 16, 40, 30, .rw, .static_, 0⟩,
  ⟨0x108, 0x20, 16, 41, 41, .rw, .static_, 0⟩,
  ⟨0x110, 0x20, 16, 63, 6, .rw, .static_, 0⟩,
  ⟨0x118, 0x20, 16, 15, 0, .ro, .live, 0⟩,
  ⟨0x118, 0x20, 16, 31, 16, .ro, .live, 0⟩,
  ⟨0x118, 0x20, 16, 47, 32, .ro, .live, 0⟩]

/-- The block-specific fields of the QUAD page. -/
def fields_quad : List FieldDef :=
  [
  ⟨0x100, 0x8, 1, 3, 0, .ro, .live, 0⟩,
  ⟨0x100, 0x8, 1, 5, 4, .ro, .live, 0⟩,
  ⟨0x100, 0x8, 1, 6, 6, .ro, .live, 0⟩,
  ⟨0x108, 0x8, 1, 31, 0, .ro, .live, 0⟩]

/-- The block-specific fields of the DEC page. -/
def fields_dec : List FieldDef :=
  [
  ⟨0x100, 0x8, 1, 7, 0, .rw, .shadow, 8⟩,
  ⟨0x108, 0x8, 1, 0, 0, .ro, .live, 0⟩,
  ⟨0x108, 0x8, 1, 7, 4, .ro, .live, 0⟩,
  ⟨0x108, 0x8, 1, 23, 8, .ro, .live, 0⟩,
  ⟨0x108, 0x8, 1, 31, 24, .ro, .live, 0⟩,
  ⟨0x108, 0x8, 1, 39, 32, .ro, .live, 0⟩,
  ⟨0x110, 0x8, 1, 47, 0, .ro, .live, 0⟩,
  ⟨0x118, 0x8, 1, 63, 0, .ro, .live, 0⟩,
  ⟨0x120, 0x8, 1, 31, 0, .ro, .live, 0⟩,
  ⟨0x120, 0x8, 1, 63, 32, .ro, .live, 0⟩,
  ⟨0x128, 0x8, 4, 63, 0, .ro, .live, 0⟩,
  ⟨0x148, 0x8, 1, 31, 0, .ro, .live, 0⟩,
  ⟨0x148, 0x8, 1, 63, 32, .ro, .live, 0⟩,
  ⟨0x150, 0x8, 1, 31, 0, .ro, .live, 0⟩,
  ⟨0x150, 0x8, 1, 63, 32, .ro, .live, 0⟩]

/-- The block-specific fields of the CMP page. -/
def fields_cmp : List FieldDef :=
  [
  ⟨0x100, 0x8, 1, 2, 0, .rw, .shadow, 2⟩,
  ⟨0x108, 0x8, 1, 31, 0, .ro, .live, 0⟩,
  ⟨0x108, 0x8, 1, 63, 32, .ro, .live, 0⟩,
  ⟨0x110, 0x8, 1, 47, 0, .ro, .live, 0⟩,
  ⟨0x110, 0x8, 1, 51, 48, .ro, .live, 0⟩,
  ⟨0x110, 0x8, 1, 59, 52, .ro, .live, 0⟩]

/-- The block-specific fields of the TILE page. -/
def fields_tile : List FieldDef :=
  [
  ⟨0x800, 0x8, 1, 15, 0, .rw, .live, 0x7d0⟩,
  ⟨0x808, 0x8, 1, 3, 0, .ro, .live, 0⟩,
  ⟨0x808, 0x8, 1, 16, 8, .ro, .live, 0⟩,
  ⟨0x808, 0x8, 1, 24, 24, .ro, .live, 0⟩,
  ⟨0x810, 0x8, 8, 2, 0, .ro, .live, 0⟩,
  ⟨0x810, 0x8, 8, 6, 4, .ro, .live, 0⟩,
  ⟨0x810, 0x8, 8, 7, 7, .ro, .live, 0⟩,
  ⟨0x810, 0x8, 8, 63, 16, .ro, .live, 0⟩,
  ⟨0x100, 0x8, 1, 0, 0, .rw, .shadow, 0⟩,
  ⟨0x108, 0x8, 1, 31, 0, .ro, .live, 0⟩,
  ⟨0x108, 0x8, 1, 39, 32, .ro, .live, 0⟩,
  ⟨0x108, 0x8, 1, 44, 40, .ro, .live, 0⟩,
  ⟨0x110, 0x8, 1, 3, 0, .ro, .live, 0⟩,
  ⟨0x110, 0x8, 1, 9, 4, .ro, .live, 0⟩,
  ⟨0x110, 0x8, 1, 63, 16, .ro, .live, 0⟩,
  ⟨0x118, 0x8, 8, 13, 0, .ro, .live, 0⟩,
  ⟨0x118, 0x8, 8, 16, 16, .ro, .live, 0⟩,
  ⟨0x118, 0x8, 8, 63, 32, .ro, .live, 0⟩,
  ⟨0x158, 0x8, 1, 31, 0, .ro, .live, 0⟩,
  ⟨0x158, 0x8, 1, 63, 32, .ro, .live, 0⟩,
  ⟨0x160, 0x8, 1, 2, 0, .ro, .live, 0⟩,
  ⟨0x160, 0x8, 1, 16, 3, .ro, .live, 0⟩,
  ⟨0x160, 0x8, 1, 19, 17, .ro, .live, 0⟩,
  ⟨0x160, 0x8, 1, 54, 32, .ro, .live, 0⟩] ++
  [
  ⟨0x168, 0x8, 1, 31, 0, .ro, .live, 0⟩,
  ⟨0x168, 0x8, 1, 54, 32, .ro, .live, 0⟩,
  ⟨0x168, 0x8, 1, 63, 63, .ro, .live, 0⟩,
  ⟨0x880, 0x8, 1, 31, 0, .ro, .live, 0⟩,
  ⟨0x880, 0x8, 1, 39, 32, .ro, .live, 0⟩,
  ⟨0x888, 0x8, 1, 6, 0, .ro, .live, 0⟩,
  ⟨0x888, 0x8, 1, 17, 8, .ro, .live, 0⟩,
  ⟨0x888, 0x8, 1, 63, 32, .ro, .live, 0⟩,
  ⟨0x890, 0x8, 1, 31, 0, .ro, .live, 0⟩,
  ⟨0x890, 0x8, 1, 47, 32, .ro, .live, 0⟩,
  ⟨0x890, 0x8, 1, 49, 48, .ro, .live, 0⟩,
  ⟨0x898, 0x8, 1, 31, 0, .ro, .live, 0⟩,
  ⟨0x900, 0x8, 1, 31, 0, .ro, .live, 0⟩,
  ⟨0x900, 0x8, 1, 47, 32, .ro, .live, 0⟩,
  ⟨0x900, 0x8, 1, 63, 48, .ro, .live, 0⟩,
  ⟨0x908, 0x8, 1, 31, 0, .ro, .live, 0⟩]

/-- The block-specific fields of the CAR page. -/
def fields_car : List FieldDef :=
  [
  ⟨0x100, 0x8, 1, 3, 0, .rw, .live, 0⟩,
  ⟨0x100, 0x8, 1, 8, 8, .rw, .live, 1⟩,
  ⟨0x108, 0x8, 1, 1, 0, .ro, .live, 0⟩,
  ⟨0x108, 0x8, 1, 15, 8, .ro, .live, 0⟩,
  ⟨0x108, 0x8, 1, 19, 16, .ro, .live, 0⟩,
  ⟨0x200, 0x10, 32, 3, 0, .ro, .live, 0⟩,
  ⟨0x200, 0x10, 32, 7, 4, .ro, .live, 0⟩,
  ⟨0x200, 0x10, 32, 9, 8, .ro, .live, 0⟩,
  ⟨0x200, 0x10, 32, 11, 10, .ro, .live, 0⟩,
  ⟨0x200, 0x10, 32, 17, 12, .ro, .live, 0⟩,
  ⟨0x200, 0x10, 32, 18, 18, .ro, .live, 0⟩,
  ⟨0x200, 0x10, 32, 19, 19, .ro, .live, 0⟩,
  ⟨0x200, 0x10, 32, 20, 20, .ro, .live, 0⟩,
  ⟨0x200, 0x10, 32, 22, 21, .ro, .live, 0⟩,
  ⟨0x200, 0x10, 32, 23, 23, .ro, .live, 0⟩,
  ⟨0x200, 0x10, 32, 24, 24, .ro, .live, 0⟩,
  ⟨0x200, 0x10, 32, 25, 25, .ro, .live, 0⟩,
  ⟨0x208, 0x10, 32, 19, 0, .ro, .live, 0⟩,
  ⟨0x208, 0x10, 32, 63, 32, .ro, .live, 0⟩]

/-- The block-specific fields of the BELL page. -/
def fields_bell : List FieldDef :=
  [
  ⟨0x100, 0x8, 1, 4, 0, .ro, .live, 0⟩,
  ⟨0x100, 0x8, 1, 5, 5, .ro, .live, 0⟩,
  ⟨0x100, 0x8, 1, 7, 6, .ro, .live, 0⟩,
  ⟨0x100, 0x8, 1, 8, 8, .ro, .live, 0⟩,
  ⟨0x100, 0x8, 1, 13, 9, .ro, .live, 0⟩,
  ⟨0x100, 0x8, 1, 14, 14, .ro, .live, 0⟩,
  ⟨0x100, 0x8, 1, 15, 15, .ro, .live, 0⟩,
  ⟨0x100, 0x8, 1, 29, 16, .ro, .live, 0⟩,
  ⟨0x100, 0x8, 1, 63, 32, .ro, .live, 0⟩,
  ⟨0x108, 0x8, 1, 14, 0, .ro, .live, 0⟩,
  ⟨0x108, 0x8, 1, 24, 16, .ro, .live, 0⟩,
  ⟨0x108, 0x8, 1, 46, 32, .ro, .live, 0⟩,
  ⟨0x110, 0x8, 1, 13, 0, .ro, .live, 0⟩,
  ⟨0x110, 0x8, 1, 14, 14, .ro, .live, 0⟩,
  ⟨0x110, 0x8, 1, 29, 16, .ro, .live, 0⟩,
  ⟨0x110, 0x8, 1, 63, 32, .ro, .live, 0⟩,
  ⟨0x118, 0x8, 1, 47, 21, .ro, .live, 0⟩]

/-- The block-specific fields of the STW page. -/
def fields_stw : List FieldDef :=
  [
  ⟨0x100, 0x8, 1, 2, 0, .ro, .live, 0⟩,
  ⟨0x108, 0x8, 1, 15, 0, .rw, .live, 0⟩,
  ⟨0x108, 0x8, 1, 16, 16, .wo, .live, 0⟩,
  ⟨0x108, 0x8, 1, 17, 17, .rw, .live, 1⟩,
  ⟨0x108, 0x8, 1, 18, 18, .w1c, .live, 0⟩,
  ⟨0x110, 0x8, 1, 31, 0, .ro, .live, 0⟩,
  ⟨0x110, 0x8, 1, 63, 32, .ro, .live, 0⟩]

/-- The block-specific fields of a page of each type. -/
def Block.fields : Block → List FieldDef
  | .glb => fields_glb
  | .rst => fields_rst
  | .pwr => fields_pwr
  | .clk => fields_clk
  | .fuse => fields_fuse
  | .sec => fields_sec
  | .thrm => fields_thrm
  | .supv => fields_supv
  | .ulnk => fields_ulnk
  | .sbnd => fields_sbnd
  | .xspi => fields_xspi
  | .i3c => fields_i3c
  | .dbg => fields_dbg
  | .hmc => fields_hmc
  | .hphy => fields_hphy
  | .stor => fields_stor
  | .noc => fields_noc
  | .plan => fields_plan
  | .fsch => fields_fsch
  | .time => fields_time
  | .batq => fields_batq
  | .own => fields_own
  | .shuf => fields_shuf
  | .fast => fields_fast
  | .cmdq => fields_cmdq
  | .quad => fields_quad
  | .dec => fields_dec
  | .cmp => fields_cmp
  | .tile => fields_tile
  | .car => fields_car
  | .bell => fields_bell
  | .stw => fields_stw

/-- First page and number of pages of each block type (Table REGS-1, R28). -/
def Block.pages : Block → Nat × Nat
  | .glb => (0x0, 1)
  | .rst => (0x1, 1)
  | .pwr => (0x2, 1)
  | .clk => (0x3, 1)
  | .fuse => (0x4, 1)
  | .sec => (0x5, 1)
  | .thrm => (0x6, 1)
  | .supv => (0x7, 1)
  | .ulnk => (0x8, 3)
  | .sbnd => (0xb, 1)
  | .xspi => (0xc, 1)
  | .i3c => (0xd, 1)
  | .dbg => (0xe, 1)
  | .hmc => (0x10, 4)
  | .hphy => (0x14, 4)
  | .stor => (0x18, 1)
  | .noc => (0x19, 1)
  | .plan => (0x20, 1)
  | .fsch => (0x21, 1)
  | .time => (0x22, 1)
  | .batq => (0x23, 1)
  | .own => (0x24, 1)
  | .shuf => (0x25, 1)
  | .fast => (0x26, 1)
  | .cmdq => (0x27, 1)
  | .quad => (0x30, 16)
  | .dec => (0x40, 32)
  | .cmp => (0x60, 16)
  | .tile => (0x80, 64)
  | .car => (0xc0, 1)
  | .bell => (0xe0, 32)
  | .stw => (0x100, 16)

/-- Every block type. -/
def Block.all : List Block := [.glb, .rst, .pwr, .clk, .fuse, .sec, .thrm, .supv, .ulnk, .sbnd, .xspi, .i3c, .dbg, .hmc, .hphy, .stor, .noc, .plan, .fsch, .time, .batq, .own, .shuf, .fast, .cmdq, .quad, .dec, .cmp, .tile, .car, .bell, .stw]

/-- The page of instance `n` of a block type. -/
def Block.page (b : Block) (n : Nat) : Nat := b.pages.1 + n

/-- The block type of a page, none for a page that Table REGS-1 does not list (R28). -/
def blockOf (page : Nat) : Option Block :=
  Block.all.find? fun b => b.pages.1 ≤ page && page < b.pages.1 + b.pages.2

/-- The instance number of a page within its block type (R29). -/
def instanceOf (page : Nat) : Nat :=
  match blockOf page with
  | some b => page - b.pages.1
  | none => 0

/-- The error sources 0 to 29 that each block defines, with the default severity (the error source tables of spec/). -/
def Block.sources : Block → List (Nat × Nat)
  | .glb => []
  | .rst => []
  | .pwr => [(0, 2), (1, 0)]
  | .clk => [(0, 2), (1, 3)]
  | .fuse => [(0, 1), (1, 1), (2, 3), (3, 1)]
  | .sec => [(0, 1), (1, 1), (2, 1), (3, 1), (4, 1), (5, 3)]
  | .thrm => [(0, 1), (1, 0), (2, 3), (3, 1)]
  | .supv => [(0, 3), (1, 3), (2, 1)]
  | .ulnk => [(0, 1), (1, 1), (2, 2), (3, 2), (4, 1), (5, 1), (6, 1), (7, 0), (8, 1), (9, 1), (10, 1), (11, 2)]
  | .sbnd => [(0, 1), (1, 1)]
  | .xspi => [(0, 1), (1, 1), (2, 1)]
  | .i3c => [(0, 1), (1, 1)]
  | .dbg => [(0, 3), (1, 3), (2, 1), (3, 1), (4, 3)]
  | .hmc => [(0, 0), (1, 1), (2, 2), (3, 2), (4, 1), (5, 3), (6, 3), (7, 2)]
  | .hphy => [(0, 1), (1, 2), (2, 1), (3, 1), (4, 2)]
  | .stor => [(0, 0), (1, 1), (2, 2), (3, 2)]
  | .noc => [(0, 1), (1, 0), (2, 2)]
  | .plan => [(0, 2), (1, 1), (2, 3), (3, 1), (4, 2)]
  | .fsch => [(0, 0), (1, 1), (2, 2), (3, 1), (4, 1), (5, 1), (6, 0), (7, 0)]
  | .time => [(0, 2), (1, 3), (2, 2), (3, 1), (4, 0), (5, 1), (6, 1)]
  | .batq => [(0, 1), (1, 1), (2, 1), (3, 0), (4, 1), (5, 2)]
  | .own => [(0, 0), (1, 2), (2, 0), (3, 0), (4, 1)]
  | .shuf => [(0, 1), (1, 1), (2, 1), (3, 1), (4, 2), (5, 1)]
  | .fast => [(0, 1), (1, 1), (2, 1), (3, 2)]
  | .cmdq => [(0, 1), (1, 1), (2, 1), (3, 1)]
  | .quad => [(0, 2), (1, 2)]
  | .dec => [(0, 0), (1, 1), (2, 1), (3, 1), (4, 1), (5, 1), (6, 2), (7, 1), (8, 2)]
  | .cmp => [(0, 2), (1, 1), (2, 2), (3, 1)]
  | .tile => [(16, 1), (17, 0), (18, 1), (19, 1), (20, 1), (21, 2), (0, 0), (1, 2), (2, 2), (3, 2), (4, 1), (5, 1), (6, 0), (7, 0), (8, 1), (9, 2), (10, 0), (11, 1), (12, 1), (13, 0)]
  | .car => [(0, 2), (1, 0), (2, 1), (3, 2)]
  | .bell => [(0, 1), (1, 1), (2, 1), (3, 2), (4, 2), (5, 2)]
  | .stw => [(0, 0), (1, 2), (2, 2), (3, 1), (4, 0), (5, 3)]

namespace Src

/-- PLAN source 0. -/
def plan_GONG_TIMEOUT : Nat := 0
/-- PLAN source 1. -/
def plan_TABLE_CORR : Nat := 1
/-- PLAN source 2. -/
def plan_TABLE_UNCORR : Nat := 2
/-- PLAN source 3. -/
def plan_CLAIM_OVERRUN : Nat := 3
/-- PLAN source 4. -/
def plan_IMAGE_POISON : Nat := 4
/-- CMDQ source 0. -/
def cmdq_RING_FETCH : Nat := 0
/-- CMDQ source 1. -/
def cmdq_ENTRY_INVALID : Nat := 1
/-- CMDQ source 2. -/
def cmdq_CPL_WRITE : Nat := 2
/-- CMDQ source 3. -/
def cmdq_TAIL_RANGE : Nat := 3
/-- TILE source 16. -/
def tile_STRM_REFUSED : Nat := 16
/-- TILE source 17. -/
def tile_STRM_IDX_RANGE : Nat := 17
/-- TILE source 18. -/
def tile_STRM_POISON : Nat := 18
/-- TILE source 19. -/
def tile_STRM_WRITE_ERR : Nat := 19
/-- TILE source 20. -/
def tile_STRM_XLATE : Nat := 20
/-- TILE source 21. -/
def tile_STRM_INTERNAL : Nat := 21
/-- DEC source 0. -/
def dec_DAMAGED_INPUT : Nat := 0
/-- DEC source 1. -/
def dec_CLAIM_OVERSIZE : Nat := 1
/-- DEC source 2. -/
def dec_LATE_CHECKSUM : Nat := 2
/-- DEC source 3. -/
def dec_UNSUPPORTED : Nat := 3
/-- DEC source 4. -/
def dec_INPUT_POISON : Nat := 4
/-- DEC source 5. -/
def dec_HIST_CORR : Nat := 5
/-- DEC source 6. -/
def dec_HIST_UNCORR : Nat := 6
/-- DEC source 7. -/
def dec_CTX_BAD : Nat := 7
/-- DEC source 8. -/
def dec_INTERNAL : Nat := 8
/-- CMP source 0. -/
def cmp_ECHO_MISMATCH : Nat := 0
/-- CMP source 1. -/
def cmp_BUF_CORR : Nat := 1
/-- CMP source 2. -/
def cmp_BUF_UNCORR : Nat := 2
/-- CMP source 3. -/
def cmp_OUT_WRITE_ERR : Nat := 3
/-- TILE source 0. -/
def tile_TM_CORR : Nat := 0
/-- TILE source 1. -/
def tile_TM_UNCORR : Nat := 1
/-- TILE source 2. -/
def tile_RF_UNCORR : Nat := 2
/-- TILE source 3. -/
def tile_UNIT_INTERNAL : Nat := 3
/-- TILE source 4. -/
def tile_CODE_FAULT : Nat := 4
/-- TILE source 5. -/
def tile_TM_RANGE : Nat := 5
/-- TILE source 6. -/
def tile_ITEM_DIVERT : Nat := 6
/-- TILE source 7. -/
def tile_CONST_CORR : Nat := 7
/-- QUAD source 0. -/
def quad_HUB_UNCORR : Nat := 0
/-- QUAD source 1. -/
def quad_SORT_INTERNAL : Nat := 1
/-- TILE source 8. -/
def tile_PROBE_POISON : Nat := 8
/-- TILE source 9. -/
def tile_PROBE_INTERNAL : Nat := 9
/-- TILE source 10. -/
def tile_HOT_REFUSED : Nat := 10
/-- TILE source 11. -/
def tile_SPILL_PIECES : Nat := 11
/-- CAR source 0. -/
def car_PORT_UNCORR : Nat := 0
/-- CAR source 1. -/
def car_THROTTLE : Nat := 1
/-- CAR source 2. -/
def car_WINDOW_WRITE : Nat := 2
/-- CAR source 3. -/
def car_SHADOW_WRITE_ERR : Nat := 3
/-- BELL source 0. -/
def bell_ENTRY_PARITY : Nat := 0
/-- BELL source 1. -/
def bell_SCRUB_FIX : Nat := 1
/-- BELL source 2. -/
def bell_SHADOW_FIX : Nat := 2
/-- BELL source 3. -/
def bell_SCRUB_LOST : Nat := 3
/-- BELL source 4. -/
def bell_ARRAY_UNCORR : Nat := 4
/-- BELL source 5. -/
def bell_SHIFT_ERR : Nat := 5
/-- TILE source 12. -/
def tile_SORT_LIST_BAD : Nat := 12
/-- TILE source 13. -/
def tile_SORT_DUP_CONFLICT : Nat := 13
/-- SHUF source 0. -/
def shuf_LIST_BAD : Nat := 0
/-- SHUF source 1. -/
def shuf_AUG_MISSING : Nat := 1
/-- SHUF source 2. -/
def shuf_AUG_READ_ERR : Nat := 2
/-- SHUF source 3. -/
def shuf_KEY_PARITY : Nat := 3
/-- SHUF source 4. -/
def shuf_UNIT_INTERNAL : Nat := 4
/-- SHUF source 5. -/
def shuf_LINEAGE_DIVERGED : Nat := 5
/-- OWN source 0. -/
def own_TABLE_CORR : Nat := 0
/-- OWN source 1. -/
def own_TABLE_UNCORR : Nat := 1
/-- OWN source 2. -/
def own_INVALID_DEST : Nat := 2
/-- OWN source 3. -/
def own_LATE_WRITE : Nat := 3
/-- OWN source 4. -/
def own_RELOAD_FAIL : Nat := 4
/-- BATQ source 0. -/
def batq_RING_WRITE_ERR : Nat := 0
/-- BATQ source 1. -/
def batq_CONS_RANGE : Nat := 1
/-- BATQ source 2. -/
def batq_LATE_COMMIT : Nat := 2
/-- BATQ source 3. -/
def batq_REGEN : Nat := 3
/-- BATQ source 4. -/
def batq_REGEN_LIMIT : Nat := 4
/-- BATQ source 5. -/
def batq_STATE_UNCORR : Nat := 5
/-- FSCH source 0. -/
def fsch_POOL_CORR : Nat := 0
/-- FSCH source 1. -/
def fsch_EVENT_LOST : Nat := 1
/-- FSCH source 2. -/
def fsch_FLOW_UNCORR : Nat := 2
/-- FSCH source 3. -/
def fsch_RING_FETCH : Nat := 3
/-- FSCH source 4. -/
def fsch_EVENT_INVALID : Nat := 4
/-- FSCH source 5. -/
def fsch_HEAD_WB_ERR : Nat := 5
/-- FSCH source 6. -/
def fsch_ALIGN_LATE : Nat := 6
/-- FSCH source 7. -/
def fsch_RECLAIM : Nat := 7
/-- TIME source 0. -/
def time_BEAT_MISMATCH : Nat := 0
/-- TIME source 1. -/
def time_MASTER_UNCORR : Nat := 1
/-- TIME source 2. -/
def time_CUE_NET_ERR : Nat := 2
/-- TIME source 3. -/
def time_CUE_LATE : Nat := 3
/-- TIME source 4. -/
def time_LATE_START : Nat := 4
/-- TIME source 5. -/
def time_SYNC_REJECT : Nat := 5
/-- TIME source 6. -/
def time_SYNC_MISSING : Nat := 6
/-- HMC source 0. -/
def hmc_ECC_CORR : Nat := 0
/-- HMC source 1. -/
def hmc_ECC_UNCORR : Nat := 1
/-- HMC source 2. -/
def hmc_CH_CE_LIMIT : Nat := 2
/-- HMC source 3. -/
def hmc_CH_UE_LIMIT : Nat := 3
/-- HMC source 4. -/
def hmc_HBM_HOT : Nat := 4
/-- HMC source 5. -/
def hmc_HBM_CRIT : Nat := 5
/-- HMC source 6. -/
def hmc_STACK_MISMATCH : Nat := 6
/-- HMC source 7. -/
def hmc_CTRL_UNCORR : Nat := 7
/-- HPHY source 0. -/
def hphy_TRAIN_CH_FAIL : Nat := 0
/-- HPHY source 1. -/
def hphy_TRAIN_STACK_FAIL : Nat := 1
/-- HPHY source 2. -/
def hphy_RATE_FALLBACK : Nat := 2
/-- HPHY source 3. -/
def hphy_CA_PARITY : Nat := 3
/-- HPHY source 4. -/
def hphy_PHY_UNCORR : Nat := 4
/-- STOR source 0. -/
def stor_CORR : Nat := 0
/-- STOR source 1. -/
def stor_UNCORR : Nat := 1
/-- STOR source 2. -/
def stor_BANK_FAULT : Nat := 2
/-- STOR source 3. -/
def stor_BIST_FAIL : Nat := 3
/-- NOC source 0. -/
def noc_ADDR_HOLE : Nat := 0
/-- NOC source 1. -/
def noc_LINK_CORR : Nat := 1
/-- NOC source 2. -/
def noc_LINK_UNCORR : Nat := 2
/-- ULNK source 0. -/
def ulnk_MOD_TRAIN_FAIL : Nat := 0
/-- ULNK source 1. -/
def ulnk_RATE_FALLBACK : Nat := 1
/-- ULNK source 2. -/
def ulnk_RETRY_LIMIT : Nat := 2
/-- ULNK source 3. -/
def ulnk_ADAPTER_UNCORR : Nat := 3
/-- ULNK source 4. -/
def ulnk_DECODER_COMMIT : Nat := 4
/-- ULNK source 5. -/
def ulnk_MEM_UNMAPPED : Nat := 5
/-- ULNK source 6. -/
def ulnk_DB_MALFORMED : Nat := 6
/-- ULNK source 7. -/
def ulnk_SECONDARY_MMIO : Nat := 7
/-- ULNK source 8. -/
def ulnk_PRI_FAILURE : Nat := 8
/-- ULNK source 9. -/
def ulnk_ATC_PARITY : Nat := 9
/-- ULNK source 10. -/
def ulnk_BIAS_UNCORR : Nat := 10
/-- ULNK source 11. -/
def ulnk_CACHE_UNCORR : Nat := 11
/-- SBND source 0. -/
def sbnd_SB_FAIL : Nat := 0
/-- SBND source 1. -/
def sbnd_MBX_PARITY : Nat := 1
/-- FAST source 0. -/
def fast_REQ_MALFORMED : Nat := 0
/-- FAST source 1. -/
def fast_SLOT_OVERRUN : Nat := 1
/-- FAST source 2. -/
def fast_RESP_WRITE_ERR : Nat := 2
/-- FAST source 3. -/
def fast_INTERNAL : Nat := 3
/-- DBG source 0. -/
def dbg_SEQ_UNCORR : Nat := 0
/-- DBG source 1. -/
def dbg_FLT_NET_PARITY : Nat := 1
/-- DBG source 2. -/
def dbg_TEST_FAIL : Nat := 2
/-- DBG source 3. -/
def dbg_QUIET_RESTART_MAX : Nat := 3
/-- DBG source 4. -/
def dbg_LAST_LINK : Nat := 4
/-- SEC source 0. -/
def sec_BOOT_REJECT : Nat := 0
/-- SEC source 1. -/
def sec_TRNG_FAIL : Nat := 1
/-- SEC source 2. -/
def sec_BOOT_TREE_NONE : Nat := 2
/-- SEC source 3. -/
def sec_QUOTE_EXHAUSTED : Nat := 3
/-- SEC source 4. -/
def sec_SRAM_UNCORR : Nat := 4
/-- SEC source 5. -/
def sec_MEAS_PARITY : Nat := 5
/-- FUSE source 0. -/
def fuse_BURN_ABORT : Nat := 0
/-- FUSE source 1. -/
def fuse_BURN_MARGINAL : Nat := 1
/-- FUSE source 2. -/
def fuse_LOAD_ERR : Nat := 2
/-- FUSE source 3. -/
def fuse_PROG_REFUSED : Nat := 3
/-- XSPI source 0. -/
def xspi_NV_ABORT : Nat := 0
/-- XSPI source 1. -/
def xspi_IMAGE_BAD : Nat := 1
/-- XSPI source 2. -/
def xspi_TIMEOUT : Nat := 2
/-- PWR source 0. -/
def pwr_SWITCH_FAIL : Nat := 0
/-- PWR source 1. -/
def pwr_CAP_ACTIVE : Nat := 1
/-- CLK source 0. -/
def clk_AUX_UNLOCK : Nat := 0
/-- CLK source 1. -/
def clk_DIVIDER_PARITY : Nat := 1
/-- SUPV source 0. -/
def supv_UV : Nat := 0
/-- SUPV source 1. -/
def supv_OV : Nat := 1
/-- SUPV source 2. -/
def supv_NV_FLOOR : Nat := 2
/-- THRM source 0. -/
def thrm_WARN : Nat := 0
/-- THRM source 1. -/
def thrm_QUAD_THROTTLE : Nat := 1
/-- THRM source 2. -/
def thrm_TRIP : Nat := 2
/-- THRM source 3. -/
def thrm_SENSOR_BAD : Nat := 3
/-- STW source 0. -/
def stw_L2_CORR : Nat := 0
/-- STW source 1. -/
def stw_L2_UNCORR : Nat := 1
/-- STW source 2. -/
def stw_CORE_INTERNAL : Nat := 2
/-- STW source 3. -/
def stw_WDT_EXPIRE : Nat := 3
/-- STW source 4. -/
def stw_L3_CORR : Nat := 4
/-- STW source 5. -/
def stw_L3_UNCORR : Nat := 5
/-- I3C source 0. -/
def i3c_PROTOCOL : Nat := 0
/-- I3C source 1. -/
def i3c_PMC_DENIED : Nat := 1

/-- Common source 30 of every block (R45). -/
def DISABLED_REQ : Nat := 30
/-- Common source 31 of every block (R45). -/
def CFG_PARITY : Nat := 31

end Src

end Sys2Proof.Machine
end

