-- ==== Sys2Proof/Machine/UnitParts.lean ====
section
/-!
DEFINITION. Structured state of the Carillon (08), of joins and aggregation (07), of sample order (10), of the
decompressors and compressors (05).
-/

namespace Sys2Proof.Machine

open Sys2Proof

/-- A valid Carillon entry: KEY, MASK and DATA (R214). An invalid one is not listed. -/
structure CarEntry where
  key : Nat
  mask : Nat
  data : Nat
  deriving DecidableEq, Repr

/-- The entries of one bell, by index. -/
abbrev Bell := KMap (Option CarEntry)

/-- A search that waits at its port (R223, R227): who issued it and into which lane and register the result goes.
`form`: 0 SEARCH, 1 TOKENISE, 2 RANGE. -/
structure CarSearch where
  port : Nat
  tile : Nat
  th : Nat
  slot : Nat
  table : Nat
  form : Nat
  lane : Nat
  d : Nat
  key : Nat
  gmask : Nat
  bellset : Nat
  maxlen : Nat
  cursor : Nat
  deriving DecidableEq, Repr

/-- A change of a table in progress (R233, R234, R238). -/
inductive CarWork where
  /-- an insert waits for its shift: bells that still move, the logical bell, insertion point, hole; then the entry and
  the records that follow -/
  | shift (bells : List Nat) (j at_ hole : Nat) (e : CarEntry) (rest : List CarEntry) (bad : Bool)
  /-- a load: the records to lay out, and whether a refused record ended the list -/
  | load (recs : List CarEntry) (bad : Bool)
  | regap
  | swap (cue : Nat)
  deriving DecidableEq, Repr

/-- The job that changes a table: the ring of its command (none for an initial load), the set, records applied. -/
structure CarJob where
  ring : Option Nat
  set : Nat
  applied : Nat
  work : CarWork
  deriving DecidableEq, Repr

/-- A Carillon table (Table CAR-2, R217 to R220). -/
structure CarTable where
  slot : Nat
  lt : Nat
  kind : Nat
  standby : Bool
  bells : Nat
  repl : Nat
  latReplica : Nat
  latEn : Bool
  fill : Nat
  gap : Nat
  vtype : Nat
  miss : Nat
  byteBase : Nat
  /-- the table's first logical bell of its plan (R218) -/
  first : Nat
  active : Nat := 0
  loading : Bool := false
  lost : Bool := false
  swaps : Nat := 0
  job : Option CarJob := none
  deriving DecidableEq, Repr

/-- The Carillon beyond its registers: entries of the physical bells, tables by device id, searches waiting. -/
structure Car where
  bells : KMap Bell := []
  tables : KMap (Option CarTable) := []
  searches : List CarSearch := []
  deriving DecidableEq, Repr

/-- A key of a hash table: its packed bytes and its null mask (R190, R192). -/
structure JKey where
  bytes : List Byte
  nulls : Nat := 0
  deriving DecidableEq, Repr

/-- What goes into a hash table or its build spill (R192, R195, R204): the key, its TIME, and a payload, or a group's
states (a sketch by its bytes), or values for AGG column records. -/
structure Built where
  key : JKey
  time : Nat := 0
  pay : List Byte := []
  states : Option (List (List Byte)) := none
  upd : Option (List (Nat × Option (List Byte))) := none
  deriving DecidableEq, Repr

/-- An evicted grace partition that waits for its pass (R195, R196). -/
structure Spill where
  level : Nat
  part : Nat
  build : List Built := []
  probe : List JoinRow := []
  deriving DecidableEq, Repr

/-- An owner's share of a hash table beyond its bytes in memory (R191 to R197, R207). -/
structure Share where
  /-- entry indexes used so far and freed ones, bytes of the key heap, sketches used so far and freed ones -/
  used : Nat := 0
  free : List Nat := []
  heap : Nat := 0
  sketches : Nat := 0
  sketchFree : List Nat := []
  level : Nat := 0
  /-- partitions evicted at this level -/
  evicted : List Nat := []
  spills : List Spill := []
  spillBytes : Nat := 0
  /-- entries that hold a row, in order of insertion; groups that passes finished (R204) -/
  rows : List Nat := []
  finished : List Built := []
  /-- keys replicated (R209) -/
  copied : List (List Byte) := []
  deriving DecidableEq, Repr

/-- An answer on its way to the issuing tile (R189): to a thread's lane, or the build entries that match an operator's
probe row. -/
inductive Answer where
  | lane (th : Nat) (kind : ProbeKind) (lane d : Nat) (w0 w1 : Nat)
  | rows (op row : Nat) (build : List (List Byte)) (null : Bool)
  deriving DecidableEq, Repr

/-- A row that a JOIN or AGG_EMIT operator has written (R202, R204): operator, probe row, build columns or result. -/
structure OutRow where
  op : Nat
  row : Nat
  build : Option (List Byte)
  flag : Bool := false
  deriving DecidableEq, Repr

/-- The probe unit of a tile beyond the requests it holds (R189, R209, R210). -/
structure ProbeUnit where
  answers : List Answer := []
  rows : List OutRow := []
  /-- last 4,096 probes sent, by handle, newest first; keys whose owner was asked; requests to replicate that wait here
  as owner: issuing tile, handle, key -/
  recent : KMap (List (List Byte)) := []
  asked : List (Nat × List Byte) := []
  hotReqs : List (Nat × Nat × List Byte) := []
  /-- keys replicated to this tile: handle, key, payload word 0 of its first match, entry index, chain length -/
  replicas : List (Nat × List Byte × Nat × Nat × Nat) := []
  deriving DecidableEq, Repr

/-- A row that SAMPLE writes (R276). -/
structure SampleRow where
  step : Nat
  epoch : Nat
  pos : Nat
  index : Nat
  consumer : Nat
  deriving DecidableEq, Repr

/-- A result row of a SORT or MERGE operator (R267, R270): segment, rank, key (none for null), index. -/
structure SelOut where
  seg : Nat
  rank : Nat
  key : Option Nat
  idx : Nat
  deriving DecidableEq, Repr

/-- What an operator has written to a ring whose place no rule gives: slot, operator, logical tile, rows, bytes. -/
structure OpOut where
  slot : Nat
  op : Nat
  tile : Nat
  rows : List SelOut := []
  bytes : List Byte := []
  deriving DecidableEq, Repr

/-- A row that AUGMENT waits for (R286): plan slot, operator, the row's step, beat of the first read and of the last,
whether a read is under way. -/
structure AugWait where
  slot : Nat
  op : Nat
  step : Nat
  since : Nat
  last : Nat
  again : Bool := false
  deriving DecidableEq, Repr

/-- A decoded value: its validity and its bytes (R120). -/
abbrev Value := Bool × List Byte

/-- A source row that the decode unit holds (R121): its number, a value for each column (none for null), the columns
affected by damage (0xFF for all) with the record of the first, whether a steward core decoded it, whether it ends an
extent group. -/
structure HeldRow where
  src : Nat
  vals : List (Option (List Byte))
  bad : List Nat := []
  seq : Option Nat := none
  assisted : Bool := false
  last : Bool := false
  deriving DecidableEq, Repr

/-- The last damage record of an operator, which PARSE events of consecutive rows share (R130). -/
structure DmgRec where
  seq : Nat
  cause : Nat
  col : Nat
  offset : Nat
  first : Nat
  rows : Nat
  deriving DecidableEq, Repr

/-- The stream of a decoding operator (R114, R122 to R126), kept while its plan is resident. -/
structure DecStream where
  slot : Nat
  op : Nat
  dec : Nat
  /-- its stage runs and its input has not ended; it is the decompressor's active stream; a passed frame, page or line
  is with a steward core; its context must be restored before it runs -/
  live : Bool := false
  active : Bool := false
  assistWait : Bool := false
  restoring : Bool := false
  inPos : Nat := 0
  outTotal : Nat := 0
  frameIn : Nat := 0
  frameOut : Nat := 0
  rowNext : Nat := 0
  rowsDone : Nat := 0
  blocks : Nat := 0
  /-- last delivered value of each column (R131) -/
  prev : List (Option Value) := []
  /-- decompressed bytes that no record, block or page has used yet -/
  carry : List Byte := []
  held : List HeldRow := []
  /-- source rows whose checksums are verified, and source rows released (R121, R134) -/
  verified : Nat := 0
  releasedRows : Nat := 0
  /-- ring pages released and freed (R92), bytes written by DECOMPRESS -/
  released : Nat := 0
  freed : Nat := 0
  bytes : Nat := 0
  dmgNext : Nat := 0
  lastDmg : Option DmgRec := none
  saved : Option Nat := none
  /-- checkpoints: chunk and save area (R124) -/
  checkpoints : List (Nat × Nat) := []
  /-- SPILL_READ: the columns' NULLABLE, VARLEN, ELEM once the file header is read -/
  spillCols : Option (List (Bool × Bool × Nat)) := none
  spillEnd : Bool := false
  deriving DecidableEq, Repr

/-- A compressing operator's output so far (R135, R136). -/
structure CmpStream where
  slot : Nat
  op : Nat
  outPos : Nat := 0
  /-- an output write was refused (R97, R144) -/
  ended : Bool := false
  deriving DecidableEq, Repr

end Sys2Proof.Machine
end

