-- ==== Sys2Proof/Machine/State.lean ====
section
/-!
DEFINITION. The state of the block: the register pages, the structured state of the units, and the queue of
waiting commands; the reasons a step can stop; the state after reset.
-/

namespace Sys2Proof.Machine

open Sys2Proof

/-- Why the machine stops with a fault. -/
inductive Fault where
  /-- A command names a unit or an operand that the device does not have; raised by the meanings that take such an
  operand. Safe: the device takes no such command. -/
  | noSuchUnit
  deriving DecidableEq, Repr

/-- Why a command is refused. -/
inductive Refusal where
  /-- The command has no meaning yet. Safe. -/
  | notModelled (mnemonic : String)
  /-- The command's operands are not those of any command of the device: an instruction word that R162 and R163 call
  invalid, or data of a wrong length. Raised by the meanings that check well-formedness. Safe: admission refuses every
  plan that holds such a word, so no thread issues it. -/
  | illFormed
  deriving DecidableEq, Repr

/-- The state of the NH64. -/
structure State where
  /-- active register values by page × 0x1000 + offset; an unlisted register holds its reset value (R28, R36) -/
  regs : KMap Word
  /-- staged values of SHADOW registers, where they differ from the active ones (R36) -/
  staged : KMap Word
  /-- commands waiting, first in first out (the block's queue) -/
  pending : List Instr
  /-- what left the device, newest first (log 5) -/
  out : List Msg
  /-- counter of free values (log 6) -/
  free : Nat
  /-- BEAT (R341), whether it counts, and whether the master's corrections are stopped -/
  beat : Nat
  beatOn : Bool
  beatHold : Bool
  mem : Mem
  slots : KMap PlanSlot
  admission : Option Admission
  rings : KMap Ring
  /-- values last accepted by the doorbell pages, by page of BAR2 (R389, R393) -/
  doorbells : KMap Word
  tiles : KMap Tile
  fsch : Fsch
  queues : KMap (Option Queue)
  owns : KMap OwnPlan
  car : Car
  /-- owners' shares of hash tables, by slot × 1,024 + handle × 64 + physical tile -/
  shares : KMap Share
  probeUnits : KMap ProbeUnit
  decs : List DecStream
  cmps : List CmpStream
  /-- rows drawn by SAMPLE for the chunks that hold an uncommitted row: slot, chunk, rows (R276) -/
  draws : List (Nat × Nat × List SampleRow)
  /-- result rows of SORT and MERGE, slabs of RAGGED (R267, R270, R291) -/
  opOuts : List OpOut
  /-- augmentation records that are waited for, and records delivered: slot, operator, step, parameter bytes, concealed
  (R285, R286) -/
  augs : List AugWait
  augRows : List (Nat × Nat × Nat × List Byte × Bool)
  /-- targets of the pending cue slots (R344) -/
  cues : KMap (Option Nat)
  time : TimeSt
  /-- tokens of the bandwidth classes, by stack × 3 + class: READ, WRITE, REMOTE (R99) -/
  buckets : KMap Nat
  link : Link
  pins : Pins
  flt : Flt
  sec : Sec
  pwr : Pwr
  deriving DecidableEq, Repr

/-- The machine held in power-on reset, before PWROK rises (R454, log 3): every register at its reset value, every
memory and table empty. -/
def State.reset : State :=
  { regs := []
    staged := []
    pending := []
    out := []
    free := 0
    beat := 0
    beatOn := false
    beatHold := false
    mem := {}
    slots := []
    admission := none
    rings := []
    doorbells := []
    tiles := []
    fsch := {}
    queues := []
    owns := []
    car := {}
    shares := []
    probeUnits := []
    decs := []
    cmps := []
    draws := []
    opOuts := []
    augs := []
    augRows := []
    cues := []
    time := {}
    buckets := []
    link := {}
    pins := {}
    flt := {}
    sec := {}
    pwr := {} }

end Sys2Proof.Machine
end

