-- ==== Sys2Proof/Machine/Regs.lean ====
section
/-!
DEFINITION. The register file: reset values, fields, interrupts, refused writes, staged values (02). Registers that
are computed from structured state are read through Machine/Views.lean; every other register has its home here.
-/

namespace Sys2Proof.Machine

/-- The mask of bits hi to lo. -/
def bitMask (hi lo : Nat) : Nat := (2 ^ (hi + 1 - lo) - 1) * 2 ^ lo
/-- Bits hi to lo of a number. -/
def bitsOf (x hi lo : Nat) : Nat := x / 2 ^ lo % 2 ^ (hi + 1 - lo)

/-- Blocks whose ENABLE is RO 1 (R42). -/
def Block.always : Block → Bool
  | .glb | .rst | .pwr | .clk | .fuse | .sec | .thrm | .supv | .noc | .stor => true
  | _ => false

/-- Blocks that carry a function of Table PLAN-12, so that MODE can be 1 ASSIST (R44, R70). -/
def Block.hasMode : Block → Bool
  | .dec | .cmp | .car | .fsch | .shuf | .quad | .hphy | .glb | .sec => true
  | _ => false

def FieldDef.covers (f : FieldDef) (off : Nat) : Bool :=
  f.off ≤ off && (off - f.off) % f.stride == 0 && (off - f.off) / f.stride < f.count

/-- The fields of the register at an offset of a page. -/
def fieldsAt (page off : Nat) : List FieldDef :=
  match blockOf page with
  | none => []
  | some b =>
    (if off < 0x100 then headerFields else if page = 0x10 && off = 0x408 then hmc0Fields else b.fields).filter
      fun f => f.covers off

/-- Bits of the register that belong to fields satisfying a test. -/
def maskOf (p : FieldDef → Bool) (page off : Nat) : Nat :=
  (fieldsAt page off).foldl (fun m f => if p f then m ||| bitMask f.hi f.lo else m) 0

/-- Sources 0 to 29 of a page with their default severities: BIAS_UNCORR is ULNK0's only (R405), the L3 sources are
STW0's only (R478). -/
def pageSources (page : Nat) : List (Nat × Nat) :=
  match blockOf page with
  | some b => b.sources.filter fun p =>
      !((b == .ulnk && p.1 == 10 && page != 0x008) || (b == .stw && (p.1 == 4 || p.1 == 5) && page != 0x100))
  | none => []

/-- Bits of ERR_STAT and ERR_FORCE that the page defines: its own sources and the common ones (R45). -/
def sourceMask (page : Nat) : Nat := (pageSources page).foldl (fun m p => m ||| 2 ^ p.1) (2 ^ 30 + 2 ^ 31)

/-- Reset value of ERR_SEV: the default severities (R45). -/
def sevReset (page : Nat) (always : Bool) : Nat :=
  (pageSources page).foldl (fun m p => m + p.2 * 4 ^ p.1) (4 ^ 30 + (if always then 3 else 2) * 4 ^ 31)

/-- Fields whose reset value comes from fuses (log 4): page, offset, high and low bit. -/
def fuseResets : List (Block × Nat × Nat × Nat) :=
  [(.glb, 0x108, 24, 24), (.glb, 0x110, 63, 0), (.hphy, 0x108, 5, 3), (.ulnk, 0x108, 18, 16), (.supv, 0x100, 59, 48)]

/-- Reset value of a register (R41, the field tables; log 4 for fuses). -/
def resetVal (k : Nat) : Word :=
  let page := k / 0x1000
  let off := k % 0x1000
  match blockOf page with
  | none => 0
  | some b =>
    let base := (fieldsAt page off).foldl (fun m f => m + f.reset * 2 ^ f.lo) 0
    let fuse := fuseResets.foldl (fun m p =>
      if p.1 = b && p.2.1 = off then m + Config.fuseField page off p.2.2.2 % 2 ^ (p.2.2.1 + 1 - p.2.2.2) * 2 ^ p.2.2.2
      else m) 0
    let special :=
      if off = 0 then b.pages.1 + (page - b.pages.1) * 2 ^ 16
      else if off = 0x8 then (if b.always then 1 else 0)
      else if off = 0x28 then sevReset page b.always
      else if b = .sec && 0x280 ≤ off && off < 0x2C0 then Config.fuseField page off 0 % 2 ^ 64
      else if b = .rst && off = 0x120 then
        (List.range 8).foldl (fun m i => m + (Config.otpByte (0x40 + i)).toNat * 256 ^ i) 0
      else if b = .time && 0x300 ≤ off && off < 0x400 && off % 0x10 = 8 then 8
      else 0
    word (base + fuse + special)

/-- Key of a register. -/
def regKey (page off : Nat) : Nat := page * 0x1000 + off

/-- Active value of a register. -/
def State.rd (s : State) (page off : Nat) : Word := kget resetVal s.regs (regKey page off)
/-- Store the active value of a register. -/
def State.wr (s : State) (page off : Nat) (v : Word) : State :=
  { s with regs := kset resetVal s.regs (regKey page off) v }

/-- A field's value. -/
def State.fld (s : State) (page : Nat) (f : Fld) : Nat := bitsOf (s.rd page f.off).toNat f.hi f.lo
/-- A word with bits hi to lo replaced. -/
def putBits (w : Word) (hi lo v : Nat) : Word :=
  word (w.toNat - bitsOf w.toNat hi lo * 2 ^ lo + v % 2 ^ (hi + 1 - lo) * 2 ^ lo)
/-- Set a field, modulo its width. -/
def State.setFld (s : State) (page : Nat) (f : Fld) (v : Nat) : State :=
  s.wr page f.off (putBits (s.rd page f.off) f.hi f.lo v)
/-- Whether a one-bit field is 1. -/
def State.bit (s : State) (page : Nat) (f : Fld) : Bool := s.fld page f == 1
def State.setBit (s : State) (page : Nat) (f : Fld) (b : Bool) : State := s.setFld page f (if b then 1 else 0)
/-- Add to a counter field that saturates. -/
def State.addSat (s : State) (page : Nat) (f : Fld) (n : Nat) : State :=
  s.setFld page f (min (s.fld page f + n) (2 ^ (f.hi + 1 - f.lo) - 1))
/-- Add to a counter field that wraps. -/
def State.addWrap (s : State) (page : Nat) (f : Fld) (n : Nat) : State := s.setFld page f (s.fld page f + n)

/-- Pages of the single blocks. -/
def pgGLB : Nat := 0x000
def pgRST : Nat := 0x001
def pgPWR : Nat := 0x002
def pgCLK : Nat := 0x003
def pgFUSE : Nat := 0x004
def pgSEC : Nat := 0x005
def pgTHRM : Nat := 0x006
def pgSUPV : Nat := 0x007
def pgSBND : Nat := 0x00B
def pgXSPI : Nat := 0x00C
def pgI3C : Nat := 0x00D
def pgDBG : Nat := 0x00E
def pgSTOR : Nat := 0x018
def pgNOC : Nat := 0x019
def pgPLAN : Nat := 0x020
def pgFSCH : Nat := 0x021
def pgTIME : Nat := 0x022
def pgBATQ : Nat := 0x023
def pgOWN : Nat := 0x024
def pgSHUF : Nat := 0x025
def pgFAST : Nat := 0x026
def pgCMDQ : Nat := 0x027
def pgCAR : Nat := 0x0C0
def pgULNK (n : Nat) : Nat := 0x008 + n
def pgHMC (n : Nat) : Nat := 0x010 + n
def pgHPHY (n : Nat) : Nat := 0x014 + n
def pgQUAD (n : Nat) : Nat := 0x030 + n
def pgDEC (n : Nat) : Nat := 0x040 + n
def pgCMP (n : Nat) : Nat := 0x060 + n
def pgTILE (n : Nat) : Nat := 0x080 + n
def pgBELL (n : Nat) : Nat := 0x0E0 + n
def pgSTW (n : Nat) : Nat := 0x100 + n

/-- Domain of a page (Table REGS-1, R463), none for a page in no switched domain. -/
def domainOf (page : Nat) : Option Nat :=
  match blockOf page with
  | some .quad | some .cmp => some (instanceOf page)
  | some .dec => some (instanceOf page / 2)
  | some .tile => some (instanceOf page / 4)
  | some .car | some .bell => some 17
  | some .stw => some 16
  | _ => none

/-- State that PWR_STATE gives a domain: 0 ON, 1 OFF, 2 RETAIN, 3 in transition. -/
def State.domState (s : State) (d : Nat) : Nat := bitsOf (s.rd pgPWR 0x108).toNat (2 * d + 1) (2 * d)

/-- The page's domain is on (R46). -/
def State.powered (s : State) (page : Nat) : Bool :=
  match domainOf page with
  | some d => s.domState d == 0
  | none => true

def State.enabled (s : State) (page : Nat) : Bool := s.bit page Reg.BLK_CTRL_ENABLE
def State.assist (s : State) (page : Nat) : Bool := s.bit page Reg.BLK_CTRL_MODE
def State.fenced (s : State) (page : Nat) : Bool := s.bit page Reg.BLK_STAT_FENCED
def State.ready (s : State) (page : Nat) : Bool := s.bit page Reg.BLK_STAT_READY

/-- Add to the PERF counters of a page that count an event (R41): COUNT_EN, not frozen, saturating. -/
def State.perf (s : State) (page ev n : Nat) : State :=
  if s.bit page Reg.PERF_CTL_FREEZE then s
  else (List.range 9).foldl (fun s i =>
    if s.fld page (Reg.PERF_SEL_EVENT i) = ev && s.bit page (Reg.PERF_SEL_COUNT_EN i)
    then s.addSat page (Reg.PERF_CNT_COUNT i) n else s) s

/-- Record what leaves the device. -/
def State.emit (s : State) (m : Msg) : State := { s with out := m :: s.out }

/-- Send an MSI-X vector; a masked one sets its pending bit (R395). -/
def State.msix (s : State) (vec : Nat) : State :=
  if s.link.fnMask || !s.link.unmasked.contains vec then
    { s with link := { s.link with msixPend := if s.link.msixPend.contains vec then s.link.msixPend
                                               else vec :: s.link.msixPend } }
  else s.emit (.msix vec)

/-- Set an INT_STAT bit; the vector is sent when an enabled bit changes from 0 to 1 (R395). -/
def State.raise (s : State) (page bit : Nat) : State :=
  let st := (s.rd page 0x58).toNat
  if bitsOf st bit bit = 1 then s
  else
    let s' := s.wr page 0x58 (word (st + 2 ^ bit))
    if bitsOf (s.rd page 0x50).toNat bit bit = 1 then s'.msix (s.fld page Reg.INT_VEC_VECTOR) else s'

/-- A refused write: CFG_REJECT, and when it was 0 also REJ_CAUSE, REJ_OFFSET and INT_STAT.CFG (R33). -/
def State.reject (s : State) (page off cause : Nat) : State :=
  let s := s.perf page 3 1
  if s.bit page Reg.BLK_STAT_CFG_REJECT then s
  else
    (((s.setBit page Reg.BLK_STAT_CFG_REJECT true).setFld page Reg.BLK_STAT_REJ_CAUSE cause).setFld page
      Reg.BLK_STAT_REJ_OFFSET off).raise page 1

/-- The staged value of a register, which a read returns (R36). -/
def State.rdStaged (s : State) (page off : Nat) : Word :=
  kget (fun k => kget resetVal s.regs k) s.staged (regKey page off)

/-- A SHADOW field of the block holds a staged value that differs from its active value (R36). -/
def State.shdPend (s : State) (page : Nat) : Bool := s.staged.any fun p => p.1 / 0x1000 == page

/-- Application of a block's staged values (R36): all at once, GEN + 1, APPLY_BEAT, INT_STAT.GEN. With nothing
staged there is nothing to apply (log 10). -/
def State.applyStaged (s : State) (page : Nat) : State :=
  if s.shdPend page then
    let mine := s.staged.filter fun p => p.1 / 0x1000 == page
    let s := { s with regs := mine.foldl (fun (m : KMap Word) (p : Nat × Word) => kset resetVal m p.1 p.2) s.regs
                      staged := s.staged.filter fun p => p.1 / 0x1000 != page }
    let s := s.addWrap page Reg.BLK_GEN_GEN 1
    (s.setFld page Reg.BLK_GEN_APPLY_BEAT s.beat).raise page 2
  else s

/-- The block takes part in a gong of a plan that holds these tiles, decompressors, bells and cores (R38). -/
def alwaysInGong (page : Nat) : Bool :=
  page == pgPLAN || page == pgFSCH || page == pgTIME || page == pgBATQ || page == pgOWN || page == pgSHUF

/-- A gong of the block: staged values apply with ENABLE = 1, SHD_HOLD = 0 and CUE_ARM = 0 (R37). -/
def State.gongAt (s : State) (page : Nat) : State :=
  if s.enabled page && !s.bit page Reg.BLK_CTRL_SHD_HOLD && !s.bit page Reg.BLK_CTRL_CUE_ARM
  then s.applyStaged page else s

/-- The firing of a cue slot at a block: an armed block applies and CUE_ARM clears, unless SHD_HOLD = 1 (R37, R40);
a disabled block holds nothing staged. -/
def State.cueAt (s : State) (page cue : Nat) : State :=
  if s.bit page Reg.BLK_CTRL_CUE_ARM && s.fld page Reg.BLK_CTRL_CUE_SEL = cue
      && !s.bit page Reg.BLK_CTRL_SHD_HOLD && s.powered page then
    (s.applyStaged page).setBit page Reg.BLK_CTRL_CUE_ARM false
  else s

/-- A free value of the model: the counter moves on (log 6). -/
def State.fresh (s : State) : Nat × State := (Config.freeNat s.free, { s with free := s.free + 1 })

/-- The regions of HBM that make a plan claim the HMC of a stack (R100): FINE, save areas and shadow copies claim all
four; STACK_LOCAL its stack; CHANNEL_LOCAL the stack of its channel. -/
def Region.claimsStack (r : Region) (n : Nat) : Bool :=
  r.place == 0 || (r.place == 1 && r.sub == n) || (r.place == 2 && r.sub / 32 == n)

/-- A plan that holds these resources claims the block of a page (R42). -/
def Alloc.claims (a : Alloc) (page : Nat) : Bool :=
  let n := instanceOf page
  match blockOf page with
  | some .tile => a.tiles.contains n
  | some .quad | some .cmp => a.tiles.any fun t => t / 4 == n
  | some .dec => a.decs.contains n
  | some .bell => a.bells.contains n
  | some .car => !a.bells.isEmpty
  | some .stw => a.stws.contains n
  | some .hmc => a.hbm.any (·.claimsStack n) || a.saveArea.isSome || a.shadow.isSome
  | some .plan | some .fsch | some .time | some .batq | some .own | some .shuf => true
  | _ => false

def State.slot (s : State) (p : Nat) : PlanSlot := kget (fun _ => {}) s.slots p
def State.setSlot (s : State) (p : Nat) (x : PlanSlot) : State :=
  { s with slots := kset (fun _ => {}) s.slots p x }
/-- PLAN_Pp_STAT.STATE. -/
def State.slotState (s : State) (p : Nat) : Nat := s.fld pgPLAN (Reg.PLAN_P_STAT_STATE p)

/-- A resident plan claims the block of a page (R42). -/
def State.claimed (s : State) (page : Nat) : Bool :=
  (List.range 16).any fun p => s.slotState p != 0 && (s.slot p).alloc.claims page

end Sys2Proof.Machine
end

