-- ==== Sys2Proof/Machine/MemOps.lean ====
section
/-!
DEFINITION. Memory: where a device address is stored (R22, R355, R357, R366), cells and poison (R359, R361, R368),
tile memory (R151, R152).
-/

namespace Sys2Proof.Machine

/-- What an unlisted cell reads as: the zeros of the boot fill (R363, R369, R370). -/
def memDefault : Nat → Byte := fun _ => 0

/-- The canonical form of a memory: keys strictly rise, no listed cell holds the unlisted value. -/
abbrev Memory.wf (m : List Host.Cell) : Bool := kwf memDefault m

/-- A memory cell, and writing one. -/
def cell (m : List Host.Cell) (k : Nat) : Byte := kget memDefault m k
def setCell (m : List Host.Cell) (k : Nat) (b : Byte) : List Host.Cell := kset memDefault m k b

/-- Cells from a key on, in order. -/
def cells (m : List Host.Cell) (k n : Nat) : List Byte := (List.range n).map fun i => cell m (k + i)
def setCells (m : List Host.Cell) (k : Nat) : List Byte → List Host.Cell
  | [] => m
  | b :: bs => setCells (setCell m k b) (k + 1) bs

/-- Bounds of the device address map (Table STACK-6). -/
def hbmTop : Nat := 0x40_0000_0000
def storeBase : Nat := 0x40_0000_0000
def halfBytes : Nat := 0x5000_0000
def storeTop : Nat := storeBase + 2 * halfBytes
def tileBase : Nat := 0x41_0000_0000
def tileTop : Nat := tileBase + 64 * 0x80_0000
def gib : Nat := 2 ^ 30

/-- Capacity of one stack in bytes, FINE and STACK_LOCAL bytes per stack, CHANNEL_LOCAL bytes per channel (R355). -/
def State.stackBytes (s : State) : Nat := s.fld pgGLB Reg.GLB_HBM_STACK_GIB * gib
def State.clUnits (s : State) : Nat := s.fld (pgHMC 0) Reg.HMC0_ZONE_CL_UNITS
def State.fineBytes (s : State) : Nat :=
  let f := s.fld (pgHMC 0) Reg.HMC0_ZONE_FINE_GIB
  if f = 255 then s.stackBytes - 2 * s.clUnits * gib else f * gib
def State.localBytes (s : State) : Nat := s.stackBytes - s.fineBytes - 2 * s.clUnits * gib
def State.chanBytes (s : State) : Nat := s.clUnits * 64 * 2 ^ 20

/-- A channel is trained and unfenced (HMCn_STAT.CH_UP). -/
def State.chanUp (s : State) (c : Nat) : Bool :=
  bitsOf (s.rd (pgHMC (c / 32)) 0x108).toNat (c % 32) (c % 32) == 1

/-- The unfenced pseudo-channels of a zone's set, in ascending number (R354, R357): all, a stack's, a channel's. -/
def State.pcsOf (s : State) (place sub : Nat) : List Nat :=
  (List.range 256).filter fun p =>
    s.chanUp (32 * (p / 64) + p % 64 / 2) &&
      (place == 0 || (place == 1 && p / 64 == sub) || (place == 2 && 32 * (p / 64) + p % 64 / 2 == sub))

/-- hbm_map() (R357): the member of the list and its local address, none when unbacked. -/
def hbmMap (o base zs : Nat) (list : List Nat) : Option (Nat × Nat) :=
  let n := list.length
  if n = 0 then none
  else
    let u := o / 256
    let row := u / n
    if row ≥ zs / 256 then none
    else (list[(u % n + row % n) % n]?).map fun pc => (pc, base + row * 256 + o % 256)

/-- The zone of an HBM address (Table MEM-4): placement, stack or channel, offset, base and size per
pseudo-channel. -/
def State.zoneOf (s : State) (a : Nat) : Option (Nat × Nat × Nat × Nat × Nat) :=
  let f := s.fineBytes
  let l := s.localBytes
  let b := s.chanBytes
  if a < 4 * f then some (0, 0, a, 0, f / 64)
  else if a < 4 * (f + l) then some (1, (a - 4 * f) / l, (a - 4 * f) % l, f / 64, l / 64)
  else if a < 4 * (f + l) + 128 * b then
    some (2, (a - 4 * (f + l)) / b, (a - 4 * (f + l)) % b, (f + l) / 64, b / 2)
  else none

/-- A store memory half is backed: not fenced, its domain ON (R366, R368, R464). -/
def State.halfUp (s : State) (h : Nat) : Bool :=
  !(s.bit pgSTOR (if h = 0 then Reg.STOR_STAT_BASE_FENCED else Reg.STOR_STAT_STORE_FENCED)) && s.domState (18 + h) == 0

/-- Storage key of a device address in HBM or store memory, none for a hole (R22, R25, R357, R366). Keys are storage
locations, not addresses: a change of mapping moves addresses, never data (R356, R361). -/
def State.locate (s : State) (a : Nat) : Option Nat :=
  if a < hbmTop then
    match s.zoneOf a with
    | some (place, sub, o, base, zs) =>
      (hbmMap o base zs (s.pcsOf place sub)).map fun p => p.1 * 2 ^ 30 + p.2
    | none => none
  else if a < storeTop then
    let h := (a - storeBase) / halfBytes
    if s.halfUp h then
      (hbmMap ((a - storeBase) % halfBytes) 0 (10 * 2 ^ 20) ((List.range 128).map fun b => 128 * h + b)).map
        fun p => 2 ^ 40 + p.1 * 2 ^ 24 + p.2
    else none
  else none

/-- The cell at a storage key is poisoned: its 64 B line of HBM, or its 8 B word of store memory. -/
def Mem.poisonedKey (m : Mem) (k : Nat) : Bool :=
  if k < 2 ^ 40 then m.hbmPoison.contains (k / 64) else m.storePoison.contains (k / 8)

/-- A byte of HBM or store memory, none for a hole; and whether it is poisoned. -/
def State.readByte (s : State) (a : Nat) : Option Byte := (s.locate a).map fun k => cell s.mem.dev k
def State.byteBad (s : State) (a : Nat) : Bool :=
  match s.locate a with
  | some k => s.mem.poisonedKey k
  | none => true

/-- Read n bytes of HBM or store memory: the bytes, holes as zeros, and whether the answer carries poison (a hole, a
poisoned line or word, or any read while the write gate is closed, R410). -/
def State.readDev (s : State) (a n : Nat) : List Byte × Bool :=
  ((List.range n).map fun i => (s.readByte (a + i)).getD 0,
   s.link.gateClosed || (List.range n).any fun i => s.byteBad (a + i))

/-- Poison of the location units a write touches: a write that covers a unit whole clears it (or sets it, when the
write itself is poisoned); a shorter one leaves it as it stands, and a poisoned one sets it. -/
def poisonAfter (old : List Nat) (unit : Nat) (keys : List Nat) (poison : Bool) : List Nat :=
  let units := (keys.map (· / unit)).eraseDups
  units.foldl (fun l u =>
    if poison then (if l.contains u then l else u :: l)
    else if (keys.filter fun k => k / unit = u).eraseDups.length = unit then l.filter (· != u) else l) old

/-- Write bytes at a device address of HBM or store memory; bytes at holes are dropped (R25). -/
def State.writeDev (s : State) (a : Nat) (bs : List Byte) (poison : Bool) : State :=
  let ks := bs.zipIdx.filterMap fun p => (s.locate (a + p.2)).map fun k => (k, p.1)
  let keys := ks.map Prod.fst
  let dev := ks.foldl (fun (m : List Host.Cell) (p : Nat × Byte) => setCell m p.1 p.2) s.mem.dev
  { s with mem := { s.mem with
      dev := dev
      hbmPoison := poisonAfter s.mem.hbmPoison 64 (keys.filter (· < 2 ^ 40)) poison
      storePoison := poisonAfter s.mem.storePoison 8 (keys.filter (2 ^ 40 ≤ ·)) poison } }

/-- Key of a byte of tile memory (R151). -/
def tmKey (tile off : Nat) : Nat := tile * 2 ^ 23 + off

/-- Read and write tile memory. -/
def State.tmRead (s : State) (tile off n : Nat) : List Byte := cells s.mem.tile (tmKey tile off) n
def State.tmWrite (s : State) (tile off : Nat) (bs : List Byte) : State :=
  { s with mem := { s.mem with tile := setCells s.mem.tile (tmKey tile off) bs } }

end Sys2Proof.Machine
end

