-- ==== Sys2Proof/Machine/Ops.lean ====
section
/-!
DEFINITION. The shared operations of the block: requests to the host and the write gate (R382, R384, R411), the
completion ring (R392), ending streams and admissions, recording an error and the fault it starts or joins
(R45, R407 to R415), failing a plan.
-/

namespace Sys2Proof.Machine

def State.tile (s : State) (n : Nat) : Tile := kget (fun _ => {}) s.tiles n
def State.setTile (s : State) (n : Nat) (t : Tile) : State := { s with tiles := kset (fun _ => {}) s.tiles n t }
def Tile.thread (t : Tile) (k : Nat) : Thread := kget (fun _ => {}) t.threads k
def Tile.setThread (t : Tile) (k : Nat) (x : Thread) : Tile := { t with threads := kset (fun _ => {}) t.threads k x }
def Tile.slot (t : Tile) (k : Nat) : Option StrmSlot := kget (fun _ => none) t.strm k
def Tile.setSlot (t : Tile) (k : Nat) (x : Option StrmSlot) : Tile :=
  { t with strm := kset (fun _ => none) t.strm k x }
def State.thread (s : State) (n k : Nat) : Thread := (s.tile n).thread k
def State.setThread (s : State) (n k : Nat) (x : Thread) : State := s.setTile n ((s.tile n).setThread k x)
def State.ring (s : State) (n : Nat) : Ring := kget (fun _ => {}) s.rings n
def State.setRing (s : State) (n : Nat) (r : Ring) : State := { s with rings := kset (fun _ => {}) s.rings n r }

/-! ## Links -/

/-- Bound, unfenced links in ascending number (R382). -/
def State.boundLinks (s : State) : List Nat :=
  (List.range 3).filter fun n =>
    bitsOf (s.fld pgGLB Reg.GLB_LGRP_BOUND) n n == 1 && !s.bit (pgULNK n) Reg.ULNK_STAT_FENCED

/-- The primary link: the lowest-numbered link that is trained and unfenced (R383). -/
def State.primary (s : State) : Option Nat :=
  (List.range 3).find? fun n => s.bit (pgULNK n) Reg.ULNK_STAT_TRAINED && !s.bit (pgULNK n) Reg.ULNK_STAT_FENCED

/-- The link that a CXL.cache request for a host physical address takes (R384): the one of rank (A >> 12) mod WAYS,
while its CACHE_EN is 1; none while the request is held (R382). -/
def State.linkFor (s : State) (addr : Nat) : Option Nat :=
  let ls := s.boundLinks
  match ls[addr / 4096 % max ls.length 1]? with
  | some n => if s.bit (pgULNK n) Reg.ULNK_STAT_CACHE_EN then some n else none
  | none => none

/-- A request that writes host memory (R411). -/
def HostReq.isWrite (r : HostReq) : Bool :=
  match r.kind with
  | .itoMWr | .woWrInv => true
  | _ => false

/-- The link that a request takes: a fast-path response leaves on the primary link (R384). -/
def State.routeOf (s : State) (r : HostReq) : Option Nat :=
  match r.src with
  | .fastResp _ => s.primary.filter fun n => s.boundLinks.contains n && s.bit (pgULNK n) Reg.ULNK_STAT_CACHE_EN
  | _ => s.linkFor r.addr

/-- Keep a request until it can go. -/
def State.holdReq (s : State) (r : HostReq) : State := { s with link := { s.link with held := s.link.held ++ [r] } }

/-- Send a request on its link, or hold it (R382). Of the writes that meet the closed gate a completion entry is
discarded, to be written again (R392); a COMMIT, which only a fenced link sends back here, waits for the gate (R386,
log 154); the others are poisoned (R411). -/
def State.sendReq (s : State) (r : HostReq) : State :=
  match s.routeOf r, r.src, s.link.gateClosed with
  | none, _, _ => s.holdReq r
  | some _, .completion _, true => s
  | some _, .batchCommit _ _, true => s.holdReq r
  | some n, _, _ =>
    let r := { r with link := n, poison := r.poison || (s.link.gateClosed && r.isWrite) }
    { s with link := { s.link with reqs := s.link.reqs ++ [r] }, out := .request r :: s.out }.perf (pgULNK n) 0x100 1

/-- Issue a new request of a unit. -/
def State.issueHost (s : State) (kind : ReqKind) (addr : Nat) (data : List Byte) (src : ReqSrc) : State :=
  let r : HostReq := { id := s.link.nextId, kind := kind, addr := addr, data := data, src := src }
  { s with link := { s.link with nextId := s.link.nextId + 1 } }.sendReq r

/-- Send every held request that can go now (R382). -/
def State.releaseHeld (s : State) : State :=
  let hs := s.link.held
  hs.foldl State.sendReq { s with link := { s.link with held := [] } }

/-- The host physical address of a ring access: with VIRT the address is translated first (R384, log 31). -/
def hostAddr (virt : Bool) (pasid addr : Nat) : Nat := if virt then Config.ats pasid addr else addr

/-! ## Completions -/

/-- Entries of a command ring. -/
def State.ringSize (s : State) (n : Nat) : Nat := 2 ^ s.fld pgCMDQ (Reg.CMDQ_R_CFG_SIZE_LOG2 n)

/-- The 32 B completion entry (Table LINK-6). -/
def Cpl.bytes (c : Cpl) (code count info beat : Nat) (phase : Bool) : List Byte :=
  leBytes 4 c.tag.toNat ++ [byte code, byte c.code, byte c.slot, byte (if phase then 0x80 else 0)] ++
    leBytes 8 count ++ leBytes 8 info ++ leBytes 8 beat

/-- Write the oldest completion entry of a ring at CPL.ADDR + 32 × CPL_TAIL (R392); one is in flight at a time. -/
def State.sendCpl (s : State) (n : Nat) : State :=
  match (s.ring n).cpls with
  | [] => s
  | c :: _ =>
    if s.link.gateClosed then s
    else
      let a := s.fld pgCMDQ (Reg.CMDQ_R_CPL_ADDR n) * 64 + 32 * s.fld pgCMDQ (Reg.CMDQ_R_IDX_CPL_TAIL n)
      let a := hostAddr (s.bit pgCMDQ (Reg.CMDQ_R_CFG_VIRT n)) (s.fld pgCMDQ (Reg.CMDQ_R_CFG_PASID n)) a
      s.issueHost .woWrInv a (c.bytes c.cmd c.count c.info c.beat (s.ring n).phase) (.completion n)

/-- Queue a completion; it is written at once when no other entry of the ring is in flight. -/
def State.pushCpl (s : State) (n : Nat) (c : Cpl) : State :=
  let r := s.ring n
  let s' := s.setRing n { r with cpls := r.cpls ++ [c] }
  if r.cpls.isEmpty then s'.sendCpl n else s'

/-- The oldest command of a ring, if it has the code (R64: ring order). -/
def State.oldest (s : State) (n code : Nat) : Option Cmd :=
  match (s.ring n).waiting with
  | c :: _ => if c.code = code && !c.bad then some c else none
  | [] => none

/-- Write the completion of the oldest command of a ring (R392). -/
def State.completeOne (s : State) (n result slot count info : Nat) : State :=
  let r := s.ring n
  match r.waiting with
  | [] => s
  | c :: rest =>
    (s.setRing n { r with waiting := rest, busy := false }).pushCpl n
      { tag := c.tag, cmd := c.code, code := result, slot := slot, count := count, info := info, beat := s.beat }

/-- Commands wait while the device is in the safe state or recovering (R64). -/
def State.holdsCommands (s : State) : Bool :=
  s.bit pgGLB Reg.GLB_STAT_SAFE && !s.bit pgGLB Reg.GLB_STAT_DOWN || s.bit pgGLB Reg.GLB_STAT_RECOVERING

/-- The plan manager serves the ring: enabled, nothing of it in progress, commands not held (R64, R74). -/
def State.serves (s : State) (n : Nat) : Bool :=
  s.enabled pgCMDQ && s.bit pgCMDQ (Reg.CMDQ_R_CFG_EN n) && !(s.ring n).busy && !s.holdsCommands

/-- Complete the invalid entries at the front of a ring with 37 BAD_COMMAND (R64, R75). The first argument bounds the
rounds. -/
def State.settleFrom : Nat → State → Nat → State
  | 0, s, _ => s
  | k + 1, s, n =>
    match (s.ring n).waiting with
    | c :: _ => if c.bad && s.serves n then (s.completeOne n 37 0 0 0).settleFrom k n else s
    | [] => s
def State.settleRing (s : State) (n : Nat) : State := s.settleFrom (s.ring n).waiting.length n

/-- Complete the oldest command of a ring; invalid entries behind it complete too. -/
def State.complete (s : State) (n result slot count info : Nat) : State :=
  (s.completeOne n result slot count info).settleRing n

/-! ## Plan slots -/

def State.setSlotState (s : State) (p st : Nat) : State := s.setFld pgPLAN (Reg.PLAN_P_STAT_STATE p) st
def State.setReason (s : State) (p r : Nat) : State := s.setFld pgPLAN (Reg.PLAN_P_STAT_REASON p) r
def State.running (s : State) (p : Nat) : Bool := s.slotState p == 3
/-- The slot may run threads: 3 RUNNING or 4 STOPPING, and the device is not in the safe state (R412). -/
def State.active (s : State) (p : Nat) : Bool :=
  (s.slotState p == 3 || s.slotState p == 4) && !s.bit pgGLB Reg.GLB_STAT_SAFE

/-- The slot that holds a tile. -/
def State.slotOfTile (s : State) (t : Nat) : Option Nat :=
  (List.range 16).find? fun p => s.slotState p != 0 && (s.slot p).alloc.tiles.contains t

/-! ## Streams -/

/-- A 32 B completion record (Table STRM-5). -/
def strmRecord (x : StrmSlot) (status cause : Nat) (peal : Bool) : List Byte :=
  leBytes 4 (status + cause * 2 ^ 8 + x.thread * 2 ^ 16 + (if peal then 2 ^ 19 else 0)) ++ leBytes 4 0 ++
    leBytes 8 (x.done % 2 ^ 48) ++ leBytes 4 (min x.flagged (2 ^ 32 - 1)) ++ leBytes 4 (min x.poison (2 ^ 32 - 1)) ++
    leBytes 8 (if status = 1 || status = 2 then x.faultAddr else 0)

/-- Write a descriptor's completion record at the issuing tile, and at every recipient of a peal (R96). -/
def State.writeRecord (s : State) (tile : Nat) (x : StrmSlot) (status cause : Nat) : State :=
  let s := s.tmWrite tile x.desc.cplOff (strmRecord x status cause false)
  if x.desc.peal = 0 then s
  else (x.rings.filter fun r => r.tile != tile).foldl
    (fun s r => s.tmWrite r.tile x.desc.cplOff (strmRecord x status cause true)) s

/-- Wake the threads that wait for a slot's completion record. -/
def Tile.wakeWaiters (t : Tile) (slot : Nat) : Tile :=
  (List.range 8).foldl (fun t k =>
    let x := t.thread k
    if x.wait = some (.strm slot) then t.setThread k { x with wait := none, run := .run } else t) t

/-- End a descriptor: its record is written; a read stays held until the pages taken are freed, and a write's slot
is free (R96, R166). -/
def State.endStrm (s : State) (tile k status cause : Nat) : State :=
  match (s.tile tile).slot k with
  | none => s
  | some x =>
    if x.complete then s
    else
      let s := s.writeRecord tile x status cause
      let open_ := !x.desc.write && x.rings.any fun r => r.freed < x.released
      let t := (s.tile tile).wakeWaiters k
      s.setTile tile (t.setSlot k (if open_ && status != 3
        then some { x with complete := true, st := .completing, restart := none } else none))

/-- End every descriptor of a tile as 3 ABANDONED (R106, R412). -/
def State.abandonTile (s : State) (tile : Nat) : State :=
  (List.range 8).foldl (fun s k => s.endStrm tile k 3 0) s

/-- The searches, probe answers and decoded rows of a plan that are under way are dropped. -/
def State.stopUnits (s : State) (p : Nat) : State :=
  let ts := (s.slot p).alloc.tiles
  { s with
    car := { s.car with searches := s.car.searches.filter fun q => q.slot != p }
    probeUnits := s.probeUnits.filter fun q => !ts.contains q.1
    decs := s.decs.map fun d =>
      if d.slot = p then { d with live := false, active := false, assistWait := false, held := [], carry := [] } else d
    augs := s.augs.filter fun a => a.slot != p }

/-- Stop the work of a plan at once: its threads leave their stage, its descriptors end as 3 ABANDONED, its diverted
items and its stage runs are dropped (R63, R106, R183). -/
def State.stopPlan (s : State) (p : Nat) : State :=
  let s := (s.slot p).alloc.tiles.foldl (fun s t =>
    let s := s.abandonTile t
    s.setTile t { s.tile t with running := none, threads := [], divert := [], taken := [], probes := [], partials := [], opDescs := [] })
    s
  let s := s.stopUnits p
  s.setSlot p { s.slot p with runs := [] }

/-- An admission that a fault interrupts: reservations released, the slot free, 36 INTERRUPTED (R58, R412). -/
def State.endAdmission (s : State) (code : Nat) : State :=
  match s.admission with
  | none => s
  | some a =>
    let s := { s with admission := none }.setSlot a.slot {}
    let s := (s.setSlotState a.slot 0).setReason a.slot code
    let s := (s.setFld pgPLAN Reg.PLAN_ADMIT_REASON code).setFld pgPLAN Reg.PLAN_ADMIT_SLOT a.slot
    s.complete a.ring code a.slot 0 0

/-! ## Errors and faults -/

/-- The severity that applies to a detected source: ERR_SEV at detection (R407); of a fenced unit at most 1 LOG
(R408); LAST_LINK always 3 FATAL (R386). -/
def State.severity (s : State) (page src : Nat) : Nat :=
  let sev := bitsOf (s.rd page 0x28).toNat (2 * src + 1) (2 * src)
  if page = pgDBG && src = Src.dbg_LAST_LINK then 3
  else if s.fenced page then min sev 1 else sev

/-- What the block itself records (R45): ERR_STAT; from 1 LOG up also ERR_FIRST and INT_STAT.ERR. -/
def State.logError (s : State) (page src sev : Nat) (forced : Bool) : State :=
  let s := s.wr page 0x20 (s.rd page 0x20 ||| word (2 ^ src))
  if sev = 0 then s
  else
    let s := if s.bit page Reg.ERR_FIRST_VALID then s
      else s.wr page 0x38 (word (src + (if forced then 2 ^ 5 else 0) + 2 ^ 7 + s.beat % 2 ^ 56 * 2 ^ 8))
    s.raise page 0

/-- Beats of a quiet period that begins now: GLB_FLT_QUIET.MS at 700,000 beats a millisecond (R51). -/
def State.quietBeats (s : State) : Nat := s.fld pgGLB Reg.GLB_FLT_QUIET_MS * 700000

/-- The device is not handling a fault: 0 NORMAL, or 4 DOWN. -/
def State.fltState (s : State) : Nat := s.fld pgDBG Reg.DBG_FLT_STATE

/-- GLB_STAT.DOWN: SAFE stays 1, FAULT_L low, INT_STAT.BLK bit 5 (R421). -/
def State.goDown (s : State) : State :=
  (((s.setBit pgGLB Reg.GLB_STAT_DOWN true).setBit pgGLB Reg.GLB_STAT_SAFE true).setBit pgGLB
    Reg.GLB_STAT_RECOVERING false).setFld pgDBG Reg.DBG_FLT_STATE 4 |>.raise pgGLB 5

/-- The stop broadcast (R412): tiles and their descriptors, diverted items, an admission in progress, and the plan
manager's stage starts and gong releases bound to its slots 16 to 31. The write gate closes and FAULT_L goes low. -/
def State.stopBroadcast (s : State) : State :=
  let s := (List.range 64).foldl (fun s t =>
    let s := if (s.tile t).strm.isEmpty then s else s.abandonTile t
    if (s.tile t).divert.isEmpty && (s.tile t).taken.isEmpty then s
    else s.setTile t { s.tile t with divert := [], taken := [] }) s
  let s := { s with link := { s.link with gateClosed := true }, pins := { s.pins with faultL := false } }
  let s := s.endAdmission 36
  (List.range 16).foldl (fun s p =>
    if (s.slot p).runs.isEmpty then s
    else s.setSlot p { s.slot p with runs := (s.slot p).runs.map fun r =>
      match r.st with
      | .releasing _ => { r with st := .running }
      | _ => r }) s

/-- Start of a quiet period, or its restart, which keeps the length (R415, R51). -/
def State.startQuiet (s : State) (restarts : Nat) : State :=
  let n := if restarts = 0 then s.quietBeats else s.flt.quiet
  let s := { s with flt := { s.flt with quiet := n } }
  ((s.setFld pgDBG Reg.DBG_FLT_STATE 1).setFld pgDBG Reg.DBG_FLT_RESTARTS restarts).setFld pgDBG
    Reg.DBG_QUIET_END_BEAT (s.beat + n)

/-- Safe-state entry (R410, R421): SAFE, the stop, the first signal in DBG_FLT; then a quiet period, or DOWN for a
FATAL fault or at the recovery limit. -/
def State.enterSafe (s : State) (page src sev arg : Nat) : State :=
  let s := s.setBit pgGLB Reg.GLB_STAT_SAFE true
  let s := s.stopBroadcast
  let s := ((s.setFld pgDBG Reg.DBG_FLT_SEV sev).setFld pgDBG Reg.DBG_FLT_FIRST_PAGE page).setFld pgDBG
    Reg.DBG_FLT_FIRST_SRC src
  let s := (s.setFld pgDBG Reg.DBG_FLT_BEAT_BEAT s.beat).setFld pgDBG Reg.DBG_FLT_MERGED_COUNT 0
  let sigs := if sev = 3 then [] else [(page, src, arg)]
  let s := { s with flt := { s.flt with signals := sigs, assist := s.assist pgGLB, complete := false } }
  if sev = 3 || s.fld pgGLB Reg.GLB_RECOV_IN_HOUR ≥ s.fld pgGLB Reg.GLB_RECOV_RECOV_LIMIT then
    ({ s with flt := { s.flt with fatal := if sev = 3 then page :: s.flt.fatal else s.flt.fatal } }).goDown
  else s.startQuiet 0

/-- The unit of a page that a TIME source names (R342, R345). -/
def unitOfPage (page : Nat) : List FUnit :=
  let n := instanceOf page
  match blockOf page with
  | some .tile => [.tile n]
  | some .quad => [.quad n]
  | some .dec => [.dec n]
  | some .cmp => [.cmp n]
  | some .bell => [.bell n]
  | some .stw => [.stw n]
  | some .hmc | some .hphy => [.stack n]
  | some .ulnk => [.link n]
  | _ => []

/-- Participants missing at a GONG_TIMEOUT (R68): tiles in bits 63 to 0, steward cores above. -/
def missingUnits (m : Nat) : List FUnit :=
  (((List.range 64).filter fun t => m / 2 ^ t % 2 = 1).map .tile) ++
    ((List.range 16).filter fun n => m / 2 ^ (64 + n) % 2 = 1).map .stw

/-- The Carillon: its page, search ports and bells. -/
def carillonUnits : List FUnit :=
  .page 0x0C0 :: ((List.range 4).map .port ++ (List.range 32).map .bell)

/-- The units of a power domain (R463). -/
def domainUnits (d : Nat) : List FUnit :=
  if d < 16 then [.quad d] else if d = 16 then (List.range 16).map .stw else if d = 17 then carillonUnits
  else [.half (d % 2)]

/-- The units a source names for the fence set (Table FLT-3). `arg` names the port, bell, channel, half, module, quad,
domain, page or participants where the recording page alone does not; for AUX_UNLOCK 0 to 3 is a stack and 4 to 6 a
link. -/
def unitsOf (page src arg : Nat) : List FUnit :=
  let n := instanceOf page
  match blockOf page with
  | some .tile => [.tile n]
  | some .quad => [.quad n]
  | some .dec => [.dec n]
  | some .cmp => [.cmp n]
  | some .car => if src = Src.car_PORT_UNCORR then [.port (arg % 4)]
      else if src = Src.car_SHADOW_WRITE_ERR then [.bell (arg % 32)] else carillonUnits
  | some .bell => [.bell n]
  | some .stw => [.stw n]
  | some .hmc => if src = Src.hmc_CH_CE_LIMIT || src = Src.hmc_CH_UE_LIMIT then [.channel (32 * n + arg % 32)]
      else [.stack n]
  | some .hphy => [.stack n]
  | some .stor => if src = Src.stor_BANK_FAULT || src = Src.stor_BIST_FAIL then [.half (arg % 2)] else [.page page]
  | some .ulnk => if src = Src.ulnk_RETRY_LIMIT then [.module (4 * n + arg % 4)]
      else if src = Src.ulnk_CACHE_UNCORR then [.page page] else [.link n]
  | some .noc => if src = Src.noc_LINK_UNCORR then [.quad (arg % 16)] else [.page page]
  | some .time => if src = Src.time_BEAT_MISMATCH || src = Src.time_CUE_NET_ERR then unitOfPage arg else [.page page]
  | some .plan => if src = Src.plan_GONG_TIMEOUT then missingUnits arg else [.page page]
  | some .clk => if src = Src.clk_AUX_UNLOCK then (if arg < 4 then [.stack arg] else [.link ((arg - 4) % 3)])
      else [.page page]
  | some .pwr => if src = Src.pwr_SWITCH_FAIL then domainUnits arg else [.page page]
  | some _ => [.page page]
  | none => []

/-- A set of units covers a unit: it holds it, or the quad of a tile, decompressor or compressor, the stack of a
channel, the link of a module. -/
def covers (us : List FUnit) (u : FUnit) : Bool :=
  us.contains u || match u with
    | .tile t => us.contains (.quad (t / 4))
    | .dec d => us.contains (.quad (d / 2))
    | .cmp c => us.contains (.quad c)
    | .channel c => us.contains (.stack (c / 32))
    | .module m => us.contains (.link (m / 4))
    | _ => false

/-- The units named by the signals of the fault being handled. -/
def Flt.units (f : Flt) : List FUnit := f.signals.flatMap fun p => unitsOf p.1 p.2.1 p.2.2

/-- Merging (R414, R415): the fault's severity rises, a unit not yet in the set joins it and restarts the quiet period
at most three times; after the quiet period a DEGRADE error starts a fresh one; a FATAL error takes the device down. -/
def State.merge (s : State) (page src sev arg : Nat) : State :=
  let s := (s.addSat pgDBG Reg.DBG_FLT_MERGED_COUNT 1).addSat page Reg.ERR_MERGED_COUNT 1
  if sev < 2 then s
  else
    let old := s.flt.units
    let newUnit := (unitsOf page src arg).any fun u => !covers old u
    let rises := s.fld pgDBG Reg.DBG_FLT_SEV < sev
    let s := s.setFld pgDBG Reg.DBG_FLT_SEV (max (s.fld pgDBG Reg.DBG_FLT_SEV) sev)
    let sigs := if sev = 3 then s.flt.signals else s.flt.signals ++ [(page, src, arg)]
    let s := { s with flt := { s.flt with signals := sigs } }
    if sev = 3 then { s with flt := { s.flt with fatal := page :: s.flt.fatal } }.goDown
    else if s.fltState = 1 then
      let k := s.fld pgDBG Reg.DBG_FLT_RESTARTS
      if (newUnit || rises) && k < 3 then
        let s := s.startQuiet (k + 1)
        if k = 2 then s.logError pgDBG Src.dbg_QUIET_RESTART_MAX (s.severity pgDBG Src.dbg_QUIET_RESTART_MAX) false
        else s
      else s
    else s.startQuiet 0

/-- A detected error (R45, R406, R407): the record, and from 2 DEGRADE up the signal to the sequencer; an error while a
fault is being handled is merged into it. `arg` names the failed part where the page alone does not. -/
def State.recordError (s : State) (page src : Nat) (forced : Bool) (arg : Nat) : State :=
  let sev := s.severity page src
  let s := s.logError page src sev forced
  if s.fltState = 0 then (if sev ≥ 2 then s.enterSafe page src sev arg else s)
  else if s.fltState = 4 then
    (if sev = 3 then { s with flt := { s.flt with fatal := page :: s.flt.fatal } }
     else if sev = 2 then { s with flt := { s.flt with signals := s.flt.signals ++ [(page, src, arg)] } } else s)
  else s.merge page src sev arg

/-- A detection without a part to name. -/
def State.error (s : State) (page src : Nat) : State := s.recordError page src false 0

/-- A request that reaches a block with ENABLE = 0 (R42). -/
def State.disabledReq (s : State) (page : Nat) : State := s.error page Src.DISABLED_REQ

/-- An access to a hole: NOC records it (R25, R373). -/
def State.hole (s : State) (addr page : Nat) : State :=
  (((s.setFld pgNOC Reg.NOC_HOLE_ADDR addr).setFld pgNOC Reg.NOC_HOLE_PAGE page).addSat pgNOC Reg.NOC_STAT_HOLES 1).error
    pgNOC Src.noc_ADDR_HOLE

/-- The plan goes to 7 FAILED with a reason (R61, R62). -/
def State.failPlan (s : State) (p reason : Nat) : State := (s.setSlotState p 7).setReason p reason

/-- A unit asked for more than its plan claimed (R61). -/
def State.claimOverrun (s : State) (p : Nat) : State :=
  (s.failPlan p 38).error pgPLAN Src.plan_CLAIM_OVERRUN

end Sys2Proof.Machine
end

