-- ==== Sys2Proof/Machine/Threads.lean ====
section
/-!
DEFINITION. What every instruction of a tile thread shares: registers (R149), issue (R146), the program counter
(R161), tile-memory access (R151, R152), faults of a thread (R152, R164).
-/

namespace Sys2Proof.Machine

/-- The image of a plan slot. -/
def State.image (s : State) (p : Nat) : Image := (s.slot p).image

/-- Scalar, vector and mask registers; s0 reads 0 and m0 all ones, and both ignore writes (Table TILE-1). -/
def Thread.sreg (x : Thread) (k : Nat) : Word := if k = 0 then 0 else kget (fun _ => 0) x.s k
def Thread.vreg (x : Thread) (k : Nat) : VReg := kget (fun _ => 0) x.v k
def Thread.mreg (x : Thread) (k : Nat) : MReg := if k = 0 then BitVec.allOnes 512 else kget (fun _ => 0) x.m k
def Thread.setS (x : Thread) (k : Nat) (v : Word) : Thread :=
  if k = 0 then x else { x with s := kset (fun _ => 0) x.s k v }
def Thread.setV (x : Thread) (k : Nat) (v : VReg) : Thread := { x with v := kset (fun _ => 0) x.v k v }
def Thread.setM (x : Thread) (k : Nat) (v : MReg) : Thread :=
  if k = 0 then x else { x with m := kset (fun _ => 0) x.m k v }
/-- Join sticky flags (R156). -/
def Thread.orFlags (x : Thread) (fl : Nat) : Thread := { x with flags := x.flags ||| BitVec.ofNat 6 fl }
/-- Registers as numbers, and writing a number. -/
def Thread.sN (x : Thread) (k : Nat) : Nat := (x.sreg k).toNat
def Thread.vN (x : Thread) (k : Nat) : Nat := (x.vreg k).toNat
def Thread.mN (x : Thread) (k : Nat) : Nat := (x.mreg k).toNat
def Thread.putS (x : Thread) (k v : Nat) : Thread := x.setS k (word v)
def Thread.putV (x : Thread) (k v : Nat) : Thread := x.setV k (BitVec.ofNat 2048 v)
/-- Write a vector result and its flags. -/
def Thread.putVF (x : Thread) (k : Nat) (r : Nat × Nat) : Thread := (x.putV k r.1).orFlags r.2
def Thread.putSF (x : Thread) (k : Nat) (r : Nat × Nat) : Thread := (x.putS k r.1).orFlags r.2
/-- The next word's program counter; a PC holds 14 bits (R184). -/
def Thread.next (x : Thread) : Thread := { x with pc := (x.pc + 1) % 2 ^ 14 }
/-- A relative program counter (R161). -/
def Thread.jump (x : Thread) (off : Int) : Thread := { x with pc := (((x.pc : Int) + off) % 2 ^ 14).toNat }

/-- TILE_CFG.FTZ, the active value (R156). -/
def State.ftz (s : State) (tile : Nat) : Bool := s.bit (pgTILE tile) Reg.TILE_CFG_FTZ

/-- Plan slot, stage and chunk that run on a tile. -/
def State.runOf (s : State) (tile : Nat) : Option (Nat × Nat × Nat) := (s.tile tile).running

/-- A thread can issue: it runs, waits for nothing, its stage's plan is active, its tile is powered and unfenced and
its quad's clock runs (R146, R412, R468). -/
def State.canIssue (s : State) (tile th : Nat) : Bool :=
  let x := s.thread tile th
  match s.runOf tile with
  | some (p, _, _) =>
    x.run == .run && x.wait.isNone && s.active p && s.powered (pgTILE tile) && !s.fenced (pgTILE tile)
      && bitsOf (s.fld pgCLK Reg.CLK_GATE_GATED) (tile / 4) (tile / 4) == 0
  | none => false

/-- Issue of an instruction that changes its own thread alone (R146): nothing happens while the thread cannot issue;
otherwise the thread's registers change and the program counter moves on. -/
def State.issue (s : State) (tile th : Nat) (f : Thread → Thread) : State :=
  if s.canIssue tile th then
    (s.setThread tile th (f (s.thread tile th)).next).perf (pgTILE tile) 0x110 1
  else s

/-- Issue of an instruction with an effect beyond its thread; `f` moves the program counter itself. -/
def State.issueWith (s : State) (tile th : Nat) (f : State → Nat → Thread → State) : State :=
  match s.runOf tile with
  | some (p, _, _) =>
    if s.canIssue tile th then (f s p (s.thread tile th)).perf (pgTILE tile) 0x110 1 else s
  | none => s

/-- The fault record of a tile (TILE_FAULT, R184). -/
def State.tileFault (s : State) (tile th pc cause off : Nat) : State :=
  (((s.setFld (pgTILE tile) Reg.TILE_FAULT_THREAD th).setFld (pgTILE tile) Reg.TILE_FAULT_PC pc).setFld
    (pgTILE tile) Reg.TILE_FAULT_CAUSE cause).setFld (pgTILE tile) Reg.TILE_FAULT_OFFSET off

/-- A code fault: the thread stops, CODE_FAULT, the plan fails with 11 CODE_INVALID (R164). -/
def State.codeFault (s : State) (tile th p cause : Nat) : State :=
  let x := s.thread tile th
  let s := s.setThread tile th { x with run := .faulted }
  ((s.tileFault tile th x.pc cause 0).failPlan p 11).error (pgTILE tile) Src.tile_CODE_FAULT

/-- An access beyond the plan's TILE_MEM claim: the thread stops, TM_RANGE, CLAIM_OVERRUN (R152). -/
def State.tmRange (s : State) (tile th p off : Nat) : State :=
  let x := s.thread tile th
  let s := s.setThread tile th { x with run := .faulted }
  ((s.tileFault tile th x.pc 5 off).error (pgTILE tile) Src.tile_TM_RANGE).claimOverrun p

/-- The plan's TILE_MEM claim in each tile. -/
def State.tmBytes (s : State) (p : Nat) : Nat := (s.slot p).alloc.tmBytes

/-- An access lies within the claim (R152). -/
def State.tmOk (s : State) (p off n : Nat) : Bool := off + n ≤ s.tmBytes p

/-- The 64-bit words that an access touches. -/
def wordsOf (off n : Nat) : List Nat := (List.range ((off % 8 + n + 7) / 8)).map fun i => off / 8 + i

/-- What SECDED reports on a tile-memory read counts in TILE_TM_ECC (R151, R185). -/
def State.tmEcc (s : State) (tile : Nat) (touched : List Nat) (e : TmEcc) : State :=
  let pg := pgTILE tile
  let s := (e.corrected.filter touched.contains).foldl (fun s w =>
    (((s.addSat pg Reg.TILE_TM_ECC_CORRECTED 1).setFld pg Reg.TILE_TM_ECC_LAST_ADDR (8 * w)).setBit pg
      Reg.TILE_TM_ECC_LAST_UNCORR false).error pg Src.tile_TM_CORR) s
  (e.uncorr.filter touched.contains).foldl (fun s w =>
    ((s.setFld pg Reg.TILE_TM_ECC_LAST_ADDR (8 * w)).setBit pg Reg.TILE_TM_ECC_LAST_UNCORR true).error pg
      Src.tile_TM_UNCORR) s

/-- The bytes of a read, an uncorrectable word reading as 0 (R151). -/
def State.tmBytesAt (s : State) (tile off n : Nat) (e : TmEcc) : List Byte :=
  (List.range n).map fun i =>
    if e.uncorr.contains ((off + i) / 8) then 0 else cell s.mem.tile (tmKey tile (off + i))

/-- Sign of an immediate. -/
def immI {w : Nat} (b : BitVec w) : Int := b.toInt

/-- s[A] + an offset, modulo 2^64. -/
def addrOf (base : Nat) (off : Int) : Nat := (((base : Int) + off) % 2 ^ 64).toNat

end Sys2Proof.Machine
end

