-- ==== Sys2Proof/Machine/Desc.lean ====
section
/-!
DEFINITION. Stream descriptors: their layout (R76), their checks (R79 to R83, R297), element addresses (R77, R89), and
the conversions of the store path (R295 to R298).
-/

namespace Sys2Proof.Machine

def bytesAt (bs : List Byte) (off n : Nat) : Nat := leNat (slice bs off n)

/-- The descriptor that 128 bytes hold (Table STRM-1). -/
def parseDesc (b : List Byte) : Desc :=
  let w := bytesAt b 8 8
  let f := fun hi lo => bitsOf w hi lo
  { base := bytesAt b 0 8
    space := f 1 0, write := f 2 2 == 1, indexed := f 3 3 == 1, ndim := f 6 4, subbyte := f 7 7 == 1, elem := f 15 8
    combine := f 18 16, ctype := f 23 20, conv := f 31 24, pasid := f 51 32, idx64 := f 52 52 == 1
    idxPolicy := f 54 53, idxSpace := f 56 55, onError := f 57 57 == 1
    counts := (List.range 5).map fun d => bytesAt b (0x10 + 4 * d) 4
    strides := (List.range 5).map fun d => toS 48 (bytesAt b (0x28 + 8 * d) 6)
    ownTable := bitsOf (bytesAt b 0x24 4) 6 0, ownEn := bitsOf (bytesAt b 0x24 4) 7 7 == 1
    idxBase := bytesAt b 0x50 8, idxLimit := bytesAt b 0x58 6, fill := bytesAt b 0x60 8, peal := bytesAt b 0x68 8
    tmBase := bytesAt b 0x70 3 % 2 ^ 23, tmPages := bytesAt b 0x74 2 % 2 ^ 12, cplOff := bytesAt b 0x78 3 % 2 ^ 23
    resv := f 19 19 + f 63 58 + bitsOf (bytesAt b 0x24 4) 31 8 + ((List.range 5).map fun d =>
        bytesAt b (0x2E + 8 * d) 2).sum + bytesAt b 0x5E 2 + bitsOf (bytesAt b 0x70 4) 31 23 +
        bitsOf (bytesAt b 0x70 4) 11 0 + bitsOf (bytesAt b 0x74 4) 31 12 + bitsOf (bytesAt b 0x78 4) 31 23 +
        bitsOf (bytesAt b 0x78 4) 4 0 + bytesAt b 0x7C 4 }

namespace Desc

def convCode (d : Desc) : Nat := d.conv % 128
def sat (d : Desc) : Nat := d.conv / 128
/-- Codes 16 to 21 of Table BATQ-1: MX rows. -/
def mx (d : Desc) : Bool := 16 ≤ d.convCode && d.convCode ≤ 21

/-- Element types of a conversion: tile side, memory side (Table BATQ-1). -/
def convTypes (d : Desc) : Option (Nat × Nat) :=
  match d.convCode with
  | 1 => some (10, 8)
  | 2 => some (10, 9)
  | 3 => some (10, 12)
  | 4 => some (10, 13)
  | 5 => some (11, 10)
  | 6 => some (2, 1)
  | 7 => some (2, 0)
  | 8 => some (2, 4)
  | 9 => some (2, 14)
  | 10 => some (3, 2)
  | _ => none

/-- A row of dimension 0 counts as one element (R79, R297). -/
def rowed (d : Desc) : Bool := d.subbyte || d.convCode == 9 || d.mx

def rawCount (d : Desc) (k : Nat) : Nat := d.counts.getD k 0
/-- Count of a dimension as the engine treats it (R77). -/
def count (d : Desc) (k : Nat) : Nat := if k ≥ d.ndim || (k = 0 && d.rowed) then 1 else d.rawCount k
def stride (d : Desc) (k : Nat) : Int := d.strides.getD k 0
/-- Elements of the transfer; 0 with any used count 0 (R80). -/
def total (d : Desc) : Nat :=
  if (List.range d.ndim).any (fun k => d.rawCount k == 0) then 0
  else (List.range 5).foldl (fun n k => n * d.count k) 1

/-- Bytes of one element at the memory side and at the tile side (R78, R79, R297, R298). -/
def memSize (d : Desc) : Nat :=
  if d.mx then d.rawCount 0 * mxBits (d.convCode - 16) / 8 + d.rawCount 0 / 32
  else if d.convCode = 9 then d.rawCount 0 / 2
  else if d.subbyte then d.rawCount 0 * d.elem / 8
  else match d.convTypes with
    | some (_, m) => tyWidth m / 8
    | none => d.elem
def tmSize (d : Desc) : Nat :=
  if d.mx || d.convCode = 9 then d.rawCount 0 * 4 else if d.subbyte then d.rawCount 0 * d.elem / 8 else d.elem

/-- Pages of the ring that the transfer fills, and the ring's bytes. -/
def pages (d : Desc) : Nat := (d.total * d.tmSize + 4095) / 4096
def ringBytes (d : Desc) : Nat := d.tmPages * 4096

/-- Dimension counters of the n-th element, dimension 0 fastest (R77). -/
def coord (d : Desc) (n k : Nat) : Nat :=
  n / ((List.range k).foldl (fun m j => m * d.count j) 1) % d.count k

/-- Number of the index that drives element n (R89), and the bytes of its row. -/
def indexNo (d : Desc) (n : Nat) : Nat := n / d.count 0
def rowElems (d : Desc) : Nat := d.count 0
def indexAddr (d : Desc) (n : Nat) : Nat := d.idxBase + d.indexNo n * (if d.idx64 then 8 else 4)

/-- Address of element n, dimension 1 driven by v when indexed (R77, R89), modulo 2^64. -/
def addr (d : Desc) (n : Nat) (v : Int) : Nat :=
  let off := (List.range 5).foldl (fun (s : Int) k =>
    s + (if k = 1 && d.indexed then v else (d.coord n k : Int)) * (if k = 0 && d.rowed then 0 else d.stride k)) 0
  addrOf d.base off

/-- What an index selects (R90): a row, a row of zeros, or a row of FILL_VALUE; and whether it is flagged. -/
inductive Pick where
  | row (v : Int)
  | zeros
  | fill
  deriving DecidableEq, Repr

def pick (d : Desc) (v : Int) : Pick × Bool :=
  let lim : Int := d.idxLimit
  let inside := fun (x : Int) => decide (0 ≤ x) && decide (x < lim)
  if inside v then (.row v, false)
  else match d.idxPolicy with
    | 1 => if v < 0 && inside (v + lim) then (.row (v + lim), false) else (.zeros, true)
    | 2 => (.row (if v < 0 then 0 else lim - 1), false)
    | 3 => (if d.write then .zeros else .fill, true)
    | _ => (.zeros, true)

/-- Lower and upper extent of a dimension (R82). -/
def extent (d : Desc) (k : Nat) : Int × Int :=
  let n : Int := if k = 1 && d.indexed then d.idxLimit else d.count k
  let s := if k = 0 && d.rowed then 0 else d.stride k
  (min 0 ((n - 1) * s), max 0 ((n - 1) * s))

/-- Lowest and highest byte that the descriptor can touch. -/
def span (d : Desc) : Int × Int :=
  let es := (List.range 5).map d.extent
  (es.foldl (fun s e => s + e.1) (d.base : Int), es.foldl (fun s e => s + e.2) (d.base : Int) + d.memSize - 1)

/-- The write pattern passes the overlap test (R83). -/
def disjoint (d : Desc) : Bool :=
  let ds := ((List.range 5).filter fun k => d.count k ≥ 2).map fun k => (d.stride k).natAbs * 8 + k
  let sorted := (ds.mergeSort (fun a b => decide (a ≤ b))).map fun x => (x / 8, d.count (x % 8))
  (sorted.foldl (fun (p : Bool × Nat) q => (p.1 && p.2 ≤ q.1, q.1 * (q.2 - 1) + p.2)) (true, d.memSize)).1

/-- Widths of the CTYPE lanes (Table STRM-1): bytes. -/
def ctypeBytes (d : Desc) : Nat := tyWidth d.ctype / 8

/-- Field checks that give cause 6 DESC_INVALID, apart from those on the plan's claims (R79 to R83, R297). -/
def fieldsOk (d : Desc) : Bool :=
  let conv := d.convCode
  d.resv == 0 && d.space != 3 && (!d.indexed || d.idxSpace != 3) && 1 ≤ d.ndim && d.ndim ≤ 5
    && (if d.subbyte then d.elem == 1 || d.elem == 2 || d.elem == 4 else 1 ≤ d.elem && d.elem ≤ 64)
    && d.ctype ≤ 11 && (!d.indexed || 1 ≤ d.idxLimit) && 1 ≤ d.tmPages && d.tmPages ≤ 2048
    && (List.range 5).all (fun k => k < d.ndim || (d.rawCount k == 0 && d.stride k == 0))
    && (!d.subbyte || (d.stride 0 == 0 && d.rawCount 0 * d.elem % 8 == 0))
    && (!d.indexed || 2 ≤ d.ndim)
    && !(d.combine != 0 && !d.write) && d.combine ≤ 5
    && !(1 ≤ d.combine && d.combine ≤ 3 && d.memSize % d.ctypeBytes != 0)
    && d.total ≤ 2 ^ 48 - 1
    && (!(d.write && d.combine == 0 && !d.indexed) || d.disjoint)
    && !(d.peal != 0 && d.write) && !(d.ownEn && !d.write)
    && (conv ≤ 10 || d.mx)
    && (conv == 0 || (!d.subbyte && d.elem == (if conv = 5 || conv = 10 then 8 else 4)))
    && !(d.sat == 1 && (!d.write || conv == 0))
    && (!(d.convCode == 9 || d.mx) || (d.stride 0 == 0 && d.rawCount 0 % (if d.mx then 32 else 2) == 0))
    && !(d.combine != 0 && (conv == 3 || conv == 4 || conv == 9 || d.mx
         || (match d.convTypes with | some (_, m) => m != d.ctype | none => false)))

/-- One tile-side row or element from memory-side bytes (R296): widening, or unpacking of MX blocks. -/
def toTile (d : Desc) (b : List Byte) : List Byte :=
  if d.mx then
    let c := d.convCode - 16
    let w := mxBits c
    let n := d.rawCount 0
    let x := leNat b
    (List.range n).flatMap fun j =>
      leBytes 4 (mxUnpackElem c (bytesAt b (n * w / 8 + j / 32) 1) (x / 2 ^ (w * j) % 2 ^ w)).1
  else match d.convTypes with
    | some (t, m) =>
      let n := if d.convCode = 9 then d.rawCount 0 else 1
      let x := leNat b
      (List.range n).flatMap fun j => leBytes (tyWidth t / 8) (vcvtElem m t 0 false (Machine.elem x (tyWidth m) j)).1
    | none => b

/-- Memory-side bytes of one tile-side row or element (R296). -/
def toMem (d : Desc) (b : List Byte) : List Byte :=
  if d.mx then
    let c := d.convCode - 16
    let w := mxBits c
    let n := d.rawCount 0
    let x := fun j => bytesAt b (4 * j) 4
    let sc := fun k => mxScale c ((List.range 32).map fun j => x (32 * k + j))
    leBytes (n * w / 8) (pack w n fun j => (mxPackElem c (d.sat == 1) (sc (j / 32)) (x j)).1) ++
      (List.range (n / 32)).map fun k => byte (sc k)
  else match d.convTypes with
    | some (t, m) =>
      let n := if d.convCode = 9 then d.rawCount 0 else 1
      leBytes d.memSize (pack (tyWidth m) n fun j =>
        (vcvtElem t m d.sat false (bytesAt b (tyWidth t / 8 * j) (tyWidth t / 8))).1)
    | none => b

/-- FILL_VALUE repeated over an element (Table STRM-4). -/
def fillBytes (d : Desc) : List Byte := (List.range d.memSize).map fun i => byte (d.fill / 256 ^ (i % 8))

/-- A combine of codes 1 to 4 over an element's bytes (R86): the destination's bytes, the element's. -/
def combineBytes (d : Desc) (old new : List Byte) : List Byte :=
  if d.combine = 4 then List.zipWith (· ||| ·) old new
  else
    let w := d.ctypeBytes
    (List.range (old.length / w)).flatMap fun j =>
      let a := bytesAt old (w * j) w
      let b := bytesAt new (w * j) w
      leBytes w (varithElem (if d.combine = 1 then 0 else d.combine + 1) d.ctype false a b).1

end Desc

end Sys2Proof.Machine
end

