-- ==== Sys2Proof/Machine/Regen.lean ====
section
/-!
DEFINITION. Restarting a plan's chunks: the events and posts of the restarted chunks (R337), regeneration and its
limit (R317, R318).
-/

namespace Sys2Proof.Machine

/-- Batch queues in use, with their device numbers. -/
def State.queueList (s : State) : List (Nat × Queue) := s.queues.filterMap fun p => p.2.map fun q => (p.1, q)
def State.queue (s : State) (n : Nat) : Option Queue := kget (fun _ => none) s.queues n
def State.setQueue (s : State) (n : Nat) (q : Option Queue) : State :=
  { s with queues := kset (fun _ => none) s.queues n q }
/-- The batch queues of a plan slot. -/
def State.queuesOf (s : State) (p : Nat) : List (Nat × Queue) := s.queueList.filter fun q => q.2.slot == p

/-- A chunk holds a row of an uncommitted batch. -/
def State.chunkOpen (s : State) (p k : Nat) : Bool :=
  (s.queuesOf p).any fun q => q.2.batches.any fun b => b.chunk ≤ k && k ≤ b.last

/-- The oldest chunk that is in progress or whose batches are not all committed (R63, R317). -/
def State.oldestChunk (s : State) (p : Nat) : Nat :=
  ((s.slot p).chunks.map ChunkRec.k).foldl min (s.slot p).next

/-- Forget chunks that are done and hold no row of an uncommitted batch. -/
def State.dropChunks (s : State) (p : Nat) : State :=
  let out := fun (k : Nat) => (s.queuesOf p).any fun q => q.2.commitOut.any fun b => b.chunk ≤ k && k ≤ b.last
  s.setSlot p { s.slot p with chunks := (s.slot p).chunks.filter fun c => !c.done || s.chunkOpen p c.k || out c.k }

/-- Events of chunks k0 and later that were delivered or done return to waiting, marked REDELIVERED; the counts of
posts and delays of those chunks become those of the first run (R337). -/
def Fsch.rewind (f : Fsch) (p k0 : Nat) : Fsch :=
  { f with
    pool := f.pool.map fun e =>
      if e.slot = p && k0 ≤ e.chunk && e.st != .waiting && e.st != .aligned
      then { e with st := .waiting, ev := { e.ev with redelivered := true } } else e
    posts := f.posts.map fun c =>
      if c.slot = p && k0 ≤ c.chunk then { c with first := max c.first c.now, now := 0 } else c }

/-- Abandon the chunks in progress of a plan, so that it starts again at its oldest open chunk (R63, R317, R337). -/
def State.rewind (s : State) (p : Nat) : State :=
  let s := s.stopPlan p
  let k0 := s.oldestChunk p
  let x := s.slot p
  let s := s.setSlot p { x with
    chunks := x.chunks.map fun c => if k0 ≤ c.k then { c with regen := true, done := false, cadence := 0 } else c
    next := k0
    cadChunk := k0
    cued := []
    stageDone := x.stageDone.map fun q => (q.1, min q.2 k0) }
  { s with fsch := s.fsch.rewind p k0 }

/-- A batch that is drawn again: its number, its lineage and its table version stay (R63, R293). -/
def Batch.restart (b : Batch) : Batch :=
  { b with phase := 0, unacked := 0, closed := false, concealed := [], late := [], lateBeat := false, reopen := true
           writers := [], zeroDue := false }

/-- A batch that is produced again (R317). -/
def Batch.again (b : Batch) : Batch := { b.restart with regenerated := true, regens := b.regens + 1 }

/-- Answers to the writes of a queue's uncommitted batches no longer count for them. -/
def State.orphanWrites (s : State) (n : Nat) : State :=
  let f := fun (r : HostReq) => match r.src with
    | .batchSlot q _ => if q = n then { r with src := .unit pgBATQ } else r
    | _ => r
  { s with link := { s.link with reqs := s.link.reqs.map f, held := s.link.held.map f } }

/-- Every uncommitted batch of a plan is drawn again when its chunks restart. -/
def State.restartBatches (s : State) (p : Nat) : State :=
  (s.queuesOf p).foldl (fun (s : State) (q : Nat × Queue) =>
    (s.orphanWrites q.1).setQueue q.1 (some { q.2 with batches := q.2.batches.map Batch.restart })) s

/-- Regeneration (R317): the plan's chunks restart, every batch with a reorder entry is produced again; a batch that
was regenerated REGEN_LIMIT times already fails the plan (R318). A plan that is READY produces them again after
PLAN_START, one that is DONE runs again (log 141). -/
def State.regenerate (s : State) (p : Nat) : State :=
  let st := s.slotState p
  if st < 2 || st = 7 || (st = 5 && (s.queuesOf p).all fun q => q.2.batches.isEmpty) then s
  else
    let s := if st = 5 then s.setSlotState p 3 else s
    let s := s.rewind p
    let lim := s.fld pgBATQ Reg.BATQ_CFG_REGEN_LIMIT
    if (s.queuesOf p).any fun q => q.2.batches.any fun b => b.regens ≥ lim then
      (s.failPlan p 46).error pgBATQ Src.batq_REGEN_LIMIT
    else
      (s.queuesOf p).foldl (fun (s : State) (q : Nat × Queue) =>
        if q.2.batches.isEmpty then s
        else (((s.orphanWrites q.1).setQueue q.1 (some { q.2 with batches := q.2.batches.map Batch.again })).addWrap pgBATQ
          (Reg.BATQ_Q_STAT_REGENERATED q.1) q.2.batches.length).error pgBATQ Src.batq_REGEN) s

/-- A thread's read of tile memory (R151): with TM_UNCORR at 1 LOG the plan's chunks are regenerated (R317, R407). -/
def State.tmEccRead (s : State) (tile : Nat) (touched : List Nat) (e : TmEcc) : State :=
  let sev := s.severity (pgTILE tile) Src.tile_TM_UNCORR
  let p := s.slotOfTile tile
  let s := s.tmEcc tile touched e
  match p with
  | some p => if sev = 1 && e.uncorr.any touched.contains then s.regenerate p else s
  | none => s

/-- The stage that declares a table of a plan's lifetime is to run again (R201), once it has run. -/
def State.rebuildStage (s : State) (p stage : Nat) : State :=
  let x := s.slot p
  if kget (fun _ => 0) x.stageDone stage = 0 || x.rebuild.contains stage then s
  else s.setSlot p { x with rebuild := stage :: x.rebuild }

end Sys2Proof.Machine
end

