-- ==== Sys2Proof/Machine/Code.lean ====
section
/-!
DEFINITION. Which code words are valid (R162, R163, R261): the fields that each row of Table TILE-6 admits, and the
check of a whole code section.
-/

namespace Sys2Proof.Machine

/-- Two lists share a register (R253, R261). -/
def listsOverlap (x y : Nat) : Bool := x < y + 4 && y < x + 4
/-- A list operand: an even register 0 to 28 (R253). -/
def listReg (x : Nat) : Bool := x % 2 == 0 && x ≤ 28

/-- Format V: the values that a row admits. -/
def okV (op var mask ty b a d : Nat) : Bool :=
  match op with
  | 0x01 => ty ≤ 13 && (var != 7 || ty ≤ 7)
  | 0x02 => if var ≤ 2 then 8 ≤ ty && ty ≤ 11
            else if var = 3 then ty == 1 || ty == 5 || ty == 8 || ty == 9
            else var == 4 && (ty == 0 || ty == 4 || ty == 12 || ty == 13)
  | 0x03 => ty ≤ 7 || 14 ≤ ty
  | 0x04 => ty ≤ 13 && b == 0 && (var != 4 || (8 ≤ ty && ty ≤ 11))
  | 0x05 => var ≤ 4 && 8 ≤ ty && ty ≤ 10 && (b == 0 || var == 4)
  | 0x06 => var ≤ 5 && ty ≤ 13 && 1 ≤ d && d ≤ 7
  | 0x07 => var == 0 && ty ≤ 13
  | 0x08 =>
    let w := tyWidth ty
    let v := tyWidth b
    let ratio := max w v / min w v
    b ≤ 15 && var ≤ 3 && ratio ≤ 8 && mask < ratio
  | 0x09 => ty == 10 && b ≤ 5 && var ≤ 3
  | 0x0A => ty == 0 && var ≤ 5 && (b == 0 || (var != 2 && var != 5))
  | 0x0B => b == 0 && (if var ≤ 2 then ty ≤ 13 else if var = 3 then (ty == 10 || ty == 11) && mask == 0
                       else var == 4 && a == 0 && ty == 0)
  | 0x0C => ty ≤ 13 && (match var with
      | 0 => true
      | 1 | 2 | 3 | 4 => b == 0
      | 5 => true
      | _ => false)
  | 0x0D => mask == 0 && ty ≤ 13 && listReg a && listReg d && (match var with
      | 0 => b == 0
      | 1 => listReg b && !listsOverlap b a && !listsOverlap b d
      | 2 => b == 0 && !listsOverlap a d
      | _ => false)
  | 0x0E => var ≤ 5 && (ty ≤ 13 || (ty == 15 && var ≤ 3))
  | 0x0F => var ≤ 1 && ty ≤ 13
  | 0x10 => var ≤ 2 && 8 ≤ ty && ty ≤ 11 && (var == 2 || (1 ≤ b && b ≤ 30))
  | 0x16 | 0x17 => var == 0 && ty ≤ 13
  | 0x20 => var == 0 && mask == 0
  | 0x40 => var ≤ 2
  | 0x41 => var ≤ 2
  | 0x42 => if var = 0 || var = 5 then mask == 0 && b == 0 && d == 0 && (ty == 8 || ty == 12 || ty == 13)
            else var ≤ 4 && b == 0 && (ty == 0 || ty == 8 || ty == 12 || ty == 13) && d % 2 == 0
  | _ => false

/-- Format I. -/
def okI (op imm f3 a d : Nat) : Bool :=
  match op with
  | 0x14 | 0x15 | 0x18 | 0x19 | 0x23 => f3 == 0
  | 0x1A | 0x1B => f3 ≤ 1
  | 0x21 => true
  | 0x24 => f3 == 0 && a == 0
  | 0x25 => imm == 0 && a == 0 && (f3 ≤ 1 || (f3 == 2 && d == 0))
  | 0x38 => imm == 0 && (match f3 with
      | 0 | 2 => true
      | 1 => d == 0
      | 3 => true
      | _ => false)
  | 0x39 => match f3 with
      | 0 | 2 | 3 => true
      | 1 => imm == 0 && a == 0 && d == 0
      | _ => false
  | _ => false

/-- Format B. -/
def okB (op imm b cond : Nat) : Bool :=
  match op with
  | 0x30 => cond ≤ 5 || (cond ≤ 7 && b == 0)
  | 0x3A => cond == 0 || (cond == 1 && b == 0 && imm == 0)
  | _ => false

/-- A signed field of n bits. -/
def sext (n x : Nat) : Int := toS n x

/-- The op code, field by field, of a word. -/
def wField (w hi lo : Nat) : Nat := w / 2 ^ lo % 2 ^ (hi + 1 - lo)

/-- A word in place at PC of a code section of n words is valid (R162, R163); `itemEnd` says that a PC holds an
ITEM END. -/
def okWord (n nParams : Nat) (itemEnd : Nat → Bool) (pc w : Nat) : Bool :=
  let op := wField w 6 0
  let inCode := fun (t : Int) => decide (0 ≤ t) && decide (t < n)
  if op = 0x11 then false
  else if op = 0x22 then true
  else if op = 0x30 || op = 0x3A then
    let imm := wField w 31 22
    let cond := wField w 11 7
    okB op imm (wField w 21 17) cond &&
      (if op = 0x30 then inCode (pc + sext 10 imm) && (cond ≤ 5 || wField w 16 12 ≤ 7)
       else cond == 1 || (inCode (pc + sext 10 imm) && itemEnd (pc + sext 10 imm).toNat))
  else if op = 0x31 || op = 0x32 then inCode (pc + sext 25 (wField w 31 7))
  else if op = 0x33 || op = 0x34 then wField w 31 7 == 0
  else if okI op (wField w 31 20) (wField w 19 17) (wField w 16 12) (wField w 11 7) then
    op != 0x24 || wField w 31 20 < nParams
  else okV op (wField w 31 29) (wField w 28 26) (wField w 25 22) (wField w 21 17) (wField w 16 12) (wField w 11 7)

/-- A word is an ITEM END. -/
def isItemEnd (w : Nat) : Bool := wField w 6 0 == 0x3A && wField w 11 7 == 1

/-- The code section satisfies R163: every word valid, the last word END, JMP or RET. -/
def codeOk (code : List Nat) (nParams : Nat) : Bool :=
  let n := code.length
  (List.range n).all (fun pc => okWord n nParams (fun t => isItemEnd (code.getD t 0)) pc (code.getD pc 0)) &&
    (match code.getLast? with
     | none => true
     | some w => let op := wField w 6 0; op == 0x34 || op == 0x31 || op == 0x33)

end Sys2Proof.Machine
end

