-- ==== Sys2Proof/Machine/Sort.lean ====
section
/-!
DEFINITION. The sort network: lists of 64 entries in register pairs (R253 to R260).
-/

namespace Sys2Proof.Machine

/-- An entry of a list: key element and index. -/
structure Entry where
  key : Nat
  idx : Nat
  deriving DecidableEq, Repr

/-- A list: its valid entries in slot order, and its header (Table SEL-1). -/
structure SList where
  entries : List Entry
  k : Nat
  nanCnt : Nat
  tieCnt : Nat
  desc : Bool
  tieAtK : Bool
  dup : Bool
  orderErr : Bool
  missing : Bool
  deriving DecidableEq, Repr

/-- Read a list from its key pair and index pair (R253, R254). -/
def SList.read (k0 k1 i0 i1 : Nat) : SList :=
  let key := fun j => if j < 32 then elem k0 64 j else elem k1 64 (j - 32)
  let ix := fun j => if j < 32 then elem i0 64 j else elem i1 64 (j - 32)
  let hd := fun j => ix j / 2 ^ 48
  let vacant := min (hd 0) 64
  let k := if hd 1 = 0 || hd 1 > 64 then 64 else hd 1
  { entries := (List.range (64 - vacant)).map fun j => ⟨key j, ix j % 2 ^ 48⟩
    k := k, nanCnt := hd 2, tieCnt := hd 3
    desc := hd 4 % 2 == 1, tieAtK := hd 4 / 2 % 2 == 1, dup := hd 4 / 4 % 2 == 1
    orderErr := hd 4 / 8 % 2 == 1, missing := hd 4 / 16 % 2 == 1 }

/-- Bits [63:48] of index element j that a list's header gives. -/
def SList.headerBits (l : SList) (j : Nat) : Nat :=
  let b := fun (x : Bool) => if x then 1 else 0
  match j with
  | 0 => 64 - l.entries.length
  | 1 => l.k
  | 2 => l.nanCnt
  | 3 => l.tieCnt
  | 4 => b l.desc + 2 * b l.tieAtK + 4 * b l.dup + 8 * b l.orderErr + 16 * b l.missing
  | _ => 0

/-- The four registers that hold a list: keys 0-31, keys 32-63, indexes 0-31, indexes 32-63; empty slots hold key 0
and index all ones (R254). -/
def SList.write (l : SList) : Nat × Nat × Nat × Nat :=
  let key := fun j => (l.entries[j]?.map Entry.key).getD 0
  let ix := fun j => (l.entries[j]?.map Entry.idx).getD (2 ^ 48 - 1) % 2 ^ 48 + l.headerBits j * 2 ^ 48
  (pack 64 32 key, pack 64 32 fun j => key (j + 32), pack 64 32 ix, pack 64 32 fun j => ix (j + 32))

/-- The u of an F64 pattern: its order as an unsigned number, −0 taken as +0 (R247, R255). -/
def f64Order (x : Nat) : Nat :=
  let x := if x = 2 ^ 63 then 0 else x
  if x ≥ 2 ^ 63 then 2 ^ 64 - 1 - x else x + 2 ^ 63

/-- Order code of a key of a type, none for a NaN (R247, R255): unsigned values as they are, signed ones with the
sign bit of 64 flipped, floating-point ones widened to F64. -/
def keyOrder (t key : Nat) : Option Nat :=
  let x := key % 2 ^ tyWidth t
  match tyFmt t with
  | none => some (if tySigned t then ofI 64 (toS (tyWidth t) x) ^^^ 2 ^ 63 else x)
  | some f =>
    if f.isNan x then none
    else some (f64Order (Fmt.f64.ofVal .ieee 0 x 0 (f.value x)).1)

/-- The order of R255: `a` stands before `b`. -/
def entryBefore (t : Nat) (desc : Bool) (a b : Entry) : Bool :=
  match keyOrder t a.key, keyOrder t b.key with
  | some u, some v => if u = v then decide (a.idx < b.idx) else if desc then decide (v < u) else decide (u < v)
  | some _, none => true
  | none, some _ => false
  | none, none => decide (a.idx < b.idx)

/-- Two keys are equal: equal u, or both NaN (R255). -/
def keyEq (t a b : Nat) : Bool := keyOrder t a == keyOrder t b

/-- Stable insertion sort by the order of R255. -/
def insertEntry (t : Nat) (desc : Bool) (e : Entry) : List Entry → List Entry
  | [] => [e]
  | x :: xs => if entryBefore t desc e x then e :: x :: xs else x :: insertEntry t desc e xs
def sortEntries (t : Nat) (desc : Bool) : List Entry → List Entry
  | [] => []
  | e :: es => insertEntry t desc e (sortEntries t desc es)

/-- Entries are in the order of R255. -/
def inOrder (t : Nat) (desc : Bool) : List Entry → Bool
  | a :: b :: rest => !(entryBefore t desc b a) && inOrder t desc (b :: rest)
  | _ => true

def sat16 (n : Nat) : Nat := min n 0xFFFF

/-- Duplicate removal of R259: the entries of the second list whose index a valid entry of the first has are
removed; how many, and how many with keys that are not equal. -/
def dedup (t : Nat) (first second : List Entry) : List Entry × Nat × Nat :=
  let isDup := fun (e : Entry) => first.any fun f => f.idx == e.idx
  let clash := fun (e : Entry) => first.any fun f => f.idx == e.idx && !keyEq t f.key e.key
  (second.filter fun e => !isDup e, (second.filter isDup).length,
   (second.filter fun e => isDup e && clash e).length)

/-- SORT64 (R256). -/
def sort64 (t : Nat) (a : SList) : SList := { a with entries := sortEntries t a.desc a.entries }

/-- MERGE (R257): list D, list B, duplicates removed, conflicts. Where an input was not in order, the split between
D and B is not stated beyond "the same entries, each in order": the model's split is log 27's. -/
def mergeLists (t : Nat) (a b : SList) : SList × SList × Nat × Nat :=
  let bad := !(inOrder t a.desc a.entries && inOrder t a.desc b.entries)
  let (rest, dups, clashes) := dedup t a.entries b.entries
  let all := sortEntries t a.desc (a.entries ++ rest)
  let cut := if bad then min (all.length) (Config.elemFree 257 all.length dups % 65) else min all.length 64
  let cut := max cut (all.length - 64)
  let d : SList := { entries := all.take cut, k := a.k, nanCnt := sat16 (a.nanCnt + b.nanCnt), tieCnt := 0
                     desc := a.desc, tieAtK := false, dup := a.dup || b.dup || clashes > 0
                     orderErr := bad, missing := a.missing || b.missing }
  let o : SList := { entries := all.drop cut, k := a.k, nanCnt := 0, tieCnt := 0, desc := a.desc, tieAtK := false
                     dup := false, orderErr := false, missing := false }
  (d, o, dups, clashes)

/-- The key at place K of a list that holds K entries. -/
def keyAtK (k : Nat) (l : List Entry) : Option Nat := if l.length < k then none else l[k - 1]?.map Entry.key

/-- TOPK (R258, R260): the new D, NaNs dropped, duplicates removed, conflicts. -/
def topk (t : Nat) (d a : SList) : SList × Nat × Nat × Nat :=
  let (rest, dups, clashes) := dedup t d.entries a.entries
  let nan := fun (e : Entry) => (keyOrder t e.key).isNone
  let all := d.entries ++ rest
  let nans := (all.filter nan).length
  let live := sortEntries t d.desc (all.filter fun e => !nan e)
  let kept := live.take d.k
  let left := live.drop d.k
  let tie := match keyAtK d.k kept with
    | none => 0
    | some w =>
      let t1 := match keyAtK d.k (sortEntries t d.desc d.entries) with
        | some w0 => if keyEq t w0 w then d.tieCnt else 0
        | none => 0
      let t2 := match (sortEntries t d.desc a.entries).getLast? with
        | some e => if keyEq t e.key w then a.tieCnt else 0
        | none => 0
      sat16 (t1 + t2 + (left.filter fun e => keyEq t e.key w).length)
  ({ d with entries := kept, nanCnt := sat16 (d.nanCnt + a.nanCnt + nans), tieCnt := tie
            tieAtK := tie != 0, dup := d.dup || a.dup || clashes > 0, missing := d.missing || a.missing },
   nans, dups, clashes)

end Sys2Proof.Machine
end

