-- ==== Sys2Proof/Machine/Vector.lean ====
section
/-!
DEFINITION. The vector instructions of a tile thread (R149 to R160, R170 to R178, R253 to R261).
-/

namespace Sys2Proof.Machine

open Sys2Proof

/-- What a step answers. -/
abbrev Out := Host.Outcome State Fault Refusal

/-- An instruction word that R162 and R163 admit has its effect; any other is no instruction. -/
def ifWord (ok : Bool) (s : State) : Out := if ok then .next s else .refused .illFormed

/-- A vector instruction of format V: `f` is given TILE_CFG.FTZ and the thread. -/
def State.vec (s : State) (tile th : Nat) (f : Bool → Thread → Thread) : State := s.issue tile th (f (s.ftz tile))

def execVarith (tile : Fin 64) (th : Fin 8) (var : BitVec 3) (mask : BitVec 3) (ty : BitVec 4) (b a d : BitVec 5)
    (s : State) : Out :=
  ifWord (okV 0x01 var.toNat mask.toNat ty.toNat b.toNat a.toNat d.toNat) <| s.vec tile th fun z x =>
    x.putVF d.toNat (varith var.toNat ty.toNat z (x.mN mask.toNat) (x.vN a.toNat) (x.vN b.toNat) (x.vN d.toNat))

def execVfma (tile : Fin 64) (th : Fin 8) (var : BitVec 3) (mask : BitVec 3) (ty : BitVec 4) (b a d : BitVec 5)
    (s : State) : Out :=
  ifWord (okV 0x02 var.toNat mask.toNat ty.toNat b.toNat a.toNat d.toNat) <| s.vec tile th fun z x =>
    x.putVF d.toNat (vfma var.toNat ty.toNat z (x.mN mask.toNat) (x.vN a.toNat) (x.vN b.toNat) (x.vN d.toNat))

def execVlogic (tile : Fin 64) (th : Fin 8) (var : BitVec 3) (mask : BitVec 3) (ty : BitVec 4) (b a d : BitVec 5)
    (s : State) : Out :=
  ifWord (okV 0x03 var.toNat mask.toNat ty.toNat b.toNat a.toNat d.toNat) <| s.vec tile th fun _ x =>
    x.putVF d.toNat (vlogic var.toNat ty.toNat (x.mN mask.toNat) (x.vN a.toNat) (x.vN b.toNat) (x.vN d.toNat))

def execVunary (tile : Fin 64) (th : Fin 8) (var : BitVec 3) (mask : BitVec 3) (ty : BitVec 4) (b a d : BitVec 5)
    (s : State) : Out :=
  ifWord (okV 0x04 var.toNat mask.toNat ty.toNat b.toNat a.toNat d.toNat) <| s.vec tile th fun z x =>
    x.putVF d.toNat (vunary var.toNat ty.toNat z (x.mN mask.toNat) (x.vN a.toNat) (x.vN d.toNat))

def execVtrans (tile : Fin 64) (th : Fin 8) (var : BitVec 3) (mask : BitVec 3) (ty : BitVec 4) (b a d : BitVec 5)
    (s : State) : Out :=
  ifWord (okV 0x05 var.toNat mask.toNat ty.toNat b.toNat a.toNat d.toNat) <| s.vec tile th fun z x =>
    x.putVF d.toNat (vtrans var.toNat ty.toNat z (x.mN mask.toNat) (x.vN a.toNat) (x.vN b.toNat) (x.vN d.toNat))

def execVcmp (tile : Fin 64) (th : Fin 8) (var : BitVec 3) (mask : BitVec 3) (ty : BitVec 4) (b a d : BitVec 5)
    (s : State) : Out :=
  ifWord (okV 0x06 var.toNat mask.toNat ty.toNat b.toNat a.toNat d.toNat) <| s.vec tile th fun z x =>
    x.setM d.toNat (BitVec.ofNat 512
      (vcmp var.toNat ty.toNat z (x.mN mask.toNat) (x.vN a.toNat) (x.vN b.toNat)))

def execVsel (tile : Fin 64) (th : Fin 8) (var : BitVec 3) (mask : BitVec 3) (ty : BitVec 4) (b a d : BitVec 5)
    (s : State) : Out :=
  ifWord (okV 0x07 var.toNat mask.toNat ty.toNat b.toNat a.toNat d.toNat) <| s.vec tile th fun _ x =>
    x.putV d.toNat (vsel ty.toNat (x.mN mask.toNat) (x.vN a.toNat) (x.vN b.toNat))

/-- PART stands in the MASK field, and no mask guards the write, when the widths differ (R154); a conversion of equal
widths writes every element (PART is 0 there, which names m0). -/
def execVcvt (tile : Fin 64) (th : Fin 8) (var : BitVec 3) (mask : BitVec 3) (ty : BitVec 4) (b a d : BitVec 5)
    (s : State) : Out :=
  ifWord (okV 0x08 var.toNat mask.toNat ty.toNat b.toNat a.toNat d.toNat) <| s.vec tile th fun z x =>
    x.putVF d.toNat (vcvt ty.toNat b.toNat var.toNat mask.toNat z (2 ^ 512 - 1) (x.vN a.toNat) (x.vN d.toNat))

/-- The write mask governs the 64 elements of 32 bits of the destination (log 61). -/
def execVmx (tile : Fin 64) (th : Fin 8) (var : BitVec 3) (mask : BitVec 3) (ty : BitVec 4) (b a d : BitVec 5)
    (s : State) : Out :=
  ifWord (okV 0x09 var.toNat mask.toNat ty.toNat b.toNat a.toNat d.toNat) <| s.vec tile th fun _ x =>
    let r := if var.toNat / 2 = 0 then (vmxPack b.toNat (var.toNat % 2 == 1) (x.vN a.toNat), 0)
             else vmxUnpack b.toNat (x.vN a.toNat)
    (x.putV d.toNat (lanes 32 64 (x.mN mask.toNat) (x.vN d.toNat) fun j => (elem r.1 32 j, 0)).1).orFlags r.2

def execVdec (tile : Fin 64) (th : Fin 8) (var : BitVec 3) (mask : BitVec 3) (ty : BitVec 4) (b a d : BitVec 5)
    (s : State) : Out :=
  ifWord (okV 0x0A var.toNat mask.toNat ty.toNat b.toNat a.toNat d.toNat) <| s.vec tile th fun _ x =>
    x.putVF d.toNat (vdec var.toNat (x.sreg b.toNat).toInt (x.mN mask.toNat) (x.vN a.toNat) (x.vN b.toNat)
      (x.vN d.toNat))

def execVred (tile : Fin 64) (th : Fin 8) (var : BitVec 3) (mask : BitVec 3) (ty : BitVec 4) (b a d : BitVec 5)
    (s : State) : Out :=
  ifWord (okV 0x0B var.toNat mask.toNat ty.toNat b.toNat a.toNat d.toNat) <| s.vec tile th fun z x =>
    x.putSF d.toNat (vred var.toNat ty.toNat z (x.mN mask.toNat) (x.vN a.toNat))

def execVperm (tile : Fin 64) (th : Fin 8) (var : BitVec 3) (mask : BitVec 3) (ty : BitVec 4) (b a d : BitVec 5)
    (s : State) : Out :=
  ifWord (okV 0x0C var.toNat mask.toNat ty.toNat b.toNat a.toNat d.toNat) <| s.vec tile th fun z x =>
    x.putVF d.toNat (vperm var.toNat ty.toNat z (x.mN mask.toNat) (x.vN a.toNat) (x.vN b.toNat) (x.vN d.toNat)
      (x.sN a.toNat) (x.sN b.toNat))

/-- The list in the registers named by X, and writing one (R253). -/
def Thread.list (x : Thread) (r : Nat) : SList := SList.read (x.vN r) (x.vN (r + 1)) (x.vN (r + 2)) (x.vN (r + 3))
def Thread.putList (x : Thread) (r : Nat) (l : SList) : Thread :=
  let w := l.write
  (((x.putV r w.1).putV (r + 1) w.2.1).putV (r + 2) w.2.2.1).putV (r + 3) w.2.2.2

/-- What a sort instruction counts: VSORTs, NaNs dropped, duplicates removed, conflicts (R259, R271); in 1 ASSIST of
the quad's sort function also QUAD_SORT.ASSISTED (R186, log 60). -/
def State.sortCounts (s : State) (tile nans dups clashes : Nat) : State :=
  let pg := pgTILE tile
  let s := ((s.addSat pg Reg.TILE_SORT_STAT_NAN_DROPPED nans).addSat pg Reg.TILE_SORT_STAT_CONFLICTS clashes).addSat pg
    Reg.TILE_SORT_DUP_REMOVED dups
  let s := ((s.perf pg 0x130 1).perf pg 0x131 nans).perf pg 0x132 dups
  let s := if s.assist (pgQUAD (tile / 4)) then s.addWrap (pgQUAD (tile / 4)) Reg.QUAD_SORT_ASSISTED 1 else s
  if clashes > 0 then s.error pg Src.tile_SORT_DUP_CONFLICT else s

def execVsortSort64 (tile : Fin 64) (th : Fin 8) (mask : BitVec 3) (ty : BitVec 4) (b a d : BitVec 5)
    (s : State) : Out :=
  ifWord (okV 0x0D 0 mask.toNat ty.toNat b.toNat a.toNat d.toNat) <| s.issueWith tile th fun s _ x =>
    (s.setThread tile th (x.putList d.toNat (sort64 ty.toNat (x.list a.toNat))).next).sortCounts tile 0 0 0

def execVsortMerge (tile : Fin 64) (th : Fin 8) (mask : BitVec 3) (ty : BitVec 4) (b a d : BitVec 5)
    (s : State) : Out :=
  ifWord (okV 0x0D 1 mask.toNat ty.toNat b.toNat a.toNat d.toNat) <| s.issueWith tile th fun s _ x =>
    let r := mergeLists ty.toNat (x.list a.toNat) (x.list b.toNat)
    (s.setThread tile th ((x.putList d.toNat r.1).putList b.toNat r.2.1).next).sortCounts tile 0 r.2.2.1 r.2.2.2

def execVsortTopk (tile : Fin 64) (th : Fin 8) (mask : BitVec 3) (ty : BitVec 4) (b a d : BitVec 5)
    (s : State) : Out :=
  ifWord (okV 0x0D 2 mask.toNat ty.toNat b.toNat a.toNat d.toNat) <| s.issueWith tile th fun s _ x =>
    let r := topk ty.toNat (x.list d.toNat) (x.list a.toNat)
    (s.setThread tile th (x.putList d.toNat r.1).next).sortCounts tile r.2.1 r.2.2.1 r.2.2.2

/-- VHASH; TYPE 15 reads the strings from tile memory, and a string beyond the claim is refused (R152, R177). -/
def execVhash (tile : Fin 64) (th : Fin 8) (var : BitVec 3) (mask : BitVec 3) (ty : BitVec 4) (b a d : BitVec 5)
    (s : State) : Out :=
  ifWord (okV 0x0E var.toNat mask.toNat ty.toNat b.toNat a.toNat d.toNat) <| s.issueWith tile th fun s p x =>
    let s := s.perf (pgTILE tile) 0x114 1
    let m := x.mN mask.toNat
    if ty.toNat = 15 then
      let ref := fun j => elem (x.vN a.toNat) 64 j
      match (List.range 32).find? fun j =>
          m / 2 ^ j % 2 == 1 && !s.tmOk p (ref j % 2 ^ 23) (ref j / 2 ^ 32 % 2 ^ 16) with
      | some j => s.tmRange tile th p (ref j % 2 ^ 23)
      | none => s.setThread tile th (x.putVF d.toNat (vhashStr var.toNat m (x.vN a.toNat) (x.vN d.toNat)
          (x.sN b.toNat) fun off n => s.tmRead tile off n)).next
    else s.setThread tile th
      (x.putVF d.toNat (vhash var.toNat ty.toNat m (x.vN a.toNat) (x.vN d.toNat) (x.sN b.toNat))).next

def execVbucket (tile : Fin 64) (th : Fin 8) (var : BitVec 3) (mask : BitVec 3) (ty : BitVec 4) (b a d : BitVec 5)
    (s : State) : Out :=
  ifWord (okV 0x0F var.toNat mask.toNat ty.toNat b.toNat a.toNat d.toNat) <| s.vec tile th fun z x =>
    x.putV d.toNat (vbucket var.toNat ty.toNat z (x.mN mask.toNat) (x.vN a.toNat) (x.vN b.toNat))

def execVnorm (tile : Fin 64) (th : Fin 8) (var : BitVec 3) (mask : BitVec 3) (ty : BitVec 4) (b a d : BitVec 5)
    (s : State) : Out :=
  ifWord (okV 0x10 var.toNat mask.toNat ty.toNat b.toNat a.toNat d.toNat) <| s.vec tile th fun z x =>
    x.putVF d.toNat (vnorm var.toNat ty.toNat z (x.mN mask.toNat) (x.vN a.toNat) (x.vN b.toNat) (x.vN d.toNat)
      (x.sN b.toNat) (x.sN (b.toNat + 1)))

end Sys2Proof.Machine
end

