-- ==== Sys2Proof/Machine/Strm.lean ====
section
/-!
DEFINITION. The stream engines (04): descriptors issued by threads (R166 to R169, R76, R81), lines that return and
writes that are acknowledged (R92, R93, R96, R97), combining writes (R86, R87), page faults (R104, R105).
-/

namespace Sys2Proof.Machine

open Sys2Proof

/-! ## Memory as a stream engine addresses it -/

/-- The tile and offset of an address in a tile's window (Table STACK-6). -/
def tileAddr (a : Nat) : Option (Nat × Nat) :=
  if tileBase ≤ a && a < tileTop then some ((a - tileBase) / 0x80_0000, (a - tileBase) % 0x80_0000) else none

/-- Read device memory: HBM, store memory, or tile memory. -/
def State.readMem (s : State) (a n : Nat) : List Byte × Bool :=
  match tileAddr a with
  | some (t, o) => (s.tmRead t o n, false)
  | none => s.readDev a n

/-- While the write gate is closed, writes of these pages' units to device memory are stored in poison form (R411). -/
def gatePoisons (page : Nat) : Bool :=
  match blockOf page with
  | some .tile | some .dec | some .cmp | some .own => true
  | _ => false

/-- Write device memory; a write to a hole is dropped and recorded (R25). -/
def State.writeMem (s : State) (page a : Nat) (bs : List Byte) (poison : Bool) : State :=
  match tileAddr a with
  | some (t, o) => s.tmWrite t o bs
  | none => if (s.locate a).isNone then s.hole a page
    else s.writeDev a bs (poison || (s.link.gateClosed && gatePoisons page))

/-! ## Checks at issue -/

/-- Every byte from lo to hi lies in one region of the plan or in the claimed tile memory of one of its tiles (R82). -/
def State.inClaims (s : State) (p : Nat) (lo hi : Int) : Bool :=
  let a := (s.slot p).alloc
  ((a.store ++ a.hbm).any fun r => decide ((r.base : Int) ≤ lo) && decide (hi < r.base + r.size)) ||
    a.tiles.any fun t => decide ((tileBase + t * 0x80_0000 : Int) ≤ lo) &&
      decide (hi < tileBase + t * 0x80_0000 + a.tmBytes)

/-- Bytes of the logical space of the chunk's output through an owner table (R303). -/
def State.ownBytes (s : State) (p k lt : Nat) : Nat :=
  match (kget (fun _ => ({} : OwnPlan)) s.owns p).cur.tables.find? fun t => t.lt == lt with
  | some t =>
    let n := match s.queue t.queue with
      | some q => (q.batches.filter fun b => b.chunk ≤ k && k ≤ b.last).length
      | none => 0
    t.rowBytes * t.samples * n
  | none => 0

/-- The cause for which a descriptor is refused, 0 for none (R81, R82). -/
def State.descCause (s : State) (p k : Nat) (d : Desc) : Nat :=
  let a := (s.slot p).alloc
  let ringEnd := d.tmBase + d.ringBytes
  let (lo, hi) := d.span
  if !d.fieldsOk then 6
  else if d.peal ≥ 2 ^ a.tiles.length then 6
  else if d.ownEn && (d.ownTable ≥ a.owns.length || d.space != 0) then 6
  else if ringEnd > a.tmBytes || d.cplOff + 32 > a.tmBytes || (d.tmBase < d.cplOff + 32 && d.cplOff < ringEnd) then 5
  else if d.total = 0 then 0
  else if d.ownEn then (if lo < 0 || hi ≥ s.ownBytes p k d.ownTable then 5 else 0)
  else if d.space = 0 && !s.inClaims p lo hi then 5
  else if d.indexed && d.idxSpace = 0 &&
      !s.inClaims p d.idxBase (d.indexAddr (d.total - 1) + (if d.idx64 then 7 else 3)) then 5
  else 0

/-- Physical tiles that a descriptor delivers to (R102). -/
def State.recipients (s : State) (p tile : Nat) (d : Desc) : List Nat :=
  if d.peal = 0 then [tile]
  else (s.slot p).alloc.tiles.zipIdx.filterMap fun q => if d.peal / 2 ^ q.2 % 2 = 1 then some q.1 else none

/-- The lowest free slot of a stream engine. -/
def Tile.freeSlot (t : Tile) : Option Nat := (List.range 8).find? fun k => (t.slot k).isNone

/-- Load a descriptor into a free slot (R76, R80, R81): it starts, or completes at once. -/
def State.loadDesc (s : State) (tile k p chunk th : Nat) (d : Desc) : State :=
  let t := s.tile tile
  let x : StrmSlot := { desc := d, thread := th, seq := t.issueSeq, inItem := (t.thread th).item.isSome
                        rings := (s.recipients p tile d).map fun r => { tile := r } }
  let cause := s.descCause p chunk d
  if cause != 0 then
    (if s.tmOk p d.cplOff 32 then s.writeRecord tile { x with rings := [] } 4 cause else s).error (pgTILE tile)
      Src.tile_STRM_REFUSED
  else if d.total = 0 then s.writeRecord tile x 0 0
  else s.setTile tile ({ t with issueSeq := t.issueSeq + 1 }.setSlot k (some x))

/-! ## Pages -/

/-- The descriptor that a thread's slot number names (R92, R102): the tile's own, else the peal of the lowest-numbered
tile that delivers to this tile from that slot (log 71). -/
def State.strmFor (s : State) (tile k : Nat) : Option (Nat × StrmSlot) :=
  match (s.tile tile).slot k with
  | some x => some (tile, x)
  | none => (List.range 64).findSome? fun t =>
    match (s.tile t).slot k with
    | some x => if x.desc.peal != 0 && x.rings.any (fun r => r.tile == tile) then some (t, x) else none
    | none => none

def StrmSlot.use (x : StrmSlot) (tile : Nat) : RingUse := (x.rings.find? fun r => r.tile == tile).getD { tile := tile }
def StrmSlot.setUse (x : StrmSlot) (u : RingUse) : StrmSlot :=
  { x with rings := x.rings.map fun r => if r.tile = u.tile then u else r }

/-- Pages of a write whose elements have all been acknowledged (R93). -/
def StrmSlot.freedPages (x : StrmSlot) : Nat :=
  if x.done = x.desc.total then x.desc.pages else x.done * x.desc.tmSize / 4096

/-- What TAKE answers (R167, R168): a page, none remaining, or nothing yet. -/
inductive Taken where
  | page (off : Nat)
  | none_
  | wait
  deriving DecidableEq, Repr

def StrmSlot.take (x : StrmSlot) (tile : Nat) : Taken :=
  let u := x.use tile
  let page := Taken.page (x.desc.tmBase + u.taken % x.desc.tmPages * 4096)
  if x.desc.write then
    (if u.taken ≥ x.desc.pages then .none_ else if u.taken < x.freedPages + x.desc.tmPages then page else .wait)
  else if u.taken < x.released then page
  else if x.complete || !x.rings.any (fun r => r.tile == tile) then .none_ else .wait

/-- Perform TAKE for a thread, or let it wait. -/
def State.doTake (s : State) (tile th k d : Nat) : State :=
  let x := s.thread tile th
  let finish := fun (s : State) (v : Nat) =>
    s.setThread tile th ({ x with run := .run, wait := none }.putS d v).next
  match s.strmFor tile k with
  | none => finish s (2 ^ 64 - 1)
  | some (owner, y) =>
    match y.take tile with
    | .none_ => finish s (2 ^ 64 - 1)
    | .wait => s.setThread tile th { x with run := .streamWait, wait := some (.take k d) }
    | .page off =>
      let u := y.use tile
      finish (s.setTile owner ((s.tile owner).setSlot k (some (y.setUse { u with taken := u.taken + 1 })))) off

/-- Perform ISSUE for a thread, or let it wait for a slot (R166). -/
def State.doIssue (s : State) (tile th p off d : Nat) : State :=
  let x := s.thread tile th
  match (s.tile tile).freeSlot, (s.tile tile).running with
  | some k, some (_, _, chunk) =>
    let desc := parseDesc (s.tmRead tile off 128)
    let s := s.setThread tile th ({ x with run := .run, wait := none }.putS d k).next
    s.loadDesc tile k p chunk th desc
  | _, _ => s.setThread tile th { x with run := .streamWait, wait := some (.issue off d) }

/-- Once slots or pages have come free: descriptors of STREAM operators load first, then threads that wait to issue or
to take go on, lowest thread first. -/
def State.strmSettle (s : State) (tile : Nat) : State :=
  match (s.tile tile).running with
  | none => s
  | some (p, _, chunk) =>
    let s := (List.range 8).foldl (fun (s : State) _ =>
      match (s.tile tile).freeSlot, (s.tile tile).opDescs with
      | some k, d :: ds => (s.setTile tile { s.tile tile with opDescs := ds }).loadDesc tile k p chunk 0 d
      | _, _ => s) s
    (List.range 8).foldl (fun (s : State) th =>
      match (s.thread tile th).wait with
      | some (.issue off d) => if (s.tile tile).freeSlot.isSome then s.doIssue tile th p off d else s
      | some (.take k d) => s.doTake tile th k d
      | _ => s) s

/-- Settle the engine of a tile and of every tile that its peals deliver to. -/
def State.strmSettleAll (s : State) (tile : Nat) (x : StrmSlot) : State :=
  ((x.rings.map RingUse.tile).filter (· != tile)).foldl State.strmSettle (s.strmSettle tile)

/-! ## Instructions of a thread -/

def execStrmIssue (tile : Fin 64) (th : Fin 8) (a d : BitVec 5) (s : State) : Out :=
  .next <| s.issueWith tile th fun s p x =>
    let off := x.sN a.toNat
    if !s.tmOk p off 128 then s.tmRange tile th p off else s.doIssue tile th p off d.toNat

/-- WAIT returns once the completion record is written; a slot that holds nothing has completed (R166). D is not
used and must be 0. -/
def execStrmWait (tile : Fin 64) (th : Fin 8) (a d : BitVec 5) (s : State) : Out :=
  ifWord (d.toNat == 0) <| s.issueWith tile th fun s _ x =>
    let k := x.sN a.toNat % 8
    match s.strmFor tile k with
    | some (_, y) =>
      if y.complete then s.setThread tile th x.next
      else s.setThread tile th { x.next with run := .streamWait, wait := some (.strm k) }
    | none => s.setThread tile th x.next

def execStrmTake (tile : Fin 64) (th : Fin 8) (a d : BitVec 5) (s : State) : Out :=
  .next <| s.issueWith tile th fun s _ x => s.doTake tile th (x.sN a.toNat % 8) d.toNat

/-- A read whose transfer has ended is released once every page handed to its consumers is free (R166). -/
def State.releaseRead (s : State) (owner k : Nat) : State :=
  match (s.tile owner).slot k with
  | some y =>
    if y.complete && !y.desc.write && y.rings.all (fun r => y.released ≤ r.freed)
    then s.setTile owner ((s.tile owner).setSlot k none) else s
  | none => s

/-- FREE (R169): a read page becomes free; a write page goes to the engine with the valid bytes of s[D]. A FREE with
no page taken is a code fault (R164). -/
def execStrmFree (tile : Fin 64) (th : Fin 8) (a d : BitVec 5) (s : State) : Out :=
  .next <| s.issueWith tile th fun s p x =>
    let k := x.sN a.toNat % 8
    match s.strmFor tile k with
    | none => s.codeFault tile th p 4
    | some (owner, y) =>
      let u := y.use tile
      if u.freed ≥ u.taken then s.codeFault tile th p 4
      else
        let y := y.setUse { u with freed := u.freed + 1 }
        let y := if y.desc.write then { y with handed := y.handed ++ [x.sN d.toNat] } else y
        let s := (s.setThread tile th x.next).setTile owner ((s.setThread tile th x.next).tile owner |>.setSlot k (some y))
        (s.releaseRead owner k).strmSettleAll owner y

/-! ## Reads -/

/-- The index cache serves this descriptor: rows of 256 B or less, and the oldest indexed descriptor (R91). -/
def Tile.cacheUser (t : Tile) (x : StrmSlot) : Bool :=
  x.desc.indexed && x.desc.rowElems * x.desc.memSize ≤ 256 &&
    (List.range 8).all fun k => match t.slot k with
      | some y => !y.desc.indexed || x.seq ≤ y.seq
      | none => true

/-- A dimension of count 2 or more with stride 0: repeats are served from the first fetch (R84). -/
def Desc.broadcasts (d : Desc) : Bool :=
  !d.indexed && (List.range 5).any fun k => d.count k ≥ 2 && d.stride k == 0

/-- The index that drives element n: its value and whether its line carried poison; `host` is what the host returned
for an index tensor in host memory. -/
def State.readIndex (s : State) (d : Desc) (n : Nat) (host : Word) : Int × Bool :=
  let w := if d.idx64 then 8 else 4
  if d.idxSpace = 0 then
    let r := s.readMem (d.indexAddr n) w
    (toS (8 * w) (leNat r.1), r.2)
  else (toS (8 * w) host.toNat, false)

/-- What arrives for one element: the descriptor with its cache, the bytes at the memory side, poison, the address
fetched, whether the index was flagged. -/
structure Fetch where
  slot : StrmSlot
  bytes : List Byte
  bad : Bool
  addr : Option Nat
  flagged : Bool
  deriving DecidableEq, Repr

def State.fetchElem (s : State) (tile : Nat) (x : StrmSlot) (host : List Byte) (idx : Word) (poison : Bool) : Fetch :=
  let d := x.desc
  let n := x.done
  let m := d.memSize
  let iv := if d.indexed then s.readIndex d n idx else (0, false)
  let pk := if d.indexed then d.pick iv.1 else (.row 0, false)
  let first := d.coord n 0 = 0
  if iv.2 then ⟨x, List.replicate m 0, true, none, false⟩
  else match pk.1 with
    | .zeros => ⟨x, List.replicate m 0, false, none, first && pk.2⟩
    | .fill => ⟨x, d.fillBytes, false, none, first && pk.2⟩
    | .row v =>
      let a := d.addr n v
      let key : Int := if d.indexed then v else a
      let pos := if d.indexed then d.coord n 0 * m else 0
      let useCache := (s.tile tile).cacheUser x || d.broadcasts
      let entry := ((x.cache.find? fun e => e.1 == key).map Prod.snd).getD []
      if useCache && pos + m ≤ entry.length then
        ⟨{ x with cache := (key, entry) :: x.cache.filter fun e => e.1 != key }, slice entry pos m, false, none, false⟩
      else
        let r := if d.space = 0 then s.readMem a m else (host, poison)
        let cap := if d.indexed then 256 else x.cache.length + 1
        let newCache := ((key, entry ++ r.1) :: x.cache.filter fun e => e.1 != key).take cap
        let x' := if useCache && entry.length = pos && !r.2 then { x with cache := newCache } else x
        ⟨x', r.1, r.2, some a, false⟩

/-- Store n bytes into a ring, wrapping from its last page to its first (R78). -/
def State.ringWrite (s : State) (tile : Nat) (d : Desc) (pos : Nat) (bs : List Byte) : State :=
  let o := pos % d.ringBytes
  let k := d.ringBytes - o
  (s.tmWrite tile (d.tmBase + o) (bs.take k)).tmWrite tile d.tmBase (bs.drop k)
/-- Read n bytes of a ring. -/
def State.ringRead (s : State) (tile : Nat) (d : Desc) (pos n : Nat) (e : TmEcc) : List Byte × Bool :=
  let o := pos % d.ringBytes
  let k := min n (d.ringBytes - o)
  let bad := fun off len => e.uncorr.any (wordsOf off len).contains
  (s.tmBytesAt tile (d.tmBase + o) k e ++ s.tmBytesAt tile d.tmBase (n - k) e,
   bad (d.tmBase + o) k || (k < n && bad d.tmBase (n - k)))

/-- Pages that every consumer has freed (R92, R103). -/
def StrmSlot.minFreed (x : StrmSlot) : Nat :=
  match x.rings with
  | [] => x.released
  | r :: rs => rs.foldl (fun m q => min m q.freed) r.freed

/-- The next element has a free page on every consumer (R92, R103). -/
def StrmSlot.hasCredit (x : StrmSlot) : Bool :=
  ((x.done + 1) * x.desc.tmSize - 1) / 4096 < x.minFreed + x.desc.tmPages

/-- The lines of 64 B that n bytes at an address touch. -/
def linesOf (a n : Nat) : List Nat := (List.range ((a % 64 + n + 63) / 64)).map fun i => a / 64 + i

/-- Delivery of the next element of a read. -/
def State.deliver (s : State) (tile k : Nat) (x : StrmSlot) (host : List Byte) (idx : Word) (poison : Bool) : State :=
  let pg := pgTILE tile
  let f := s.fetchElem tile x host idx poison
  let d := x.desc
  let bytes := if f.bad then List.replicate d.tmSize 0 else d.toTile f.bytes
  let s := f.slot.rings.foldl (fun (s : State) r => s.ringWrite r.tile d (x.done * d.tmSize) bytes) s
  let done := x.done + 1
  let lines := match f.addr with
    | some a => linesOf a d.memSize
    | none => []
  let fresh := fun (l : Option Nat) => (lines.filter fun q => some q != l).length
  let y := { f.slot with done := done, flagged := x.flagged + (if f.flagged then 1 else 0)
                         poison := x.poison + (if !f.bad then 0 else if lines.isEmpty then 1 else fresh x.lastBad)
                         lastBad := if f.bad && !lines.isEmpty then lines.getLast? else x.lastBad
                         lastLine := if lines.isEmpty then x.lastLine else lines.getLast?
                         released := if done = d.total then d.pages else done * d.tmSize / 4096 }
  let s := s.setTile tile ((s.tile tile).setSlot k (some y))
  let s := match f.addr with
    | some a => (if d.space = 0 && (tileAddr a).isNone && (s.locate a).isNone then s.hole a pg else s).perf pg 0x100 (fresh x.lastLine)
    | none => s
  let s := if d.indexed then s.perf pg (if f.addr.isSome then 0x103 else 0x102) 1 else s
  let s := if f.flagged then s.error pg Src.tile_STRM_IDX_RANGE else s
  let s := if f.bad then s.error pg Src.tile_STRM_POISON else s
  match (s.tile tile).slot k with
  | some y => if y.done = d.total then s.endStrm tile k (if y.poison > 0 then 2 else 0) (if y.poison > 0 then 3 else 0) else s
  | none => s

/-- Data of host memory cut into elements. -/
def hostElem (data : List Byte) (m i : Nat) : List Byte := slice data (i * m) m

/-- The next n elements of a read arrive (R92, R97). Data in device memory is the memory's own; `data` holds the
elements in host memory, `idx` the indexes in host memory, one for each element. An element without a free page, or of
a descriptor that waits on a page request, does not arrive. -/
def execReadLineReturn (tile : Fin 64) (slot : Fin 8) (n : Nat) (data : List Byte) (idx : List Word) (poison : Bool)
    (s : State) : Out :=
  match (s.tile tile).slot slot with
  | none => .next s
  | some x0 =>
    .next <| ((List.range n).foldl (fun (s : State) i =>
      match (s.tile tile).slot slot with
      | some x =>
        if !x.desc.write && x.st == .active && !x.complete && x.hasCredit then
          s.deliver tile slot x (hostElem data x.desc.memSize i) (idx.getD i 0) poison
        else s
      | none => s) s).strmSettleAll tile x0

/-! ## Writes -/

/-- Bytes of the ring that the producer has handed over (R93). -/
def StrmSlot.handedBytes (x : StrmSlot) : Nat :=
  match x.handed.getLast? with
  | some v => 4096 * (x.handed.length - 1) + (if v = 0 || v ≥ 4096 then 4096 else v)
  | none => 0

/-- Where a write's element n goes: nothing for an index out of range, or the row's index and the address. -/
def State.destOf (s : State) (d : Desc) (n : Nat) (idx : Word) : Option (Int × Nat) × Bool :=
  if d.indexed then
    let iv := s.readIndex d n idx
    match d.pick iv.1 with
    | (.row v, _) => (if iv.2 then none else some (v, d.addr n v), false)
    | (_, fl) => (none, fl && d.coord n 0 = 0)
  else (some (0, d.addr n 0), false)

/-- A write to host memory leaves the device with poison while the write gate is closed (R411). -/
def State.hostWrite (s : State) (virt : Bool) (pasid a : Nat) (bs : List Byte) (poison : Bool) (src : ReqSrc) : State :=
  let a := hostAddr virt pasid a
  match s.linkFor a with
  | none => s
  | some n => s.emit (.request { id := s.link.nextId, kind := .itoMWr, link := n, addr := a, data := bs
                                 poison := poison || s.link.gateClosed, src := src })

/-- One element of a write without combining (R86, codes 0 and 5), at its destination. Of several values that one
scatter writes to a destination under 0 NONE, any one stands (R88, log 72). -/
def State.writeElem (s : State) (tile k : Nat) (x : StrmSlot) (idx : Word) (e : TmEcc) : State × StrmSlot :=
  let d := x.desc
  let src := s.ringRead tile d (x.done * d.tmSize) d.tmSize e
  let r := s.destOf d x.done idx
  let x := { x with flagged := x.flagged + (if r.2 then 1 else 0) }
  match r.1 with
  | none => (s, x)
  | some (v, a) =>
    let again := d.indexed && d.combine = 0 && x.seen.contains v
    let pickr := s.fresh
    let s := if again then pickr.2 else s
    let x := if d.indexed && d.coord x.done 0 + 1 = d.rowElems && !x.seen.contains v
      then { x with seen := v :: x.seen } else x
    if again && pickr.1 % 2 = 0 then (s, x)
    else if d.space = 0 then (s.writeMem (pgTILE tile) a (d.toMem src.1) src.2, x)
    else (s.hostWrite (d.space == 1) d.pasid a (d.toMem src.1) src.2 (.strm tile k), x)

/-- The host lines that the combine unit holds return to the host with DirtyEvict (R87). -/
def State.evictLines (s : State) : State :=
  s.link.cache.foldl (fun (s : State) p =>
    match p.2 with
    | some bs => { s with link := { s.link with cache := kset (fun _ => none) s.link.cache p.1 none } }.issueHost
        .dirtyEvict (p.1 * 64) bs (.evict p.1)
    | none => s) s

/-- The next element of a write is acknowledged (R93). -/
def State.ackElem (s : State) (tile k : Nat) (x : StrmSlot) (idx : Word) (e : TmEcc) : State :=
  let d := x.desc
  let pg := pgTILE tile
  let combining := 1 ≤ d.combine && d.combine ≤ 4
  let (s, y) := if combining || d.ownEn then (s, x) else s.writeElem tile k x idx e
  let fl := y.flagged != x.flagged
  let y := { y with done := x.done + 1 }
  let s := (s.setTile tile ((s.tile tile).setSlot k (some y))).perf pg 0x101 1
  let s := if fl then s.error pg Src.tile_STRM_IDX_RANGE else s
  if y.done = d.total then (if combining && d.space != 0 then s.evictLines else s).endStrm tile k 0 0 else s

/-- An element of a write can be acknowledged: its bytes were handed over, a combining one was combined, a host write
has its link (R93, R382). -/
def State.canAck (s : State) (x : StrmSlot) : Bool :=
  let d := x.desc
  d.write && x.st == .active && !x.complete && (x.done + 1) * d.tmSize ≤ x.handedBytes &&
    (if 1 ≤ d.combine && d.combine ≤ 4 then x.done < x.applied
     else d.space == 0 || (s.linkFor (hostAddr (d.space == 1) d.pasid (d.addr x.done 0))).isSome)

/-- The next n elements of a write are acknowledged at their destinations; with `ok` false the one after them is
refused there and ends the transfer (R97). `idx` holds indexes in host memory; `ecc` what SECDED reports on the ring. -/
def execWriteAck (tile : Fin 64) (slot : Fin 8) (n : Nat) (idx : List Word) (ecc : TmEcc) (ok : Bool) (s : State) : Out :=
  let s := (List.range n).foldl (fun (s : State) i =>
    match (s.tile tile).slot slot with
    | some x => if s.canAck x then s.ackElem tile slot x (idx.getD i 0) ecc else s
    | none => s) s
  match (s.tile tile).slot slot with
  | some x =>
    let s := if !ok && s.canAck x then (s.endStrm tile slot 2 4).error (pgTILE tile) Src.tile_STRM_WRITE_ERR else s
    .next (s.strmSettle tile)
  | none => .next (s.strmSettle tile)

/-! ## Combining writes -/

/-- The combine unit's copy of a host line. -/
def State.cacheLine (s : State) (l : Nat) : Option (List Byte) := kget (fun _ => none) s.link.cache l

/-- The destination combines the next element of a combining write, once (R86, R87). In host memory the line is first
taken with RdOwn into the coherent cache. -/
def execCombineRequest (tile : Fin 64) (slot : Fin 8) (idx : Word) (s : State) : Out :=
  match (s.tile tile).slot slot with
  | none => .next s
  | some x =>
    let d := x.desc
    if !(d.write && x.st == .active && !x.complete && 1 ≤ d.combine && d.combine ≤ 4 &&
        (x.applied + 1) * d.tmSize ≤ x.handedBytes) then .next s
    else
      let new := d.toMem (s.ringRead tile d (x.applied * d.tmSize) d.tmSize {}).1
      let r := s.destOf d x.applied idx
      let put := fun (s : State) (fl : Bool) =>
        let y := { x with applied := x.applied + 1, flagged := x.flagged + (if fl then 1 else 0) }
        let s := s.setTile tile ((s.tile tile).setSlot slot (some y))
        if fl then s.error (pgTILE tile) Src.tile_STRM_IDX_RANGE else s
      match r.1 with
      | none => .next (put s r.2)
      | some (_, a) =>
        if d.space = 0 then
          let old := s.readMem a d.memSize
          .next (put (s.writeMem (pgTILE tile) a (d.combineBytes old.1 new) old.2) false)
        else
          let a := hostAddr (d.space == 1) d.pasid a
          let ls := linesOf a d.memSize
          let missing := ls.filter fun l => (s.cacheLine l).isNone
          if s.link.combineOff then
            .next ((s.endStrm tile slot 2 4).error (pgTILE tile) Src.tile_STRM_WRITE_ERR)
          else if missing.isEmpty then
            let old := ls.flatMap fun l => (s.cacheLine l).getD []
            let o := a % 64
            let now := old.take o ++ d.combineBytes (slice old o d.memSize) new ++ old.drop (o + d.memSize)
              let cache := ls.zipIdx.foldl (fun (m : KMap (Option (List Byte))) (p : Nat × Nat) =>
              kset (fun _ => none) m p.1 (some (slice now (64 * p.2) 64))) s.link.cache
            .next (put { s with link := { s.link with cache := cache } } false)
          else .next (missing.foldl (fun (s : State) l =>
            if (s.link.reqs ++ s.link.held).any fun q => q.addr == 64 * l && q.kind == .rdOwn then s
            else s.issueHost .rdOwn (64 * l) [] (.combine l tile slot)) s)

/-! ## Page faults -/

/-- Descriptors end as 1 PARTIAL (R105); then each plan they belong to regenerates the batches that hold the missing
elements, or fails. The reason of that failure has no stated code (log 73). -/
def State.partialEnd (s : State) (cause : Nat) (l : List (Nat × Nat × StrmSlot)) : State :=
  let ended := l.foldl (fun (s : State) q => (s.endStrm q.1 q.2.1 1 cause).error (pgTILE q.1) Src.tile_STRM_XLATE) s
  let fails := l.filterMap fun q => if q.2.2.desc.onError then s.slotOfTile q.1 else none
  let again := (l.filterMap fun q => s.slotOfTile q.1).filter fun p => !fails.contains p
  let failed := fails.eraseDups.foldl (fun (s : State) p => s.fresh.2.failPlan p (s.fresh.1 % 256)) ended
  let done := again.eraseDups.foldl State.regenerate failed
  l.foldl (fun (s : State) q => s.strmSettle q.1) done

/-- ATS, PRI and PASID are all on at the primary port; a Response Failure turns PRI off (R397, R398). -/
def State.xlateOn (s : State) : Bool :=
  match s.primary with
  | none => false
  | some l => s.link.atsEn.contains l && s.link.pasidEn.contains l && s.bit (pgULNK l) Reg.ULNK_PRI_ENABLED &&
      !s.bit (pgULNK l) Reg.ULNK_PRI_FAILED

/-- Send page requests on the primary link, as many as its allocation admits (R397). -/
def State.sendPageReqs (s : State) : State :=
  match s.primary with
  | none => s
  | some l =>
    let room := min (s.fld (pgULNK l) Reg.ULNK_PRI_ALLOC) 512 - s.link.pri.length
    let now := s.link.priWait.take room
    let s := { s with link := { s.link with pri := s.link.pri ++ now, priWait := s.link.priWait.drop room } }
    let s := now.foldl (fun (s : State) q =>
      (s.emit (.pri l q.pasid (q.page * 4096) q.write)).addWrap (pgULNK l) Reg.ULNK_PRI_REQUESTS 1) s
    s.setFld (pgULNK l) Reg.ULNK_PRI_OUTSTANDING s.link.pri.length

/-- ULNK_ATS.ENTRIES of the primary link follows the address translation cache (R403). -/
def State.setAtc (s : State) (atc : List (Nat × Nat)) : State :=
  let s := { s with link := { s.link with atc := atc } }
  match s.primary with
  | none => s
  | some l => s.setFld (pgULNK l) Reg.ULNK_ATS_ENTRIES atc.length

/-- A translation returns (R104): it enters the cache of 8,192 entries, the least recently used one leaving (R396). A
refused one sets the restart point and asks for the page, once per page (R397). While ATS, PRI or PASID is off, the
descriptor ends with cause 2 (R398). -/
def execXlateResponse (tile : Fin 64) (slot : Fin 8) (ok : Bool) (addr : Word) (s : State) : Out :=
  match (s.tile tile).slot slot with
  | none => .next s
  | some x =>
    let d := x.desc
    let page := addr.toNat / 4096
    if !((d.space == 1 || (d.indexed && d.idxSpace == 1)) && x.st == .active && !x.complete) then .next s
    else if !s.xlateOn then
      let y := { x with restart := some x.done, faultAddr := addr.toNat }
      .next ((s.setTile tile ((s.tile tile).setSlot slot (some y))).partialEnd 2 [(tile.val, slot.val, y)])
    else if ok then .next (s.setAtc (((page, d.pasid) :: s.link.atc.filter (· != (page, d.pasid))).take 8192))
    else
      let y := { x with st := .pfWait, restart := some x.done, faultAddr := addr.toNat }
      let s := s.setTile tile ((s.tile tile).setSlot slot (some y))
      let onIndex := d.indexed && d.idxSpace == 1 && addr.toNat == d.indexAddr x.done
      let q : PageReq := { page := page, pasid := d.pasid, write := d.write && !onIndex }
      if (s.link.pri ++ s.link.priWait).any (fun r => r.page == page && r.pasid == d.pasid) then .next s
      else .next (({ s with link := { s.link with priWait := s.link.priWait ++ [q] } }.perf (pgTILE tile) 0x105 1).sendPageReqs)

/-- Descriptors that wait on a page request satisfying a test: tile, slot. -/
def State.pfWaiters (s : State) (p : StrmSlot → Bool) : List (Nat × Nat × StrmSlot) :=
  (List.range 64).flatMap fun t => (List.range 8).filterMap fun k =>
    match (s.tile t).slot k with
    | some x => if x.st == .pfWait && p x then some (t, k, x) else none
    | none => none

/-- The response to a page request that is out (R105, R397); descriptors that no longer wait are left alone (R106). -/
def execPageResponse (page : Nat) (pasid : BitVec 20) (code : PageCode) (s : State) : Out :=
  if !s.link.pri.any (fun r => r.page == page && r.pasid == pasid.toNat) then .next s
  else
    let mine := fun (x : StrmSlot) => x.faultAddr / 4096 == page && x.desc.pasid == pasid.toNat
    let s := { s with link := { s.link with pri := s.link.pri.filter fun r => !(r.page == page && r.pasid == pasid.toNat) } }
    let s := s.sendPageReqs
    match code with
    | .success =>
      .next ((s.pfWaiters mine).foldl (fun (s : State) q =>
        s.setTile q.1 ((s.tile q.1).setSlot q.2.1 (some { q.2.2 with st := .active, restart := none, faultAddr := 0 }))) s)
    | .invalid => .next (s.partialEnd 2 (s.pfWaiters mine))
    | .failure =>
      let s := s.partialEnd 2 (s.pfWaiters fun _ => true)
      let s := { s with link := { s.link with priWait := [] } }
      match s.primary with
      | none => .next s
      | some l => .next ((s.setBit (pgULNK l) Reg.ULNK_PRI_FAILED true).error (pgULNK l) Src.ulnk_PRI_FAILURE)

/-- No page response within PF_TIMEOUT_MS (R105). -/
def execPfTimeout (tile : Fin 64) (slot : Fin 8) (s : State) : Out :=
  match (s.tile tile).slot slot with
  | none => .next s
  | some x =>
    if x.st != .pfWait then .next s else .next (s.partialEnd 1 [(tile.val, slot.val, x)])

end Sys2Proof.Machine
end

