-- ==== Sys2Proof/Machine/Command.lean ====
section
/-!
DEFINITION. Commands of the command rings: which entries are valid (R63, R235, R306, R388, R391), serving the oldest
command of a ring (R64), reading a command's records (R63, R235, R306); NOP.
-/

namespace Sys2Proof.Machine

open Sys2Proof

/-- Operand bits that a command defines (Table PLAN-8, R235, R306, R388); none for an unknown code. -/
def cmdMasks (code : Nat) : Option (Nat × Nat × Nat) :=
  let all := 2 ^ 64 - 1
  match code with
  | 0x01 => some (0, 0, 0)
  | 0x10 => some (all, 0x1F3FFFFF, all)
  | 0x11 | 0x12 | 0x13 | 0x14 => some (0, 0xF000000, 0)
  | 0x15 => some (all, 0xFFFFFFFF, 0x3FFFFFF3F)
  | 0x20 | 0x21 | 0x22 | 0x23 | 0x25 => some (all, 0x3F3FFFFF, 0xFFFFF)
  | 0x24 => some (all, 0x3F3FFFFF, 0x3FFFFFF)
  | 0x30 => some (all, 0x7F0F3FFFFF, 0x3FFFFFFFFF)
  | 0x40 => some (all, 0, 0x13FFFF)
  | _ => none

/-- A value uses only the bits of a mask. -/
def within (x m : Nat) : Bool := x &&& m == x

/-- Counts that a command admits (R235, R306, R388); operand 0 of a table command without records is 0. -/
def countOk (c : Cmd) : Bool :=
  let n := c.op2.toNat
  match c.code with
  | 0x20 | 0x21 | 0x22 => 1 ≤ n % 2 ^ 20 && n % 2 ^ 20 ≤ 65536
  | 0x23 => 1 ≤ n % 2 ^ 20 && n % 2 ^ 20 ≤ 524288
  | 0x24 | 0x25 => n % 2 ^ 20 == 0 && c.op0.toNat == 0
  | 0x30 => 1 ≤ n / 2 ^ 16 % 2 ^ 16 && n / 2 ^ 16 % 2 ^ 16 ≤ 4096
  | 0x40 => 1 ≤ n % 2 ^ 18 && n % 2 ^ 18 ≤ 132352 && c.op0.toNat % 2 ^ 21 == 0
  | _ => true

/-- The command of a 64 B ring entry (Table LINK-4): `bad` for an unknown code or a set reserved bit (R391, log 80). -/
def parseCmd (e : List Byte) : Cmd :=
  let c : Cmd := { code := bytesAt e 0 1, tag := word (bytesAt e 4 4), op0 := word (bytesAt e 8 8)
                   op1 := word (bytesAt e 0x10 8), op2 := word (bytesAt e 0x18 8) }
  let ok := match cmdMasks c.code with
    | some (a, b, d) => within c.op0.toNat a && within c.op1.toNat b && within c.op2.toNat d
    | none => false
  { c with bad := !(ok && countOk c && bytesAt e 1 3 == 0 && (slice e 0x20 32).all (· == 0)) }

/-- Serve the oldest command of a ring (R64): nothing happens while another is oldest or the ring is not served; while
the device is DOWN every command but PLAN_ABORT and PLAN_UNLOAD completes with 35 DEVICE_DOWN. -/
def State.command (s : State) (n code : Nat) (f : State → Cmd → State) : State :=
  match s.oldest n code with
  | none => s
  | some c =>
    if !s.serves n then s
    else if s.bit pgGLB Reg.GLB_STAT_DOWN && code != 0x13 && code != 0x14 then s.complete n 35 0 0 0
    else f s c

/-- The ring's oldest command stays in progress. -/
def State.setBusy (s : State) (n : Nat) : State := s.setRing n { s.ring n with busy := true }

/-- The records of a command: device memory when DEV is 1, else what the host link returned; none when the read
fails or returns poison. -/
def State.operandBytes (s : State) (dev : Bool) (addr n : Nat) (host : Option (List Byte)) : Option (List Byte) :=
  if dev then
    let r := s.readMem addr n
    if r.2 then none else some r.1
  else match host with
    | some b => if b.length = n then some b else none
    | none => none

/-- VIRT and DEV of an operand word (bits 20 and 21), and the plan slot in its bits 27 to 24. -/
def opDev (w : Word) : Bool := bitsOf w.toNat 21 21 == 1
def opSlot (w : Word) : Nat := bitsOf w.toNat 27 24

/-- A cue slot that a plan may name (R69, R236, R306): one it claims, or 16 + p. -/
def State.cueAllowed (s : State) (p cue : Nat) : Bool := (s.slot p).alloc.cues.contains cue || cue == 16 + p

def execNop (ring : Fin 16) (s : State) : Out := .next <| s.command ring 0x01 fun s _ => s.complete ring 0 0 0 0

end Sys2Proof.Machine
end

