-- ==== Sys2Proof/Machine/OpCheck.lean ====
section
/-!
DEFINITION. What admission checks of the operators of classes STREAM, SELECT, ORDER, EMIT and FLOW (R76, R81, R264,
R265, R274, R275, R284, R288, R295 to R304, R309, R331). A check answers the codes that it would refuse the image with.
-/

namespace Sys2Proof.Machine

/-- A field of a configuration block: byte offset, low bit, width. -/
abbrev CField := Nat × Nat × Nat

def cfgField (c : List Byte) (f : CField) : Nat := bytesAt c f.1 ((f.2.1 + f.2.2 + 7) / 8) / 2 ^ f.2.1 % 2 ^ f.2.2

/-- Every bit outside the fields is 0 (R10). -/
def resvZero (c : List Byte) (fs : List CField) : Bool :=
  let m := fs.foldl (fun (m : Nat) f => m ||| (2 ^ f.2.2 - 1) * 2 ^ (8 * f.1 + f.2.1)) 0
  let n := leNat c
  n &&& m == n

/-- The codes that conditions give. -/
def codes (l : List (Bool × Nat)) : List Nat := (l.filter Prod.fst).map Prod.snd

/-- The operator's input, when it names one. -/
def Image.input (i : Image) (k : Nat) : Option OpRec := if k < i.nOps then some (i.op k) else none

/-- An operator that writes no slabs (R284, R309). -/
def OpRec.noSlabs (o : OpRec) : Bool := o.cls == 8 && (o.code == 2 || o.code == 3)

/-- Sizes of the columns of an operator's output slabs, 0 for a STRING column (R276, R284, R310); none where the
operator's own rules give no list of columns here. -/
def Image.columns (i : Image) : Nat → OpRec → Option (List Nat)
  | 0, _ => none
  | fuel + 1, o =>
    let up := (i.input o.in0).bind (i.columns fuel)
    if o.cls = 7 && o.code = 1 then some [8, 4, 8, 8, 2, 1]
    else if o.cls = 7 && o.code = 2 then
      up.map fun cs => let d := cfgField (i.cfg o) (3, 0, 8); if d < cs.length then cs.set d 0 else cs ++ [0]
    else if o.cls = 8 && o.code = 1 then up.map (· ++ [4, 4])
    else none

def Image.cols (i : Image) (o : OpRec) : Option (List Nat) := i.columns (i.nOps + 1) o

/-- The input slabs' columns; codes when the input is missing or writes no slabs. -/
def Image.slabInput (i : Image) (o : OpRec) : Option (List Nat) × Bool :=
  match i.input o.in0 with
  | none => (none, o.in0 == 0xFFFF)
  | some p => (i.cols p, p.noSlabs)

/-- The plan claims a region (type 4 STORE_MEM or 5 HBM) of at least some bytes. -/
def Image.regionHolds (i : Image) (hbm : Bool) (id bytes : Nat) : Bool :=
  (i.claimsOf (if hbm then 5 else 4)).any fun c => c.2.arg % 16 == id && bytes ≤ c.2.amount

/-! ## STREAM -/

def checkDesc (d : Desc) (tiles tmBytes : Nat) : List Nat :=
  codes [(!d.fieldsOk || d.peal ≥ 2 ^ tiles, 10),
    (d.tmBase + d.ringBytes > tmBytes || d.cplOff + 32 > tmBytes, 12),
    (d.tmBase < d.cplOff + 32 && d.cplOff < d.tmBase + d.ringBytes, 10)]

/-- Tiles that the plan claims. -/
def Image.tileCount (i : Image) : Nat :=
  match (i.claimsOf 1).head? with
  | some c => if c.2.flags % 2 = 1 then c.2.amount else popcount 64 c.2.amount
  | none => 0

/-- The descriptors of a STREAM operator's configuration block, 128 B each (R76, log 70). -/
def Image.descsOf (i : Image) (o : OpRec) : List Desc :=
  (List.range (o.cfgBytes / 128)).map fun k => parseDesc (slice (i.cfg o) (128 * k) 128)

def Image.checkStream (i : Image) (o : OpRec) : List Nat :=
  codes [(o.cfgBytes == 0 || o.cfgBytes % 128 != 0, 10)] ++
    (i.descsOf o).flatMap fun d => checkDesc d i.tileCount (i.amount 3) ++
      codes [(d.ownEn && (d.ownTable ≥ i.amount 8 || d.space != 0), 10)]

/-! ## SELECT -/

def Image.checkSelect (i : Image) (o : OpRec) : List Nat :=
  let c := i.cfg o
  let f := fun off lo w => cfgField c (off, lo, w)
  let nt := popcount 64 (i.stage o.stage).tileSet
  let lists := if o.code = 3 then (f 8 0 32 + f 4 0 16 - 1) / max (f 4 0 16) 1 else nt
  let d := parseDesc (slice c 0x40 128)
  let fields : List CField := [(0, 0, 6), (1, 0, 7), (2, 0, 8), (3, 0, 8), (4, 0, 16), (8, 0, 32), (0xC, 0, 32),
    (0x10, 0, 64), (0x18, 0, 5), (0x20, 0, 64), (0x28, 0, 32), (0x2C, 0, 23)]
  if o.code = 0 || o.code > 3 || o.cfgBytes != (if o.code = 3 then 192 else 64) then [10]
  else
    codes [(!resvZero (c.take 64) fields || f 0 0 4 > 13 || f 1 0 7 = 0 || f 1 0 7 > 64, 10),
      (o.code != 1 && (f 0xC 0 32 = 0 || f 0xC 0 32 > 2 ^ 24 || f 0x20 0 64 % 64 != 0), 10),
      (o.code != 1 && !i.regionHolds (f 0x18 4 1 == 1) (f 0x18 0 4) (f 0x20 0 64 + f 0xC 0 32 * lists * 1088), 12),
      (o.code == 3 && (f 4 0 16 = 0 || f 8 0 32 = 0 || f 8 0 32 > 2 ^ 24 || (f 0 5 1 = 1 && lists != 1)), 10),
      (o.code == 1 && (f 0x28 0 32 = 0 || f 0x28 0 32 > 2 ^ 24 || f 0x2C 0 23 % 64 != 0), 10),
      (o.code == 1 && f 0x2C 0 23 + f 0x28 0 32 * 32 > i.amount 3, 12)] ++
    (if o.code = 3 then checkDesc d i.tileCount (i.amount 3) ++
      codes [(d.write || d.conv != 0 || d.indexed || d.peal != 0, 10)] else [])

/-! ## ORDER -/

def Image.paramOk (i : Image) (k : Nat) : Bool := k < i.nParams && (i.param k).ty == 0

def Image.checkOrder (i : Image) (assist : Bool) (o : OpRec) : List Nat :=
  let c := i.cfg o
  let f := fun off lo w => cfgField c (off, lo, w)
  if o.cfgBytes != 64 && o.code != 4 then [10]
  else match o.code with
  | 1 =>
    let fields : List CField := [(0, 0, 1), (1, 0, 8), (2, 0, 8), (3, 0, 8), (4, 0, 16), (6, 0, 16), (8, 0, 16),
      (0xA, 0, 2), (0xC, 0, 20)]
    codes [(!resvZero c fields || f 4 0 16 = 0 || f 4 0 16 > 1024 || f 6 0 16 ≥ f 4 0 16 || f 8 0 16 = 0 ||
        f 6 0 16 + f 8 0 16 > f 4 0 16 || f 0xA 0 2 = 3, 10),
      (i.chunkUnit != 3, 10),
      ((i.ops.filter fun p => p.cls == 7 && p.code == 1).length > 1, 10),
      (assist && f 0 0 1 = 1 && f 3 0 8 = 0xFF, 10),
      ((i.claimsOf 16).isEmpty, 12),
      (!i.paramOk (f 1 0 8) || !i.paramOk (f 2 0 8) || (f 3 0 8 != 0xFF && !i.paramOk (f 3 0 8)), 33)]
  | 2 =>
    let fields : List CField := [(0, 0, 3), (1, 0, 5), (2, 0, 8), (3, 0, 8), (4, 0, 5), (8, 0, 64), (0x10, 0, 20),
      (0x14, 0, 32)]
    let inp := i.slabInput o
    codes [(!resvZero c fields || f 0 0 2 = 3 || f 1 0 5 = 0 || f 1 0 5 > 16 || f 4 0 5 < 4 || f 4 0 5 > 24 ||
        f 8 0 64 % 256 != 0 || f 0x14 0 32 > 60000, 10),
      (o.in1 != 0xFFFF || inp.2, 10),
      (match inp.1 with
       | some cs => f 2 0 8 ≥ cs.length || f 3 0 8 > cs.length
       | none => false, 10)]
  | 3 =>
    let fields : List CField := [(0, 0, 2), (1, 0, 8), (2, 0, 8), (4, 0, 32), (8, 0, 32), (0xC, 0, 32), (0x10, 0, 32),
      (0x14, 0, 23), (0x18, 0, 12)]
    codes [(!resvZero c fields || f 0 0 2 = 3 || f 4 0 32 = 0 || f 4 0 32 > 65536 || f 0x14 0 23 % 4096 != 0 ||
        f 0x18 0 12 = 0 || f 0x18 0 12 > 2048, 10),
      (f 0x14 0 23 + f 0x18 0 12 * 4096 > i.amount 3, 12)]
  | 4 => []
  | _ => [10]

/-! ## EMIT -/

/-- The window records of the plan's WINDOWS operator (R301). -/
def parseWindow (c : List Byte) : OwnWindow × Nat × Bool × Nat :=
  let w := bytesAt c 0x18 4
  let r := bytesAt c 0x1C 4
  ({ base := bytesAt c 0 8, limit := bytesAt c 8 8, stride := bytesAt c 0x10 8, space := bitsOf w 1 0
     pasid := bitsOf w 21 2, consumer := bitsOf w 31 22, region := bitsOf r 3 0, hbm := bitsOf r 4 4 == 1 }, bitsOf r 3 0, bitsOf r 4 4 == 1, bitsOf r 31 5)

def Image.windows (i : Image) : List (OwnWindow × Nat × Bool × Nat) :=
  match i.findOp 8 3 with
  | some (_, o) => (List.range (o.cfgBytes / 32)).map fun k => parseWindow (slice (i.cfg o) (32 * k) 32)
  | none => []

/-- Ring slots and reorder depth of local queue n. -/
def Image.queueClaim (i : Image) (n : Nat) : Option ClaimRec := (i.claimsOf 9)[n]?.map Prod.snd

/-- Memory-side size of a tensor column: source column's size and its CONV (R297, R302); none when refused. -/
def convSize (src conv : Nat) : Option Nat :=
  let d : Desc := { conv := conv, write := true, elem := src, ndim := 1, counts := [1] }
  if conv = 0 then some src
  else match d.convTypes with
    | some (t, m) => if src = tyWidth t / 8 && conv % 128 != 9 then some (tyWidth m / 8) else none
    | none => none

/-- A window record's checks at admission (R301, R304); `amount` is the plan's CONSUMERS claim. -/
def Image.windowCodes (i : Image) (w : OwnWindow × Nat × Bool × Nat) : List Nat :=
  codes [(w.2.2.2 != 0 || w.1.space = 3 || w.1.limit = 0 || w.1.limit > 2 ^ 48 ||
      (w.1.space != 0 && (w.2.1 != 0 || w.2.2.1)), 10),
    (w.1.consumer ≥ i.amount 15, 12),
    (w.1.space = 0 && !i.regionHolds w.2.2.1 w.2.1 (w.1.base + w.1.limit), 12)]

/-- The tensor header and entries of a TENSOR operator's configuration block (R302). -/
def parseEntry (c : List Byte) : OwnEntry × Nat :=
  let w := bytesAt c 8 4
  ({ off := bytesAt c 0 8, owner := bitsOf w 9 0, win := bitsOf w 25 16, valid := bitsOf w 31 31 == 1 },
   bitsOf w 15 10 + bitsOf w 30 26 + bytesAt c 0xC 4)

/-- A column record: source, conversion, row offset, reserved bits. -/
def Image.tensorCols (i : Image) (o : OpRec) : List (Nat × Nat × Nat × Nat) :=
  let c := i.cfg o
  (List.range (bytesAt c 1 1)).map fun k =>
    let b := slice c (64 + 8 * k) 8
    (bytesAt b 0 1, bytesAt b 1 1, bytesAt b 2 4, bytesAt b 6 2)

/-- Sizes of a tensor's columns at the memory side, where the source column's size is known. -/
def Image.tensorSizes (i : Image) (o : OpRec) : List (Option Nat) :=
  let cs := ((i.input (bytesAt (i.cfg o) 0x18 2)).bind i.cols).getD []
  (i.tensorCols o).map fun c => if c.1 = 0xFE then none else (cs[c.1]?).bind fun sz => convSize sz c.2.1

def Image.parseTensor (i : Image) (o : OpRec) (queue : Nat) (samples : Nat) : OwnTable :=
  let c := i.cfg o
  let n := bytesAt c 1 1
  { lt := bytesAt c 0 1 % 64, layout := bytesAt c 0 1 / 64, e := bytesAt c 2 2, rowBytes := bytesAt c 4 4
    b0 := bytesAt c 8 4, b1 := bytesAt c 0xC 4, pitch := bytesAt c 0x10 4, t0 := bytesAt c 0x14 2, t1 := bytesAt c 0x16 2
    samples := samples, queue := queue
    colSizes := (i.tensorSizes o).filterMap id
    entries := (List.range (bytesAt c 0x1C 2)).map fun k => (parseEntry (slice c (64 + 8 * n + 16 * k) 16)).1 }

/-- Largest local offset of a block plus 1, with the full B0 and B1 (R303, R304). -/
def OwnTable.extent (t : OwnTable) : Nat :=
  let loc := fun c0 c1 =>
    if t.layout = 0 then c1 * (if t.pitch = 0 then t.b0 else t.pitch) + c0
    else if t.layout = 1 then (c0 / max t.e 1) * (if t.pitch = 0 then t.b1 * t.e else t.pitch) + c1 * t.e + c0 % max t.e 1
    else ((c1 / max t.t1 1) * ((t.b0 + t.t0 - 1) / max t.t0 1) + c0 / max t.t0 1) * t.t0 * t.t1 +
      (c1 % max t.t1 1) * t.t0 + c0 % max t.t0 1
  let edge := (t.b0 - 1) / max t.e 1 * t.e
  max (loc (t.b0 - 1) (t.b1 - 1)) (if edge = 0 then 0 else loc (edge - 1) (t.b1 - 1)) + 1

/-- The checks of a valid entry against its window (R304). -/
def OwnTable.entryOk (t : OwnTable) (ws : List OwnWindow) (slots : Nat) (e : OwnEntry) : Bool :=
  !e.valid || match ws[e.win]? with
    | none => false
    | some w =>
      (w.stride == 0 || e.off + t.extent ≤ w.stride) && (slots - 1) * w.stride + e.off + t.extent ≤ w.limit &&
        e.owner == w.consumer

/-- The checks of a tensor's shape (R302, R304). -/
def OwnTable.shapeOk (t : OwnTable) : Bool :=
  t.layout != 3 && 1 ≤ t.rowBytes && t.rowBytes ≤ 2 ^ 24 && 1 ≤ t.b0 && t.b0 ≤ t.rowBytes && 1 ≤ t.b1 &&
    t.b1 ≤ t.samples && (if t.layout = 1 then 1 ≤ t.e && t.e ≤ 64 else t.e == 0) &&
    (t.layout != 2 || (t.pitch == 0 && t.t0 != 0 && t.b0 % t.t0 == 0 && t.t1 != 0 && t.b1 % t.t1 == 0)) &&
    t.entries.length == ((t.rowBytes + t.b0 - 1) / t.b0) * ((t.samples + t.b1 - 1) / t.b1) &&
    1 ≤ t.entries.length && t.entries.length ≤ 4096 &&
    t.colSizes.all fun z => z != 0 && t.b0 % z == 0

def Image.checkEmit (i : Image) (o : OpRec) (k : Nat) : List Nat :=
  let c := i.cfg o
  let f := fun off lo w => cfgField c (off, lo, w)
  let same := fun (code : Nat) (key : Nat) => ((List.range i.nOps).filter fun j =>
    j != k && (i.op j).cls == 8 && (i.op j).code == code && bytesAt (i.cfg (i.op j)) 0 1 % 64 == key).length > 0
  match o.code with
  | 1 =>
    let fields : List CField := [(0, 0, 8), (1, 0, 8), (4, 0, 32), (8, 0, 10), (0x10, 0, 64), (0x18, 0, 64)]
    let inp := i.slabInput o
    let slots := ((i.queueClaim (f 0 0 6)).map ClaimRec.amount).getD 0
    let fb := (f 4 0 32 + 255) / 256 * 64
    if o.cfgBytes != 64 then [10]
    else codes [(!resvZero c fields || f 4 0 32 = 0 || f 4 0 32 > 2 ^ 24 || f 0x10 0 64 % 256 != 0 ||
        f 0x18 0 64 % 64 != 0 || o.in1 != 0xFFFF || inp.2, 10),
      (match inp.1 with | some cs => f 1 0 8 ≥ cs.length | none => false, 10),
      (same 1 (f 0 0 6), 10),
      (i.realtime && f 0 6 1 = 1, 10),
      ((i.queueClaim (f 0 0 6)).isNone, 12),
      (match i.windows[f 8 0 10]? with
       | some w => f 0x10 0 64 + slots * 256 > w.1.limit || f 0x18 0 64 + slots * fb > w.1.limit
       | none => true, 10)]
  | 2 =>
    let n := f 1 0 8
    let nb := f 0x1C 0 16
    let b := i.input (f 0x18 0 16)
    let bOk := match b with | some b => b.cls == 8 && b.code == 1 | none => false
    let bcfg := match b with | some b => i.cfg b | none => []
    let samples := bytesAt bcfg 4 4
    let lq := bytesAt bcfg 0 1 % 64
    let t := i.parseTensor o 0 samples
    let slots := ((i.queueClaim lq).map ClaimRec.amount).getD 0
    let ncols := ((b.bind i.cols).map List.length)
    if o.cfgBytes < 64 || o.cfgBytes != 64 + 8 * n + 16 * nb then [10]
    else codes [(n = 0 || n > 64 || !bOk || o.in0 != f 0x18 0 16 || o.in1 != 0xFFFF || !t.shapeOk ||
        bytesAt c 0x1E 8 + leNat (slice c 0x26 0x1A) != 0, 10),
      ((List.zip (i.tensorCols o) (i.tensorSizes o)).any fun q =>
        q.1.2.2.2 != 0 || (if q.1.1 = 0xFE then q.1.2.1 != 0
          else (match ncols with | some m => decide (q.1.1 ≥ m) || (q.2.isNone && q.1.2.1 != 0) | none => false)) ||
        q.1.2.2.1 + q.2.getD 1 > t.rowBytes, 10),
      ((List.range nb).any fun j => (parseEntry (slice c (64 + 8 * n + 16 * j) 16)).2 != 0, 10),
      (!t.entries.all (t.entryOk (i.windows.map Prod.fst) slots), 10),
      (same 2 (f 0 0 6), 10),
      (f 0 0 6 ≥ i.amount 8 || nb > ((i.claimsOf 8).head?.map fun p => p.2.arg).getD 0, 12)]
  | 3 =>
    if o.cfgBytes = 0 || o.cfgBytes % 32 != 0 then [10]
    else codes [((i.ops.filter fun p => p.cls == 8 && p.code == 3).length > 1, 10),
      (o.cfgBytes / 32 > ((i.claimsOf 15).head?.map fun p => p.2.arg).getD 0, 12)] ++
      i.windows.flatMap i.windowCodes
  | _ => [10]

/-! ## FLOW -/

def Image.checkFlow (i : Image) (o : OpRec) : List Nat :=
  let c := i.cfg o
  let f := fun off lo w => cfgField c (off, lo, w)
  let only := fun (code : Nat) => (i.ops.filter fun p => p.cls == 9 && p.code == code).length ≤ 1
  if o.cfgBytes != 64 then [10]
  else match o.code with
  | 1 => codes [(!resvZero c [(8, 0, 64)] || !only 1 || i.chunkUnit != 4, 10), ((i.claimsOf 7).isEmpty, 12)]
  | 2 =>
    let fields : List CField := [(0, 0, 5), (1, 0, 5), (2, 0, 1), (8, 0, 64), (0x10, 0, 32)]
    codes [(!resvZero c fields || f 1 0 5 = 0 || f 1 0 5 > 16 || f 8 0 64 > 2 ^ 62 ||
        f 1 0 5 > ((i.claimsOf 11).head?.map fun p => p.2.arg).getD 0, 10),
      (f 0 0 5 ≥ i.amount 11, 12)]
  | 3 =>
    let fields : List CField := [(0, 0, 4), (1, 0, 8), (4, 0, 32), (8, 0, 32)]
    codes [(!resvZero c fields || !only 3 || !i.realtime || f 4 0 32 < 256 || f 8 0 32 = 0 ||
        i.amount 14 / 2 ^ f 0 0 4 % 2 = 0, 10),
      (!i.paramOk (f 1 0 8), 33)]
  | _ => [10]

end Sys2Proof.Machine
end

