-- ==== Sys2Proof/Machine/OpCheck2.lean ====
section
/-!
DEFINITION. What admission checks of the operators of classes DECODE, JOIN and SEARCH (R111 to R113, R198 to R200,
R211, R217, R218, R227, R228), of the expression code (R163), and of all operators together.
-/

namespace Sys2Proof.Machine

/-! ## DECODE -/

/-- Codes of Table DEC-6. -/
def codecKnown (c : Nat) : Bool := c ≤ 7 || c == 15

/-- The least HIST_LOG2 that an operator's codec needs (R113). -/
def histNeed (code codec : Nat) : Nat :=
  if code = 2 || code = 3 then 16
  else if 2 ≤ codec && codec ≤ 4 then 15
  else if codec ≥ 5 then 16 else 10

/-- The plan's history size, log2 (R113). -/
def Image.histLog2 (i : Image) : Nat := ((i.claimsOf 10).head?.map fun p => p.2.arg % 32).getD 0

/-- Column records of a DECODE operator: their tile-memory dictionary areas. -/
def Image.decCol (i : Image) (o : OpRec) (k : Nat) : List Byte := slice (i.cfg o) (0xC0 + 32 * k) 32

def decColOk (code : Nat) (c : List Byte) : Bool :=
  let f := fun off lo w => cfgField c (off, lo, w)
  let len := f 4 0 16
  f 6 0 8 ≤ 15 && f 7 2 6 == 0 && f 0x1C 0 32 == 0 && f 0x18 0 23 % 64 == 0 && f 0x18 23 9 == 0 &&
    (if code = 6 || code = 5 then 1 ≤ len && len ≤ 64 else len == 0) &&
    (code != 5 || f 0 0 32 == 0) && (code == 5 || f 0x10 0 32 == 0) && (code == 2 || f 0x14 0 32 == 0)

/-- Two spans of tile memory overlap. -/
def spansMeet (a b : Nat × Nat) : Bool := a.2 != 0 && b.2 != 0 && a.1 < b.1 + b.2 && b.1 < a.1 + a.2

def Image.checkDecode (i : Image) (o : OpRec) : List Nat :=
  let c := i.cfg o
  let f := fun off lo w => cfgField c (off, lo, w)
  let n := f 1 0 8
  let nd := f 2 0 8
  let packs := o.code ≥ 0x10
  let d := parseDesc (slice c 0x40 128)
  let ring := (f 0x14 0 23, f 0x18 0 12 * 4096)
  let dicts := (List.range n).map fun k => let b := i.decCol o k; (cfgField b (0x18, 0, 23), cfgField b (0x14, 0, 32))
  let fields : List CField := [(0, 0, 8), (1, 0, 8), (2, 0, 8), (3, 0, 3), (4, 0, 8), (6, 0, 16), (8, 0, 64),
    (0x10, 0, 16), (0x12, 0, 8), (0x13, 0, 5), (0x14, 0, 23), (0x18, 0, 12), (0x1A, 0, 16), (0x1C, 0, 32),
    (0x20, 0, 4), (0x20, 8, 4), (0x24, 0, 32), (0x28, 0, 32)]
  let known := (1 ≤ o.code && o.code ≤ 7) || o.code == 0x10 || o.code == 0x11
  let noCols := o.code == 1 || o.code == 0x10
  if !known || o.cfgBytes != 0xC0 + 32 * n + 16 * nd then [10]
  else codes [(!resvZero (c.take 64) fields, 10),
    (!codecKnown (f 0 0 8) || ((o.code = 2 || o.code = 3 || o.code = 7 || o.code = 0x11) && f 0 0 8 != 0), 10),
    ((if noCols then n != 0 else n = 0 || n > 64) || nd > 16, 10),
    (o.code == 4 && (f 4 0 8 = 0x22 || f 4 0 8 = 0x0D || f 4 0 8 = 0x0A), 10),
    (f 6 0 16 = 0 || f 6 0 16 > 4096 || f 8 0 64 < 4096 || f 8 0 64 > 2 ^ 40 || f 0x10 0 16 > 4096, 10),
    (f 0x12 0 8 ≥ i.tileCount, 10),
    (if o.code = 0x10 then f 0x13 0 5 < 17 || f 0x13 0 5 > 23 else f 0x13 0 5 != 0, 10),
    (ring.1 % 4096 != 0 || f 0x18 0 12 = 0 || f 0x18 0 12 > 2048 || ring.1 + ring.2 > i.amount 3, 10),
    (dicts.any fun a => a.1 + a.2 > i.amount 3 || spansMeet a ring, 10),
    ((List.range n).any fun j => (List.range j).any fun k => spansMeet (dicts.getD j (0, 0)) (dicts.getD k (0, 0)), 10),
    (if o.code = 6 then f 0x1C 0 32 = 0 || f 0x1C 0 32 > 65536 else f 0x1C 0 32 != 0, 10),
    (f 0x20 8 4 < 4 || f 0x24 0 32 % 32 != 0, 10),
    (packs && (f 0x28 0 32 < 65536 || f 0x28 0 32 > 8388608), 10),
    ((List.range n).any fun k => !decColOk o.code (i.decCol o k), 10),
    ((List.range nd).any fun k =>
      let b := slice c (0xC0 + 32 * n + 16 * k) 16
      bytesAt b 8 4 = 0 || bytesAt b 8 4 > min 2097152 (2 ^ i.histLog2) || bytesAt b 0xC 4 != 0 ||
        bytesAt b 4 4 + bytesAt b 8 4 > i.constBytes, 10),
    (!packs && i.histLog2 < histNeed o.code (f 0 0 8), 10),
    (d.write != packs || d.tmBase != 0 || d.tmPages != 0 || d.cplOff != 0 || d.conv != 0 && !packs ||
      d.peal != 0 || (d.indexed && !packs) || (d.ownEn && !packs) || (packs && d.combine != 0) ||
      !({ d with tmPages := 1 } : Desc).fieldsOk, 10),
    (!i.regionHolds false (f 0x20 0 4) (f 0x24 0 32 + 32 * 2 ^ f 0x20 8 4) && o.code != 0x10 && o.code != 0x11, 12)]

/-- Local tiles of the decoding operators (codes 0x01 to 0x07), in operator order (R114). -/
def Image.decOps (i : Image) : List (Nat × Nat) :=
  ((List.range i.nOps).filter fun k => (i.op k).cls == 2 && (i.op k).code ≤ 7).map fun k =>
    (k, bytesAt (i.cfg (i.op k)) 0x12 1)

/-! ## JOIN -/

def Image.joinField (i : Image) (o : OpRec) (off lo w : Nat) : Nat := cfgField (i.cfg o) (off, lo, w)

/-- A column record's fields: role, source, function, type, destination, reserved. -/
def Image.joinCol (i : Image) (o : OpRec) (k : Nat) : List Nat :=
  let x := bytesAt (i.cfg o) (64 + 8 * k) 8
  [bitsOf x 2 0, bitsOf x 15 8, bitsOf x 23 16, bitsOf x 31 24, bitsOf x 39 32, bitsOf x 7 3 + bitsOf x 63 40]

/-- Bytes of a type of Table DEC-4: 12 BOOL 1, 14 TS_NS 8, 15 DEC128 16; 0 for STRING. -/
def outTypeBytes (t : Nat) : Nat :=
  if t ≤ 11 then tyWidth t / 8 else if t = 12 then 1 else if t = 14 then 8 else if t = 15 then 16 else 0

/-- BUILD and AGG declare a table (R199). -/
def OpRec.declares (o : OpRec) : Bool := o.cls == 4 && (o.code == 1 || o.code == 3)

/-- The operator that declares a handle. -/
def Image.declarer (i : Image) (h : Nat) : Option OpRec :=
  i.ops.find? fun o => o.declares && i.joinField o 0 0 4 == h

/-- The table has an as-of time column: a TIME column among the declaring records. -/
def Image.hasTime (i : Image) (o : OpRec) : Bool :=
  (List.range (i.joinField o 5 0 8)).any fun k => (i.joinCol o k).getD 0 0 == 2

/-- ENTRY_BYTES (R192) and SHARE (R200) of a declared table. -/
def Image.entryBytes (i : Image) (o : OpRec) : Nat :=
  8 + (if i.joinField o 1 3 1 = 1 then 32 else (i.joinField o 2 0 8 + 7) / 8 * 8) + (if i.hasTime o then 8 else 0) +
    i.joinField o 3 0 8
/-- An AGG table with a DISTINCT record has a sketch region behind its entry area (R207). -/
def Image.hasSketch (i : Image) (o : OpRec) : Bool :=
  (List.range (i.joinField o 5 0 8)).any fun k => let q := i.joinCol o k; q.getD 0 0 == 5 && q.getD 2 0 == 9
def Image.shareBytes (i : Image) (o : OpRec) : Nat :=
  (i.joinField o 0x10 0 32 * 64 + i.joinField o 0x14 0 32 * (i.entryBytes o + if i.hasSketch o then 12288 else 0) +
    i.joinField o 0x18 8 24 * 1024 + 63) / 64 * 64

def Image.checkJoin (i : Image) (o : OpRec) : List Nat :=
  let c := i.cfg o
  let f := fun off lo w => cfgField c (off, lo, w)
  let n := f 5 0 8
  let nt := popcount 64 (i.stage o.stage).tileSet
  let fields : List CField := [(0, 0, 7), (1, 0, 8), (2, 0, 8), (3, 0, 8), (4, 0, 5), (5, 0, 8), (6, 0, 16), (8, 0, 64),
    (0x10, 0, 32), (0x14, 0, 32), (0x18, 0, 4), (0x18, 8, 24), (0x20, 0, 64), (0x28, 0, 64), (0x30, 0, 4), (0x30, 8, 56),
    (0x38, 0, 64)]
  let decl := o.declares
  let str := f 1 3 1 = 1
  let keys := ((List.range n).filter fun k => (i.joinCol o k).getD 0 0 == 0).map fun k =>
    outTypeBytes ((i.joinCol o k).getD 3 0)
  let place := f 1 0 2
  let end_ := f 0x20 0 64 + i.shareBytes o * (if place = 0 then 1 else nt)
  let dec := i.declarer (f 0 0 4)
  if o.code = 0 || o.code > 5 || o.cfgBytes != 64 + 8 * n then [10]
  else codes [(!resvZero (c.take 64) fields || n = 0 || n > 64 || f 0 4 3 > 4 || (o.code != 2 && f 0 4 3 != 0), 10),
    ((List.range n).any fun k => let q := i.joinCol o k; q.getD 5 0 != 0 || q.getD 0 0 > 5 || q.getD 3 0 > 15, 10),
    (decl && (place = 3 || (if str then f 2 0 8 != 0 else f 2 0 8 = 0 || f 2 0 8 > 32) || f 3 0 8 > 248 ||
      f 3 0 8 % 8 != 0 || f 4 0 3 > 6 || f 6 0 16 > 1024 || f 0x10 0 32 = 0 || f 0x10 0 32 > 2 ^ 26 ||
      f 0x14 0 32 = 0 || (!str && f 0x18 8 24 != 0) || (place = 0 && f 0x18 0 4 != 0) || f 0x30 8 56 % 64 != 0), 10),
    (decl && !str && keys.sum != f 2 0 8, 10),
    (decl && (List.range n).any fun k => let q := i.joinCol o k; q.getD 0 0 == 1 && q.getD 3 0 == 13, 10),
    (decl && (i.ops.filter fun p => p.declares && i.joinField p 0 0 4 == f 0 0 4).length > 1, 10),
    (!decl && (place != 0 || str || f 2 0 8 != 0 || f 3 0 8 != 0 || f 0x10 0 32 != 0 || f 0x14 0 32 != 0 ||
      f 0x18 0 32 != 0 || f 0x20 0 64 != 0 || f 0x38 0 64 != 0), 10),
    (!decl && (match dec with
      | none => true
      | some p => (o.code = 2 && p.stage == o.stage) ||
          (p.stage != o.stage && (i.stage o.stage).preds / 2 ^ p.stage % 2 = 0)), 10),
    (decl && (match place with
      | 0 => decide (end_ > i.amount 3)
      | 1 => !i.regionHolds false (f 0x18 0 4) end_
      | _ => !i.regionHolds true (f 0x18 0 4) end_), 12),
    (decl && f 0x38 0 64 != 0 && !i.regionHolds true (f 0x30 0 4) (f 0x30 8 56 + f 0x38 0 64), 12)]

/-! ## SEARCH -/

/-- The entry of a command or load record; none when it breaks Table CAR-1 (R214). -/
def parseCarRec (r : List Byte) : Option CarEntry :=
  let w := bytesAt r 0x48 4
  if w % 2 = 1 && bitsOf w 7 1 == 0 && bitsOf w 31 17 == 0 && bytesAt r 0x4C 52 == 0 then
    some { key := bytesAt r 0 32, mask := bytesAt r 0x20 32, data := bytesAt r 0x40 8 }
  else none

/-- The rules of the table's KIND (R245, R247). -/
def kindOk (kind : Nat) (e : CarEntry) : Bool :=
  if kind = 1 then
    (List.range 32).any fun l => e.mask == 2 ^ (8 * (l + 1)) - 1 && e.data / 2 ^ 32 % 256 == l + 1 && e.data / 2 ^ 40 == 0
  else if kind = 2 then (List.range 65).any fun l => e.mask == 2 ^ 64 - 2 ^ (64 - l)
  else true

/-- The records before the first refused one, and whether one was refused (R235). -/
def goodRecs (kind : Nat) : List (List Byte) → List CarEntry × Bool
  | [] => ([], false)
  | r :: rs =>
    match parseCarRec r with
    | some e => if kindOk kind e then let q := goodRecs kind rs; (e :: q.1, q.2) else ([], true)
    | none => ([], true)

/-- Records of 128 B. -/
def cutRecs (n : Nat) (bs : List Byte) : List (List Byte) := (List.range n).map fun k => slice bs (128 * k) 128

/-- Table operators in ascending LT. -/
def Image.tableOps (i : Image) : List OpRec :=
  (List.range 16).flatMap fun lt => i.ops.filter fun o => o.cls == 5 && o.code == 1 && cfgField (i.cfg o) (0, 0, 4) == lt

def Image.tableBells (i : Image) (o : OpRec) : Nat :=
  let c := i.cfg o
  cfgField c (1, 0, 6) * 2 ^ cfgField c (2, 0, 2) * (1 + cfgField c (0, 6, 1))

def Image.bellArg (i : Image) : Nat := ((i.claimsOf 6).head?.map fun p => p.2.arg % 32).getD 0

def Image.checkSearch (i : Image) (o : OpRec) : List Nat :=
  let c := i.cfg o
  let f := fun off lo w => cfgField c (off, lo, w)
  let fields : List CField := [(0, 0, 7), (1, 0, 6), (2, 0, 2), (3, 0, 3), (4, 0, 16), (6, 0, 8), (7, 0, 4), (8, 0, 64),
    (0x10, 0, 32), (0x14, 0, 2), (0x14, 4, 4), (0x18, 0, 64), (0x20, 0, 32), (0x24, 0, 1)]
  if o.code = 0 || o.code > 4 || o.cfgBytes != 64 then [10]
  else if o.code = 1 then
    codes [(!resvZero c fields || f 0 4 2 = 3 || f 1 0 6 = 0 || f 1 0 6 > 32 || f 2 0 2 = 3 || f 3 0 2 ≥ 2 ^ f 2 0 2 ||
        f 4 0 16 = 0 || f 4 0 16 > 16384 || (if f 0 4 2 = 2 then f 7 0 4 > 11 else f 7 0 4 != 0) ||
        (f 0 4 2 = 1 && f 8 0 64 != 0) || f 0x20 0 32 > 524288, 10),
      ((i.tableOps.map i.tableBells).sum > i.amount 6, 10),
      (match f 0x14 0 2 with
       | 0 => false
       | 1 => decide (f 0x18 0 64 + 128 * f 0x20 0 32 > i.constBytes)
       | k => !i.regionHolds (k == 3) (f 0x14 4 4) (f 0x18 0 64 + 128 * f 0x20 0 32), 10),
      (f 0x14 0 2 != 0 && f 0x20 0 32 > f 4 0 16 * f 1 0 6, 10),
      (f 0x14 0 2 = 1 && (goodRecs (f 0 4 2) (cutRecs (f 0x20 0 32)
        (slice i (i.constOff + f 0x18 0 64) (128 * f 0x20 0 32)))).2, 10),
      (i.bellArg + f 0 0 4 > 31, 12),
      ((i.tableOps.filter fun p => cfgField (i.cfg p) (0, 0, 4) == f 0 0 4).length > 1, 12)]
  else
    codes [(!resvZero c [(0, 0, 8), (1, 0, 8), (2, 0, 8)], 10),
      (!i.tableOps.any (fun p => cfgField (i.cfg p) (0, 0, 4) == f 0 0 8 &&
        cfgField (i.cfg p) (0, 4, 2) == o.code - 2), 10)]

/-! ## Code and operators together -/

/-- The words of the expression code. -/
def Image.code (i : Image) : List Nat := (List.range i.codeWords).map i.codeWord

/-- PROBE and CSRCH words name tables that admit their form (R211, R218, R227). -/
def Image.tableWordOk (i : Image) (w : Nat) : Bool :=
  let op := wField w 6 0
  let var := wField w 31 29
  let ty := wField w 25 22
  if op = 0x40 then
    match i.declarer ty with
    | none => true
    | some o =>
      if var = 1 then o.code == 1 && i.joinField o 3 0 8 ≤ 8 else if var = 2 then o.code == 3 else true
  else if op = 0x41 then
    i.tableOps.any fun p => cfgField (i.cfg p) (0, 0, 4) == ty && cfgField (i.cfg p) (0, 4, 2) == var
  else true

/-- R163: code 11. -/
def Image.codeFails (i : Image) : Bool :=
  let stages := (List.range i.nStages).map i.stage
  let tiled := stages.filter fun s => s.kind != 1
  i.codeBytes % 4 != 0 || (i.codeBytes == 0 && !tiled.isEmpty) ||
    tiled.any (fun s => s.entry % 4 != 0 || s.entry ≥ i.codeBytes) || !codeOk i.code i.nParams ||
    !i.code.all i.tableWordOk

/-- An operator's input is an earlier operator of its stage, or one of a stage in PRED_MASK (R54). -/
def Image.inputOk (i : Image) (k n : Nat) : Bool :=
  let o := i.op k
  n == 0xFFFF || (n < i.nOps && (let p := i.op n
    (p.stage == o.stage && n < k) || (p.stage != o.stage && (i.stage o.stage).preds / 2 ^ p.stage % 2 == 1)))

/-- The codes that the operators give; `shufAssist` is SHUF's mode. -/
def Image.opCodes (i : Image) (shufAssist : Bool) : List Nat :=
  (List.range i.nOps).flatMap (fun k =>
    let o := i.op k
    if o.resv != 0 || o.cls = 0 || o.cls > 9 || o.cfgOff + o.cfgBytes > i.constBytes ||
      !i.inputOk k o.in0 || !i.inputOk k o.in1 then [10]
    else match o.cls with
      | 1 => i.checkStream o
      | 2 => i.checkDecode o
      | 4 => i.checkJoin o
      | 5 => i.checkSearch o
      | 6 => i.checkSelect o
      | 7 => i.checkOrder shufAssist o
      | 8 => i.checkEmit o k
      | 9 => i.checkFlow o
      | _ => []) ++
    codes [(i.realtime && (i.findOp 9 3).isNone, 10)]

end Sys2Proof.Machine
end

