-- ==== Sys2Proof/Machine/Slab.lean ====
section
/-!
DEFINITION. What the decode unit makes of decoded rows: spill blocks (R139 to R141), fixed-width records (R117),
concealment (R131, R132), the bytes of slabs (R120).
-/

namespace Sys2Proof.Machine

open Sys2Proof

def pad8 (n : Nat) : Nat := (n + 7) / 8 * 8
def pad64 (n : Nat) : Nat := (n + 63) / 64 * 64
def padTo (n : Nat) (bs : List Byte) : List Byte := bs ++ List.replicate (n - bs.length) 0
/-- The bits of a list, bit r in byte r ÷ 8 at bit r mod 8. -/
def bitmap (l : List Bool) : List Byte :=
  (List.range ((l.length + 7) / 8)).map fun i =>
    byte ((List.range 8).foldl (fun n j => if l.getD (8 * i + j) false then n + 2 ^ j else n) 0)

/-! ## The spill format -/

/-- NULLABLE, VARLEN and ELEM of a spill column. -/
abbrev SpillCol := Bool × Bool × Nat

/-- The rows of a block's decoded payload, column by column: the payload's length so far, none for a malformed one. -/
def spillColumn (out : List Byte) (raw r p : Nat) (c : SpillCol) : Option (Nat × List (Option (List Byte))) :=
  let p1 := if c.1 then pad8 (p + (r + 7) / 8) else p
  let valid := fun i => !c.1 || bytesAt out (p + i / 8) 1 / 2 ^ (i % 8) % 2 == 1
  if c.2.1 then
    let at_ := fun i => bytesAt out (p1 + 4 * i) 4
    if p1 + 4 * (r + 1) > raw || at_ 0 != 0 || (List.range r).any fun i => at_ (i + 1) < at_ i then none
    else
      let base := pad8 (p1 + 4 * (r + 1))
      let p2 := base + pad8 (at_ r)
      if p2 > raw then none
      else some (p2, (List.range r).map fun i =>
        if valid i then some (slice out (base + at_ i) (at_ (i + 1) - at_ i)) else none)
  else
    let p2 := p1 + pad8 (r * c.2.2)
    if p2 > raw then none
    else some (p2, (List.range r).map fun i => if valid i then some (slice out (p1 + i * c.2.2) c.2.2) else none)

def spillColumns (out : List Byte) (raw r : Nat) : List SpillCol → Nat → Option (List (List (Option (List Byte))))
  | [], p => if p = raw then some [] else none
  | c :: cs, p =>
    match spillColumn out raw r p c with
    | none => none
    | some (q, vs) => (spillColumns out raw r cs q).map fun l => vs :: l

/-- A block header verifies: its MAGIC and HDR_CRC (R141). -/
def spillHeaderOk (b : List Byte) : Bool :=
  32 ≤ b.length && bytesAt b 0 4 == 0x4B4C4253 && crc32c (b.take 28) == bytesAt b 0x1C 4
def spillTrailerOk (b : List Byte) : Bool :=
  32 ≤ b.length && bytesAt b 0 4 == 0x444E4553 && crc32c (b.take 28) == bytesAt b 0x1C 4

/-- spill_block_check() (R140) up to the payload: a cause, 0 when the header and the sizes are good. -/
def spillHeadCause (b : List Byte) (want ratio : Nat) : Nat :=
  let codec := bytesAt b 4 1
  let stored := bytesAt b 8 4
  let raw := bytesAt b 0xC 4
  if b.length < 32 then 4
  else if bytesAt b 0 4 ≠ 0x4B4C4253 then 2
  else if crc32c (b.take 28) ≠ bytesAt b 0x1C 4 then 1
  else if codec > 2 || bytesAt b 0x10 6 != want then 2
  else if raw > 131072 then 3
  else if codec = 0 && stored != raw then 2
  else if codec != 0 && raw > ratio * stored then 3
  else if b.length < 32 + pad8 stored then 4
  else 0

/-- What reading a spill has come to: bytes not yet used and their input offset, the next row, the columns, rows read
(a value for each column, none for null), damages, the end, the payload of a compressed block. -/
structure SpillSt where
  buf : List Byte
  off : Nat
  want : Nat
  cols : Option (List SpillCol)
  rows : List (List (Option (List Byte))) := []
  dmgs : List DecDamage := []
  fin : Bool := false
  payload : Option (List Byte)
  deriving DecidableEq, Repr

/-- Damage over the next n rows; the input moves on by `skip` bytes. -/
def SpillSt.damage (x : SpillSt) (cause n skip : Nat) : SpillSt :=
  { x with dmgs := x.dmgs ++ [{ cause := cause, col := 0xFF, first := x.want, count := n, offset := x.off }]
           rows := x.rows ++ List.replicate n [], want := x.want + n, buf := x.buf.drop skip, off := x.off + skip }

/-- One file header, block or trailer; none when more input is needed. -/
def SpillSt.step (x : SpillSt) (ratio : Nat) (ended : Bool) : Option SpillSt :=
  let b := x.buf
  let short := if ended then some { x.damage 4 0 b.length with fin := true } else none
  match x.cols with
  | none =>
    let n := bytesAt b 6 2
    if b.length < 64 || b.length < 64 + 8 * n then short
    else
      let ds := slice b 64 (8 * n)
      if bytesAt b 0 4 ≠ 0x5053484E || bytesAt b 4 2 ≠ 1 || n = 0 || 64 < n then some { x.damage 2 0 b.length with fin := true }
      else if crc32c (b.take 60) ≠ bytesAt b 0x3C 4 || crc32c ds ≠ bytesAt b 0x38 4 then
        some { x.damage 1 0 b.length with fin := true }
      else
        some { x with cols := some ((List.range n).map fun k =>
                        (bytesAt ds (8 * k + 1) 1 % 2 == 1, bytesAt ds (8 * k + 1) 1 / 2 % 2 == 1, bytesAt ds (8 * k + 2) 2))
                      buf := b.drop (64 + 8 * n), off := x.off + 64 + 8 * n }
  | some cols =>
    if b.length < 32 then short
    else if bytesAt b 0 4 = 0x444E4553 then
      some (if spillTrailerOk b then { x with fin := true } else { x.damage 1 0 32 with fin := true })
    else
      let c := spillHeadCause b x.want ratio
      let r := bytesAt b 6 2 + 1
      let stored := bytesAt b 8 4
      let raw := bytesAt b 0xC 4
      let skip := 32 + pad8 stored
      if spillHeaderOk b then
        if c = 4 then (if ended then some { x.damage 4 r b.length with fin := true } else none)
        else if c != 0 then (if b.length < skip && !ended then none else some (x.damage c r skip))
        else
          let go := fun (out : List Byte) (p : Option (List Byte)) =>
            let x := { x with payload := p }
            if out.length ≠ raw then x.damage 2 r skip
            else if crc32c out ≠ bytesAt b 0x18 4 then x.damage 1 r skip
            else match spillColumns out raw r cols 0 with
              | none => x.damage 2 r skip
              | some vs => { x with rows := x.rows ++ (List.range r).map fun i => vs.map fun v => v.getD i none
                                    want := x.want + r, buf := b.drop skip, off := x.off + skip }
          if bytesAt b 4 1 = 0 then some (go (slice b 32 stored) x.payload)
          else match x.payload with
            | some p => some (go p none)
            | none => none
      else
        let found := (List.range (b.length / 8)).tail.find? fun k =>
          let t := b.drop (8 * k)
          (spillHeaderOk t && x.want < bytesAt t 0x10 6) || spillTrailerOk t
        match found with
        | some k =>
          let t := b.drop (8 * k)
          some (x.damage c ((if spillTrailerOk t then bytesAt t 0x10 8 else bytesAt t 0x10 6) - x.want) (8 * k))
        | none => if ended then some { x.damage c 0 b.length with fin := true } else none

/-- Read all that the input holds. The first argument bounds the steps. -/
def SpillSt.run : Nat → SpillSt → Nat → Bool → SpillSt
  | 0, x, _, _ => x
  | k + 1, x, ratio, ended =>
    if x.fin then x
    else match x.step ratio ended with
      | some y => y.run k ratio ended
      | none => x

/-! ## Rows -/

/-- OUT_TYPE, POLICY and DEFAULT of a column record. -/
def Image.colType (i : Image) (o : OpRec) (k : Nat) : Nat := cfgField (i.decCol o k) (6, 0, 8)
def Image.colPolicy (i : Image) (o : OpRec) (k : Nat) : Nat := cfgField (i.decCol o k) (7, 0, 2)
def Image.decCols (i : Image) (o : OpRec) : Nat := cfgField (i.cfg o) (1, 0, 8)

/-- A value of a fixed-size type as its bytes; of a string, as it is. -/
def fitValue (ty : Nat) (b : List Byte) : List Byte := if ty = 13 then b else leBytes (outTypeBytes ty) (leNat b)

/-- A field of a fixed-width record (R117): bytes of OUT_TYPE, or of a string; none where BOOL holds neither 0 nor 1.
A field of another length than its type's gives a free value (log 104). -/
def Image.fixedField (i : Image) (o : OpRec) (k : Nat) (r : List Byte) : Option (List Byte) :=
  let c := i.decCol o k
  let b := slice r (cfgField c (0, 0, 32)) (cfgField c (4, 0, 16))
  let ty := i.colType o k
  if ty = 13 then some b
  else if b.length ≠ outTypeBytes ty then some (leBytes (outTypeBytes ty) (Config.elemFree 0x10C ty (leNat b)))
  else if ty = 12 && 1 < leNat b then none else some b

/-- The DEFAULT of a column (Table DEC-4). -/
def Image.colDefault (i : Image) (o : OpRec) (k : Nat) : List Byte :=
  let ty := i.colType o k
  if ty = 13 then [] else if ty = 15 then List.replicate 16 0
  else leBytes (outTypeBytes ty) (cfgField (i.decCol o k) (8, 0, 64))

/-- A row as delivered, under concealment (R131, R132): none when dropped; else its values and whether one is
concealed. The bytes of a null that no damage made are free (log 105). -/
def Image.concealRow (i : Image) (o : OpRec) (prev : List (Option Value)) (r : HeldRow) : Option (List Value × Bool) :=
  let n := i.decCols o
  let hit := fun k => r.bad.contains k || r.bad.contains 0xFF
  if (List.range n).any fun k => hit k && i.colPolicy o k == 2 then none
  else
    some ((List.range n).map fun k =>
      let ty := i.colType o k
      let size := outTypeBytes ty
      if hit k then
        match i.colPolicy o k with
        | 0 => (false, List.replicate size 0)
        | 3 => (prev.getD k none).getD (true, i.colDefault o k)
        | _ => (true, i.colDefault o k)
      else match r.vals.getD k none with
        | some b => (true, fitValue ty b)
        | none => (false, leBytes size (Config.elemFree 0x10B r.src k)), (List.range n).any hit)

/-- The rows of a slab in the making. -/
structure SlabAcc where
  rows : List (List Value × Bool) := []
  first : Nat := 0
  src : Nat := 0
  dropped : Nat := 0
  seq : Option Nat := none
  assisted : Bool := false
  prev : List (Option Value)
  deriving DecidableEq, Repr

def Image.addRow (i : Image) (o : OpRec) (a : SlabAcc) (r : HeldRow) : SlabAcc :=
  let a := { a with first := if a.src = 0 then r.src else a.first, src := a.src + 1, seq := a.seq.orElse fun _ => r.seq
                    assisted := a.assisted || r.assisted }
  match i.concealRow o a.prev r with
  | none => { a with dropped := a.dropped + 1 }
  | some v => { a with rows := a.rows ++ [v], prev := v.1.map some }

/-- The next slab of the held rows: SLAB_ROWS delivered rows, or up to the end of an extent group. -/
def Image.nextSlab (i : Image) (o : OpRec) (n : Nat) : List HeldRow → SlabAcc → Option (SlabAcc × Bool × List HeldRow)
  | [], a => if a.rows.length = n then some (a, false, []) else none
  | r :: rs, a =>
    if a.rows.length = n then some (a, false, r :: rs)
    else
      let a := i.addRow o a r
      if r.last then some (a, true, rs) else i.nextSlab o n rs a

/-- A column's section of a slab: the validity bitmap, then values, or offsets and bytes (log 102). -/
def slabColumn (ty : Nat) (vs : List Value) : List Byte :=
  let v := bitmap (vs.map Prod.fst)
  let body := if ty = 13 then
      let offs := vs.foldl (fun (q : List Nat × Nat) x => (q.1 ++ [q.2 + x.2.length], q.2 + x.2.length)) ([0], 0)
      offs.1.flatMap (leBytes 4) ++ vs.flatMap Prod.snd
    else vs.flatMap Prod.snd
  padTo (pad64 v.length) v ++ padTo (pad64 body.length) body

/-- The bytes of a slab (Table DEC-8). -/
def Image.slabBytes (i : Image) (o : OpRec) (a : SlabAcc) (last unver : Bool) : List Byte :=
  let n := i.decCols o
  let cols := (List.range n).map fun k => slabColumn (i.colType o k) (a.rows.map fun r => r.1.getD k (false, []))
  let flags := bitmap (a.rows.map Prod.snd)
  let flags := padTo (pad64 flags.length) flags
  let start := 64 + pad64 (4 * n) + flags.length
  let offs := cols.foldl (fun (q : List Nat × Nat) c => (q.1 ++ [q.2], q.2 + c.length)) ([], start)
  let head := leBytes 4 a.rows.length ++ leBytes 4 a.dropped ++ leBytes 8 a.first ++ leBytes 4 a.src ++
    leBytes 4 (a.rows.filter Prod.snd).length ++ leBytes 4 offs.2 ++
    [byte ((if unver then 1 else 0) + (if last then 2 else 0) + (if a.assisted then 4 else 0)), byte n] ++
    leBytes 2 0 ++ leBytes 4 (a.seq.getD 0xFFFFFFFF)
  padTo 64 head ++ padTo (pad64 (4 * n)) (offs.1.flatMap (leBytes 4)) ++ flags ++ cols.flatten

end Sys2Proof.Machine
end

