-- ==== Sys2Proof/Machine/Dec.lean ====
section
/-!
DEFINITION. Decompressors and compressors (05): streams of decoding operators, their contexts and checkpoints
(R122 to R126), claimed sizes (R127, R128), damage records (R130), slabs released into rings (R120, R121), frames
passed to steward cores (R119), the echo check (R136).
-/

namespace Sys2Proof.Machine

open Sys2Proof

/-- The stream of an operator; the one that a decompressor works on. -/
def State.decOf (s : State) (slot op : Nat) : Option DecStream := s.decs.find? fun x => x.slot == slot && x.op == op
def State.decActive (s : State) (d : Nat) : Option DecStream := s.decs.find? fun x => x.dec == d && x.active
def State.setDec (s : State) (x : DecStream) : State :=
  { s with decs := s.decs.map fun y => if y.slot = x.slot ∧ y.op = x.op then x else y }

def State.decOpRec (s : State) (x : DecStream) : OpRec := (s.image x.slot).op x.op
/-- A header field of the operator (Table DEC-3). -/
def State.decF (s : State) (x : DecStream) (off lo w : Nat) : Nat := cfgField ((s.image x.slot).cfg (s.decOpRec x)) (off, lo, w)
def State.decRatio (s : State) (x : DecStream) : Nat :=
  let r := s.decF x 0x10 0 16
  if r = 0 then 64 else r
/-- Physical tile of the ring. -/
def State.decTile (s : State) (x : DecStream) : Nat := (s.slot x.slot).alloc.tiles.getD (s.decF x 0x12 0 8) 0

/-- DEC_STAT of the decompressor's active stream. -/
def State.decStat (s : State) (d : Nat) : State :=
  let pg := pgDEC d
  match s.decActive d with
  | some x =>
    ((((s.setBit pg Reg.DEC_STAT_ACTIVE true).setFld pg Reg.DEC_STAT_SLOT x.slot).setFld pg Reg.DEC_STAT_OP x.op).setFld pg
      Reg.DEC_IN_POS_POS x.inPos).setFld pg Reg.DEC_DMG_NEXT_SEQ x.dmgNext
  | none => s.setBit pg Reg.DEC_STAT_ACTIVE false

/-! ## Damage -/

/-- The policy that a record states (Table DEC-11). -/
def State.dmgPolicy (s : State) (x : DecStream) (col : Nat) : Nat :=
  let img := s.image x.slot
  let o := s.decOpRec x
  if col = 0xFF then (if (List.range (img.decCols o)).any fun k => img.colPolicy o k == 2 then 2 else 0)
  else img.colPolicy o col

/-- The error that a cause records (Table DEC-18). -/
def State.dmgErrors (s : State) (pg cause : Nat) : State :=
  let s := if cause = 9 then s.error pg Src.dec_LATE_CHECKSUM else s.error pg Src.dec_DAMAGED_INPUT
  if cause = 3 then s.error pg Src.dec_CLAIM_OVERSIZE
  else if cause = 5 then s.error pg Src.dec_UNSUPPORTED
  else if cause = 6 then s.error pg Src.dec_INPUT_POISON else s

/-- Write a damage record into the operator's ring (R130); consecutive PARSE rows of a column share one. -/
def State.writeDamage (s : State) (x : DecStream) (cause col first rows off : Nat) : State × DecStream × Nat :=
  let pg := pgDEC x.dec
  let shared := match x.lastDmg with
    | some r => if cause = 7 && r.cause = 7 && r.col = col && r.first + r.rows = first then some r else none
    | none => none
  let r : DmgRec := match shared with
    | some r => { r with rows := r.rows + rows }
    | none => { seq := x.dmgNext, cause := cause, col := col, offset := off, first := first, rows := rows }
  let rec_ := leBytes 4 r.seq ++ [byte r.cause, byte r.col] ++ leBytes 2 (x.slot + s.dmgPolicy x col * 2 ^ 8) ++
    leBytes 8 r.offset ++ leBytes 8 r.first ++ leBytes 4 (min r.rows (2 ^ 32 - 1)) ++ leBytes 2 x.op ++ leBytes 2 0
  let base := (((s.slot x.slot).alloc.store.find? fun g => g.id == s.decF x 0x20 0 4).map Region.base).getD 0
  let s := s.writeMem pg (base + s.decF x 0x24 0 32 + 32 * (r.seq % 2 ^ s.decF x 0x20 8 4)) rec_ false
  let s := (List.range 4).foldl (fun (s : State) i => s.setFld pg (Reg.DEC_DMG_LAST_WORD i) (bytesAt rec_ (8 * i) 8)) s
  let x := { x with lastDmg := some r, dmgNext := if shared.isSome then x.dmgNext else (x.dmgNext + 1) % 2 ^ 32 }
  let s := if shared.isSome then s else
    ((s.addSat pg Reg.DEC_DMG_COUNT 1).raise pg 3).setFld pg Reg.DEC_DMG_NEXT_SEQ x.dmgNext
  (s.dmgErrors pg cause, x, r.seq)

/-- A damage over rows: its record, and the held rows it affects. -/
def State.damage (s : State) (x : DecStream) (d : DecDamage) : State × DecStream :=
  let r := s.writeDamage x d.cause d.col d.first d.count d.offset
  let x := r.2.1
  (r.1, { x with held := x.held.map fun h =>
    if d.first ≤ h.src && h.src < d.first + d.count then { h with bad := d.col :: h.bad, seq := h.seq.orElse fun _ => some r.2.2 }
    else h })

/-! ## Slabs -/

/-- Write bytes at a position of the operator's ring, which wraps (R120). -/
def State.ringPut (s : State) (x : DecStream) (pos : Nat) (bs : List Byte) : State :=
  let t := s.decTile x
  let base := s.decF x 0x14 0 23
  let size := max (s.decF x 0x18 0 12 * 4096) 1
  let p := pos % size
  (s.tmWrite t (base + p) (bs.take (size - p))).tmWrite t base (bs.drop (size - p))

/-- Pages that the slabs still held take. -/
def Image.heldPages (i : Image) (o : OpRec) (n : Nat) : Nat → List HeldRow → SlabAcc → Nat
  | 0, _, _ => 0
  | k + 1, l, a =>
    if l.isEmpty then 0
    else match i.nextSlab o n l { prev := a.prev } with
      | some (b, last, rest) => ((i.slabBytes o b last false).length + 4095) / 4096 + i.heldPages o n k rest b
      | none => 1

/-- Release slabs in ring order (R121): those whose rows are verified, and the oldest unverified one while the ring has
no free page. A full slab waits until it is known whether it is the last of its group. -/
def State.releaseSlabs : Nat → State → DecStream → State × DecStream
  | 0, s, x => (s, x)
  | k + 1, s, x =>
    let img := s.image x.slot
    let o := s.decOpRec x
    let n := s.decF x 6 0 16
    let pages := s.decF x 0x18 0 12
    match img.nextSlab o n x.held { prev := x.prev } with
    | none => (s, x)
    | some (a, last, rest) =>
      let done := a.first + a.src ≤ x.verified
      let bs := img.slabBytes o a last (!done)
      let need := (bs.length + 4095) / 4096
      let used := x.released - x.freed
      let full := pages ≤ used + img.heldPages o n (x.held.length + 1) x.held { prev := x.prev }
      if (!last && rest.isEmpty && x.live) || pages < used + need || (!done && !full) then (s, x)
      else
        let s := s.ringPut x (x.released * 4096) bs
        let pg := pgDEC x.dec
        let s := ((s.perf pg 0x104 (a.rows.filter Prod.snd).length).perf pg 0x105 a.dropped).perf pg 0x106 (if done then 0 else 1)
        State.releaseSlabs k s { x with held := rest, released := x.released + need, prev := a.prev
                                        rowsDone := x.rowsDone + a.rows.length, releasedRows := a.first + a.src }

/-! ## Contexts -/

/-- Save areas of a plan, and those in use. -/
def State.saveAreas (s : State) (p : Nat) : Nat := (s.image p).amount 10 / 2 ^ 16 % 2 ^ 16
def State.areaUsed (s : State) (p a : Nat) : Bool :=
  s.decs.any fun x => x.slot == p && (x.saved == some a || x.checkpoints.any fun c => c.2 == a)
def State.freeArea (s : State) (p : Nat) : Option Nat := (List.range (s.saveAreas p)).find? fun a => !s.areaUsed p a
def State.areaAddr (s : State) (p a : Nat) : Nat :=
  (((s.slot p).alloc.saveArea.map Region.base).getD 0) + a * (2 ^ (s.image p).histLog2 + 4096)

/-- The state record of a context (Table DEC-9). -/
def State.ctxRecord (s : State) (x : DecStream) (c : DecCtx) : List Byte :=
  let h := (s.image x.slot).histLog2
  let head := leBytes 4 0x58434E44 ++ leBytes 2 1 ++ [byte c.codec, byte (s.decOpRec x).code] ++
    leBytes 2 x.slot ++ leBytes 2 x.op ++ [byte h, byte ((if c.inFrame then 1 else 0) + if c.inBlock then 2 else 0)] ++
    leBytes 2 c.dict ++ leBytes 8 x.inPos ++ leBytes 8 x.outTotal ++ leBytes 8 c.frameStart ++ leBytes 8 x.frameOut ++
    leBytes 4 c.hist.length ++ leBytes 4 c.histHead ++ leBytes 4 c.blockRemain ++ leBytes 4 c.rowBack ++
    padTo 64 (c.checksum.take 64) ++ leBytes 8 x.rowNext ++ leBytes 8 x.rowsDone ++ padTo 48 (c.levels.take 48)
  let head := padTo 0xFC head
  let tail := padTo 0xF00 (c.entropy.take 0xF00)
  head ++ leBytes 4 (crc32c (head ++ tail)) ++ tail

/-- Save a context: the history as a circular buffer, then the state record (R124, R125). -/
def State.saveCtx (s : State) (x : DecStream) (c : DecCtx) (area : Nat) : State :=
  let a := s.areaAddr x.slot area
  let n := 2 ^ (s.image x.slot).histLog2
  let pg := pgDEC x.dec
  let h := c.histHead % n
  let s := s.writeMem pg (a + h) (c.hist.take (n - h)) false
  let s := s.writeMem pg a ((c.hist.drop (n - h)).take h) false
  (s.writeMem pg (a + n) (s.ctxRecord x c) false).addWrap pg Reg.DEC_CTX_SAVES 1

/-- A stream that can run: live, its frame not with a steward core. -/
def DecStream.ready (x : DecStream) : Bool := x.live && !x.active && !x.assistWait

/-- The next stream of a decompressor after an operator, round-robin in operator order (R123). -/
def State.nextStream (s : State) (d op : Nat) : Option DecStream :=
  let l := s.decs.filter fun x => x.dec == d && x.ready
  let later := l.filter fun x => op < x.op
  let pick := fun (l : List DecStream) => l.foldl (fun (m : Option DecStream) x => match m with
    | some y => if x.op < y.op then some x else some y
    | none => some x) none
  if later.isEmpty then pick l else pick later

/-- Start the next stream of an idle decompressor; a saved one restores its context first. -/
def State.activate (s : State) (d op : Nat) : State :=
  if (s.decActive d).isSome then s.decStat d
  else match s.nextStream d op with
    | some y => (s.setDec { y with active := true, restoring := y.restoring || y.saved.isSome, blocks := 0 }).decStat d
    | none => s.decStat d

/-- Checkpoints of chunks whose batches are all committed are released (R124). -/
def State.dropCheckpoints (s : State) (p : Nat) : State :=
  { s with decs := s.decs.map fun x =>
    if x.slot = p then { x with checkpoints := x.checkpoints.filter fun c => s.chunkOpen p c.1 } else x }

/-! ## Decoding -/

/-- The claims that R127 refuses, as damages. -/
def State.badClaims (s : State) (x : DecStream) (u : DecUnit) : List DecDamage :=
  let img := s.image x.slot
  let o := s.decOpRec x
  (u.claims.filter fun c =>
    s.decF x 8 0 64 < c.decoded || s.decRatio x * c.encoded < c.decoded ||
      (c.dict && cfgField (img.decCol o c.col) (0x14, 0, 32) < c.decoded)).map fun c =>
    { cause := 3, col := c.col, first := x.rowNext + c.first, count := c.count, offset := c.offset }

/-- The damages of one step, first cause first (R129), with source rows. -/
def State.unitDamages (s : State) (x : DecStream) (u : DecUnit) (assisted : Bool) : List DecDamage :=
  let claims := if assisted then [] else s.badClaims x u
  let abs := fun (d : DecDamage) => { d with first := x.rowNext + d.first }
  let others := (u.damages.map abs).filter fun d => !claims.any fun c => c.offset == d.offset && c.col == d.col
  let stw := !(s.slot x.slot).alloc.stws.isEmpty
  let passed := match u.passed with
    | some d => if stw then [] else [{ abs d with cause := 5 }]
    | none => []
  claims ++ others ++ passed

/-- Rows cut from the decompressed bytes: FIXED records. -/
def State.fixedRows (s : State) (x : DecStream) (bs : List Byte) : List (List (Option (List Byte))) × List (Nat × Nat) × List Byte :=
  let img := s.image x.slot
  let o := s.decOpRec x
  let n := max (s.decF x 0x1C 0 32) 1
  let k := bs.length / n
  let rows := (List.range k).map fun i => (List.range (img.decCols o)).map fun j => img.fixedField o j (slice bs (i * n) n)
  let bad := rows.zipIdx.flatMap fun r => r.1.zipIdx.filterMap fun v => if v.1.isNone then some (r.2, v.2) else none
  (rows, bad, bs.drop (k * n))

/-- What one step of input decodes to: rows, damages over source rows, bytes left, and the spill's state. -/
structure Decoded where
  rows : List (List (Option (List Byte)))
  dmgs : List DecDamage := []
  carry : List Byte := []
  cols : Option (List SpillCol) := none
  fin : Bool := false
  deriving DecidableEq, Repr

def State.decodeRows (s : State) (x : DecStream) (u : DecUnit) : Decoded :=
  let o := s.decOpRec x
  match o.code with
  | 6 =>
    let bs := x.carry ++ u.bytes
    let r := s.fixedRows x bs
    let start := x.inPos - x.carry.length
    let bad : List DecDamage := r.2.1.map fun q =>
      { cause := 7, col := q.2, first := x.rowNext + q.1, count := 1, offset := start + q.1 * s.decF x 0x1C 0 32 }
    if u.inputEnd && !r.2.2.isEmpty then
      { rows := r.1 ++ [[]]
        dmgs := bad ++ [{ cause := 4, col := 0xFF, first := x.rowNext + r.1.length, count := 1
                          offset := start + r.1.length * s.decF x 0x1C 0 32 }] }
    else { rows := r.1, dmgs := bad, carry := r.2.2 }
  | 7 =>
    let st : SpillSt := { buf := x.carry ++ u.bytes, off := x.inPos - x.carry.length, want := x.rowNext, cols := x.spillCols
                          payload := if u.payload.isEmpty then none else some u.payload, fin := x.spillEnd }
    let r := st.run (st.buf.length + 1) (s.decRatio x) u.inputEnd
    { rows := r.rows, dmgs := r.dmgs, carry := if r.fin then [] else r.buf, cols := r.cols, fin := r.fin }
  | 1 => { rows := [] }
  | _ => { rows := u.rows }

/-- Bytes that the open frame may still produce (R128): none where the format states its encoded size or there is no
frame. -/
def State.frameRoom (s : State) (x : DecStream) (u : DecUnit) : Option Nat :=
  let o := s.decOpRec x
  if s.decF x 0 0 8 = 0 || u.sized then none
  else if o.code = 2 || o.code = 3 || o.code = 7 then none
  else some (min (s.decRatio x * (x.frameIn + u.consumed) + 131072) (s.decF x 8 0 64) - x.frameOut)

/-- A checksum mismatch over the rows that were to be verified next (R134). -/
def State.mismatch (s : State) (x : DecStream) (col n off : Nat) : State × DecStream :=
  let late := min n (x.releasedRows - x.verified)
  let heldN := n - late
  let r := if late = 0 then (s, x)
    else
      let q := s.writeDamage x 9 col x.verified late off
      let f := q.1.fresh
      (if s.decF x 3 1 1 = 1 then f.2.failPlan x.slot (f.1 % 64) else q.1, q.2.1)
  if heldN = 0 then r
  else r.1.damage r.2 { cause := 1, col := col, first := x.verified + late, count := heldN, offset := off }

/-- Save the checkpoint of a stream that the end of a chunk leaves open (R124). -/
def State.checkpoint (s : State) (x : DecStream) (chunk : Nat) (c : DecCtx) : State × DecStream :=
  if s.decF x 3 0 1 = 1 && c.inFrame then
    match s.freeArea x.slot with
    | some a => (s.saveCtx x c a, { x with checkpoints := (x.checkpoints.filter fun k => k.1 != chunk) ++ [(chunk, a)] })
    | none => (s, x)
  else (s, x)

/-- Chunk that a plan's stage works on. -/
def State.chunkOfOp (s : State) (x : DecStream) : Nat :=
  (((s.slot x.slot).runs.find? fun r => r.stage == (s.decOpRec x).stage).map StageRun.chunk).getD 0

/-- Whether a step has to wait (R92, R120, R124): no ring page is free, or no save area for the checkpoint. -/
def State.decStalls (s : State) (x : DecStream) (u : DecUnit) : Bool :=
  let pages := s.decF x 0x18 0 12
  let o := s.decOpRec x
  if o.code = 1 then pages * 4096 < x.bytes + u.bytes.length - x.freed * 4096
  else pages ≤ x.released - x.freed || (u.inputEnd && s.decF x 3 0 1 == 1 && u.ctx.inFrame && (s.freeArea x.slot).isNone)

/-- Bytes of DECOMPRESS go to the ring packed; full pages are released, and the last one at the end of the input. -/
def State.putBytes (s : State) (x : DecStream) (bs : List Byte) (ended : Bool) : State × DecStream :=
  let n := x.bytes + bs.length
  (s.ringPut x x.bytes bs, { x with bytes := n, released := if ended then (n + 4095) / 4096 else n / 4096 })

/-- One step of a stream: input consumed, sizes and damages checked, rows held, slabs released (R116 to R134). -/
def State.decodeUnit (s : State) (x : DecStream) (u : DecUnit) (assisted : Bool) : State :=
  let pg := pgDEC x.dec
  let o := s.decOpRec x
  let x := if u.newStream then { x with prev := [], outTotal := 0, frameIn := 0, frameOut := 0, rowsDone := 0 } else x
  let x := match u.rowBase with
    | some r => { x with rowNext := r }
    | none => x
  let room := s.frameRoom x u
  let n := max u.bytes.length u.produced
  let cut := match room with
    | some m => decide (m < n)
    | none => false
  let n := match room with
    | some m => min m n
    | none => n
  let u := { u with bytes := u.bytes.take n, frameEnd := u.frameEnd || cut }
  let d := s.decodeRows x u
  let rows := d.rows
  let dmgs := d.dmgs ++ s.unitDamages x u assisted ++
    (if cut then [{ cause := 3, col := 0xFF, first := x.rowNext + rows.length, count := if o.code = 1 then 0 else 1
                    offset := x.inPos }] else [])
  let total := (dmgs.map fun q => q.first + q.count - x.rowNext).foldl max rows.length
  let as := assisted || s.assist pg
  let new := (List.range total).map fun i =>
    ({ src := x.rowNext + i, vals := rows.getD i [], assisted := as } : HeldRow)
  let stw := !(s.slot x.slot).alloc.stws.isEmpty
  let waits := u.passed.isSome && stw && !assisted
  let x := { x with
    inPos := x.inPos + u.consumed, frameIn := if u.frameEnd then 0 else x.frameIn + u.consumed
    frameOut := if u.frameEnd then 0 else x.frameOut + n, outTotal := x.outTotal + n
    rowNext := x.rowNext + total, blocks := x.blocks + u.cuts, carry := d.carry, spillCols := d.cols, spillEnd := d.fin
    held := if o.code = 1 then x.held else x.held ++ new
    assistWait := waits, live := x.live && !u.inputEnd, active := x.active && !u.inputEnd && !waits }
  let s := ((s.perf pg 0x100 ((u.consumed + 63) / 64)).perf pg 0x101 ((n + 63) / 64)).addWrap pg Reg.DEC_OUT_TOTAL_BYTES n
  let s := if u.poison then s.error pg Src.dec_INPUT_POISON else s
  let s := if u.passed.isSome && !assisted then
      let s := s.addWrap pg Reg.DEC_ASSIST_FRAMES 1
      if stw then s else s.addWrap pg Reg.DEC_ASSIST_UNSUPPORTED 1
    else s
  let r := dmgs.foldl (fun (q : State × DecStream) dm => q.1.damage q.2 dm) (s, x)
  let r := match u.mismatch with
    | some col => r.1.mismatch r.2 col u.verify x.inPos
    | none => r
  let x := { r.2 with verified := r.2.verified + u.verify }
  let x := if u.groupEnd || u.inputEnd then
      { x with held := match x.held.getLast? with
          | some h => x.held.dropLast ++ [{ h with last := true }]
          | none => [] }
    else x
  let r := if o.code = 1 then r.1.putBytes x u.bytes u.inputEnd else State.releaseSlabs (x.held.length + 1) r.1 x
  let r := if u.inputEnd then r.1.checkpoint r.2 (s.chunkOfOp x) u.ctx else r
  let s := r.1.setDec r.2
  let s := s.setFld pg Reg.DEC_STAT_CODEC (if s.decF x 0 0 8 = 15 then u.codec else s.decF x 0 0 8)
  s.activate x.dec x.op

/-- Ring pages that the consumers have freed (R92). -/
def DecStream.free (x : DecStream) (n : Nat) : DecStream := { x with freed := min x.released (x.freed + n) }

/-- A decompressor works: powered, unfenced, its plan active. -/
def State.decWorks (s : State) (x : DecStream) : Bool :=
  s.active x.slot && s.powered (pgDEC x.dec) && !s.fenced (pgDEC x.dec) && s.enabled (pgDEC x.dec)

/-- DECODE_INPUT. While the ring has no free page the step waits, and only pages freed take effect. -/
def execDecodeInput (dec : Fin 32) (unit : DecUnit) (s : State) : Out :=
  match s.decActive dec with
  | none => .next s
  | some x =>
    if !s.decWorks x || x.restoring then .next s
    else
      let x := x.free unit.freed
      let r := State.releaseSlabs (x.held.length + 1) s x
      let s := r.1.setDec r.2
      if s.decStalls r.2 unit then .next (s.perf (pgDEC dec) 0x102 1) else .next (s.decodeUnit r.2 unit false)

/-- DEC_STREAM_SWITCH (R123): the running stream has used its quantum, another one waits, and a save area is free. Text
decoders save only while the unfinished row starts within the saved history. -/
def execDecStreamSwitch (dec : Fin 32) (ctx : DecCtx) (s : State) : Out :=
  match s.decActive dec with
  | none => .next s
  | some x =>
    let text := (s.decOpRec x).code = 4 || (s.decOpRec x).code = 5
    if !s.decWorks x || x.restoring || x.blocks < s.fld (pgDEC dec) Reg.DEC_CFG_QUANTUM || (s.nextStream dec x.op).isNone ||
        (text && ctx.hist.length < ctx.rowBack) || 2 ^ (s.image x.slot).histLog2 < ctx.hist.length then .next s
    else match s.freeArea x.slot with
      | none => .next s
      | some a =>
        let s := (s.saveCtx x ctx a).setDec { x with active := false, saved := some a, blocks := 0 }
        match s.nextStream dec x.op with
        | some y => .next ((s.setDec { y with active := true, restoring := y.saved.isSome, blocks := 0 }).decStat dec)
        | none => .next s

/-- CONTEXT_RESTORE (R126). -/
def execContextRestore (dec : Fin 32) (s : State) : Out :=
  match s.decActive dec with
  | none => .next s
  | some x =>
    match x.restoring, x.saved with
    | true, some a =>
      if !s.decWorks x then .next s
      else
        let base := s.areaAddr x.slot a
        let n := 2 ^ (s.image x.slot).histLog2
        let r := s.readMem base (n + 4096)
        let c := r.1.drop n
        let ok := !r.2 && bytesAt c 0 4 == 0x58434E44 && bytesAt c 4 2 == 1 && bytesAt c 8 1 % 16 == x.slot &&
          bytesAt c 0xA 2 == x.op && crc32c (c.take 0xFC ++ c.drop 0x100) == bytesAt c 0xFC 4
        if ok then
          let x := { x with restoring := false, saved := none, inPos := bytesAt c 0x10 8, outTotal := bytesAt c 0x18 8
                            frameOut := bytesAt c 0x28 8, rowNext := bytesAt c 0x80 8, rowsDone := bytesAt c 0x88 8 }
          .next (((s.setDec x).addWrap (pgDEC dec) Reg.DEC_CTX_RESTORES 1).decStat dec)
        else .next ((s.error (pgDEC dec) Src.dec_CTX_BAD).regenerate x.slot)
    | _, _ => .next s

/-- DEC_ASSIST_RETURN (R119): the steward core's rows take the place of what was passed. -/
def execDecAssistReturn (dec : Fin 32) (unit : DecUnit) (s : State) : Out :=
  match s.decs.find? fun x => x.dec == dec.val && x.assistWait with
  | none => .next s
  | some x =>
    if !s.decWorks x then .next s
    else
      let x := { x.free unit.freed with assistWait := false }
      if s.decStalls x unit then .next (s.setDec { x with assistWait := true })
      else .next (s.decodeUnit x { unit with passed := none } true)

/-! ## Stages -/

/-- The decompressor of a decoding operator (R114): those of a quad's operators in index order alternate. -/
def State.decFor (s : State) (p k : Nat) : Nat :=
  let img := s.image p
  let tile := fun (t : Nat) => (s.slot p).alloc.tiles.getD t 0
  match img.decOps.find? fun q => q.1 == k with
  | none => 0
  | some q =>
    let before := img.decOps.filter fun r => r.1 < k && tile r.2 / 4 == tile q.2 / 4
    2 * (tile q.2 / 4) + before.length % 2

/-- The decoding operators of a stage begin a chunk: a stream that crosses chunks goes on, or from its checkpoint when
the chunk is produced again (R124); any other begins anew. -/
def State.bindDecs (s : State) (p stage chunk : Nat) (again : Bool) : State :=
  let img := s.image p
  let ks := (img.decOps.filter fun q => (img.op q.1).stage == stage).map Prod.fst
  ks.foldl (fun (s : State) k =>
    let d := s.decFor p k
    let fresh : DecStream := { slot := p, op := k, dec := d, live := true }
    let s := match s.decOf p k with
      | none => { s with decs := s.decs ++ [fresh] }
      | some x =>
        let cross := s.decF x 3 0 1 = 1
        let base : DecStream := { fresh with dmgNext := x.dmgNext, checkpoints := x.checkpoints }
        let cp := if chunk = 0 then none else x.checkpoints.find? fun (c : Nat × Nat) => c.1 == chunk - 1
        if cross && again then
          s.setDec { base with saved := cp.map Prod.snd, restoring := cp.isSome }
        else if cross then
          s.setDec { x with live := true, active := false, released := 0, freed := 0, bytes := 0, held := [] }
        else s.setDec base
    (s.activate d 0).setFld (pgDEC d) Reg.DEC_STAT_STREAMS
      ((s.decs.filter fun (y : DecStream) => y.dec == d).length)) s

/-- The decoding operators of a stage have written all they decode (R66). -/
def State.decsDone (s : State) (p stage : Nat) : Bool :=
  s.decs.all fun x => x.slot != p || (s.decOpRec x).stage != stage || (!x.live && !x.assistWait && x.held.isEmpty)

/-! ## The compressors -/

def State.cmpOf (s : State) (slot op : Nat) : CmpStream :=
  (s.cmps.find? fun x => x.slot == slot && x.op == op).getD { slot := slot, op := op }
def State.setCmp (s : State) (x : CmpStream) : State :=
  { s with cmps := x :: s.cmps.filter fun y => !(y.slot == x.slot && y.op == x.op) }

/-- Write output bytes through the operator's descriptor, in iteration order; none when a byte is refused (R97). -/
def State.cmpWrite (s : State) (tile : Nat) (p : Nat) (d : Desc) : Nat → List Byte → Option State
  | _, [] => some s
  | pos, b :: bs =>
    let n := pos / max d.memSize 1
    if d.total ≤ n then none
    else match (s.destOf d n 0).1 with
      | none => State.cmpWrite s tile p d (pos + 1) bs
      | some (_, a) =>
        let a := a + pos % max d.memSize 1
        if d.space = 0 then
          (if s.inClaims p a a then State.cmpWrite (s.writeMem (pgCMP (tile / 4)) a [b] false) tile p d (pos + 1) bs else none)
        else State.cmpWrite (s.hostWrite (d.space == 1) d.pasid a [b] false (.unit (pgCMP (tile / 4)))) tile p d (pos + 1) bs

/-- The stored form of a block (R136): a Raw_Block of Zstandard, an uncompressed block of LZ4F, CODEC 0 of the spill
format with the header of the compressed block. -/
def storedForm (code codec : Nat) (block packed : List Byte) (last : Bool) : List Byte :=
  if code = 0x11 then
    let head := packed.take 4 ++ [0] ++ slice packed 5 3 ++ leBytes 4 block.length ++ leBytes 4 block.length ++
      slice packed 0x10 8 ++ leBytes 4 (crc32c block)
    head ++ leBytes 4 (crc32c head) ++ padTo (pad8 block.length) block
  else if codec = 1 then leBytes 3 ((if last then 1 else 0) + block.length * 8) ++ block
  else leBytes 4 (block.length + 2 ^ 31) ++ block

/-- ECHO_CHECK_DONE (R136): `head` and `tail` are the frame's bytes before and behind the block; a frame ends with its
tail. -/
def execEchoCheckDone (cmp slot : Fin 16) (op : Fin 256) (block packed head tail : List Byte) (same : Bool) (s : State) : Out :=
  let img := s.image slot
  let o := img.op op
  let tile := (s.slot slot).alloc.tiles.getD (cfgField (img.cfg o) (0x12, 0, 8)) 64
  let pg := pgCMP cmp
  let x := s.cmpOf slot op
  if !s.active slot || img.nOps ≤ op.val || o.cls != 2 || (o.code != 0x10 && o.code != 0x11) || tile / 4 != cmp.val || x.ended ||
      s.fenced pg || !s.powered pg || !s.enabled pg || (s.slot slot).runs.all (fun r => r.stage != o.stage) then .next s
  else
    let codec := cfgField (img.cfg o) (0, 0, 8)
    let out := head ++ (if same then packed else storedForm o.code codec block packed (!tail.isEmpty)) ++ tail
    let d := parseDesc (slice (img.cfg o) 0x40 128)
    let s := if same then s
      else (((((s.addSat pg Reg.CMP_STAT_STORED_BLOCKS 1).setFld pg Reg.CMP_ECHO_OFFSET (x.outPos + head.length)).setFld pg
        Reg.CMP_ECHO_SLOT slot).setFld pg Reg.CMP_ECHO_OP op).perf pg 0x102 1).error pg Src.cmp_ECHO_MISMATCH
    let s := (s.perf pg 0x100 ((block.length + 63) / 64)).perf pg 0x101 ((out.length + 63) / 64)
    match s.cmpWrite tile slot d x.outPos out with
    | none => .next ((s.setCmp { x with ended := true }).error pg Src.cmp_OUT_WRITE_ERR)
    | some s =>
      let s := s.setCmp { x with outPos := x.outPos + out.length }
      .next (if tail.isEmpty then s else s.addWrap pg Reg.CMP_STAT_FRAMES 1)

end Sys2Proof.Machine
end

