-- ==== Sys2Proof/Machine/Own.lean ====
section
/-!
DEFINITION. Owner tables and destination windows (R300 to R308): their load from the image, own_map(), OWN_WRITE and
its application, OWN_MAP.
-/

namespace Sys2Proof.Machine

open Sys2Proof

def State.own (s : State) (p : Nat) : OwnPlan := kget (fun _ => {}) s.owns p
def State.setOwn (s : State) (p : Nat) (o : OwnPlan) : State := { s with owns := kset (fun _ => {}) s.owns p o }

/-- The device queue of a plan's local queue. -/
def State.queueOf (s : State) (p lq : Nat) : Nat := (s.slot p).alloc.queues.getD lq 64

/-- The TENSOR operators of an image. -/
def Image.tensors (i : Image) : List OpRec := i.ops.filter fun o => o.cls == 8 && o.code == 2

/-- A plan's owner tables and windows as its image gives them (R300 to R302). -/
def State.ownFromImage (s : State) (p : Nat) : OwnVer :=
  let img := s.image p
  { gen := 0
    windows := img.windows.map Prod.fst
    tables := img.tensors.map fun o =>
      let b := img.cfg (img.op (bytesAt (img.cfg o) 0x18 2))
      img.parseTensor o (s.queueOf p (bytesAt b 0 1 % 64)) (bytesAt b 4 4) }

/-- A window's base address: for SPACE 0 where admission placed its region (R301). -/
def State.windowBase (s : State) (p : Nat) (w : OwnWindow) : Nat :=
  if w.space = 0 then
    let a := (s.slot p).alloc
    (((if w.hbm then a.hbm else a.store).find? fun r => r.id == w.region).map Region.base).getD 0 + w.base
  else w.base

/-- own_map() (R303): the window and the offset from its base of a logical byte; none where it is not delivered. -/
def OwnVer.map (v : OwnVer) (t : OwnTable) (l firstSeq slots : Nat) : Option (OwnWindow × Nat) :=
  let perBatch := t.rowBytes * t.samples
  let j := l / perBatch
  let r := l % perBatch / t.rowBytes
  let x := l % t.rowBytes
  let nb0 := (t.rowBytes + t.b0 - 1) / t.b0
  match t.entries[r / t.b1 * nb0 + x / t.b0]? with
  | none => none
  | some e =>
    if !e.valid then none
    else
      let c0 := x % t.b0
      let c1 := r % t.b1
      let loc := if t.layout = 0 then c1 * (if t.pitch = 0 then t.b0 else t.pitch) + c0
        else if t.layout = 1 then c0 / t.e * (if t.pitch = 0 then t.b1 * t.e else t.pitch) + c1 * t.e + c0 % t.e
        else (c1 / t.t1 * ((t.b0 + t.t0 - 1) / t.t0) + c0 / t.t0) * t.t0 * t.t1 + c1 % t.t1 * t.t0 + c0 % t.t0
      v.windows[e.win]?.map fun w => (w, (firstSeq + j) % slots * w.stride + e.off + loc)

/-- A stretch of bytes for consecutive destination addresses. -/
structure OwnRun where
  win : OwnWindow
  at_ : Nat
  bytes : List Byte
  deriving DecidableEq, Repr

/-- The stretches that bytes map to, in order, and the lines of which a byte is not delivered. -/
def OwnVer.runs (v : OwnVer) (t : OwnTable) (seq slots off : Nat) (data : List Byte) : List OwnRun × List Nat :=
  data.zipIdx.foldl (fun (q : List OwnRun × List Nat) b =>
    match v.map t (off + b.2) seq slots with
    | none => (q.1, if q.2.contains ((off + b.2) / 64) then q.2 else (off + b.2) / 64 :: q.2)
    | some (w, a) =>
      match q.1.getLast? with
      | some r => if r.win = w && r.at_ + r.bytes.length = a
          then (q.1.dropLast ++ [{ r with bytes := r.bytes ++ [b.1] }], q.2)
          else (q.1 ++ [{ win := w, at_ := a, bytes := [b.1] }], q.2)
      | none => ([{ win := w, at_ := a, bytes := [b.1] }], q.2)) ([], [])

/-- Write to a window: a device write, or a write to host memory (R303). -/
def State.windowWrite (s : State) (p : Nat) (w : OwnWindow) (at_ : Nat) (bs : List Byte) : State :=
  let a := s.windowBase p w + at_
  if w.space = 0 then s.writeMem pgOWN a bs false
  else s.hostWrite (w.space == 1) w.pasid a bs false (.unit pgOWN)

/-- Write bytes of a batch's tensor through its table version; bytes of invalid entries are not written (R305). -/
def State.ownPut (s : State) (p : Nat) (v : OwnVer) (t : OwnTable) (seq slots off : Nat) (data : List Byte) : State :=
  let r := v.runs t seq slots off data
  let s := r.1.foldl (fun (s : State) x => s.windowWrite p x.win x.at_ x.bytes) s
  let lines := (linesOf off data.length).length
  let s := (s.perf pgOWN 0x100 lines).perf pgOWN 0x101 (r.1.length - 1)
  if r.2.isEmpty then s
  else (s.addSat pgOWN Reg.OWN_DROPPED_INVALID r.2.length).error pgOWN Src.own_INVALID_DEST

/-- The version of a plan's tables that a batch keeps (R307). -/
def OwnPlan.ver (o : OwnPlan) (gen : Nat) : OwnVer :=
  if o.cur.gen = gen then o.cur
  else match o.prev with
    | some v => if v.gen = gen then v else o.cur
    | none => o.cur

/-- A batch of the plan still uses a version. -/
def State.verUsed (s : State) (p gen : Nat) : Bool :=
  (s.queuesOf p).any fun q => q.2.batches.any fun b => b.gen == gen

/-- The previous version is kept until every batch opened under it has committed (R307). -/
def State.dropPrev (s : State) (p : Nat) : State :=
  let o := s.own p
  match o.prev with
  | some v => if s.verUsed p v.gen then s else s.setOwn p { o with prev := none }
  | none => s

/-- A staged version applies: OWN_GEN counts, the command completes (R306). -/
def State.applyOwn (s : State) (p : Nat) : State :=
  let o := s.own p
  match o.staged with
  | none => s
  | some x =>
    let s := (s.addWrap pgOWN Reg.OWN_GEN_GEN 1).setFld pgOWN Reg.OWN_GEN_APPLY_BEAT s.beat
    let v := { x.ver with gen := s.fld pgOWN Reg.OWN_GEN_GEN }
    let s := s.setOwn p { cur := v, prev := if s.verUsed p o.cur.gen then some o.cur else none, staged := none
                          refs := o.refs ++ [x.ref] }
    s.complete x.ring 0 p 0 0

/-- The firing of a cue, and the gong of a stage, apply what is staged for them (R306). -/
def State.ownAtCue (s : State) (cue : Nat) : State :=
  (List.range 16).foldl (fun (s : State) p =>
    match (s.own p).staged with
    | some x => if x.cue = some cue then s.applyOwn p else s
    | none => s) s
def State.ownAtGong (s : State) (p stage : Nat) : State :=
  match (s.own p).staged with
  | some x => if x.cue.isNone && x.stage = stage then s.applyOwn p else s
  | none => s

/-! ## OWN_WRITE -/

/-- Ring slots of a table's queue. -/
def State.tableSlots (s : State) (t : OwnTable) : Nat :=
  match s.queue t.queue with
  | some q => q.slots
  | none => 1

/-- A version passes R304: every valid entry against its window, windows within their regions. -/
def State.verOk (s : State) (v : OwnVer) : Bool := v.tables.all fun t => t.entries.all (t.entryOk v.windows (s.tableSlots t))

/-- Records of a window change that Table BATQ-2 and R304 refuse. -/
def State.windowOk (s : State) (p : Nat) (r : OwnWindow × Nat × Bool × Nat) : Bool := ((s.image p).windowCodes r).isEmpty

/-- The version that an OWN_WRITE's records make; none where a record is refused (47). -/
def State.ownEdit (s : State) (p lt : Nat) (windows : Bool) (first n : Nat) (bs : List Byte) : Option OwnVer :=
  let v := (s.own p).cur
  let new :=
    if windows then
      let ws := (List.range n).map fun k => parseWindow (slice bs (32 * k) 32)
      if ws.all (s.windowOk p) then some { v with windows := v.windows.zipIdx.map fun q =>
        if first ≤ q.2 && q.2 < first + n then ((ws[q.2 - first]?).map Prod.fst).getD q.1 else q.1 } else none
    else
      let es := (List.range n).map fun k => parseEntry (slice bs (16 * k) 16)
      if es.all fun e => e.2 == 0 then some { v with tables := v.tables.map fun t =>
        if t.lt = lt then { t with entries := t.entries.zipIdx.map fun q =>
          if first ≤ q.2 && q.2 < first + n then ((es[q.2 - first]?).map Prod.fst).getD q.1 else q.1 } else t } else none
  new.bind fun w => if s.verOk w then some w else none

/-- Stage of the BATCH operator whose gong applies a change (R306, log 111). -/
def Image.ownStage (i : Image) (lt : Nat) (windows : Bool) : Nat :=
  let first := ((i.findOp 8 1).map fun q => q.2.stage).getD 0
  if windows then first
  else match i.tensors.find? fun o => bytesAt (i.cfg o) 0 1 % 64 == lt with
    | some o => (i.op (bytesAt (i.cfg o) 0x18 2)).stage
    | none => first

/-- OWN_WRITE (R306). It waits while a version is staged or the previous one is in use (R307). -/
def execOwnWrite (ring : Fin 16) (records : Option (List Byte)) (s : State) : Out := .next <|
  s.command ring 0x30 fun s c =>
    let p := opSlot c.op1
    let lt := bitsOf c.op1.toNat 37 32
    let windows := bitsOf c.op1.toNat 38 38 == 1
    let first := bitsOf c.op2.toNat 15 0
    let n := bitsOf c.op2.toNat 31 16
    let cueEn := bitsOf c.op2.toNat 32 32 == 1
    let cue := bitsOf c.op2.toNat 37 33
    let st := s.slotState p
    let o := s.own p
    let count := if windows then o.cur.windows.length
      else ((o.cur.tables.find? fun t => t.lt == lt).map fun t => t.entries.length).getD 0
    if st != 2 && st != 3 && st != 4 then s.complete ring 32 p 0 0
    else if cueEn && !s.cueAllowed p cue then s.complete ring 37 p 0 0
    else if count = 0 || count < first + n then s.complete ring 48 p 0 0
    else if o.staged.isSome || o.prev.isSome then s
    else match s.operandBytes (opDev c.op1) c.op0.toNat (n * if windows then 32 else 16) records with
      | none => s.complete ring 7 p 0 0
      | some bs => match s.ownEdit p lt windows first n bs with
        | none => s.complete ring 47 p 0 0
        | some v =>
          (s.setOwn p { o with staged := some { ring := ring, ver := v, cue := if cueEn then some cue else none
                                                stage := (s.image p).ownStage lt windows
                                                ref := { op0 := c.op0, op1 := c.op1, op2 := c.op2 } } }).setBusy ring

/-! ## OWN_MAP -/

/-- PROD and CONS of a queue (R313). -/
def State.prod (s : State) (n : Nat) : Nat := s.fld pgBATQ (Reg.BATQ_Q_PROD_SEQ n)
def State.cons (s : State) (n : Nat) : Nat := s.fld pgBATQ (Reg.BATQ_Q_CONS_SEQ n)

/-- OWN_MAP: bytes of batch `seq` from its logical offset `off` on, written by a tile (R303, R305, R307, R313, R316). -/
def execOwnMap (slot : Fin 16) (table queue : Fin 64) (seq : Word) (off : Nat) (data : List Byte) (tile : Fin 64)
    (s : State) : Out :=
  match s.queue queue with
  | none => .next s
  | some q =>
    if q.slot != slot.val || !s.active slot then .next s
    else
      let late := .next ((s.addSat pgOWN Reg.OWN_DROPPED_LATE 1).error pgOWN Src.own_LATE_WRITE)
      match q.batches.find? fun b => b.seq == seq.toNat with
      | none => if seq.toNat < s.prod queue then late else .next s
      | some b =>
        if b.closed then late
        else if s.cons queue + q.slots ≤ b.seq then
          .next ((s.setBit pgBATQ (Reg.BATQ_Q_STAT_RING_STALL queue) true).perf pgOWN 0x102 1)
        else
          let v := (s.own slot).ver b.gen
          match v.tables.find? fun t => t.lt == table.val && t.queue == queue.val with
          | none => .next s
          | some t =>
            if data.isEmpty || t.rowBytes * t.samples < off + data.length then .next s
            else
              let rows := (List.range ((off + data.length - 1) / t.rowBytes + 1 - off / t.rowBytes)).map (off / t.rowBytes + ·)
              let b' := { b with writers := rows.foldl (fun (m : KMap Nat) r => kset (fun _ => 64) m r tile.val) b.writers }
              let q' := { q with batches := q.batches.map fun x => if x.seq = b.seq then b' else x }
              .next ((s.setQueue queue (some q')).ownPut slot v t b.seq q.slots off data)

end Sys2Proof.Machine
end

