-- ==== Sys2Proof/Machine/Scalar.lean ====
section
/-!
DEFINITION. The scalar, control and constant instructions of a tile thread (R157, R161 to R165).
-/

namespace Sys2Proof.Machine

open Sys2Proof

/-- Element IMM12 of v[A] at 32 or 64 bits; an index beyond the register reads a free value (log 62). -/
def execVmovs (tile : Fin 64) (th : Fin 8) (imm : BitVec 12) (f3 : BitVec 3) (a d : BitVec 5) (s : State) : Out :=
  ifWord (okI 0x1A imm.toNat f3.toNat a.toNat d.toNat) <| s.issueWith tile th fun s _ x =>
    let w := if f3.toNat = 0 then 32 else 64
    if imm.toNat < 2048 / w then s.setThread tile th (x.putS d.toNat (elem (x.vN a.toNat) w imm.toNat)).next
    else
      let (k, s) := s.fresh
      s.setThread tile th (x.putS d.toNat (k % 2 ^ w)).next

/-- An index beyond the register leaves a free value in v[D] (log 62). -/
def execVins (tile : Fin 64) (th : Fin 8) (imm : BitVec 12) (f3 : BitVec 3) (a d : BitVec 5) (s : State) : Out :=
  ifWord (okI 0x1B imm.toNat f3.toNat a.toNat d.toNat) <| s.issueWith tile th fun s _ x =>
    let w := if f3.toNat = 0 then 32 else 64
    if imm.toNat < 2048 / w then
      s.setThread tile th (x.putV d.toNat (pack w (2048 / w) fun j =>
        if j = imm.toNat then x.sN a.toNat % 2 ^ w else elem (x.vN d.toNat) w j)).next
    else
      let (k, s) := s.fresh
      s.setThread tile th (x.putV d.toNat k).next

/-- The function stands in TYPE. -/
def execSalu (tile : Fin 64) (th : Fin 8) (var : BitVec 3) (mask : BitVec 3) (ty : BitVec 4) (b a d : BitVec 5)
    (s : State) : Out :=
  ifWord (okV 0x20 var.toNat mask.toNat ty.toNat b.toNat a.toNat d.toNat) <| s.issue tile th fun x =>
    x.putSF d.toNat (saluFn ty.toNat (x.sN a.toNat) (x.sN b.toNat))

def execSalui (tile : Fin 64) (th : Fin 8) (imm : BitVec 12) (f3 : BitVec 3) (a d : BitVec 5) (s : State) : Out :=
  ifWord (okI 0x21 imm.toNat f3.toNat a.toNat d.toNat) <| s.issue tile th fun x =>
    x.putSF d.toNat (saluFn (saluiFn f3.toNat) (x.sN a.toNat) (imm.signExtend 64).toNat)

def execSlui (tile : Fin 64) (th : Fin 8) (imm : BitVec 20) (d : BitVec 5) (s : State) : Out :=
  .next <| s.issue tile th fun x => x.setS d.toNat (imm.signExtend 64 * 4096)

/-- SCONST reads the image area in store memory; poison raises IMAGE_POISON and leaves a free value (R165, log 63). -/
def execSconst (tile : Fin 64) (th : Fin 8) (imm : BitVec 12) (f3 : BitVec 3) (a d : BitVec 5) (s : State) : Out :=
  ifWord (okI 0x23 imm.toNat f3.toNat a.toNat d.toNat) <| s.issueWith tile th fun s p x =>
    let img := s.image p
    let o := addrOf (x.sN a.toNat) (immI imm * 8)
    if o + 8 > img.constBytes then s.codeFault tile th p 2
    else
      let base := ((s.slot p).alloc.image.map Region.base).getD 0
      let r := s.readDev (base + img.constOff + o) 8
      if r.2 then
        let (k, s) := s.fresh
        (s.setThread tile th (x.putS d.toNat k).next).error pgPLAN Src.plan_IMAGE_POISON
      else s.setThread tile th (x.putS d.toNat (leNat r.1)).next

/-- The parameter values of a chunk (R69). -/
def State.chunkParams (s : State) (p k : Nat) : List Word :=
  match (s.slot p).chunks.find? fun c => c.k == k with
  | some c => c.params
  | none => (s.slot p).params

/-- An index at or above N_PARAMS is no instruction of an admitted plan (R163). -/
def execSparam (tile : Fin 64) (th : Fin 8) (imm : BitVec 12) (f3 : BitVec 3) (a d : BitVec 5) (s : State) : Out :=
  ifWord (okI 0x24 imm.toNat f3.toNat a.toNat d.toNat) <|
    match s.runOf tile with
    | some (p, _, k) =>
      match (s.chunkParams p k)[imm.toNat]? with
      | some v => s.issue tile th fun x => x.setS d.toNat v
      | none => s
    | none => s

def execSmisc (tile : Fin 64) (th : Fin 8) (imm : BitVec 12) (f3 : BitVec 3) (a d : BitVec 5) (s : State) : Out :=
  ifWord (okI 0x25 imm.toNat f3.toNat a.toNat d.toNat) <| s.issue tile th fun x =>
    match f3.toNat with
    | 0 => x.putS d.toNat s.beat
    | 1 => x.putS d.toNat x.flags.toNat
    | _ => { x with flags := 0 }

/-- A taken branch (R161). -/
def State.goTo (s : State) (tile th : Nat) (x : Thread) (off : Int) : State := s.setThread tile th (x.jump off)

def execBr (tile : Fin 64) (th : Fin 8) (imm : BitVec 10) (b a cond : BitVec 5) (s : State) : Out :=
  ifWord (okB 0x30 imm.toNat b.toNat cond.toNat && (cond.toNat ≤ 5 || a.toNat ≤ 7)) <| s.issueWith tile th fun s _ x =>
    if brTaken cond.toNat (x.sN a.toNat) (x.sN b.toNat) (x.mN a.toNat) then s.goTo tile th x (immI imm)
    else s.setThread tile th x.next

def execJmp (tile : Fin 64) (th : Fin 8) (imm : BitVec 25) (s : State) : Out :=
  .next <| s.issueWith tile th fun s _ x => s.goTo tile th x (immI imm)

def execCall (tile : Fin 64) (th : Fin 8) (imm : BitVec 25) (s : State) : Out :=
  .next <| s.issueWith tile th fun s _ x => s.goTo tile th (x.putS 31 (x.pc + 1)) (immI imm)

/-- A target outside the code is a code fault (R164). -/
def execRet (tile : Fin 64) (th : Fin 8) (imm : BitVec 25) (s : State) : Out :=
  ifWord (imm.toNat == 0) <| s.issueWith tile th fun s p x =>
    if x.sN 31 < (s.image p).codeWords then s.setThread tile th { x with pc := x.sN 31 }
    else s.codeFault tile th p 1

end Sys2Proof.Machine
end

