-- ==== Sys2Proof/Machine/Flow.lean ====
section
/-!
DEFINITION. The flow scheduler (12): events and the checks on them (R327 to R329), the pool (R330, R336), chunks
(R332), alignment groups (R339), serving and its counters (R333, R334, R348), the instructions of a thread (R335),
delay lists (R338), host event rings (R328, R393).
-/

namespace Sys2Proof.Machine

open Sys2Proof

/-- A timer comes due at beat b: BEAT has reached it (log 8). While BEAT does not count nothing comes due. -/
def State.atBeat (s : State) (b : Nat) (f : State → State) : State :=
  if s.beatOn then f { s with beat := max s.beat b } else s

/-! ## Events -/

/-- An event record (Table FLOW-1); DELAYED, REDELIVERED and LATE are not read (R327). -/
def parseEvent (b : List Byte) : Event :=
  let w := bytesAt b 0 4
  let v := bytesAt b 4 4
  { flow := bitsOf w 17 0, prio := bitsOf w 20 18, keyed := bitsOf w 21 21 == 1, align := bitsOf w 22 22 == 1
    slot := bitsOf w 28 25, group := bitsOf v 4 0, stream := bitsOf v 11 8, typ := bitsOf v 31 16
    resv := bitsOf w 31 30 + bitsOf v 7 5 + bitsOf v 15 12
    time := word (bytesAt b 8 8), key := word (bytesAt b 16 8), data := word (bytesAt b 24 8) }

/-- The record as it is delivered. -/
def Event.bytes (e : Event) : List Byte :=
  let b := fun (x : Bool) k => if x then 2 ^ k else 0
  leBytes 4 (e.flow + e.prio * 2 ^ 18 + b e.keyed 21 + b e.align 22 + b e.delayed 23 + b e.redelivered 24 +
      e.slot * 2 ^ 25 + b e.late 29) ++
    leBytes 4 (e.group + e.stream * 2 ^ 8 + e.typ * 2 ^ 16) ++ leBytes 8 e.time.toNat ++ leBytes 8 e.key.toNat ++
    leBytes 8 e.data.toNat

/-- The EVENTS operator of an image: its seed and its stage (Table FLOW-2). -/
def Image.events (i : Image) : Option (Nat × Nat) := (i.findOp 9 1).map fun p => (bytesAt (i.cfg p.2) 8 8, p.2.stage)

/-- An alignment group in use. -/
def State.group (s : State) (g : Nat) : Option AlignGroup := kget (fun _ => none) s.fsch.groups g
/-- The device group of an event. -/
def State.alignOf (s : State) (p : Nat) (ev : Event) : Nat := (s.slot p).alloc.aligns.getD ev.group 32

/-- The FSCH accepts the event for a plan (R328). -/
def State.eventOk (s : State) (p : Nat) (ev : Event) : Bool :=
  let st := s.slotState p
  (st == 2 || st == 3 || st == 4 || st == 6) && (s.image p).events.isSome &&
    (ev.keyed || ev.flow < (s.slot p).alloc.flows) &&
    (!ev.align || match s.group (s.alignOf p ev) with
      | some g => ev.stream < g.streams.length
      | none => false) &&
    ev.resv == 0

/-- The local flow of an event (R329). -/
def State.localFlow (s : State) (p : Nat) (ev : Event) : Nat :=
  if ev.keyed then
    mulhi64 (nhMix64 ev.key.toNat (((s.image p).events.map Prod.fst).getD 0)) (s.slot p).alloc.flows
  else ev.flow

/-! ## The pool -/

def poolSize : Nat := 1048576

/-- The pool changes: USED and the high-water mark follow (R348). -/
def State.setPool (s : State) (f : List PoolEnt → List PoolEnt) : State :=
  let s := { s with fsch := { s.fsch with pool := f s.fsch.pool } }
  let n := s.fsch.pool.length
  let s := s.setFld pgFSCH Reg.FSCH_POOL_USED n
  if s.fld pgFSCH Reg.FSCH_POOL_HWM_MAX < n then s.setFld pgFSCH Reg.FSCH_POOL_HWM_MAX n else s

/-- The pool has no room. -/
def State.poolFull (s : State) : Bool := poolSize ≤ s.fsch.pool.length

/-- Change the pool entry of an arrival number. -/
def State.setEvent (s : State) (p arr : Nat) (f : PoolEnt → PoolEnt) : State :=
  s.setPool fun l => l.map fun e => if e.slot = p && e.arr = arr && e.st != .aligned then f e else e
def State.event (s : State) (p arr : Nat) : Option PoolEnt :=
  s.fsch.pool.find? fun e => e.slot == p && e.arr == arr && e.st != .aligned

/-- Every event whose chunk is done and holds no row of an uncommitted batch retires (R336). -/
def State.retireEvents (s : State) (p : Nat) : State :=
  let x := s.slot p
  s.setPool fun l => l.filter fun e =>
    e.slot != p || e.st == .aligned || x.next ≤ e.chunk || x.chunks.any fun c => c.k == e.chunk && (!c.done || s.chunkOpen p c.k)

/-- Service time of an event that leaves service counts for its unit (FSCH_LOAD). -/
def State.endService (s : State) (p arr unit : Nat) (st : EvState) : State :=
  match s.event p arr with
  | none => s
  | some e =>
    let sv := kset (fun _ => 0) s.fsch.service unit (kget (fun _ => 0) s.fsch.service unit + (s.beat - e.held))
    { s with fsch := { s.fsch with service := sv } }.setEvent p arr fun e => { e with st := st }

/-! ## EXHAUSTED -/

/-- The chunk is closed and all its events are delivered (R335, log 114). -/
def State.exhausted (s : State) (p k : Nat) : Bool :=
  k < (s.slot p).evChunk && !s.fsch.pool.any fun e => e.slot == p && e.chunk == k && match e.st with
    | .waiting | .prefetch _ _ => true
    | _ => false

/-- GET answers EXHAUSTED: no event is written; the flow bits of s[D] are free (log 117). -/
def State.getExhausted (s : State) (tile th d : Nat) : State :=
  let (k, s) := s.fresh
  let x := s.thread tile th
  s.setThread tile th ({ x with run := .run, wait := none }.putS d (2 ^ 63 + k % 2 ^ 18)).next

/-- Threads of the plan that wait in GET go on once their chunk is exhausted. -/
def State.wakeExhausted (s : State) (p : Nat) : State :=
  (s.slot p).alloc.tiles.foldl (fun (s : State) t =>
    match s.runOf t with
    | some (q, _, k) =>
      if q = p && s.exhausted p k then
        (List.range 8).foldl (fun (s : State) th =>
          match (s.thread t th).wait with
          | some (.get _ d _) => s.getExhausted t th d
          | _ => s) s
      else s
    | none => s) s

/-- The chunk that fills now closes (R332). -/
def State.closeChunk (s : State) (p : Nat) : State :=
  let x := s.slot p
  (s.setSlot p { x with evChunk := x.evChunk + 1, evCount := 0 }).wakeExhausted p

/-! ## Arrival and alignment -/

/-- An event takes an arrival number and waits in the pool; its chunk closes when full (R332). -/
def State.arrive (s : State) (p : Nat) (ev : Event) : State :=
  let arr := s.fld pgFSCH (Reg.FSCH_P_ARR_NEXT p)
  let x := s.slot p
  let s := s.setFld pgFSCH (Reg.FSCH_P_ARR_NEXT p) (arr + 1)
  let s := s.setPool fun l => l ++ [{ ev := ev, slot := p, flow := s.localFlow p ev, arr := arr, chunk := x.evChunk
                                      st := .waiting, acc := 0, since := s.beat }]
  let s := s.setSlot p { x with evCount := x.evCount + 1 }
  if x.evCount + 1 = (s.image p).chunkSize then s.closeChunk p else s

/-- Held events of a group. -/
def State.heldIn (s : State) (p : Nat) (lg : Nat) : List PoolEnt :=
  s.fsch.pool.filter fun e => e.slot == p && e.st == .aligned && e.ev.group == lg

/-- The watermark (R339): none while a stream that is not idle has sent nothing. -/
def AlignGroup.watermark (g : AlignGroup) (held : List PoolEnt) : Option Int :=
  let act := g.streams.filter AlignStream.active
  let low := fun (l : List Int) => l.foldl (fun (m : Option Int) x => some (match m with
    | some y => min x y
    | none => x)) none
  if act.isEmpty then (low (held.map fun e => - e.ev.time.toInt)).map fun x => -x
  else if act.any fun a => !a.seen then none
  else low (act.map fun a => a.maxTime - g.lateness)

/-- A group changes: its registers follow. A watermark below the least I64 has no stated register value (log 118). -/
def State.setGroup (s : State) (n : Nat) (g : AlignGroup) : State :=
  let s := { s with fsch := { s.fsch with groups := kset (fun _ => none) s.fsch.groups n (some g) } }
  let act := g.streams.zipIdx.foldl (fun m a => if a.1.active && a.1.seen then m + 2 ^ a.2 else m) 0
  let s := s.setFld pgFSCH (Reg.FSCH_G_STAT_ACTIVE n) act
  match g.watermark (s.heldIn g.slot g.lg) with
  | none => s.setFld pgFSCH (Reg.FSCH_G_WM_WM n) (2 ^ 63)
  | some w =>
    if w < -2 ^ 63 then
      let (k, s) := s.fresh
      s.setFld pgFSCH (Reg.FSCH_G_WM_WM n) k
    else s.setFld pgFSCH (Reg.FSCH_G_WM_WM n) (ofI 64 w)

/-- A pool entry of an alignment group leaves it and arrives (R339). -/
def State.releaseAligned (s : State) (n : Nat) (g : AlignGroup) (e : PoolEnt) : State :=
  let s := (s.setPool fun l => l.filter fun x => !(x.slot == e.slot && x.st == .aligned && x.acc == e.acc)).arrive g.slot e.ev
  s.setGroup n { g with frontier := some e.ev.time.toInt }

/-- One held event precedes another: TIME, STREAM, acceptance (R339). -/
def alignBefore (a b : PoolEnt) : Bool :=
  a.ev.time.toInt < b.ev.time.toInt || (a.ev.time == b.ev.time &&
    (a.ev.stream < b.ev.stream || (a.ev.stream == b.ev.stream && a.acc ≤ b.acc)))
def alignFirst (l : List PoolEnt) : Option PoolEnt :=
  l.foldl (fun (m : Option PoolEnt) e => match m with
    | some x => if alignBefore x e then m else some e
    | none => some e) none

/-- An event that passed the checks enters the pool: through its alignment group, or with an arrival number
(R332, R339). -/
def State.accept (s : State) (p : Nat) (ev : Event) : State :=
  let ev := { ev with slot := p }
  if !ev.align then s.arrive p ev
  else
    let n := s.alignOf p ev
    match s.group n with
    | none => s
    | some g =>
      let t := ev.time.toInt
      let g' := { g with streams := g.streams.zipIdx.map fun q =>
        if q.2 = ev.stream then
          { q.1 with active := true, seen := true, lastBeat := s.beat
                     maxTime := if q.1.seen then max q.1.maxTime t else t }
        else q.1 }
      let late := match g.frontier with
        | some f => decide (t < f)
        | none => false
      if late then
        let s := ((s.addSat pgFSCH (Reg.FSCH_G_STAT_LATE n) 1).error pgFSCH Src.fsch_ALIGN_LATE).setGroup n g'
        if g.pass then s.arrive p { ev with late := true } else s
      else
        let s := s.setPool fun l => l ++ [{ ev := ev, slot := p, flow := 0, arr := 0, chunk := 0, st := .aligned
                                            acc := s.fsch.accSeq, since := 0 }]
        { s with fsch := { s.fsch with accSeq := s.fsch.accSeq + 1 } }.setGroup n g'

/-- ALIGN_RELEASE: one held event with TIME ≤ WM is released (R339). -/
def execAlignRelease (group : Fin 32) (s : State) : Out := .next <|
  match s.group group with
  | none => s
  | some g =>
    let held := s.heldIn g.slot g.lg
    match g.watermark held, alignFirst held with
    | some w, some e => if s.enabled pgFSCH && e.ev.time.toInt ≤ w then s.releaseAligned group g e else s
    | _, _ => s

/-- PLAN_STOP releases every held event of the plan's groups (R339). -/
def State.releaseAllAligned (s : State) (p : Nat) : State :=
  (s.slot p).alloc.aligns.foldl (fun (s : State) n =>
    match s.group n with
    | none => s
    | some g => (s.heldIn p g.lg).foldl (fun (s : State) _ =>
      match s.group n, alignFirst (s.heldIn p g.lg) with
      | some g, some e => s.releaseAligned n g e
      | _, _ => s) s) s

/-- STREAM_IDLE: IDLE_BEATS beats passed with no event on the stream; one that sent nothing counts from PLAN_START
(R339). -/
def execStreamIdle (group : Fin 32) (stream : Fin 16) (s : State) : Out := .next <|
  match s.group group with
  | none => s
  | some g =>
    match g.streams[stream.val]? with
    | none => s
    | some a =>
      let st := s.slotState g.slot
      if g.idleBeats = 0 || !a.active || (!a.seen && (st == 1 || st == 2)) then s
      else s.atBeat (a.lastBeat + g.idleBeats) fun s =>
        s.setGroup group { g with streams := g.streams.set stream { a with active := false } }

/-! ## Serving -/

/-- A flow of the plan has an event in service (R333). -/
def State.flowBusy (s : State) (p flow : Nat) : Bool :=
  s.fsch.pool.any fun e => e.slot == p && e.flow == flow && match e.st with
    | .prefetch _ _ | .inService _ _ | .inCore _ => true
    | _ => false

/-- The pool entry is the oldest waiting one of its flow. -/
def State.oldestOfFlow (s : State) (e : PoolEnt) : Bool :=
  e.st == .waiting && !s.fsch.pool.any fun x => x.slot == e.slot && x.flow == e.flow && x.st == .waiting && x.arr < e.arr

/-- The event that the FSCH selects for chunk k (R333): of the oldest waiting events of eligible flows the one with
the highest PRIO, ties to the lower arrival number. -/
def State.selectEvent (s : State) (p k : Nat) : Option PoolEnt :=
  (s.fsch.pool.filter fun e => e.slot == p && e.chunk == k && s.oldestOfFlow e && !s.flowBusy p e.flow).foldl
    (fun (m : Option PoolEnt) e => match m with
      | some x => if x.ev.prio > e.ev.prio || (x.ev.prio == e.ev.prio && x.arr < e.arr) then m else some e
      | none => some e) none

/-- Where an event is delivered (R334). -/
inductive EvTarget where
  | waiter (tile th addr d : Nat)
  | slot (tile th : Nat)
  | core (stw : Nat)
  deriving DecidableEq, Repr

/-- The steward cores of a stage, by device number. -/
def State.stageStws (s : State) (p stage : Nat) : List Nat :=
  (s.slot p).alloc.stws.zipIdx.filterMap fun q => if ((s.image p).stage stage).stwSet / 2 ^ q.2 % 2 = 1 then some q.1 else none

/-- The order of preference of R334, for the event stage on chunk k. -/
def State.target (s : State) (p stage k : Nat) : Option EvTarget :=
  let ts := (s.slot p).alloc.tiles.filter fun t => s.runOf t == some (p, stage, k)
  let ths := ts.flatMap fun t => (List.range 8).map fun th => (t, th)
  let waiter := ths.foldl (fun (m : Option (Nat × EvTarget)) q =>
    match (s.thread q.1 q.2).wait with
    | some (.get a d n) => match m with
      | some x => if x.1 < n then m else some (n, .waiter q.1 q.2 a d)
      | none => some (n, .waiter q.1 q.2 a d)
    | _ => m) none
  match waiter with
  | some w => some w.2
  | none =>
    match ths.find? fun q =>
      let x := s.thread q.1 q.2
      x.consumer && x.prefetch.isNone && x.run != .ended && x.run != .faulted with
    | some q => some (.slot q.1 q.2)
    | none =>
      ((s.stageStws p stage).find? fun n => !s.fsch.pool.any fun e => e.st == .inCore n).map .core

/-- Histogram bin of a wait (R348). -/
def histBin (w : Nat) : Nat := if w < 64 then 0 else if 2 ^ 20 ≤ w then 15 else Nat.log2 w - 5

/-- Counters of a delivery (R348). `unit`: 0-63 tile, 64-79 steward core. -/
def State.countDelivery (s : State) (p : Nat) (e : PoolEnt) (unit : Nat) : State :=
  let w := s.beat - e.since
  let s := if bitsOf (s.fld pgFSCH Reg.FSCH_CFG_HIST_PRIO) e.ev.prio e.ev.prio = 1
    then s.addSat pgFSCH (Reg.FSCH_HIST_COUNT (histBin w)) 1 else s
  let s := if s.fld pgFSCH Reg.FSCH_WATCH_FLOW = (s.slot p).alloc.flowBase + e.flow then
      let s := s.addWrap pgFSCH Reg.FSCH_WATCH_STAT_DELIVERED 1
      let s := s.setFld pgFSCH Reg.FSCH_WATCH_LAST_LAST_WAIT (min w (2 ^ 32 - 1))
      s.setFld pgFSCH Reg.FSCH_WATCH_STAT_MAX_WAIT (min (max w (s.fld pgFSCH Reg.FSCH_WATCH_STAT_MAX_WAIT)) (2 ^ 32 - 1))
    else s
  let dl := kset (fun _ => 0) s.fsch.delivered unit ((kget (fun _ => 0) s.fsch.delivered unit + 1) % 2 ^ 32)
  { s with fsch := { s.fsch with delivered := dl } }

/-- Write an event to a thread's address; one that is no multiple of 32 leaves free bytes (R335, log 113). -/
def State.putEvent (s : State) (tile addr : Nat) (ev : Event) : State :=
  if addr % 32 = 0 then s.tmWrite tile addr ev.bytes
  else
    let (k, s) := s.fresh
    s.tmWrite tile addr (leBytes 32 k)

/-- A thread takes an event into service: GET completes (R335). -/
def State.takeEvent (s : State) (p tile th addr d : Nat) (e : PoolEnt) : State :=
  let s := s.putEvent tile addr e.ev
  let x := s.thread tile th
  let s := s.setThread tile th ({ x with run := .run, wait := none, event := some e.arr }.putS d e.flow).next
  s.setEvent p e.arr fun e => { e with st := .inService tile th }

/-- The event goes to its target. -/
def State.deliverTo (s : State) (p : Nat) (e : PoolEnt) (t : EvTarget) : State :=
  let s := s.setEvent p e.arr fun e => { e with held := s.beat }
  match t with
  | .waiter tile th addr d => (s.countDelivery p e tile).takeEvent p tile th addr d e
  | .slot tile th =>
    let s := s.countDelivery p e tile
    (s.setThread tile th { s.thread tile th with prefetch := some e.arr }).setEvent p e.arr fun e =>
      { e with st := .prefetch tile th }
  | .core n => (s.countDelivery p e (64 + n)).setEvent p e.arr fun e => { e with st := .inCore n }

/-- EVENT_DELIVER: one selection for the event stage that runs (R333, R334). -/
def execEventDeliver (slot : Fin 16) (s : State) : Out := .next <|
  match (s.image slot).events with
  | none => s
  | some (_, stage) =>
    match (s.slot slot).runs.find? fun r => r.stage == stage && r.st == .running with
    | none => s
    | some r =>
      match s.selectEvent slot r.chunk, s.target slot stage r.chunk with
      | some e, some t =>
        if s.active slot && s.enabled pgFSCH then (s.deliverTo slot e t).wakeExhausted slot else s
      | _, _ => s

/-- An event in a prefetch slot returns to the head of its flow (R334). -/
def State.returnPrefetch (s : State) (p tile th : Nat) : State :=
  let x := s.thread tile th
  match x.prefetch with
  | none => s
  | some arr =>
    ((s.setThread tile th { x with prefetch := none }).endService p arr tile .waiting).error pgFSCH Src.fsch_RECLAIM

/-- RECLAIM: the event has sat in its prefetch slot for RECLAIM_BEATS (R334). -/
def execReclaim (tile : Fin 64) (th : Fin 8) (s : State) : Out := .next <|
  match s.runOf tile, (s.thread tile th).prefetch with
  | some (p, _, _), some arr =>
    match s.event p arr with
    | some e => s.atBeat (e.held + s.fld pgFSCH Reg.FSCH_CFG_RECLAIM_BEATS) fun s => s.returnPrefetch p tile th
    | none => s
  | _, _ => s

/-- END: the thread has finished the stage (R147); an event in its prefetch slot goes back (R334). -/
def execEndThread (tile : Fin 64) (th : Fin 8) (imm : BitVec 25) (s : State) : Out :=
  ifWord (imm.toNat == 0) <| s.issueWith tile th fun s p x =>
    (s.setThread tile th { x with run := .ended }).returnPrefetch p tile th

/-! ## Instructions of a thread -/

/-- DONE for the event that a thread holds (R335). -/
def State.doneEvent (s : State) (p tile th : Nat) : State :=
  let x := s.thread tile th
  match x.event with
  | none => s
  | some arr => (s.setThread tile th { x with event := none }).endService p arr tile .done

/-- Address of an EVENT instruction (R335). -/
def eventAddr {w : Nat} (x : Thread) (a : Nat) (imm : BitVec w) : Nat := addrOf (x.sN a) (32 * immI imm)

def execEventGet (tile : Fin 64) (th : Fin 8) (imm : BitVec 12) (a d : BitVec 5) (s : State) : Out :=
  ifWord (okI 0x39 imm.toNat 0 a.toNat d.toNat) <| s.issueWith tile th fun s p x =>
    let addr := eventAddr x a.toNat imm
    if !s.tmOk p addr 32 then s.tmRange tile th p addr
    else
      let s := (s.setThread tile th { x with consumer := true }).doneEvent p tile th
      let x := s.thread tile th
      let k := (s.runOf tile).elim 0 fun r => r.2.2
      match x.prefetch.bind (s.event p) with
      | some e =>
        ((s.setThread tile th { x with prefetch := none }).takeEvent p tile th addr d.toNat e).wakeExhausted p
      | none =>
        if s.exhausted p k then s.getExhausted tile th d.toNat
        else
          let n := s.fsch.getSeq
          { s with fsch := { s.fsch with getSeq := n + 1 } }.setThread tile th
            { x with run := .eventWait, wait := some (.get addr d.toNat n) }

def execEventDone (tile : Fin 64) (th : Fin 8) (imm : BitVec 12) (a d : BitVec 5) (s : State) : Out :=
  ifWord (okI 0x39 imm.toNat 1 a.toNat d.toNat) <| s.issueWith tile th fun s p x =>
    (s.setThread tile th x.next).doneEvent p tile th

/-- The origin of what a thread posts or delays (R336). -/
def State.originOf (s : State) (p tile th : Nat) : Origin :=
  match (s.thread tile th).event with
  | some arr => .event arr
  | none => .thread ((s.slot p).alloc.tiles.idxOf tile) th

/-- Count a post or a delay of an origin; in a re-run it is discarded when the first run made it (R337). -/
def State.countPost (s : State) (p k : Nat) (o : Origin) (delay : Bool) : State × Bool :=
  let same := fun (c : PostCount) => c.slot == p && c.chunk == k && c.origin == o && c.delay == delay
  match s.fsch.posts.find? same with
  | some c =>
    ({ s with fsch := { s.fsch with posts := s.fsch.posts.map fun c => if same c then { c with now := c.now + 1 } else c } },
      c.first ≤ c.now)
  | none =>
    ({ s with fsch := { s.fsch with posts :=
        { slot := p, chunk := k, origin := o, delay := delay, first := 0, now := 1 } :: s.fsch.posts } }, true)

/-- A re-run would discard the next post or delay of the origin. -/
def State.repeats (s : State) (p k : Nat) (o : Origin) (delay : Bool) : Bool :=
  s.fsch.posts.any fun c => c.slot == p && c.chunk == k && c.origin == o && c.delay == delay && c.now < c.first

/-- The event that a thread names at an address, for its own plan. -/
def State.threadEvent (s : State) (p tile addr : Nat) : Event × State :=
  if addr % 32 = 0 then ({ parseEvent (s.tmRead tile addr 32) with slot := p }, s)
  else
    let (k, s) := s.fresh
    ({ parseEvent (leBytes 32 k) with slot := p }, s)

/-- POST for a thread: it answers, or waits while the pool is full (R335). -/
def State.doPost (s : State) (p tile th addr d : Nat) : State :=
  let k := (s.runOf tile).elim 0 fun r => r.2.2
  let (ev, s) := s.threadEvent p tile addr
  let x := s.thread tile th
  let finish := fun (s : State) (v : Nat) =>
    s.setThread tile th ({ s.thread tile th with run := .run, wait := none }.putS d v).next
  let o := s.originOf p tile th
  if !s.eventOk p ev then (finish s 1).error pgFSCH Src.fsch_EVENT_INVALID
  else if s.poolFull && !s.repeats p k o false then
    s.setThread tile th { x with run := .eventWait, wait := some (.post addr d) }
  else
    let (s, new) := s.countPost p k o false
    finish (if new then s.accept p ev else s) 0

/-- DELAY for a thread: the event enters the delay list, or the thread waits while it is full (R335, R338). -/
def State.doDelay (s : State) (p tile th addr ticks : Nat) : State :=
  let k := (s.runOf tile).elim 0 fun r => r.2.2
  let (ev, s) := s.threadEvent p tile addr
  let x := s.thread tile th
  let finish := fun (s : State) => s.setThread tile th { s.thread tile th with run := .run, wait := none }.next
  let o := s.originOf p tile th
  if !s.eventOk p ev then (finish s).error pgFSCH Src.fsch_EVENT_INVALID
  else if (s.fsch.delay.filter fun e => e.slot == p).length ≥ (s.slot p).alloc.delay && !s.repeats p k o true then
    s.setThread tile th { x with run := .eventWait, wait := some (.delay addr ticks) }
  else
    let (s, new) := s.countPost p k o true
    if !new then finish s
    else
      let tick := s.beat / max (s.fld pgFSCH Reg.FSCH_TICK_DIV) 1
      let e : DelayEnt := { ev := ev, slot := p, chunk := k, due := max (tick + ticks) (tick + 1), seq := s.fsch.delaySeq }
      finish { s with fsch := { s.fsch with delay := s.fsch.delay ++ [e], delaySeq := s.fsch.delaySeq + 1 } }

def execEventPost (tile : Fin 64) (th : Fin 8) (imm : BitVec 12) (a d : BitVec 5) (s : State) : Out :=
  ifWord (okI 0x39 imm.toNat 2 a.toNat d.toNat) <| s.issueWith tile th fun s p x =>
    let addr := eventAddr x a.toNat imm
    if !s.tmOk p addr 32 then s.tmRange tile th p addr else s.doPost p tile th addr d.toNat

def execEventDelay (tile : Fin 64) (th : Fin 8) (imm : BitVec 12) (a d : BitVec 5) (s : State) : Out :=
  ifWord (okI 0x39 imm.toNat 3 a.toNat d.toNat) <| s.issueWith tile th fun s p x =>
    let addr := eventAddr x a.toNat imm
    if !s.tmOk p addr 32 then s.tmRange tile th p addr else s.doDelay p tile th addr (x.sN d.toNat % 2 ^ 32)

/-- Threads that wait to post or to delay try again, lowest tile and thread first, once entries have come free. -/
def State.wakePosts (s : State) : State :=
  (List.range 512).foldl (fun (s : State) n =>
    let x := s.thread (n / 8) (n % 8)
    match s.runOf (n / 8), x.wait with
    | some (p, _, _), some (.post addr d) => if s.poolFull then s else s.doPost p (n / 8) (n % 8) addr d
    | some (p, _, _), some (.delay addr ticks) => s.doDelay p (n / 8) (n % 8) addr ticks
    | _, _ => s) s

/-! ## Delay lists -/

/-- The head of a plan's delay list (R338). -/
def State.delayHead (s : State) (p : Nat) : Option DelayEnt :=
  (s.fsch.delay.filter fun e => e.slot == p).foldl (fun (m : Option DelayEnt) e => match m with
    | some x => if x.due < e.due || (x.due == e.due && x.seq < e.seq) then m else some e
    | none => some e) none

/-- DELAY_RELEASE: the head of the list, at the tick boundary at which it is due (R338, logs 8 and 116). -/
def execDelayRelease (slot : Fin 16) (s : State) : Out := .next <|
  match s.delayHead slot with
  | none => s
  | some e =>
    if s.poolFull || !s.enabled pgFSCH then s
    else s.atBeat (e.due * s.fld pgFSCH Reg.FSCH_TICK_DIV) fun s =>
      let s := { s with fsch := { s.fsch with delay := s.fsch.delay.filter fun x => x != e } }
      (s.accept slot { e.ev with delayed := true }).wakePosts

/-! ## Host event rings -/

def State.evRingSize (s : State) (n : Nat) : Nat := 2 ^ s.fld pgFSCH (Reg.FSCH_R_CFG_SIZE_LOG2 n)

/-- The ring is enabled and holds an event. -/
def State.evRingReady (s : State) (n : Nat) : Bool :=
  s.bit pgFSCH (Reg.FSCH_R_CFG_EN n) &&
    s.fld pgFSCH (Reg.FSCH_R_IDX_HEAD n) != s.fld pgFSCH (Reg.FSCH_R_IDX_TAIL n)

/-- The ring whose turn it is (R328). -/
def State.evTurn (s : State) : Option Nat :=
  ((List.range 16).map fun i => (s.fsch.turn + i) % 16).find? s.evRingReady

/-- Write HEAD back to the host (R328). -/
def State.headWriteback (s : State) (n : Nat) : State :=
  let a := hostAddr (s.bit pgFSCH (Reg.FSCH_R_CFG_VIRT n)) (s.fld pgFSCH (Reg.FSCH_R_CFG_PASID n))
    (s.fld pgFSCH (Reg.FSCH_R_WB_ADDR n) * 8)
  { s with fsch := { s.fsch with sinceWb := kset (fun _ => 0) s.fsch.sinceWb n 0 } }.issueHost .itoMWr a
    (leBytes 8 (s.fld pgFSCH (Reg.FSCH_R_IDX_HEAD n))) (.headWb n)

/-- HOST_EVENT: the next event of a ring, as the link returned it; none for a read that fails or returns poison
(R328). -/
def execHostEvent (ring : Fin 16) (ev : Option (List Byte)) (s : State) : Out := .next <|
  if !s.enabled pgFSCH || s.evTurn != some ring.val ||
      s.fld pgFSCH Reg.FSCH_POOL_HOST_LIMIT ≤ s.fsch.pool.length then s
  else
    let s := { s with fsch := { s.fsch with turn := (ring.val + 1) % 16 } }
    match ev with
    | none => (s.setBit pgFSCH (Reg.FSCH_R_CFG_EN ring) false).error pgFSCH Src.fsch_RING_FETCH
    | some bs =>
      let e := parseEvent bs
      let head := (s.fld pgFSCH (Reg.FSCH_R_IDX_HEAD ring) + 1) % s.evRingSize ring
      let s := s.setFld pgFSCH (Reg.FSCH_R_IDX_HEAD ring) head
      let s := if s.eventOk e.slot e then s.accept e.slot e
        else (s.addSat pgFSCH (Reg.FSCH_R_IDX_REJECTED ring) 1).error pgFSCH Src.fsch_EVENT_INVALID
      let n := kget (fun _ => 0) s.fsch.sinceWb ring + 1
      if n = 16 || head = s.fld pgFSCH (Reg.FSCH_R_IDX_TAIL ring) then s.headWriteback ring
      else { s with fsch := { s.fsch with sinceWb := kset (fun _ => 0) s.fsch.sinceWb ring n } }

/-- The page that records a malformed doorbell: of the primary link, through which BAR2 is reached (R390, R393). -/
def State.doorbellPage (s : State) : Nat := pgULNK (s.primary.getD 0)
def State.badDoorbell (s : State) : State := s.error s.doorbellPage Src.ulnk_DB_MALFORMED

/-- A write to a doorbell page that R393 accepts. -/
def doorbellOk (off bytes : Nat) (v : Word) (ring : Bool) : Bool := off == 0 && bytes == 8 && (!ring || v.toNat < 2 ^ 16)

/-- EVENT_DOORBELL (R393). -/
def execEventDoorbell (ring : Fin 16) (off : Fin 4096) (bytes : Nat) (v : Word) (s : State) : Out := .next <|
  if !doorbellOk off bytes v true then s.badDoorbell
  else
    let s := { s with doorbells := kset (fun _ => 0) s.doorbells (16 + ring) v }
    if s.evRingSize ring ≤ v.toNat then s.badDoorbell
    else s.setFld pgFSCH (Reg.FSCH_R_IDX_TAIL ring) v.toNat

/-! ## Counters -/

/-- HIST_CLEAR, POOL_HWM_CLEAR, WATCH_CLEAR (R348). -/
def execHistClear (s : State) : Out :=
  .next ((List.range 16).foldl (fun (s : State) b => s.setFld pgFSCH (Reg.FSCH_HIST_COUNT b) 0) s)
def execPoolHwmClear (s : State) : Out :=
  .next (s.setFld pgFSCH Reg.FSCH_POOL_HWM_MAX (s.fld pgFSCH Reg.FSCH_POOL_USED))
def execWatchClear (s : State) : Out :=
  .next (((s.setFld pgFSCH Reg.FSCH_WATCH_STAT_DELIVERED 0).setFld pgFSCH Reg.FSCH_WATCH_STAT_MAX_WAIT 0).setFld pgFSCH
    Reg.FSCH_WATCH_LAST_LAST_WAIT 0)

/-- An uncorrectable pool entry is discarded and FSCH_LOST records it (R350). -/
def State.loseEvent (s : State) (p arr : Nat) : State :=
  match s.event p arr with
  | none => s
  | some e =>
    let s := s.setPool fun l => l.filter fun x => x != e
    let s := (s.setFld pgFSCH Reg.FSCH_LOST_FLOW ((s.slot p).alloc.flowBase + e.flow)).setFld pgFSCH Reg.FSCH_LOST_SLOT p
    (s.addSat pgFSCH Reg.FSCH_LOST_COUNT 1).wakePosts.wakeExhausted p

end Sys2Proof.Machine
end

