-- ==== Sys2Proof/Machine/TileUnit.lean ====
section
/-!
DEFINITION. Slow items (R181 to R183) and the projection array (R179, R180) of a tile.
-/

namespace Sys2Proof.Machine

open Sys2Proof

/-! ## Items -/

/-- ITEM_BUDGET of the stage that runs on a tile. -/
def State.budget (s : State) (tile : Nat) : Nat :=
  match s.runOf tile with
  | some (p, st, _) => ((s.image p).stage st).budget
  | none => 0

/-- ITEM BEGIN (R181); one inside an item is a code fault (R164). -/
def execItemBegin (tile : Fin 64) (th : Fin 8) (imm : BitVec 10) (b a : BitVec 5) (s : State) : Out :=
  ifWord (okB 0x3A imm.toNat b.toNat 0) <| s.issueWith tile th fun s p x =>
    if x.item.isSome then s.codeFault tile th p 3
    else
      let it : Item := { pos := x.sN a.toNat % 2 ^ 40, recOff := x.sN b.toNat, beginPc := x.pc
                         endPc := (x.jump (immI imm)).pc, beat := s.beat }
      s.setThread tile th { x.next with item := some it }

/-- ITEM END (R183). Without an open item nothing ends and s[A] is free (log 121). -/
def execItemEnd (tile : Fin 64) (th : Fin 8) (imm : BitVec 10) (b a : BitVec 5) (s : State) : Out :=
  ifWord (okB 0x3A imm.toNat b.toNat 1) <| s.issueWith tile th fun s _ x =>
    match x.item with
    | some it =>
      (s.setThread tile th ({ x with item := none }.putS a.toNat (if it.diverted then 1 else 0)).next).addWrap
        (pgTILE tile) Reg.TILE_ITEM_ITEMS 1
    | none =>
      let (k, s) := s.fresh
      s.setThread tile th (x.putS a.toNat k).next

/-- TILE_THR.DIVERT_HELD (R184). -/
def State.noteDiverts (s : State) (tile : Nat) : State :=
  s.setFld (pgTILE tile) Reg.TILE_THR_DIVERT_HELD (s.tile tile).divert.length

/-- The record that the divert buffer takes (Table TILE-8). -/
def State.divertRec (s : State) (tile th : Nat) (x : Thread) (it : Item) : Option Divert :=
  (s.runOf tile).map fun r =>
    { pos := it.pos, chunk := r.2.2, slot := r.1, stage := r.2.1, ltile := (s.slot r.1).alloc.tiles.idxOf tile
      thread := th, pc := it.beginPc, beat := it.beat, rest := s.tmRead tile (it.recOff + 32) 32, event := x.event }

/-- The 64 bytes of a divert record (Table TILE-8). -/
def Divert.bytes (d : Divert) : List Byte :=
  leBytes 8 d.pos ++ leBytes 8 d.chunk ++ [byte d.slot, byte d.stage, byte d.ltile, byte d.thread] ++ leBytes 4 d.pc ++
    leBytes 8 d.beat ++ d.rest

/-- Divert a thread's item whose count has reached the budget (R181): its descriptors end, and at an instruction
boundary, with a record free, the item goes to the buffer; otherwise it stays spent (R183, log 120). -/
def State.divertItem (s : State) (tile th : Nat) : State :=
  match (s.thread tile th).item with
  | none => s
  | some it =>
    if it.diverted then s
    else if (s.tile tile).divert.length ≥ 16 then
      s.setThread tile th { s.thread tile th with item := some { it with spent := true } }
    else
      let s := (List.range 8).foldl (fun (s : State) k =>
        match (s.tile tile).slot k with
        | some y => if y.inItem && y.thread == th then s.endStrm tile k 3 0 else s
        | none => s) s
      let s := s.strmSettle tile
      let x := s.thread tile th
      match s.divertRec tile th x it, s.runOf tile with
      | some d, some (p, _, _) =>
        if x.wait.isSome || x.run != .run then
          s.setThread tile th { x with item := some { it with spent := true } }
        else if !s.tmOk p it.recOff 64 then s.tmRange tile th p it.recOff
        else
          let x := { x with pc := it.endPc, event := none, item := some { it with spent := true, diverted := true } }
          let s := s.setThread tile th x
          let s := (s.setTile tile { s.tile tile with divert := (s.tile tile).divert ++ [d] }).noteDiverts tile
          (s.addWrap (pgTILE tile) Reg.TILE_ITEM_DIVERTED 1).error (pgTILE tile) Src.tile_ITEM_DIVERT
      | _, _ => s

/-- A tile works: its plan may run threads and it is on and unfenced. -/
def State.tileWorks (s : State) (tile : Nat) : Bool :=
  match s.runOf tile with
  | some (p, _, _) => s.active p && s.powered (pgTILE tile) && !s.fenced (pgTILE tile)
  | none => false

/-- ITEM_DIVERT: the count reaches ITEM_BUDGET (R181). -/
def execItemDivert (tile : Fin 64) (th : Fin 8) (s : State) : Out := .next <|
  match (s.thread tile th).item with
  | none => s
  | some it =>
    if s.budget tile = 0 || !s.tileWorks tile then s
    else s.atBeat (it.beat + s.budget tile) fun s => s.divertItem tile th

/-- DIVERT_TAKE: Henair takes the oldest record; a spent item takes its place, lowest thread first (R182, R183). -/
def execDivertTake (tile : Fin 64) (s : State) : Out := .next <|
  let t := s.tile tile
  match t.divert with
  | [] => s
  | d :: ds =>
    if !s.tileWorks tile then s
    else
      let s := (s.setTile tile { t with divert := ds, taken := t.taken ++ [d] }).noteDiverts tile
      (List.range 8).foldl (fun (s : State) th =>
        match (s.thread tile th).item with
        | some it => if it.spent && !it.diverted then s.divertItem tile th else s
        | none => s) s

/-! ## Projection array -/

def Tile.weightSet (t : Tile) (k : Nat) : Weights := kget (fun _ => {}) t.weights k

/-- LOADW (R179): a 32 × 32 matrix from tile memory at s[A]. -/
def execProjLoadw (tile : Fin 64) (th : Fin 8) (var : BitVec 3) (mask : BitVec 3) (ty : BitVec 4) (b a d : BitVec 5)
    (s : State) : Out :=
  ifWord (okV 0x42 var.toNat mask.toNat ty.toNat b.toNat a.toNat d.toNat && (var.toNat == 0 || var.toNat == 5)) <|
    s.issueWith tile th fun s p x =>
      let w := tyWidth ty.toNat / 8
      let o := x.sN a.toNat
      if !s.tmOk p o (1024 * w) then s.tmRange tile th p o
      else
        let bs := s.tmRead tile o (1024 * w)
        let ws := (List.range 1024).map fun i => leNat (slice bs (i * w) w)
        let t := s.tile tile
        let ks := kset (fun _ => {}) t.weights (if var.toNat = 0 then 0 else 1) { ty := ty.toNat, w := ws }
        (s.setTile tile { t with weights := ks }).setThread tile th x.next

/-- Output element j of register r: 64 outputs a register, 32 a vector (R180). -/
def projElem (g : Weights) (a r j : Nat) : Nat :=
  let i := r * 64 + j
  let v := i / 32
  let row := i % 32
  let w := tyWidth g.ty
  projDot g.ty ((List.range 32).map fun k => g.w.getD (row * 32 + k) 0) ((List.range 32).map fun k => elem a w (v * 32 + k))
    (a + g.w.foldl (fun h x => h * 2 ^ 16 + x) 0 * 2 ^ 2048) i

/-- MV and MVACC (R180): the mask selects elements of each register written. With fp8 weights and a D that is no
multiple of 4 the registers written are free (log 122). -/
def State.projMul (s : State) (tile th : Nat) (x : Thread) (set mask a d : Nat) (acc : Bool) : State :=
  let g := (s.tile tile).weightSet set
  let n := if tyWidth g.ty = 8 then 4 else 2
  let (fr, s) := s.fresh
  let z := s.ftz tile
  let y := (List.range n).foldl (fun (y : Thread) r =>
    let k := (d + r) % 32
    let old := x.vN k
    let v := lanes 32 64 (x.mN mask) old fun j =>
      if d % n ≠ 0 then (fr / 2 ^ (32 * (64 * r + j)) % 2 ^ 32, 0)
      else
        let e := projElem g (x.vN a) r j
        (if acc then (varithElem 0 10 z (elem old 32 j) e).1 else e, 0)
    y.putV k v.1) x
  s.setThread tile th y.next

def execProjMv (tile : Fin 64) (th : Fin 8) (var : BitVec 3) (mask : BitVec 3) (ty : BitVec 4) (b a d : BitVec 5)
    (s : State) : Out :=
  ifWord (okV 0x42 var.toNat mask.toNat ty.toNat b.toNat a.toNat d.toNat && (var.toNat == 1 || var.toNat == 2)) <|
    s.issueWith tile th fun s _ x => s.projMul tile th x (var.toNat - 1) mask.toNat a.toNat d.toNat false
def execProjMvacc (tile : Fin 64) (th : Fin 8) (var : BitVec 3) (mask : BitVec 3) (ty : BitVec 4) (b a d : BitVec 5)
    (s : State) : Out :=
  ifWord (okV 0x42 var.toNat mask.toNat ty.toNat b.toNat a.toNat d.toNat && (var.toNat == 3 || var.toNat == 4)) <|
    s.issueWith tile th fun s _ x => s.projMul tile th x (var.toNat - 3) mask.toNat a.toNat d.toNat true

end Sys2Proof.Machine
end

