-- ==== Sys2Proof/Machine/Batch.lean ====
section
/-!
DEFINITION. Batch queues (11): opening a batch and its lineage (R292, R293, R310, R314), its flags and slot (R311), commit
(R312, R316), slots returned by the consumer and the chime (R313, R315), real-time deadlines (R320, R321).
-/

namespace Sys2Proof.Machine

open Sys2Proof

/-! ## Lineage -/

/-- The SAMPLE operator's block. -/
def Image.sample (i : Image) : Option (List Byte) := (i.findOp 7 1).map fun p => i.cfg p.2
/-- N of the dataset claim (R273). -/
def Image.dataset (i : Image) : Nat := i.amount 16

/-- Parameter values of a chunk (R69). -/
def State.param (s : State) (p k idx : Nat) : Nat := ((s.chunkParams p k).getD idx 0).toNat

/-- Epoch and position of a step (R273). -/
def State.epochOf (s : State) (p k : Nat) (c : List Byte) (g : Nat) : Nat × Nat :=
  let n := max (s.image p).dataset 1
  ((s.param p k (bytesAt c 2 1) % 2 ^ 32 + g / n) % 2 ^ 32, g % n)

/-- The order comes from host lists (R282). -/
def State.listed (s : State) (c : List Byte) : Bool := s.assist pgSHUF && bytesAt c 0 1 % 2 == 1

/-- The lineage record of a batch (Table SAMP-6). Fields of the drawn order, in a plan without SAMPLE, are free
(log 130). -/
def State.lineage (s : State) (p queue seq : Nat) (e : BatchEnv) (diverged : Bool) : List Byte × State :=
  let img := s.image p
  let flag := fun (b : Bool) k => if b then 2 ^ k else 0
  let packed := (img.findOp 7 3).isSome
  let fld := match img.sample with
    | some c =>
      let ep := s.epochOf p e.chunk c e.firstStep
      let w := bytesAt c 4 2
      let listed := s.listed c
      let seed := if listed then s.param p e.chunk (bytesAt c 3 1) + ep.1 % 2 * 8 * img.dataset
        else s.param p e.chunk (bytesAt c 1 1)
      ((bytesAt c 0 1 % 2 == 1, listed, seed, ep.1), (w, ep.2 % max w 1, ep.2), s)
    | none =>
      let (k, s) := s.fresh
      ((false, false, k % 2 ^ 64, k / 2 ^ 64 % 2 ^ 32), (k / 2 ^ 96 % 2 ^ 16, k / 2 ^ 112 % 2 ^ 16, k / 2 ^ 128 % 2 ^ 40), s)
  let body :=
    leBytes 4 0x474E494C ++ leBytes 2 1 ++
      [byte (p + flag fld.1.1 4 + flag fld.1.2.1 5 + flag packed 6 + flag diverged 7), byte queue] ++
      leBytes 8 img.planId ++ leBytes 8 seq ++ leBytes 8 fld.1.2.2.1 ++ leBytes 4 fld.1.2.2.2 ++
      leBytes 2 fld.2.1.1 ++ leBytes 2 fld.2.1.2.1 ++ leBytes 8 e.firstStep ++ leBytes 8 (fld.2.1.2.2 % 2 ^ 40) ++
      leBytes 8 (e.span % 2 ^ 40) ++ leBytes 4 e.rows ++ leBytes 4 e.dropped ++
      leBytes 8 (if packed then e.firstToken % 2 ^ 48 else 0) ++ leBytes 8 (if packed then e.endToken % 2 ^ 48 else 0) ++
      leBytes 8 e.chunk ++ leBytes 8 e.extFirst ++ leBytes 4 e.extCount ++ leBytes 4 0 ++ leBytes 8 e.augStep
  (body ++ leBytes 4 (crc32c body) ++ leBytes 4 0, fld.2.2)

/-- A record with DIVERGED set and its CRC made again (R293). -/
def markDiverged (l : List Byte) : List Byte :=
  let body := l.take 6 ++ [byte ((l.getD 6 0).toNat % 128 + 128)] ++ (l.drop 7).take 113
  body ++ leBytes 4 (crc32c body) ++ leBytes 4 0

/-! ## Opening -/

/-- OLDEST: the lowest uncommitted sequence number (R314). -/
def Queue.oldest (q : Queue) : Nat := (q.batches.head?.map Batch.seq).getD q.next

def Queue.setBatch (q : Queue) (b : Batch) : Queue :=
  { q with batches := q.batches.map fun x => if x.seq = b.seq then b else x }

/-- BATCH_OPEN: in a re-run the next batch to be drawn again takes its rows (R293); otherwise a new batch opens within
the reorder window (R292, R310, R314). -/
def execBatchOpen (queue : Fin 64) (env : BatchEnv) (s : State) : Out := .next <|
  match s.queue queue with
  | none => s
  | some q =>
    if !s.active q.slot || !s.enabled pgBATQ || !((s.slot q.slot).chunks.any fun c => c.k == env.chunk) ||
        q.samples < env.rows then s
    else match q.batches.find? fun (b : Batch) => b.reopen with
      | some b =>
        if b.dropped = env.dropped then s.setQueue queue (some (q.setBatch { b with reopen := false }))
        else
          let b := { b with reopen := false, diverged := true, lineage := markDiverged b.lineage }
          ((s.setQueue queue (some (q.setBatch b))).addSat pgSHUF Reg.SHUF_CNT_DIVERGED 1).error pgSHUF
            Src.shuf_LINEAGE_DIVERGED
      | none =>
        if q.oldest + q.depth ≤ q.next then s.setBit pgBATQ (Reg.BATQ_Q_STAT_WINDOW_STALL queue) true
        else
          let l := s.lineage q.slot queue q.next env false
          let b : Batch := { seq := q.next, slot := q.slot, chunk := env.chunk, last := max env.chunk env.last
                             rows := env.rows, dropped := env.dropped, lineage := l.1, gen := (s.own q.slot).cur.gen
                             short := env.short }
          (l.2.setQueue queue (some { q with next := q.next + 1, batches := q.batches ++ [b] })).setBit pgBATQ
            (Reg.BATQ_Q_STAT_WINDOW_STALL queue) false

/-! ## Flags and slot -/

/-- FLAG_BYTES of a queue's batches (R309). -/
def Queue.flagBytes (q : Queue) : Nat := (q.samples + 255) / 256 * 64

/-- The flag area of a batch (R311). -/
def Batch.flags (b : Batch) (n : Nat) : List Byte :=
  (List.range n).map fun i => byte <| (List.range 4).foldl (fun m j =>
    let r := 4 * i + j
    m + (if b.concealed.contains r then 4 ^ j else 0) + (if b.late.contains r then 2 * 4 ^ j else 0)) 0

/-- Bytes 0x08 to 0xFF of the slot record (Table BATQ-6; log 132 for COMMIT_BEAT). -/
def Batch.slotBytes (b : Batch) (beat : Nat) : List Byte :=
  let flag := fun (x : Bool) k => if x then 2 ^ k else 0
  leBytes 8 b.seq ++ leBytes 4 b.rows ++ leBytes 4 b.concealed.length ++ leBytes 4 b.late.length ++
    leBytes 4 b.dropped ++ leBytes 8 beat ++
    leBytes 4 (flag b.short 0 + flag b.lateBeat 1 + flag b.regenerated 2 + flag b.diverged 3) ++ leBytes 4 b.gen ++
    leBytes 16 0 ++ b.lineage ++ leBytes 64 0

/-- The queue's window, in the batch's table version (R307, R311). -/
def State.ringWindow (s : State) (q : Queue) (b : Batch) : Option OwnWindow := ((s.own q.slot).ver b.gen).windows[q.ringWin]?

/-- Write bytes of a batch's flags or slot: to device memory at once, to the host one request for each line. -/
def State.batchWrite (s : State) (n : Nat) (q : Queue) (b : Batch) (w : OwnWindow) (off : Nat) (bs : List Byte)
    (src : ReqSrc) : State :=
  let a := s.windowBase q.slot w + off
  if w.space = 0 then s.writeMem pgBATQ a bs false
  else
    let lines := (List.range ((a % 64 + bs.length + 63) / 64)).map fun i =>
      let lo := max a ((a / 64 + i) * 64)
      let hi := min (a + bs.length) ((a / 64 + i + 1) * 64)
      (lo, slice bs (lo - a) (hi - lo))
    let s := lines.foldl (fun (s : State) l => s.issueHost .itoMWr (hostAddr (w.space == 1) w.pasid l.1) l.2 src) s
    match src, s.queue n with
    | .batchSlot _ _, some q => s.setQueue n (some (q.setBatch { b with unacked := b.unacked + lines.length }))
    | _, _ => s

/-- LATE_POLICY ZERO: zeros to every byte of the late rows, through the batch's table version (R320). -/
def State.zeroRows (s : State) (n : Nat) (q : Queue) (b : Batch) (rows : List Nat) : State :=
  let v := (s.own q.slot).ver b.gen
  (v.tables.filter fun t => t.queue == n).foldl (fun (s : State) t =>
    rows.foldl (fun (s : State) r =>
      s.ownPut q.slot v t b.seq q.slots (r * t.rowBytes) (List.replicate t.rowBytes 0)) s) s

/-- Beat of a batch's deadline in a real-time plan (R340). -/
def State.deadline (s : State) (p : Nat) (b : Batch) : Option Nat :=
  match (s.image p).findOp 9 3, (s.slot p).chunks.find? fun (c : ChunkRec) => c.k == b.last with
  | some o, some c => if c.cadence = 0 then none else some (c.cadence + bytesAt ((s.image p).cfg o.2) 8 4)
  | _, _ => none

/-- Chunks below this number have completed a stage. -/
def State.stageDoneOf (s : State) (p stage : Nat) : Nat := kget (fun _ => 0) (s.slot p).stageDone stage

/-- A plan's batches can commit. -/
def State.commits (s : State) (q : Queue) : Bool :=
  let st := s.slotState q.slot
  s.enabled pgBATQ && !s.bit pgGLB Reg.GLB_STAT_SAFE && st != 0 && st != 1 && st != 7

/-- BATCH_COMPLETE: steps 1 and 2 of R312 for the queue's oldest batch; `concealed` are its rows with flag bit 0. -/
def execBatchComplete (queue : Fin 64) (concealed : List Nat) (s : State) : Out := .next <|
  match s.queue queue with
  | none => s
  | some q =>
    match q.batches with
    | [] => s
    | b :: _ =>
      let done := b.last < s.stageDoneOf q.slot q.stage
      if b.phase != 0 || b.reopen || !(done || b.closed) || !s.commits q || q.commitOut.isSome then s
      else if s.cons queue + q.slots ≤ b.seq then s.setBit pgBATQ (Reg.BATQ_Q_STAT_RING_STALL queue) true
      else
        let passed := match s.deadline q.slot b with
          | some d => (s.image q.slot).realtime && decide (d < s.beat)
          | none => false
        let b := { b with concealed := (concealed.filter (· < b.rows)).eraseDups, phase := 1
                          lateBeat := b.lateBeat || passed }
        let s := if b.zeroDue then s.zeroRows queue q b b.late else s
        let s := (s.setQueue queue (some (q.setBatch b))).setBit pgBATQ (Reg.BATQ_Q_STAT_RING_STALL queue) false
        match s.ringWindow q b with
        | none => s
        | some w =>
          let i := b.seq % q.slots
          let s := s.batchWrite queue q b w (q.flagOff + i * q.flagBytes) (b.flags q.flagBytes) (.batchSlot queue b.seq)
          let b := ((s.queue queue).bind fun q => q.batches.head?).getD b
          let s := s.batchWrite queue q b w (q.ringOff + 256 * i + 8) (b.slotBytes s.beat) (.batchSlot queue b.seq)
          match s.queue queue with
          | some q => match q.batches with
            | b :: _ => if b.unacked = 0 then s.setQueue queue (some (q.setBatch { b with phase := 2 })) else s
            | [] => s
          | none => s

/-! ## Commit -/

/-- The chime of a queue (R315): the ready count falls below CHIME_LOW. `old` is the count before. -/
def State.chime (s : State) (n : Nat) : State :=
  match s.queue n with
  | none => s
  | some q =>
    let low := s.fld pgBATQ (Reg.BATQ_Q_CFG_CHIME_LOW n)
    let ready := s.prod n - s.cons n
    if low = 0 then s
    else if low ≤ ready then s.setQueue n (some { q with armed := true })
    else if q.armed then
      let s := s.setQueue n (some { q with armed := false })
      let was := bitsOf (s.rd pgBATQ 0x108).toNat n n
      let s := ((s.wr pgBATQ 0x108 (s.rd pgBATQ 0x108 ||| word (2 ^ n))).raise pgBATQ 3).perf pgBATQ 0x103 1
      if was = 0 && bitsOf (s.rd pgBATQ 0x50).toNat 3 3 = 1 then s.msix (s.fld pgBATQ (Reg.BATQ_Q_CFG_VECTOR n)) else s
    else s

/-- What follows a commit: chunks without an uncommitted row are forgotten, with their draws, checkpoints, table
versions and events (R124, R307, R336). -/
def State.afterCommit (s : State) (p : Nat) : State :=
  let s := s.dropChunks p
  let s := { s with draws := s.draws.filter fun d => d.1 != p || (s.slot p).chunks.any fun c => c.k == d.2.1 }
  (((s.dropCheckpoints p).dropPrev p).retireEvents p).wakePosts

/-- BATCH_COMMIT: step 3 of R312; the batch is committed when COMMIT passes the write gate. -/
def execBatchCommit (queue : Fin 64) (s : State) : Out := .next <|
  match s.queue queue with
  | none => s
  | some q =>
    match q.batches with
    | [] => s
    | b :: rest =>
      match s.ringWindow q b with
      | none => s
      | some w =>
        let off := q.ringOff + 256 * (b.seq % q.slots)
        let host := w.space != 0
        let a := hostAddr (w.space == 1) w.pasid (s.windowBase q.slot w + off)
        if b.phase != 2 || b.unacked != 0 || !s.commits q || s.link.gateClosed || (host && (s.linkFor a).isNone) then s
        else
          let s := s.batchWrite queue q b w off (leBytes 8 (b.seq + 1)) (.batchCommit queue b.seq)
          let s := s.setQueue queue (some { q with batches := rest, commitOut := if host then some b else none })
          let s := (s.setFld pgBATQ (Reg.BATQ_Q_PROD_SEQ queue) (b.seq + 1)).perf pgBATQ 0x100 1
          (s.chime queue).afterCommit q.slot

/-- A value written to CONS frees slots, or is ignored as out of range (R313). -/
def State.consume (s : State) (queue : Nat) (v : Word) : State :=
  if v.toNat < s.cons queue || s.prod queue < v.toNat then s.error pgBATQ Src.batq_CONS_RANGE
  else (s.setFld pgBATQ (Reg.BATQ_Q_CONS_SEQ queue) v.toNat).chime queue

/-- BATQ_CONS: a write of the register, or a write of some bytes at an offset of the queue's doorbell page (R313,
R393). -/
def execBatqCons (queue : Fin 64) (door : Option (Fin 4096)) (bytes : Nat) (v : Word) (s : State) : Out := .next <|
  match door with
  | none => s.consume queue v
  | some off =>
    if !doorbellOk off bytes v false then s.badDoorbell
    else { s with doorbells := kset (fun _ => 0) s.doorbells (32 + queue) v }.consume queue v

/-! ## Deadlines -/

/-- Step positions of the items of a chunk that are diverted and not returned. -/
def State.divertsOf (s : State) (p stage k : Nat) : List Divert :=
  (s.slot p).alloc.tiles.flatMap fun t => ((s.tile t).divert ++ (s.tile t).taken).filter fun d =>
    d.slot == p && d.stage == stage && d.chunk == k

/-- A tile has arrived at the gong of a stage for every chunk of a batch. -/
def State.arrived (s : State) (p stage : Nat) (b : Batch) (tile : Nat) : Bool :=
  b.last < s.stageDoneOf p stage ||
    ((s.slot p).runs.any fun r => r.stage == stage && r.chunk == b.last && r.tiles.contains tile)

/-- Late rows of a batch at its deadline (R320): no tile that has arrived wrote them, or a diverted item holds them.
An item's row is found from its position (log 131). -/
def State.lateRows (s : State) (q : Queue) (b : Batch) : List Nat :=
  let first := bytesAt b.lineage 0x30 5
  let w := max (bytesAt b.lineage 0x24 2) 1
  let items := (s.divertsOf q.slot q.stage b.last).map Divert.pos
  (List.range b.rows).filter fun r =>
    !(s.arrived q.slot q.stage b (kget (fun _ => 64) b.writers r)) || items.contains (first + r * w)

/-- BATCH_DEADLINE: the deadline of a batch of a real-time plan comes (R320, R321). -/
def execBatchDeadline (queue : Fin 64) (seq : Word) (s : State) : Out := .next <|
  match s.queue queue with
  | none => s
  | some q =>
    match q.batches.find? fun (b : Batch) => b.seq == seq.toNat with
    | none => s
    | some b =>
      match s.deadline q.slot b with
      | none => s
      | some d =>
        if b.closed || b.phase != 0 || !(s.image q.slot).realtime || s.slotState q.slot == 7 then s
        else s.atBeat d fun s =>
          let late := s.lateRows q b
          let held := s.cons queue + q.slots ≤ b.seq
          let s := if q.latePolicy = 0 && !held then s.zeroRows queue q b late else s
          let b := { b with closed := true, late := late, lateBeat := !late.isEmpty || held, reopen := false
                            zeroDue := q.latePolicy = 0 && held }
          let s := (s.setQueue queue (some (q.setBatch b))).perf pgBATQ 0x102 late.length
          if b.lateBeat then s.error pgBATQ Src.batq_LATE_COMMIT else s

end Sys2Proof.Machine
end

