-- ==== Sys2Proof/Machine/Car.lean ====
section
/-!
DEFINITION. The Carillon (08): searches (R215, R221 to R227, R246, R247), tables and their order (R218, R219, R231 to
R234), the commands that change a table (R235 to R238), shadow copies and the scrubber (R241 to R243).
-/

namespace Sys2Proof.Machine

open Sys2Proof

/-- LEN of an entry (Table CAR-1). -/
def CarEntry.len (e : CarEntry) : Nat := popcount 256 e.mask
def bellSize : Nat := 16384
def Bell.at (b : Bell) (i : Nat) : Option CarEntry := kget (fun _ => none) b i
/-- Valid entries of a bell with their indexes, lowest index first. -/
def Bell.entries (b : Bell) : List (Nat × CarEntry) := b.filterMap fun p => p.2.map fun e => (p.1, e)
def State.bell (s : State) (n : Nat) : Bell := kget (fun _ => []) s.car.bells n
def State.setBell (s : State) (n : Nat) (b : Bell) : State :=
  { s with car := { s.car with bells := kset (fun _ => []) s.car.bells n b } }
def State.table (s : State) (n : Nat) : Option CarTable := kget (fun _ => none) s.car.tables n
def State.setTable (s : State) (n : Nat) (t : Option CarTable) : State :=
  { s with car := { s.car with tables := kset (fun _ => none) s.car.tables n t } }

/-! ## Bells of a table -/

def CarTable.replicas (t : CarTable) : Nat := 2 ^ t.repl
/-- Number, among its plan's bells, of logical bell j of a replica of a set (R218). -/
def CarTable.logical (t : CarTable) (set rep j : Nat) : Nat := t.first + (set * t.replicas + rep) * t.bells + j
/-- Its physical bell (R60). -/
def State.physBell (s : State) (t : CarTable) (set rep j : Nat) : Nat :=
  ((s.slot t.slot).alloc.bells).getD (t.logical set rep j) 0
def State.bellFenced (s : State) (b : Nat) : Bool := s.fenced (pgBELL b)

/-- Device address of the shadow record of an index (R241). -/
def State.shadowAddr (s : State) (t : CarTable) (set rep j i : Nat) : Nat :=
  (((s.slot t.slot).alloc.shadow.map Region.base).getD 0) + t.logical set rep j * 2 ^ 21 + 128 * i

/-- A record of Table CAR-1, as a shadow copy holds it. -/
def carRecord (e : Option CarEntry) : List Byte :=
  match e with
  | some e => leBytes 32 e.key ++ leBytes 32 e.mask ++ leBytes 8 e.data ++ leBytes 4 (1 + e.len * 2 ^ 8) ++ leBytes 52 0
  | none => leBytes 128 0

/-- What a shadow record says: the entry, none for an invalid one. -/
def shadowEntry (r : List Byte) : Option CarEntry :=
  if bytesAt r 0x48 1 % 2 = 1 then some { key := bytesAt r 0 32, mask := bytesAt r 0x20 32, data := bytesAt r 0x40 8 }
  else none

/-- Write one entry of one bell and its shadow record (R237, R241); in 1 ASSIST the shadow copy alone stands for the
table, with the same contents (R249, log 81). A shadow write to a hole records SHADOW_WRITE_ERR. -/
def State.putEntry (s : State) (t : CarTable) (set rep j i : Nat) (e : Option CarEntry) : State :=
  let b := s.physBell t set rep j
  let a := s.shadowAddr t set rep j i
  let s := s.setBell b (kset (fun _ => none) (s.bell b) i e)
  if (s.locate a).isNone then s.recordError pgCAR Src.car_SHADOW_WRITE_ERR false b
  else s.writeDev a (carRecord e) false

/-- Write one entry in every replica of a set (R237). -/
def State.putAll (s : State) (t : CarTable) (set j i : Nat) (e : Option CarEntry) : State :=
  (List.range t.replicas).foldl (fun s r => s.putEntry t set r j i e) s

/-! ## Searching -/

/-- A search (R221). -/
structure SearchReq where
  key : Nat
  gmask : Nat
  bellset : Nat
  maxlen : Nat
  cursor : Nat
  deriving DecidableEq, Repr

/-- An entry matches (R215). -/
def CarEntry.hit (e : CarEntry) (q : SearchReq) : Bool :=
  (q.key ^^^ e.key) &&& e.mask &&& q.gmask == 0 && e.len ≤ q.maxlen

/-- One match precedes another (R222): longer, then lower index. -/
def matchBefore (a b : Nat × CarEntry) : Bool := b.2.len < a.2.len || (a.2.len == b.2.len && a.1 ≤ b.1)
def insertMatch (m : Nat × CarEntry) : List (Nat × CarEntry) → List (Nat × CarEntry)
  | [] => [m]
  | x :: xs => if matchBefore m x then m :: x :: xs else x :: insertMatch m xs

/-- The matches of a replica, best first, with their table indexes (R219, R222). -/
def State.matches (s : State) (t : CarTable) (rep : Nat) (q : SearchReq) : List (Nat × CarEntry) :=
  if t.loading then []
  else ((List.range t.bells).flatMap fun j =>
    let b := s.physBell t t.active rep j
    if (q.bellset == 0 || q.bellset / 2 ^ j % 2 == 1) && !s.bellFenced b then
      (s.bell b).entries.filterMap fun p => if p.2.hit q then some (j * bellSize + p.1, p.2) else none
    else []).foldl (fun l m => insertMatch m l) []

/-- A result (R225): the DATA word, the status word, the cursor's indexes. -/
structure SearchAns where
  data : Nat
  status : Nat
  steps : List Nat
  deriving DecidableEq, Repr

/-- The result that matches give (Table CAR-4, R226, R243). -/
def CarTable.answer (t : CarTable) (ms : List (Nat × CarEntry)) (cursor : Nat) (bad fenced : Bool) : SearchAns :=
  let err := bad && !ms.isEmpty
  let data := match ms with
    | m :: _ => if err then t.miss else m.2.data
    | [] => t.miss
  let tailBits := (if err then 2 ^ 26 else 0) + (if fenced then 2 ^ 27 else 0)
  if t.bells ≥ 5 then { data := data, status := 2 ^ 25 + tailBits, steps := [] }
  else
    let more := ms.drop 1
    let steps := (more.take cursor).map Prod.fst
    { data := data
      status := (ms.head?.map Prod.fst).getD 0 + (if ms.isEmpty then 0 else 2 ^ 16) + (if more.isEmpty then 0 else 2 ^ 17) +
        (if steps.length < more.length then 2 ^ 18 else 0) + steps.length * 2 ^ 19 + tailBits
      steps := steps }

/-- The index was lost: BELL_SCRUB, CAR_Tt_CFG.LOST and SCRUB_LOST (R242). -/
def State.loseIndex (s : State) (tid b i : Nat) : State :=
  let pg := pgBELL b
  let s := (s.setBit pg Reg.BELL_SCRUB_LOST true).setFld pg Reg.BELL_SCRUB_LOST_IDX i
  let s := match s.table tid with
    | some t => s.setTable tid (some { t with lost := true })
    | none => s
  s.error pg Src.bell_SCRUB_LOST

/-- Table CAR-9 for an entry whose parity is bad: rewritten from a good shadow record, else lost (R242, R243). -/
def State.mendEntry (s : State) (tid : Nat) (t : CarTable) (set rep j i : Nat) : State :=
  let b := s.physBell t set rep j
  let r := s.readDev (s.shadowAddr t set rep j i) 128
  if r.2 then (s.setBell b (kset (fun _ => none) (s.bell b) i none)).loseIndex tid b i
  else s.setBell b (kset (fun _ => none) (s.bell b) i (shadowEntry r.1))

/-- A search of a replica; `bad` says that the best entry fails parity (R243). -/
def State.search (s : State) (tid : Nat) (t : CarTable) (rep : Nat) (q : SearchReq) (bad : Bool) : State × SearchAns :=
  let ms := s.matches t rep q
  let fenced := (List.range t.bells).any fun j => s.bellFenced (s.physBell t t.active rep j)
  let ans := t.answer ms q.cursor bad fenced
  let s := (List.range t.bells).foldl (fun (s : State) j =>
    let b := s.physBell t t.active rep j
    let s := s.perf (pgBELL b) 0x100 1
    if ms.any fun m => m.1 / bellSize == j then s.perf (pgBELL b) 0x101 1 else s) s
  let s := s.perf pgCAR 0x104 ans.steps.length
  match ms with
  | m :: _ =>
    if bad then
      let j := m.1 / bellSize
      ((s.mendEntry tid t t.active rep j (m.1 % bellSize)).error (pgBELL (s.physBell t t.active rep j))
        Src.bell_ENTRY_PARITY, ans)
    else (s, ans)
  | [] => (s, ans)

/-- Ports that serve (R252). -/
def State.portUp (s : State) (p : Nat) : Bool := bitsOf (s.fld pgCAR Reg.CAR_STAT_PORTS_UP) p p == 1
/-- The port of a tile: that of its mesh rows, or the next unfenced one (R16, R223, R252). -/
def State.portOf (s : State) (tile : Nat) : Nat :=
  let p := tile / 16
  ((List.range 4).map fun k => (p + k) % 4).find? s.portUp |>.getD p

/-- The 64-bit unsigned value that preserves the order of a type's value (R247); none for NaN. -/
def rangeKey (ty x : Nat) : Option Nat :=
  match tyFmt ty with
  | some f =>
    if f.isNan x then none
    else
      let w := (Fmt.f64.ofVal .ieee 0 0 0 (f.value x)).1
      let w := if w = 2 ^ 63 then 0 else w
      some (if w / 2 ^ 63 % 2 = 1 then 2 ^ 64 - 1 - w else w + 2 ^ 63)
  | none => if tySigned ty then some ((tyInt ty x + 2 ^ 63) % 2 ^ 64).toNat else some x

/-- The byte fallback of a token (R246). -/
def CarTable.fallback (t : CarTable) (a : SearchAns) (key : Nat) : SearchAns :=
  if a.data / 2 ^ 32 % 256 != 0 then a
  else { a with data := (t.byteBase + key % 256) % 2 ^ 32 + 2 ^ 32, status := a.status + 2 ^ 28 }

/-- Place a search's result in its thread's registers (R227). -/
def Thread.putSearch (x : Thread) (q : CarSearch) (a : SearchAns) : Thread :=
  let put := fun (w r : Nat) (x : Thread) (v : Nat) =>
    x.putV r (x.vN r - elem (x.vN r) w q.lane * 2 ^ (w * q.lane) + v % 2 ^ w * 2 ^ (w * q.lane))
  if q.form = 2 then put 64 q.d x a.data
  else
    let x := put 256 q.d x (a.data % 2 ^ 64 + a.status % 2 ^ 64 * 2 ^ 64)
    if q.form = 1 then x
    else put 256 (q.d + 1) x (a.steps.zipIdx.foldl (fun n p => n + p.1 % 2 ^ 16 * 2 ^ (16 * p.2)) 0)

/-- One answer of a waiting thread arrives; with the last one the thread runs on (R211, R227). -/
def Thread.answered (x : Thread) : Thread :=
  match x.wait with
  | some (.answers n) => if n ≤ 1 then { x with wait := none, run := .run } else { x with wait := some (.answers (n - 1)) }
  | _ => x

/-- The oldest search that waits at a port is accepted and served (R223 to R227, R246). -/
def execCarSearch (port : Fin 4) (parityBad : Bool) (s : State) : Out :=
  match s.car.searches.find? fun q => q.port == port.val with
  | none => .next s
  | some q =>
    if !s.portUp port || !s.powered pgCAR then .next s
    else
      let s := { s with car := { s.car with searches := s.car.searches.erase q } }
      match s.table q.table with
      | none => .next s
      | some t =>
        let r := s.search q.table t (port.val % t.replicas) { key := q.key, gmask := q.gmask, bellset := q.bellset,
                                                              maxlen := q.maxlen, cursor := q.cursor } parityBad
        let a := if q.form = 1 then t.fallback r.2 q.key else r.2
        let x := r.1.thread q.tile q.th
        .next ((r.1.setThread q.tile q.th (x.putSearch q a).answered).perf pgCAR 0x100 1)

/-- Issue a thread's searches (R227): the lanes' searches queue at the tile's port and the thread waits. `x'` is the
thread with the lanes that need no search already written. -/
def State.issueSearches (s : State) (tile th p ty form : Nat) 
    (qs : List (Nat × SearchReq)) (d : Nat) (x' : Thread) : State :=
  let tid := (s.image p).bellArg + ty
  let port := s.portOf tile
  let new := qs.map fun q => ({ port := port, tile := tile, th := th, slot := p, table := tid, form := form, lane := q.1
                                d := d, key := q.2.key, gmask := q.2.gmask, bellset := q.2.bellset
                                maxlen := q.2.maxlen, cursor := q.2.cursor } : CarSearch)
  let s := { s with car := { s.car with searches := s.car.searches ++ new } }
  if new.isEmpty then s.setThread tile th x'.next
  else s.setThread tile th { x'.next with run := .streamWait, wait := some (.answers new.length) }

def execCsrchSearch (tile : Fin 64) (th : Fin 8) (mask : BitVec 3) (ty : BitVec 4) (b a d : BitVec 5) (s : State) : Out :=
  ifWord (okV 0x41 0 mask.toNat ty.toNat b.toNat a.toNat d.toNat && d.toNat % 2 == 0) <| s.issueWith tile th fun s p x =>
    let vb := x.vN b.toNat
    let lanes := (List.range 8).filter fun k => x.mN mask.toNat / 2 ^ k % 2 == 1
    let qs := lanes.map fun k => (k, ({ key := elem (x.vN a.toNat) 256 k, gmask := vb % 2 ^ 256
                                        bellset := bitsOf vb 287 256, maxlen := bitsOf vb 296 288
                                        cursor := bitsOf vb 303 300 } : SearchReq))
    s.issueSearches tile th p ty.toNat 0 qs d.toNat x

def execCsrchTokenise (tile : Fin 64) (th : Fin 8) (mask : BitVec 3) (ty : BitVec 4) (b a d : BitVec 5) (s : State) :
    Out :=
  ifWord (okV 0x41 1 mask.toNat ty.toNat b.toNat a.toNat d.toNat) <| s.issueWith tile th fun s p x =>
    let left := fun k => elem (x.vN b.toNat) 64 k
    let qs := ((List.range 8).filter fun k => left k != 0).map fun k =>
      (k, ({ key := elem (x.vN a.toNat) 256 k, gmask := 2 ^ 256 - 1, bellset := 0, maxlen := 8 * min (left k) 32
             cursor := 0 } : SearchReq))
    let x' := x.putV d.toNat (pack 256 8 fun k => if left k = 0 then 0 else elem (x.vN d.toNat) 256 k)
    s.issueSearches tile th p ty.toNat 1 qs d.toNat x'

/-- A NaN is not searched and returns MISS_DATA (R247). -/
def execCsrchRange (tile : Fin 64) (th : Fin 8) (mask : BitVec 3) (ty : BitVec 4) (b a d : BitVec 5) (s : State) : Out :=
  ifWord (okV 0x41 2 mask.toNat ty.toNat b.toNat a.toNat d.toNat) <| s.issueWith tile th fun s p x =>
    match s.table ((s.image p).bellArg + ty.toNat) with
    | none => s.setThread tile th x.next
    | some t =>
      let key := fun k => rangeKey t.vtype (elem (x.vN a.toNat) 64 k % 2 ^ tyWidth t.vtype)
      let lanes := (List.range 32).filter fun k => x.mN mask.toNat / 2 ^ k % 2 == 1
      let qs := lanes.filterMap fun k => (key k).map fun u =>
        (k, ({ key := u, gmask := 2 ^ 256 - 1, bellset := 0, maxlen := 256, cursor := 0 } : SearchReq))
      let x' := x.putV d.toNat (pack 64 32 fun k =>
        if lanes.contains k && (key k).isNone then t.miss else elem (x.vN d.toNat) 64 k)
      s.issueSearches tile th p ty.toNat 2 qs d.toNat x'

/-! ## Order inside a bell -/

/-- The place of a class's next entry: after the last valid entry that is not shorter (R232, log 82). -/
def Bell.point (b : Bell) (len : Nat) : Nat :=
  b.entries.foldl (fun q p => if len ≤ p.2.len then max q (p.1 + 1) else q) 0
/-- The nearest invalid index from q on, and the nearest below q. -/
def Bell.freeUp (b : Bell) : Nat → Nat → Option Nat
  | 0, _ => none
  | k + 1, q => if (b.at q).isNone then some q else b.freeUp k (q + 1)
def Bell.freeDown (b : Bell) : Nat → Option Nat
  | 0 => none
  | q + 1 => if (b.at q).isNone then some q else b.freeDown q
def Bell.hasRoom (b : Bell) : Bool := b.entries.length < bellSize

/-- The invalid entry that a shift uses (R233): the nearer one, the one above when equally near. -/
def Bell.hole (b : Bell) (q : Nat) : Nat :=
  match b.freeUp (bellSize - q) q, b.freeDown q with
  | some u, some d => if u - q ≤ q - 1 - d then u else d
  | some u, none => u
  | none, some d => d
  | none, none => q

/-- Entries that a shift moves. -/
def shiftLen (q hole : Nat) : Nat := if hole ≥ q then hole - q else q - 1 - hole

/-- Moves of a shift, in the order in which they happen: from, to (R233). -/
def shiftMoves (q hole : Nat) : List (Nat × Nat) :=
  if hole ≥ q then (List.range (hole - q)).map fun k => (hole - 1 - k, hole - k)
  else (List.range (q - 1 - hole)).map fun k => (hole + 1 + k, hole + k)
/-- Where the new entry goes after the shift. -/
def shiftPlace (q hole : Nat) : Nat := if hole ≥ q then q else q - 1

/-- Insertion sort by LEN, descending, records of equal LEN in their order (R234). -/
def insertRec (e : CarEntry) : List CarEntry → List CarEntry
  | [] => [e]
  | x :: xs => if x.len < e.len then e :: x :: xs else x :: insertRec e xs
def sortRecs (l : List CarEntry) : List CarEntry := l.foldl (fun acc e => insertRec e acc) []

/-- Indexes of the entries of one bell, with a gap after each class (R234). -/
def layFrom (g : Nat) : Nat → Option Nat → List CarEntry → List (Nat × CarEntry)
  | _, _, [] => []
  | i, prev, e :: es =>
    let i := match prev with
      | some l => if l != e.len then i + g else i
      | none => i
    (i, e) :: layFrom g (i + 1) (some e.len) es
def layBell (gap : Nat) (es : List CarEntry) : Bell :=
  let k := (es.map CarEntry.len).eraseDups.length
  let g := min gap ((bellSize - es.length) / max k 1)
  (layFrom g 0 none es).map fun p => (p.1, some p.2)

/-- Lay out records over a table's bells (R234); when a regap meets more than FILL × BELLS entries, each bell takes an
equal share (log 83). -/
def CarTable.layout (t : CarTable) (recs : List CarEntry) : List Bell :=
  let fill := if recs.length ≤ t.fill * t.bells then t.fill else (recs.length + t.bells - 1) / max t.bells 1
  let sorted := sortRecs recs
  (List.range t.bells).map fun j => layBell t.gap ((sorted.drop (j * fill)).take fill)

/-- Write whole bells of a set, every replica, with their shadow copies. -/
def State.putBells (s : State) (t : CarTable) (set : Nat) (bs : List Bell) : State :=
  bs.zipIdx.foldl (fun (s : State) q =>
    (List.range t.replicas).foldl (fun (s : State) r =>
      let old := (s.bell (s.physBell t set r q.2)).entries.map Prod.fst
      let s := old.foldl (fun s i => s.putEntry t set r q.2 i none) s
      q.1.foldl (fun s p => s.putEntry t set r q.2 p.1 p.2) s) s) s

/-- The valid entries of a set, in table-index order (replica 0). -/
def State.setEntries (s : State) (t : CarTable) (set : Nat) : List (Nat × CarEntry) :=
  (List.range t.bells).flatMap fun j =>
    (s.bell (s.physBell t set 0 j)).entries.map fun p => (j * bellSize + p.1, p.2)

/-! ## Commands -/

/-- The entry that a record identifies (R235): same MASK, same KEY on its bits. -/
def CarEntry.same (a b : CarEntry) : Bool := a.mask == b.mask && (a.key ^^^ b.key) &&& a.mask == 0

/-- Complete a table's job: its ring's command, with the records applied. -/
def State.endJob (s : State) (tid : Nat) (t : CarTable) (j : CarJob) (code count : Nat) : State :=
  let s := s.setTable tid (some { t with job := none, loading := false })
  match j.ring with
  | some r => s.complete r code t.slot count 0
  | none => s

/-- Apply the records of an insert from one on, until one needs a shift or is refused (R232, R233, R235). -/
def State.insertFrom (s : State) (tid : Nat) (ring : Option Nat) (set : Nat) (bad : Bool) :
    List CarEntry → Nat → State
  | [], n =>
    match s.table tid with
    | some t => s.endJob tid t { ring := ring, set := set, applied := n, work := .regap } (if bad then 43 else 0) n
    | none => s
  | e :: rest, n =>
    match s.table tid with
    | none => s
    | some t =>
      let job := fun w => ({ ring := ring, set := set, applied := n, work := w } : CarJob)
      if (s.setEntries t set).any fun p => p.2.same e then s.endJob tid t (job .regap) 41 n
      else
        match (List.range t.bells).find? fun j => (s.bell (s.physBell t set 0 j)).hasRoom with
        | none => s.endJob tid t (job .regap) 40 n
        | some j =>
          let b := s.bell (s.physBell t set 0 j)
          let q := b.point e.len
          if q < bellSize && (b.at q).isNone then (s.putAll t set j q (some e)).insertFrom tid ring set bad rest (n + 1)
          else
            let phys := (List.range t.replicas).map fun r => s.physBell t set r j
            let s := phys.foldl (fun (s : State) b => s.addWrap (pgBELL b) Reg.BELL_STAT_SHIFTS 1) s
            s.setTable tid (some { t with job := some (job (.shift phys j q (b.hole q) e rest bad)) })

/-- A bell's shift completes: its entries are at their new indexes; with the last replica the insert writes its entry
and goes on (R233, R237, R241). -/
def execShiftDone (bell : Fin 32) (s : State) : Out :=
  match (List.range 32).find? fun tid => match s.table tid with
    | some t => (match t.job with
      | some ⟨_, _, _, .shift bs _ _ _ _ _ _⟩ => bs.contains bell.val
      | _ => false)
    | none => false with
  | none => .next s
  | some tid =>
    match s.table tid with
    | none => .next s
    | some t =>
      match t.job with
      | some ⟨ring, set, n, .shift bs j q hole e rest bad⟩ =>
        let rep := ((List.range t.replicas).find? fun r => s.physBell t set r j == bell.val).getD 0
        let s := (shiftMoves q hole).foldl (fun (s : State) m =>
          (s.putEntry t set rep j m.2 ((s.bell bell).at m.1)).putEntry t set rep j m.1 none) s
        let s := s.perf (pgBELL bell) 0x102 (shiftLen q hole)
        let left := bs.filter (· != bell.val)
        if left.isEmpty then
          let s := s.putAll t set j (shiftPlace q hole) (some e)
          .next (s.insertFrom tid ring set bad rest (n + 1))
        else .next (s.setTable tid (some { t with job := some ⟨ring, set, n, .shift left j q hole e rest bad⟩ }))
      | _ => .next s

/-- What every table command checks first (R235, R236): the table, its standby set; it waits while another command
changes the table. `f` gets the table and the set that the command changes. -/
def State.carCommand (s : State) (n code : Nat) (f : State → Cmd → Nat → CarTable → Nat → State) : State :=
  s.command n code fun s c =>
    let tid := bitsOf c.op1.toNat 28 24
    match s.table tid with
    | none => s.complete n 44 0 0 0
    | some t =>
      if (bitsOf c.op1.toNat 29 29 = 1 || code = 0x24) && !t.standby then s.complete n 45 t.slot 0 0
      else if t.job.isSome then s
      else f s c tid t (if bitsOf c.op1.toNat 29 29 = 1 then 1 - t.active else t.active)

/-- The records of a table command; a failed read completes it with 7 FETCH_ERROR (log 84). -/
def State.carRecords (s : State) (n : Nat) (c : Cmd) (t : CarTable) (host : Option (List Byte))
    (f : State → List CarEntry → Bool → State) : State :=
  let count := c.op2.toNat % 2 ^ 20
  match s.operandBytes (opDev c.op1) c.op0.toNat (128 * count) host with
  | none => s.complete n 7 t.slot 0 0
  | some bs => let q := goodRecs t.kind (cutRecs count bs); f s q.1 q.2

def execCarInsert (ring : Fin 16) (records : Option (List Byte)) (s : State) : Out :=
  .next <| s.carCommand ring 0x20 fun s c tid t set => s.carRecords ring c t records fun s es bad =>
    (s.setBusy ring).insertFrom tid (some ring) set bad es 0

/-- Delete or modify, record by record (R235, R237). -/
def State.editFrom (s : State) (n tid set : Nat) (bad : Bool) (new : CarEntry → CarEntry → Option CarEntry) :
    List CarEntry → Nat → State
  | [], k => match s.table tid with
    | some t => s.complete n (if bad then 43 else 0) t.slot k 0
    | none => s
  | e :: rest, k =>
    match s.table tid with
    | none => s
    | some t =>
      match (s.setEntries t set).find? fun p => p.2.same e with
      | none => s.complete n 42 t.slot k 0
      | some p => (s.putAll t set (p.1 / bellSize) (p.1 % bellSize) (new p.2 e)).editFrom n tid set bad new rest (k + 1)

def execCarDelete (ring : Fin 16) (records : Option (List Byte)) (s : State) : Out :=
  .next <| s.carCommand ring 0x21 fun s c tid t set => s.carRecords ring c t records fun s es bad =>
    s.editFrom ring tid set bad (fun _ _ => none) es 0

def execCarModify (ring : Fin 16) (records : Option (List Byte)) (s : State) : Out :=
  .next <| s.carCommand ring 0x22 fun s c tid t set => s.carRecords ring c t records fun s es bad =>
    s.editFrom ring tid set bad (fun old e => some { old with data := e.data }) es 0

/-- Invalidate every entry of a set and let its load run (R234, R239). -/
def State.startLoad (s : State) (tid : Nat) (t : CarTable) (ring : Option Nat) (set : Nat) (es : List CarEntry)
    (bad : Bool) : State :=
  let s := s.putBells t set (List.replicate t.bells [])
  s.setTable tid (some { t with loading := set == t.active
                                job := some { ring := ring, set := set, applied := 0, work := .load es bad } })

/-- COUNT beyond FILL × BELLS is 40 TABLE_FULL, and changes nothing. -/
def execCarLoad (ring : Fin 16) (records : Option (List Byte)) (s : State) : Out :=
  .next <| s.carCommand ring 0x23 fun s c tid t set =>
    if c.op2.toNat % 2 ^ 20 > t.fill * t.bells then s.complete ring 40 t.slot 0 0
    else s.carRecords ring c t records fun s es bad => (s.setBusy ring).startLoad tid t (some ring) set es bad

/-- The load finishes laying out its records (R234). -/
def execCarLoadDone (table : Fin 32) (s : State) : Out :=
  match s.table table with
  | some t =>
    match t.job with
    | some ⟨ring, set, n, .load es bad⟩ =>
      let s := s.putBells t set (t.layout es)
      .next (s.endJob table t ⟨ring, set, n, .regap⟩ (if bad then 43 else 0) es.length)
    | _ => .next s
  | none => .next s

def execCarRegap (ring : Fin 16) (s : State) : Out :=
  .next <| s.carCommand ring 0x25 fun s _ tid t set =>
    (s.setBusy ring).setTable tid (some { t with job := some { ring := some ring, set := set, applied := 0, work := .regap } })

/-- Every entry is at its new index, in the bells and in the shadow copies (R234, R241). -/
def execCarRegapDone (table : Fin 32) (s : State) : Out :=
  match s.table table with
  | some t =>
    match t.job with
    | some ⟨ring, set, n, .regap⟩ =>
      let es := (s.setEntries t set).map Prod.snd
      let s := (List.range t.bells).foldl (fun (s : State) j => (List.range t.replicas).foldl (fun (s : State) r =>
        s.perf (pgBELL (s.physBell t set r j)) 0x102 (s.bell (s.physBell t set r j)).entries.length) s) s
      let s := s.putBells t set (t.layout es)
      .next (s.endJob table t ⟨ring, set, n, .regap⟩ 0 0)
    | _ => .next s
  | none => .next s

/-- The swap edge (R238): the sets exchange roles. -/
def State.swapNow (s : State) (tid : Nat) (t : CarTable) (j : CarJob) : State :=
  s.endJob tid { t with active := 1 - t.active, swaps := (t.swaps + 1) % 2 ^ 32 } j 0 0

def execCarSwap (ring : Fin 16) (s : State) : Out :=
  .next <| s.carCommand ring 0x24 fun s c tid t _ =>
    let cue := bitsOf c.op2.toNat 25 21
    let job := fun w => ({ ring := some ring.val, set := t.active, applied := 0, work := w } : CarJob)
    if bitsOf c.op2.toNat 20 20 = 0 then s.swapNow tid t (job .regap)
    else if !s.cueAllowed t.slot cue then s.complete ring 37 t.slot 0 0
    else (s.setBusy ring).setTable tid (some { t with job := some (job (.swap cue)) })

/-- Swaps bound to a cue that fires (R238, R345). -/
def State.swapAtCue (s : State) (cue : Nat) : State :=
  (List.range 32).foldl (fun (s : State) tid =>
    match s.table tid with
    | some t => match t.job with
      | some j => if j.work = .swap cue then s.swapNow tid t j else s
      | none => s
    | none => s) s

/-! ## Window and scrubber -/

/-- A write to the direct window is dropped (R216). -/
def execWindowWrite (addr : Nat) (s : State) : Out :=
  .next <| if 0x42_0000_0000 ≤ addr && addr < 0x42_0400_0000 then s.error pgCAR Src.car_WINDOW_WRITE else s

/-- The table, set, replica and logical bell that a physical bell serves (R218). -/
def State.bellRole (s : State) (b : Nat) : Option (Nat × CarTable × Nat × Nat × Nat) :=
  (List.range 32).findSome? fun tid => (s.table tid).bind fun t =>
    (List.range (if t.standby then 2 else 1)).findSome? fun set =>
      (List.range t.replicas).findSome? fun r => (List.range t.bells).findSome? fun j =>
        if s.physBell t set r j = b then some (tid, t, set, r, j) else none

/-- The bell has a write pending or in progress: a job of its table on its set. -/
def CarTable.busyOn (t : CarTable) (set : Nat) : Bool :=
  match t.job with
  | some j => j.set == set && (match j.work with | .swap _ => false | _ => true)
  | none => false

/-- One comparison of a bell's scrubber (R242, Table CAR-9). -/
def execScrubCompare (bell : Fin 32) (env : ScrubEnv) (s : State) : Out :=
  match s.bellRole bell with
  | none => .next s
  | some (tid, t, set, r, j) =>
    let pg := pgBELL bell
    if !s.bit pgCAR Reg.CAR_CFG_SCRUB_EN || s.assist pgCAR || s.bellFenced bell || !s.powered pg then .next s
    else
      let i := s.fld pg Reg.BELL_SCRUB_POS
      let s := s.setFld pg Reg.BELL_SCRUB_POS ((i + 1) % bellSize)
      if t.busyOn set then .next s
      else
        let s := s.perf pg 0x103 1
        let rec_ := s.readDev (s.shadowAddr t set r j i) 128
        let mine := (s.bell bell).at i
        let fixed := fun (s : State) (src : Nat) => (s.addSat pg Reg.BELL_SCRUB_FIXED 1).error pg src
        if !rec_.2 then
          if env.differs || env.parityBad || carRecord mine != rec_.1 then
            .next (fixed (s.setBell bell (kset (fun _ => none) (s.bell bell) i (shadowEntry rec_.1))) Src.bell_SCRUB_FIX)
          else .next s
        else if env.parityBad then
          .next ((s.setBell bell (kset (fun _ => none) (s.bell bell) i none)).loseIndex tid bell i)
        else .next (fixed (s.writeDev (s.shadowAddr t set r j i) (carRecord mine) false) Src.bell_SHADOW_FIX)

/-! ## Tables of a plan -/

/-- The table that a TABLE operator declares (Table CAR-2). -/
def parseTable (p first : Nat) (c : List Byte) : CarTable :=
  let f := fun off lo w => cfgField c (off, lo, w)
  { slot := p, lt := f 0 0 4, kind := f 0 4 2, standby := f 0 6 1 == 1, bells := f 1 0 6, repl := f 2 0 2
    latReplica := f 3 0 2, latEn := f 3 2 1 == 1, fill := f 4 0 16, gap := f 6 0 8, vtype := f 7 0 4, miss := f 8 0 64
    byteBase := f 0x10 0 32, first := first }

end Sys2Proof.Machine
end

