-- ==== Sys2Proof/Machine/Free.lean ====
section
/-!
DEFINITION. What is free (R60, R71), and where admission places what a plan claims (R59, R60, R114).
-/

namespace Sys2Proof.Machine

def mib2 : Nat := 2 ^ 21
def roundUp (n m : Nat) : Nat := (n + m - 1) / m * m

/-- What the plans in other slots hold. -/
def State.allocs (s : State) (but : Nat) : List Alloc :=
  ((List.range 16).filter fun p => p != but && s.slotState p != 0).map fun p => (s.slot p).alloc

/-- A block is on: powered, enabled, ready, not fenced (R60). -/
def State.blockOn (s : State) (page : Nat) : Bool :=
  s.powered page && s.enabled page && s.ready page && !s.fenced page

def State.tileFree (s : State) (but t : Nat) : Bool :=
  s.blockOn (pgTILE t) && s.enabled (pgQUAD (t / 4)) && s.enabled (pgCMP (t / 4)) &&
    !(s.allocs but).any fun a => a.tiles.contains t
def State.bellFree (s : State) (but b : Nat) : Bool :=
  s.blockOn (pgBELL b) && s.enabled pgCAR && !(s.allocs but).any fun a => a.bells.contains b
/-- A steward core is free for a claim: no plan holds it, or only SHARED claims do and the claim is SHARED. -/
def State.stwFree (s : State) (but n : Nat) (shared : Bool) : Bool :=
  s.blockOn (pgSTW n) && !(s.allocs but).any fun a => a.stws.contains n && !(shared && a.stwShared)
def State.cueFree (s : State) (but c : Nat) : Bool := !(s.allocs but).any fun a => a.cues.contains c
def State.decFree (s : State) (but d : Nat) : Bool :=
  s.blockOn (pgDEC d) && !(s.allocs but).any fun a => a.decs.contains d

/-- Regions that other plans hold, in store memory or HBM. -/
def Alloc.regions (a : Alloc) : List Region :=
  a.store ++ a.hbm ++ a.image.toList ++ a.windowMem ++ a.saveArea.toList ++ a.shadow.toList
def State.used (s : State) (but : Nat) : List Region := (s.allocs but).flatMap Alloc.regions

/-- Backed span of store memory that plans may claim (R366 to R368): the event pool takes the highest 32 MiB. -/
def State.storeSpans (s : State) : List (Nat × Nat) :=
  let h := fun n => (storeBase + n * halfBytes, storeBase + (n + 1) * halfBytes)
  if s.halfUp 1 then
    (if s.halfUp 0 then [(storeBase, storeTop - 16 * mib2)] else [((h 1).1, (h 1).2 - 16 * mib2)])
  else if s.halfUp 0 then [((h 0).1, (h 0).2 - 16 * mib2)] else []

/-- The backed addresses of a zone (R355, R357): FINE, a stack's STACK_LOCAL, a channel's CHANNEL_LOCAL. -/
def State.zoneSpan (s : State) (place sub : Nat) : Nat × Nat :=
  let f := s.fineBytes
  let l := s.localBytes
  let b := s.chanBytes
  let n := (s.pcsOf place sub).length
  match place with
  | 0 => (0, n * (f / 64))
  | 1 => (4 * f + sub * l, 4 * f + sub * l + n * (l / 64))
  | _ => (4 * (f + l) + sub * b, 4 * (f + l) + sub * b + n * (b / 2))

/-- The stacks of a zone have ENABLE = 1 in their HMC (R60). -/
def State.zoneOn (s : State) (place sub : Nat) : Bool :=
  (List.range 4).all fun n =>
    !(place == 0 || (place == 1 && sub == n) || (place == 2 && sub / 32 == n)) ||
      (s.pcsOf 1 n).isEmpty || s.enabled (pgHMC n)

/-- The lowest address in a span where a size fits beside what is used (R60). -/
def fit (span : Nat × Nat) (used : List (Nat × Nat)) (size : Nat) : Option Nat :=
  let starts := (span.1 :: used.map fun u => roundUp (u.1 + u.2) mib2).filter fun a =>
    span.1 ≤ a && a + size ≤ span.2 && !used.any fun u => u.2 != 0 && a < u.1 + u.2 && u.1 < a + size
  starts.foldl (fun (m : Option Nat) a => match m with
    | some x => some (min x a)
    | none => some a) none

def spanOf (r : Region) : Nat × Nat := (r.base, r.size)

def State.fitStore (s : State) (but : Nat) (own : List Region) (size : Nat) : Option Nat :=
  s.storeSpans.findSome? fun sp => fit sp ((s.used but ++ own).map spanOf) size
def State.fitHbm (s : State) (but : Nat) (own : List Region) (place sub size : Nat) : Option Nat :=
  if s.zoneOn place sub then fit (s.zoneSpan place sub) ((s.used but ++ own).map spanOf) size else none

/-- Why a plan is refused: code, and what PLAN_ADMIT reports (R71). -/
structure Refuse where
  code : Nat
  claim : Nat := 0
  derived : Bool := false
  imageArea : Bool := false
  deriving DecidableEq, Repr

/-- The lowest n of a list of free units. -/
def lowest (n : Nat) (l : List Nat) : Option (List Nat) := if l.length < n then none else some (l.take n)

/-- Tiles for a claim (R60): a mask names them; with ANY whole free quads come first, then the tiles of partly free
quads, then those of the whole free quads left. -/
def takeTilesOf (free : Nat → Bool) (c : ClaimRec) : Option (List Nat) :=
  if c.flags % 2 = 1 then
    let n := c.amount
    let whole := (List.range 16).filter fun q => (List.range 4).all fun i => free (4 * q + i)
    let first := whole.take (n / 4)
    let rest := whole.drop (n / 4)
    let tilesOf := fun (qs : List Nat) => qs.flatMap fun q => (List.range 4).map fun i => 4 * q + i
    let part := ((List.range 64).filter free).filter fun t => !whole.contains (t / 4)
    let got := tilesOf first
    let got := got ++ ((part ++ tilesOf rest).take (n - got.length))
    if got.length < n then none else some ((List.range 64).filter got.contains)
  else
    let ts := (List.range 64).filter fun t => c.amount / 2 ^ t % 2 = 1
    if ts.all free then some ts else none
def State.takeTiles (s : State) (but : Nat) (c : ClaimRec) : Option (List Nat) := takeTilesOf (s.tileFree but) c

/-- Decompressors of R114: per quad in ascending order, min(n, 2) of those that hold n decoding operators. -/
def decsNeeded (img : Image) (tiles : List Nat) : List Nat :=
  let qs := img.decOps.map fun p => tiles.getD p.2 0 / 4
  (List.range 16).flatMap fun q =>
    let n := (qs.filter (· == q)).length
    if n = 0 then [] else if n = 1 then [2 * q] else [2 * q, 2 * q + 1]

/-- Size of the decompressor save areas and of the reorder windows (R59). -/
def Image.saveBytes (i : Image) : Nat :=
  roundUp (i.amount 10 / 2 ^ 16 % 2 ^ 16 * (2 ^ i.histLog2 + 4096)) mib2
def windowBytes (c : ClaimRec) : Nat := roundUp (c.arg % 128 * 256) mib2

/-- One step of placing resources: the allocation so far, or the refusal. -/
abbrev Placing := Except Refuse Alloc

def refuse {α : Type} (code claim : Nat) : Except Refuse α := .error { code := code, claim := claim }

/-- HBM placement fields of a claim (R55). -/
def ClaimRec.place (c : ClaimRec) : Nat := c.arg / 16 % 4
def ClaimRec.zoneSub (c : ClaimRec) : Nat := if c.place = 1 then c.arg / 64 % 4 else if c.place = 2 then c.arg / 256 % 128 else 0

/-- Units above a base that other plans hold none of: the lowest n of m. -/
def State.freeIds (s : State) (but m : Nat) (held : Alloc → List Nat) : List Nat :=
  (List.range m).filter fun k => !(s.allocs but).any fun a => (held a).contains k

/-- A lowest aligned range of flows (R329). -/
def State.fitFlows (s : State) (but n : Nat) : Option Nat :=
  ((List.range (2 ^ 18 / max n 1)).map (· * n)).find? fun b =>
    !(s.allocs but).any fun a => a.flows != 0 && b < a.flowBase + a.flows && a.flowBase < b + n

/-- Place one claim (R59, R60). -/
def State.placeClaim (s : State) (p : Nat) (img : Image) (k : Nat) (c : ClaimRec) (a : Alloc) : Placing :=
  match c.ty with
  | 1 => match s.takeTiles p c with
    | some ts => .ok { a with tiles := ts }
    | none => refuse 16 k
  | 2 => .ok { a with threads := c.amount }
  | 3 => .ok { a with tmBytes := c.amount }
  | 4 => match s.fitStore p a.regions c.amount with
    | some b => .ok { a with store := a.store ++ [{ claim := k, id := c.arg % 16, base := b, size := c.amount
                                                    scratch := c.flags % 2 == 1 }] }
    | none => refuse 19 k
  | 5 => match s.fitHbm p a.regions c.place c.zoneSub c.amount with
    | some b => .ok { a with hbm := a.hbm ++ [{ claim := k, id := c.arg % 16, base := b, size := c.amount
                                                place := c.place, sub := c.zoneSub, scratch := c.flags % 2 == 1 }] }
    | none => refuse 20 k
  | 6 =>
    let ids := img.tableOps.map fun o => img.bellArg + cfgField (img.cfg o) (0, 0, 4)
    match lowest c.amount ((List.range 32).filter (s.bellFree p)) with
    | some bs => if ids.any fun t => (s.allocs p).any fun x => x.tables.contains t then refuse 21 k
                 else .ok { a with bells := bs, tables := ids }
    | none => refuse 21 k
  | 7 => match s.fitFlows p c.amount with
    | some b => .ok { a with flowBase := b, flows := c.amount }
    | none => refuse 22 k
  | 8 => match lowest c.amount (s.freeIds p 64 Alloc.owns) with
    | some o => .ok { a with owns := o }
    | none => refuse 23 k
  | 9 => match (s.freeIds p 64 Alloc.queues).filter fun q => !a.queues.contains q with
    | q :: _ => .ok { a with queues := a.queues ++ [q] }
    | [] => refuse 24 k
  | 10 =>
    let need := decsNeeded img a.tiles
    if need.length != c.amount % 64 then refuse 12 k
    else if need.all (s.decFree p) then .ok { a with decs := need } else refuse 25 k
  | 11 => match lowest c.amount (s.freeIds p 32 Alloc.aligns) with
    | some g => .ok { a with aligns := g }
    | none => refuse 26 k
  | 12 => if ((s.allocs p).map Alloc.delay).sum + c.amount ≤ 65536 then .ok { a with delay := c.amount } else refuse 27 k
  | 13 =>
    let shared := c.flags % 2 == 1
    match lowest c.amount ((List.range 16).filter fun n => s.stwFree p n shared) with
    | some ns => .ok { a with stws := ns, stwShared := shared }
    | none => refuse 28 k
  | 14 =>
    let cs := (List.range 16).filter fun n => c.amount / 2 ^ n % 2 = 1
    if cs.all (s.cueFree p) then .ok { a with cues := cs } else refuse 29 k
  | 15 => match lowest c.arg (s.freeIds p 1024 Alloc.wins) with
    | some ws => .ok { a with wins := ws }
    | none => refuse 30 k
  | _ => .ok a

/-- Place a derived amount in store memory or HBM (R59). -/
def State.placeDerived (s : State) (p : Nat) (hbm : Bool) (claim size : Nat) (img : Bool)
    (put : Alloc → Region → Alloc) (a : Alloc) : Placing :=
  if size = 0 then .ok a
  else
    match (if hbm then s.fitHbm p a.regions 0 0 size else s.fitStore p a.regions size) with
    | some b => .ok (put a { claim := claim, id := 0, base := b, size := size })
    | none => .error { code := if hbm then 20 else 19, claim := claim, derived := true, imageArea := img }

/-- Derived amounts of a memory type, after its claimed regions (R59). -/
def State.placeStoreDerived (s : State) (p : Nat) (img : Image) (a : Alloc) : Placing :=
  (img.claimsOf 9).foldl (fun (r : Placing) q => r.bind fun a =>
      s.placeDerived p false q.1 (windowBytes q.2) false (fun a r => { a with windowMem := a.windowMem ++ [r] }) a)
    (s.placeDerived p false 0 (roundUp img.imageBytes mib2) true (fun a r => { a with image := some r }) a)
def State.placeHbmDerived (s : State) (p : Nat) (img : Image) (a : Alloc) : Placing :=
  let dk := ((img.claimsOf 10).head?.map Prod.fst).getD 0
  let bk := ((img.claimsOf 6).head?.map Prod.fst).getD 0
  (s.placeDerived p true dk img.saveBytes false (fun a r => { a with saveArea := some r }) a).bind
    (s.placeDerived p true bk (img.amount 6 * mib2) false fun a r => { a with shadow := some r })

/-- Place every claimed and derived resource, in claim-type order and within a type in table order (R57, R59). -/
def State.placeAll (s : State) (p : Nat) (img : Image) : Placing :=
  (List.range 16).foldl (fun (r : Placing) i => r.bind fun a =>
    let ty := i + 1
    let r := (img.claimsOf ty).foldl (fun (r : Placing) q => r.bind (s.placeClaim p img q.1 q.2)) (.ok a)
    if ty = 4 then r.bind (s.placeStoreDerived p img)
    else if ty = 5 then r.bind (s.placeHbmDerived p img) else r) (.ok {})

end Sys2Proof.Machine
end

