-- ==== Sys2Proof/Machine/Admission.lean ====
section
/-!
DEFINITION. Admission (R52 to R61, R70, R71): the checks of an image in the order of their codes, reservation, the copy
and its digest, and what an admitted plan starts with; measurements (R437, R438).
-/

namespace Sys2Proof.Machine

open Sys2Proof

/-! ## Measurements -/

/-- A measurement register's bytes. -/
def State.measurement (s : State) (m : Nat) : List Byte :=
  (List.range 4).flatMap fun w => leBytes 8 (s.fld pgSEC (Reg.SEC_M_DATA (4 * m + w)))

/-- The 64 B record of an extension (R437). -/
def measureRecord (digest : List Byte) (planId slot kind beat : Nat) : List Byte :=
  digest ++ leBytes 8 planId ++ [byte slot, byte kind] ++ leBytes 6 0 ++ leBytes 8 beat ++ leBytes 8 0

/-- Extend a measurement register and the log (R437, R438). -/
def State.measure (s : State) (m kind : Nat) (digest : List Byte) (planId slot : Nat) : State :=
  let r := measureRecord digest planId slot kind s.beat
  let h := sha256 (s.measurement m ++ r)
  let s := (List.range 4).foldl (fun (s : State) w =>
    s.setFld pgSEC (Reg.SEC_M_DATA (4 * m + w)) (leNat (slice h (8 * w) 8))) s
  let s := s.addWrap pgSEC Reg.SEC_LOG_CTL_TOTAL 1
  { s with sec := { s.sec with log := (r :: s.sec.log).take 2048 } }

/-! ## Checks of the image -/

/-- The image as the first step reads it: its bytes, and which ranges of it can be read. -/
structure Fetched where
  img : Image
  ok : Nat → Nat → Bool

/-- Reserved header bits (Table PLAN-1). -/
def Image.headerResv (i : Image) : Bool :=
  i.at 6 2 / 4 != 0 || i.at 0xC 4 != 0 || i.at 0x1D 3 != 0 || i.at 0x41 7 != 0 || (slice i 0x58 0x88).any (· != 0)

/-- The sections after the header: offset and length. -/
def Image.sections (i : Image) : List (Nat × Nat) :=
  [(i.stageOff, 64 * i.nStages), (i.opOff, 32 * i.nOps), (i.claimOff, 16 * i.nClaims), (i.paramOff, 32 * i.nParams),
    (i.codeOff, i.codeBytes), (i.constOff, i.constBytes)]

/-- Two sections overlap. -/
def sectionsMeet (a b : Nat × Nat) : Bool := a.2 != 0 && b.2 != 0 && a.1 < b.1 + b.2 && b.1 < a.1 + a.2

/-- Layout (R52): code 5. `len` is the command's length. -/
def Image.badLayout (i : Image) (len : Nat) : Bool :=
  let n := i.imageBytes
  let ss := i.sections
  n != len || n < 256 || n % 64 != 0 ||
    ss.any (fun a => a.1 % 64 != 0 || a.1 + a.2 > n || (a.2 != 0 && a.1 < 256)) ||
    (List.range 6).any (fun j => (List.range j).any fun k => sectionsMeet (ss.getD j (0, 0)) (ss.getD k (0, 0))) ||
    (i.zipIdx.any fun b => b.1 != 0 && 256 ≤ b.2 && b.2 < n && !ss.any fun a => a.1 ≤ b.2 && b.2 < a.1 + a.2)

/-- Header ranges: code 8. -/
def Image.badLimits (i : Image) : Bool :=
  i.imageBytes > 16857344 || i.nStages = 0 || i.nStages > 64 || i.nClaims = 0 || i.nClaims > 64 || i.nOps = 0 ||
    i.nOps > 256 || i.nParams > 32 || i.codeBytes > 65536 || i.codeBytes % 4 != 0 || i.constBytes > 16777216 ||
    i.chunkUnit > 4 || i.chunkSize = 0 || i.chunkSize > 2 ^ 40

/-- Tiles that the TILES claim names or counts, and steward cores of its claim. -/
def Image.stwCount (i : Image) : Nat := i.amount 13

/-- A stage record that R53 refuses, or a TILE_SET, STW_SET or THREADS beyond the claims (code 9). -/
def Image.badStage (i : Image) (k : Nat) : Bool :=
  let r := i.stage k
  r.kind > 2 || (if r.kind = 1 then r.threads != 0 || r.entry != 0 else r.threads = 0 || r.threads > 8) ||
    r.bufDepth = 0 || r.bufDepth > 4 || r.outMem > 3 || r.nOps = 0 || r.nOps > 256 || r.resv != 0 ||
    r.preds ≥ 2 ^ k || r.firstOp + r.nOps > i.nOps || r.tileSet ≥ 2 ^ i.tileCount || r.stwSet ≥ 2 ^ i.stwCount ||
    r.threads > i.amount 2 ||
    ((List.range r.nOps).any fun j => (i.op (r.firstOp + j)).stage != k) ||
    ((List.range k).any fun j => let q := i.stage j; q.firstOp < r.firstOp + r.nOps && r.firstOp < q.firstOp + q.nOps)

/-- Every operator belongs to a stage (R54). -/
def Image.badGraph (i : Image) : Bool :=
  (List.range i.nStages).any i.badStage ||
    (List.range i.nOps).any fun j => !(List.range i.nStages).any fun k =>
      let r := i.stage k
      r.firstOp ≤ j && j < r.firstOp + r.nOps

def isPow2 (n : Nat) : Bool := n != 0 && 2 ^ Nat.log2 n == n

/-- A claim record that Table PLAN-5 does not admit (code 12; log 107). -/
def ClaimRec.malformed (c : ClaimRec) : Bool :=
  let plain := c.flags != 0
  c.resv != 0 || match c.ty with
  | 1 => c.flags > 1 || c.arg != 0 || c.amount = 0
  | 2 => plain || c.arg != 0 || c.amount = 0
  | 3 => plain || c.arg != 0 || c.amount % 4096 != 0
  | 4 => c.flags > 1 || c.arg > 15 || c.amount % mib2 != 0
  | 5 => c.flags > 1 || c.amount % mib2 != 0 || c.arg ≥ 2 ^ 15 || c.place = 3 ||
      (c.place != 1 && c.arg / 64 % 4 != 0) || (c.place != 2 && c.arg / 256 != 0)
  | 6 => plain || c.arg > 31 || c.amount = 0
  | 7 => plain || c.arg != 0 || !isPow2 c.amount
  | 8 => plain || c.arg = 0 || c.arg > 4096 || c.amount = 0
  | 9 => plain || c.arg = 0 || c.arg > 64 || !isPow2 c.amount || c.amount = 1
  | 10 => plain || c.arg < 10 || c.arg > 23 || c.amount % 64 = 0 || c.amount / 64 % 1024 != 0 || c.amount ≥ 2 ^ 32
  | 11 => plain || c.arg = 0 || c.arg > 16 || c.amount = 0
  | 12 => plain || c.arg != 0 || c.amount = 0
  | 13 => c.flags > 1 || c.arg != 0 || c.amount = 0
  | 14 => plain || c.arg != 0 || c.amount ≥ 2 ^ 16
  | 15 => plain || c.arg = 0 || c.arg > 1024 || c.amount = 0
  | 16 => plain || c.arg != 0 || c.amount = 0
  | _ => true

/-- Claims of one type that may not stand together (R55). -/
def Image.duplicates (i : Image) : Bool :=
  (List.range i.nClaims).any fun j => (List.range j).any fun k =>
    let a := i.claim j
    let b := i.claim k
    a.ty == b.ty && a.ty != 9 && ((a.ty != 4 && a.ty != 5) || a.arg % 16 == b.arg % 16)

/-- Code 12, apart from what the operators give. -/
def Image.badClaims (i : Image) : Bool :=
  i.claims.any ClaimRec.malformed || i.duplicates || (!i.decOps.isEmpty && (i.claimsOf 10).isEmpty) ||
    (i.stwCount = 0 && (List.range i.nStages).any fun k => (i.stage k).budget != 0) ||
    (i.decOps.any fun q => cfgField (i.cfg (i.op q.1)) (3, 0, 1) = 1) && i.amount 10 / 2 ^ 16 < 2

/-- Units of a kind that are not fenced. -/
def State.unfenced (s : State) (n : Nat) (page : Nat → Nat) : Nat := ((List.range n).filter fun k => !s.fenced (page k)).length

/-- A half of store memory is not fenced: its backed size under fences (R60, R368). -/
def State.storeCapacity (s : State) : Nat :=
  let up := fun f => if s.bit pgSTOR f then 0 else halfBytes
  up Reg.STOR_STAT_BASE_FENCED + up Reg.STOR_STAT_STORE_FENCED - 16 * mib2

/-- Code 13 (R60): a claim beyond the device's capacity, memory compared on sums. -/
def State.tooLarge (s : State) (i : Image) : Bool :=
  let hbm := (i.claimsOf 5).map Prod.snd
  let sumOf := fun (place sub : Nat) => ((hbm.filter fun c => c.place == place && c.zoneSub == sub).map ClaimRec.amount).sum
  let size := fun (place sub : Nat) => let z := s.zoneSpan place sub; z.2 - z.1
  let store := ((i.claimsOf 4).map fun c => c.2.amount).sum + roundUp i.imageBytes mib2 +
    ((i.claimsOf 9).map fun c => windowBytes c.2).sum
  let derived := (if (i.claimsOf 10).isEmpty then 0 else i.saveBytes) + i.amount 6 * mib2
  (i.claims.any fun c => match c.ty with
    | 1 => if c.flags = 1 then c.amount > s.unfenced 64 pgTILE
           else c.amount ≥ 2 ^ 64 || (List.range 64).any fun t => c.amount / 2 ^ t % 2 = 1 && s.fenced (pgTILE t)
    | 2 => c.amount > 8
    | 3 => c.amount > 8 * 2 ^ 20
    | 6 => c.amount > s.unfenced 32 pgBELL
    | 7 => c.amount > 2 ^ 18
    | 8 => c.amount > 64
    | 9 => c.amount > 65536
    | 10 => c.amount % 64 > s.unfenced 32 pgDEC
    | 11 => c.amount > 32
    | 12 => c.amount > 65536
    | 13 => c.amount > s.unfenced 16 pgSTW
    | 15 => c.amount > 1024
    | 16 => c.amount > 2 ^ 40
    | _ => false) ||
    (i.claimsOf 9).length > 64 || store > s.storeCapacity || sumOf 0 0 + derived > size 0 0 ||
    ((List.range 4).any fun n => sumOf 1 n > size 1 n) || ((List.range 128).any fun n => sumOf 2 n > size 2 n)

/-- A function of the plan that no tile instance carries is in 1 ASSIST (R70, code 14): the Carillon, scheduling, the
shuffle. -/
def State.assistUsed (s : State) (i : Image) : Bool :=
  let uses := fun (c : Nat) => i.ops.any fun o => o.cls == c
  (s.assist pgCAR && uses 5) || (s.assist pgFSCH && uses 9) || (s.assist pgSHUF && (i.findOp 7 1).isSome)
/-- The same for the instances that the allocation binds (log 106). -/
def State.assistBound (s : State) (i : Image) (a : Alloc) : Bool :=
  let packs := i.ops.filter fun o => o.cls == 2 && o.code ≥ 0x10
  (a.decs.any fun d => s.assist (pgDEC d)) ||
    (packs.any fun o => s.assist (pgCMP (a.tiles.getD (bytesAt (i.cfg o) 0x12 1) 0 / 4))) ||
    (((i.ops.any fun o => o.cls == 6) || i.code.any fun w => wField w 6 0 == 0x0D) &&
      a.tiles.any fun t => s.assist (pgQUAD (t / 4)))

/-- A parameter record that R56 refuses (code 33). -/
def ParamRec.bad (p : ParamRec) : Bool := p.ty = 3 || p.resv != 0 || !p.inRange p.dflt

/-- The image's bytes that the checks of operators and code read (R58 step 2). -/
def Image.needed (i : Image) : List (Nat × Nat) :=
  (i.codeOff, i.codeBytes) :: ((i.ops.filter fun o => o.cfgOff + o.cfgBytes ≤ i.constBytes).map fun o =>
    (i.constOff + o.cfgOff, o.cfgBytes))

/-- Every check of R57 up to the resource checks, in the order of the codes. -/
def State.structural (s : State) (f : Fetched) (len : Nat) : Option Nat :=
  let i := f.img
  let can := fun (l : List (Nat × Nat)) => l.all fun a => f.ok a.1 a.2
  if !f.ok 0 256 then some 7
  else if i.at 0 4 != 0x31505A49 then some 3
  else if i.at 4 2 != 1 || i.headerResv then some 4
  else if i.badLayout len then some 5
  else if i.badLimits then some 8
  else if !can (i.sections.take 4) then some 7
  else if i.badGraph then some 9
  else if !can i.needed then some 7
  else
    let cs := i.opCodes (s.assist pgSHUF)
    if cs.contains 10 then some 10
    else if i.codeFails || cs.contains 11 then some 11
    else if i.badClaims || cs.contains 12 then some 12
    else if s.tooLarge i || cs.contains 13 then some 13
    else if s.assistUsed i && i.stwCount = 0 then some 14
    else none

/-- The checks and the reservation of a plan in a slot (R57 to R60). -/
def State.admitPlan (s : State) (p : Nat) (f : Fetched) (len : Nat) : Except Refuse Alloc :=
  match s.structural f len with
  | some c => .error { code := c }
  | none =>
    (s.placeAll p f.img).bind fun a =>
      if s.assistBound f.img a && f.img.stwCount = 0 then .error { code := 14 }
      else if (List.range f.img.nParams).any (fun k => (f.img.param k).bad) ||
          (f.img.opCodes (s.assist pgSHUF)).contains 33 then .error { code := 33 }
      else .ok a

/-! ## PLAN_LOAD -/

/-- PLAN_ADMIT (R71). -/
def State.noteAdmit (s : State) (p : Nat) (r : Refuse) : State :=
  let s := ((s.setFld pgPLAN Reg.PLAN_ADMIT_REASON r.code).setFld pgPLAN Reg.PLAN_ADMIT_SLOT p).setFld pgPLAN
    Reg.PLAN_ADMIT_CLAIM r.claim
  (s.setBit pgPLAN Reg.PLAN_ADMIT_DERIVED r.derived).setBit pgPLAN Reg.PLAN_ADMIT_IMAGE_AREA r.imageArea

/-- Blocks that take part in every plan (R60). -/
def planBlocks : List Nat := [pgPLAN, pgFSCH, pgTIME, pgBATQ, pgOWN, pgSHUF]

/-- Bytes at an address of device memory as admission reads them. -/
def State.fetchDev (s : State) (a len : Nat) : Fetched :=
  { img := (s.readMem a len).1, ok := fun off n => off + n ≤ len && !(s.readMem (a + off) n).2 }
/-- Bytes that the host link returned; a read beyond them failed. -/
def fetchHost (len : Nat) (b : List Byte) : Fetched :=
  { img := (b ++ List.replicate (len - b.length) 0).take len, ok := fun off n => off + n ≤ b.length && off + n ≤ len }

/-- PLAN_LOAD (R57 to R60): steps 1 and 2. `image` holds what reads of host memory return, none where they fail. -/
def execPlanLoad (ring : Fin 16) (image : Option (List Byte)) (s : State) : Out := .next <|
  s.command ring 0x10 fun s c =>
    let any := bitsOf c.op1.toNat 28 28 == 1
    let free := (List.range 16).find? fun p => s.slotState p == 0
    let len := c.op2.toNat
    let fail := fun (s : State) (p : Nat) (r : Refuse) =>
      let s := (s.noteAdmit p r).setReason p r.code
      s.complete ring r.code p 0 (if 16 ≤ r.code && r.code ≤ 30 then r.claim else 0)
    if s.admission.isSome then s
    else if any && free.isNone then (s.noteAdmit 0 { code := 1 }).complete ring 1 0 0 0
    else if !any && s.slotState (opSlot c.op1) != 0 then
      (s.noteAdmit (opSlot c.op1) { code := 2 }).complete ring 2 (opSlot c.op1) 0 0
    else
      let p := if any then free.getD 0 else opSlot c.op1
      if planBlocks.any fun b => !s.enabled b then
        fail (if s.enabled pgPLAN then s else s.disabledReq pgPLAN) p { code := 51 }
      else if len < 256 then fail s p { code := 5 }
      else
        let dev := opDev c.op1
        let f := if dev then s.fetchDev c.op0.toNat len else fetchHost len (image.getD [])
        match s.admitPlan p f len with
        | .error r => fail s p r
        | .ok a =>
          let load : LoadRef := { addr := c.op0, pasid := bitsOf c.op1.toNat 19 0
                                  virt := bitsOf c.op1.toNat 20 20 == 1, dev := dev, len := len }
          let s := s.setSlot p { image := f.img, load := load, alloc := a }
          let s := s.setSlotState p 1
          { s with admission := some { slot := p, ring := ring, tag := c.tag } }.setBusy ring

/-! ## Steps 3 and 4 -/

/-- The image as the plan manager uses it: header and tables from its table memory, the rest from the copy (R58). -/
def overlay (tables copy : Image) : Image :=
  ((0, 256) :: (tables.sections.take 4)).foldl (fun (i : Image) a =>
    i.take a.1 ++ slice tables a.1 a.2 ++ i.drop (a.1 + a.2)) copy

/-- SHA-256 of an image with its DIGEST bytes taken as 0 (Table PLAN-1). -/
def imageDigest (i : Image) : List Byte := sha256 (i.take 0xE0 ++ List.replicate 32 0 ++ i.drop 0x100)

/-- Batch queues of a plan (R309). -/
def State.openQueues (s : State) (p : Nat) : State :=
  let i := s.image p
  (i.ops.filter fun o => o.cls == 8 && o.code == 1).foldl (fun (s : State) o =>
    let c := i.cfg o
    let lq := bytesAt c 0 1 % 64
    let n := s.queueOf p lq
    match i.queueClaim lq with
    | none => s
    | some cl =>
      let s := s.setQueue n (some {
        slot := p, lq := lq, slots := cl.amount, depth := cl.arg % 128, samples := bytesAt c 4 4
        latePolicy := cfgField c (0, 7, 1), keep := cfgField c (0, 6, 1) == 1, ringWin := cfgField c (8, 0, 10)
        ringOff := bytesAt c 0x10 8, flagOff := bytesAt c 0x18 8, stage := o.stage })
      ((s.setFld pgBATQ (Reg.BATQ_Q_PROD_SEQ n) 0).setFld pgBATQ (Reg.BATQ_Q_CONS_SEQ n) 0).setFld pgBATQ
        (Reg.BATQ_Q_STAT_REGENERATED n) 0) s

/-- Alignment groups of a plan (R331, R339). -/
def State.openGroups (s : State) (p : Nat) : State :=
  let i := s.image p
  (i.ops.filter fun o => o.cls == 9 && o.code == 2).foldl (fun (s : State) o =>
    let c := i.cfg o
    let lg := cfgField c (0, 0, 5)
    let n := (s.slot p).alloc.aligns.getD lg 32
    if 32 ≤ n then s
    else
      let s := ((s.setFld pgFSCH (Reg.FSCH_G_STAT_SLOT n) p).setFld pgFSCH (Reg.FSCH_G_STAT_IN_USE n) 1).setFld pgFSCH
        (Reg.FSCH_G_STAT_LATE n) 0
      s.setGroup n { slot := p, lg := lg, pass := cfgField c (2, 0, 1) == 1, lateness := bytesAt c 8 8
                     idleBeats := bytesAt c 0x10 4, frontier := none
                     streams := List.replicate (cfgField c (1, 0, 5)) { active := true } }) s

/-- Carillon tables of a plan, in ascending LT, their bells one after the other (R217, R218). -/
def State.openTables (s : State) (p : Nat) : State :=
  let i := s.image p
  (i.tableOps.foldl (fun (q : State × Nat) o =>
    (q.1.setTable (i.bellArg + cfgField (i.cfg o) (0, 0, 4)) (some (parseTable p q.2 (i.cfg o))), q.2 + i.tableBells o))
    (s, 0)).1

/-- What an admitted plan starts with (R69, R71, R273, R306, R332, R348). -/
def State.seat (s : State) (p : Nat) : State :=
  let i := s.image p
  let s := s.setSlot p { s.slot p with params := (List.range i.nParams).map fun k => word (i.param k).dflt }
  let s := (s.setFld pgPLAN (Reg.PLAN_P_ID_PLAN_ID p) i.planId).setFld pgPLAN (Reg.PLAN_P_STAT_STAGES p) i.nStages
  let s := (s.setFld pgPLAN (Reg.PLAN_P_CHUNKS_DONE p) 0).wr pgPLAN (Reg.PLAN_P_PGEN_GEN p).off 0
  let a := (s.slot p).alloc
  let s := (s.setFld pgFSCH (Reg.FSCH_P_FLOW_BASE p) a.flowBase).setFld pgFSCH (Reg.FSCH_P_FLOW_LOG2 p) (Nat.log2 a.flows)
  let s := s.setFld pgFSCH (Reg.FSCH_P_ARR_NEXT p) 0
  let s := (s.wr pgSHUF (Reg.SHUF_P_EPOCH_EPOCH p).off 0).wr pgSHUF (Reg.SHUF_P_STEP_STEP p).off 0
  let s := (s.wr pgTIME (Reg.TIME_P_CAD_NEXT p).off 0).wr pgTIME (Reg.TIME_P_RT_CHUNKS p).off 0
  let s := ((s.openQueues p).openGroups p).openTables p
  s.setOwn p { cur := s.ownFromImage p }

/-- ADMISSION_COPY_DONE: the copy of the whole image and its digest (R58 steps 3 and 4). `copy` is what the host link
returned, none for a failed read. -/
def execAdmissionCopyDone (copy : Option (List Byte)) (s : State) : Out := .next <|
  match s.admission with
  | none => s
  | some a =>
    let x := s.slot a.slot
    match s.operandBytes x.load.dev x.load.addr.toNat x.load.len copy with
    | none => s.endAdmission 7
    | some bs =>
      let img := s.image a.slot
      if imageDigest bs != img.digest then s.endAdmission 6
      else
        let base := (x.alloc.image.map Region.base).getD 0
        let s := s.writeDev base bs false
        let s := s.setSlot a.slot { x with image := overlay img bs, digest := img.digest }
        let s := s.measure 2 3 img.digest img.planId a.slot
        let s := ((s.seat a.slot).setSlotState a.slot 2).setReason a.slot 0
        ({ s with admission := none }.noteAdmit a.slot { code := 0 }).complete a.ring 0 a.slot 0 0

end Sys2Proof.Machine
end

