-- ==== Sys2Proof/Machine/Agg.lean ====
section
/-!
DEFINITION. Aggregate states: their sizes, one value applied, two partial states combined, the result (Table JOIN-9,
R205), and HyperLogLog sketches (R207).
-/

namespace Sys2Proof.Machine

/-- F64 arithmetic of the probe unit: its result alone. -/
def f64add (a b : Nat) : Nat := (Fmt.f64.arith2 false 1 FVal.add a b).1
def f64sub (a b : Nat) : Nat := (Fmt.f64.arith2 false 2 (fun x y => x.add y.neg) a b).1
def f64mul (a b : Nat) : Nat := (Fmt.f64.arith2 false 3 FVal.mul a b).1
def f64div (a b : Nat) : Nat := (Fmt.f64.fdiv false a b).1
def f64abs (a : Nat) : Nat := a % 2 ^ 63
def f64ofNat (n : Nat) : Nat := (Fmt.f64.ofVal .ieee 0 0 0 (.fin false n 0)).1

/-- Bytes of an AGG column's state in an entry (Table JOIN-9, log 87). -/
def stateBytes (fn ty : Nat) : Nat :=
  match fn with
  | 0 | 1 | 9 => 8
  | 4 | 5 => if ty = 15 then 24 else 16
  | _ => 24

/-- The initial state. -/
def stateInit (fn ty : Nat) : List Byte :=
  List.replicate (stateBytes fn ty) (if fn = 9 then 0xFF else 0)

/-- One step of compensated summation (R205). -/
def compStep (s c x : Nat) : Nat × Nat :=
  let t := f64add s x
  let c := if Fmt.f64.fle (f64abs x) (f64abs s) then f64add c (f64add (f64sub s t) x)
    else f64add c (f64add (f64sub x t) s)
  (t, c)

/-- The smaller or larger of two non-NaN values of an OUT_TYPE (R205). -/
def minmaxOf (isMax : Bool) (ty a b : Nat) : Nat :=
  match tyFmt ty with
  | some f => f.minmax false isMax a b
  | none =>
    let v := fun x => if ty = 15 then toS 128 x else if ty = 14 then toS 64 x else if ty ≤ 7 then tyInt ty x else (x : Int)
    if decide (v b < v a) == isMax then a else b

def isNanOf (ty x : Nat) : Bool := match tyFmt ty with | some f => f.isNan x | none => false

/-- Apply a value to a state (R205); a null is skipped but by COUNT_ROWS. DISTINCT keeps its sketch elsewhere. The
value is in the form that log 88 names. -/
def aggStep (fn ty : Nat) (st : List Byte) (v : Option (List Byte)) : List Byte :=
  let u := fun k => bytesOf st (8 * k) 8
  match fn, v with
  | 0, _ => leBytes 8 (u 0 + 1)
  | _, none => st
  | 1, some _ => leBytes 8 (u 0 + 1)
  | 2, some x => leBytes 16 (ofI 128 (toS 128 (bytesOf st 0 16) + toS (8 * x.length) (leNat x))) ++ leBytes 8 (u 2 + 1)
  | 3, some x | 6, some x =>
    let r := compStep (u 0) (u 1) (leNat x)
    leBytes 8 r.1 ++ leBytes 8 r.2 ++ leBytes 8 (u 2 + 1)
  | 4, some x | 5, some x =>
    let w := if ty = 15 then 16 else 8
    let n := bytesOf st w 8
    if isNanOf ty (leNat x) then leBytes w (bytesOf st 0 w) ++ leBytes 8 (n % 2 ^ 63 + 2 ^ 63)
    else
      let v := if n % 2 ^ 63 = 0 then leNat x else minmaxOf (fn == 5) ty (bytesOf st 0 w) (leNat x)
      leBytes w v ++ leBytes 8 (n % 2 ^ 63 + 1 + n / 2 ^ 63 * 2 ^ 63)
  | 7, some x | 8, some x =>
    let n := u 0 + 1
    let d := f64sub (leNat x) (u 1)
    let mean := f64add (u 1) (f64div d (f64ofNat n))
    leBytes 8 n ++ leBytes 8 mean ++ leBytes 8 (f64add (u 2) (f64mul d (f64sub (leNat x) mean)))
  | _, some _ => st
where bytesOf (b : List Byte) (off n : Nat) : Nat := leNat (slice b off n)

/-- Combine two partial states (R205, log 93). -/
def aggMerge (fn ty : Nat) (a b : List Byte) : List Byte :=
  let u := fun (x : List Byte) k => leNat (slice x (8 * k) 8)
  match fn with
  | 0 | 1 => leBytes 8 (u a 0 + u b 0)
  | 2 => leBytes 16 (leNat (slice a 0 16) + leNat (slice b 0 16)) ++ leBytes 8 (u a 2 + u b 2)
  | 3 | 6 =>
    let r := compStep (u a 0) (f64add (u a 1) (u b 1)) (u b 0)
    leBytes 8 r.1 ++ leBytes 8 r.2 ++ leBytes 8 (u a 2 + u b 2)
  | 4 | 5 =>
    let w := if ty = 15 then 16 else 8
    let na := leNat (slice a w 8)
    let nb := leNat (slice b w 8)
    let nan := max (na / 2 ^ 63) (nb / 2 ^ 63) * 2 ^ 63
    let va := leNat (slice a 0 w)
    let vb := leNat (slice b 0 w)
    let v := if na % 2 ^ 63 = 0 then vb else if nb % 2 ^ 63 = 0 then va else minmaxOf (fn == 5) ty va vb
    leBytes w v ++ leBytes 8 (na % 2 ^ 63 + nb % 2 ^ 63 + nan)
  | 7 | 8 =>
    let na := u a 0
    let nb := u b 0
    if na = 0 then b else if nb = 0 then a
    else
      let n := f64ofNat (na + nb)
      let d := f64sub (u b 1) (u a 1)
      let mean := f64add (u a 1) (f64div (f64mul d (f64ofNat nb)) n)
      let m2 := f64add (f64add (u a 2) (u b 2))
        (f64div (f64mul (f64mul (f64mul d d) (f64ofNat na)) (f64ofNat nb)) n)
      leBytes 8 (na + nb) ++ leBytes 8 mean ++ leBytes 8 m2
  | _ => a

/-- hll_add() (R207): the registers of a sketch are its 6-bit fields. -/
def sketchReg (sk : List Byte) (k : Nat) : Nat := leNat (slice sk (6 * k / 8) 2) / 2 ^ (6 * k % 8) % 64
def sketchPut (sk : List Byte) (k v : Nat) : List Byte :=
  let o := 6 * k / 8
  let w := leNat (slice sk o 2)
  let sh := 6 * k % 8
  let w := w - w / 2 ^ sh % 64 * 2 ^ sh + v % 64 * 2 ^ sh
  sk.take o ++ leBytes (min 2 (sk.length - o)) w ++ sk.drop (o + 2)
def hllRank (h : Nat) : Nat := let w := m64 (h * 2 ^ 14); if w = 0 then 51 else clz 64 w + 1
def hllAdd (sk : List Byte) (h : Nat) : List Byte :=
  let k := h / 2 ^ 50 % 2 ^ 14
  if hllRank h > sketchReg sk k then sketchPut sk k (hllRank h) else sk
def hllMerge (a b : List Byte) : List Byte :=
  (List.range 16384).foldl (fun a k => if sketchReg b k > sketchReg a k then sketchPut a k (sketchReg b k) else a) a

/-- hll_estimate() (R207); the logarithm's rounding is open (log 24). -/
def hllEstimate (sk : List Byte) : Nat :=
  let rs := (List.range 16384).map (sketchReg sk)
  let s := (rs.map fun v => if v ≤ 49 then 2 ^ (49 - v) else 0).sum
  let q := (rs.map fun v => if v ≤ 49 then 0 else if v = 50 then 2 else 1).sum
  let zeros := (rs.filter (· == 0)).length
  let c := fun (neg : Bool) m e => (Fmt.f64.ofVal .ieee 0 0 0 (.fin neg m e)).1
  let dec := fun (n d : Nat) => (Fmt.f64.ofVal .ieee 0 0 0 ((FVal.fin false n 0).div (.fin false d 0))).1
  let z := f64div (f64add (f64ofNat s) (f64div (f64ofNat q) (c false 4 0))) (c false 1 49)
  let m := c false 1 14
  let k := f64div (dec 7213 10000) (f64add (c false 1 0) (f64div (dec 1079 1000) m))
  let e := f64div (f64mul (f64mul k m) m) z
  let e := if Fmt.f64.fle e (f64mul (c false 5 (-1)) m) && 0 < zeros
    then f64mul m (Config.trans 0x107 (f64div m (f64ofNat zeros)) 0) else e
  match Fmt.f64.value (f64add e (c false 1 (-1))) with
  | .fin false n x => if 0 ≤ x then m64 (n * 2 ^ x.toNat) else n / 2 ^ (-x).toNat
  | v => Config.elemFree 0x108 (match v with | .nan => 0 | _ => 1) e

/-- A group's result (Table JOIN-9): none for null; whether an I64 sum saturated (R205). A DISTINCT state is its
sketch, none where no value was added. -/
def aggResult (fn ty : Nat) (st : List Byte) : Option (List Byte) × Bool :=
  let u := fun k => leNat (slice st (8 * k) 8)
  match fn with
  | 0 | 1 => (some (leBytes 8 (u 0)), false)
  | 2 =>
    let v := toS 128 (leNat (slice st 0 16))
    if u 2 = 0 then (none, false)
    else if ty = 15 then (some (leBytes 16 (ofI 128 v)), false)
    else (some (leBytes 8 (ofI 64 (max (-(2 ^ 63)) (min (2 ^ 63 - 1) v)))), decide (v < -(2 ^ 63)) || decide (2 ^ 63 ≤ v))
  | 3 => (if u 2 = 0 then none else some (leBytes 8 (f64add (u 0) (u 1))), false)
  | 6 => (if u 2 = 0 then none else some (leBytes 8 (f64div (f64add (u 0) (u 1)) (f64ofNat (u 2)))), false)
  | 4 | 5 =>
    let w := if ty = 15 then 16 else 8
    let n := leNat (slice st w 8)
    if n % 2 ^ 63 != 0 then (some (slice st 0 w), false)
    else if n / 2 ^ 63 = 1 then (some (leBytes w (match tyFmt ty with | some f => f.nan 0x109 0 0 | none => 0)), false)
    else (none, false)
  | 7 => (if u 0 ≤ 1 then none else some (leBytes 8 (f64div (u 2) (f64ofNat (u 0 - 1)))), false)
  | 8 => (if u 0 = 0 then none else some (leBytes 8 (f64div (u 2) (f64ofNat (u 0)))), false)
  | _ => (some (leBytes 8 (if st.length < 12288 then 0 else hllEstimate st)), false)

end Sys2Proof.Machine
end

