-- ==== Sys2Proof/Machine/JoinTab.lean ====
section
/-!
DEFINITION. Hash tables in memory (R188 to R195, R200, R203, R204, R207): where a share lies, reading its buckets and
entries, insertion, groups, eviction and spills.
-/

namespace Sys2Proof.Machine

/-- A declared table of a resident plan: its slot and handle, the declaring operator, its owners' physical tiles. -/
structure JTab where
  slot : Nat
  h : Nat
  img : Image
  op : OpRec
  owners : List Nat
  deriving DecidableEq, Repr

/-- Physical tiles of a stage's TILE_SET, by logical number. -/
def State.stageTiles (s : State) (p k : Nat) : List Nat :=
  let set := ((s.image p).stage k).tileSet
  (s.slot p).alloc.tiles.zipIdx.filterMap fun q => if set / 2 ^ q.2 % 2 = 1 then some q.1 else none

def State.jtab (s : State) (p h : Nat) : Option JTab :=
  ((s.image p).declarer h).map fun o => { slot := p, h := h, img := s.image p, op := o, owners := s.stageTiles p o.stage }

def JTab.f (t : JTab) (off lo w : Nat) : Nat := t.img.joinField t.op off lo w
def JTab.isAgg (t : JTab) : Bool := t.op.code == 3
def JTab.isStr (t : JTab) : Bool := t.f 1 3 1 == 1
def JTab.nullEq (t : JTab) : Bool := t.f 1 2 1 == 1
def JTab.asof (t : JTab) : Bool := t.img.hasTime t.op
def JTab.nb (t : JTab) : Nat := t.f 0x10 0 32
def JTab.entries (t : JTab) : Nat := t.f 0x14 0 32
def JTab.payBytes (t : JTab) : Nat := t.f 3 0 8
def JTab.entryBytes (t : JTab) : Nat := t.img.entryBytes t.op
def JTab.keyField (t : JTab) : Nat := if t.isStr then 32 else (t.f 2 0 8 + 7) / 8 * 8
/-- Column records of a role. -/
def Image.joinCols (i : Image) (o : OpRec) (role : Nat) : List (List Nat) :=
  ((List.range (i.joinField o 5 0 8)).map (i.joinCol o)).filter fun q => q.getD 0 0 == role
/-- The AGG column records: SRC, function, type. -/
def JTab.aggs (t : JTab) : List (Nat × Nat × Nat) :=
  (t.img.joinCols t.op 5).map fun q => (q.getD 1 0, q.getD 2 0, q.getD 3 0)

/-- The hash of a key (R190): a null component counts as zeros. -/
def JTab.hash (t : JTab) (k : JKey) (level : Nat) : Nat :=
  nhMix64Bytes (k.bytes ++ if t.nullEq && !t.isStr then [byte k.nulls] else []) ((t.f 8 0 64 + level) % 2 ^ 64)
def ownerOf (h nt : Nat) : Nat := mulhi64 h nt
def bucket0 (h nb : Nat) : Nat := mulhi64 (m64 (h * 64)) nb
def graceOf (h g : Nat) : Nat := h / 2 ^ 26 % 2 ^ g
def chkOf (h : Nat) : Nat := h / 2 ^ 8 % 2 ^ 18
def tagOf (h : Nat) : Nat := h % 256
def endChain : Nat := 0xFF_FFFF_FFFF

/-- Base device address of an owner's share (R188, R200). -/
def State.shareBase (s : State) (t : JTab) (o : Nat) : Nat :=
  let off := t.f 0x20 0 64
  let a := (s.slot t.slot).alloc
  let region := fun (l : List Region) => ((l.find? fun r => r.id == t.f 0x18 0 4).map Region.base).getD 0
  match t.f 1 0 2 with
  | 0 => tileBase + t.owners.getD o 0 * 0x80_0000 + off
  | 1 => region a.store + off + o * t.img.shareBytes t.op
  | _ => region a.hbm + off + o * t.img.shareBytes t.op
def JTab.entryAt (t : JTab) (base n : Nat) : Nat := base + 64 * t.nb + n * t.entryBytes
def JTab.sketchAt (t : JTab) (base n : Nat) : Nat := t.entryAt base t.entries + n * 12288
def JTab.heapAt (t : JTab) (base off : Nat) : Nat :=
  (if t.img.hasSketch t.op then t.sketchAt base t.entries else t.entryAt base t.entries) + off
def JTab.heapBytes (t : JTab) : Nat := t.f 0x18 8 24 * 1024

def shareKey (slot h tile : Nat) : Nat := slot * 1024 + h * 64 + tile
def State.share (s : State) (t : JTab) (o : Nat) : Share :=
  kget (fun _ => {}) s.shares (shareKey t.slot t.h (t.owners.getD o 0))
def State.setShare (s : State) (t : JTab) (o : Nat) (x : Share) : State :=
  { s with shares := kset (fun _ => {}) s.shares (shareKey t.slot t.h (t.owners.getD o 0)) x }
/-- Write bytes of a share, on behalf of its owner. -/
def State.putShare (s : State) (t : JTab) (o a : Nat) (bs : List Byte) : State :=
  s.writeMem (pgTILE (t.owners.getD o 0)) a bs false

/-- An entry as read (R192). -/
structure EntryRec where
  next : Nat
  key : JKey
  time : Nat
  pay : List Byte
  deriving DecidableEq, Repr

/-- Read entry n; whether a read returned poison. -/
def State.readEntry (s : State) (t : JTab) (base n : Nat) : EntryRec × Bool :=
  let r := s.readMem (t.entryAt base n) t.entryBytes
  let hd := bytesAt r.1 0 8
  let len := hd / 2 ^ 48
  let kf := slice r.1 8 t.keyField
  let k := if !t.isStr then (kf.take (t.f 2 0 8), false)
    else if len ≤ 32 then (kf.take len, false)
    else s.readMem (t.heapAt base (bytesAt kf 0 8)) len
  let o := 8 + t.keyField
  ({ next := hd % 2 ^ 40, key := { bytes := k.1, nulls := hd / 2 ^ 40 % 256 }, time := if t.asof then bytesAt r.1 o 8 else 0
     pay := r.1.drop (o + if t.asof then 8 else 0) }, r.2 || k.2)

/-- What a walk along a probe sequence finds (R191): bucket, slot and chain head; poison; buckets read; entries read
whose key did not match. -/
structure JFind where
  hit : Option (Nat × Nat × Nat) := none
  bad : Bool := false
  buckets : Nat := 0
  misses : Nat := 0
  deriving DecidableEq, Repr

def State.findFrom (s : State) (t : JTab) (base h : Nat) (k : JKey) : Nat → Nat → JFind → JFind
  | 0, _, r => r
  | fuel + 1, i, r =>
    let b := (bucket0 h t.nb + i) % t.nb
    let q := s.readMem (base + 64 * b) 64
    let head := fun j => bytesAt q.1 (8 + 8 * j) 8 % 2 ^ 40
    let cand := (List.range 7).filter fun j => bytesAt q.1 7 1 / 2 ^ j % 2 = 1 && bytesAt q.1 j 1 == tagOf h &&
      bytesAt q.1 (8 + 8 * j) 8 / 2 ^ 46 == chkOf h
    let es := cand.map fun j => (j, s.readEntry t base (head j))
    let other := es.takeWhile fun e => e.2.1.key != k
    let r := { r with bad := r.bad || q.2 || es.any fun e => e.2.2, buckets := r.buckets + 1
                      misses := r.misses + other.length }
    match es.find? fun e => e.2.1.key == k with
    | some e => { r with hit := some (b, e.1, head e.1) }
    | none => if bytesAt q.1 7 1 / 128 = 0 then r else s.findFrom t base h k fuel (i + 1) r

def State.findKey (s : State) (t : JTab) (base h : Nat) (k : JKey) : JFind := s.findFrom t base h k 16 0 {}

/-- The chain from an entry on, with its entries' numbers; the first argument bounds its length. -/
def State.chainFrom (s : State) (t : JTab) (base : Nat) : Nat → Nat → List (Nat × EntryRec) × Bool
  | 0, _ => ([], false)
  | fuel + 1, n =>
    if n = endChain then ([], false)
    else
      let e := s.readEntry t base n
      let q := s.chainFrom t base fuel e.1.next
      ((n, e.1) :: q.1, e.2 || q.2)
def State.chain (s : State) (t : JTab) (o n : Nat) : List (Nat × EntryRec) × Bool :=
  s.chainFrom t (s.shareBase t o) ((s.share t o).used + 1) n

/-- The first free slot of a probe sequence and the full buckets before it (R193). -/
def State.roomFrom (s : State) (t : JTab) (base h : Nat) : Nat → Nat → List Nat → Option (Nat × Nat × List Nat)
  | 0, _, _ => none
  | fuel + 1, i, full =>
    let b := (bucket0 h t.nb + i) % t.nb
    let occ := bytesAt (s.readMem (base + 64 * b) 64).1 7 1
    match (List.range 7).find? fun j => occ / 2 ^ j % 2 = 0 with
    | some j => some (b, j, full)
    | none => s.roomFrom t base h fuel (i + 1) (full ++ [b])

/-- Bytes of an entry (R192); `hoff` is the heap offset of a long key. -/
def JTab.entry (t : JTab) (r : Built) (next hoff : Nat) (pay : List Byte) : List Byte :=
  let len := if t.isStr then r.key.bytes.length else 0
  let pad := fun n (b : List Byte) => b.take n ++ List.replicate (n - b.length) 0
  let kf := if t.isStr && 32 < len then leBytes 8 hoff ++ r.key.bytes.take 24 else pad t.keyField r.key.bytes
  leBytes 8 (next + r.key.nulls % 256 * 2 ^ 40 + len % 2 ^ 16 * 2 ^ 48) ++ kf ++
    (if t.asof then leBytes 8 r.time else []) ++ pad t.payBytes pay

/-- An entry number for a new entry, and its heap room (R195); none when the share is full. -/
def JTab.newEntry (t : JTab) (x : Share) (len : Nat) : Option (Nat × Share) :=
  let heap := if t.isStr && 32 < len then len else 0
  if x.heap + heap > t.heapBytes && heap != 0 then none
  else match x.free with
    | n :: l => some (n, { x with free := l, heap := x.heap + heap, rows := x.rows ++ [n] })
    | [] => if x.used < t.entries then
        some (x.used, { x with used := x.used + 1, heap := x.heap + heap, rows := x.rows ++ [x.used] }) else none

/-- Write an entry for an absent key, its slot word, then bytes 0 to 7 of its bucket, after the OVERFLOW bits of the
buckets passed (R193); none when the share is full. -/
def State.insertNew (s : State) (t : JTab) (o h : Nat) (r : Built) (pay : List Byte) : Option (State × Nat) :=
  let base := s.shareBase t o
  let x := s.share t o
  match s.roomFrom t base h 16 0 [], t.newEntry x r.key.bytes.length with
  | some (b, j, full), some (n, x') =>
    let s := s.setShare t o x'
    let s := if t.isStr && 32 < r.key.bytes.length then s.putShare t o (t.heapAt base x.heap) r.key.bytes else s
    let s := full.foldl (fun (s : State) b =>
      let a := base + 64 * b
      s.putShare t o a (leBytes 8 (leNat (s.readMem a 8).1 ||| 2 ^ 63))) s
    let s := s.putShare t o (t.entryAt base n) (t.entry r endChain x.heap pay)
    let s := s.putShare t o (base + 64 * b + 8 + 8 * j) (leBytes 8 (n + chkOf h * 2 ^ 46))
    let a := base + 64 * b
    let w := leNat (s.readMem a 8).1
    let w := w - w / 2 ^ (8 * j) % 256 * 2 ^ (8 * j) + tagOf h * 2 ^ (8 * j)
    some (s.putShare t o a (leBytes 8 (w ||| 2 ^ (56 + j))), n)
  | _, _ => none

/-- Insert a row of a BUILD table (R193, R203): into the head of its key's chain, or by TIME in an as-of table. The
entry's number and whether the key was there; none when the share is full. -/
def State.insertRow (s : State) (t : JTab) (o h : Nat) (r : Built) : Option (State × Nat × Bool) :=
  let base := s.shareBase t o
  match (s.findKey t base h r.key).hit with
  | none => (s.insertNew t o h r r.pay).map fun q => (q.1, q.2, false)
  | some (b, j, head) =>
    match t.newEntry (s.share t o) r.key.bytes.length with
    | none => none
    | some (n, x') =>
      let hoff := (s.share t o).heap
      let ch := (s.chain t o head).1
      let before := if t.asof then ch.takeWhile fun e => decide (toS 64 r.time < toS 64 e.2.time) else []
      let next := ((ch.drop before.length).head?.map Prod.fst).getD endChain
      let s := s.setShare t o x'
      let s := if t.isStr && 32 < r.key.bytes.length then s.putShare t o (t.heapAt base hoff) r.key.bytes else s
      let s := s.putShare t o (t.entryAt base n) (t.entry r next hoff r.pay)
      match before.getLast? with
      | none => some (s.putShare t o (base + 64 * b + 8 + 8 * j) (leBytes 8 (n + chkOf h * 2 ^ 46)), n, true)
      | some e =>
        let a := t.entryAt base e.1
        let hd := leNat (s.readMem a 8).1
        some (s.putShare t o a (leBytes 8 (hd / 2 ^ 40 * 2 ^ 40 + n)), n, true)

/-! ## Groups -/

/-- Offsets of the states in a payload. -/
def JTab.stateOffs (t : JTab) : List (Nat × Nat × Nat × Nat) :=
  (t.aggs.foldl (fun (q : Nat × List (Nat × Nat × Nat × Nat)) a =>
    (q.1 + stateBytes a.2.1 a.2.2, q.2 ++ [(q.1, a)])) (0, [])).2
def JTab.initPay (t : JTab) : List Byte := t.aggs.flatMap fun a => stateInit a.2.1 a.2.2

/-- A group's states, a sketch by its bytes. -/
def State.groupStates (s : State) (t : JTab) (o : Nat) (pay : List Byte) : List (List Byte) :=
  t.stateOffs.map fun q =>
    let st := slice pay q.1 (stateBytes q.2.2.1 q.2.2.2)
    if q.2.2.1 = 9 then
      (if leNat st = 2 ^ 64 - 1 then st else (s.readMem (t.sketchAt (s.shareBase t o) (leNat st)) 12288).1)
    else st

/-- A DISTINCT value's hash (R207): log 96 for values of 16 B. -/
def JTab.distinctHash (t : JTab) (ty : Nat) (v : List Byte) : Nat :=
  let seed := t.f 8 0 64
  if ty = 13 then nhMix64Bytes v seed
  else if v.length ≤ 8 then nhMix64 (leNat v) seed else m64 (Config.elemFree 0x10A (leNat v) seed)

/-- A fresh sketch (R207); none when every sketch is in use (R208). -/
def JTab.newSketch (t : JTab) (x : Share) : Option (Nat × Share) :=
  match x.sketchFree with
  | n :: l => some (n, { x with sketchFree := l })
  | [] => if x.sketches < t.entries then some (x.sketches, { x with sketches := x.sketches + 1 }) else none

/-- Change one state of a group; `f` maps a state other than a sketch, `g` a sketch. -/
def State.changeState (s : State) (t : JTab) (o n : Nat) (q : Nat × Nat × Nat × Nat) (sk : Bool)
    (f : List Byte → List Byte) : Option State :=
  let base := s.shareBase t o
  let e := (s.readEntry t base n).1
  let a := t.entryAt base n + 8 + t.keyField + (if t.asof then 8 else 0) + q.1
  let size := min (stateBytes q.2.2.1 q.2.2.2) (t.payBytes - q.1)
  let st := slice e.pay q.1 (stateBytes q.2.2.1 q.2.2.2)
  if q.2.2.1 != 9 then some (s.putShare t o a ((f st).take size))
  else if !sk then some s
  else if leNat st = 2 ^ 64 - 1 then
    match t.newSketch (s.share t o) with
    | none => none
    | some (k, x) =>
      let s := (s.setShare t o x).putShare t o a ((leBytes 8 k).take size)
      some (s.putShare t o (t.sketchAt base k) (f (List.replicate 12288 0)))
  else
    let b := t.sketchAt base (leNat st)
    some (s.putShare t o b (f (s.readMem b 12288).1))

/-- The group of a key, inserted with initial states when absent (R204). -/
def State.groupOf (s : State) (t : JTab) (o h : Nat) (k : JKey) : Option (State × Nat × Bool) :=
  match (s.findKey t (s.shareBase t o) h k).hit with
  | some (_, _, n) => some (s, n, true)
  | none => (s.insertNew t o h { key := k } t.initPay).map fun q => (q.1, q.2, false)

/-- Apply values or partial states to a group (R204, R205); none when the share is full. -/
def State.applyGroup (s : State) (t : JTab) (o h : Nat) (r : Built) : Option (State × Nat × Bool) :=
  match s.groupOf t o h r.key with
  | none => none
  | some (s, n, ex) =>
    let s := (r.upd.getD []).foldl (fun (s : Option State) u => s.bind fun s =>
      match t.stateOffs[u.1]? with
      | none => some s
      | some q => s.changeState t o n q u.2.isSome fun st =>
          if q.2.2.1 = 9 then hllAdd st (t.distinctHash q.2.2.2 (u.2.getD [])) else aggStep q.2.2.1 q.2.2.2 st u.2) (some s)
    let s := ((r.states.getD []).zip t.stateOffs).foldl (fun (s : Option State) u => s.bind fun s =>
      s.changeState t o n u.2 (12288 ≤ u.1.length) fun st =>
        if u.2.2.2.1 = 9 then hllMerge st u.1 else aggMerge u.2.2.2.1 u.2.2.2.2 st u.1) s
    s.map fun s => (s, n, ex)

/-- Put a row or a group into a share. -/
def State.put (s : State) (t : JTab) (o h : Nat) (r : Built) : Option (State × Nat × Bool) :=
  if t.isAgg then s.applyGroup t o h r else s.insertRow t o h r

/-! ## Eviction and spills -/

/-- Bits of the partition number at a level (R195, R196). -/
def JTab.graceBits (t : JTab) (level : Nat) : Nat := if level = 0 then t.f 4 0 3 else 6

/-- Bytes that rows take in the spill area, as one stored block (log 95). -/
def JTab.spillSize (t : JTab) (n : Nat) : Nat := 32 + (n * t.entryBytes + 7) / 8 * 8

/-- Spills stand in the order of their passes: deepest level first, ascending partition (R196). -/
def addSpill (x : Spill) : List Spill → List Spill
  | [] => [x]
  | y :: ys =>
    if y.level = x.level && y.part = x.part then { y with build := y.build ++ x.build, probe := y.probe ++ x.probe } :: ys
    else if y.level < x.level || (y.level = x.level && x.part < y.part) then x :: y :: ys
    else y :: addSpill x ys

/-- Write rows to a partition's spill; a write beyond the owner's part of the area is refused (R197). -/
def State.spill (s : State) (t : JTab) (o : Nat) (x : Spill) : State :=
  let n := x.build.length + x.probe.length
  let sh := s.share t o
  if sh.spillBytes + t.spillSize n > t.f 0x38 0 64 / max t.owners.length 1 then s.claimOverrun t.slot
  else s.setShare t o { sh with spills := addSpill x sh.spills, spillBytes := sh.spillBytes + t.spillSize n }

/-- An entry as a row to spill. -/
def State.builtOf (s : State) (t : JTab) (o n : Nat) : Built :=
  let e := (s.readEntry t (s.shareBase t o) n).1
  if t.isAgg then { key := e.key, states := some (s.groupStates t o e.pay) }
  else { key := e.key, time := e.time, pay := e.pay }

/-- Evict the highest-numbered resident partition (R195); none when every one is evicted. -/
def State.evict (s : State) (t : JTab) (o : Nat) : Option State :=
  let x := s.share t o
  let g := t.graceBits x.level
  match ((List.range (2 ^ g)).filter fun q => !x.evicted.contains q).getLast? with
  | none => none
  | some q =>
    let base := s.shareBase t o
    let rows := x.rows.map fun n => (n, s.builtOf t o n)
    let mine := rows.filter fun r => graceOf (t.hash r.2.key x.level) g == q
    let gone := mine.map Prod.fst
    let sk := if t.isAgg then gone.flatMap fun n =>
        let pay := (s.readEntry t base n).1.pay
        (t.stateOffs.filter fun u => u.2.2.1 == 9).filterMap fun u =>
          let k := leNat (slice pay u.1 8)
          if k = 2 ^ 64 - 1 then none else some k
      else []
    let s' := mine.foldl (fun (s : State) r =>
      match (s.findKey t base (t.hash r.2.key x.level) r.2.key).hit with
      | none => s
      | some (b, j, _) =>
        let a := base + 64 * b
        let w := leNat (s.readMem a 8).1
        s.putShare t o a (leBytes 8 (if w / 2 ^ (56 + j) % 2 = 1 then w - 2 ^ (56 + j) else w))) s
    let s' := s'.setShare t o { x with rows := x.rows.filter fun n => !gone.contains n, free := x.free ++ gone
                                       sketchFree := x.sketchFree ++ sk, evicted := q :: x.evicted }
    let s' := s'.addSat (pgTILE (t.owners.getD o 0)) Reg.TILE_PROBE_SPILL_EVICTED 1
    some (s'.spill t o { level := x.level, part := q, build := mine.map Prod.snd })

/-- Put a row into a share, evicting until it fits (R195); none where the row went to its partition's spill. The first
argument bounds the evictions. -/
def State.putEvict : Nat → State → JTab → Nat → Nat → Built → State × Option (Nat × Bool)
  | fuel, s, t, o, h, r =>
    let x := s.share t o
    let q := graceOf h (t.graceBits x.level)
    if x.evicted.contains q then (s.spill t o { level := x.level, part := q, build := [r] }, none)
    else match s.put t o h r with
      | some (s', n, ex) => (s', some (n, ex))
      | none => match fuel with
        | 0 => (s, none)
        | k + 1 => match s.evict t o with
          | some s' => putEvict k s' t o h r
          | none => (s, none)

/-- Empty a share (R196, R199): no bucket slot is occupied, no entry used. -/
def State.emptyShare (s : State) (t : JTab) (o level : Nat) (keep : Share) : State :=
  let base := s.shareBase t o
  let s := (List.range t.nb).foldl (fun (s : State) b => s.putShare t o (base + 64 * b) (leBytes 8 0)) s
  s.setShare t o { level := level, spills := keep.spills, spillBytes := keep.spillBytes, finished := keep.finished
                   copied := keep.copied }

end Sys2Proof.Machine
end

