-- ==== Sys2Proof/Machine/ThreadMem.lean ====
section
/-!
DEFINITION. The tile-memory instructions of a thread (R151, R152, R162).
-/

namespace Sys2Proof.Machine

open Sys2Proof

/-- A read of tile memory by a thread: the bytes, what SECDED reported, and the PZ flag (R151, R156). -/
def State.tmLoad (s : State) (tile off n : Nat) (e : TmEcc) : List Byte × Nat :=
  (s.tmBytesAt tile off n e, if e.uncorr.any (wordsOf off n).contains then 32 else 0)

/-- v[D] = 256 B at s[A] + IMM12 × 64; an address that is no multiple of 64 reads a free value (log 64). -/
def execVld (tile : Fin 64) (th : Fin 8) (imm : BitVec 12) (f3 : BitVec 3) (a d : BitVec 5) (ecc : TmEcc)
    (s : State) : Out :=
  ifWord (okI 0x14 imm.toNat f3.toNat a.toNat d.toNat) <| s.issueWith tile th fun s p x =>
    let o := addrOf (x.sN a.toNat) (immI imm * 64)
    if !s.tmOk p o 256 then s.tmRange tile th p o
    else if o % 64 != 0 then
      let (k, s) := s.fresh
      s.setThread tile th (x.putV d.toNat k).next
    else
      let r := s.tmLoad tile o 256 ecc
      (s.setThread tile th (x.putVF d.toNat (leNat r.1, r.2)).next).tmEccRead tile (wordsOf o 256) ecc

/-- The store of v[D]; an address that is no multiple of 64 leaves free bytes in the lines it touches (log 64). -/
def execVst (tile : Fin 64) (th : Fin 8) (imm : BitVec 12) (f3 : BitVec 3) (a d : BitVec 5) (s : State) : Out :=
  ifWord (okI 0x15 imm.toNat f3.toNat a.toNat d.toNat) <| s.issueWith tile th fun s p x =>
    let o := addrOf (x.sN a.toNat) (immI imm * 64)
    if !s.tmOk p o 256 then s.tmRange tile th p o
    else if o % 64 != 0 then
      let (k, s) := s.fresh
      let lo := o / 64 * 64
      (s.tmWrite tile lo (leBytes (min 320 (s.tmBytes p - lo)) k)).setThread tile th x.next
    else (s.tmWrite tile o (leBytes 256 (x.vN d.toNat))).setThread tile th x.next

/-- Lanes of an indexed access: 2,048 ÷ the wider of the element and its U32 index (R150). -/
def lanesX (ty : Nat) : Nat := 2048 / max (tyWidth ty) 32

/-- Addresses of the selected lanes, and the first one beyond the claim. -/
def Thread.laneAddrs (x : Thread) (mask ty b a : Nat) : List (Nat × Nat) :=
  ((List.range (lanesX ty)).filter fun i => x.mN mask / 2 ^ i % 2 == 1).map fun i =>
    (i, (x.sN a + elem (x.vN b) 32 i * (tyWidth ty / 8)) % 2 ^ 64)

def execVldx (tile : Fin 64) (th : Fin 8) (var : BitVec 3) (mask : BitVec 3) (ty : BitVec 4) (b a d : BitVec 5)
    (ecc : TmEcc) (s : State) : Out :=
  ifWord (okV 0x16 var.toNat mask.toNat ty.toNat b.toNat a.toNat d.toNat) <| s.issueWith tile th fun s p x =>
    let w := tyWidth ty.toNat
    let ls := x.laneAddrs mask.toNat ty.toNat b.toNat a.toNat
    match ls.find? fun l => !s.tmOk p l.2 (w / 8) with
    | some l => s.tmRange tile th p l.2
    | none =>
      let at_ := fun i => ((ls.find? fun l => l.1 == i).map Prod.snd).getD 0
      let r := lanes w (lanesX ty.toNat) (x.mN mask.toNat) (x.vN d.toNat) fun i =>
        let v := s.tmLoad tile (at_ i) (w / 8) ecc
        (leNat v.1, v.2)
      (s.setThread tile th (x.putVF d.toNat r).next).tmEccRead tile
        (ls.flatMap fun l => wordsOf l.2 (w / 8)).eraseDups ecc

/-- The bytes that the lanes of one VSTX store; a byte that lanes store differently is free (log 65). -/
def scatter (k : Nat) (ws : List (Nat × Byte)) : List (Nat × Byte) :=
  ws.zipIdx.map fun p =>
    if ws.any fun q => q.1 == p.1.1 && q.2 != p.1.2 then (p.1.1, byte (k / 256 ^ p.2)) else p.1

def execVstx (tile : Fin 64) (th : Fin 8) (var : BitVec 3) (mask : BitVec 3) (ty : BitVec 4) (b a d : BitVec 5)
    (s : State) : Out :=
  ifWord (okV 0x17 var.toNat mask.toNat ty.toNat b.toNat a.toNat d.toNat) <| s.issueWith tile th fun s p x =>
    let w := tyWidth ty.toNat
    let ls := x.laneAddrs mask.toNat ty.toNat b.toNat a.toNat
    match ls.find? fun l => !s.tmOk p l.2 (w / 8) with
    | some l => s.tmRange tile th p l.2
    | none =>
      let (k, s) := s.fresh
      let ws := ls.flatMap fun l =>
        (leBytes (w / 8) (elem (x.vN d.toNat) w l.1)).zipIdx.map fun q => (l.2 + q.2, q.1)
      ((scatter k ws).foldl (fun (s : State) (q : Nat × Byte) => s.tmWrite tile q.1 [q.2]) s).setThread tile th x.next

def execSld (tile : Fin 64) (th : Fin 8) (imm : BitVec 12) (f3 : BitVec 3) (a d : BitVec 5) (ecc : TmEcc)
    (s : State) : Out :=
  ifWord (okI 0x18 imm.toNat f3.toNat a.toNat d.toNat) <| s.issueWith tile th fun s p x =>
    let o := addrOf (x.sN a.toNat) (immI imm * 8)
    if !s.tmOk p o 8 then s.tmRange tile th p o
    else
      let r := s.tmLoad tile o 8 ecc
      (s.setThread tile th (x.putSF d.toNat (leNat r.1, r.2)).next).tmEccRead tile (wordsOf o 8) ecc

def execSst (tile : Fin 64) (th : Fin 8) (imm : BitVec 12) (f3 : BitVec 3) (a d : BitVec 5) (s : State) : Out :=
  ifWord (okI 0x19 imm.toNat f3.toNat a.toNat d.toNat) <| s.issueWith tile th fun s p x =>
    let o := addrOf (x.sN a.toNat) (immI imm * 8)
    if !s.tmOk p o 8 then s.tmRange tile th p o
    else (s.tmWrite tile o (leBytes 8 (x.sN d.toNat))).setThread tile th x.next

end Sys2Proof.Machine
end

