-- ==== Sys2Proof/Machine/Join.lean ====
section
/-!
DEFINITION. The probe units (R189, R193 to R196, R202 to R213): PROBE from expression code, requests served by their
owners, answers, passes over evicted partitions, hot keys.
-/

namespace Sys2Proof.Machine

open Sys2Proof

def State.pu (s : State) (tile : Nat) : ProbeUnit := kget (fun _ => {}) s.probeUnits tile
def State.setPu (s : State) (tile : Nat) (u : ProbeUnit) : State :=
  { s with probeUnits := kset (fun _ => {}) s.probeUnits tile u }
/-- Queue an answer to a tile. -/
def State.reply (s : State) (tile : Nat) (a : Answer) : State :=
  let u := s.pu tile
  s.setPu tile { u with answers := u.answers ++ [a] }

/-- Requests held by an owner, and TILE_PROBE_STAT.QUEUED. -/
def State.setProbes (s : State) (tile : Nat) (l : List Probe) : State :=
  (s.setTile tile { s.tile tile with probes := l }).setFld (pgTILE tile) Reg.TILE_PROBE_STAT_QUEUED l.length

/-- A poisoned bucket, entry, heap or sketch (R213): LOG at the owner, the chunk regenerated; the stage of a table
that lasts as long as the plan runs again (R201). -/
def State.tablePoison (s : State) (t : JTab) (o : Nat) : State :=
  let s := s.error (pgTILE (t.owners.getD o 0)) Src.tile_PROBE_POISON
  let s := s.regenerate t.slot
  if t.f 1 6 1 = 0 then s else s.rebuildStage t.slot t.op.stage

/-! ## Hot keys -/

/-- Bytes of a tile's HOT_AREA in use by a table: replicas and partial groups (R209, R210). -/
def State.hotUsed (s : State) (tile : Nat) (t : JTab) : Nat :=
  (((s.pu tile).replicas.filter fun r => r.1 == t.h).map fun r => r.2.2.2.2 * t.entryBytes).sum +
    (((s.tile tile).partials.filter fun p => p.1 == t.h).map fun p =>
      p.2.1.length + (p.2.2.2.map List.length).sum).sum
def JTab.hotArea (t : JTab) : Nat := t.f 6 0 16 * 1024

/-- Count a probe of a hot-key table at its sender (R209): a key counted more than 64 times in the last 4,096 probes is
asked for once; for an AGG table the tile starts a partial state instead, while its HOT_AREA has room (R210). -/
def State.noteProbe (s : State) (tile : Nat) (t : JTab) (o : Nat) (k : JKey) : State :=
  if t.f 1 5 1 = 0 then s
  else
    let u := s.pu tile
    let l := ((k.bytes :: kget (fun _ => []) u.recent t.h)).take 4096
    let u := { u with recent := kset (fun _ => []) u.recent t.h l }
    if (l.filter (· == k.bytes)).length ≤ 64 || u.asked.contains (t.h, k.bytes) then s.setPu tile u
    else
      let s := s.setPu tile { u with asked := (t.h, k.bytes) :: u.asked }
      if t.isAgg then
        let new := t.aggs.map fun a => if a.2.1 = 9 then List.replicate 12288 0 else stateInit a.2.1 a.2.2
        let x := s.tile tile
        if s.hotUsed tile t + k.bytes.length + (new.map List.length).sum ≤ t.hotArea then
          (s.setTile tile { x with partials := x.partials ++ [(t.h, k.bytes, k.nulls, new)] }).setFld (pgTILE tile)
            Reg.TILE_PROBE_HOT_PARTIALS (x.partials.length + 1)
        else s
      else
        let owner := t.owners.getD o 0
        let v := s.pu owner
        s.setPu owner { v with hotReqs := v.hotReqs ++ [(tile, t.h, k.bytes)] }

/-- A partial state held at a tile for a key, and applying values to it (R210). -/
def State.applyPartial (s : State) (tile : Nat) (t : JTab) (r : Built) : Option State :=
  let x := s.tile tile
  if x.partials.any fun p => p.1 == t.h && p.2.1 == r.key.bytes && p.2.2.1 == r.key.nulls then
    let one := fun (sts : List (List Byte)) (u : Nat × Option (List Byte)) =>
      match t.aggs[u.1]? with
      | none => sts
      | some a => sts.modify u.1 fun st =>
          if a.2.1 = 9 then (match u.2 with | some v => hllAdd st (t.distinctHash a.2.2 v) | none => st)
          else aggStep a.2.1 a.2.2 st u.2
    some (s.setTile tile { x with partials := x.partials.map fun p =>
      if p.1 = t.h && p.2.1 = r.key.bytes && p.2.2.1 = r.key.nulls then
        (p.1, p.2.1, p.2.2.1, (r.upd.getD []).foldl one p.2.2.2) else p })
  else none

/-- A tile that is about to arrive at its gong sends its partial states to their owners (R210). -/
def State.flushPartials (s : State) (tile p : Nat) : State :=
  let s' := (s.tile tile).partials.foldl (fun (s : State) q =>
    match s.jtab p q.1 with
    | none => s
    | some t =>
      let k : JKey := { bytes := q.2.1, nulls := q.2.2.1 }
      let h := t.hash k (s.share t 0).level
      let o := ownerOf (t.hash k 0) t.owners.length
      (State.putEvict 65 s t o h { key := k, states := some q.2.2.2 }).1) s
  (s'.setTile tile { s'.tile tile with partials := [] }).setFld (pgTILE tile) Reg.TILE_PROBE_HOT_PARTIALS 0

/-! ## PROBE from expression code -/

/-- The key of a lane (R211): a short key zero-extended, else a string reference into the issuing tile's memory. -/
def JTab.laneKey (t : JTab) (b : Nat) (mem : Nat → Nat → List Byte) : JKey :=
  if !t.isStr && t.f 2 0 8 ≤ 8 then { bytes := leBytes (t.f 2 0 8) b }
  else { bytes := mem (b % 2 ^ 23) (b / 2 ^ 32 % 2 ^ 16) }

/-- Send a thread's probes (R189, R211): a replica at the tile answers a LOOKUP itself (R209), a partial state takes an
UPDATE (R210); while an owner holds 128 requests the instruction is not issued and the stall counts. -/
def State.issueProbes (s : State) (tile th p : Nat) (x : Thread) (kind : ProbeKind) (mask ty b a d : Nat) : State :=
  match s.jtab p ty with
  | none => s.setThread tile th x.next
  | some t =>
    let ls := (List.range 32).filter fun i => x.mN mask / 2 ^ i % 2 == 1
    let ref := fun i => elem (x.vN b) 64 i
    let inMem := t.isStr || 8 < t.f 2 0 8
    match if inMem then ls.find? fun i => !s.tmOk p (ref i % 2 ^ 23) (ref i / 2 ^ 32 % 2 ^ 16) else none with
    | some i => s.tmRange tile th p (ref i % 2 ^ 23)
    | none =>
      let owner := fun i => ownerOf (elem (x.vN a) 64 i) t.owners.length
      let need := fun o => (ls.filter fun i => owner i == o).length
      if ls.any fun i => 128 < ((s.tile (t.owners.getD (owner i) 0)).probes.length + need (owner i)) &&
          (s.tile (t.owners.getD (owner i) 0)).probes.length != 0 then s.perf (pgTILE tile) 0x125 1
      else
        let s := s.perf (pgTILE tile) 0x120 ls.length
        let s := if ls.isEmpty then s.setThread tile th x.next
          else s.setThread tile th { x.next with run := .streamWait, wait := some (.answers ls.length) }
        ls.foldl (fun (s : State) i =>
          let k := t.laneKey (ref i) fun off n => s.tmRead tile off n
          let o := owner i
          let s := s.noteProbe tile t o k
          let hash := elem (x.vN a) 64 i
          let local_ := (s.pu tile).replicas.find? fun r => r.1 == ty && r.2.1 == k.bytes
          match kind, local_ with
          | .lookup, some r =>
            let good := hash == t.hash k 0
            (s.reply tile (.lane th kind i d (if good then r.2.2.1 else 0)
              (if good then r.2.2.2.1 + 2 ^ 40 + (if r.2.2.2.2 > 1 then 2 ^ 41 else 0) else endChain))).perf
              (pgTILE tile) 0x124 1
          | _, _ =>
            let upd := (t.aggs.zipIdx.filter fun q => q.1.1 == 0xFF).map fun q =>
              (q.2, some (leBytes 8 (elem (x.vN d) 64 i)))
            match if kind == .update then s.applyPartial tile t { key := k, upd := some upd } else none with
            | some s' =>
              let f := s'.fresh
              f.2.reply tile (.lane th kind i d 0 (f.1 % 2 ^ 40 + 2 ^ 40))
            | none =>
              let ow := t.owners.getD o 0
              let q : Probe := { kind := kind, slot := p, tile := tile, th := th, lane := i, handle := ty, key := k.bytes
                                 load := [word hash, word (elem (x.vN d) 64 i)], d := d }
              s.setProbes ow ((s.tile ow).probes ++ [q])) s

def execProbeLookup (tile : Fin 64) (th : Fin 8) (mask : BitVec 3) (ty : BitVec 4) (b a d : BitVec 5) (s : State) : Out :=
  ifWord (okV 0x40 0 mask.toNat ty.toNat b.toNat a.toNat d.toNat && d.toNat % 2 == 0) <| s.issueWith tile th fun s p x =>
    s.issueProbes tile th p x .lookup mask.toNat ty.toNat b.toNat a.toNat d.toNat
def execProbeInsert (tile : Fin 64) (th : Fin 8) (mask : BitVec 3) (ty : BitVec 4) (b a d : BitVec 5) (s : State) : Out :=
  ifWord (okV 0x40 1 mask.toNat ty.toNat b.toNat a.toNat d.toNat && d.toNat % 2 == 0) <| s.issueWith tile th fun s p x =>
    s.issueProbes tile th p x .insert mask.toNat ty.toNat b.toNat a.toNat d.toNat
def execProbeUpdate (tile : Fin 64) (th : Fin 8) (mask : BitVec 3) (ty : BitVec 4) (b a d : BitVec 5) (s : State) : Out :=
  ifWord (okV 0x40 2 mask.toNat ty.toNat b.toNat a.toNat d.toNat && d.toNat % 2 == 0) <| s.issueWith tile th fun s p x =>
    s.issueProbes tile th p x .update mask.toNat ty.toNat b.toNat a.toNat d.toNat

/-! ## Serving -/

/-- Count a request served (R212). -/
def State.served (s : State) (owner : Nat) (f : JFind) : State :=
  (((s.addWrap (pgTILE owner) Reg.TILE_PROBE_STAT_SERVED 1).perf (pgTILE owner) 0x121 1).perf (pgTILE owner) 0x122
    (f.buckets - 1)).perf (pgTILE owner) 0x123 f.misses

/-- The first match of an as-of probe (R203), in exact arithmetic. -/
def asofMatch (strict : Bool) (tol time : Nat) (ch : List EntryRec) : Option EntryRec :=
  match ch.find? fun e => if strict then decide (toS 64 e.time < toS 64 time) else decide (toS 64 e.time ≤ toS 64 time) with
  | some e => if toS 64 time - toS 64 e.time ≤ toS 64 tol || tol = 2 ^ 63 - 1 then some e else none
  | none => none

/-- The key of a row: its components' bytes, null components as zeros, and the null mask. -/
def JTab.rowKey (t : JTab) (r : JoinRow) : JKey :=
  let ws := (t.img.joinCols t.op 0).map fun q => outTypeBytes (q.getD 3 0)
  { bytes := (r.key.zipIdx.flatMap fun q => match q.1 with
      | some b => b
      | none => List.replicate (ws.getD q.2 0) 0)
    nulls := (r.key.zipIdx.foldl (fun n q => if q.1.isNone then n + 2 ^ q.2 else n) 0) % 256 }

/-- Payload of a build row (R192): the validity bitmap when PVALID is 1, then one 8 B word a column, two for DEC128. -/
def JTab.rowPay (t : JTab) (r : JoinRow) : List Byte :=
  let tys := (t.img.joinCols t.op 1).map fun q => q.getD 3 0
  let bits := r.cols.zipIdx.foldl (fun n q => if q.1.isSome then n + 2 ^ q.2 else n) 0
  (if t.f 1 4 1 = 1 then leBytes 8 bits else []) ++ r.cols.zipIdx.flatMap fun q =>
    leBytes (if tys.getD q.2 0 = 15 then 16 else 8) (leNat (q.1.getD []))

/-- A row as what goes into its table: BUILD a payload, AGG values, AGG_MERGE partial states. -/
def JTab.built (t : JTab) (code : Nat) (r : JoinRow) : Built :=
  let k := t.rowKey r
  if code = 1 then { key := k, time := r.time.toNat, pay := t.rowPay r }
  else if code = 3 then { key := k, upd := some (r.cols.zipIdx.map fun q => (q.2, q.1)) }
  else { key := k, states := some (r.cols.map fun c => c.getD []) }

/-- The operator of a row. -/
def State.rowOp (s : State) (p : Nat) (r : JoinRow) : OpRec := (s.image p).op r.op

/-- The build entries that match a probe row (R202, R203), in chain order; whether a read returned poison. -/
def State.matchRow (s : State) (t : JTab) (o level : Nat) (op : OpRec) (r : JoinRow) :
    List EntryRec × JFind :=
  let k := t.rowKey r
  let f := s.findKey t (s.shareBase t o) (t.hash k level) k
  match f.hit with
  | none => ([], f)
  | some (_, _, n) =>
    let ch := s.chain t o n
    let es := ch.1.map Prod.snd
    let g := fun off lo w => t.img.joinField op off lo w
    let es := if g 0 4 3 = 4 then (asofMatch (g 4 3 1 == 1) (g 0x28 0 64) r.time.toNat es).toList else es
    (es, { f with bad := f.bad || ch.2 })

/-- The build columns of the rows that a kind of join writes for a probe row (Table JOIN-7, R203). -/
def joinRows (kind : Nat) (inner null : Bool) (build : List (List Byte)) : List (Option (List Byte)) :=
  match kind with
  | 0 => build.map some
  | 1 => if build.isEmpty then [none] else build.map some
  | 2 => if build.isEmpty || null then [] else [none]
  | 3 => if build.isEmpty || null then [none] else []
  | _ => if build.isEmpty then (if inner then [] else [none]) else build.map some

/-- Serve an operator's row at its owner (R193 to R196, R204). -/
def State.serveRow (s : State) (tile p : Nat) (r : JoinRow) : State :=
  let op := s.rowOp p r
  match s.jtab p ((s.image p).joinField op 0 0 4) with
  | none => s
  | some t =>
    let k := t.rowKey r
    let o := ownerOf (t.hash k 0) t.owners.length
    let lvl := (s.share t o).level
    let h := t.hash k lvl
    let null := k.nulls != 0 && !t.nullEq
    if t.owners.getD o 64 != tile then s
    else if op.code = 2 then
      let s := s.noteProbe r.tile t o k
      if null then s.reply r.tile (.rows r.op r.row [] true)
      else if (s.share t o).evicted.contains (graceOf h (t.graceBits lvl)) then
        s.spill t o { level := lvl, part := graceOf h (t.graceBits lvl), probe := [r] }
      else
        let m := s.matchRow t o lvl op r
        if m.2.bad then s.tablePoison t o
        else (s.served tile m.2).reply r.tile (.rows r.op r.row (m.1.map EntryRec.pay) false)
    else if null then s.addSat (pgTILE tile) Reg.TILE_PROBE_NULL_SKIPPED 1
    else
      let b := t.built op.code r
      let f := s.findKey t (s.shareBase t o) h k
      if f.bad then s.tablePoison t o
      else
        let s := if op.code = 3 then s.noteProbe r.tile t o k else s
        match if op.code = 3 then s.applyPartial r.tile t b else none with
        | some s' => s'
        | none => (State.putEvict 65 (s.served tile f) t o h b).1

/-- Serve the oldest request of expression code (R211): a LOOKUP under a hash that is not the key's finds nothing; for
a key of an evicted partition the answer is open (log 86). -/
def State.serveProbe (s : State) (tile : Nat) (q : Probe) : State :=
  match s.jtab q.slot q.handle with
  | none => s
  | some t =>
    let k : JKey := { bytes := q.key }
    let hash := (q.load.getD 0 0).toNat
    let o := ownerOf hash t.owners.length
    let x := s.share t o
    let h := if hash = t.hash k 0 && x.level != 0 then t.hash k x.level else hash
    let f := s.findKey t (s.shareBase t o) h k
    if f.bad then s.tablePoison t o
    else
      let s := s.served tile f
      let w := (q.load.getD 1 0).toNat
      let ans := fun (s : State) w0 w1 => s.reply q.tile (.lane q.th q.kind q.lane q.d w0 w1)
      match q.kind with
      | .lookup =>
        if hash != t.hash k 0 then ans s 0 endChain
        else if x.evicted.contains (graceOf h (t.graceBits x.level)) then
          let a := s.fresh
          let b := a.2.fresh
          ans b.2 (a.1 % 2 ^ 64) (b.1 % 2 ^ 42)
        else match f.hit with
          | none => ans s 0 endChain
          | some (_, _, n) =>
            let c := s.chain t o n
            if c.2 then s.tablePoison t o
            else ans s (match c.1 with | e :: _ => bytesAt e.2.pay 0 8 | [] => 0)
              (n + 2 ^ 40 + if c.1.length > 1 then 2 ^ 41 else 0)
      | kind =>
        let upd := (t.aggs.zipIdx.filter fun u => u.1.1 == 0xFF).map fun u => (u.2, some (leBytes 8 w))
        let b : Built := if kind = .insert then { key := k, pay := leBytes 8 w } else { key := k, upd := some upd }
        match State.putEvict 65 s t o h b with
        | (s', some (n, ex)) => ans s' 0 (n % 2 ^ 40 + if ex then 2 ^ 40 else 0)
        | (s', none) =>
          let a := s'.fresh
          ans a.2 0 (a.1 % 2 ^ 41)

/-- The units of a plan's tile are at work. -/
def State.ownerWorks (s : State) (tile p : Nat) : Bool :=
  s.active p && s.powered (pgTILE tile) && !s.fenced (pgTILE tile)

/-- PROBE_SERVE: an operator's row, or the oldest request of expression code (R193). -/
def execProbeServe (tile : Fin 64) (row : Option JoinRow) (s : State) : Out :=
  match s.slotOfTile tile with
  | none => .next s
  | some p =>
    if !s.ownerWorks tile p then .next s
    else match row with
      | some r =>
        let op := s.rowOp p r
        match s.runOf r.tile with
        | some (p', k, _) =>
          if p' = p && r.op < (s.image p).nOps && op.cls = 4 && op.stage = k && op.code != 4 && 1 ≤ op.code && op.code ≤ 5
          then .next (s.serveRow tile p r) else .next s
        | none => .next s
      | none =>
        match (s.tile tile).probes with
        | [] => .next s
        | q :: l => .next ((s.setProbes tile l).serveProbe tile q)

/-- Write an output row of a JOIN at the issuing tile. -/
def State.putRows (s : State) (tile : Nat) (rs : List OutRow) : State :=
  let u := s.pu tile
  s.setPu tile { u with rows := u.rows ++ rs }

/-- KIND and ASOF_INNER of a JOIN operator. -/
def Image.joinKind (i : Image) (o : OpRec) : Nat × Bool := (i.joinField o 0 4 3, i.joinField o 4 4 1 == 1)

/-- PROBE_RESPONSE: the oldest answer reaches the issuing tile (R189, R202, R211). -/
def execProbeResponse (tile : Fin 64) (s : State) : Out :=
  match (s.pu tile).answers with
  | [] => .next s
  | a :: l =>
    let s := s.setPu tile { s.pu tile with answers := l }
    match a with
    | .lane th kind i d w0 w1 =>
      let x := s.thread tile th
      let put := fun (r v : Nat) (x : Thread) =>
        x.putV r (x.vN r - elem (x.vN r) 64 i * 2 ^ (64 * i) + v % 2 ^ 64 * 2 ^ (64 * i))
      let x := if kind = .lookup then put d w0 x else x
      .next (s.setThread tile th (put (d + 1) w1 x).answered)
    | .rows op row build null =>
      match s.slotOfTile tile with
      | none => .next s
      | some p =>
        let k := (s.image p).joinKind ((s.image p).op op)
        .next (s.putRows tile ((joinRows k.1 k.2 null build).map fun b => { op := op, row := row, build := b }))

/-! ## Passes over evicted partitions -/

/-- Build a partition at a level (R196): none of its rows left, or, at level 3, the rows that did not fit. -/
def State.buildPass (s : State) (t : JTab) (o level : Nat) : List Built → State × List Built
  | [] => (s, [])
  | r :: rs =>
    let h := t.hash r.key level
    if level ≥ 3 then
      match s.put t o h r with
      | some q => buildPass q.1 t o level rs
      | none => (s, r :: rs)
    else buildPass (State.putEvict 65 s t o h r).1 t o level rs

/-- Probe a partition from its probe spill (R196): rows of partitions evicted again go to their spills, the others'
matches by row. -/
def State.probePass (s : State) (t : JTab) (o level p : Nat) : List JoinRow → State × List (JoinRow × List EntryRec) × Bool
  | [] => (s, [], false)
  | r :: rs =>
    let h := t.hash (t.rowKey r) level
    let q := graceOf h (t.graceBits level)
    if (s.share t o).evicted.contains q then
      probePass (s.spill t o { level := level, part := q, probe := [r] }) t o level p rs
    else
      let m := s.matchRow t o level (s.rowOp p r) r
      let n := probePass s t o level p rs
      (n.1, (r, m.1) :: n.2.1, m.2.bad || n.2.2)

/-- Write a pass's rows at the issuing tiles. -/
def State.emitRows (s : State) (r : JoinRow) (bs : List (Option (List Byte))) : State :=
  s.putRows r.tile (bs.map fun b => { op := r.op, row := r.row, build := b })

/-- A partition processed in pieces (R196): each piece as many build rows as the share holds, the whole probe spill
read for each, and one matched bit a probe row. `best` holds each as-of row's latest match. -/
def State.pieces : Nat → State → JTab → Nat → Nat → List Built → List JoinRow → List (Bool × Option EntryRec) →
    State × List (Bool × Option EntryRec) × Bool
  | 0, s, _, _, _, _, _, m => (s, m, false)
  | fuel + 1, s, t, o, p, build, probe, m =>
    let s := s.emptyShare t o 3 (s.share t o)
    let q := s.buildPass t o 3 build
    let r := q.1.probePass t o 3 p probe
    let step := fun (a : State × List (Bool × Option EntryRec)) (x : (JoinRow × List EntryRec) × (Bool × Option EntryRec)) =>
      let k := (s.image p).joinKind (s.rowOp p x.1.1)
      let bs := x.1.2.map EntryRec.pay
      let s := if k.1 ≤ 1 then a.1.emitRows x.1.1 (bs.map some)
        else if k.1 = 2 && !x.2.1 && !bs.isEmpty then a.1.emitRows x.1.1 [none] else a.1
      let best := match x.1.2.head?, x.2.2 with
        | some e, some f => if toS 64 f.time ≤ toS 64 e.time then some e else some f
        | some e, none => some e
        | none, f => f
      (s, a.2 ++ [(x.2.1 || !bs.isEmpty, best)])
    let a := (r.2.1.zip m).foldl step (r.1, [])
    if q.2.isEmpty || q.2.length = build.length then (a.1, a.2, r.2.2)
    else
      let n := State.pieces fuel a.1 t o p q.2 probe a.2
      (n.1, n.2.1, r.2.2 || n.2.2)

/-- The rows that a partition processed in pieces writes at its end: outer, anti and as-of rows. -/
def State.endPieces (s : State) (p : Nat) (l : List (JoinRow × (Bool × Option EntryRec))) : State :=
  l.foldl (fun (s : State) x =>
    let k := (s.image p).joinKind (s.rowOp p x.1)
    if k.1 = 4 then s.emitRows x.1 (joinRows 4 k.2 false (x.2.2.toList.map EntryRec.pay))
    else if (k.1 = 1 || k.1 = 3) && !x.2.1 then s.emitRows x.1 [none] else s) s

/-- A BUILD table that lasts as long as the plan keeps its resident rows and build spills for later chunks. -/
def JTab.keeps (t : JTab) : Bool := t.f 1 6 1 == 1 && !t.isAgg

/-- The spill of a share's next pass, and those left: of a table that a plan keeps, only what a chunk's probe rows and
nested evictions added (R196, R201). -/
def JTab.nextSpill (t : JTab) (l : List Spill) : Option (Spill × List Spill) :=
  (l.find? fun x => !t.keeps || x.level != 0 || !x.probe.isEmpty).map fun x =>
    (x, if t.keeps && x.level = 0 then l.map fun y => if y = x then { y with probe := [] } else y else l.erase x)

/-- A pass over a table that the plan keeps leaves its resident share as it stood. -/
def State.afterPass (s0 s : State) (t : JTab) (o : Nat) : State :=
  if t.keeps then
    let y := s.share t o
    { s with mem := s0.mem }.setShare t o { s0.share t o with spills := y.spills, spillBytes := y.spillBytes }
  else s

/-- One pass: the next spill of a share. -/
def State.onePass (s : State) (t : JTab) (o : Nat) : State :=
  let x := s.share t o
  match t.nextSpill x.spills with
  | none => s
  | some (sp, rest) =>
    let pg := pgTILE (t.owners.getD o 0)
    let level := sp.level + 1
    let done := if t.isAgg && sp.level = 0 && x.level = 0 then x.finished ++ x.rows.map (s.builtOf t o) else x.finished
    let keep := { x with spills := rest, spillBytes := x.spillBytes - t.spillSize (sp.build.length + sp.probe.length)
                         finished := done }
    let s' := (s.addSat pg Reg.TILE_PROBE_SPILL_PASSES 1).setFld pg Reg.TILE_PROBE_SPILL_MAX_LEVEL
      (max (s.fld pg Reg.TILE_PROBE_SPILL_MAX_LEVEL) level)
    let s' := s'.emptyShare t o level keep
    let b := s'.buildPass t o level sp.build
    if !b.2.isEmpty then
      let s' := s'.error pg Src.tile_SPILL_PIECES
      let r := State.pieces (sp.build.length + 1) s' t o t.slot sp.build sp.probe (sp.probe.map fun _ => (false, none))
      if r.2.2 then s.tablePoison t o else s.afterPass (r.1.endPieces t.slot (sp.probe.zip r.2.1)) t o
    else
      let r := b.1.probePass t o level t.slot sp.probe
      if r.2.2 then s.tablePoison t o
      else
        let s' := r.2.1.foldl (fun (s : State) q =>
          let k := (s.image t.slot).joinKind (s.rowOp t.slot q.1)
          s.emitRows q.1 (joinRows k.1 k.2 false (q.2.map EntryRec.pay))) r.1
        if t.isAgg then
          let y := s'.share t o
          s'.setShare t o { y with finished := y.finished ++ y.rows.map (s'.builtOf t o), rows := [] }
        else s.afterPass s' t o

/-- The tables of a plan of which a tile owns a share with spills. -/
def State.spilled (s : State) (p tile : Nat) : Option (JTab × Nat) :=
  (List.range 16).findSome? fun h => (s.jtab p h).bind fun t =>
    match t.owners.findIdx? (· == tile) with
    | some o => if (t.nextSpill (s.share t o).spills).isNone then none else some (t, o)
    | none => none

/-- GRACE_PASS: the owner's next pass, once no request waits at it (R196). -/
def execGracePass (tile : Fin 64) (s : State) : Out :=
  match s.slotOfTile tile with
  | none => .next s
  | some p =>
    if !s.ownerWorks tile p || !(s.tile tile).probes.isEmpty then .next s
    else match s.spilled p tile with
      | some (t, o) => .next (s.onePass t o)
      | none => .next s

/-- A later stage than the declaring one names the table (R209). -/
def JTab.namedLater (t : JTab) : Bool :=
  t.img.ops.any fun o => o.cls == 4 && !o.declares && t.img.joinField o 0 0 4 == t.h && o.stage != t.op.stage

/-- HOT_REPLICATE: the owner's oldest request to replicate a key (R209). -/
def execHotReplicate (tile : Fin 64) (s : State) : Out :=
  match (s.pu tile).hotReqs, s.slotOfTile tile with
  | (from_, h, key) :: l, some p =>
    let s := s.setPu tile { s.pu tile with hotReqs := l }
    match s.jtab p h, s.runOf from_ with
    | some t, some (_, stage, _) =>
      let o := (t.owners.findIdx? (· == tile.val)).getD 0
      let k : JKey := { bytes := key }
      let x := s.share t o
      let f := s.findKey t (s.shareBase t o) (t.hash k x.level) k
      match f.hit with
      | none => .next s
      | some (_, _, n) =>
        let c := s.chain t o n
        if f.bad || c.2 then .next (s.tablePoison t o)
        else if t.namedLater && c.1.length * t.entryBytes ≤ 4096 && x.copied.length < 64 then
          let w0 := match c.1 with | e :: _ => bytesAt e.2.pay 0 8 | [] => 0
          let s := s.setShare t o { x with copied := key :: x.copied }
          .next ((s.stageTiles p stage).foldl (fun (s : State) i =>
            let u := s.pu i
            if s.hotUsed i t + c.1.length * t.entryBytes ≤ t.hotArea then
              (s.setPu i { u with replicas := u.replicas ++ [(h, key, w0, n, c.1.length)] }).setFld (pgTILE i)
                Reg.TILE_PROBE_HOT_REPLICAS (u.replicas.length + 1)
            else s) s)
        else .next ((s.addSat (pgTILE tile) Reg.TILE_PROBE_HOT_REFUSED 1).error (pgTILE tile) Src.tile_HOT_REFUSED)
    | _, _ => .next s
  | _, _ => .next s

/-! ## Stages -/

/-- Empty the tables that a stage declares with LIFETIME CHUNK (R199), with their replicas. -/
def State.clearTables (s : State) (p stage : Nat) : State :=
  (List.range 16).foldl (fun (s : State) h =>
    match s.jtab p h with
    | none => s
    | some t =>
      if t.op.stage != stage then s
      else
        let s := (List.range t.owners.length).foldl (fun (s : State) o => s.emptyShare t o 0 {}) s
        (s.slot p).alloc.tiles.foldl (fun (s : State) i =>
          let u := s.pu i
          if u.replicas.any fun r => r.1 == h then
            let l := u.replicas.filter fun r => r.1 != h
            (s.setPu i { u with replicas := l }).setFld (pgTILE i) Reg.TILE_PROBE_HOT_REPLICAS l.length
          else s) s) s

/-- One row of AGG_EMIT (R198, R205): the key, then its results, or the states when PARTIAL is 1. -/
def JTab.emitRow (t : JTab) (op : OpRec) (j : Nat) (g : Built) (k : Nat) : OutRow :=
  let sts := g.states.getD []
  let part := t.img.joinField op 1 7 1 == 1
  let rs := (sts.zip t.aggs).map fun q => aggResult q.2.2.1 q.2.2.2 q.1
  let body := if part then sts.flatten
    else rs.flatMap fun r => match r.1 with | some v => 1 :: v | none => [0]
  { op := j, row := k, build := some (byte g.key.nulls :: g.key.bytes ++ body), flag := !part && rs.any Prod.snd }

/-- The AGG_EMIT operators of a stage write one row a group at the owners' tiles. -/
def State.emitGroups (s : State) (p stage : Nat) : State :=
  let img := s.image p
  (List.range img.nOps).foldl (fun (s : State) j =>
    let op := img.op j
    if op.cls = 4 && op.code = 4 && op.stage = stage then
      match s.jtab p (img.joinField op 0 0 4) with
      | none => s
      | some t => t.owners.zipIdx.foldl (fun (s : State) q =>
          let x := s.share t q.2
          let gs := x.rows.map (s.builtOf t q.2) ++ x.finished
          s.putRows q.1 (gs.zipIdx.map fun g => t.emitRow op j g.1 g.2)) s
    else s) s

/-- No request, answer or spill of a plan is left at a tile (R66, R196). -/
def State.probesDone (s : State) (p tile : Nat) : Bool :=
  (s.tile tile).probes.isEmpty && (s.pu tile).answers.isEmpty && (s.spilled p tile).isNone

end Sys2Proof.Machine
end

