-- ==== Sys2Proof/Machine/Select.lean ====
section
/-!
DEFINITION. The operators that have no command of their own: SORT, TOPK and MERGE (R262 to R270), PACK and RAGGED (R288 to
R291). They do their work when their stage starts on a chunk.
-/

namespace Sys2Proof.Machine

open Sys2Proof

/-! ## Partial lists in memory -/

/-- A field of an operator's block. -/
def State.opF (s : State) (p op off lo w : Nat) : Nat := cfgField ((s.image p).cfg ((s.image p).op op)) (off, lo, w)

/-- Logical tiles of a stage, ascending (R53). -/
def Image.stageTiles (i : Image) (stage : Nat) : List Nat :=
  (List.range 64).filter fun t => (i.stage stage).tileSet / 2 ^ t % 2 == 1

/-- The 1,088 B record of a list (Table SEL-2). -/
def listRecord (t : Nat) (l : SList) (seg source serial : Nat) : List Byte :=
  let w := l.write
  let words := fun (x : Nat) => leBytes 256 x
  let b := fun (x : Bool) k => if x then 2 ^ k else 0
  let head := leBytes 4 0x4C50484E ++ leBytes 2 1 ++ [byte (t + b l.desc 4), byte l.k, byte l.entries.length,
      byte (b l.tieAtK 0 + b l.dup 1 + b l.orderErr 2 + b l.missing 3)] ++ leBytes 2 l.tieCnt ++ leBytes 2 l.nanCnt ++
    leBytes 2 0 ++ leBytes 8 seg ++ leBytes 8 (source % 2 ^ 16 + serial % 2 ^ 48 * 2 ^ 16) ++ leBytes 28 0
  let body := words w.1 ++ words w.2.1 ++ words w.2.2.1 ++ words w.2.2.2
  head ++ leBytes 4 (crc32c (head ++ body)) ++ body

/-- The list of a record, none when R263 refuses it. -/
def readRecord (t : Nat) (desc : Bool) (k : Nat) (r : List Byte) : Option SList :=
  let l := SList.read (bytesAt r 0x40 256) (bytesAt r 0x140 256) (bytesAt r 0x240 256) (bytesAt r 0x340 256)
  let head := r.take 0x3C
  if r.length = 1088 && bytesAt r 0 4 = 0x4C50484E && bytesAt r 4 2 = 1 && bytesAt r 0x3C 4 = crc32c (head ++ r.drop 0x40) &&
      bytesAt r 6 1 % 16 = t && decide (bytesAt r 6 1 / 16 % 2 = 1) = desc && bytesAt r 7 1 % 128 = k &&
      bytesAt r 8 1 % 128 ≤ k && bytesAt r 8 1 % 128 = l.entries.length
  then some l else none

/-- A list with no entry. -/
def emptyList (k : Nat) (desc : Bool) : SList :=
  { entries := [], k := k, nanCnt := 0, tieCnt := 0, desc := desc, tieAtK := false, dup := false, orderErr := false
    missing := false }

/-- What a chain of TOPKs counts: NaNs dropped, duplicates removed, conflicts. -/
structure TopkRun where
  list : SList
  nans : Nat := 0
  dups : Nat := 0
  clashes : Nat := 0
  deriving DecidableEq, Repr

/-- One more list joins by TOPK (R258). -/
def TopkRun.step (t : Nat) (r : TopkRun) (a : SList) : TopkRun :=
  let x := topk t r.list a
  { list := x.1, nans := r.nans + x.2.1, dups := r.dups + x.2.2.1, clashes := r.clashes + x.2.2.2 }

/-- Device address of an operator's output area (Table SEL-4). -/
def State.selOut (s : State) (p op : Nat) : Nat :=
  let a := (s.slot p).alloc
  let id := s.opF p op 0x18 0 4
  (((if s.opF p op 0x18 4 1 = 1 then a.hbm else a.store).find? fun r => r.id == id).map Region.base).getD 0 +
    s.opF p op 0x20 0 64

/-- Put the rows or bytes of an operator in place of those of the chunk before. -/
def State.putOut (s : State) (o : OpOut) : State :=
  { s with opOuts := o :: s.opOuts.filter fun x => !(x.slot == o.slot && x.op == o.op && x.tile == o.tile) }

/-- Physical tile of a logical one. -/
def State.physTile (s : State) (p t : Nat) : Nat := (s.slot p).alloc.tiles.getD t 0

/-- TOPK (R266): one record for each segment and tile. -/
def State.runTopk (s : State) (p op stage : Nat) (rows : List SelRow) : State :=
  let f := s.opF p op
  let t := f 0 0 4
  let desc := f 0 4 1 == 1
  let k := f 1 0 7
  let segOf := fun (r : SelRow) => if f 0x10 0 64 = 0 then 0 else r.row / f 0x10 0 64
  let ts := (s.image p).stageTiles stage
  let serial := s.fld pgGLB Reg.GLB_SERIAL_SERIAL
  let base := s.selOut p op
  if rows.any fun r => segOf r ≥ f 0xC 0 32 then s.claimOverrun p
  else
    ts.zipIdx.foldl (fun (s : State) q =>
      (List.range (f 0xC 0 32)).foldl (fun (s : State) g =>
        let mine := rows.filter fun r => r.tile == q.1 && segOf r == g
        let run := mine.foldl (fun (x : TopkRun) r => match r.key with
          | some key => x.step t { emptyList k desc with entries := [⟨key, r.idx⟩] }
          | none => x) { list := emptyList k desc }
        (s.writeMem (pgTILE (s.physTile p q.1)) (base + 1088 * (g * ts.length + q.2))
          (listRecord t run.list g q.1 serial) false).sortCounts (s.physTile p q.1) run.nans run.dups run.clashes) s) s

/-- The record that a MERGE operator reads: from device memory, or what the host returned (R267, R269). -/
def State.mergeRecord (s : State) (p op n : Nat) (host : List (Nat × Nat × List Byte)) : Option (List Byte) :=
  let d := parseDesc (slice ((s.image p).cfg ((s.image p).op op)) 0x40 128)
  if 1088 * (n + 1) > d.total * d.memSize then none
  else if d.space = 0 then
    let r := s.readMem (d.base + 1088 * n) 1088
    if r.2 then none else some r.1
  else (host.find? fun x => x.1 == op && x.2.1 == n).map fun x => x.2.2

/-- One work item of MERGE (R267): the merged list; refused records count and are recorded (R263). -/
def State.mergeItem (s : State) (p op tile g m : Nat) (host : List (Nat × Nat × List Byte)) : State × TopkRun :=
  let f := s.opF p op
  let t := f 0 0 4
  let desc := f 0 4 1 == 1
  let k := f 1 0 7
  let n := f 8 0 32
  let fan := f 4 0 16
  let pg := pgTILE tile
  (List.range (min fan (n - m * fan))).foldl (fun (q : State × TopkRun) j =>
    let s := q.1.perf pg 0x133 1
    match (s.mergeRecord p op (g * n + m * fan + j) host).bind (readRecord t desc k) with
    | some l => (s, q.2.step t l)
    | none => ((s.addSat pg Reg.TILE_SORT_STAT_LISTS_BAD 1).error pg Src.tile_SORT_LIST_BAD,
        { q.2 with list := { q.2.list with missing := true } })) (s, { list := emptyList k desc })

/-- MERGE (R267): the lists of each segment, and with FINAL the rows of the final lists. -/
def State.runMerge (s : State) (p op stage : Nat) (host : List (Nat × Nat × List Byte)) : State :=
  let f := s.opF p op
  let l := (f 8 0 32 + f 4 0 16 - 1) / max (f 4 0 16) 1
  let ts := (s.image p).stageTiles stage
  let serial := s.fld pgGLB Reg.GLB_SERIAL_SERIAL
  let base := s.selOut p op
  let rank := fun (x : SList) g => x.entries.zipIdx.map fun e => ({ seg := g, rank := e.2, key := some e.1.key, idx := e.1.idx } : SelOut)
  let r := (List.range (f 0xC 0 32 * l)).foldl (fun (q : State × List (Nat × List SelOut)) w =>
    let lt := ts.getD (w % max ts.length 1) 0
    let tile := q.1.physTile p lt
    let x := q.1.mergeItem p op tile (w / l) (w % l) host
    let s := x.1.writeMem (pgTILE tile) (base + 1088 * w) (listRecord (f 0 0 4) x.2.list (w / l) (w % l) serial) false
    (s.sortCounts tile x.2.nans x.2.dups x.2.clashes, q.2 ++ [(lt, rank x.2.list (w / l))])) (s, [])
  if f 0 5 1 = 1 then
    ts.foldl (fun (s : State) t =>
      s.putOut { slot := p, op := op, tile := t, rows := (r.2.filter fun x => x.1 == t).flatMap Prod.snd }) r.1
  else r.1

/-- SORT (R270): each tile's share in the order of R255, null keys last in ascending index. -/
def State.runSort (s : State) (p op stage : Nat) (rows : List SelRow) : State :=
  let f := s.opF p op
  let t := f 0 0 4
  let desc := f 0 4 1 == 1
  ((s.image p).stageTiles stage).foldl (fun (s : State) tile =>
    let mine := rows.filter fun r => r.tile == tile
    if mine.length > f 0x28 0 32 then s.claimOverrun p
    else
      let es := sortEntries t desc (mine.filterMap fun r => r.key.map fun k => ⟨k, r.idx⟩)
      let ns := sortEntries 7 false ((mine.filter fun r => r.key.isNone).map fun r => ⟨0, r.idx⟩)
      let outs := (es.map fun e => (some e.key, e.idx)) ++ ns.map fun e => ((none : Option Nat), e.idx)
      s.putOut { slot := p, op := op, tile := tile
                 rows := outs.zipIdx.map fun q => { seg := 0, rank := q.2, key := q.1.1, idx := q.1.2 } }) s

/-! ## Sequences -/

/-- A token slot of a row: token, position, segment number. -/
structure TokSlot where
  tok : Nat
  pos : Nat
  seg : Nat
  deriving DecidableEq, Repr

/-- The open row of PACK. -/
structure PackRow where
  slots : List TokSlot := []
  firstStep : Nat := 0
  firstTok : Nat := 0
  segs : Nat := 0
  truncated : Nat := 0
  deriving DecidableEq, Repr

/-- PACK so far: rows closed, the open row. -/
structure Packing where
  rows : List PackRow := []
  row : PackRow := {}
  deriving DecidableEq, Repr

def Packing.close (k : Packing) : Packing := if k.row.slots.isEmpty then k else { rows := k.rows ++ [k.row], row := {} }

/-- Place tokens from the open row on, over as many rows as they need; a row closes when it is full (R289). -/
def Packing.fill (l step : Nat) : Nat → Packing → Nat → List Nat → Packing
  | 0, k, _, _ => k
  | n + 1, k, off, toks =>
    if toks.isEmpty then k
    else
      let room := l - k.row.slots.length
      let now := toks.take room
      let r := k.row
      let r : PackRow := { r with
        firstStep := if r.slots.isEmpty then step else r.firstStep
        firstTok := if r.slots.isEmpty then off else r.firstTok
        segs := r.segs + 1
        slots := r.slots ++ now.zipIdx.map fun t => { tok := t.1, pos := min (off + t.2) (2 ^ 32 - 1), seg := r.segs + 1 } }
      let k := { k with row := r }
      Packing.fill l step n (if r.slots.length = l then k.close else k) (off + now.length) (toks.drop room)

/-- Place one sequence under its POLICY (R289). -/
def Packing.place (policy l : Nat) (k : Packing) (step : Nat) (toks : List Nat) : Packing :=
  let m := toks.length
  let room := l - k.row.slots.length
  let fill := fun (k : Packing) (ts : List Nat) => k.fill l step (ts.length + 1) 0 ts
  if m ≤ room || policy = 1 then fill k toks
  else if m ≤ l || policy = 0 then fill k.close toks
  else
    let k := if l ≤ room then k else k.close
    fill { k with row := { k.row with truncated := k.row.truncated + (m - l) } } (toks.take l)

/-- Bytes of a row (R288): header, tokens, positions, segments, zeros to a multiple of 64. -/
def PackRow.bytes (r : PackRow) (l padId : Nat) : List Byte :=
  let empty := l - r.slots.length
  let words := fun (f : TokSlot → Nat) (p : Nat) => (r.slots.map f ++ List.replicate empty p).flatMap (leBytes 4)
  let b := leBytes 8 r.firstStep ++ leBytes 8 r.firstTok ++ leBytes 4 r.segs ++ leBytes 4 r.slots.length ++
    leBytes 8 r.truncated ++ leBytes 32 0 ++ words TokSlot.tok padId ++ words TokSlot.pos 0 ++ words TokSlot.seg 0
  b ++ List.replicate ((64 - b.length % 64) % 64) 0

/-- Rows of the sequences of a chunk (R288 to R290); the last row closes with the chunk. -/
def packRows (policy l bos eos : Nat) (seqs : List (Nat × List Nat)) : List PackRow :=
  let ends := fun (x : Nat) => if x = 0xFFFFFFFF then [] else [x]
  ((seqs.foldl (fun (k : Packing) q => k.place policy l q.1 (ends bos ++ q.2 ++ ends eos)) {}).close).rows

/-- PACK: a tile's rows go to the operator's ring in its tile memory. -/
def State.runPack (s : State) (p op stage : Nat) (seqs : List SeqIn) : State :=
  let f := s.opF p op
  let l := f 4 0 32
  ((s.image p).stageTiles stage).foldl (fun (s : State) t =>
    let mine := (seqs.filter fun q => q.tile == t).map fun q => (q.step.toNat, q.tokens.map BitVec.toNat)
    let bs := (packRows (f 0 0 2) l (f 8 0 32) (f 0xC 0 32) mine).flatMap fun r => r.bytes l (f 0x10 0 32)
    let ring : Desc := { tmBase := f 0x14 0 23, tmPages := f 0x18 0 12 }
    ((List.range ((bs.length + ring.ringBytes - 1) / max ring.ringBytes 1)).foldl (fun (s : State) k =>
      s.ringWrite (s.physTile p t) ring 0 (slice bs (k * ring.ringBytes) ring.ringBytes)) s)) s

/-- The slab that RAGGED writes for the sequences that end in an input slab (R291). -/
def raggedSlab (seqs : List (List Nat)) : List Byte :=
  let offs := seqs.foldl (fun (a : List Nat) q => a ++ [a.getLastD 0 + q.length]) [0]
  let pad := fun (b : List Byte) => b ++ List.replicate ((64 - b.length % 64) % 64) 0
  pad (leBytes 8 seqs.length) ++ pad (offs.flatMap (leBytes 8)) ++ pad (seqs.flatten.flatMap (leBytes 4))

def State.runRagged (s : State) (p op stage : Nat) (seqs : List SeqIn) : State :=
  ((s.image p).stageTiles stage).foldl (fun (s : State) t =>
    let mine := seqs.filter fun q => q.tile == t
    let n := mine.foldl (fun m q => max m (q.slab + 1)) 0
    s.putOut { slot := p, op := op, tile := t
               bytes := (List.range n).flatMap fun b => raggedSlab
                 ((mine.filter fun q => q.slab == b).map fun q => q.tokens.map BitVec.toNat) }) s

/-- The operators of a stage that do their work as it starts on a chunk. -/
def State.runOps (s : State) (p stage : Nat) (e : StageEnv) : State :=
  let img := s.image p
  ((List.range img.nOps).filter fun k => (img.op k).stage == stage).foldl (fun (s : State) k =>
    let o := img.op k
    let rows := e.rows.filter fun r => r.op == k
    let seqs := e.seqs.filter fun q => q.op == k
    if o.cls = 6 && o.code = 1 then s.runSort p k stage rows
    else if o.cls = 6 && o.code = 2 then s.runTopk p k stage rows
    else if o.cls = 6 && o.code = 3 then s.runMerge p k stage e.lists
    else if o.cls = 7 && o.code = 3 then s.runPack p k stage seqs
    else if o.cls = 7 && o.code = 4 then s.runRagged p k stage seqs
    else s) s

end Sys2Proof.Machine
end

