-- ==== Sys2Proof/Machine/Sample.lean ====
section
/-!
DEFINITION. Sample order (10): the shuffle (R278, R279), the rows that SAMPLE draws for a chunk (R273 to R277,
R281 to R283), augmentation records (R284 to R286).
-/

namespace Sys2Proof.Machine

open Sys2Proof

/-! ## The shuffle (R278) -/

/-- round_key(). -/
def roundKey (seed epoch r : Nat) : Nat := leNat ((sha256 (leBytes 8 seed ++ leBytes 4 epoch ++ [byte r])).take 8)

/-- half_bits(): the first argument bounds the rounds, the second is b / 2. -/
def halfBitsFrom (n : Nat) : Nat → Nat → Nat
  | 0, h => h
  | k + 1, h => if 2 ^ (2 * h) < n then halfBitsFrom n k (h + 1) else h
def halfBits (n : Nat) : Nat := halfBitsFrom n 32 1

/-- feistel(), for a list of round keys. -/
def feistel (h : Nat) (keys : List Nat) (x : Nat) : Nat :=
  let m := 2 ^ h
  let e := keys.foldl (fun (q : Nat × Nat) k => (q.2, q.1 ^^^ (nhMix64 q.2 k % m))) (x / m, x % m)
  e.1 * m + e.2

/-- The cycle-walk: the value below n, and the evaluations made. The first argument bounds the rounds. -/
def walkFrom (n h : Nat) (keys : List Nat) : Nat → Nat → Nat → Nat × Nat
  | 0, y, c => (y, c)
  | k + 1, y, c => if n ≤ y then walkFrom n h keys k (feistel h keys y) (c + 1) else (y, c)

/-- shuffle_index() with its keys given. -/
def shuffleWith (n : Nat) (keys : List Nat) (p : Nat) : Nat × Nat :=
  let h := halfBits n
  walkFrom n h keys (2 ^ (2 * h)) (feistel h keys p) 1
def roundKeys (seed epoch : Nat) : List Nat := (List.range 6).map (roundKey seed epoch)
def shuffleIndex (p n seed epoch : Nat) : Nat := (shuffleWith n (roundKeys seed epoch) p).1

/-! ## SAMPLE -/

/-- A draw so far: rows, evaluations, longest walk, bad list entry, failed list read. -/
structure Drawing where
  rows : List SampleRow := []
  evals : Nat := 0
  longest : Nat := 0
  bad : Bool := false
  failed : Bool := false
  deriving DecidableEq, Repr

/-- Entry p of the list of an epoch (R282): from device memory, or what the host returned, none for a failed read. -/
def State.listEntry (s : State) (c : List Byte) (addr n epoch p : Nat) (host : List Word) (served : Nat) : Option Nat :=
  if cfgField c (0xA, 0, 2) = 0 then
    let r := s.readMem (addr + epoch % 2 * (8 * n) + 8 * p) 8
    if r.2 then none else some (leNat r.1)
  else (host[served]?).map BitVec.toNat

/-- The step g of chunk k (R273, R281, R282). -/
def State.drawStep (s : State) (p k n : Nat) (c : List Byte) (env : StageEnv) (x : Drawing) (g : Nat) : Drawing :=
  let ep := s.epochOf p k c g
  let w := bytesAt c 4 2
  let r := ep.2 % max w 1
  if x.bad || x.failed || r < bytesAt c 6 2 || bytesAt c 6 2 + bytesAt c 8 2 ≤ r then x
  else
    let row := fun (i : Nat) => ({ step := g, epoch := ep.1, pos := ep.2, index := i, consumer := r } : SampleRow)
    if bytesAt c 0 1 % 2 = 0 then { x with rows := x.rows ++ [row ep.2] }
    else if s.listed c then
      if env.listBad && cfgField c (0xA, 0, 2) != 0 then { x with failed := true }
      else match s.listEntry c (s.param p k (bytesAt c 3 1)) n ep.1 ep.2 env.list x.rows.length with
        | none => { x with failed := true }
        | some v => if n ≤ v then { x with bad := true } else { x with rows := x.rows ++ [row v] }
    else
      let y := shuffleWith n (roundKeys (s.param p k (bytesAt c 1 1)) ep.1) ep.2
      { x with rows := x.rows ++ [row y.1], evals := x.evals + y.2, longest := max x.longest y.2 }

/-- SAMPLE draws the rows of a chunk (R274, R276): one for each step of a consumer that the device serves. -/
def State.drawSamples (s : State) (p stage k : Nat) (env : StageEnv) : State :=
  let img := s.image p
  match img.findOp 7 1 with
  | none => s
  | some (_, o) =>
    if o.stage != stage then s
    else
      let c := img.cfg o
      let n := img.dataset
      let d := (List.range img.chunkSize).foldl (fun x i => s.drawStep p k n c env x (m64 (k * img.chunkSize + i))) {}
      if d.bad then (s.failPlan p 10).error pgSHUF Src.shuf_LIST_BAD
      else if d.failed then
        let t := (((s.image p).stageTiles stage).head?.map (s.physTile p)).getD 0
        let (r, s) := s.fresh
        (s.failPlan p (r % 256)).error (pgTILE t) Src.tile_STRM_XLATE
      else
        let s := { s with draws := s.draws.filter (fun (q : Nat × Nat × List SampleRow) => !(q.1 == p && q.2.1 == k)) ++
          [(p, k, d.rows)] }
        let next := m64 ((k + 1) * img.chunkSize)
        let s := (s.setFld pgSHUF (Reg.SHUF_P_STEP_STEP p) next).setFld pgSHUF (Reg.SHUF_P_EPOCH_EPOCH p)
          (s.epochOf p k c next).1
        let s := if s.fld pgSHUF Reg.SHUF_STAT_WALK_MAX < d.longest
          then s.setFld pgSHUF Reg.SHUF_STAT_WALK_MAX (min d.longest (2 ^ 32 - 1)) else s
        (s.perf pgSHUF 0x100 d.evals).perf pgSHUF 0x101 d.rows.length

/-! ## Augmentation records -/

/-- The block of an AUGMENT operator whose stage is at work, none for any other operator. -/
def State.augment (s : State) (p op : Nat) : Option (List Byte) :=
  let o := (s.image p).op op
  if op < (s.image p).nOps && o.cls == 7 && o.code == 2 && s.active p &&
      (s.slot p).runs.any fun r => r.stage == o.stage && r.st == .running
  then some ((s.image p).cfg o) else none

/-- REC_BYTES. -/
def recBytes (c : List Byte) : Nat := 16 * cfgField c (1, 0, 5)
/-- A record is waited for. -/
def State.augWait (s : State) (p op g : Nat) : Option AugWait :=
  s.augs.find? fun a => a.slot == p && a.op == op && a.step == g
def State.dropAug (s : State) (p op g : Nat) : State :=
  { s with augs := s.augs.filter fun a => !(a.slot == p && a.op == op && a.step == g) }
/-- The parameters of a row are delivered, concealed or not (R285, R286). -/
def State.giveAug (s : State) (p op g : Nat) (bs : List Byte) (concealed : Bool) : State :=
  let s := s.dropAug p op g
  { s with augRows := (p, op, g, bs, concealed) :: s.augRows.filter (fun (a : Nat × Nat × Nat × List Byte × Bool) =>
      !(a.1 == p && a.2.1 == op && a.2.2.1 == g)) }

/-- The record is missing (R286): the plan fails, or the row takes zero bytes. -/
def State.augMissing (s : State) (p op g : Nat) (c : List Byte) : State :=
  if cfgField c (0, 2, 1) = 0 then (s.dropAug p op g).failPlan p 10
  else ((s.giveAug p op g (List.replicate (recBytes c - 8) 0) true).addSat pgSHUF Reg.SHUF_CNT_AUG_MISSING 1).error
    pgSHUF Src.shuf_AUG_MISSING

/-- AUG_RECORD_READ: the record of a row's step as it was read; none for a read that faults or returns poison
(R284 to R286). -/
def execAugRecordRead (slot : Fin 16) (op : Fin 256) (row : Word) (record : Option (List Byte)) (s : State) : Out :=
  .next <|
  match s.augment slot op with
  | none => s
  | some c =>
    let g := row.toNat
    let n := recBytes c
    let got := if cfgField c (0, 0, 2) = 0 then
        let r := s.readMem (bytesAt c 8 8 + g % 2 ^ cfgField c (4, 0, 5) * n) n
        if r.2 then none else some r.1
      else record.bind fun b => if b.length = n then some b else none
    if s.augRows.any (fun (a : Nat × Nat × Nat × List Byte × Bool) => a.1 == slot.val && a.2.1 == op.val && a.2.2.1 == g)
    then s
    else match s.augWait slot op g with
    | some ⟨_, _, _, _, _, false⟩ => s
    | w =>
      match got with
      | none => ((s.addSat pgSHUF Reg.SHUF_CNT_AUG_READ_ERR 1).error pgSHUF Src.shuf_AUG_READ_ERR).augMissing slot op g c
      | some b =>
        if leNat (b.take 8) = g then s.giveAug slot op g (b.drop 8) false
        else
          let a : AugWait := { slot := slot, op := op, step := g, since := (w.map AugWait.since).getD s.beat, last := s.beat }
          let s := s.dropAug slot op g
          { s with augs := s.augs ++ [a] }

/-- AUG_REREAD: 1 µs after a read that did not match, the record is read again. -/
def execAugReread (slot : Fin 16) (op : Fin 256) (row : Word) (s : State) : Out := .next <|
  match s.augment slot op, s.augWait slot op row.toNat with
  | some _, some a =>
    if a.again then s
    else s.atBeat (a.last + 700) fun s =>
      let s := s.dropAug slot op row.toNat
      { s with augs := s.augs ++ [{ a with again := true }] }.perf pgSHUF 0x103 1
  | _, _ => s

/-- AUG_WAIT_EXPIRE: WAIT_MS has passed since the first read. -/
def execAugWaitExpire (slot : Fin 16) (op : Fin 256) (row : Word) (s : State) : Out := .next <|
  match s.augment slot op, s.augWait slot op row.toNat with
  | some c, some a => s.atBeat (a.since + bytesAt c 0x14 4 * 700000) fun s => s.augMissing slot op row.toNat c
  | _, _ => s

end Sys2Proof.Machine
end

