-- ==== Sys2Proof/Machine/Gong.lean ====
section
/-!
DEFINITION. Cues (R344, R345), stages and their gongs (R65 to R68), cadence (R340), the beat and wall time (R342,
R346, R347), the windows of the bandwidth split (R99).
-/

namespace Sys2Proof.Machine

open Sys2Proof

/-! ## Cues -/

/-- Target of a pending cue slot. -/
def State.cue (s : State) (c : Nat) : Option Nat := kget (fun _ => none) s.cues c

/-- Post a cue slot for a beat (R344): a short lead is moved and recorded; gated quads restart their clocks (R345). -/
def State.postCue (s : State) (c target : Nat) : State :=
  let late := target < s.beat + 128
  let t := if late then s.beat + 128 else target
  let s := { s with cues := kset (fun _ => none) s.cues c (some t) }
  let s := (s.setBit pgTIME (Reg.TIME_CUE_CTL_PENDING c) true).setBit pgTIME (Reg.TIME_CUE_CTL_LATE c) late
  let s := s.setFld pgCLK Reg.CLK_GATE_GATED 0
  if late then s.error pgTIME Src.time_CUE_LATE else s

/-- The CADENCE operator of a plan: cue slot, P_START, PERIOD (Table FLOW-2). -/
def Image.cadence (i : Image) : Option (Nat × Nat × Nat) :=
  (i.findOp 9 3).map fun o => let c := i.cfg o.2; (cfgField c (0, 0, 4), bytesAt c 1 1, bytesAt c 4 4)

/-- A resident plan's CADENCE operator uses the slot. -/
def State.cadenceSlot (s : State) (c : Nat) : Bool :=
  (List.range 16).any fun p => s.slotState p != 0 && match (s.image p).cadence with
    | some q => q.1 == c
    | none => false

/-- TIME_CUE_POST: the host posts a slot (R344). -/
def execTimeCuePost (cue : Fin 32) (s : State) : Out := .next <|
  if 16 ≤ cue.val || s.cadenceSlot cue || (s.cue cue).isSome then s.reject pgTIME (Reg.TIME_CUE_CTL_POST cue).off 4
  else s.postCue cue (s.fld pgTIME (Reg.TIME_CUE_BEAT_TARGET cue))

/-! ## Cadence (R340) -/

/-- The first grid beat at or after a beat. -/
def gridFrom (s0 period b : Nat) : Nat := if b ≤ s0 then s0 else s0 + (b - s0 + period - 1) / max period 1 * period

/-- Post the next cadence cue of a running plan, while chunks are left to cue and its slot is free. -/
def State.postCadence (s : State) (p : Nat) : State :=
  match (s.image p).cadence with
  | none => s
  | some (c, _, period) =>
    let x := s.slot p
    let n := (s.image p).chunkCount
    if !s.running p || (s.cue c).isSome || (n != 0 && n ≤ x.cadChunk) then s
    else
      let t := gridFrom x.s0 period (s.beat + 256)
      (s.setFld pgTIME (Reg.TIME_P_CAD_NEXT p) t).postCue c t

/-- The cadence cue of a plan fires: the next chunk has its cadence beat, and its events are complete (R332); a beat
that passes while the slot is not RUNNING, or from before a new start, is not used. -/
def State.fireCadence (s : State) (p target : Nat) : State :=
  let x := s.slot p
  let use := s.running p && s.fld pgTIME (Reg.TIME_P_CAD_NEXT p) == target
  let s := if !use then s
    else
      let k := x.cadChunk
      let s := s.setSlot p { x with cadChunk := k + 1, cued := kset (fun _ => 0) x.cued k target
                                    chunks := x.chunks.map fun c => if c.k = k then { c with cadence := target } else c }
      let s := s.addWrap pgTIME (Reg.TIME_P_RT_CHUNKS p) 1
      if (s.image p).events.isSome && (s.slot p).evChunk = k then s.closeChunk p else s
  s.postCadence p

/-! ## Starting stages -/

/-- A stage builds a table that lasts as long as the plan (R201). -/
def State.buildsPlanTable (s : State) (p stage : Nat) : Bool :=
  (List.range 16).any fun h => match s.jtab p h with
    | some t => t.op.stage == stage && t.f 1 6 1 == 1
    | none => false

/-- The gong of a stage has completed for a chunk, or the stage is skipped for it (R201). -/
def State.stageHas (s : State) (p stage k : Nat) : Bool :=
  k < s.stageDoneOf p stage || (0 < k && s.buildsPlanTable p stage)

/-- Stages of a mask. -/
def stagesIn (m n : Nat) : List Nat := (List.range n).filter fun t => m / 2 ^ t % 2 = 1
/-- Stages that consume the output of a stage, and exit stages (R53). -/
def Image.consumers (i : Image) (stage : Nat) : List Nat :=
  (List.range i.nStages).filter fun t => (i.stage t).preds / 2 ^ stage % 2 = 1
def Image.exits (i : Image) : List Nat := (List.range i.nStages).filter fun t => (i.consumers t).isEmpty

/-- A chunk has started. -/
def State.chunk (s : State) (p k : Nat) : Option ChunkRec := (s.slot p).chunks.find? fun c => c.k == k

/-- Physical tiles of a stage. -/
def State.tilesOf (s : State) (p stage : Nat) : List Nat := ((s.image p).stageTiles stage).map (s.physTile p)

/-- The entry stages of chunk k may start (R65, R340): a chunk in progress goes on while the slot is STOPPING; in a
real-time plan the chunk's cadence beat has come. -/
def State.entryOk (s : State) (p k : Nat) : Bool :=
  let n := (s.image p).chunkCount
  let c := s.chunk p k
  (n = 0 || k < n) && (s.running p || c.isSome) &&
    (!(s.image p).realtime || (match c with
      | some c => c.cadence != 0
      | none => false) || kget (fun _ => 0) (s.slot p).cued k != 0)

/-- The chunk that a stage can start on now (R65, R201), none while a condition does not hold. While a stage of a lost
table runs again, no other stage starts (log 142). -/
def State.canStart (s : State) (p stage : Nat) : Option Nat :=
  let img := s.image p
  let x := s.slot p
  let r := img.stage stage
  let again := x.rebuild.contains stage
  let k := if again then 0 else s.stageDoneOf p stage
  let busy := x.runs.any fun r => r.stage == stage
  let free := (s.tilesOf p stage).all fun t => (s.runOf t).isNone && s.powered (pgTILE t) && !s.fenced (pgTILE t)
  let loads := s.car.tables.any fun q => match q.2 with
    | some t => t.slot == p && match t.job with
      | some j => j.ring.isNone
      | none => false
    | none => false
  let ready := again || ((x.rebuild.isEmpty && !(0 < k && s.buildsPlanTable p stage)) &&
    (stagesIn r.preds img.nStages).all (fun t => s.stageHas p t k) &&
    (img.consumers stage).all (fun t => k < r.bufDepth || s.stageHas p t (k - r.bufDepth)) &&
    (if r.preds = 0 then s.entryOk p k else (s.chunk p k).isSome))
  if stage < img.nStages && s.active p && !busy && free && !loads && ready then some k else none

/-- Initial registers of a thread (Table TILE-1). -/
def startThread (img : Image) (stage p k lt th : Nat) : Thread :=
  let r := img.stage stage
  let put := fun (m : KMap Word) (q : Nat × Nat) => kset (fun _ => 0) m q.1 (word q.2)
  { s := [(1, th), (2, lt), (3, k), (4, r.threads), (5, (img.stageTiles stage).length), (6, p)].foldl put []
    m := (List.range 7).map fun i => (i + 1, BitVec.allOnes 512)
    pc := r.entry / 4, run := .run }

/-- Descriptors of a stage's STREAM operators. -/
def Image.streamDescs (i : Image) (stage : Nat) : List Desc :=
  (i.ops.filter fun o => o.cls == 1 && o.stage == stage).map fun o => parseDesc (i.cfg o)

/-- A tile starts a stage: its threads at ENTRY, its operators' descriptors in its engine (R145, log 70). -/
def State.startTile (s : State) (p stage k lt : Nat) : State :=
  let img := s.image p
  let t := s.physTile p lt
  let ths := (List.range (img.stage stage).threads).map fun th => (th, startThread img stage p k lt th)
  let s := s.setTile t { s.tile t with running := some (p, stage, k), threads := ths, opDescs := img.streamDescs stage }
  let g := s.fld pgCLK Reg.CLK_GATE_GATED
  let s := if bitsOf g (t / 4) (t / 4) = 1 then s.setFld pgCLK Reg.CLK_GATE_GATED (g - 2 ^ (t / 4)) else s
  s.strmSettle t

/-- The chunk's record at the start of its first entry stage: parameter values, cadence beat (R69, R340). -/
def State.beginChunk (s : State) (p k : Nat) : State :=
  let x := s.slot p
  let cad := kget (fun _ => 0) x.cued k
  let chunks := match s.chunk p k with
    | some _ => x.chunks.map fun (c : ChunkRec) => if c.k = k && c.cadence = 0 then { c with cadence := cad } else c
    | none => x.chunks ++ [{ k := k, params := x.params, cadence := cad }]
  let first := (x.runs.all fun r => r.chunk != k) && (List.range (s.image p).nStages).all fun t =>
    s.stageDoneOf p t ≤ k
  let s := s.setSlot p { x with chunks := chunks, next := max x.next (k + 1), cued := kdel x.cued k }
  if (s.image p).realtime && first && cad < s.beat then
    (s.addSat pgTIME (Reg.TIME_P_RT_LATE_STARTS p) 1).error pgTIME Src.time_LATE_START
  else s

/-- STAGE_START (R65): the stage starts on its next chunk once its conditions hold. -/
def execStageStart (slot : Fin 16) (stage : Fin 64) (env : StageEnv) (s : State) : Out := .next <|
  match s.canStart slot stage with
  | none => s
  | some k =>
    let img := s.image slot
    let again := match s.chunk slot k with
      | some c => c.regen
      | none => false
    let s := if (img.stage stage).preds = 0 then s.beginChunk slot k else s
    let s := s.drawSamples slot stage k env
    if !s.active slot then s
    else
      let x := s.slot slot
      let s := s.setSlot slot { x with runs := x.runs ++ [{ stage := stage, chunk := k, st := .running, began := s.beat }] }
      let mine := fun (op : Nat) => (img.op op).stage == stage.val
      let s := { s with
        augRows := s.augRows.filter fun (a : Nat × Nat × Nat × List Byte × Bool) => !(a.1 == slot.val && mine a.2.1)
        cmps := s.cmps.filter fun (c : CmpStream) => !(c.slot == slot.val && mine c.op) }
      let s := ((s.clearTables slot stage).emitGroups slot stage).bindDecs slot stage k again
      let s := s.runOps slot stage env
      (img.stageTiles stage).foldl (fun (s : State) lt => s.startTile slot stage k lt) s

/-! ## Arriving -/

/-- A stage's run on a chunk. -/
def State.run (s : State) (p stage k : Nat) : Option StageRun :=
  (s.slot p).runs.find? fun r => r.stage == stage && r.chunk == k
def State.setRun (s : State) (p : Nat) (r : StageRun) : State :=
  let x := s.slot p
  s.setSlot p { x with runs := x.runs.map fun y => if y.stage = r.stage && y.chunk = r.chunk then r else y }

/-- After the last arrival, and with every diverted item returned, the release is posted on slot 16 + p, or joins the
pending cue (R66, R182, R344). -/
def State.tryRelease (s : State) (p stage k : Nat) : State :=
  match s.run p stage k with
  | none => s
  | some r =>
    let all := r.st == .running && (s.tilesOf p stage).all r.tiles.contains && (s.stageStws p stage).all r.stws.contains
    if !all || !s.active p || !(s.divertsOf p stage k).isEmpty then s
    else match s.cue (16 + p) with
      | some t => s.setRun p { r with st := .releasing (if s.beat + 64 ≤ t then t else 0) }
      | none => (s.setRun p { r with st := .releasing (s.beat + 128) }).postCue (16 + p) (s.beat + 128)

/-- Everything the threads and operators of a stage do on a tile is done, and every write is acknowledged (R66, R95). -/
def State.tileIdle (s : State) (p stage tile : Nat) : Bool :=
  let t := s.tile tile
  (List.range ((s.image p).stage stage).threads).all (fun th => (t.thread th).run == .ended) && t.opDescs.isEmpty &&
    (List.range 8).all (fun k => match t.slot k with
      | some x => !x.desc.write || x.complete
      | none => true) && s.decsDone p stage

/-- TILE_ARRIVE (R66, R205, R210). -/
def execTileArrive (tile : Fin 64) (s : State) : Out := .next <|
  match s.runOf tile with
  | none => s
  | some (p, stage, k) =>
    match s.run p stage k with
    | none => s
    | some r =>
      if r.tiles.contains tile.val || !s.active p || !s.tileIdle p stage tile then s
      else
        let s := s.flushPartials tile p
        if !s.probesDone p tile then s
        else
          let r := (s.run p stage k).getD r
          (s.setRun p { r with tiles := r.tiles ++ [tile.val], firstArr := some (r.firstArr.getD s.beat) }).tryRelease p
            stage k

/-- STEWARD_ARRIVE: Henair signals that a core has finished its stage work (R66); its event ends (log 112). -/
def execStewardArrive (slot stw : Fin 16) (s : State) : Out := .next <|
  match (s.slot slot).runs.find? fun (r : StageRun) =>
      r.st == .running && (s.stageStws slot r.stage).contains stw.val && !r.stws.contains stw.val with
  | none => s
  | some r =>
    if !s.active slot then s
    else
      let s := match s.fsch.pool.find? fun (e : PoolEnt) => e.slot == slot.val && e.st == .inCore stw.val with
        | some e => s.endService slot e.arr (64 + stw) .done
        | none => s
      (s.setRun slot { r with stws := r.stws ++ [stw.val], firstArr := some (r.firstArr.getD s.beat) }).tryRelease slot
        r.stage r.chunk

/-- ITEM_RETURN: Henair has the item of a position; its flow is released (R182, R320). -/
def execItemReturn (tile : Fin 64) (th : Fin 8) (pos : Nat) (s : State) : Out := .next <|
  let t := s.tile tile
  match t.taken.find? fun (d : Divert) => d.thread == th.val && d.pos == pos with
  | none => s
  | some d =>
    let s := s.setTile tile { t with taken := t.taken.erase d }
    let s := match d.event with
      | some arr => s.endService d.slot arr tile .done
      | none => s
    s.tryRelease d.slot d.stage d.chunk

/-- GONG_TIMEOUT (R68): a limit passes; the missing participants are recorded. -/
def execGongTimeout (slot : Fin 16) (stage : Fin 64) (s : State) : Out := .next <|
  match (s.slot slot).runs.find? fun (r : StageRun) => r.stage == stage.val && !r.timedOut with
  | none => s
  | some r =>
    let a := r.began + 2 ^ s.fld pgPLAN Reg.PLAN_GONG_TMO_START_LOG2
    let due := match r.firstArr with
      | some b => min a (b + 2 ^ s.fld pgPLAN Reg.PLAN_GONG_TMO_LOG2)
      | none => a
    if !s.active slot then s
    else s.atBeat due fun s =>
      let bits := fun (l : List Nat) => l.foldl (fun m n => m + 2 ^ n) 0
      let ts := bits ((s.tilesOf slot stage).filter fun t => !r.tiles.contains t)
      let cs := bits ((s.stageStws slot stage).filter fun n => !r.stws.contains n)
      let s := (s.setFld pgPLAN Reg.PLAN_GONG_MISS_TILES ts).setFld pgPLAN Reg.PLAN_GONG_WHERE_STW cs
      let s := (s.setFld pgPLAN Reg.PLAN_GONG_WHERE_SLOT slot).setFld pgPLAN Reg.PLAN_GONG_WHERE_STAGE stage
      (s.setRun slot { r with timedOut := true }).recordError pgPLAN Src.plan_GONG_TIMEOUT false (ts + cs * 2 ^ 64)

/-! ## Gongs -/

/-- A STOPPING slot with no chunk in progress goes to READY, and its PLAN_STOP completes (R63, R64). -/
def State.settleStop (s : State) (p : Nat) : State :=
  let x := s.slot p
  if s.slotState p = 4 && x.runs.isEmpty && x.chunks.all fun c => c.done then
    x.stopWaits.foldl (fun (s : State) w => s.complete w.1 0 p 0 0)
      ((s.setSlotState p 2).setSlot p { x with stopWaits := [] })
  else s

/-- A chunk whose exit stages have all completed counts, once; the last one ends the run (R62, R64, R71). -/
def State.settleChunk (s : State) (p k : Nat) : State :=
  let img := s.image p
  if !(img.exits.all fun t => s.stageHas p t k) then s
  else
    let x := s.slot p
    let s := s.setSlot p { x with chunks := x.chunks.map (fun c => if c.k = k then { c with done := true, regen := false } else c)
                                  counted := max x.counted (k + 1) }
    let s := if x.counted ≤ k then s.addWrap pgPLAN (Reg.PLAN_P_CHUNKS_DONE p) 1 else s
    let y := s.slot p
    if img.chunkCount != 0 && img.chunkCount ≤ y.counted && img.chunkCount ≤ y.next && y.chunks.all fun c => c.done then
      y.stopWaits.foldl (fun (s : State) w => s.complete w.1 0 p 0 0)
        ((s.setSlotState p 5).setSlot p { y with stopWaits := [] })
    else s.settleStop p

/-- Pages that take part in the gong of a stage (R38, log 133). -/
def State.gongPages (s : State) (p stage : Nat) : List Nat :=
  let img := s.image p
  let ts := s.tilesOf p stage
  let quads := (ts.map (· / 4)).eraseDups
  let has := fun (c : Nat) => img.ops.any fun o => o.cls == c && o.stage == stage
  let decs := ((img.decOps.filter fun q => (img.op q.1).stage == stage).map fun q => s.decFor p q.1).eraseDups
  let bells := if has 5 then pgCAR :: (s.slot p).alloc.bells.map pgBELL else []
  planBlocks ++ ts.map pgTILE ++ quads.map pgQUAD ++ quads.map pgCMP ++ decs.map pgDEC ++ bells ++
    (s.stageStws p stage).map pgSTW

/-- A gong completes (R66): its tiles are free, staged values apply, chunk and slot move on. -/
def State.gongDone (s : State) (p : Nat) (r : StageRun) : State :=
  let s := (s.tilesOf p r.stage).foldl (fun (s : State) t =>
    let s := s.abandonTile t
    s.setTile t { s.tile t with running := none, threads := [], strm := [], opDescs := [] }) s
  let x := s.slot p
  let s := s.setSlot p { x with
    runs := x.runs.filter fun y => !(y.stage == r.stage && y.chunk == r.chunk)
    rebuild := x.rebuild.filter (· != r.stage)
    stageDone := kset (fun _ => 0) x.stageDone r.stage (max (s.stageDoneOf p r.stage) (r.chunk + 1)) }
  let s := (s.gongPages p r.stage).foldl (fun (s : State) pg => if s.fenced pg || !s.powered pg then s else s.gongAt pg) s
  ((s.ownAtGong p r.stage).settleChunk p r.chunk).afterCommit p

/-- Parameters staged for a cue apply, and their commands complete (R69). -/
def State.applyParams (s : State) (p : Nat) : State :=
  let x := s.slot p
  let new := x.params.zipIdx.map fun q => (kget (fun _ => none) x.staged q.2).getD q.1
  let s := s.setSlot p { x with params := new, staged := [] }
  (s.addWrap pgPLAN (Reg.PLAN_P_PGEN_GEN p) 1).setFld pgPLAN (Reg.PLAN_P_PGEN_APPLY_BEAT p) s.beat
def State.paramsAtCue (s : State) (cue : Nat) : State :=
  (List.range 16).foldl (fun (s : State) p =>
    let x := s.slot p
    let now := x.setWaits.filter fun w => w.cue == cue
    if now.isEmpty then s
    else
      let s := (s.setSlot p { x with setWaits := x.setWaits.filter fun w => w.cue != cue }).applyParams p
      now.foldl (fun (s : State) w => s.complete w.ring 0 p 0 (s.fld pgPLAN (Reg.PLAN_P_PGEN_GEN p))) s) s

/-- Gongs released on slot 16 + p; those that could not join the pending cue are released by a new one (R344). -/
def State.gongsAtCue (s : State) (p target : Nat) : State :=
  let rs := (s.slot p).runs.filter fun r => r.st == .releasing target
  let s := if s.active p then rs.foldl (fun (s : State) r => s.gongDone p r) s else s
  let x := s.slot p
  if s.active p && x.runs.any fun r => r.st == .releasing 0 then
    (s.setSlot p { x with runs := x.runs.map fun r =>
      if r.st = .releasing 0 then { r with st := .releasing (s.beat + 128) } else r }).postCue (16 + p) (s.beat + 128)
  else s

/-- CUE_FIRE (R345): the slot reaches its target beat. `lost` lists pages that received the cue with bad parity. -/
def execCueFire (cue : Fin 32) (lost : List (Fin 512)) (s : State) : Out := .next <|
  match s.cue cue with
  | none => s
  | some t => s.atBeat t fun s =>
    let s := { s with cues := kset (fun _ => none) s.cues cue none }
    let s := (s.setBit pgTIME (Reg.TIME_CUE_CTL_PENDING cue) false).addWrap pgTIME (Reg.TIME_CUE_CTL_FIRED cue) 1
    let s := lost.foldl (fun (s : State) pg => s.recordError pgTIME Src.time_CUE_NET_ERR false pg) s
    let s := (List.range 512).foldl (fun (s : State) pg =>
      if s.fenced pg || lost.any fun l => l.val == pg then s else s.cueAt pg cue) s
    let s := ((s.paramsAtCue cue).ownAtCue cue).swapAtCue cue
    let s := if 16 ≤ cue.val then s.gongsAtCue (cue.val - 16) t else s
    (List.range 16).foldl (fun (s : State) p =>
      if s.slotState p != 0 && ((s.image p).cadence.map Prod.fst) = some cue.val then s.fireCadence p t else s) s

/-! ## The beat and wall time -/

/-- BEAT_CHECK: the replica of a unit differs at a check beat (R342). -/
def execBeatCheck (page : Fin 512) (s : State) : Out := .next <|
  if s.beatHold || !s.beatOn || !s.powered page then s
  else
    let s := (s.addSat pgTIME Reg.TIME_REPL_MISMATCHES 1).setFld pgTIME Reg.TIME_REPL_LAST_PAGE page
    s.recordError pgTIME Src.time_BEAT_MISMATCH false page

/-- wall_ns() (R346), exact for |b − REF_BEAT| < 2^59; beyond that its value is free (log 140). -/
def State.wallNs (s : State) (b : Nat) : Nat × State :=
  let d := toS 64 ((b + 2 ^ 64 - s.fld pgTIME Reg.TIME_REF_BEAT_BEAT) % 2 ^ 64)
  let ppb := toS 32 (s.fld pgTIME Reg.TIME_RATE_PPB)
  let a := (d * 10).tdiv 7
  let c := a.tdiv 1000000000 * ppb + (a.tmod 1000000000 * ppb).tdiv 1000000000
  if d.natAbs < 2 ^ 59 then (ofI 64 (toS 64 (s.fld pgTIME Reg.TIME_REF_WALL_NS) + a + c), s)
  else let (k, s) := s.fresh; (k % 2 ^ 64, s)

/-- TIME_SNAP_TAKE (R346). -/
def execTimeSnapTake (s : State) : Out := .next <|
  let (w, s) := s.wallNs s.beat
  (s.setFld pgTIME Reg.TIME_SNAP_BEAT_BEAT s.beat).setFld pgTIME Reg.TIME_SNAP_WALL_NS w

/-- The multiple of m nearest to w; of two equally near, either (log 143). -/
def nearest (w m : Int) (up : Bool) : Int :=
  let q := w.fdiv m
  let r := w - q * m
  if 2 * r < m || (2 * r = m && !up) then q * m else (q + 1) * m

/-- n ÷ d to the nearest integer, halves away from zero (log 144). -/
def roundDiv (n d : Int) : Int := if 0 ≤ n then (2 * n + d).fdiv (2 * d) else - ((2 * (-n) + d).fdiv (2 * d))

/-- An edge that disciplines wall time (R347). -/
def State.steer (s : State) (prev b w k : Nat) : State :=
  let m : Int := s.fld pgTIME Reg.TIME_SYNC_PERIOD_US * 1000
  let w0 := nearest (toS 64 w) m (k % 2 = 1)
  let e := toS 64 w - w0
  let s := s.setFld pgTIME Reg.TIME_SYNC_ERR_NS (ofI 64 e)
  if e.natAbs > s.fld pgTIME Reg.TIME_SYNC_TOL_US * 1000 then
    ({ s with time := { s.time with prevOk := false } }.addSat pgTIME Reg.TIME_SYNC_STAT_REJECTED 1).error pgTIME
      Src.time_SYNC_REJECT
  else
    let ppb := toS 32 (s.fld pgTIME Reg.TIME_RATE_PPB)
    let rate := max (-1000000) (min 1000000 (ppb - roundDiv (e * 1000000000) m))
    let near := s.time.prevOk && b ≤ prev + 2 * (s.fld pgTIME Reg.TIME_SYNC_PERIOD_US * 700)
    let s := (s.setFld pgTIME Reg.TIME_REF_BEAT_BEAT b).setFld pgTIME Reg.TIME_REF_WALL_NS (ofI 64 w0)
    let s := if near then s.setFld pgTIME Reg.TIME_RATE_PPB (ofI 32 rate) else s
    let s := { s with staged := s.staged.filter fun q => q.1 / 0x1000 != pgTIME, time := { s.time with prevOk := true } }
    s.addSat pgTIME Reg.TIME_SYNC_STAT_ACCEPTED 1
def State.discipline (s : State) (prev : Nat) : State :=
  let w := s.wallNs s.beat
  w.2.fresh.2.steer prev s.beat w.1 w.2.fresh.1

/-- SYNC_EDGE (R347). -/
def execSyncEdge (falling : Bool) (s : State) : Out := .next <|
  if !s.bit pgTIME Reg.TIME_SYNC_EN || s.bit pgTIME Reg.TIME_SYNC_FALLING != falling then s
  else
    let prev := s.fld pgTIME Reg.TIME_SYNC_BEAT_BEAT
    let s := { s with time := { s.time with since := s.beat, missed := false } }
    let s := s.setFld pgTIME Reg.TIME_SYNC_BEAT_BEAT s.beat
    if s.bit pgTIME Reg.TIME_SYNC_DISCIPLINE then s.discipline prev else s

/-- SYNC_MISSING: no edge within 2 × PERIOD_US (R347). -/
def execSyncMissing (s : State) : Out := .next <|
  if !s.bit pgTIME Reg.TIME_SYNC_EN || s.time.missed then s
  else s.atBeat (s.time.since + 2 * (s.fld pgTIME Reg.TIME_SYNC_PERIOD_US * 700)) fun s =>
    { s with time := { s.time with missed := true } }.error pgTIME Src.time_SYNC_MISSING

/-! ## The bandwidth split -/

/-- SHARE of a class of a stack: 0 READ, 1 WRITE, 2 REMOTE (Table STRM-8). -/
def State.share99 (s : State) (stack cls : Nat) : Nat :=
  s.fld (pgHMC stack) (if cls = 0 then Reg.HMC_BWSPLIT_READ else if cls = 1 then Reg.HMC_BWSPLIT_WRITE
    else Reg.HMC_BWSPLIT_REMOTE)
def State.bucket (s : State) (stack cls : Nat) : Nat := kget (fun _ => 0) s.buckets (3 * stack + cls)
def State.setBucket (s : State) (stack cls n : Nat) : State :=
  { s with buckets := kset (fun _ => 0) s.buckets (3 * stack + cls) n }

/-- BWSPLIT_WINDOW (R99): every bucket of a stack takes SHARE × 16 tokens, SHARE × 8 while the stack is throttled
(R360), up to twice that. -/
def execBwsplitWindow (stack : Fin 4) (s : State) : Out := .next <|
  (List.range 3).foldl (fun (s : State) c =>
    let n := s.share99 stack c * (if s.bit (pgHMC stack) Reg.HMC_STAT_THROTTLED then 8 else 16)
    s.setBucket stack c (min (2 * n) (s.bucket stack c + n))) s

end Sys2Proof.Machine
end

