-- ==== Sys2Proof/Machine/Mem.lean ====
section
/-!
DEFINITION. HBM and store memory (13): line accesses with their error codes, poison and channel limits (R359, R361,
R364, R368), the bandwidth buckets (R99), host bias (R387), scrub (R362, R368), temperature (R360), training steps
(R372), the zones (R356).
-/

namespace Sys2Proof.Machine

open Sys2Proof

/-- Bytes that an access touches; they lie in one line of a memory that spans base to top. -/
def reqSize (r : MemReq) : Nat := if r.write then r.data.length else r.len
def reqOk (r : MemReq) (base top : Nat) : Bool :=
  1 ≤ reqSize r && r.addr % 64 + reqSize r ≤ 64 && base ≤ r.addr && r.addr < top

def clsIndex : MemClass → Nat
  | .read => 0
  | .write => 1
  | .remote => 2

/-! ## Error codes -/

/-- Beats of the errors of a channel that its limits still count (R364). -/
def State.chErrs (s : State) (k : Nat) : List Nat := kget (fun _ => []) s.mem.chErrs k

/-- An error of a channel counts against its limit: corrected ones of the last second, uncorrectable ones of the last
hour, at 700,000,000 beats a second (R341). -/
def State.countErr (s : State) (c : Nat) (unc : Bool) : State :=
  let key := if unc then 128 + c else c
  let span := if unc then 2520000000000 else 700000000
  let l := s.beat :: (s.chErrs key).filter fun b => s.beat < b + span
  let s := { s with mem := { s.mem with chErrs := kset (fun _ => []) s.mem.chErrs key l } }
  let pg := pgHMC (c / 32)
  let lim := s.fld pg (if unc then Reg.HMC_ECC_CFG_UE_LIMIT else Reg.HMC_ECC_CFG_CE_LIMIT)
  if lim ≠ 0 && lim < l.length then
    s.recordError pg (if unc then Src.hmc_CH_UE_LIMIT else Src.hmc_CH_CE_LIMIT) false (c % 32)
  else s

/-- Channel of a storage key of HBM. -/
def keyChannel (k : Nat) : Nat := 32 * (k / 2 ^ 30 / 64) + k / 2 ^ 30 % 64 / 2

/-- A line of HBM is read (R361): the state after counting, and whether the line is poison. A line in poison form is no
new error. -/
def State.eccHbm (s : State) (k : Nat) (env : MemEnv) : State × Bool :=
  let c := keyChannel k
  let pg := pgHMC (c / 32)
  if s.mem.hbmPoison.contains (k / 64) then (s, true)
  else if !env.uncorr.isEmpty then
    let s := (s.addSat pg Reg.HMC_ECC_UNCORR 1).setFld pg Reg.HMC_ECC_LAST_CH (c % 32)
    let s := { s with mem := { s.mem with hbmPoison := (k / 64) :: s.mem.hbmPoison } }
    ((s.error pg Src.hmc_ECC_UNCORR).countErr c true, true)
  else if !env.corrected.isEmpty then
    (((s.addSat pg Reg.HMC_ECC_CORRECTED 1).error pg Src.hmc_ECC_CORR).countErr c false, false)
  else (s, false)

/-- Bank of a storage key of store memory. -/
def keyBank (k : Nat) : Nat := (k - 2 ^ 40) / 2 ^ 24

/-- Words of a line of store memory are read (R368): offsets of the words in error relative to the line that holds the
key. Words in poison form are no new error. -/
def State.eccStore (s : State) (k : Nat) (env : MemEnv) : State :=
  let line := k / 64 * 64
  let bank := keyBank k
  let key := fun (o : Nat) => (line + o % 64) / 8
  let fine := fun (o : Nat) => !s.mem.storePoison.contains (key o)
  let bad := (env.uncorr.filter fine).map key |>.eraseDups
  let fixed := ((env.corrected.filter fine).map key |>.eraseDups).filter fun w => !bad.contains w
  let s := fixed.foldl (fun (s : State) _ =>
    ((s.addSat pgSTOR Reg.STOR_ECC_CORRECTED 1).setFld pgSTOR Reg.STOR_ECC_LAST_BANK bank).error pgSTOR Src.stor_CORR) s
  bad.foldl (fun (s : State) w =>
    let s := { s with mem := { s.mem with storePoison := w :: s.mem.storePoison } }
    ((s.addSat pgSTOR Reg.STOR_ECC_UNCORR 1).setFld pgSTOR Reg.STOR_ECC_LAST_BANK bank).recordError pgSTOR
      Src.stor_UNCORR false (bank / 128)) s

/-- Words, by offset in the line, that an access reads: all it touches for a read, those it touches in part for a
write. -/
def readsWord (r : MemReq) (o : Nat) : Bool :=
  let lo := r.addr % 64
  let hi := lo + reqSize r
  let w := o % 64 / 8 * 8
  w < hi && lo < w + 8 && !(r.write && lo ≤ w && w + 8 ≤ hi)

/-! ## Serving an access -/

/-- Serve an access at its storage key: the state, the bytes read, and whether they are poison. While the write gate is
closed every read answers poison and raises no error (R411). -/
def State.serve (s : State) (r : MemReq) (k : Nat) (env : MemEnv) : State × List Byte × Bool :=
  let hbm := k < 2 ^ 40
  let reads := if hbm then !(r.write && r.data.length == 64) else true
  let env := if hbm then env else { env with corrected := env.corrected.filter (readsWord r)
                                             uncorr := env.uncorr.filter (readsWord r) }
  let s := if s.link.gateClosed || !reads then s
    else if hbm then (s.eccHbm k env).1 else s.eccStore k env
  if r.write then
    (s.writeDev r.addr r.data (r.poison || (s.link.gateClosed && gatePoisons r.page)), [], false)
  else
    let d := s.readDev r.addr r.len
    (s, d.1, d.2)

/-- Take the bus time of a line from a bucket (R99). -/
def State.charge (s : State) (k : Nat) (cls : MemClass) (cost : Nat) : State :=
  if k < 2 ^ 40 then
    let stack := keyChannel k / 32
    s.setBucket stack (clsIndex cls) (s.bucket stack (clsIndex cls) - cost)
  else s

/-- The access can move now: its class has a token (R99). Store memory has no buckets. -/
def State.hasToken (s : State) (k : Nat) (cls : MemClass) : Bool :=
  2 ^ 40 ≤ k || 0 < s.bucket (keyChannel k / 32) (clsIndex cls)

/-- Serve an access and answer its requester. -/
def State.serveUnit (s : State) (r : MemReq) (k : Nat) (env : MemEnv) : State :=
  let x := (s.charge k r.cls env.cost).serve r k env
  if r.write then x.1 else x.1.emit (.unitData r.page r.addr x.2.1 x.2.2)

/-- An access that is answered with an error: a read returns poison, a write is dropped. -/
def State.refuseUnit (s : State) (r : MemReq) : State :=
  if r.write then s else s.emit (.unitData r.page r.addr (List.replicate r.len 0) true)

/-! ## Bias -/

/-- Device base of the range of decoder d (R385). -/
def rangeBase (d : Nat) : Nat := if d = 0 then 0 else storeBase

/-- The host physical address that a committed decoder of a bound port gives a device address (R387). -/
def State.hdmAddr (s : State) (a : Nat) : Option Nat :=
  let d := if a < storeBase then 0 else 1
  s.boundLinks.findSome? fun n =>
    let pg := pgULNK n
    let off := a - rangeBase d
    if s.bit pg (Reg.ULNK_HDM_SIZE_COMMITTED d) && off < s.fld pg (Reg.ULNK_HDM_SIZE_BYTES d) * 2 ^ 28
    then some (s.fld pg (Reg.ULNK_HDM_BASE_ADDR d) * 2 ^ 28 + off) else none

/-- Bias region of a device address (R387). -/
def biasRegion (a : Nat) : Nat := a / 2 ^ 21

/-- An access that waited for the host is complete: BIAS_SET commands that wait for no other complete (R388). -/
def State.endAcc (s : State) (id : Nat) : State :=
  let jobs := s.link.biasJobs.map fun (j : BiasJob) => { j with ids := j.ids.filter (· != id) }
  let s := { s with link := { s.link with biasAccs := s.link.biasAccs.filter fun q => q.id != id
                                          biasJobs := jobs.filter fun j => !j.ids.isEmpty } }
  (jobs.filter fun j => j.ids.isEmpty).foldl (fun (s : State) j => s.complete j.ring 0 0 j.count 0) s

/-- A device access at the storage key of its address: one to a host-bias region asks the host first (R387), one
whose class has no token waits for the next window, so that it is to be made again (R99, log 150). -/
def State.accessAt (s : State) (r : MemReq) (k : Nat) (env : MemEnv) : State :=
  match (if s.mem.deviceBias.contains (biasRegion r.addr) then none else s.hdmAddr r.addr) with
  | none => if s.hasToken k r.cls then s.serveUnit r k env else s
  | some h =>
    match s.link.biasAccs.find? fun (b : BiasAcc) => b.req == r with
    | some b =>
      if b.resolved && s.hasToken k r.cls then (s.serveUnit r k env).endAcc b.id else s
    | none =>
      let id := s.link.nextId
      let b : BiasAcc := { id := id, req := r }
      let s := { s with link := { s.link with biasAccs := s.link.biasAccs ++ [b] } }
      s.issueHost (if r.write then .rdOwn else .rdCurr) (h / 64 * 64) [] (.bias r.addr r.write)

/-! ## Commands -/

/-- HBM_ACCESS (R359): a hole answers as R25 states, a disabled controller as R42 states. -/
def execHbmAccess (req : MemReq) (env : MemEnv) (s : State) : Out :=
  if !reqOk req 0 hbmTop then .refused .illFormed
  else match s.locate req.addr with
    | none => .next ((s.hole req.addr req.page).refuseUnit req)
    | some k =>
      let pg := pgHMC (keyChannel k / 32)
      if !s.enabled pg then .next ((s.disabledReq pg).refuseUnit req) else .next (s.accessAt req k env)

/-- STORE_ACCESS (R368). -/
def execStoreAccess (req : MemReq) (env : MemEnv) (s : State) : Out :=
  if !reqOk req storeBase storeTop then .refused .illFormed
  else match s.locate req.addr with
    | none => .next ((s.hole req.addr req.page).refuseUnit req)
    | some k => .next (s.accessAt req k env)

/-- The patrol scrub reads the line at a storage key of a stack (R362). Its read counts as READ, a write-back as WRITE.
`passDone` ends a pass. -/
def State.scrubHbm (s : State) (pg k : Nat) (env : MemEnv) (passDone : Bool) : State :=
  if !(s.bit pg Reg.HMC_CFG_SCRUB_EN && s.enabled pg && s.chanUp (keyChannel k) && s.hasToken k .read) then s
  else
    let r := (s.charge k .read env.cost).eccHbm k env
    let fixes := !(env.corrected.isEmpty && env.uncorr.isEmpty)
    let s := if fixes then r.1.charge k .write env.cost else r.1
    if passDone then s.addWrap pg Reg.HMC_SCRUB_PASSES 1 else s

/-- HBM_SCRUB_READ: the line at a local address of a stack, pseudo-channel and address within it (R362). -/
def execHbmScrubRead (stack : Fin 4) (addr : Nat) (env : MemEnv) (passDone : Bool) (s : State) : Out :=
  .next (s.scrubHbm (pgHMC stack) (stack * 2 ^ 36 + addr % 2 ^ 36) env passDone)

/-- A bank scrubs the line at an address within it (R368). -/
def execStorScrubRead (bank : Fin 256) (addr : Nat) (env : MemEnv) (passDone : Bool) (s : State) : Out :=
  if !(s.bit pgSTOR Reg.STOR_SCRUB_EN && s.halfUp (bank / 128)) then .next s
  else
    let s := s.eccStore (2 ^ 40 + bank * 2 ^ 24 + addr % (10 * 2 ^ 20)) env
    .next (if passDone then s.addWrap pgSTOR Reg.STOR_SCRUB_PASSES 1 else s)

/-- HBM_TEMP_READ (R360): refresh rate, throttle and errors of a reading. The row of HOT_C counts before the row of
85 °C (log 151). -/
def execHbmTempRead (stack : Fin 4) (temp : Byte) (s : State) : Out :=
  let pg := pgHMC stack
  let t := temp.toNat
  let hot := s.fld pg Reg.HMC_CFG_HOT_C
  let s := s.setFld pg Reg.HMC_STAT_TEMP t
  let s := s.setFld pg Reg.HMC_STAT_REF_RATE (if t ≥ hot then 2 else if t ≥ 85 then 1 else 0)
  let s := if t ≥ hot then s.setBit pg Reg.HMC_STAT_THROTTLED true
    else if t + 3 ≤ hot then s.setBit pg Reg.HMC_STAT_THROTTLED false else s
  .next <| if t ≥ s.fld pg Reg.HMC_CFG_CRIT_C then s.error pg Src.hmc_HBM_CRIT
    else if t ≥ hot then s.error pg Src.hmc_HBM_HOT else s

/-- HBM_REFRESH (R353): refresh and RFM commands change nothing that the device shows. -/
def execHbmRefresh (_stack : Fin 4) (_pc : Fin 64) (_bank : Nat) (_rfm : Bool) (s : State) : Out := .next s

/-- HPHY_STEP (R372): in 1 ASSIST one sequencer step runs, and HPHYn_TRAIN holds its outcome. -/
def execHphyStep (phy : Fin 4) (stepNo : BitVec 4) (result : Fin 4) (chFail : BitVec 32) (s : State) : Out :=
  let pg := pgHPHY phy
  if s.assist pg then
    .next (((s.setFld pg Reg.HPHY_TRAIN_STEP stepNo.toNat).setFld pg Reg.HPHY_TRAIN_RESULT result).setFld pg
      Reg.HPHY_TRAIN_CH_FAIL chFail.toNat)
  else .next s

/-- HMC0_ZONE_WRITE (R356, R371): refused with cause 1 while an HMC is enabled, with cause 4 out of range or before
READY. No data moves. -/
def execHmc0ZoneWrite (fineGib : Byte) (clUnits : BitVec 6) (s : State) : Out :=
  let cs := s.fld pgGLB Reg.GLB_HBM_STACK_GIB
  let f := fineGib.toNat
  let cl := clUnits.toNat
  .next <| if (List.range 4).any fun n => s.enabled (pgHMC n) then s.reject (pgHMC 0) 0x408 1
    else if (f > 64 && f != 255) || cl > 32 || !s.bit pgGLB Reg.GLB_STAT_READY || (if f = 255 then 0 else f) + 2 * cl > cs
    then s.reject (pgHMC 0) 0x408 4
    else (s.setFld (pgHMC 0) Reg.HMC0_ZONE_FINE_GIB f).setFld (pgHMC 0) Reg.HMC0_ZONE_CL_UNITS cl

end Sys2Proof.Machine
end

