-- ==== Sys2Proof/Machine/Cmdq.lean ====
section
/-!
DEFINITION. The command rings (03, 14): ring enable, doorbells, entries, completion entries (R74, R75, R391 to R393).
-/

namespace Sys2Proof.Machine

open Sys2Proof

/-- A write that the ring no longer waits for: its answer goes to nobody. -/
def State.orphanCpl (s : State) (n : Nat) : State :=
  let f := fun (r : HostReq) => if r.src == .completion n then { r with src := .unit pgCMDQ } else r
  { s with link := { s.link with reqs := s.link.reqs.map f, held := s.link.held.filter fun r => r.src != .completion n } }

/-- EN goes from 0 to 1 (R74): HEAD, TAIL, CPL_TAIL and the doorbell value restart at 0, PHASE at 1. Entries of the
earlier use that are not in progress, and its completions that are not written, are gone (log 152). -/
def State.restartRing (s : State) (n : Nat) : State :=
  let s := (s.wr pgCMDQ (Reg.CMDQ_R_IDX_HEAD n).off 0).orphanCpl n
  let r := s.ring n
  let s := s.setRing n { r with waiting := if r.busy then r.waiting.take 1 else [], cpls := [], phase := true }
  { s with doorbells := kset (fun _ => 0) s.doorbells n 0 }

/-- CMDQ_RING_ENABLE: EN is STATIC, so that the write is refused with cause 1 while the block is enabled (R34). -/
def execCmdqRingEnable (ring : Fin 16) (s : State) : Out := .next <|
  let f := Reg.CMDQ_R_CFG_EN ring
  if s.bit pgCMDQ f then s
  else if s.enabled pgCMDQ then s.reject pgCMDQ f.off 1
  else (s.setBit pgCMDQ f true).restartRing ring

/-- CMDQ_DOORBELL (R393): ENABLE = 0 does not hold it back (R74); TAIL out of range is ignored (R75). -/
def execCmdqDoorbell (ring : Fin 16) (off : Fin 4096) (bytes : Nat) (v : Word) (s : State) : Out := .next <|
  if !doorbellOk off bytes v true then s.badDoorbell
  else
    let s := { s with doorbells := kset (fun _ => 0) s.doorbells ring v }
    if s.ringSize ring ≤ v.toNat then s.error pgCMDQ Src.cmdq_TAIL_RANGE
    else s.setFld pgCMDQ (Reg.CMDQ_R_IDX_TAIL ring) v.toNat

/-- A ring entry can be read: ring and block enabled, HEAD behind TAIL. -/
def State.fetches (s : State) (n : Nat) : Bool :=
  s.enabled pgCMDQ && s.bit pgCMDQ (Reg.CMDQ_R_CFG_EN n) &&
    s.fld pgCMDQ (Reg.CMDQ_R_IDX_HEAD n) != s.fld pgCMDQ (Reg.CMDQ_R_IDX_TAIL n)

/-- The read of the entry at HEAD returns (R74, R391): a failed or poisoned read clears EN (R75); an entry read for a
disabled ring is discarded; an invalid entry completes with 37 BAD_COMMAND when it is served (R64). -/
def State.takeEntry (s : State) (n : Nat) (entry : Option (List Byte)) : State :=
  if !s.fetches n then s
  else match entry with
    | none => (s.setBit pgCMDQ (Reg.CMDQ_R_CFG_EN n) false).error pgCMDQ Src.cmdq_RING_FETCH
    | some e =>
      let c := parseCmd e
      let s := s.setFld pgCMDQ (Reg.CMDQ_R_IDX_HEAD n) ((s.fld pgCMDQ (Reg.CMDQ_R_IDX_HEAD n) + 1) % s.ringSize n)
      let r := s.ring n
      let s := s.setRing n { r with waiting := r.waiting ++ [c] }
      (if c.bad then s.error pgCMDQ Src.cmdq_ENTRY_INVALID else s).settleRing n

def execCmdEntryFetch (ring : Fin 16) (entry : Option (List Byte)) (s : State) : Out :=
  match entry with
  | some e => if e.length = 64 then .next (s.takeEntry ring entry) else .refused .illFormed
  | none => .next (s.takeEntry ring none)

/-- The write of the oldest completion entry is acknowledged (R392): CPL_TAIL moves on, PHASE inverts on a new pass, the
vector goes out, the next entry is written. -/
def State.cplAcked (s : State) (n : Nat) : State :=
  let t := (s.fld pgCMDQ (Reg.CMDQ_R_IDX_CPL_TAIL n) + 1) % s.ringSize n
  let s := s.setFld pgCMDQ (Reg.CMDQ_R_IDX_CPL_TAIL n) t
  let r := s.ring n
  let s := s.setRing n { r with cpls := r.cpls.drop 1, phase := if t = 0 then !r.phase else r.phase }
  let s := if s.bit pgCMDQ (Reg.CMDQ_R_CFG_CPL_INT n) then s.msix (s.fld pgCMDQ (Reg.CMDQ_R_CFG_VECTOR n)) else s
  s.sendCpl n

/-- A completion write fails: the ring's EN is cleared (R75). -/
def State.cplFailed (s : State) (n : Nat) : State :=
  (s.setBit pgCMDQ (Reg.CMDQ_R_CFG_EN n) false).error pgCMDQ Src.cmdq_CPL_WRITE

/-- The outstanding write of a ring's completion entry. -/
def State.cplOut (s : State) (n : Nat) : Option HostReq := s.link.reqs.find? fun r => r.src == .completion n

def execCplWriteAck (ring : Fin 16) (s : State) : Out := .next <|
  match s.cplOut ring with
  | none => s
  | some r => { s with link := { s.link with reqs := s.link.reqs.filter fun q => q.id != r.id } }.cplAcked ring

end Sys2Proof.Machine
end

