-- ==== Sys2Proof/Machine/Link.lean ====
section
/-!
DEFINITION. The CXL host link (14): training and fences of links (R376, R377, R386), the link group (R382, R383),
HDM decoders (R385), CXL.mem and bias (R385, R387, R388), snoops (R381), configuration (R381, R382, R397), MSI-X
(R395), translation (R396).
-/

namespace Sys2Proof.Machine

open Sys2Proof

/-! ## The link group -/

/-- WAYS, ranks, PRIMARY and LGRP_OK follow the bound, the trained and the fenced links (R382, R383). -/
def State.refreshGroup (s : State) : State :=
  let ls := s.boundLinks
  let prim := s.primary
  let s := s.setFld pgGLB Reg.GLB_LGRP_WAYS ls.length
  let s := (List.range 3).foldl (fun (s : State) n =>
    (s.setFld (pgULNK n) Reg.ULNK_STAT_RANK (if ls.contains n then ls.idxOf n else 0)).setBit (pgULNK n) Reg.ULNK_STAT_PRIMARY
      (prim == some n)) s
  let present := s.fld pgGLB Reg.GLB_LGRP_PRESENT
  s.setBit pgGLB Reg.GLB_STAT_LGRP_OK (present != 0 && present &&& s.fld pgGLB Reg.GLB_LGRP_BOUND == present)

/-- The host's port n is served: trained and not fenced (R386). -/
def State.linkUp (s : State) (n : Nat) : Bool :=
  s.bit (pgULNK n) Reg.ULNK_STAT_TRAINED && !s.bit (pgULNK n) Reg.ULNK_STAT_FENCED

/-- GLB_LGRP_BIND: a write of 1 to BOUND bit n (R50). -/
def execGlbLgrpBind (port : Fin 3) (s : State) : Out := .next <|
  let pg := pgULNK port
  if bitsOf (s.fld pgGLB Reg.GLB_LGRP_PRESENT) port port = 0 || !s.bit pg Reg.ULNK_STAT_CACHE_EN ||
      !s.bit pg Reg.ULNK_STAT_MEM_EN then s.reject pgGLB Reg.GLB_LGRP_BOUND.off 4
  else
    let s := s.setFld pgGLB Reg.GLB_LGRP_BOUND (s.fld pgGLB Reg.GLB_LGRP_BOUND ||| 2 ^ port.val)
    ((s.setBit pg Reg.ULNK_STAT_BOUND true).refreshGroup).releaseHeld

/-! ## Training and fences -/

/-- Modules of a link that recovery or training has fenced. -/
def State.fencedModules (s : State) (n : Nat) : Nat :=
  (List.range 4).foldl (fun m i => if (s.flt.fenced ++ s.flt.bootFenced).contains (.module (4 * n + i)) then m + 2 ^ i else m) 0

/-- Number of ones among the low four bits. -/
def ones4 (x : Nat) : Nat := ((List.range 4).filter fun i => x / 2 ^ i % 2 = 1).length

/-- Outcome of training from a rate code on: the rate, the failing modules, the times the rate was lowered (R376). -/
def trainRate (fenceFirst : Bool) : Nat → List Nat → Nat × Nat × Nat
  | rate, [] => (rate, 0, 0)
  | rate, f :: fs =>
    if f = 0 then (rate, 0, 0)
    else if fenceFirst || rate = 0 then (rate, f, 0)
    else
      let r := trainRate fenceFirst (rate - 1) fs
      (r.1, r.2.1, r.2.2 + 1)

/-- ULNKn_STAT.MODULES_UP and GLB_PORTn.MODULES_UP of a link. -/
def State.setModules (s : State) (n up : Nat) : State :=
  (s.setFld (pgULNK n) Reg.ULNK_STAT_MODULES_UP up).setFld pgGLB (Reg.GLB_PORT_MODULES_UP n) up

/-- LINK_TRAINED (R376): `fails` holds the modules that fail at each rate tried, highest first. Training takes place
once, after the sideband is up. -/
def execLinkTrained (link : Fin 3) (fails : List (BitVec 4)) (s : State) : Out := .next <|
  let pg := pgULNK link
  if s.bit pg Reg.ULNK_STAT_TRAINED || s.bit pg Reg.ULNK_STAT_FENCED || s.fld pgGLB Reg.GLB_STAT_BOOT_STEP < 7 then s
  else
    let start := min (s.fld pg Reg.ULNK_CFG_MAX_RATE) (s.fld pg Reg.ULNK_STAT_FUSE_MAX)
    let old := s.fencedModules link
    let r := trainRate (s.bit pg Reg.ULNK_CFG_FALLBACK) start (fails.map fun f => f.toNat &&& (15 - old))
    let s := (List.range r.2.2).foldl (fun (s : State) _ => s.error pg Src.ulnk_RATE_FALLBACK) s
    let bad := (List.range 4).filter fun i => r.2.1 / 2 ^ i % 2 = 1
    let s := { s with flt := { s.flt with bootFenced := s.flt.bootFenced ++ bad.map fun i => FUnit.module (4 * link + i) } }
    let s := if bad.isEmpty then s else s.error pg Src.ulnk_MOD_TRAIN_FAIL
    let up := 15 - s.fencedModules link
    if up = 0 then s
    else
      let s := (((s.setBit pg Reg.ULNK_STAT_TRAINED true).setBit pg Reg.BLK_STAT_READY true).setFld pg Reg.ULNK_STAT_RATE r.1).setModules link up
      let s := (s.setFld pgGLB (Reg.GLB_PORT_RATE link) r.1).setBit pgGLB (Reg.GLB_PORT_TRAINED link) true
      let s := s.setFld pgGLB Reg.GLB_LGRP_PRESENT (s.fld pgGLB Reg.GLB_LGRP_PRESENT ||| 2 ^ link.val)
      let s := s.setFld pgCLK Reg.CLK_STAT_UCIE_LOCK (s.fld pgCLK Reg.CLK_STAT_UCIE_LOCK ||| 2 ^ link.val)
      s.refreshGroup

/-- Requests that were outstanding on a fenced link are sent again on the links that serve now; RESENT counts on those
(R386). -/
def State.resendFrom (s : State) (n : Nat) : State :=
  let out := s.link.reqs.filter fun r => r.link == n
  let s := { s with link := { s.link with reqs := s.link.reqs.filter fun r => r.link != n } }
  out.foldl (fun (s : State) r =>
    let s := match s.routeOf r with
      | some l => s.addSat (pgULNK l) Reg.ULNK_CNT_RESENT 1
      | none => s
    s.sendReq r) s

/-- Fence a link (R386). Fencing the last trained one records LAST_LINK. -/
def State.fenceLink (s : State) (n : Nat) : State :=
  let pg := pgULNK n
  if s.bit pg Reg.ULNK_STAT_FENCED then s
  else
    let s := ((s.setBit pg Reg.ULNK_STAT_FENCED true).setBit pg Reg.BLK_STAT_FENCED true).setModules n 0
    let s := { s with flt := { s.flt with fenced := s.flt.fenced ++ [FUnit.link n] } }
    let s := (s.refreshGroup).resendFrom n
    let s := s.releaseHeld
    if s.primary.isNone then s.error pgDBG Src.dbg_LAST_LINK else s

/-- Fence a module; a link whose last module goes is fenced whole (R377). -/
def State.fenceModule (s : State) (m : Nat) : State :=
  let n := m / 4
  let s := { s with flt := { s.flt with fenced := s.flt.fenced ++ [FUnit.module m] } }
  let up := s.fld (pgULNK n) Reg.ULNK_STAT_MODULES_UP
  let up := up - bitsOf up (m % 4) (m % 4) * 2 ^ (m % 4)
  if up = 0 then s.fenceLink n else s.setModules n up

/-- FLIT_RETRY (R377): ULNKn_RETRY counts, and more than RETRY_LIMIT retries within a second are recorded. -/
def execFlitRetry (link : Fin 3) (mod : Fin 4) (s : State) : Out := .next <|
  let pg := pgULNK link
  if !s.linkUp link || bitsOf (s.fld pg Reg.ULNK_STAT_MODULES_UP) mod mod = 0 then s
  else
    let s := s.addSat pg ⟨Reg.ULNK_RETRY_MOD.off, 16 * mod + 15, 16 * mod⟩ 1
    let s := s.perf pg 0x104 1
    let m := 4 * link.val + mod.val
    let l := s.beat :: (kget (fun _ => []) s.link.retries m).filter fun b => s.beat < b + 700000000
    let s := { s with link := { s.link with retries := kset (fun _ => []) s.link.retries m l } }
    let lim := s.fld pg Reg.ULNK_CFG_RETRY_LIMIT
    if lim != 0 && lim < l.length then s.recordError pg Src.ulnk_RETRY_LIMIT false mod else s

/-! ## HDM decoders -/

/-- End of the highest backed address of HBM (R355, R385), from the zones' unfenced pseudo-channels. -/
def State.hbmEnd (s : State) : Nat :=
  let f := s.fineBytes
  let l := s.localBytes
  let b := s.chanBytes
  let span := fun (place sub zs : Nat) => (s.pcsOf place sub).length * (zs / 256 * 256)
  let chan := if b = 0 then none else ((List.range 128).reverse.find? fun c => s.chanUp c)
  match chan with
  | some c => 4 * (f + l) + c * b + span 2 c (b / 2)
  | none =>
    match (if l = 0 then none else (List.range 4).reverse.find? fun n => !(s.pcsOf 1 n).isEmpty) with
    | some n => 4 * f + n * l + span 1 n (l / 64)
    | none => span 0 0 (f / 64)

/-- Bytes of the backed span of a range, and the reachable size (R385). -/
def State.backedSpan (s : State) (d : Nat) : Nat :=
  if d = 0 then s.hbmEnd else if s.halfUp 1 then 2 * halfBytes else if s.halfUp 0 then halfBytes else 0
def State.reachable (s : State) (d : Nat) : Nat :=
  let unit := s.boundLinks.length * 2 ^ 28
  if unit = 0 then 0 else s.backedSpan d / unit * unit

/-- The commit is refused (R385). -/
def State.badCommit (s : State) (port d : Nat) (r : DecReq) : Bool :=
  !s.boundLinks.contains port || r.ways.toNat != s.boundLinks.length || r.granLog2 != 12 ||
    s.reachable d < r.size.toNat * 2 ^ 28 || r.skip != 0 ||
    s.boundLinks.any fun n => n != port && s.bit (pgULNK n) (Reg.ULNK_HDM_SIZE_COMMITTED d) &&
      (s.fld (pgULNK n) (Reg.ULNK_HDM_BASE_ADDR d) != r.base.toNat ||
        s.fld (pgULNK n) (Reg.ULNK_HDM_SIZE_BYTES d) != r.size.toNat)

/-- DECODER_COMMIT (R385): a refused commit records DECODER_COMMIT; a decoder that the host takes down is no longer
committed. -/
def execDecoderCommit (port : Fin 3) (dec : Fin 2) (req : DecReq) (s : State) : Out := .next <|
  let pg := pgULNK port
  if !s.linkUp port then s
  else if !req.commit then (s.wr pg (0x118 + 0x10 * dec) 0).wr pg (0x120 + 0x10 * dec) 0
  else if s.badCommit port dec req then s.error pg Src.ulnk_DECODER_COMMIT
  else
    let s := s.setFld pg (Reg.ULNK_HDM_BASE_ADDR dec) req.base.toNat
    let s := (s.setFld pg (Reg.ULNK_HDM_SIZE_BYTES dec) req.size.toNat).setFld pg (Reg.ULNK_HDM_SIZE_IW dec) req.ways.toNat
    s.setBit pg (Reg.ULNK_HDM_SIZE_COMMITTED dec) true

/-! ## CXL.mem -/

/-- CXL.mem is served on a port: bound, unfenced, MEM_EN (R382). -/
def State.servesMem (s : State) (port : Nat) : Bool :=
  s.boundLinks.contains port && s.bit (pgULNK port) Reg.ULNK_STAT_MEM_EN

/-- The device address that a port's committed decoders give a host physical address (R385). -/
def State.hdmDecode (s : State) (port addr : Nat) : Option Nat :=
  ([0, 1] : List Nat).findSome? fun d =>
    let pg := pgULNK port
    let base := s.fld pg (Reg.ULNK_HDM_BASE_ADDR d) * 2 ^ 28
    if s.bit pg (Reg.ULNK_HDM_SIZE_COMMITTED d) && base ≤ addr &&
        addr < base + s.fld pg (Reg.ULNK_HDM_SIZE_BYTES d) * 2 ^ 28
    then some (rangeBase d + (addr - base)) else none

/-- How a CXL.mem request ends: at storage that can serve it now, not yet, or nowhere, with the record made (R25, R42,
R385). -/
inductive MemEnd where
  | at_ (dev key : Nat)
  | wait
  | none_ (s : State)
  deriving DecidableEq, Repr

def State.memTarget (s : State) (port addr : Nat) : MemEnd :=
  let pg := pgULNK port
  match s.hdmDecode port addr with
  | none => .none_ (s.error pg Src.ulnk_MEM_UNMAPPED)
  | some a =>
    match s.locate a with
    | none => .none_ (s.hole a pg)
    | some k =>
      if k < 2 ^ 40 && !s.enabled (pgHMC (keyChannel k / 32)) then .none_ (s.disabledReq (pgHMC (keyChannel k / 32)))
      else if s.hasToken k .remote then .at_ a k else .wait

/-- Answer a host read with poison. -/
def State.poisonRead (s : State) (port addr : Nat) : State :=
  (s.addSat (pgULNK port) Reg.ULNK_CNT_MEM_POISON 1).emit (.memData port addr (List.replicate 64 0) true)

/-- CXL_MEM_READ (R385): in the safe state every read returns poison (R411). A read whose class has no token waits for
the next window (R99, log 150). -/
def execCxlMemRead (port : Fin 3) (addr : Word) (env : MemEnv) (s : State) : Out := .next <|
  let pg := pgULNK port
  let line := addr.toNat / 64 * 64
  if !s.servesMem port then s
  else if s.bit pgGLB Reg.GLB_STAT_SAFE then (s.perf pg 0x101 1).poisonRead port line
  else match s.memTarget port line with
    | .wait => s
    | .none_ s => (s.perf pg 0x101 1).poisonRead port line
    | .at_ a k =>
      let r : MemReq := { page := ⟨pg % 512, Nat.mod_lt _ (by decide)⟩, cls := .remote, addr := a, len := 64 }
      let x := ((s.perf pg 0x101 1).charge k .remote env.cost).serve r k env
      if x.2.2 then x.1.poisonRead port line else x.1.emit (.memData port line x.2.1 false)

/-- The masked bytes of a line, written in whole 8 B words where the mask covers them. -/
def State.writeMasked (s : State) (a : Nat) (data : List Byte) (mask : Nat) (poison : Bool) : State :=
  if mask = 2 ^ 64 - 1 then s.writeDev a data poison
  else (List.range 8).foldl (fun (s : State) w =>
    if mask / 2 ^ (8 * w) % 256 = 255 then s.writeDev (a + 8 * w) (slice data (8 * w) 8) poison
    else (List.range 8).foldl (fun (s : State) i =>
      let j := 8 * w + i
      if mask / 2 ^ j % 2 = 1 then s.writeDev (a + j) (slice data j 1) poison else s) s) s

/-- CXL_MEM_WRITE (R385): written, or dropped. `mask` gives the bytes that MemWrPtl writes. -/
def execCxlMemWrite (port : Fin 3) (addr : Word) (data : List Byte) (mask : BitVec 64) (poison : Bool) (env : MemEnv)
    (s : State) : Out :=
  if data.length != 64 then .refused .illFormed
  else .next <|
    let pg := pgULNK port
    let line := addr.toNat / 64 * 64
    if !s.servesMem port then s
    else match s.memTarget port line with
      | .wait => s
      | .none_ s => (s.perf pg 0x101 1).emit (.memCmp port line)
      | .at_ a k =>
        let s := (s.perf pg 0x101 1).charge k .remote env.cost
        let part := fun (o : Nat) => let w := mask.toNat / 2 ^ (o % 64 / 8 * 8) % 256; 0 < w && w < 255
        let s := if s.link.gateClosed || mask.toNat = 2 ^ 64 - 1 then s
          else if k < 2 ^ 40 then (s.eccHbm k env).1
          else s.eccStore k { env with corrected := env.corrected.filter part, uncorr := env.uncorr.filter part }
        (s.writeMasked a data mask.toNat poison).emit (.memCmp port line)

/-- MEM_INV is answered with Cmp and no data; MEM_SPEC_RD is taken as no request (R381). -/
def execMemInv (port : Fin 3) (addr : Word) (s : State) : Out := .next <|
  if s.servesMem port then (s.perf (pgULNK port) 0x101 1).emit (.memCmp port (addr.toNat / 64 * 64)) else s
def execMemSpecRd (_port : Fin 3) (_addr : Word) (s : State) : Out := .next s

/-! ## Bias -/

/-- The host has resolved its caches for an access (R387): the device accesses its own memory, or waits for a token. -/
def State.resolved (s : State) (port id : Nat) (write : Bool) (env : MemEnv) : State :=
  match s.link.reqs.find? (fun (r : HostReq) => r.id == id),
      s.link.biasAccs.find? (fun (b : BiasAcc) => b.id == id && b.req.write == write && !b.resolved) with
  | some _, some b =>
    let s := { s with link := { s.link with reqs := s.link.reqs.filter fun r => r.id != id } }
    let s := s.perf (pgULNK port) 0x105 1
    match s.locate b.req.addr with
    | none => ((s.hole b.req.addr b.req.page).refuseUnit b.req).endAcc id
    | some k =>
      if s.hasToken k b.req.cls then (s.serveUnit b.req k env).endAcc id
      else { s with link := { s.link with biasAccs := s.link.biasAccs.map fun (q : BiasAcc) =>
                                            if q.id == id then { q with resolved := true } else q } }
  | _, _ => s
def execMemRdFwd (port : Fin 3) (id : Nat) (env : MemEnv) (s : State) : Out := .next (s.resolved port id false env)
def execMemWrFwd (port : Fin 3) (id : Nat) (env : MemEnv) (s : State) : Out := .next (s.resolved port id true env)

/-- A range of bias regions lies in HBM or store memory (R388). -/
def State.biasRange (s : State) (first n : Nat) : Bool :=
  let hbm := 4 * s.stackBytes / 2 ^ 21
  let lo := storeBase / 2 ^ 21
  let hi := storeTop / 2 ^ 21
  (first + n ≤ hi) && (lo ≤ first || first + n ≤ hbm || (hbm == lo && first < lo))

/-- BIAS_SET (R388): accesses that begin from here use the new bias; the command completes once those under the old
bias are complete. -/
def execBiasSet (ring : Fin 16) (s : State) : Out := .next <| s.command ring 0x40 fun s c =>
  let first := c.op0.toNat / 2 ^ 21
  let n := bitsOf c.op2.toNat 17 0
  let dev := bitsOf c.op2.toNat 20 20 == 1
  let mine := fun (r : Nat) => first ≤ r && r < first + n
  if !s.biasRange first n then s.complete ring 49 0 0 0
  else
    let keep := s.mem.deviceBias.filter fun r => !mine r
    let bias := if dev then keep ++ (List.range n).map (first + ·) else keep
    let s := { s with mem := { s.mem with deviceBias := bias.mergeSort } }
    let ids := (s.link.biasAccs.filter fun b => mine (biasRegion b.req.addr)).map BiasAcc.id
    if ids.isEmpty then s.complete ring 0 0 n 0
    else
      let j : BiasJob := { ring := ring, count := n, ids := ids }
      { s with link := { s.link with biasJobs := s.link.biasJobs ++ [j] } }.setBusy ring

/-! ## Snoops -/

/-- Answer a snoop from the coherent cache; SnpData and SnpInv give the line back to the host (R87, R381). -/
def State.snoop (s : State) (port addr : Nat) (gives : Bool) : State :=
  let l := addr / 64
  if !s.boundLinks.contains port then s
  else match s.cacheLine l with
    | none => s.emit (.snpResp port (64 * l) [] false)
    | some bs =>
      let s := s.emit (.snpResp port (64 * l) bs true)
      if gives then { s with link := { s.link with cache := kset (fun _ => none) s.link.cache l none } } else s
def execSnpData (port : Fin 3) (addr : Word) (s : State) : Out := .next (s.snoop port addr.toNat true)
def execSnpInv (port : Fin 3) (addr : Word) (s : State) : Out := .next (s.snoop port addr.toNat true)
def execSnpCur (port : Fin 3) (addr : Word) (s : State) : Out := .next (s.snoop port addr.toNat false)

/-! ## Configuration, interrupts, translation -/

/-- Send the pending messages of vectors that are not masked (R395). -/
def State.sendPending (s : State) : State :=
  if s.link.fnMask then s
  else
    let go := s.link.msixPend.filter fun v => s.link.unmasked.contains v
    let s := { s with link := { s.link with msixPend := s.link.msixPend.filter fun v => !s.link.unmasked.contains v } }
    go.mergeSort.foldl (fun (s : State) v => s.emit (.msix v)) s

/-- A member of a set of ports. -/
def setPort (l : List Nat) (n : Nat) (on : Bool) : List Nat :=
  if on then (if l.contains n then l else n :: l) else l.filter (· != n)

/-- What a configuration read returns (R381, R385; identifiers come from fuses, log 4). -/
def State.configWord (s : State) (reg : CfgReg) : Nat :=
  match reg with
  | .serial => s.fld pgGLB Reg.GLB_SERIAL_SERIAL
  | .classCode => 0x120000
  | .ids => Config.fuseField 0 0x1000 0 % 2 ^ 32
  | .rangeSize d => s.reachable d / max s.boundLinks.length 1

/-- CONFIG_REQUEST (R381, R382, R395 to R398). -/
def execConfigRequest (port : Fin 3) (req : CfgReq) (s : State) : Out := .next <|
  let pg := pgULNK port
  if !s.linkUp port then s
  else match req with
    | .identity bus dev =>
      (s.setFld pgGLB (Reg.GLB_PORT_BUS port) bus.toNat).setFld pgGLB (Reg.GLB_PORT_DEVICE port) dev.toNat
    | .cacheEn on => (s.setBit pg Reg.ULNK_STAT_CACHE_EN on).releaseHeld
    | .memEn on => s.setBit pg Reg.ULNK_STAT_MEM_EN on
    | .ats on => { s with link := { s.link with atsEn := setPort s.link.atsEn port on } }
    | .pasid on => { s with link := { s.link with pasidEn := setPort s.link.pasidEn port on } }
    | .pri on =>
      let s := s.setBit pg Reg.ULNK_PRI_ENABLED on
      if on then s.sendPageReqs else s.setBit pg Reg.ULNK_PRI_FAILED false
    | .priAlloc n => (s.setFld pg Reg.ULNK_PRI_ALLOC n).sendPageReqs
    | .fnMask on =>
      if s.primary = some port.val then { s with link := { s.link with fnMask := on } }.sendPending else s
    | .read reg => s.emit (.configResp port (word (s.configWord reg)))

/-- MSIX_UNMASK (R395). -/
def execMsixUnmask (vec : Fin 2048) (s : State) : Out :=
  .next { s with link := { s.link with unmasked := setPort s.link.unmasked vec true } }.sendPending

/-- ATS_INVALIDATE (R396): the whole cache is invalidated, and the completion goes back on the port. -/
def execAtsInvalidate (port : Fin 3) (s : State) : Out := .next <|
  if !s.linkUp port then s
  else
    let s := s.setAtc []
    let s := match s.primary with
      | some l => s.addWrap (pgULNK l) Reg.ULNK_ATS_INVALIDATIONS 1
      | none => s
    s.emit (.atsDone port)

end Sys2Proof.Machine
end

