-- ==== Sys2Proof/Machine/Sec.lean ====
section
/-!
DEFINITION. The security block, the fuses and the flash port after boot (16): fuse bits (R445), extensions (R437),
quotes (R440 to R443), host burns (R446, R447), flash commands (R450, R452), the entropy source (R444).
-/

namespace Sys2Proof.Machine

open Sys2Proof

/-! ## Fuses -/

/-- State of a fuse bit as the factory left it, and now: 0 clean, 1 marginal, 2 burned (R445). -/
def otpFactory (i : Nat) : Nat := if (Config.otpByte (i / 8)).toNat / 2 ^ (i % 8) % 2 = 1 then 2 else 0
def State.otp (s : State) (i : Nat) : Nat := kget otpFactory s.sec.otp i
/-- A bit reads burned or marginal. -/
def State.otpSet (s : State) (i : Nat) : Bool := s.otp i != 0
/-- A byte of the array, burned and marginal bits read as 1. -/
def State.otpByte (s : State) (k : Nat) : Nat :=
  (List.range 8).foldl (fun m i => if s.otpSet (8 * k + i) then m + 2 ^ i else m) 0

/-- A CONFIG bit by majority of its three copies; none when no two agree (R445). -/
def State.cfgBit (s : State) (b : Nat) : Option Bool :=
  let v := fun c => s.otp ((0x80 + 8 * c) * 8 + b)
  if v 0 = v 1 || v 0 = v 2 then some (v 0 != 0) else if v 1 = v 2 then some (v 1 != 0) else none
def State.cfg (s : State) (b : Nat) : Bool := (s.cfgBit b).getD false

/-- A bit after a burn, by its reads at the two margin references (R445, R447). -/
def readState (lo hi : Bool) : Nat := if lo && hi then 2 else if lo || hi then 1 else 0
def State.burnBit (s : State) (i : Nat) (lo hi : Bool) : State :=
  { s with sec := { s.sec with otp := kset otpFactory s.sec.otp i (readState lo hi) } }

/-- Fuse SVN value (R435), live owner slots (R434), boot counter bits used. -/
def State.svn (s : State) : Nat :=
  match (List.range 256).reverse.find? fun i => s.otpSet (0x300 * 8 + i) with
  | some i => i + 1
  | none => 0
def State.ownerLive (s : State) : Nat :=
  (List.range 4).foldl (fun m n =>
    if s.otpSet (0x280 * 8 + 2 * n) && !s.otpSet (0x280 * 8 + 2 * n + 1) then m + 2 ^ n else m) 0
def State.bootUsed (s : State) : Nat := ((List.range 4096).filter fun i => s.otpSet (0x400 * 8 + i)).length

/-- FUSE_STAT follows the fuse bits. -/
def State.loadFuses (s : State) : State :=
  let s := (s.setBit pgFUSE Reg.FUSE_STAT_PROV_LOCK (s.cfg 5)).setFld pgFUSE Reg.FUSE_STAT_BOOT_USED s.bootUsed
  (s.setFld pgFUSE Reg.FUSE_STAT_SVN s.svn).setFld pgFUSE Reg.FUSE_STAT_OWNER_LIVE s.ownerLive

/-- Bits that the host may burn while PROV_LOCK is clean (R446): FACTORY, CONFIG, OWNER, PROGRAMMED and REVOKED. -/
def hostBurns (i : Nat) : Bool :=
  let k := i / 8
  k < 0x40 || (0x80 ≤ k && k < 0x98) || (0x200 ≤ k && k < 0x281)

/-- The floors of R447: program and erase, and with the VPP_FUSE window the burns. -/
def State.nvOk (s : State) : Bool := s.bit pgSUPV Reg.SUPV_STAT_NV_OK
def State.fuseOk (s : State) : Bool := s.nvOk && s.bit pgSUPV Reg.SUPV_STAT_FUSE_OK

/-- FUSE_PROG_GO (R446): a refused burn answers RESULT 4 REFUSED and records PROG_REFUSED; while BUSY the write is
refused as well (R452, log 162). While the supplies do not hold, no burn starts, and RESULT is free (log 163). -/
def execFuseProgGo (bit : BitVec 16) (s : State) : Out := .next <|
  let refuse := fun (s : State) => (s.setFld pgFUSE Reg.FUSE_PROG_RESULT 4).error pgFUSE Src.fuse_PROG_REFUSED
  if s.bit pgFUSE Reg.FUSE_PROG_BUSY then refuse (s.reject pgFUSE Reg.FUSE_PROG_BIT.off 4)
  else
    let s := s.setFld pgFUSE Reg.FUSE_PROG_BIT bit.toNat
    if !s.bit pgGLB Reg.GLB_STAT_READY || s.bit pgFUSE Reg.FUSE_STAT_PROV_LOCK || !hostBurns bit.toNat then refuse s
    else if !s.fuseOk then s.fresh.2.setFld pgFUSE Reg.FUSE_PROG_RESULT (s.fresh.1 % 8)
    else { s with sec := { s.sec with burn := some bit.toNat, burnCut := false } }.setBit pgFUSE Reg.FUSE_PROG_BUSY true

/-! ## Measurements and quotes -/

/-- SEC_EXTEND_GO (R437). -/
def execSecExtendGo (s : State) : Out :=
  .next (s.measure 3 6 ((List.range 4).flatMap fun w => leBytes 8 (s.fld pgSEC (Reg.SEC_EXTEND_DATA_DATA w))) 0 0)

/-- Bytes of a run of 8 B registers of the SEC page. -/
def State.secBytes (s : State) (f : Nat → Fld) (n : Nat) : List Byte :=
  ((List.range ((n + 7) / 8)).flatMap fun w => leBytes 8 (s.fld pgSEC (f w))).take n


/-- An LMS H15/W4 signature as RFC 8554 lays it out (R433, R441); its hash values are free (log 160). -/
def lmsSignature (key leaf : Nat) (msg : List Byte) : List Byte :=
  let x := Config.lmsSig key leaf (leNat msg)
  beBytes 4 leaf ++ beBytes 4 3 ++ leBytes 2176 x ++ beBytes 4 7 ++ leBytes 480 (x / 2 ^ (8 * 2176))

/-- The quote (R441): body, and the HSS signature, which is zero when the host signs (R443). -/
def State.quoteBytes (s : State) (index : Nat) : List Byte :=
  let hostSigned := s.assist pgSEC
  let bootIndex := if hostSigned then 0xFFFF else s.fld pgSEC Reg.SEC_BOOT_BOOT_INDEX
  let body :=
    leBytes 4 0x544F5551 ++ leBytes 2 1 ++
      leBytes 2 ((if hostSigned then 1 else 0) + (if s.bit pgGLB Reg.GLB_STAT_ATTEST_EXHAUSTED then 2 else 0)) ++
      leBytes 8 (s.fld pgGLB Reg.GLB_SERIAL_SERIAL) ++ s.secBytes Reg.SEC_NONCE_DATA 32 ++ leBytes 8 s.beat ++
      leBytes 4 bootIndex ++ leBytes 4 (if hostSigned then 2 ^ 32 - 1 else index) ++
      leBytes 4 (s.fld pgSEC Reg.SEC_BOOT_WARM) ++ leBytes 4 (s.fld pgFUSE Reg.FUSE_STAT_SVN) ++
      leBytes 4 (s.fld pgGLB Reg.GLB_PART_FW_VERSION) ++ leBytes 4 ((s.rd pgGLB 0x108).toNat % 2 ^ 32) ++
      leBytes 8 (s.fld pgSEC Reg.SEC_LOG_CTL_TOTAL) ++ leBytes 40 0 ++
      (List.range 4).flatMap fun m => s.measurement m
  let pub := s.secBytes Reg.SEC_BT_PUB_DATA 56
  body ++ if hostSigned then leBytes 5396 0
    else beBytes 4 1 ++ lmsSignature 0 bootIndex pub ++ pub ++ lmsSignature (leNat pub) index body

/-- Write the quote in progress, unless the device is in the safe state (R440). -/
def State.sendQuote (s : State) : State :=
  match s.sec.quote with
  | none => s
  | some q =>
    if q.sent || s.bit pgGLB Reg.GLB_STAT_SAFE then s
    else
      let a := s.fld pgSEC Reg.SEC_QUOTE_ADDR_ADDR * 64
      let n := (q.body.length + 63) / 64
      let s := { s with sec := { s.sec with quote := some { q with sent := true, left := n } } }
      (List.range n).foldl (fun (s : State) i => s.issueHost .itoMWr (a + 64 * i) (slice q.body (64 * i) 64) .quote) s

/-- The end of a quote: STATUS, DONE and INT_STAT.BLK bit 3 QUOTE. -/
def State.endQuote (s : State) (status : Nat) : State :=
  let s := { s with sec := { s.sec with quote := none } }
  let s := (s.setFld pgSEC Reg.SEC_QUOTE_CTL_STATUS status).setBit pgSEC Reg.SEC_QUOTE_CTL_BUSY false
  (s.setBit pgSEC Reg.SEC_QUOTE_CTL_DONE true).raise pgSEC 3

/-- SEC_QUOTE_GO (R440): refused with cause 4 while BUSY; after 32,768 quotes of a boot it ends with 1 EXHAUSTED
(R442). A quote that the host signs has no limit and takes no leaf (R443, log 161). -/
def execSecQuoteGo (s : State) : Out := .next <|
  let count := s.fld pgSEC Reg.SEC_QUOTE_CTL_COUNT
  if s.bit pgSEC Reg.SEC_QUOTE_CTL_BUSY then s.reject pgSEC Reg.SEC_QUOTE_CTL_GO.off 4
  else if !s.assist pgSEC && 32768 ≤ count then (s.endQuote 1).error pgSEC Src.sec_QUOTE_EXHAUSTED
  else
    let q : Quote := { body := s.quoteBytes count }
    let s := if s.assist pgSEC then s else s.setFld pgSEC Reg.SEC_QUOTE_CTL_COUNT (count + 1)
    let s := { s with sec := { s.sec with quote := some q } }
    ((s.setBit pgSEC Reg.SEC_QUOTE_CTL_BUSY true).setBit pgSEC Reg.SEC_QUOTE_CTL_DONE false).sendQuote

/-- A line of the quote is answered: a refused one ends it with 2 WRITE_ERR. -/
def State.quoteAnswer (s : State) (ok : Bool) : State :=
  match s.sec.quote with
  | none => s
  | some q => if ok then { s with sec := { s.sec with quote := some { q with left := q.left - 1 } } } else s.endQuote 2

/-- QUOTE_DONE (R440): every line is acknowledged, or the quote cannot be written. -/
def execQuoteDone (ok : Bool) (s : State) : Out := .next <|
  match s.sec.quote with
  | none => s
  | some q => if !q.sent then s else if !ok then s.endQuote 2 else if q.left = 0 then s.endQuote 0 else s

/-- The entropy source fails a health test; the fourth failure of a boot is recorded (R444). -/
def execTrngHealthFail (s : State) : Out := .next <|
  let s := { s with sec := { s.sec with trng := s.sec.trng + 1 } }
  if 4 ≤ s.sec.trng then s.error pgSEC Src.sec_TRNG_FAIL else s

/-! ## Flash -/

/-- Data registers of the XSPI page, as bytes. -/
def State.xspiBytes (s : State) (n : Nat) : List Byte :=
  ((List.range 32).flatMap fun w => leBytes 8 (s.fld pgXSPI (Reg.XSPI_DATA_DATA w))).take n

/-- XSPI_CMD_GO: a write of XSPI_CMD with GO set (R450, R452). A command with NV set runs only under the floors. -/
def execXspiCmdGo (v : Word) (s : State) : Out := .next <|
  let len := bitsOf v.toNat 26 18
  if s.bit pgXSPI Reg.XSPI_CMD_BUSY || 256 < len then s.reject pgXSPI Reg.XSPI_CMD_GO.off 4
  else
    let s := s.setFld pgXSPI ⟨0x108, 26, 0⟩ (bitsOf v.toNat 26 0)
    if !s.enabled pgXSPI then s.disabledReq pgXSPI
    else if s.bit pgXSPI Reg.XSPI_CMD_NV && !s.nvOk then s.setFld pgXSPI Reg.XSPI_CMD_RESULT 2
    else
      let data := if s.bit pgXSPI Reg.XSPI_CMD_WRITE then s.xspiBytes len else []
      let s := { s with pins := { s.pins with xspi := true } }.setBit pgXSPI Reg.XSPI_CMD_BUSY true
      s.emit (.flash (s.fld pgXSPI Reg.XSPI_CMD_OPCODE) (s.fld pgXSPI Reg.XSPI_ADDR_ADDR) data)

/-- The running flash command ends with a RESULT. -/
def State.endFlash (s : State) (result : Nat) : State :=
  (s.setBit pgXSPI Reg.XSPI_CMD_BUSY false).setFld pgXSPI Reg.XSPI_CMD_RESULT result

/-- XSPI_CMD_DONE: a read leaves its LEN bytes in the data registers. -/
def execXspiCmdDone (data : List Byte) (s : State) : Out := .next <|
  if !s.bit pgXSPI Reg.XSPI_CMD_BUSY then s
  else
    let len := s.fld pgXSPI Reg.XSPI_CMD_LEN
    let s := if s.bit pgXSPI Reg.XSPI_CMD_WRITE then s
      else
        let bs := data.take len ++ (s.xspiBytes 256).drop (min len data.length)
        (List.range 32).foldl (fun (s : State) w =>
          s.setFld pgXSPI (Reg.XSPI_DATA_DATA w) (leNat (slice bs (8 * w) 8))) s
    s.endFlash 0

/-- XSPI_TIMEOUT (R453). -/
def execXspiTimeout (s : State) : Out := .next <|
  if s.bit pgXSPI Reg.XSPI_CMD_BUSY then (s.endFlash 3).error pgXSPI Src.xspi_TIMEOUT else s

end Sys2Proof.Machine
end

