-- ==== Sys2Proof/Machine/Fast.lean ====
section
/-!
DEFINITION. Fast-path lookups (R399, R400), and the host's answers to CXL.cache requests (R384).
-/

namespace Sys2Proof.Machine

open Sys2Proof

/-- The global mask of a set (R404). -/
def State.fastMask (s : State) (g : Nat) : Nat :=
  (List.range 4).foldl (fun m w => m + s.fld pgFAST (Reg.FAST_GMASK_MASK (4 * g + w)) * 2 ^ (64 * w)) 0

/-- RESULT of a lookup, 0 when the Carillon serves it (Table LINK-8, R405; log 153 for the order). -/
def State.fastResult (s : State) (tid : Nat) : Nat :=
  if s.link.fastBad || !s.powered pgCAR || s.fld pgCAR Reg.CAR_STAT_PORTS_UP = 0 then 4
  else match s.table tid with
    | none => 1
    | some t => if !t.latEn then 2 else if s.assist pgCAR then 3 else 0

/-- Write a response line (R400). -/
def State.fastRespond (s : State) (k : Nat) (tag result data status beat fcycles : Nat) : State :=
  let seq := kget (fun _ => 0) s.link.fastSeq k + 1
  let s := { s with link := { s.link with fastSeq := kset (fun _ => 0) s.link.fastSeq k seq } }
  let s := s.addWrap pgFAST Reg.FAST_STAT_LOOKUPS 1
  let n := min fcycles 255
  let s := s.setFld pgFAST Reg.FAST_LAT_LAST n
  let s := s.setFld pgFAST Reg.FAST_LAT_MIN (min n (s.fld pgFAST Reg.FAST_LAT_MIN))
  let s := s.setFld pgFAST Reg.FAST_LAT_MAX (max n (s.fld pgFAST Reg.FAST_LAT_MAX))
  let line := leBytes 8 data ++ leBytes 8 status ++ leBytes 4 tag ++ leBytes 4 result ++ leBytes 8 seq ++
    leBytes 8 beat ++ leBytes 24 0
  s.issueHost .itoMWr (s.fld pgFAST Reg.FAST_RESP_ADDR * 4096 + 64 * k) line (.fastResp k)

/-- FAST_LOOKUP (R399): a write of `data` at an offset of slot k's page. DATA and STATUS of a lookup without an answer
are free (log 153). -/
def execFastLookup (k : Fin 64) (off : Fin 4096) (data : List Byte) (parityBad : Bool) (fcycles : Nat) (s : State) :
    Out := .next <|
  let drop := fun (s : State) => s.addSat pgFAST Reg.FAST_STAT_DROPPED 1
  let held := ((s.link.reqs ++ s.link.held).filter fun r => r.src == .fastResp k).length
  if off.val != 0 || data.length != 64 then s.error pgFAST Src.fast_REQ_MALFORMED
  else if !s.enabled pgFAST then drop (s.disabledReq pgFAST)
  else if s.bit pgGLB Reg.GLB_STAT_SAFE then drop s
  else if 4 ≤ held then drop (s.error pgFAST Src.fast_SLOT_OVERRUN)
  else
    let tid := bytesAt data 0x20 1 % 32
    let tag := bytesAt data 0x28 4
    let result := s.fastResult tid
    match s.table tid with
    | some t =>
      if result = 0 || result = 3 then
        let q : SearchReq := { key := bytesAt data 0 32, gmask := s.fastMask (bytesAt data 0x20 1 / 32 % 4)
                               bellset := bytesAt data 0x24 4, maxlen := bytesAt data 0x22 2 % 512, cursor := 0 }
        let r := (s.perf pgCAR 0x101 1).search tid t t.latReplica q parityBad
        r.1.fastRespond k tag result r.2.data r.2.status s.beat fcycles
      else s.fresh.2.fastRespond k tag result (s.fresh.1 % 2 ^ 64) (s.fresh.1 / 2 ^ 64 % 2 ^ 64) 0 fcycles
    | none => s.fresh.2.fastRespond k tag result (s.fresh.1 % 2 ^ 64) (s.fresh.1 / 2 ^ 64 % 2 ^ 64) 0 fcycles

/-- FAST_LAT_CLEAR (R404). -/
def execFastLatClear (s : State) : Out :=
  .next ((s.setFld pgFAST Reg.FAST_LAT_MIN 0xFF).setFld pgFAST Reg.FAST_LAT_MAX 0)

/-! ## Answers of the host -/

/-- A write of a batch's slot or flags is acknowledged (R312). -/
def State.batchAcked (s : State) (n seq : Nat) : State :=
  match s.queue n with
  | none => s
  | some q =>
    match q.batches.find? fun (b : Batch) => b.seq == seq with
    | none => s
    | some b =>
      if b.phase != 1 || b.unacked = 0 then s
      else
        let b := { b with unacked := b.unacked - 1, phase := if b.unacked = 1 then 2 else 1 }
        s.setQueue n (some (q.setBatch b))

/-- A refused slot, flag or COMMIT write (Table BATQ-11): the batch is produced again. A batch whose COMMIT was refused
is open again. -/
def State.batchRefused (s : State) (n : Nat) (commit : Bool) : State :=
  match s.queue n with
  | none => s
  | some q =>
    let s := s.error pgBATQ Src.batq_RING_WRITE_ERR
    let s := match commit, q.commitOut with
      | true, some b =>
        (s.setQueue n (some { q with batches := b :: q.batches, commitOut := none })).setFld pgBATQ
          (Reg.BATQ_Q_PROD_SEQ n) b.seq
      | _, _ => s
    s.regenerate q.slot

/-- The COMMIT of a batch is acknowledged (R312). -/
def State.commitAcked (s : State) (n : Nat) : State :=
  match s.queue n with
  | none => s
  | some q => (s.setQueue n (some { q with commitOut := none })).dropChunks q.slot

/-- A line taken with RdOwn enters the coherent cache of 4,096 lines (R381); a full one gives back its lowest line
(log 155). -/
def State.cacheFill (s : State) (l : Nat) (bs : List Byte) : State :=
  let s := match s.link.cache with
    | (k, some old) :: rest =>
      if 4096 ≤ s.link.cache.length && (s.cacheLine l).isNone then
        { s with link := { s.link with cache := rest } }.issueHost .dirtyEvict (64 * k) old (.evict k)
      else s
    | _ => s
  { s with link := { s.link with cache := kset (fun _ => none) s.link.cache l (some bs) } }

/-- A combine to host memory is refused (R97). -/
def State.combineRefused (s : State) (tile slot : Nat) : State :=
  match (s.tile tile).slot slot with
  | none => s
  | some _ => ((s.endStrm tile slot 2 4).error (pgTILE tile) Src.tile_STRM_WRITE_ERR).strmSettle tile

/-- CXL_CACHE_RESPONSE (R384): the answer goes to the unit that issued the request. One for a request that is not
outstanding changes nothing. -/
def execCxlCacheResponse (id : Nat) (resp : HostResp) (s : State) : Out := .next <|
  match s.link.reqs.find? fun (r : HostReq) => r.id == id with
  | none => s
  | some r =>
    let ok := resp != .refused
    let take := { s with link := { s.link with reqs := s.link.reqs.filter fun q => q.id != id } }
    match r.src with
    | .completion n => if ok then take.cplAcked n else take.cplFailed n
    | .headWb n =>
      if ok then take
      else (take.setBit pgFSCH (Reg.FSCH_R_CFG_EN n) false).error pgFSCH Src.fsch_HEAD_WB_ERR
    | .batchSlot n seq => if ok then take.batchAcked n seq else take.batchRefused n false
    | .batchCommit n _ => if ok then take.commitAcked n else take.batchRefused n true
    | .fastResp _ => if ok then take else take.error pgFAST Src.fast_RESP_WRITE_ERR
    | .quote => take.quoteAnswer ok
    | .combine l tile slot =>
      (match resp with
      | .data bs false => if bs.length = 64 then take.cacheFill l bs else take.combineRefused tile slot
      | _ => take.combineRefused tile slot)
    | .bias _ _ => s
    | _ => take

end Sys2Proof.Machine
end

