-- ==== Sys2Proof/Machine/Detect.lean ====
section
/-!
DEFINITION. Detection of errors (R45, R406 to R409): sources that a page defines, what a detection changes beyond its
record, the reactions that the blocks' chapters state, the part that a forced source names; the safe state's end (R410).
-/

namespace Sys2Proof.Machine

open Sys2Proof

/-- The page's block defines the source (R45). -/
def definesSource (page src : Nat) : Bool :=
  (blockOf page).isSome && (30 ≤ src || (pageSources page).any fun p => p.1 == src)

/-- A delay-list entry is lost (Table FLOW-8). -/
def State.loseDelay (s : State) (p seq : Nat) : State :=
  match s.fsch.delay.find? fun (e : DelayEnt) => e.slot == p && e.seq == seq with
  | none => s
  | some e =>
    let s := { s with fsch := { s.fsch with delay := s.fsch.delay.filter fun x => x != e } }
    let s := s.setFld pgFSCH Reg.FSCH_LOST_FLOW ((s.slot p).alloc.flowBase + s.localFlow p e.ev)
    (s.setFld pgFSCH Reg.FSCH_LOST_SLOT p).addSat pgFSCH Reg.FSCH_LOST_COUNT 1

/-- Word ECC registers of TILE_TM_ECC and OWN_ECC: corrected count, offset of the last word, whether it was lost. -/
def State.noteEcc (s : State) (page : Nat) (cnt addr last : Fld) (arg : Nat) (unc : Bool) : State :=
  let s := if unc then s else s.addSat page cnt 1
  (s.setFld page addr arg).setBit page last unc

/-- A record of the measurement log that fails (R438): KIND reads 0xFF; its other bytes are free. -/
def State.spoilRecord (s : State) (k : Nat) : State :=
  let bs := leBytes 64 s.fresh.1
  let bad := bs.take 41 ++ [0xFF] ++ bs.drop 42
  { s.fresh.2 with sec := { s.sec with log := s.sec.log.zipIdx.map fun q => if q.2 = k then bad else q.1 } }

/-- The boot tree is discarded (R443). -/
def State.dropTree (s : State) : State :=
  (s.setBit pgSEC Reg.SEC_BOOT_TREE false).setBit pgSEC Reg.BLK_CTRL_MODE true

/-- Data and counters that a detection changes besides its record; `arg` says where it struck: a word offset, a plan
slot (with 16 × the arrival number or sequence of an event, doubled for the pool, odd for a delay list), a module, a
PLL, an entry, a stream slot. A forced source alters none of it (R409). -/
def State.detectEffect (s : State) (page src arg : Nat) : State :=
  match blockOf page with
  | some .tile =>
    if src = Src.tile_TM_CORR || src = Src.tile_TM_UNCORR then
      s.noteEcc page Reg.TILE_TM_ECC_CORRECTED Reg.TILE_TM_ECC_LAST_ADDR Reg.TILE_TM_ECC_LAST_UNCORR arg
        (src == Src.tile_TM_UNCORR)
    else if src = Src.tile_STRM_INTERNAL then s.endStrm (instanceOf page) (arg % 8) 2 7
    else s
  | some .own =>
    if src = Src.own_TABLE_CORR || src = Src.own_TABLE_UNCORR then
      s.noteEcc page Reg.OWN_ECC_CORRECTED Reg.OWN_ECC_LAST_ADDR Reg.OWN_ECC_LAST_UNCORR arg (src == Src.own_TABLE_UNCORR)
    else s
  | some .noc => if src = Src.noc_LINK_CORR then s.addSat page Reg.NOC_STAT_LINK_CORR 1 else s
  | some .stw =>
    if src = Src.stw_L2_CORR then s.addSat page Reg.STW_ECC_L2_CORR 1
    else if src = Src.stw_L3_CORR then s.addSat page Reg.STW_ECC_L3_CORR 1 else s
  | some .clk =>
    if src = Src.clk_AUX_UNLOCK then
      let f := if arg < 4 then Reg.CLK_STAT_HBM_LOCK else Reg.CLK_STAT_UCIE_LOCK
      let n := if arg < 4 then arg else (arg - 4) % 3
      s.setFld page f (s.fld page f - bitsOf (s.fld page f) n n * 2 ^ n)
    else s
  | some .fsch =>
    if src = Src.fsch_EVENT_LOST then
      (if arg % 2 = 0 then s.loseEvent (arg / 2 % 16) (arg / 32) else s.loseDelay (arg / 2 % 16) (arg / 32))
    else s
  | some .ulnk =>
    if src = Src.ulnk_BIAS_UNCORR then { s with mem := { s.mem with deviceBias := [] } }
    else if src = Src.ulnk_ATC_PARITY then s.setAtc (s.link.atc.eraseIdx arg)
    else if src = Src.ulnk_CACHE_UNCORR then
      let s := { s with link := { s.link with cache := kset (fun _ => none) s.link.cache (arg / 512) none } }
      s.combineRefused (arg % 64) (arg / 64 % 8)
    else s
  | some .sec =>
    if src = Src.sec_SRAM_UNCORR then (if arg < 2048 then s.spoilRecord arg else s.dropTree) else s
  | some .sbnd =>
    if src = Src.sbnd_SB_FAIL then
      let up := s.fld page Reg.SBND_STAT_UP
      s.setFld page Reg.SBND_STAT_UP (up - bitsOf up (arg % 12) (arg % 12) * 2 ^ (arg % 12))
    else s
  | some .plan =>
    if src = Src.plan_CLAIM_OVERRUN && 2 ≤ s.slotState (arg % 16) then s.failPlan (arg % 16) 38 else s
  | _ => s

/-- Tables with LIFETIME 1 of a plan whose declaring stage is to run again, where a share of theirs is lost (R201). -/
def State.rebuildTables (s : State) (p : Nat) (lost : JTab → Bool) : State :=
  (List.range 16).foldl (fun (s : State) h =>
    match s.jtab p h with
    | some t => if t.f 1 6 1 = 1 && lost t then s.rebuildStage p t.op.stage else s
    | none => s) s

/-- Regenerate every resident plan that satisfies a test. -/
def State.regenerateIf (s : State) (which : State → Nat → Bool) : State :=
  (List.range 16).foldl (fun (s : State) p => if s.slotState p != 0 && which s p then s.regenerate p else s) s

/-- Reactions that the chapters state. At 1 LOG a chunk is regenerated where its data are lost (R317, R407); from 2
DEGRADE up recovery does so. The lookup path fails until recovery (R405); the master's corrections stop (R341). -/
def State.react (s : State) (page src sev arg : Nat) : State :=
  let n := instanceOf page
  match blockOf page with
  | some .time => if src = Src.time_MASTER_UNCORR then { s with beatHold := true } else s
  | some .fast => if src = Src.fast_INTERNAL && 1 ≤ sev then { s with link := { s.link with fastBad := true } } else s
  | some .tile =>
    if sev = 1 && (src = Src.tile_TM_UNCORR || src = Src.tile_PROBE_POISON) then
      match s.slotOfTile n with
      | some p => (s.regenerate p).rebuildTables p fun t => t.owners.contains n && (t.f 1 0 2 == 0 || src == Src.tile_PROBE_POISON)
      | none => s
    else s
  | some .dec =>
    if sev = 1 && src = Src.dec_HIST_UNCORR then s.regenerateIf fun s p => s.decs.any fun d => d.slot == p && d.dec == n && d.live
    else s
  | some .cmp =>
    if sev = 1 && src = Src.cmp_BUF_UNCORR then s.regenerateIf fun s p => (s.slot p).alloc.tiles.any fun t => t / 4 == n
    else s
  | some .batq =>
    if sev = 1 && (src = Src.batq_STATE_UNCORR || src = Src.batq_RING_WRITE_ERR) then
      match s.queue (arg % 64) with
      | some q => s.regenerate q.slot
      | none => s
    else s
  | _ => s

/-- A detection, or a forced source (R45, R409). -/
def State.detect (s : State) (page src : Nat) (forced : Bool) (arg : Nat) : State :=
  let sev := s.severity page src
  let s := if forced then s else s.detectEffect page src arg
  (s.recordError page src forced arg).react page src sev arg

/-- The part that a forced source names beyond its page (R409, Table FLT-3): a register says which, or it is free. -/
def State.forcedArg (s : State) (page src : Nat) : Nat × State :=
  match blockOf page with
  | some .hmc => (s.fld page Reg.HMC_ECC_LAST_CH, s)
  | some .stor => (s.fld page Reg.STOR_ECC_LAST_BANK / 128, s)
  | some .time => if src = Src.time_BEAT_MISMATCH then (s.fld page Reg.TIME_REPL_LAST_PAGE, s) else s.fresh
  | some .plan =>
    if src = Src.plan_GONG_TIMEOUT then
      (s.fld page Reg.PLAN_GONG_MISS_TILES + s.fld page Reg.PLAN_GONG_WHERE_STW * 2 ^ 64, s)
    else (s.fresh.1 % 16, s.fresh.2)
  | some .pwr => (s.fresh.1 % 20, s.fresh.2)
  | some .clk => (s.fresh.1 % 7, s.fresh.2)
  | some _ => s.fresh
  | none => (0, s)

/-- ERROR_DETECTED: a block detects a source. A page without power records nothing (R46); one with ENABLE = 0 holds no
work in which a source of its own could arise (R409). -/
def execErrorDetected (page : Fin 512) (src : Fin 32) (arg : Nat) (s : State) : Out :=
  if !definesSource page src then .fault .noSuchUnit
  else if !s.powered page || (!s.enabled page && src.val < 30) then .next s
  else .next (s.detect page src false arg)

/-! ## The safe state -/

/-- Completion of the safe state (R410): every slot in 3 RUNNING or 4 STOPPING moves to 6 HELD. -/
def State.completeSafe (s : State) : State :=
  if s.flt.complete || !s.bit pgGLB Reg.GLB_STAT_SAFE then s
  else
    let s := { s with flt := { s.flt with complete := true } }
    let s := (List.range 16).foldl (fun (s : State) p =>
      let st := s.slotState p
      if st = 3 || st = 4 then
        { s with flt := { s.flt with prev := kset (fun _ => 0) s.flt.prev p st } }.setSlotState p 6
      else s) s
    s.raise pgGLB 3
def execSafeStateComplete (s : State) : Out := .next s.completeSafe

end Sys2Proof.Machine
end

