-- ==== Sys2Proof/Machine/Plan.lean ====
section
/-!
DEFINITION. The commands that manage plan slots (R63, R64, R69, R220): PLAN_START, PLAN_STOP, PLAN_ABORT, PLAN_UNLOAD,
PLAN_SET_PARAM.
-/

namespace Sys2Proof.Machine

open Sys2Proof

/-- A command on a plan slot (R63): 32 STATE_CONFLICT outside the states in which it is valid; while the PLAN block is
disabled no plan is resident, and the request is answered with that error too (R42). -/
def State.slotCommand (s : State) (ring code : Nat) (slotOf : Cmd → Nat) (valid : List Nat)
    (f : State → Cmd → Nat → State) : State :=
  s.command ring code fun s c =>
    let p := slotOf c
    if !s.enabled pgPLAN then (s.disabledReq pgPLAN).complete ring 32 p 0 0
    else if !valid.contains (s.slotState p) then s.complete ring 32 p 0 0
    else f s c p

/-- Slot that PLAN_START, PLAN_STOP, PLAN_ABORT and PLAN_UNLOAD name. -/
def slotOfOp1 (c : Cmd) : Nat := opSlot c.op1

/-! ## PLAN_START -/

/-- The records of a table's initial load (Table CAR-2): from the constants, a store memory region or an HBM region. -/
def State.initialRecords (s : State) (p : Nat) (c : List Byte) : Option (List Byte) :=
  let kind := cfgField c (0x14, 0, 2)
  let off := bytesAt c 0x18 8
  let n := 128 * bytesAt c 0x20 4
  let a := (s.slot p).alloc
  let region := ((if kind = 2 then a.store else a.hbm).find? fun r => r.id == cfgField c (0x14, 4, 4)).map Region.base
  if kind = 1 then some (slice (s.image p) ((s.image p).constOff + off) n)
  else region.bind fun b =>
    let r := s.readMem (b + off) n
    if r.2 then none else some r.1

/-- The initial loads of a plan's tables into set A, by the rules of CAR_LOAD (R220). -/
def State.initialLoads (s : State) (p : Nat) : State :=
  (s.image p).tableOps.foldl (fun (s : State) o =>
    let c := (s.image p).cfg o
    let tid := (s.image p).bellArg + cfgField c (0, 0, 4)
    match s.table tid with
    | none => s
    | some t =>
      let n := bytesAt c 0x20 4
      if cfgField c (0x14, 0, 2) = 0 || t.fill * t.bells < n then s
      else match s.initialRecords p c with
        | none => s
        | some bs => let q := goodRecs t.kind (cutRecs n bs); s.startLoad tid t none 0 q.1 q.2) s

/-- S0 of a real-time plan at a start (R340). -/
def State.cadenceStart (s : State) (p : Nat) : State :=
  match (s.image p).cadence with
  | none => s
  | some (_, prm, period) =>
    let x := s.slot p
    let v := (x.params.getD prm 0).toNat
    let s0 := if v = 0 then (s.beat + 256 + period - 1) / max period 1 * period else v
    (s.setSlot p { x with s0 := s0, cadChunk := x.next, cued := [] }).postCadence p

/-- PLAN_START: the slot runs from the oldest chunk whose batches are not all committed (R63). -/
def execPlanStart (ring : Fin 16) (s : State) : Out := .next <|
  s.slotCommand ring 0x11 slotOfOp1 [2] fun s _ p =>
    let s := (s.rewind p).restartBatches p
    let x := s.slot p
    let s := (s.setSlot p { x with tablesLoaded := true }).setSlotState p 3
    let s := if x.tablesLoaded then s else s.initialLoads p
    let s := x.alloc.aligns.foldl (fun (s : State) n =>
      match s.group n with
      | some g => s.setGroup n { g with streams := g.streams.map fun a => if a.seen then a else { a with lastBeat := s.beat } }
      | none => s) s
    (s.cadenceStart p).complete ring 0 p 0 0

/-! ## PLAN_STOP and PLAN_ABORT -/

/-- PLAN_STOP: aligned events are released and the chunk that fills closes (R332, R339); chunks in progress complete. -/
def execPlanStop (ring : Fin 16) (s : State) : Out := .next <|
  s.slotCommand ring 0x12 slotOfOp1 [3] fun s c p =>
    let s := s.setBusy ring
    let s := s.setSlot p { s.slot p with stopWaits := (s.slot p).stopWaits ++ [(ring.val, c.tag)] }
    let s := s.setSlotState p 4
    let s := if (s.image p).events.isSome then (s.releaseAllAligned p).closeChunk p else s
    s.settleStop p

/-- PLAN_ABORT: every participant abandons its work; a waiting PLAN_STOP completes with it (R63, R64, R337). -/
def execPlanAbort (ring : Fin 16) (s : State) : Out := .next <|
  s.slotCommand ring 0x13 slotOfOp1 [3, 4, 7] fun s _ p =>
    let s := (s.rewind p).restartBatches p
    let stops := (s.slot p).stopWaits
    let s := s.setSlot p { s.slot p with stopWaits := [] }
    let s := if s.slotState p = 7 then s else s.setSlotState p 2
    let s := stops.foldl (fun (s : State) w => s.complete w.1 0 p 0 0) s
    s.complete ring 0 p 0 0

/-! ## PLAN_UNLOAD -/

/-- Commands that wait for a slot that is unloaded complete without effect (R69, R236, R306). -/
def State.dropWaits (s : State) (p : Nat) : State :=
  let s := (s.slot p).setWaits.foldl (fun (s : State) w => s.complete w.ring 32 p 0 0) s
  let s := match (s.own p).staged with
    | some x => s.complete x.ring 32 p 0 0
    | none => s
  (List.range 32).foldl (fun (s : State) tid =>
    match s.table tid with
    | some t =>
      if t.slot != p then s
      else
        let s := match t.job.bind CarJob.ring with
          | some r => s.complete r 44 p 0 0
          | none => s
        s.setTable tid none
    | none => s) s

/-- What a plan held is empty again: its tiles, bells, tables, queues, events, streams and draws. -/
def State.release (s : State) (p : Nat) : State :=
  let a := (s.slot p).alloc
  let s := a.tiles.foldl (fun (s : State) t => s.setTile t {}) s
  let s := a.bells.foldl (fun (s : State) b => s.setBell b []) s
  let s := a.queues.foldl (fun (s : State) n => s.setQueue n none) s
  let s := a.aligns.foldl (fun (s : State) n =>
    let s := { s with fsch := { s.fsch with groups := kset (fun _ => none) s.fsch.groups n none } }
    (s.wr pgFSCH (Reg.FSCH_G_STAT_ACTIVE n).off 0).setFld pgFSCH (Reg.FSCH_G_WM_WM n) (2 ^ 63)) s
  let s := s.setPool fun l => l.filter fun e => e.slot != p
  let s := { s with
    fsch := { s.fsch with delay := s.fsch.delay.filter (fun e => e.slot != p)
                          posts := s.fsch.posts.filter (fun c => c.slot != p) }
    owns := kdel s.owns p
    shares := s.shares.filter fun q => q.1 / 1024 != p
    probeUnits := s.probeUnits.filter fun q => !a.tiles.contains q.1
    decs := s.decs.filter fun d => d.slot != p
    cmps := s.cmps.filter fun c => c.slot != p
    draws := s.draws.filter fun d => d.1 != p
    opOuts := s.opOuts.filter fun o => o.slot != p
    augs := s.augs.filter fun w => w.slot != p
    augRows := s.augRows.filter fun (w : Nat × Nat × Nat × List Byte × Bool) => w.1 != p }
  s.setSlot p {}

/-- PLAN_UNLOAD: the unload is measured (R437), every reservation is released, the slot is free. -/
def execPlanUnload (ring : Fin 16) (s : State) : Out := .next <|
  s.slotCommand ring 0x14 slotOfOp1 [2, 5, 7] fun s _ p =>
    let x := s.slot p
    let s := s.measure 2 4 x.digest (s.image p).planId p
    let s := ((s.stopPlan p).dropWaits p).release p
    let s := ((s.setSlotState p 0).setFld pgPLAN (Reg.PLAN_P_STAT_STAGES p) 0).setFld pgPLAN (Reg.PLAN_P_ID_PLAN_ID p) 0
    let s := (s.wr pgFSCH (Reg.FSCH_P_FLOW_BASE p).off 0).wr pgTIME (Reg.TIME_P_CAD_NEXT p).off 0
    s.wakePosts.complete ring 0 p 0 0

/-! ## PLAN_SET_PARAM -/

/-- Words of a mask with their values. -/
def maskedWords (mask : Nat) (bs : List Byte) : List (Nat × Nat) :=
  ((List.range 32).filter fun k => mask / 2 ^ k % 2 = 1).map fun k => (k, bytesAt bs (8 * k) 8)

/-- PLAN_SET_PARAM (R69). -/
def execPlanSetParam (ring : Fin 16) (record : Option (List Word)) (s : State) : Out := .next <|
  s.slotCommand ring 0x15 (fun c => bitsOf c.op2.toNat 11 8) [2, 3, 4] fun s c p =>
    let cueEn := bitsOf c.op2.toNat 0 0 == 1
    let cue := bitsOf c.op2.toNat 5 1
    let host := record.map fun ws => ws.flatMap fun w => leBytes 8 w.toNat
    if cueEn && !s.cueAllowed p cue then s.complete ring 37 p 0 0
    else match s.operandBytes (bitsOf c.op2.toNat 33 33 == 1) c.op0.toNat 256 host with
      | none => s.complete ring 7 p 0 0
      | some bs =>
        let i := s.image p
        let x := s.slot p
        let ws := maskedWords c.op1.toNat bs
        if ws.any fun w => i.nParams ≤ w.1 || !(i.param w.1).inRange w.2 then s.complete ring 33 p 0 0
        else if s.slotState p != 2 && ws.any fun w => (i.param w.1).static_ && (x.params.getD w.1 0).toNat != w.2 then
          s.complete ring 34 p 0 0
        else
          let staged := ws.foldl (fun (m : KMap (Option Word)) w => kset (fun _ => none) m w.1 (some (word w.2))) x.staged
          if cueEn then
            (s.setSlot p { x with staged := staged
                                  setWaits := x.setWaits ++ [{ ring := ring, tag := c.tag, cue := cue }] }).setBusy ring
          else
            let s := (s.setSlot p { x with staged := staged }).applyParams p
            s.complete ring 0 p 0 (s.fld pgPLAN (Reg.PLAN_P_PGEN_GEN p))

end Sys2Proof.Machine
end

