-- ==== Sys2Proof/Machine/Domain.lean ====
section
/-!
DEFINITION. Power domains (R463, R464): what a domain that goes off loses, registers of a domain that comes on (R46);
device memory that reads zero again (R419).
-/

namespace Sys2Proof.Machine

open Sys2Proof

/-- Set PWR_STATE of a domain: 0 ON, 1 OFF, 2 RETAIN, 3 in transition. -/
def State.setDomState (s : State) (d st : Nat) : State :=
  s.wr pgPWR 0x108 (putBits (s.rd pgPWR 0x108) (2 * d + 1) (2 * d) st)

/-- The register pages of a domain (Table RPC-5). -/
def domainPages (d : Nat) : List Nat := (List.range 512).filter fun p => domainOf p == some d

/-- Cells of a tile's memory. -/
def inTile (t : Nat) (k : Nat) : Bool := t * 2 ^ 23 ≤ k && k < (t + 1) * 2 ^ 23
/-- A tile's memory, threads, streams and probe unit are empty. -/
def State.clearTile (s : State) (t : Nat) : State :=
  let s := { s with mem := { s.mem with tile := s.mem.tile.filter fun c => !inTile t c.1 } }
  { s with probeUnits := kdel s.probeUnits t }.setTile t {}

/-- Storage keys of a half of store memory. -/
def inHalf (h : Nat) (k : Nat) : Bool := 2 ^ 40 + h * 2 ^ 31 ≤ k && k < 2 ^ 40 + (h + 1) * 2 ^ 31
/-- Every word of a half reads zero, and none is poisoned. -/
def State.clearHalf (s : State) (h : Nat) : State :=
  { s with mem := { s.mem with dev := s.mem.dev.filter fun c => !inHalf h c.1
                               storePoison := s.mem.storePoison.filter fun w => !inHalf h (8 * w) } }

/-- What a domain loses when it goes off (R463): a quad its tiles' memory and state, the Carillon every entry and
search, a store half its words. -/
def State.domainLoss (s : State) (d : Nat) : State :=
  if d < 16 then (List.range 4).foldl (fun (s : State) i => s.clearTile (4 * d + i)) s
  else if d = 17 then { s with car := { s.car with bells := [], searches := [] } }
  else if 18 ≤ d then s.clearHalf (d - 18) else s

/-- The domain is off: its pages are no longer READY (R46). -/
def State.domainOff (s : State) (d : Nat) : State :=
  let s := (s.setDomState d 1).domainLoss d
  (domainPages d).foldl (fun (s : State) p => s.setBit p Reg.BLK_STAT_READY false) s

/-- Every register of a page starts from its reset value, but ERR_RECOV (R46) and the fence. -/
def State.resetPage (s : State) (page : Nat) : State :=
  let recov := s.fld page Reg.ERR_RECOV_COUNT
  let f := s.fenced page
  let s := { s with regs := s.regs.filter fun p => p.1 / 0x1000 != page
                    staged := s.staged.filter fun p => p.1 / 0x1000 != page }
  (s.setFld page Reg.ERR_RECOV_COUNT recov).setBit page Reg.BLK_STAT_FENCED f

/-- The domain is on: registers from their reset values, READY. The Carillon's ports serve, but fenced ones. -/
def State.domainOn (s : State) (d : Nat) : State :=
  let s := s.setDomState d 0
  let s := (domainPages d).foldl (fun (s : State) p => (s.resetPage p).setBit p Reg.BLK_STAT_READY true) s
  if d = 17 then
    s.setFld pgCAR Reg.CAR_STAT_PORTS_UP
      ((List.range 4).foldl (fun m n => if s.flt.fenced.contains (.port n) then m else m + 2 ^ n) 0)
  else s

/-- Bytes of device memory read zero and carry no poison, over whole rows of 256 B (R357). -/
def State.zeroDev (s : State) (a n : Nat) : State :=
  (List.range ((n + 255) / 256)).foldl (fun (s : State) i =>
    match s.locate (a + 256 * i) with
    | none => s
    | some k =>
      let keep := fun (x : Nat) => !(k ≤ x && x < k + 256)
      { s with mem := { s.mem with dev := s.mem.dev.filter fun c => keep c.1
                                   hbmPoison := s.mem.hbmPoison.filter fun l => keep (64 * l)
                                   storePoison := s.mem.storePoison.filter fun w => keep (8 * w) } }) s

end Sys2Proof.Machine
end

