-- ==== Sys2Proof/Machine/Recov.lean ====
section
/-!
DEFINITION. Recovery: the fence set (R416, Table FLT-3), fences (R364, R368, R386, R417), re-admission and what is
rebuilt (R73, R244, R308, R418, R419), the restart of the plans (R420), GLB_STAT.DOWN and its end (R421),
host-directed recovery (R422).
-/

namespace Sys2Proof.Machine

open Sys2Proof

/-! ## Units and their bits -/

/-- The units that a fence of a unit takes with it (R416). -/
def FUnit.parts : FUnit → List FUnit
  | .quad n => ((List.range 4).map fun i => FUnit.tile (4 * n + i)) ++ [.dec (2 * n), .dec (2 * n + 1), .cmp n]
  | _ => []

/-- The page of a unit; a port, a channel, a half and a module have their block's. -/
def FUnit.home : FUnit → Nat
  | .tile n => pgTILE n
  | .quad n => pgQUAD n
  | .dec n => pgDEC n
  | .cmp n => pgCMP n
  | .port _ => pgCAR
  | .bell n => pgBELL n
  | .stw n => pgSTW n
  | .stack n => pgHMC n
  | .channel n => pgHMC (n / 32)
  | .half _ => pgSTOR
  | .module n => pgULNK (n / 4)
  | .link n => pgULNK n
  | .page n => n

/-- The pages whose BLK_STAT.FENCED a fence sets: none for a part of a block. -/
def FUnit.pages (u : FUnit) : List Nat :=
  match u with
  | .port _ | .channel _ | .half _ | .module _ => []
  | .stack n => [pgHMC n, pgHPHY n]
  | u => u.home :: u.parts.map FUnit.home

/-- The bit of a unit in the DBG_FENCE registers (Table FLT-7): offset of the register, bit. -/
def FUnit.ownBit : FUnit → Option (Nat × Nat)
  | .tile n => some (0x120, n)
  | .quad n => some (0x128, n)
  | .stw n => some (0x128, 16 + n)
  | .port n => some (0x128, 32 + n)
  | .bell n => some (0x130, n)
  | .stack n => some (0x130, 32 + n)
  | .half n => some (0x130, 36 + n)
  | .module n => some (0x130, 38 + n)
  | .link n => some (0x130, 50 + n)
  | .channel n => some (0x138 + 8 * (n / 64), n % 64)
  | .dec n => some (0x148, n)
  | .cmp n => some (0x148, 32 + n)
  | .page _ => none

/-- Every unit that has a bit. -/
def allUnits : List FUnit :=
  (List.range 64).map .tile ++ (List.range 16).map .quad ++ (List.range 16).map .stw ++ (List.range 4).map .port ++
    (List.range 32).map .bell ++ (List.range 4).map .stack ++ (List.range 2).map .half ++ (List.range 12).map .module ++
    (List.range 3).map .link ++ (List.range 128).map .channel ++ (List.range 32).map .dec ++ (List.range 16).map .cmp

/-- The DBG_FENCE registers show a set of units and what earlier recoveries fenced (R427). -/
def State.showFence (s : State) (us : List FUnit) : State :=
  let bits := ((s.flt.fenced ++ us).flatMap fun u => u :: u.parts).filterMap FUnit.ownBit
  ([0x120, 0x128, 0x130, 0x138, 0x140, 0x148] : List Nat).foldl (fun (s : State) off =>
    s.wr pgDBG off (word (((bits.filter fun b => b.1 == off).map Prod.snd).eraseDups.foldl (fun m b => m + 2 ^ b) 0))) s

/-- A unit's bit is set. -/
def State.shown (s : State) (u : FUnit) : Bool :=
  match u.ownBit with
  | some (off, b) => bitsOf (s.rd pgDBG off).toNat b b == 1
  | none => false

/-! ## The fence set -/

/-- How a source is decided (Table FLT-3): fenced, tested, or an image fetched again. -/
inductive Verdict where
  | fenced | tested | refetched
  deriving DecidableEq, Repr

def verdictOf (page src : Nat) : Verdict :=
  let among := fun (l : List Nat) => if l.contains src then Verdict.fenced else .tested
  match blockOf page with
  | some .quad => .fenced
  | some .noc => among [Src.noc_LINK_UNCORR]
  | some .cmp => among [Src.cmp_ECHO_MISMATCH]
  | some .car => among [Src.car_PORT_UNCORR, Src.car_SHADOW_WRITE_ERR]
  | some .bell => among [Src.bell_SCRUB_LOST, Src.bell_ARRAY_UNCORR]
  | some .plan => if src = Src.plan_IMAGE_POISON then .refetched else among [Src.plan_GONG_TIMEOUT]
  | some .time => among [Src.time_BEAT_MISMATCH, Src.time_CUE_NET_ERR]
  | some .hmc => among [Src.hmc_CH_CE_LIMIT, Src.hmc_CH_UE_LIMIT, Src.hmc_CTRL_UNCORR]
  | some .hphy => among [Src.hphy_PHY_UNCORR, Src.hphy_TRAIN_STACK_FAIL]
  | some .stor => among [Src.stor_BANK_FAULT, Src.stor_BIST_FAIL]
  | some .ulnk => among [Src.ulnk_RETRY_LIMIT, Src.ulnk_ADAPTER_UNCORR]
  | some .clk => among [Src.clk_AUX_UNLOCK]
  | some .pwr => among [Src.pwr_SWITCH_FAIL]
  | _ => .tested

/-- A unit that the signals name: the page and source that name it, and whether it is tested. -/
structure Cand where
  unit : FUnit
  page : Nat
  src : Nat
  tested : Bool
  deriving DecidableEq, Repr

/-- Units fenced by a recovery, a boot or link training. -/
def Flt.gone (f : Flt) : List FUnit := f.fenced ++ f.bootFenced

/-- The candidates of the fault's signals, but units fenced before. -/
def Flt.cands (f : Flt) : List Cand :=
  f.signals.flatMap fun q =>
    match verdictOf q.1 q.2.1 with
    | .refetched => []
    | v => ((unitsOf q.1 q.2.1 q.2.2).filter fun u => !covers f.gone u).map fun u =>
        { unit := u, page := q.1, src := q.2.1, tested := v == .tested }

/-- The coherent cache. -/
def Cand.isCache (c : Cand) : Bool := blockOf c.page == some .ulnk && c.src == Src.ulnk_CACHE_UNCORR

/-- Blocks without a bit of their own that a plan can run without (log 170). -/
def fenceable (u : FUnit) : Bool :=
  match u with
  | .page p => match blockOf p with
    | some .sbnd | some .xspi | some .i3c | some .car => true
    | _ => false
  | _ => true

/-- The tests of R416: units to fence, candidates that return to service. A failed test is recorded as TEST_FAIL; that of
a unit that cannot be fenced takes the device down. -/
def State.runTests (s : State) (cs : List Cand) (env : RecovEnv) : State × List FUnit × List Cand :=
  let bad := fun (c : Cand) => c.tested && (if c.isCache then env.cacheBad else env.failing.any fun p => p.val == c.page)
  let failed := cs.filter bad
  let s := (failed.map Cand.page).eraseDups.foldl (fun (s : State) _ => s.error pgDBG Src.dbg_TEST_FAIL) s
  let s := if failed.any Cand.isCache then { s with link := { s.link with combineOff := true } } else s
  let s := if failed.any fun c => !c.isCache && !fenceable c.unit then
      (s.setFld pgDBG Reg.DBG_FLT_SEV 3).goDown else s
  let fences := ((cs.filter fun c => !c.isCache && (!c.tested || bad c)).map Cand.unit).eraseDups
  (s, fences, cs.filter fun c => c.tested && !bad c && !covers fences c.unit)

/-! ## Fencing -/

/-- The half that holds the event pool (R367): the highest unfenced one. -/
def State.poolHalf (s : State) : Nat := if s.bit pgSTOR Reg.STOR_STAT_STORE_FENCED then 0 else 1

/-- Every event of the pool is lost (R368). -/
def State.losePool (s : State) : State :=
  s.fsch.pool.foldl (fun (s : State) e => (s.loseEvent e.slot e.arr).error pgFSCH Src.fsch_EVENT_LOST) s

/-- Fence a unit (R364, R368, R377, R386, R417); one that is fenced already stays so. -/
def State.fenceUnit (s : State) (u : FUnit) : State :=
  if s.fltState != 3 || covers s.flt.gone u then s
  else match u with
  | .module m => s.fenceModule m
  | .link n => s.fenceLink n
  | _ =>
    let s := { s with flt := { s.flt with fenced := s.flt.fenced ++ [u] } }
    let s := u.pages.foldl (fun (s : State) p => s.setBit p Reg.BLK_STAT_FENCED true) s
    let clear := fun (s : State) (page : Nat) (f : Fld) (i : Nat) =>
      s.setFld page f (s.fld page f - bitsOf (s.fld page f) i i * 2 ^ i)
    match u with
    | .quad n => s.domainOff n
    | .port n => clear s pgCAR Reg.CAR_STAT_PORTS_UP n
    | .stw n => s.setFld (pgSTW n) Reg.STW_STAT_STATE 4
    | .stack n => ((clear s pgGLB Reg.GLB_HBM_STACK_OK n).setFld (pgHMC n) Reg.HMC_STAT_CH_UP 0).setBit (pgHPHY n)
        Reg.HPHY_STAT_TRAINED false
    | .channel c => clear s (pgHMC (c / 32)) Reg.HMC_STAT_CH_UP (c % 32)
    | .half h =>
      let pool := s.poolHalf == h
      let s := s.setBit pgSTOR (if h = 0 then Reg.STOR_STAT_BASE_FENCED else Reg.STOR_STAT_STORE_FENCED) true
      if pool then s.losePool else s
    | _ => s

/-! ## Rebuilding -/

/-- A read of the recovery itself, which the write gate does not poison. -/
def State.rawRead (s : State) (a n : Nat) : List Byte × Bool :=
  { s with link := { s.link with gateClosed := false } }.readDev a n

/-- The table of a plan that holds a position among its bells. -/
def State.tableAt (s : State) (p pos : Nat) : Option (Nat × CarTable) :=
  (List.range 32).findSome? fun tid =>
    match s.table tid with
    | some t => if t.slot = p && t.first ≤ pos && pos < t.first + (if t.standby then 2 else 1) * t.replicas * t.bells
        then some (tid, t) else none
    | none => none

/-- The table that holds a position has lost entries. -/
def State.markLost (s : State) (p pos : Nat) : State :=
  match s.tableAt p pos with
  | some (tid, t) => s.setTable tid (some { t with lost := true })
  | none => s

/-- Load the bell at a position of a plan's bells from its shadow copy (R244): a record that reads as poison leaves its
index invalid. With the copy lost as well every index is invalid (R419). -/
def State.reloadBell (s : State) (p pos : Nat) (copyLost : Bool) : State :=
  let a := (s.slot p).alloc
  let b := a.bells.getD pos 0
  let base := ((a.shadow.map Region.base).getD 0) + pos * 2 ^ 21
  if copyLost then (s.setBell b []).markLost p pos
  else
    let rec_ := fun (i : Nat) => s.rawRead (base + 128 * i) 128
    let bell := (List.range bellSize).foldl (fun (m : Bell) i =>
      kset (fun _ => none) m i (if (rec_ i).2 then none else shadowEntry (rec_ i).1)) []
    let s := s.setBell b bell
    if (List.range bellSize).any fun i => (rec_ i).2 then s.markLost p pos else s

/-- Rewrite the shadow copy of the bell at a position (R419). -/
def State.rewriteShadow (s : State) (p pos : Nat) : State :=
  let a := (s.slot p).alloc
  let base := ((a.shadow.map Region.base).getD 0) + pos * 2 ^ 21
  let bell := s.bell (a.bells.getD pos 0)
  (List.range bellSize).foldl (fun (s : State) i => s.writeDev (base + 128 * i) (carRecord (bell.at i)) false) s

/-- A recovery reset of a unit (R416): its registers stay, its internal state goes. Tile memory and bells are arrays
that the test wrote (log 171). -/
def State.recoveryReset (s : State) (u : FUnit) : State :=
  match u with
  | .tile n => s.clearTile n
  | .quad n => (List.range 4).foldl (fun (s : State) i => s.clearTile (4 * n + i)) s
  | .page p =>
    (match blockOf p with
    | some .ulnk => { s with link := { s.link with cache := [] } }
    | some .fast => { s with link := { s.link with fastBad := false } }
    | _ => s)
  | _ => s

/-- What a recovery has found, for re-admission: channels and halves that it fenced, where the event pool goes then,
tiles and bells that returned from a test, whether the images and the owner tables are read again, and for which
plan alone. -/
structure Losses where
  chans : List Nat
  halves : List Nat
  pool : Option (Nat × Nat)
  tiles : List Nat
  bells : List Nat
  images : Bool
  oneImage : List Nat
  owns : Bool
  all : Bool

/-- A region of HBM lost its contents (R364, R419). -/
def Losses.hbm (l : Losses) (r : Region) : Bool :=
  match r.place with
  | 0 => !l.chans.isEmpty
  | 1 => l.chans.any fun c => c / 32 == r.sub
  | _ => l.chans.contains r.sub
/-- A region of store memory lost its contents: its half is fenced, or the event pool moves there (R367, R368). -/
def Losses.store (l : Losses) (r : Region) : Bool :=
  let meets := fun (a b : Nat) => r.base < b && a < r.base + r.size
  (l.halves.any fun h => meets (storeBase + h * halfBytes) (storeBase + (h + 1) * halfBytes)) ||
    (match l.pool with
    | some (a, b) => meets a b
    | none => false)

/-! ## Re-admission -/

/-- Fetch an image again (R73): from device memory, or what the reads of host memory returned. -/
def State.refetch (s : State) (p : Nat) (env : RecovEnv) : Option (List Byte) :=
  let x := s.slot p
  let bs := if x.load.dev then
      let r := s.rawRead x.load.addr.toNat x.load.len
      if r.2 then none else some r.1
    else (env.images.find? fun q => q.1.val == p).map Prod.snd
  bs.bind fun b => if b.length = x.load.len && imageDigest b = x.digest then some b else none

/-- Apply the records of one OWN_WRITE again (R308). -/
def State.reapplyOwn (s : State) (p : Nat) (r : OwnRef) (host : Option (List Byte)) : Option State :=
  let windows := bitsOf r.op1.toNat 38 38 == 1
  let n := bitsOf r.op2.toNat 31 16
  let len := n * if windows then 32 else 16
  let bs := if opDev r.op1 then
      let x := s.rawRead r.op0.toNat len
      if x.2 then none else some x.1
    else host.bind fun b => if b.length = len then some b else none
  bs.bind fun b => (s.ownEdit p (bitsOf r.op1.toNat 37 32) windows (bitsOf r.op2.toNat 15 0) n b).map fun v =>
    let o := s.own p
    s.setOwn p { o with cur := v, prev := some o.cur }

/-- Reload a plan's owner tables and windows (R308); the versions keep their numbers. -/
def State.reloadOwn (s : State) (p : Nat) (env : RecovEnv) : Option State :=
  let o := s.own p
  let given := ((env.owns.find? fun q => q.1.val == p).map Prod.snd).getD []
  let base : OwnVer := s.ownFromImage p
  let s0 := s.setOwn p { o with cur := base, prev := some base }
  (o.refs.zipIdx.foldl (fun (r : Option State) q => r.bind fun s => s.reapplyOwn p q.1 (given.getD q.2 none))
    (some s0)).map fun t =>
      let n := t.own p
      t.setOwn p { n with cur := { n.cur with gen := o.cur.gen }
                          prev := o.prev.bind fun v => n.prev.map fun w => { w with gen := v.gen } }

/-- Place a lost region again. -/
def State.moveRegion (s : State) (p : Nat) (hbm : Bool) (own : List Region) (r : Region) : Option Region :=
  (if hbm then s.fitHbm p own r.place r.sub r.size else s.fitStore p own r.size).map fun b => { r with base := b }

/-- Place the lost regions of a list again, the others staying; `own` is what else the plan holds. -/
def State.moveRegions (s : State) (p : Nat) (hbm : Bool) (lost : Region → Bool) (own : List Region) :
    List Region → Option (List Region)
  | [] => some []
  | r :: rs =>
    (if lost r then s.moveRegion p hbm (own ++ rs.filter fun q => !lost q) r else some r).bind fun q =>
      (s.moveRegions p hbm lost (own ++ [q]) rs).map fun qs => q :: qs

def orCode {α : Type} (o : Option α) (code : Nat) : Except Nat α :=
  match o with
  | some x => .ok x
  | none => .error code

/-- New tiles for the lost ones (R60, R418): a claim by mask cannot be replaced. -/
def State.replaceTiles (s : State) (p : Nat) (a : Alloc) : Except Nat (List Nat) :=
  let kept := a.tiles.filter fun t => !s.fenced (pgTILE t)
  let n := a.tiles.length - kept.length
  if n = 0 then .ok a.tiles
  else match ((s.image p).claimsOf 1).head? with
    | none => .ok a.tiles
    | some (_, c) =>
      if c.flags % 2 = 0 then .error 16
      else match takeTilesOf (fun t => s.tileFree p t && !kept.contains t) { c with amount := n } with
        | some ts => .ok ((List.range 64).filter fun t => kept.contains t || ts.contains t)
        | none => .error 16

/-- Regions of store memory and HBM placed again (R419). -/
def State.replaceRegions (s : State) (p : Nat) (l : Losses) (a : Alloc) : Except Nat Alloc :=
  let keepS := (a.store ++ a.image.toList ++ a.windowMem).filter fun r => !l.store r
  let keepH := (a.hbm ++ a.saveArea.toList ++ a.shadow.toList).filter fun r => !l.hbm r
  (orCode (s.moveRegions p false l.store keepS a.store) 19).bind fun st =>
  (orCode (s.moveRegions p false l.store (keepS ++ st) a.image.toList) 19).bind fun im =>
  (orCode (s.moveRegions p false l.store (keepS ++ st ++ im) a.windowMem) 19).bind fun wm =>
  (orCode (s.moveRegions p true l.hbm keepH a.hbm) 20).bind fun hb =>
  (orCode (s.moveRegions p true l.hbm (keepH ++ hb) a.saveArea.toList) 20).bind fun sa =>
  (orCode (s.moveRegions p true l.hbm (keepH ++ hb ++ sa) a.shadow.toList) 20).map fun sh =>
    { a with store := st, image := im.head?, windowMem := wm, hbm := hb, saveArea := sa.head?, shadow := sh.head? }

/-- Replace fenced units of a list by the lowest free ones, position by position. -/
def replaceUnits (bad free : Nat → Bool) (n : Nat) (l : List Nat) : Option (List Nat) :=
  let kept := l.filter fun u => !bad u
  let pool := (List.range n).filter fun u => free u && !kept.contains u
  if pool.length + kept.length < l.length then none
  else some (l.foldl (fun (q : List Nat × List Nat) u =>
    if bad u then (q.1 ++ [q.2.headD 0], q.2.drop 1) else (q.1 ++ [u], q.2)) ([], pool)).1

/-- Decompressors after re-admission: those of the new placement (R418). -/
def State.replaceDecs (s : State) (p : Nat) (img : Image) (ts : List Nat) (a : Alloc) : Except Nat (List Nat) :=
  if (img.claimsOf 10).isEmpty then .ok a.decs
  else
    let need := decsNeeded img ts
    if need.length != a.decs.length then .error 12
    else if need.all fun d => (a.decs.contains d && !s.fenced (pgDEC d)) || s.decFree p d then .ok need
    else .error 25

/-- The allocation after re-admission, or the reason why the plan fails (R418). -/
def State.reallocate (s : State) (p : Nat) (l : Losses) : Except Nat Alloc :=
  let img := s.image p
  let a := (s.slot p).alloc
  (s.replaceTiles p a).bind fun ts =>
  (s.replaceRegions p l { a with tiles := ts }).bind fun a =>
  (orCode (replaceUnits s.bellFenced (s.bellFree p) 32 a.bells) 21).bind fun bs =>
  (s.replaceDecs p img ts a).bind fun ds =>
  (orCode (replaceUnits (fun n => s.fenced (pgSTW n)) (fun n => s.stwFree p n a.stwShared) 16 a.stws) 28).bind fun ws =>
    let a := { a with bells := bs, decs := ds, stws := ws.mergeSort }
    let packs := img.ops.any fun o => o.cls == 2 && o.code ≥ 0x10 && s.fenced (pgCMP (ts.getD (bytesAt (img.cfg o) 0x12 1) 0 / 4))
    if (packs || s.assistBound img a) && a.stws.isEmpty then .error 14 else .ok a

/-- Contents that the plan cannot rebuild are lost (R419): 50 REGION_LOST. -/
def State.regionLost (s : State) (p : Nat) (l : Losses) : Bool :=
  let a := (s.slot p).alloc
  (a.store.any fun r => l.store r && !r.scratch) || (a.hbm.any fun r => l.hbm r && !r.scratch) ||
    (a.saveArea.any l.hbm && s.decs.any fun d => d.slot == p && !d.checkpoints.isEmpty)

/-- Shares of the plan's hash tables follow their owners' new tiles. -/
def State.moveShares (s : State) (p : Nat) (old new : List Nat) : State :=
  let f := fun (q : Nat × Share) =>
    if q.1 / 1024 = p then (q.1 / 64 * 64 + (match new[old.idxOf (q.1 % 64)]? with
      | some t => t
      | none => q.1 % 64), q.2) else q
  { s with shares := (s.shares.map f).foldl (fun (m : KMap Share) q => kset (fun _ => {}) m q.1 q.2) [] }

/-- What a re-admitted plan's new allocation starts with, and what is rebuilt (R244, R419). -/
def State.rebuild (s : State) (p : Nat) (l : Losses) (a : Alloc) : State :=
  let old := (s.slot p).alloc
  let s := s.setSlot p { s.slot p with alloc := a }
  let s := (old.tiles.filter fun t => !a.tiles.contains t).foldl State.clearTile s
  let s := s.moveShares p old.tiles a.tiles
  let s := (((old.store.zip a.store).filter fun q => l.store q.1) ++ ((old.hbm.zip a.hbm).filter fun q => l.hbm q.1)).foldl
    (fun (s : State) q => s.zeroDev q.2.base q.2.size) s
  let copyLost := old.shadow.any l.hbm
  let moved := fun (pos : Nat) => old.bells.getD pos 32 != a.bells.getD pos 32
  let tested := fun (pos : Nat) => l.bells.contains (a.bells.getD pos 32)
  let s := (List.range a.bells.length).foldl (fun (s : State) pos =>
    if moved pos || tested pos then s.reloadBell p pos copyLost else s) s
  let s := if copyLost then (List.range a.bells.length).foldl (fun (s : State) pos => s.rewriteShadow p pos) s else s
  let s := if old.saveArea.any l.hbm then
      { s with decs := s.decs.map fun d => if d.slot = p then { d with saved := none, restoring := false } else d }
    else s
  s.rebuildTables p fun t =>
    match t.f 1 0 2 with
    | 0 => old.tiles != a.tiles || t.owners.any l.tiles.contains
    | 1 => old.store.any fun r => r.id == t.f 0x18 0 4 && l.store r
    | _ => (old.hbm.any fun r => r.id == t.f 0x18 0 4 && l.hbm r)

/-- The plan is affected (R418). -/
def State.affected (s : State) (p : Nat) (l : Losses) : Bool :=
  let a := (s.slot p).alloc
  l.all || l.images || l.oneImage.contains p || (l.owns && !a.owns.isEmpty) ||
    (a.tiles.any fun t => s.fenced (pgTILE t) || s.fenced (pgCMP (t / 4)) || l.tiles.contains t) || a.bells.any s.bellFenced ||
    a.bells.any l.bells.contains || (a.decs.any fun d => s.fenced (pgDEC d)) || (a.stws.any fun n => s.fenced (pgSTW n)) ||
    (a.store ++ a.image.toList ++ a.windowMem).any l.store || (a.hbm ++ a.saveArea.toList ++ a.shadow.toList).any l.hbm

/-- A plan that recovery gives up. -/
def State.giveUp (s : State) (p code : Nat) : State := (s.stopPlan p).failPlan p code

/-- Re-admit a plan: the state and whether it goes on (R73, R308, R418, R419). -/
def State.readmit (s : State) (p : Nat) (l : Losses) (env : RecovEnv) : State × Bool :=
  match s.reallocate p l with
  | .error c => (s.giveUp p c, false)
  | .ok a =>
    if s.regionLost p l then (s.giveUp p 50, false)
    else
      let old := (s.slot p).alloc
      let need := l.all || l.images || l.oneImage.contains p || old.image.any l.store
      match (if need then s.refetch p env else some (s.image p)) with
      | none => (s.giveUp p 6, false)
      | some img =>
        let s := (s.stopPlan p).rebuild p l a
        let s := if need then (s.setSlot p { s.slot p with image := img }).writeDev ((a.image.map Region.base).getD 0) img false
          else s
        if l.owns && !a.owns.isEmpty then
          match s.reloadOwn p env with
          | some s => (s, true)
          | none => ((s.error pgOWN Src.own_RELOAD_FAIL).giveUp p 7, false)
        else (s, true)

/-- Pages of what a plan holds now and did not hold before (R417 step 6). -/
def newPages (old new : Alloc) : List Nat :=
  let add := fun (a b : List Nat) (f : Nat → Nat) => (b.filter fun x => !a.contains x).map f
  let quads := fun (a : Alloc) => (a.tiles.map (· / 4)).eraseDups
  add old.tiles new.tiles pgTILE ++ add (quads old) (quads new) pgQUAD ++ add (quads old) (quads new) pgCMP ++
    add old.decs new.decs pgDEC ++ add old.bells new.bells pgBELL ++ add old.stws new.stws pgSTW

/-- Re-admit the affected plans in ascending slot order: the state, slots re-admitted and failed, pages newly held. -/
def State.readmitAll (s : State) (l : Losses) (env : RecovEnv) : State × List Nat × List Nat × List Nat :=
  (List.range 16).foldl (fun (q : State × List Nat × List Nat × List Nat) p =>
    let s := q.1
    let st := s.slotState p
    if s.fltState != 3 || !(st == 2 || st == 5 || st == 6) || !s.affected p l then q
    else
      let old := (s.slot p).alloc
      let r := s.readmit p l env
      if r.2 then (r.1, q.2.1 ++ [p], q.2.2.1, q.2.2.2 ++ newPages old (r.1.slot p).alloc)
      else (r.1, q.2.1, q.2.2.1 ++ [p], q.2.2.2)) (s, [], [], [])

/-- The plan in 6 HELD restarts and has its state back (R420); any other re-admitted plan is regenerated (R317). -/
def State.restartPlan (s : State) (p : Nat) (readmitted : Bool) : State :=
  if s.slotState p = 6 then
    let s := s.regenerate p
    if s.slotState p != 6 then s
    else ((s.setSlotState p (kget (fun _ => 3) s.flt.prev p)).postCadence p).settleStop p
  else if readmitted then s.regenerate p else s

/-- Resume (R417 step 5): what waited goes on. -/
def State.resume (s : State) : State :=
  let s := { s with link := { s.link with gateClosed := false }, pins := { s.pins with faultL := true } }
  let s := ((s.setBit pgGLB Reg.GLB_STAT_SAFE false).setBit pgGLB Reg.GLB_STAT_RECOVERING false).setFld pgDBG
    Reg.DBG_FLT_STATE 0
  let s := (s.raise pgGLB 4).releaseHeld
  let s := (List.range 16).foldl (fun (s : State) n => if (s.cplOut n).isNone then s.sendCpl n else s) s
  let s := s.sendQuote
  (List.range 16).foldl (fun (s : State) n => s.settleRing n) s

/-- Channels and halves that serve. -/
def State.servingChans (s : State) : List Nat := (List.range 128).filter s.chanUp
def State.fencedHalves (s : State) : List Nat :=
  (List.range 2).filter fun h => s.bit pgSTOR (if h = 0 then Reg.STOR_STAT_BASE_FENCED else Reg.STOR_STAT_STORE_FENCED)

/-- What the fences of this recovery lost, and what its signals ask to read again. `before` is the state before them. -/
def State.losses (s before : State) (passed : List Cand) : Losses :=
  let names := fun (page src : Nat) => s.flt.signals.any fun q => q.1 == page && q.2.1 == src
  let poolMoved := before.poolHalf != s.poolHalf && s.poolHalf == 0
  let all := s.flt.releasing
  { chans := before.servingChans.filter fun c => !s.chanUp c
    halves := s.fencedHalves.filter fun h => !before.fencedHalves.contains h
    pool := if poolMoved then some (storeBase + halfBytes - 16 * mib2, storeBase + halfBytes) else none
    tiles := passed.filterMap fun c => match c.unit with
      | .tile n => some n
      | _ => none
    bells := passed.filterMap fun c => match c.unit with
      | .bell n => some n
      | _ => none
    images := names pgPLAN Src.plan_TABLE_UNCORR || passed.any (fun c => c.unit == .page pgPLAN)
    oneImage := (s.flt.signals.filter fun q => q.1 == pgPLAN && q.2.1 == Src.plan_IMAGE_POISON).map fun q => q.2.2 % 16
    owns := passed.any (fun c => c.unit == .page pgOWN) || s.flt.fatal.contains pgOWN
    all := all }

/-- Recovery (R417): fences, re-admission, rebuilding, regeneration, resumption, counts. An error that ends in DOWN, or
that sends the device back into a quiet period, ends it early. -/
def State.recover (s : State) (fences : List FUnit) (passed : List Cand) (env : RecovEnv) : State :=
  if s.fltState != 3 then s
  else
    let s := { s with pwr := { s.pwr with stopped := false }, beatHold := s.beatHold && !s.flt.releasing }
    let s := s.setBit pgGLB Reg.GLB_STAT_RECOVERING true
    let before := s
    let s := (fences.foldl State.fenceUnit s).showFence []
    if s.fltState != 3 then s
    else
      let resets := (passed.map Cand.unit).eraseDups ++
        (if s.flt.releasing then s.flt.fatal.eraseDups.flatMap fun p => unitOfPage p ++ [FUnit.page p] else [])
      let s := resets.foldl State.recoveryReset s
      let l := s.losses before (passed ++ if s.flt.releasing then
        s.flt.fatal.flatMap (fun p => (unitOfPage p).map fun u => { unit := u, page := p, src := 31, tested := true }) else [])
      let r := s.readmitAll l env
      let s := r.1
      if s.fltState != 3 then s
      else
        let s := (List.range 16).foldl (fun (s : State) p => s.restartPlan p (r.2.1.contains p)) s
        if s.fltState != 3 then s
        else
          let fenced := s.flt.fenced.drop before.flt.fenced.length
          let touched := ((fenced.flatMap fun u => u.home :: u.pages) ++ (passed.map fun c => c.unit.home) ++ r.2.2.2).eraseDups
          let s := touched.foldl (fun (s : State) p => s.addWrap p Reg.ERR_RECOV_COUNT 1) s
          let s := (s.setFld pgDBG Reg.DBG_LAST_MS ((s.beat - s.fld pgDBG Reg.DBG_FLT_BEAT_BEAT) / 700000)).setFld pgDBG
            Reg.DBG_LAST_READMITTED r.2.1.length
          let s := s.setFld pgDBG Reg.DBG_LAST_FAILED r.2.2.1.length
          let s := (s.addWrap pgGLB Reg.GLB_RECOV_COUNT 1).addSat pgGLB Reg.GLB_RECOV_IN_HOUR 1
          let s := { s with flt := { s.flt with signals := [], fatal := [], releasing := false, complete := false, prev := [] } }
          s.resume

/-! ## Commands -/

/-- A FATAL condition that a RELEASE leaves in place (R421, R472): the trip, a stack at CRIT_C, or another. -/
def State.fatalHolds (s : State) (env : RecovEnv) : Bool :=
  env.fatalPresent ||
    (s.pwr.stopped && s.fld pgTHRM Reg.THRM_CFG_WARN_C ≤ s.fld pgTHRM Reg.THRM_STAT_MAX % 128 &&
      s.fld pgTHRM Reg.THRM_STAT_MAX < 128) ||
    (List.range 4).any fun n => s.severity (pgHMC n) Src.hmc_HBM_CRIT == 3 && s.bit (pgHMC n) Reg.BLK_CTRL_ENABLE &&
      s.fld (pgHMC n) Reg.HMC_CFG_CRIT_C ≤ s.fld (pgHMC n) Reg.HMC_STAT_TEMP

/-- QUIET_END (R415): recovery, or in 1 ASSIST the proposed fence set and the wait for the host (R422). -/
def execQuietEnd (env : RecovEnv) (s : State) : Out := .next <|
  if s.fltState != 1 then s
  else s.atBeat (s.fld pgDBG Reg.DBG_QUIET_END_BEAT) fun s =>
    let s := s.completeSafe
    if s.flt.releasing && s.fatalHolds env then { s with flt := { s.flt with releasing := false } }.goDown
    else if s.flt.assist then
      ((s.showFence (s.flt.cands.map Cand.unit)).setFld pgDBG Reg.DBG_FLT_STATE 2).raise pgGLB 6
    else
      let r := (s.setFld pgDBG Reg.DBG_FLT_STATE 3).runTests s.flt.cands env
      r.1.recover r.2.1 r.2.2 env

/-- DBG_RECOV_GO (R422): recovery with the set as the host left it. A candidate whose bit the host cleared is not tested
and returns with a recovery reset; a bit that the host set fences its unit. -/
def execDbgRecovGo (env : RecovEnv) (s : State) : Out := .next <|
  if s.fltState != 2 then s
  else
    let cs := s.flt.cands
    let stays := fun (c : Cand) => c.unit.ownBit.isNone || s.shown c.unit
    let named := (cs.filter stays).map Cand.unit
    let added := allUnits.filter fun u => s.shown u && !covers s.flt.gone u && !covers named u &&
      !(cs.any fun c => c.unit == u)
    let r := (s.setFld pgDBG Reg.DBG_FLT_STATE 3).runTests (cs.filter stays) env
    let cleared := (cs.filter fun c => !stays c).map Cand.unit
    let s := cleared.foldl State.recoveryReset r.1
    s.recover (r.2.1 ++ added.filter fun u => !covers r.2.1 u) (r.2.2 ++ cs.filter fun c => !stays c) env

/-- RELEASE (R51, R421): only while DOWN = 1. -/
def execRelease (s : State) : Out := .next <|
  if !s.bit pgGLB Reg.GLB_STAT_DOWN then s
  else
    let s := (s.setBit pgGLB Reg.GLB_STAT_DOWN false).setFld pgGLB Reg.GLB_RECOV_IN_HOUR 0
    { s with flt := { s.flt with releasing := true } }.startQuiet 0

/-- A recovery leaves the hour that IN_HOUR counts (R421). -/
def execInHourExpire (s : State) : Out :=
  .next (s.setFld pgGLB Reg.GLB_RECOV_IN_HOUR (s.fld pgGLB Reg.GLB_RECOV_IN_HOUR - 1))

/-- DBG_1500_GO (R427): refused with cause 1 while the stack's HMC is enabled. What the instruction shifts out is free. -/
def execDbg1500Go (stack : Fin 4) (instr : Byte) (s : State) : Out := .next <|
  if s.enabled (pgHMC stack) then s.reject pgDBG Reg.DBG_1500_GO.off 1
  else
    let s := (s.setFld pgDBG Reg.DBG_1500_STACK stack).setFld pgDBG Reg.DBG_1500_INSTR instr.toNat
    s.fresh.2.wr pgDBG Reg.DBG_1500_DATA_DATA.off (word s.fresh.1)

end Sys2Proof.Machine
end

