-- ==== Sys2Proof/Machine/Boot.lean ====
section
/-!
DEFINITION. The cold boot (R459): fuses (R445), firmware (R430 to R436), HBM training (R351, R352), BIST (R369), the
boot counter and the boot tree (R439, R443, R447 to R449). The steps of one boot are one step of the machine (log 180).
-/

namespace Sys2Proof.Machine

open Sys2Proof

def State.bootStep (s : State) (n : Nat) : State := s.setFld pgGLB Reg.GLB_STAT_BOOT_STEP n

/-! ## Fuses and clocks -/

/-- Step 3: fuse load. A CONFIG bit on which no two copies agree records LOAD_ERR (R445). -/
def State.fuseStep (s : State) : State :=
  let s := (s.loadFuses.setBit pgFUSE Reg.FUSE_STAT_LOADED true).setBit pgGLB Reg.GLB_STAT_ATTEST_EXHAUSTED
    (s.bootUsed == 4096)
  let s := s.bootStep 3
  if (List.range 64).any fun b => (s.cfgBit b).isNone then s.error pgFUSE Src.fuse_LOAD_ERR else s

/-- Pages that Table REGS-1 lists. -/
def listedPages : List Nat := (List.range 512).filter fun p => (blockOf p).isSome

/-- Blocks that are READY once they have trained: a controller, its PHY, a link (log 181). -/
def readyLate (page : Nat) : Bool :=
  match blockOf page with
  | some .hmc | some .hphy | some .ulnk => true
  | _ => false

/-- Step 5: the root PLL locks, every switched domain is on, BEAT starts (R341), the pins' functions take over (R460). -/
def State.clockStep (s : State) (khz : Nat) : State :=
  let s := { s with beat := 0, beatOn := true, pins := { s.pins with held := false } }
  let s := (s.setBit pgCLK Reg.CLK_STAT_ROOT_LOCK true).setFld pgCLK Reg.CLK_REFMON_KHZ khz
  let s := listedPages.foldl (fun (s : State) p => if readyLate p then s else s.setBit p Reg.BLK_STAT_READY true) s
  (s.setFld pgCAR Reg.CAR_STAT_PORTS_UP 0xF).bootStep 5

/-- A fuse region as bytes, burned and marginal bits read as 1. -/
def State.otpBytes (s : State) (at_ n : Nat) : List Byte := (List.range n).map fun i => byte (s.otpByte (at_ + i))

/-- Step 6: the boot ROM runs on STW0 and enables the I3C target (R437, R474). -/
def State.romStep (s : State) : State :=
  let s := s.setFld (pgSTW 0) Reg.STW_STAT_STATE 1
  (s.setFld pgI3C Reg.I3C_CFG_STATIC_ADDR (Config.fuseField pgI3C 0x100 0)).setBit pgI3C Reg.BLK_CTRL_ENABLE true

/-- M0 at a cold boot (R437). -/
def State.measureRom (s : State) : State :=
  let s := s.measure 0 0 (leBytes 32 Config.romDigest) 0 0
  s.measure 0 1 (sha256 (s.otpBytes 0x80 24 ++ s.otpBytes 0x200 128 ++ s.otpBytes 0x300 32)) 0 0

/-- Step 7: the sideband comes up; a module whose sideband does not records SB_FAIL (R379, R380, R405). -/
def State.sidebandStep (s : State) (up : Nat) : State :=
  let s := s.setFld pgSBND Reg.SBND_STAT_UP up
  let s := match (List.range 3).find? fun n => up / 2 ^ (4 * n) % 2 = 1 with
    | some n => s.setFld pgSBND Reg.SBND_STAT_MBX_LINK n
    | none => s
  ((List.range 12).filter fun m => up / 2 ^ m % 2 = 0).foldl (fun (s : State) m =>
    s.recordError pgSBND Src.sbnd_SB_FAIL false m) (s.bootStep 7)

/-! ## Firmware -/

/-- A field of an image's header. -/
def fwAt (i : FwImage) (o n : Nat) : Nat := bytesAt i.header o n

/-- Two ranges meet. -/
def rangesMeet (a b c d : Nat) : Bool := a < c + d && c < a + b

/-- Check 2 of R432: FORMAT (Table SEC-1). -/
def fwBadFormat (i : FwImage) : Bool :=
  let ownerSig := fwAt i 6 2 % 2 == 1
  let body := fwAt i 0x14 4
  let aOff := fwAt i 0x20 4
  let aLen := fwAt i 0x24 4
  let oOff := fwAt i 0x28 4
  let oLen := fwAt i 0x2C 4
  let size := fwAt i 8 4
  let zero := fun (o n : Nat) => fwAt i o n == 0
  i.header.length != 256 || fwAt i 0 4 != 0x46574E48 || fwAt i 4 2 != 1 || fwAt i 6 2 / 256 != 0 || fwAt i 6 2 / 8 % 2 != 0 ||
    fwAt i 0x10 4 / 512 != 0 || fwAt i 0x10 4 > 256 || !zero 0x1C 4 || !zero 0x6C 0x14 || !zero 0xBC 0x44 ||
    size < 512 || size > 9437184 || size != i.fetched || body < 64 || body > 8388608 || body % 64 != 0 ||
    fwAt i 0x18 4 % 4 != 0 || fwAt i 0x18 4 ≥ body || aOff % 8 != 0 || aLen == 0 || aOff < 256 + body || aOff + aLen > size ||
    (if ownerSig then oOff % 8 != 0 || oLen == 0 || oOff < 256 + body || oOff + oLen > size || rangesMeet aOff aLen oOff oLen
     else oOff != 0 || oLen != 0 || !zero 0x80 60)

/-- SHA-256 of a public key of the header. -/
def fwKeyHash (i : FwImage) (o : Nat) : Nat := leNat (sha256 (slice i.header o 60))

/-- The hash of an Avdor key that the boot ROM holds. -/
def romKeyHash (k : Nat) : Nat := leNat (sha256 (leBytes 60 (Config.romKey k).toNat))

/-- The Avdor key of an image that is not refused for it: key 1, or key 0 while AVDOR_REVOKE0 is clean. -/
def State.avdorOk (s : State) (i : FwImage) : Bool :=
  let h := fwKeyHash i 0x30
  h == romKeyHash 1 || (h == romKeyHash 0 && !s.otpSet (0x280 * 8 + 8))

/-- Live owner slots whose key hash is that of the image's owner key. -/
def State.ownerSlots (s : State) (i : FwImage) : List Nat :=
  (List.range 4).filter fun n => s.ownerLive / 2 ^ n % 2 = 1 && leNat (s.otpBytes (0x200 + 32 * n) 32) == fwKeyHash i 0x80

/-- The checks of R432 in order: the RESULT code, 0 for an image that passes. -/
def State.checkImage (s : State) (i : FwImage) : Nat :=
  let ownerSig := fwAt i 6 2 % 2 == 1
  if fwBadFormat i then 2
  else if fwAt i 0x10 2 % 512 < s.svn then 3
  else if !s.avdorOk i then 4
  else if !i.avdorSig then 5
  else if s.cfg 2 && s.ownerLive != 0 && !ownerSig then 6
  else if ownerSig && (s.ownerSlots i).isEmpty then 7
  else if ownerSig && !i.ownerSig then 8
  else 0

/-- Sources in the order tried (R430): 0 the mailbox, 1 slot A, 2 slot B. -/
def State.bootSources (s : State) : List Nat :=
  match s.cfg 1, s.cfg 0 with
  | false, false => [0]
  | false, true => [1, 2]
  | true, _ => [1, 2, 0]

/-- Try the sources: the state, and the image that passed. The mailbox delivers nothing while no sideband is up. -/
def State.trySources (s : State) : List Nat → List (Option FwImage) → State × Option FwImage
  | [], _ => (s, none)
  | src :: rest, imgs =>
    let given := if src = 0 && s.fld pgSBND Reg.SBND_STAT_UP &&& 0x111 == 0 then none else (imgs.head?).getD none
    let s := if src = 0 then s else { s with pins := { s.pins with xspi := true } }
    let r := match given with
      | some i => s.checkImage i
      | none => 1
    let s := (s.setFld pgSEC Reg.SEC_BOOT_SOURCE src).setFld pgSEC Reg.SEC_BOOT_RESULT r
    let s := match src, given with
      | 0, some i => s.setFld pgSBND Reg.SBND_STAT_FW_BYTES i.fetched
      | _, _ => s
    match given, r with
    | some i, 0 => (s, some i)
    | _, _ =>
      let s := if src = 0 then s.error pgSEC Src.sec_BOOT_REJECT else s.error pgXSPI Src.xspi_IMAGE_BAD
      s.trySources rest (imgs.drop 1)

/-- Steps 8 and 9: fetch and verification. With no source left the device stays at step 7 with FAULT_L low (R430). -/
def State.fwStep (s : State) (imgs : List (Option FwImage)) : State × Option FwImage :=
  match s.trySources s.bootSources imgs with
  | (s, none) => ({ s with pins := { s.pins with faultL := false } }.bootStep 7, none)
  | (s, some i) =>
    let s := (s.measure 1 2 i.digest 0 0).setFld pgGLB Reg.GLB_PART_FW_VERSION (fwAt i 0xC 4)
    ({ s with sec := { s.sec with digest := i.digest } }.bootStep 9, some i)

/-! ## HBM training and BIST -/

/-- A stack that reports a supported height, density and organisation (Table MEM-1). -/
def stackSupported (e : StackEnv) : Bool :=
  (e.height == 8 || e.height == 12 || e.height == 16) && (e.dieGbit == 24 || e.dieGbit == 32) && e.orgOk

def phyList : List Nat := [0, 1, 2, 3]

/-- The stack of a PHY. -/
def stackOf (hbm : List StackEnv) (n : Nat) : StackEnv := hbm.getD n { orgOk := false }

/-- Channels that fail at the k-th rate tried, by PHY. -/
def failsAt (hbm : List StackEnv) (k n : Nat) : Nat :=
  if stackSupported (stackOf hbm n) then (((stackOf hbm n).fails[k]?).getD 0).toNat else 0

/-- Training from a rate on, RATE_FIRST or FENCE_FIRST (R352): the rate reached and how many rates were tried before. The
first argument bounds the rates. -/
def hbmRate (hbm : List StackEnv) (fenceFirst : Bool) : Nat → Nat → Nat → Nat × Nat
  | 0, rate, k => (rate, k)
  | fuel + 1, rate, k =>
    if fenceFirst || rate = 0 || phyList.all fun n => failsAt hbm k n == 0 then (rate, k)
    else hbmRate hbm fenceFirst fuel (rate - 1) (k + 1)

/-- GLB_HBM.RATE of a rate code (Table MEM-2). -/
def rateTenths (code : Nat) : Nat := ([64, 80, 96, 112, 120, 128] : List Nat).getD code 0

/-- The outcome of one PHY: channels trained, RESULT. The sequencer step reached is free. -/
def State.phyDone (s : State) (n rate up fail result : Nat) : State :=
  let pg := pgHPHY n
  let s := ((s.setFld pg Reg.HPHY_STAT_RATE rate).setBit pg Reg.HPHY_STAT_TRAINED (up != 0)).setFld pg
    Reg.HPHY_STAT_CH_TRAINED up
  let s := (s.fresh.2.setFld pg Reg.HPHY_TRAIN_STEP s.fresh.1).setFld pg Reg.HPHY_TRAIN_RESULT result
  let s := s.setFld pg Reg.HPHY_TRAIN_CH_FAIL fail
  if up = 0 then s
  else
    let s := (s.setBit pg Reg.BLK_STAT_READY true).setBit (pgHMC n) Reg.BLK_STAT_READY true
    let s := (s.setFld (pgHMC n) Reg.HMC_STAT_CH_UP up).setBit (pgHMC n) Reg.BLK_CTRL_ENABLE true
    s.setFld pgCLK Reg.CLK_STAT_HBM_LOCK (s.fld pgCLK Reg.CLK_STAT_HBM_LOCK ||| 2 ^ n)

/-- Fence a stack at boot. -/
def State.bootFenceStack (s : State) (n : Nat) : State :=
  let s := (s.setBit (pgHMC n) Reg.BLK_STAT_FENCED true).setBit (pgHPHY n) Reg.BLK_STAT_FENCED true
  { s with flt := { s.flt with bootFenced := s.flt.bootFenced ++ [.stack n] } }

/-- One stack's training at the rate reached: fences and records (R351, R352). -/
def State.trainStack (s : State) (hbm : List StackEnv) (rate k n : Nat) : State :=
  if !stackSupported (stackOf hbm n) then
    ((s.phyDone n rate 0 0 3).bootFenceStack n).error (pgHPHY n) Src.hphy_TRAIN_STACK_FAIL
  else
    let fail := failsAt hbm k n
    let up := 2 ^ 32 - 1 - fail
    let bad := (List.range 32).filter fun i => fail / 2 ^ i % 2 = 1
    let s := s.phyDone n rate up fail (if up = 0 then 2 else if fail = 0 then 0 else 1)
    let chs := bad.map fun i => FUnit.channel (32 * n + i)
    let s := { s with flt := { s.flt with bootFenced := s.flt.bootFenced ++ chs } }
    let s := bad.foldl (fun (s : State) _ => s.error (pgHPHY n) Src.hphy_TRAIN_CH_FAIL) s
    if up = 0 then (s.bootFenceStack n).error (pgHPHY n) Src.hphy_TRAIN_STACK_FAIL else s

/-- Step 10 (R23, R351, R352, R363): the state, and whether the boot goes on. Stacks that differ, or no trained stack,
leave the step incomplete (log 182). -/
def State.hbmStep (s : State) (hbm : List StackEnv) : State × Bool :=
  let good := phyList.filter fun n => stackSupported (stackOf hbm n)
  let ids := (good.map fun n => ((stackOf hbm n).height, (stackOf hbm n).dieGbit)).eraseDups
  if 2 ≤ ids.length then
    let s := phyList.foldl (fun (s : State) n =>
      if stackSupported (stackOf hbm n) then s else (s.phyDone n 0 0 0 3).error (pgHPHY n) Src.hphy_TRAIN_STACK_FAIL) s
    (s.error (pgHMC 0) Src.hmc_STACK_MISMATCH, false)
  else
    let start := phyList.foldl (fun m n =>
      min m (min (s.fld (pgHPHY n) Reg.HPHY_CFG_MAX_RATE) (s.fld (pgHPHY n) Reg.HPHY_STAT_FUSE_MAX))) 5
    let r := hbmRate hbm (s.bit (pgHPHY 0) Reg.HPHY_CFG_FALLBACK) 6 start 0
    let s := (List.range r.2).foldl (fun (s : State) _ =>
      phyList.foldl (fun (s : State) n => s.error (pgHPHY n) Src.hphy_RATE_FALLBACK) s) s
    let s := phyList.foldl (fun (s : State) n => s.trainStack hbm r.1 r.2 n) s
    let ok := phyList.filter fun n => s.bit (pgHPHY n) Reg.HPHY_STAT_TRAINED
    match ids.head?, ok with
    | some (h, d), _ :: _ =>
      let s := ((s.setFld pgGLB Reg.GLB_HBM_STACK_GIB (h * d / 8)).setFld pgGLB Reg.GLB_HBM_HEIGHT h).setFld pgGLB
        Reg.GLB_HBM_DIE_GBIT d
      let s := (s.setFld pgGLB Reg.GLB_HBM_RATE (rateTenths r.1)).setFld pgGLB Reg.GLB_HBM_STACK_OK
        (ok.foldl (fun m n => m + 2 ^ n) 0)
      (s.bootStep 10, true)
    | _, _ => (s, false)

/-- Step 11: BIST of the two halves; one that fails is fenced before boot continues (R369). -/
def State.bistStep (s : State) (base store : Bool) : State :=
  let s := s.setBit pgSTOR Reg.STOR_STAT_BIST_DONE true
  let fence := fun (s : State) (h : Nat) (f : Fld) =>
    let u := s.flt.bootFenced ++ [FUnit.half h]
    ({ s with flt := { s.flt with bootFenced := u } }.setBit pgSTOR f true).recordError pgSTOR Src.stor_BIST_FAIL false h
  let s := if base then s else fence s 0 Reg.STOR_STAT_BASE_FENCED
  (if store then s else fence s 1 Reg.STOR_STAT_STORE_FENCED).bootStep 11

/-! ## The boot counter and the boot tree -/

/-- First bit of the boot counter, and its lowest clean bit. -/
def bootBit : Nat := 0x400 * 8
def State.cleanFrom (s : State) : Nat → Nat → Option Nat
  | 0, _ => none
  | n + 1, i => if s.otp (bootBit + i) == 0 then some i else s.cleanFrom n (i + 1)
def State.cleanLeaf (s : State) : Option Nat := s.cleanFrom 4096 0

/-- The burns of the boot counter (R447, Table SEC-6): at most 4; the leaf, if one is usable. `retried` says that the
bit read clean after a completed burn. A sag after which no burn follows is one that the supply does not outlast. -/
def State.burnLeaf (s : State) (lost : Bool) : Nat → Bool → List BurnRes → State × Option Nat
  | 0, _, _ => (s, none)
  | n + 1, retried, rs =>
    match s.cleanLeaf with
    | none => (s, none)
    | some i =>
      let r := rs.headD {}
      let st := readState r.lo r.hi
      let s := s.burnBit (bootBit + i) r.lo r.hi
      if r.aborted then
        let s := s.error pgFUSE Src.fuse_BURN_ABORT
        if lost && rs.length ≤ 1 then (s, none) else s.burnLeaf lost n false (rs.drop 1)
      else if st = 2 then (s, some i)
      else if st = 1 then (s.error pgFUSE Src.fuse_BURN_MARGINAL).burnLeaf lost n false (rs.drop 1)
      else if retried then (s, none)
      else s.burnLeaf lost n true (rs.drop 1)

/-- The boot tree exists: its key and the leaf that signs it (R439). -/
def State.setTree (s : State) (leaf : Nat) (pub : List Byte) : State :=
  let s := (s.setFld pgSEC Reg.SEC_BOOT_BOOT_INDEX leaf).setBit pgSEC Reg.SEC_BOOT_TREE true
  (List.range 7).foldl (fun (s : State) w => s.setFld pgSEC (Reg.SEC_BT_PUB_DATA w) (leNat (slice pub (8 * w) 8))) s

/-- The other bits that step 12 burns (R434, R435, R448, R449), in that order. -/
def State.otherBits (s : State) (i : FwImage) : List Nat :=
  let flags := fwAt i 6 2
  let svns := if flags / 2 % 2 = 1 then
      ((List.range 256).filter fun b => s.svn ≤ b && b < fwAt i 0x10 2 % 512).map (0x300 * 8 + ·) else []
  let own := s.ownerSlots i
  let revoked := if flags % 2 = 1 then
      ((List.range 4).filter fun n => flags / 16 / 2 ^ n % 2 = 1 && !own.contains n).map fun n => 0x280 * 8 + 2 * n + 1 else []
  let avdor := if flags / 4 % 2 = 1 && fwKeyHash i 0x30 == romKeyHash 1 then [0x280 * 8 + 8] else []
  (svns ++ revoked ++ avdor).filter fun b => !s.otpSet b

/-- Burn them; a sag stops at the bit being burned. -/
def State.burnOthers (s : State) : List Nat → List BurnRes → State
  | [], _ => s
  | b :: bs, rs =>
    let r := rs.headD {}
    let s := s.burnBit b r.lo r.hi
    if r.aborted then s.error pgFUSE Src.fuse_BURN_ABORT else s.burnOthers bs (rs.drop 1)

/-- Step 12 (R439, R443, R444, R447): the tree, or 1 ASSIST without one. -/
def State.treeStep (s : State) (i : FwImage) (env : BootEnv) : State :=
  let s := { s with sec := { s.sec with trng := env.trngFails } }
  let none_ := s.cleanLeaf.isNone
  let s := if none_ then s.setBit pgGLB Reg.GLB_STAT_ATTEST_EXHAUSTED true else s
  let r := if 4 ≤ env.trngFails then (s.error pgSEC Src.sec_TRNG_FAIL, none)
    else if none_ then (s, none)
    else match s.burnLeaf env.supplyLost 4 false env.burns with
      | (s, some l) => (s.setTree l env.treePub, some l)
      | (s, none) => (s.error pgSEC Src.sec_BOOT_TREE_NONE, none)
  let s := r.1.setBit pgSEC Reg.BLK_CTRL_MODE (r.2.isNone || s.cfg 3)
  ((s.burnOthers (s.otherBits i) env.others).loadFuses).bootStep 12

/-- Step 13: READY; the cores run Henair (log 183). -/
def State.readyStep (s : State) : State :=
  let s := (List.range 16).foldl (fun (s : State) n =>
    if s.fenced (pgSTW n) then s else s.setFld (pgSTW n) Reg.STW_STAT_STATE 1) s
  (s.setBit pgGLB Reg.GLB_STAT_READY true).bootStep 13

/-- The cold boot, from the release of the reset on. -/
def State.boot (s : State) (env : BootEnv) : State :=
  let s := (s.fuseStep.clockStep env.refKhz).romStep.measureRom
  match (s.sidebandStep env.sideband.toNat).fwStep env.images with
  | (s, none) => s
  | (s, some i) =>
    match s.hbmStep env.hbm with
    | (s, false) => s
    | (s, true) => ((s.bistStep env.baseBist env.storeBist).treeStep i env).readyStep

end Sys2Proof.Machine
end

