-- ==== Sys2Proof/Machine/Rst.lean ====
section
/-!
DEFINITION. Resets (R454 to R459): power-on, cold, warm and domain resets, the soft reset of a page (R43), the steward
watchdogs (R473), the end of a fuse burn, for which a warm reset waits (R455).
-/

namespace Sys2Proof.Machine

open Sys2Proof

/-! ## Power-on and cold reset -/

/-- Everything but the fuses starts again, and the device is held in reset. -/
def State.blank (s : State) : State :=
  let t : Sec := { otp := s.sec.otp }
  { State.reset with pending := s.pending, out := s.out, free := s.free, sec := t }

/-- Code of Table RPC-2. -/
def porCode : PorCause → Nat
  | .baseUv => 0
  | .pwrok => 1
  | .railUv => 2
  | .clockLoss => 4

/-- RST_CAUSE after the reset. -/
def State.setCause (s : State) (v : Nat) : State := s.wr pgRST Reg.RST_CAUSE_CAUSE.off (word v)

/-- POWER_ON_RESET: with PWROK low the device stays in reset until it rises (R459); a second cause is merged (R454). -/
def execPowerOnReset (cause : PorCause) (env : BootEnv) (s : State) : Out := .next <|
  if !s.pins.pwrok then s
  else
    let t := s.blank.setCause (porCode cause)
    match cause with
    | .pwrok => t
    | _ => { t with pins := { t.pins with pwrok := true } }.boot env

/-- PWROK_RISE (R459). -/
def execPwrokRise (env : BootEnv) (s : State) : Out := .next <|
  if s.pins.pwrok then s else { s with pins := { s.pins with pwrok := true } }.boot env

/-- The fields that COLD_RST_L keeps (R48): page and field. -/
def coldKept : List (Nat × Fld) :=
  ((List.range 4).flatMap fun n => ([(pgHPHY n, Reg.HPHY_CFG_MAX_RATE), (pgHPHY n, Reg.HPHY_CFG_FALLBACK),
    (pgHPHY n, Reg.BLK_CTRL_MODE)] : List (Nat × Fld))) ++
    (List.range 3).flatMap fun n => ([(pgULNK n, Reg.ULNK_CFG_MAX_RATE), (pgULNK n, Reg.ULNK_CFG_FALLBACK)] : List (Nat × Fld))

/-- COLD_RESET. Without PWROK the power-on reset, of greater reach, stands (R454). -/
def execColdReset (env : BootEnv) (s : State) : Out := .next <|
  if !s.pins.pwrok then s
  else
    let t := s.blank.setCause 3
    let t := coldKept.foldl (fun (t : State) q => t.setFld q.1 q.2 (s.fld q.1 q.2)) t
    { t with pins := { t.pins with pwrok := true } }.boot env

/-! ## Warm reset -/

/-- The quad of a page is fenced, and so its domain is off (R464). -/
def State.quadFenced (s : State) (page : Nat) : Bool :=
  match domainOf page with
  | some d => d < 16 && s.fenced (pgQUAD d)
  | none => false

/-- Bits of a register that a warm reset keeps (R47), and those that show what it does not touch: locks, fuses, the
sideband, the firmware that runs, whether the host signs (log 190). -/
def State.warmMask (s : State) (page off : Nat) : Nat :=
  let all := 2 ^ 64 - 1
  let common :=
    if off = 0x48 then all
    else if s.quadFenced page && (off = 0 || off = 0x10 || off = 0x20 || off = 0x38 || off = 0x40) then all
    else if off = 0x10 then bitMask 4 4
    else 0
  match blockOf page with
  | some .hmc | some .hphy | some .stor => all
  | some .fuse => if off = 0x100 then all else common
  | some .glb =>
    if off = 0x100 then bitMask 4 4
    else if off = 0x108 then bitMask 63 32
    else if off = 0x118 then all
    else if off = 0x120 then bitMask 2 0
    else if off = 0x128 || off = 0x130 || off = 0x138 then bitMask 24 16
    else if off = 0x140 then bitMask 39 0
    else common
  | some .clk => if off = 0x100 || off = 0x110 then all else common
  | some .ulnk =>
    if off = 0x100 then all
    else if off = 0x108 then bitMask 18 16 + bitMask 11 8 + bitMask 6 3 + bitMask 1 0
    else if off = 0x10 then bitMask 4 4 + 1
    else common
  | some .sbnd => if off = 0x100 then bitMask 13 0 else common
  | some .dbg => if 0x120 ≤ off && off < 0x150 then all else common
  | some .sec =>
    if off = 8 then bitMask 2 2
    else if off = 0x100 || (0x200 ≤ off && off < 0x2F8) then all
    else if off = 0x110 then bitMask 47 32
    else if off = 0x160 then bitMask 63 16
    else common
  | _ => common

/-- Registers after a reset that keeps the masked bits. -/
def keepBits (regs : KMap Word) (mask : Nat → Nat → Nat) : KMap Word :=
  regs.foldl (fun (m : KMap Word) (p : Nat × Word) =>
    let k := mask (p.1 / 0x1000) (p.1 % 0x1000)
    let r := (resetVal p.1).toNat
    kset resetVal m p.1 (word (r - (r &&& k) + (p.2.toNat &&& k)))) []

/-- What a warm reset leaves before step 6 (R456). HBM and store memory keep their contents, BEAT runs on. -/
def State.warmClear (s : State) : State :=
  let link : Link := { nextId := s.link.nextId, combineOff := s.link.combineOff }
  let sec : Sec := { otp := s.sec.otp, log := s.sec.log, digest := s.sec.digest, trng := s.sec.trng }
  let flt : Flt := { fenced := s.flt.fenced, bootFenced := s.flt.bootFenced }
  let pins : Pins := { pwrok := s.pins.pwrok, held := false }
  let t : State := { State.reset with
    regs := keepBits s.regs s.warmMask
    staged := s.staged.filter fun p => s.warmMask (p.1 / 0x1000) (p.1 % 0x1000) == 2 ^ 64 - 1
    pending := s.pending, out := s.out, free := s.free, beat := s.beat, beatOn := s.beatOn
    mem := { s.mem with tile := [], deviceBias := [] }
    buckets := s.buckets, link := link, flt := flt, sec := sec, pins := pins }
  let t := (List.range 16).foldl (fun (t : State) q => if s.fenced (pgQUAD q) then t.setDomState q 1 else t) t
  let t := listedPages.foldl (fun (t : State) p =>
    if readyLate p || !t.powered p then t else t.setBit p Reg.BLK_STAT_READY true) t
  let t := t.setFld pgCAR Reg.CAR_STAT_PORTS_UP
    ((List.range 4).foldl (fun m n => if s.flt.gone.contains (.port n) then m else m + 2 ^ n) 0)
  t.refreshGroup

/-- Step 6 of a warm reset (R436, R437): the firmware held, or another fetch. Without firmware the device stays at step
7 with FAULT_L low (R430). -/
def State.warmBoot (s : State) (env : WarmEnv) : State × Bool :=
  let s := s.romStep.addWrap pgSEC Reg.SEC_BOOT_WARM 1
  let s := s.measure 2 5 (leBytes 32 0) 0 0
  if env.match_ then (s, true)
  else match s.fwStep env.images with
    | (s, none) => (s, false)
    | (s, some _) => (s, true)

/-- A warm reset (R456), with the RST_CAUSE that it leaves. It ends a flash command with NV = 1 first (R455). -/
def State.warm (s : State) (cause : Nat) (env : WarmEnv) : State :=
  let s := if s.bit pgXSPI Reg.XSPI_CMD_BUSY && s.bit pgXSPI Reg.XSPI_CMD_NV then
      (s.endFlash 1).error pgXSPI Src.xspi_NV_ABORT else s
  let s := s.warmClear.setCause cause
  match s.warmBoot env with
  | (s, false) => s
  | (s, true) =>
    let s := (List.range 16).foldl (fun (s : State) n =>
      if s.fenced (pgSTW n) then s.setFld (pgSTW n) Reg.STW_STAT_STATE 4 else s) s.readyStep
    (s.setBit pgI3C Reg.I3C_STAT_HJ_PEND true).emit .hotJoin

/-- A request for a warm reset: ignored before READY, waiting while a fuse burns (R455), merged into one that waits
(R454). -/
def State.warmRequest (s : State) (cause : Nat) (env : WarmEnv) : State :=
  if !s.bit pgGLB Reg.GLB_STAT_READY then s
  else match s.sec.burn, s.sec.warmWait with
    | none, _ => s.warm cause env
    | some _, none => { s with sec := { s.sec with warmWait := some (cause, env) } }
    | some _, some _ => s

/-- WARM_RESET: RST_CAUSE names the writer; that of a write through DBG is free (log 191). -/
def execWarmReset (by_ : Writer) (env : WarmEnv) (s : State) : Out := .next <|
  match by_ with
  | .host => s.warmRequest 5 env
  | .henair => s.warmRequest (5 + 1 * 2 ^ 8) env
  | .pmc => s.warmRequest (5 + 2 * 2 ^ 8) env
  | .dbg => s.fresh.2.warmRequest (5 + s.fresh.1 % 4 * 2 ^ 8) env
  | .sideband => s.warmRequest 6 env

/-- CXL_RESET: on the primary port only (R454). -/
def execCxlReset (port : Fin 3) (env : WarmEnv) (s : State) : Out :=
  .next (if s.primary = some port.val then s.warmRequest 7 env else s)

/-- FUSE_BURN_DONE (R447): the two-margin read ends the burn, and a warm reset that waited for it begins (R455). -/
def execFuseBurnDone (lo hi : Bool) (s : State) : Out := .next <|
  match s.sec.burn with
  | none => s
  | some i =>
    let cut := s.sec.burnCut
    let wait := s.sec.warmWait
    let s := { s with sec := { s.sec with burn := none, burnCut := false, warmWait := none } }.burnBit i lo hi
    let s := (s.setBit pgFUSE Reg.FUSE_PROG_BUSY false).loadFuses
    let s := s.setFld pgFUSE Reg.FUSE_PROG_RESULT (if cut then 3 else 2 - readState lo hi)
    let s := if !cut && readState lo hi = 1 then s.error pgFUSE Src.fuse_BURN_MARGINAL else s
    match wait with
    | some (cause, env) => s.warm cause env
    | none => s

/-! ## Soft reset of a page, and domain reset -/

/-- Bits that a soft reset of a page keeps: the registers that R43 names, the fence (R423), and what shows the state of
hardware that no register reset touches: training, ports, cores (log 192). -/
def softMask (page off : Nat) : Nat :=
  let all := 2 ^ 64 - 1
  if off = 0x28 || off = 0x48 || off = 0x50 || off = 0x60 then all
  else if off = 0x8 then bitMask 2 2
  else if off = 0x10 then bitMask 4 4
  else match blockOf page with
    | some .ulnk => if off = 0x108 then bitMask 18 16 + bitMask 13 8 + bitMask 6 0 else 0
    | some .hmc => if off = Reg.HMC_STAT_CH_UP.off then bitMask Reg.HMC_STAT_CH_UP.hi Reg.HMC_STAT_CH_UP.lo else 0
    | some .hphy => if off = Reg.HPHY_STAT_TRAINED.off then all else 0
    | some .car => if off = Reg.CAR_STAT_PORTS_UP.off then bitMask Reg.CAR_STAT_PORTS_UP.hi Reg.CAR_STAT_PORTS_UP.lo else 0
    | some .stw => if off = 0x100 then all else 0
    | some .sbnd => if off = 0x100 then bitMask 13 0 else 0
    | _ => 0

/-- Internal state that a block discards (R43). Memory arrays that the host fills, a tile's among them, are kept; the
entries of a bell are the bell's state. -/
def State.discard (s : State) (page : Nat) : State :=
  let n := instanceOf page
  match blockOf page with
  | some .tile => { s with probeUnits := kdel s.probeUnits n }.setTile n {}
  | some .bell => s.setBell n []
  | some .car => { s with car := { s.car with searches := [] } }
  | some .dec => { s with decs := s.decs.filter fun d => d.dec != n }
  | some .plan => s.endAdmission 36
  | some .fsch => { s with fsch := {} }
  | some .time => { s with time := {}, cues := [] }
  | some .batq => { s with queues := [], draws := [] }
  | some .own => { s with owns := [] }
  | some .shuf => { s with augs := [], augRows := [] }
  | some .fast => { s with link := { s.link with fastSeq := [], fastBad := false } }
  | some .cmdq => { s with rings := [], doorbells := [] }
  | some .ulnk =>
    { s with link := { s.link with reqs := s.link.reqs.filter fun r => r.link != n
                                   retries := s.link.retries.filter fun q => q.1 / 4 != n } }
  | some .sbnd => { s with link := { s.link with mailbox := [] } }
  | some .i3c => { s with pwr := { s.pwr with i3cAddr := 0 } }
  | some .dbg => { s with flt := { fenced := s.flt.fenced, bootFenced := s.flt.bootFenced } }
  | some .hmc => { s with buckets := s.buckets.filter fun q => q.1 / 3 != n }
  | some .stw => { s with pwr := { s.pwr with kicks := kdel s.pwr.kicks n } }
  | _ => s

/-- A soft reset of a page (R43); READY is 0 until SRESET_DONE. -/
def State.softReset (s : State) (page : Nat) : State :=
  let s := s.discard page
  { s with
    regs := keepBits s.regs fun p off => if p = page then softMask p off else 2 ^ 64 - 1
    staged := s.staged.filter fun p => p.1 / 0x1000 != page }

/-- RST_DOMAIN_GO (R458): the units of a quad or of PD_CAR, as if SRESET were written to each of their pages. -/
def execRstDomainGo (domain : BitVec 5) (s : State) : Out := .next <|
  let d := domain.toNat
  if (domainPages d).any s.claimed then s.reject pgRST Reg.RST_DOMAIN_GO.off 7
  else if !(d < 16 || d = 17) || s.domState d != 0 then s.reject pgRST Reg.RST_DOMAIN_GO.off 4
  else (domainPages d).foldl State.softReset (s.setFld pgRST Reg.RST_DOMAIN_DOMAIN d)

/-! ## Watchdogs -/

/-- WDT_KICK: the count restarts (R473). A watchdog counts from its first KICK (log 193). -/
def execWdtKick (stw : Fin 16) (s : State) : Out :=
  .next { s with pwr := { s.pwr with kicks := kset (fun _ => 0) s.pwr.kicks stw (s.beat + 1) } }

/-- WDT_EXPIRE: TIMEOUT_MS after the last KICK (R473). -/
def execWdtExpire (stw : Fin 16) (env : WarmEnv) (s : State) : Out := .next <|
  let pg := pgSTW stw
  let kick := kget (fun _ => 0) s.pwr.kicks stw
  let ms := s.fld pg Reg.STW_WDT_TIMEOUT_MS
  if kick = 0 || ms = 0 then s
  else s.atBeat (kick - 1 + ms * 700000) fun s =>
    let s := { s with pwr := { s.pwr with kicks := kdel s.pwr.kicks stw } }.setBit pg Reg.STW_WDT_EXPIRED true
    let s := s.error pg Src.stw_WDT_EXPIRE
    if s.bit pg Reg.STW_WDT_ACTION then s.warmRequest (8 + stw.val * 2 ^ 4) env else s

end Sys2Proof.Machine
end

