-- ==== Sys2Proof/Machine/Pwr.lean ====
section
/-!
DEFINITION. Power domains and the power cap (R463 to R465), clock gating (R468), temperature (R229, R469 to R472),
supplies (R461), the address of the I3C target (R474).
-/

namespace Sys2Proof.Machine

open Sys2Proof

/-! ## Power domains -/

/-- States that Table RPC-5 gives a domain: 0 ON, 1 OFF, 2 RETAIN. -/
def domainHas (d st : Nat) : Bool :=
  st = 0 || (st = 1 && d != 16) || (st = 2 && 18 ≤ d)

/-- A region of store memory lies in a half. -/
def Region.inHalf (r : Region) (h : Nat) : Bool :=
  r.base < storeBase + (h + 1) * halfBytes && storeBase + h * halfBytes < r.base + r.size

/-- A resident plan claims a domain (R464): units of it, or for a half a STORE_MEM region, an image area or a reorder
window in it. -/
def State.domainClaimed (s : State) (d : Nat) : Bool :=
  if d < 18 then (domainPages d).any s.claimed
  else (List.range 16).any fun p =>
    let a := (s.slot p).alloc
    s.slotState p != 0 && (a.store ++ a.image.toList ++ a.windowMem).any fun r => r.inHalf (d - 18)

/-- The domain of a unit. -/
def unitDomain : FUnit → Option Nat
  | .tile n => some (n / 4)
  | .quad n | .cmp n => some n
  | .dec n => some (n / 2)
  | .stw _ => some 16
  | .port _ | .bell _ => some 17
  | .half n => some (18 + n)
  | .page p => domainOf p
  | _ => none

/-- The state that a value of PWR_REQ asks of a domain. -/
def reqOf (v d : Nat) : Nat := bitsOf v (2 * d + 1) (2 * d)

/-- PWR_REQ (R464). The write is refused whole (R33); of several causes 7 comes first, then the lowest. -/
def execPwrReq (v : Word) (s : State) : Out := .next <|
  let old := s.fld pgPWR Reg.PWR_REQ_REQ
  let moves := (List.range 20).filter fun d => reqOf v.toNat d != reqOf old d
  let refuse := s.reject pgPWR Reg.PWR_REQ_REQ.off
  if moves.any fun d => reqOf old d = 0 && s.domainClaimed d then refuse 7
  else if v.toNat / 2 ^ 40 != 0 then refuse 2
  else if moves.any fun d => !domainHas d (reqOf v.toNat d) || d = 18 + s.poolHalf ||
      (reqOf v.toNat d = 0 && s.flt.gone.any fun u => unitDomain u == some d) then refuse 4
  else moves.foldl (fun (s : State) d =>
    { s with pwr := { s.pwr with moving := kset (fun _ => none) s.pwr.moving d (some s.beat) } }.setDomState d 3)
    (s.setFld pgPWR Reg.PWR_REQ_REQ v.toNat)

/-- The domain is no longer in transition. -/
def State.settleDomain (s : State) (d : Nat) : State := { s with pwr := { s.pwr with moving := kdel s.pwr.moving d } }

/-- PWR_DOMAIN_DONE: a domain reaches its requested state (R463). -/
def execPwrDomainDone (domain : Fin 20) (s : State) : Out := .next <|
  let d := domain.val
  if s.domState d != 3 then s
  else
    let t := s.settleDomain d
    match reqOf (s.fld pgPWR Reg.PWR_REQ_REQ) d with
    | 0 => t.domainOn d
    | 1 => t.domainOff d
    | st => t.setDomState d st

/-- SWITCH_FAIL: the domain has not reached its requested state within 1 ms (R478). -/
def execSwitchFail (domain : Fin 20) (s : State) : Out := .next <|
  match kget (fun _ => none) s.pwr.moving domain with
  | none => s
  | some b => s.atBeat (b + 700000) fun s =>
    (s.settleDomain domain).recordError pgPWR Src.pwr_SWITCH_FAIL false domain

/-- POWER_ESTIMATE (R465). CAPPED counts an interval that ends at level 1 or above (log 194). -/
def execPowerEstimate (watts : Nat) (s : State) : Out := .next <|
  let limit := s.fld pgPWR Reg.PWR_CAP_LIMIT_W
  let level := s.fld pgPWR Reg.PWR_EST_LEVEL
  let new := if limit < watts then min 6 (level + 1) else if watts * 100 < limit * 95 then level - 1 else level
  let s := s.setFld pgPWR Reg.PWR_EST_W (min watts 511)
  let s := if 1 ≤ level then s.addSat pgPWR Reg.PWR_EST_CAPPED 1 else s
  if new = level then s else (s.setFld pgPWR Reg.PWR_EST_LEVEL new).error pgPWR Src.pwr_CAP_ACTIVE

/-! ## Clock gating -/

/-- The quad's units hold no accepted work and run no stage (R468). -/
def State.quadIdle (s : State) (q : Nat) : Bool :=
  ((List.range 4).all fun i =>
    let t := s.tile (4 * q + i)
    t.running.isNone && t.strm.isEmpty && t.probes.isEmpty && t.divert.isEmpty && t.opDescs.isEmpty &&
      !(s.probeUnits.any fun u => u.1 == 4 * q + i)) &&
    !(s.decs.any fun d => d.live && d.dec / 2 == q)

/-- Set or clear a quad's bit of GATED. -/
def State.setGated (s : State) (q : Nat) (on : Bool) : State := s.setBit pgCLK ⟨Reg.CLK_GATE_GATED.off, 32 + q, 32 + q⟩ on

/-- QUAD_CLOCK_GATE (R468). -/
def execQuadClockGate (quad : Fin 16) (s : State) : Out :=
  .next (if s.bit pgCLK Reg.CLK_GATE_EN && s.domState quad == 0 && s.quadIdle quad then s.setGated quad true else s)

/-- QUAD_CLOCK_RESTART (R468). -/
def execQuadClockRestart (quad : Fin 16) (s : State) : Out := .next (s.setGated quad false)

/-! ## Temperature -/

/-- A sensor's history after a reading. -/
def State.noteSensor (s : State) (i : Nat) (ts : List Int) : State :=
  let t := ts.getD i 0
  let x : Sensor := { t := t, since := s.beat, all := ts }
  match kget (fun _ => none) s.pwr.sensors i with
  | some q => if q.t = t then s else { s with pwr := { s.pwr with sensors := kset (fun _ => none) s.pwr.sensors i (some x) } }
  | none => { s with pwr := { s.pwr with sensors := kset (fun _ => none) s.pwr.sensors i (some x) } }

/-- A sensor is bad (R469): out of range, or unchanged for 1 s while its neighbours change by 5 °C or more. Its neighbours
are the sensors of the next lower and higher index (log 195). -/
def State.sensorBad (s : State) (i : Nat) (ts : List Int) : Bool :=
  let t := ts.getD i 0
  t < -40 || 150 < t ||
    (match kget (fun _ => none) s.pwr.sensors i with
    | some q => q.t = t && q.since + 700000000 ≤ s.beat &&
        ((if i = 0 then [1] else if i = 31 then [30] else [i - 1, i + 1]) : List Nat).all fun j =>
          5 ≤ (ts.getD j 0 - q.all.getD j 0).natAbs
    | none => false)

/-- The Carillon's throttle level (Table CAR-5): it rises at once, and falls one level at a time. -/
def throttleLevel (old : Nat) (t offset : Int) : Nat :=
  let enters := fun (k : Nat) => (([95, 95, 100, 103] : List Int).getD k 95) - offset ≤ t
  let up := if enters 3 then 3 else if enters 2 then 2 else if enters 1 then 1 else 0
  let leave := (([0, 93, 98, 101] : List Int).getD old 0) - offset
  if old < up then up else if 0 < old && t < leave then old - 1 else old

/-- The hottest of the sensors at some indexes: reading and index. -/
def hottest (ts : List Int) (is : List Nat) : Option (Int × Nat) :=
  is.foldl (fun (m : Option (Int × Nat)) i =>
    match m with
    | some q => if q.1 < ts.getD i 0 then some (ts.getD i 0, i) else m
    | none => some (ts.getD i 0, i)) none

/-- A signed reading as a register byte. -/
def tempByte (t : Int) : Nat := (t % 256).toNat

/-- The Carillon's temperature and throttle (R229). -/
def State.carTemp (s : State) (ts : List Int) : State :=
  match hottest ts [16, 17, 18, 19] with
  | some (t, _) =>
    if !s.powered pgCAR then s
    else
      let s := s.setFld pgCAR Reg.CAR_STAT_TEMP (tempByte t)
      let old := s.fld pgCAR Reg.CAR_STAT_THROTTLE
      let new := throttleLevel old t (s.fld pgCAR Reg.CAR_CFG_THR_OFFSET)
      if new = old then s else (s.setFld pgCAR Reg.CAR_STAT_THROTTLE new).error pgCAR Src.car_THROTTLE
  | none => s

/-- THERM_L and WARN (R470), and the end of the trip condition (R472). -/
def State.thermWarn (s : State) (max_ : Int) : State :=
  let warn : Int := s.fld pgTHRM Reg.THRM_CFG_WARN_C
  let s := if max_ < warn then s.setBit pgTHRM Reg.THRM_STAT_TRIPPED false else s
  if s.bit pgTHRM Reg.THRM_STAT_THERM_L then
    if max_ < warn - 3 then
      { s with pins := { s.pins with thermL := true } }.setBit pgTHRM Reg.THRM_STAT_THERM_L false
    else s
  else if warn ≤ max_ then
    ({ s with pins := { s.pins with thermL := false } }.setBit pgTHRM Reg.THRM_STAT_THERM_L true).error pgTHRM Src.thrm_WARN
  else s

/-- The throttle of each quad (R471). -/
def State.quadThrottles (s : State) (ts : List Int) : State :=
  let limit : Int := s.fld pgTHRM Reg.THRM_CFG_TILE_C
  (List.range 16).foldl (fun (s : State) q =>
    let f : Fld := ⟨Reg.THRM_STAT_THROTTLED.off, 32 + q, 32 + q⟩
    let t := ts.getD q 0
    if s.bit pgTHRM f then (if t < limit - 3 then s.setBit pgTHRM f false else s)
    else if limit ≤ t then (s.setBit pgTHRM f true).error pgTHRM Src.thrm_QUAD_THROTTLE
    else s) s

/-- The trip at 110 °C on any sensor (R472): clocks stop, and the device goes down whatever ERR_SEV holds. -/
def State.thermTrip (s : State) (ts : List Int) : State :=
  if s.bit pgTHRM Reg.THRM_STAT_TRIPPED || !(ts.any fun t => 110 ≤ t) then s
  else
    let s := { s with pwr := { s.pwr with stopped := true } }.setBit pgTHRM Reg.THRM_STAT_TRIPPED true
    let s := s.error pgTHRM Src.thrm_TRIP
    if s.fltState = 4 then s
    else if s.fltState = 0 then s.enterSafe pgTHRM Src.thrm_TRIP 3 0
    else (s.setFld pgDBG Reg.DBG_FLT_SEV 3).goDown

/-- THRM_SAMPLE (R469): the readings of the 32 sensors. -/
def execThrmSample (temps : List (BitVec 8)) (s : State) : Out :=
  if temps.length != 32 then .refused .illFormed
  else .next <|
    let ts := temps.map BitVec.toInt
    let s := (List.range 4).foldl (fun (s : State) w =>
      s.setFld pgTHRM (Reg.THRM_S_TEMP w) (leNat (slice temps (8 * w) 8))) s
    let s := (List.range 32).foldl (fun (s : State) i => s.noteSensor i ts) s
    let bad := (List.range 32).filter fun i => s.sensorBad i ts
    let s := bad.foldl (fun (s : State) _ => s.error pgTHRM Src.thrm_SENSOR_BAD) s
    let s := match hottest ts ((List.range 32).filter fun i => !bad.contains i) with
      | some (t, i) =>
        ((s.setFld pgTHRM Reg.THRM_STAT_MAX (tempByte t)).setFld pgTHRM Reg.THRM_STAT_MAX_IDX i).thermWarn t
      | none => s
    ((s.carTemp ts).quadThrottles ts).thermTrip ts

/-! ## Supplies -/

/-- Lowest and highest nominal of a rail in mV (Table RPC-4): one value for a fixed rail, and for an adjustable one its
SUPV_SET value, or the ends of its range while that is 0 (R461). Rail 9 has no thresholds. -/
def State.railRange (s : State) (i : Nat) : Option (Nat × Nat) :=
  let adj := fun (set lo hi : Nat) => some (if set = 0 then (lo, hi) else (set, set))
  match i with
  | 0 => adj (s.fld pgSUPV Reg.SUPV_SET_ENG_MV) 600 800
  | 1 => adj (s.fld pgSUPV Reg.SUPV_SET_STW_MV) 650 900
  | 5 => adj (s.fld pgSUPV Reg.SUPV_SET_HMQ_MV) 700 900
  | 2 | 3 | 4 | 6 => some (750, 750)
  | 7 => some (1200, 1200)
  | 8 => some (1800, 1800)
  | _ => none

/-- A crossing counts when it lasts 500 ns, five samples (R461): the run of samples that differ from a debounced bit,
and the bit after this sample. -/
def debounce (run : Nat) (old now : Bool) : Nat × Bool :=
  if now = old then (0, old) else if 5 ≤ run + 1 then (0, now) else (run + 1, old)

/-- One rail's UV and OV bits after a sample, and whether each has just been set. -/
def State.railSample (s : State) (i mv : Nat) : State × Bool × Bool :=
  match s.railRange i with
  | none => (s, false, false)
  | some (lo, hi) =>
    let uvF : Fld := ⟨Reg.SUPV_STAT_UV.off, 16 + i, 16 + i⟩
    let ovF : Fld := ⟨Reg.SUPV_STAT_OV.off, 32 + i, 32 + i⟩
    let u := debounce (kget (fun _ => 0) s.pwr.uvRun i) (s.bit pgSUPV uvF) (mv * 100 < lo * 92)
    let o := debounce (kget (fun _ => 0) s.pwr.ovRun i) (s.bit pgSUPV ovF) (hi * 108 < mv * 100)
    let newU := u.2 && !s.bit pgSUPV uvF
    let newO := o.2 && !s.bit pgSUPV ovF
    let s := { s with pwr := { s.pwr with uvRun := kset (fun _ => 0) s.pwr.uvRun i u.1
                                          ovRun := kset (fun _ => 0) s.pwr.ovRun i o.1 } }
    ((s.setBit pgSUPV uvF u.2).setBit pgSUPV ovF o.2, newU, newO)

/-- The two windows of R447: what a lost NV floor ends, and what a lost burn window ends. -/
def State.nvLost (s : State) : State :=
  let s := s.error pgSUPV Src.supv_NV_FLOOR
  if s.bit pgXSPI Reg.XSPI_CMD_BUSY && s.bit pgXSPI Reg.XSPI_CMD_NV then (s.endFlash 1).error pgXSPI Src.xspi_NV_ABORT else s
def State.burnLost (s : State) : State :=
  match s.sec.burn with
  | some _ =>
    if s.sec.burnCut then s
    else { s with sec := { s.sec with burnCut := true } }.error pgFUSE Src.fuse_BURN_ABORT
  | none => s

/-- NV_OK and FUSE_OK after a sample of VDD_BASE, VDD_IO and VPP_FUSE (R447, R461). -/
def State.nvSample (s : State) (base io vpp : Nat) : State :=
  let run := fun (k : Nat) => kget (fun _ => 0) s.pwr.nvRun k
  let n := debounce (run 0) s.nvOk (7275 ≤ base * 10 && 1746 ≤ io)
  let f := debounce (run 1) (s.bit pgSUPV Reg.SUPV_STAT_FUSE_OK) (1764 ≤ vpp && vpp ≤ 1836)
  let nvGone := s.nvOk && !n.2
  let before := s.fuseOk
  let s := { s with pwr := { s.pwr with nvRun := kset (fun _ => 0) (kset (fun _ => 0) s.pwr.nvRun 0 n.1) 1 f.1 } }
  let s := (s.setBit pgSUPV Reg.SUPV_STAT_NV_OK n.2).setBit pgSUPV Reg.SUPV_STAT_FUSE_OK f.2
  let s := if nvGone then s.nvLost else s
  if before && !s.fuseOk then s.burnLost else s

/-- SUPV_SAMPLE (R461): the rails in mV, in the order of Table RPC-4. Rails 3, 7 and 8 below undervoltage hold the
device in a power-on reset (log 196). -/
def execSupvSample (mv : List Nat) (s : State) : Out :=
  if mv.length != 10 then .refused .illFormed
  else .next <|
    if !s.beatOn then s
    else
      let s := (List.range 3).foldl (fun (s : State) i =>
        s.wr pgSUPV (0x110 + 8 * i) (word ((List.range 4).foldl (fun m k =>
          m + (mv.getD (4 * i + k) 0) % 2 ^ 16 * 2 ^ (16 * k)) 0))) s
      let r := (List.range 10).foldl (fun (q : State × List Nat × List Nat) i =>
        let x := q.1.railSample i (mv.getD i 0)
        (x.1, if x.2.1 then q.2.1 ++ [i] else q.2.1, if x.2.2 then q.2.2 ++ [i] else q.2.2)) (s, [], [])
      let s := r.1
      if r.2.1.contains 3 then s.blank.setCause 0
      else if r.2.1.contains 7 || r.2.1.contains 8 then s.blank.setCause 2
      else
        let good := (List.range 10).foldl (fun m i =>
          if s.bit pgSUPV ⟨Reg.SUPV_STAT_UV.off, 16 + i, 16 + i⟩ || s.bit pgSUPV ⟨Reg.SUPV_STAT_OV.off, 32 + i, 32 + i⟩ then m
          else m + 2 ^ i) 0
        let s := s.setFld pgSUPV Reg.SUPV_STAT_GOOD good
        let s := s.nvSample (mv.getD 3 0) (mv.getD 8 0) (mv.getD 9 0)
        let s := r.2.1.foldl (fun (s : State) _ => s.error pgSUPV Src.supv_UV) s
        r.2.2.foldl (fun (s : State) _ => s.error pgSUPV Src.supv_OV) s

/-! ## I3C -/

/-- I3C_DAA: the target has its dynamic address (R474). -/
def execI3cDaa (addr : BitVec 7) (s : State) : Out := .next <|
  if s.enabled pgI3C then (s.setFld pgI3C Reg.I3C_STAT_DYN_ADDR addr.toNat).setBit pgI3C Reg.I3C_STAT_HJ_PEND false else s

end Sys2Proof.Machine
end

