-- ==== Sys2Proof/Machine/Views.lean ====
section
/-!
DEFINITION. What a read of a register returns (R30 to R32, R36, R46): the stored value, the staged one of a SHADOW
field, or a value that follows from structured state. A read changes nothing (R31).
-/

namespace Sys2Proof.Machine

open Sys2Proof

/-- A value in the place of a field. -/
def Fld.at (f : Fld) (v : Nat) : Nat := v % 2 ^ (f.hi + 1 - f.lo) * 2 ^ f.lo
def Fld.flag (f : Fld) (b : Bool) : Nat := f.at (if b then 1 else 0)
/-- One bit for each number below n that satisfies a test. -/
def bitSet (n : Nat) (p : Nat → Bool) : Nat := (List.range n).foldl (fun m i => if p i then m + 2 ^ i else m) 0

/-! ## What is free (R71) -/

/-- Free runs of a span beside what is used, in bytes of whole granules of 2 MiB. -/
def freeRuns (span : Nat × Nat) (used : List (Nat × Nat)) : List Nat :=
  let us := (used.filter fun u => u.2 != 0 && u.1 < span.2 && span.1 < u.1 + u.2).mergeSort fun a b => a.1 ≤ b.1
  let r := us.foldl (fun (q : Nat × List Nat) u => (max q.1 (roundUp (u.1 + u.2) mib2), (u.1 - q.1) :: q.2)) (span.1, [])
  ((span.2 - r.1) :: r.2).map (· / mib2)

/-- The zones of HBM (R355). -/
def zoneList : List (Nat × Nat) :=
  (0, 0) :: ((List.range 4).map fun n => ((1, n) : Nat × Nat)) ++ (List.range 128).map fun c => ((2, c) : Nat × Nat)

def sumList (l : List Nat) : Nat := l.foldl (· + ·) 0
def maxList (l : List Nat) : Nat := l.foldl max 0

def State.viewPlan (s : State) (off : Nat) : Option Nat :=
  let held := fun (f : Alloc → Nat) => sumList ((s.allocs 16).map f)
  let used := (s.used 16).map spanOf
  match off with
  | 0x100 => some (Reg.PLAN_SLOT_OCCUPIED.at (bitSet 16 fun p => s.slotState p != 0) +
      Reg.PLAN_SLOT_RUNNING.at (bitSet 16 fun p => s.slotState p == 3))
  | 0x108 => some (bitSet 64 (s.tileFree 16))
  | 0x110 => some (Reg.PLAN_FREE_BELLS_MASK.at (bitSet 32 (s.bellFree 16)) +
      Reg.PLAN_FREE_BELLS_STW.at (bitSet 16 fun n => s.stwFree 16 n false) +
      Reg.PLAN_FREE_BELLS_CUES.at (bitSet 16 (s.cueFree 16)))
  | 0x118 =>
    let runs := s.storeSpans.flatMap fun sp => freeRuns sp used
    some (Reg.PLAN_FREE_STORE_GRAN.at (sumList runs) + Reg.PLAN_FREE_STORE_RUN.at (maxList runs))
  | 0x120 =>
    let runs := (zoneList.filter fun z => s.zoneOn z.1 z.2).flatMap fun z => freeRuns (s.zoneSpan z.1 z.2) used
    some (Reg.PLAN_FREE_HBM_GRAN.at (sumList runs) + Reg.PLAN_FREE_HBM_RUN.at (maxList runs))
  | 0x128 => some (Reg.PLAN_FREE_MISC0_FLOWS.at (262144 - held Alloc.flows) +
      Reg.PLAN_FREE_MISC0_OWN.at (s.freeIds 16 64 Alloc.owns).length +
      Reg.PLAN_FREE_MISC0_QUEUES.at (s.freeIds 16 64 Alloc.queues).length +
      Reg.PLAN_FREE_MISC0_DEC.at ((List.range 32).filter (s.decFree 16)).length +
      Reg.PLAN_FREE_MISC0_ALIGN.at (s.freeIds 16 32 Alloc.aligns).length)
  | 0x130 => some (Reg.PLAN_FREE_MISC1_DELAY.at (65536 - held Alloc.delay) +
      Reg.PLAN_FREE_MISC1_WINDOWS.at (s.freeIds 16 1024 Alloc.wins).length)
  | 0x160 =>
    let p := s.fld pgPLAN Reg.PLAN_REGION_SEL_SLOT
    let a := (s.slot p).alloc
    let rs := if s.bit pgPLAN Reg.PLAN_REGION_SEL_HBM then a.hbm else a.store
    some (match rs.find? fun r => s.slotState p != 0 && r.id == s.fld pgPLAN Reg.PLAN_REGION_SEL_REGION with
      | some r => Reg.PLAN_REGION_BASE.at r.base + Reg.PLAN_REGION_VALID.flag true
      | none => 0)
  | _ => none

/-! ## Tiles and quads (R107, R184, R186) -/

/-- TILE_THR.STATE of a thread. A wait for a steward core has no duration here (log 60). -/
def runCode : RunState → Nat
  | .idle => 0
  | .run => 1
  | .streamWait => 2
  | .eventWait => 3
  | .ended => 5
  | .faulted => 6

def strmCode : StrmState → Nat
  | .active => 1
  | .pfWait => 2
  | .completing => 3

def State.viewTile (s : State) (page off : Nat) : Option Nat :=
  let n := instanceOf page
  let t := s.tile n
  let stored := (s.rd page off).toNat
  if off = 0x108 then
    some ((List.range 8).foldl (fun m k => m + runCode (t.thread k).run * 16 ^ k) 0 +
      Reg.TILE_THR_PREFETCH.at (bitSet 8 fun k => (t.thread k).prefetch.isSome) +
      stored / 2 ^ 40 % 32 * 2 ^ 40)
  else if off = 0x110 then
    some (match t.running with
      | some (p, st, k) => Reg.TILE_RUN_SLOT.at p + Reg.TILE_RUN_STAGE.at st + Reg.TILE_RUN_CHUNK.at k
      | none => 0)
  else if 0x118 ≤ off && off < 0x158 then
    let x := t.thread ((off - 0x118) / 8)
    some ((Reg.TILE_PC_PC 0).at x.pc + (match x.item with
      | some i => (Reg.TILE_PC_IN_ITEM 0).flag true + (Reg.TILE_PC_ITEM_CYCLES 0).at (min (s.beat - i.beat) (2 ^ 32 - 1))
      | none => 0))
  else if off = 0x808 then
    some (Reg.TILE_STRM_STAT_OUTSTANDING.at ((List.range 8).filter fun k => (t.slot k).isSome).length +
      Reg.TILE_STRM_STAT_PF_WAIT.flag ((List.range 8).any fun k => match t.slot k with
        | some x => x.st == .pfWait
        | none => false))
  else if 0x810 ≤ off && off < 0x850 then
    some (match t.slot ((off - 0x810) / 8) with
      | some x => (Reg.TILE_STRM_D_STATE 0).at (strmCode x.st) + (Reg.TILE_STRM_D_THREAD 0).at x.thread +
          (Reg.TILE_STRM_D_DIR 0).flag x.desc.write + (Reg.TILE_STRM_D_ELEMS_DONE 0).at x.done
      | none => 0)
  else none

def State.viewQuad (s : State) (page off : Nat) : Option Nat :=
  let q := instanceOf page
  if off = 0x100 then
    some (Reg.QUAD_STAT_TILE_READY.at (bitSet 4 fun i => s.ready (pgTILE (4 * q + i))) +
      Reg.QUAD_STAT_DEC_READY.at (bitSet 2 fun i => s.ready (pgDEC (2 * q + i))) +
      Reg.QUAD_STAT_CMP_READY.flag (s.ready (pgCMP q)))
  else none

/-! ## The Carillon (R250, R251) -/

def State.viewCar (s : State) (off : Nat) : Option Nat :=
  if off < 0x200 || 0x400 ≤ off then none
  else
    match s.table ((off - 0x200) / 0x10) with
    | none => some 0
    | some t =>
      if off % 0x10 = 0 then
        some ((Reg.CAR_T_CFG_SLOT 0).at t.slot + (Reg.CAR_T_CFG_LT 0).at t.lt + (Reg.CAR_T_CFG_KIND 0).at t.kind +
          (Reg.CAR_T_CFG_REPL 0).at t.repl + (Reg.CAR_T_CFG_BELLS 0).at t.bells + (Reg.CAR_T_CFG_STANDBY 0).flag t.standby +
          (Reg.CAR_T_CFG_VALID 0).flag true + (Reg.CAR_T_CFG_LAT_EN 0).flag t.latEn +
          (Reg.CAR_T_CFG_LAT_REPLICA 0).at t.latReplica + (Reg.CAR_T_CFG_ACTIVE_SET 0).at t.active +
          (Reg.CAR_T_CFG_LOADING 0).flag t.loading + (Reg.CAR_T_CFG_LOST 0).flag t.lost)
      else
        some ((Reg.CAR_T_STAT_ENTRIES 0).at (sumList ((List.range t.bells).map fun j =>
            (s.bell (s.physBell t t.active 0 j)).entries.length)) + (Reg.CAR_T_STAT_SWAPS 0).at t.swaps)

/-- Entries that a shift in progress has still to move in a bell, if one is in progress there. -/
def CarTable.shiftLeft (t : CarTable) (b : Nat) : Option Nat :=
  match t.job with
  | some ⟨_, _, _, .shift bs _ q hole _ _ _⟩ => if bs.contains b then some (shiftLen q hole) else none
  | some ⟨_, _, _, .regap⟩ => some 0
  | _ => none

def State.viewBell (s : State) (page off : Nat) : Option Nat :=
  let b := instanceOf page
  let es := (s.bell b).entries
  match off, s.bellRole b with
  | 0x100, none => some ((s.rd page off).toNat / 2 ^ 32 * 2 ^ 32)
  | 0x100, some (tid, t, set, rep, j) =>
    let sh := t.shiftLeft b
    some (Reg.BELL_STAT_TABLE.at tid + Reg.BELL_STAT_IN_USE.flag true + Reg.BELL_STAT_REPLICA.at rep +
      Reg.BELL_STAT_SET.at set + Reg.BELL_STAT_LOGICAL.at j + Reg.BELL_STAT_SHIFTING.flag sh.isSome +
      Reg.BELL_STAT_SHIFT_REMAIN.at (sh.getD 0) + (s.rd page off).toNat / 2 ^ 32 * 2 ^ 32)
  | 0x108, _ => some (Reg.BELL_OCC_VALID.at es.length + Reg.BELL_OCC_CLASSES.at (es.map fun e => e.2.len).eraseDups.length +
      Reg.BELL_OCC_FREE.at (bellSize - es.length))
  | 0x118, some (_, t, set, rep, j) => some (s.shadowAddr t set rep j 0 / 2 ^ 21 * 2 ^ 21)
  | _, _ => none

/-! ## Owner tables, batches, flows, time -/

def State.viewOwn (s : State) (off : Nat) : Option Nat :=
  if off = 0x100 then
    some (Reg.OWN_STAT_TABLES.at (64 - (s.freeIds 16 64 Alloc.owns).length) +
      Reg.OWN_STAT_WINDOWS.at (1024 - (s.freeIds 16 1024 Alloc.wins).length) +
      Reg.OWN_STAT_PREV_HELD.flag ((List.range 16).any fun p => (s.own p).prev.isSome))
  else none

def State.viewBatq (s : State) (off : Nat) : Option Nat :=
  if 0x200 ≤ off && off < 0xA00 && off % 0x20 = 0x18 then
    let n := (off - 0x200) / 0x20
    let f := Reg.BATQ_Q_STAT_SLOT 0
    let stored := (s.rd pgBATQ off).toNat
    some (match s.queue n with
      | none => stored / 2 ^ 32 * 2 ^ 32
      | some q => f.at q.slot + (Reg.BATQ_Q_STAT_IN_USE 0).flag true + stored / 2 ^ 5 % 4 * 2 ^ 5 +
          (Reg.BATQ_Q_STAT_SLOTS_LOG2 0).at (Nat.log2 q.slots) + (Reg.BATQ_Q_STAT_DEPTH 0).at q.depth +
          (Reg.BATQ_Q_STAT_OPEN 0).at q.batches.length + stored / 2 ^ 32 * 2 ^ 32)
  else none

/-- Events of the pool that wait. -/
def State.waitingEvents (s : State) : List PoolEnt := s.fsch.pool.filter fun e => e.st == .waiting

def State.viewFsch (s : State) (off : Nat) : Option Nat :=
  let ofPrio := fun (p : Nat) => (s.waitingEvents.filter fun e => e.ev.prio == p).length
  let flowOf := fun (e : PoolEnt) => (s.slot e.slot).alloc.flowBase + e.flow
  let watch := s.fld pgFSCH Reg.FSCH_WATCH_FLOW
  if off = 0x110 then some (s.beat / max (s.fld pgFSCH Reg.FSCH_TICK_DIV) 1)
  else if 0x128 ≤ off && off < 0x148 then
    let i := (off - 0x128) / 8
    some ((Reg.FSCH_DEPTH_LOW 0).at (ofPrio (2 * i)) + (Reg.FSCH_DEPTH_HIGH 0).at (ofPrio (2 * i + 1)))
  else if off = 0x158 then
    some ((s.rd pgFSCH off).toNat % 2 ^ 32 +
      Reg.FSCH_WATCH_LAST_WAITING.at (s.waitingEvents.filter fun e => flowOf e == watch).length +
      Reg.FSCH_WATCH_LAST_IN_SERVICE.flag (s.fsch.pool.any fun e => flowOf e == watch && (match e.st with
        | .inService _ _ | .inCore _ => true
        | _ => false)))
  else if off = 0x168 then
    let u := s.fld pgFSCH Reg.FSCH_LOAD_SEL_UNIT
    some (Reg.FSCH_LOAD_DELIVERED.at (kget (fun _ => 0) s.fsch.delivered u) +
      Reg.FSCH_LOAD_SERVICE.at (min (kget (fun _ => 0) s.fsch.service u / 1024) (2 ^ 32 - 1)))
  else none

/-! ## Security and fuses -/

/-- Record of the measurement log that SEC_LOG_CTL.IDX selects (R438): numbers modulo 2,048. -/
def State.logRecord (s : State) : List Byte :=
  let total := s.fld pgSEC Reg.SEC_LOG_CTL_TOTAL
  let age := (total + 2047 - s.fld pgSEC Reg.SEC_LOG_CTL_IDX) % 2048
  s.sec.log.getD age []

def State.viewSec (s : State) (off : Nat) : Option Nat :=
  if 0x168 ≤ off && off < 0x1A8 then some (bytesAt s.logRecord (off - 0x168) 8) else none

/-- FUSE_RDATA (R445, R452): the identity SEED reads as 0. -/
def State.viewFuse (s : State) (off : Nat) : Option Nat :=
  if off = 0x118 then
    let a := s.fld pgFUSE Reg.FUSE_RADDR_ADDR * 8
    some (if 0x100 ≤ a && a < 0x120 then 0 else leNat (s.otpBytes a 8))
  else none

/-! ## Reads -/

/-- A value that follows from structured state. -/
def State.viewOf (s : State) (page off : Nat) : Option Nat :=
  match blockOf page with
  | some .plan => s.viewPlan off
  | some .tile => s.viewTile page off
  | some .quad => s.viewQuad page off
  | some .car => s.viewCar off
  | some .bell => s.viewBell page off
  | some .own => s.viewOwn off
  | some .batq => s.viewBatq off
  | some .fsch => s.viewFsch off
  | some .time => if off = 0x100 then some s.beat else none
  | some .sec => s.viewSec off
  | some .fuse => s.viewFuse off
  | _ => none

/-- The block holds accepted work (BLK_STAT.BUSY). -/
def State.holdsWork (s : State) (page : Nat) : Bool :=
  let n := instanceOf page
  match blockOf page with
  | some .tile => (s.tile n).running.isSome || !(s.tile n).strm.isEmpty
  | some .quad => !s.quadIdle n
  | some .dec => s.decs.any fun d => d.dec == n && d.live
  | some .car => !s.car.searches.isEmpty || (List.range 32).any fun t => match s.table t with
      | some x => x.job.isSome
      | none => false
  | some .bell => match s.bellRole n with
      | some q => (q.2.1.shiftLeft n).isSome
      | none => false
  | some .plan => s.admission.isSome || (List.range 16).any fun p => !(s.slot p).runs.isEmpty
  | some .cmdq => (List.range 16).any fun r => (s.ring r).busy || !(s.ring r).cpls.isEmpty
  | some .fsch => !s.fsch.pool.isEmpty || !s.fsch.delay.isEmpty
  | some .time => s.cues.any fun c => c.2.isSome
  | some .batq => (List.range 64).any fun q => match s.queue q with
      | some x => !x.batches.isEmpty || x.commitOut.isSome
      | none => false
  | some .own => (List.range 16).any fun p => (s.own p).staged.isSome
  | some .shuf => !s.augs.isEmpty
  | some .stw => (List.range 16).any fun p => (s.slot p).alloc.stws.contains n && !(s.slot p).runs.isEmpty
  | some .ulnk => s.link.reqs.any fun r => r.link == n
  | some .xspi => s.bit pgXSPI Reg.XSPI_CMD_BUSY
  | some .fuse => s.sec.burn.isSome
  | some .sec => s.sec.quote.isSome
  | _ => false

/-- BLK_STAT (R46): PWR_OFF and SHD_PEND follow from state; BUSY too, but in a block whose ENABLE is 0, which clears it
when its work is done (R42). -/
def State.blkStat (s : State) (page : Nat) : Nat :=
  let on := s.powered page
  let put := fun (w : Nat) (f : Fld) (b : Bool) => (putBits (word w) f.hi f.lo (if b then 1 else 0)).toNat
  let w := (s.rd page 0x10).toNat
  let w := put w Reg.BLK_STAT_SHD_PEND (s.shdPend page && on)
  let w := put w Reg.BLK_STAT_PWR_OFF (!on)
  let w := if on then w else put w Reg.BLK_STAT_READY false
  if s.enabled page && on then put w Reg.BLK_STAT_BUSY (s.holdsWork page) else w

/-- Bits that a WO field or no field holds read as 0 (R32). -/
def readMask (page off : Nat) : Nat := maskOf (fun f => f.acc != .wo) page off

/-- What an aligned 8 B read of a register returns. -/
def State.readReg (s : State) (page off : Nat) : Nat :=
  match blockOf page with
  | none => 0
  | some _ =>
    if off = 0x10 then s.blkStat page
    else if !s.powered page then
      (if off = 0 || off = 0x20 || off = 0x38 || off = 0x40 || off = 0x48 then (s.rd page off).toNat else 0)
    else if off = 0x28 then (s.rd page off).toNat
    else match s.viewOf page off with
      | some v => v % 2 ^ 64
      | none => (s.rdStaged page off).toNat &&& readMask page off

end Sys2Proof.Machine
end

