-- ==== Sys2Proof/Machine/RegCmds.lean ====
section
/-!
DEFINITION. Register accesses (02): writes that are applied whole or dropped whole (R30 to R40), the common header
(R41 to R46), the actions that a write of a register starts, accesses of the package management controller (R474) and of
the sideband (R379).
-/

namespace Sys2Proof.Machine

open Sys2Proof

/-- The state that a meaning goes on with. -/
def stateAfter (s : State) : Out → State
  | .next t => t
  | _ => s

/-! ## Whether a write is refused (R33) -/

/-- Error sources of a page, two bits each (ERR_SEV). -/
def sevMask (page : Nat) : Nat :=
  (List.range 32).foldl (fun m i => if sourceMask page / 2 ^ i % 2 = 1 then m + 3 * 4 ^ i else m) 0

/-- Bits of a register that a write may set. -/
def writable (page off : Nat) : Nat :=
  if off = 0x20 || off = 0x30 then sourceMask page
  else if off = 0x28 then sevMask page
  else maskOf (fun _ => true) page off

/-- Bits of STATIC fields; MODE is LIVE in GLB. -/
def staticMask (page off : Nat) : Nat :=
  if page = pgGLB && off = 8 then 0 else maskOf (fun f => f.cls == .static_ && f.acc == .rw) page off

/-- A value lies outside a range. -/
def outside (x lo hi : Nat) : Bool := x < lo || hi < x

/-- The value written breaks the range that a field of the register states: cause 4, or an action is refused with it. -/
def State.rangeBad (s : State) (page off : Nat) (v : Nat) : Bool :=
  match blockOf page with
  | some .glb =>
    if off = 0x120 then (List.range 3).any fun n => bitsOf v (4 + n) (4 + n) = 1 &&
      (bitsOf (s.fld pgGLB Reg.GLB_LGRP_PRESENT) n n = 0 || !s.bit (pgULNK n) Reg.ULNK_STAT_CACHE_EN ||
        !s.bit (pgULNK n) Reg.ULNK_STAT_MEM_EN)
    else if off = 0x140 then bitsOf v 47 40 = 0
    else off = 0x148 && outside (bitsOf v 16 0) 100 60000
  | some .rst =>
    let d := bitsOf v 4 0
    off = 0x110 && bitsOf v 8 8 = 1 && (!(d < 16 || d = 17) || s.domState d != 0)
  | some .pwr => off = 0x110 && outside (bitsOf v 8 0) 100 480
  | some .clk => off = 0x108 && outside (bitsOf v 23 8) 64 65535
  | some .fuse => off = 0x108 && bitsOf v 16 16 = 1 && s.bit pgFUSE Reg.FUSE_PROG_BUSY
  | some .sec => off = 0x110 && bitsOf v 0 0 = 1 && s.bit pgSEC Reg.SEC_QUOTE_CTL_BUSY
  | some .thrm => off = 0x100 && (outside (bitsOf v 7 0) 80 105 || outside (bitsOf v 15 8) 80 108)
  | some .supv =>
    let bad := fun (x lo hi : Nat) => x != 0 && outside x lo hi
    let eng := bitsOf v 11 0
    off = 0x100 && (bad eng 600 800 || (eng != 0 && eng < s.fld pgSUPV Reg.SUPV_SET_ENG_MIN_MV) ||
      bad (bitsOf v 27 16) 650 900 || bad (bitsOf v 43 32) 700 900)
  | some .ulnk | some .hphy => off = 0x100 && 5 < bitsOf v 2 0
  | some .xspi =>
    (off = 0x100 && bitsOf v 3 0 = 0) ||
      (off = 0x108 && (256 < bitsOf v 26 18 || (bitsOf v 31 31 = 1 && s.bit pgXSPI Reg.XSPI_CMD_BUSY)))
  | some .dbg => 0x120 ≤ off && off < 0x150 && s.fltState != 2
  | some .hmc =>
    if off = 0x100 then outside (bitsOf v 7 0) 70 104 || bitsOf v 15 8 ≤ bitsOf v 7 0 || 115 < bitsOf v 15 8
    else if off = 0x120 then outside (bitsOf v 7 0) 1 168
    else if off = 0x400 then
      let a := bitsOf v 5 0
      let b := bitsOf v 13 8
      let c := bitsOf v 21 16
      a = 0 || b = 0 || c = 0 || 64 < a + b + c
    else
      let f := bitsOf v 7 0
      let cl := bitsOf v 13 8
      page = pgHMC 0 && off = 0x408 && ((f > 64 && f != 255) || cl > 32 || !s.bit pgGLB Reg.GLB_STAT_READY ||
        s.fld pgGLB Reg.GLB_HBM_STACK_GIB < (if f = 255 then 0 else f) + 2 * cl)
  | some .plan => off = 0x138 && (outside (bitsOf v 5 0) 16 32 || outside (bitsOf v 13 8) 16 40)
  | some .fsch =>
    if off = 0x100 then bitsOf v 23 0 = 0
    else if off = 0x108 then outside (bitsOf v 20 0) 1 1048576
    else if off = 0x118 then outside (bitsOf v 52 32) 1024 1047552
    else if off = 0x160 then 79 < bitsOf v 6 0
    else 0x200 ≤ off && off < 0x400 && off % 0x20 = 8 && outside (bitsOf v 4 0) 6 16
  | some .time =>
    if off = 0x130 then outside ((bitsOf v 31 0 + 1000000) % 2 ^ 32) 0 2000000
    else if off = 0x138 then bitsOf v 31 8 = 0 || bitsOf v 47 32 = 0
    else
      let c := (off - 0x208) / 0x10
      0x208 ≤ off && off < 0x408 && off % 0x10 = 8 && bitsOf v 0 0 = 1 && (16 ≤ c || s.cadenceSlot c || (s.cue c).isSome)
  | some .batq =>
    if off = 0x100 then bitsOf v 3 0 = 0
    else 0x200 ≤ off && off < 0xA00 && off % 0x20 = 0 &&
      (match s.queue ((off - 0x200) / 0x20) with
      | some q => q.slots < bitsOf v 16 0
      | none => false)
  | some .cmdq => 0x100 ≤ off && off < 0x300 && off % 0x20 = 8 && outside (bitsOf v 4 0) 6 16
  | some .dec => off = 0x100 && bitsOf v 7 0 = 0
  | some .cmp => off = 0x100 && outside (bitsOf v 2 0) 1 4
  | some .tile => off = 0x800 && outside (bitsOf v 15 0) 1 60000
  | some .stw => off = 0x108 && 60000 < bitsOf v 15 0
  | _ => false

/-- The block's ENABLE is not for a write to change (R42). -/
def alwaysOn (page : Nat) : Bool :=
  match blockOf page with
  | some b => b.always
  | none => false

/-- Cause 7 PLAN_HELD: ENABLE cleared, or a reset asked, of what a plan holds (R42, R43, R71, R458). -/
def State.planHeld (s : State) (page off v : Nat) : Bool :=
  if off = 8 then
    let clears := s.enabled page && !alwaysOn page && bitsOf v 0 0 = 0
    (clears && page = pgPLAN && (List.range 16).any fun p => s.slotState p != 0) ||
      ((clears || bitsOf v 1 1 = 1) && s.claimed page)
  else page = pgRST && off = 0x110 && bitsOf v 8 8 = 1 && (domainPages (bitsOf v 4 0)).any s.claimed

/-- Cause 1: a STATIC field changed while ENABLE = 1 (R34), SRESET with ENABLE = 1 (R43), zones while an HMC is enabled
(R356), an IEEE 1500 instruction on the port of an enabled HMC (R427). -/
def State.staticHeld (s : State) (page off v : Nat) : Bool :=
  let m := staticMask page off
  (s.enabled page && (v &&& m) != ((s.rd page off).toNat &&& m)) || (off = 8 && bitsOf v 1 1 = 1 && s.enabled page) ||
    (page = pgHMC 0 && off = 0x408 && (List.range 4).any fun n => s.enabled (pgHMC n)) ||
    (page = pgDBG && off = 0x160 && bitsOf v 2 2 = 1 && s.enabled (pgHMC (bitsOf v 1 0)))

/-- Cause 5: 1 ASSIST in a block that carries no function (R44). -/
def modeBad (page off v : Nat) : Bool :=
  off = 8 && bitsOf v 2 2 = 1 && match blockOf page with
    | some b => !b.hasMode
    | none => true

/-- Cause 6: CUE_SEL changed while CUE_ARM = 1. -/
def State.armed (s : State) (page off v : Nat) : Bool :=
  off = 8 && s.bit page Reg.BLK_CTRL_CUE_ARM && bitsOf v 12 8 != s.fld page Reg.BLK_CTRL_CUE_SEL

/-- The cause for which a write is refused (R33): 7 first, then the lowest that applies. -/
def State.writeCause (s : State) (page off v : Nat) : Option Nat :=
  if s.planHeld page off v then some 7
  else if s.staticHeld page off v then some 1
  else if v - (v &&& writable page off) != 0 then some 2
  else if s.rangeBad page off v then some 4
  else if modeBad page off v then some 5
  else if s.armed page off v then some 6
  else none

/-! ## What a write changes -/

/-- The active value after a write: LIVE and STATIC fields take it, W1C fields clear; a cleared CFG_REJECT clears its
cause and offset, a cleared VALID its register. -/
def writtenValue (page off old v : Nat) : Nat :=
  let set := maskOf (fun f => f.acc == .rw && f.cls != .shadow) page off
  let set := if off = 8 && alwaysOn page then set - (set &&& 1) else set
  let clear := v &&& maskOf (fun f => f.acc == .w1c) page off
  let clear := if off = 0x10 && bitsOf v 2 2 = 1 then clear ||| (bitMask 11 8 + bitMask 27 16)
    else if off = 0x38 && bitsOf v 7 7 = 1 then 2 ^ 64 - 1 else clear
  let new := old - (old &&& set) + (v &&& set)
  new - (new &&& clear)

/-- The fields of a write take effect: the SHADOW ones are staged, and applied at once in a disabled block (R36, R37). -/
def State.storeFields (s : State) (page off v : Nat) : State :=
  let sm := maskOf (fun f => f.cls == .shadow) page off
  let old := (s.rdStaged page off).toNat
  let s := s.wr page off (word (writtenValue page off (s.rd page off).toNat v))
  if sm = 0 then s
  else
    let x := word (old - (old &&& sm) + (v &&& sm))
    let s := { s with staged := kset (fun k => kget resetVal s.regs k) s.staged (regKey page off) x }
    if s.enabled page then s else s.applyStaged page

/-- What a write of BLK_CTRL brings about beyond its fields (R37, R42, R43). -/
def State.ctrlWritten (s : State) (page : Nat) (was : Bool) (v : Nat) : State :=
  let s := if was && !s.enabled page then (s.setBit page Reg.BLK_STAT_BUSY (s.holdsWork page)).applyStaged page else s
  let s := if bitsOf v 4 4 = 1 && s.enabled page && !s.bit page Reg.BLK_CTRL_SHD_HOLD && !s.bit page Reg.BLK_CTRL_CUE_ARM
    then s.applyStaged page else s
  let s := if bitsOf v 1 1 = 1 then s.softReset page else s
  if page = pgCMDQ && !was && s.enabled page then (List.range 16).foldl (fun (s : State) n => s.settleRing n) s else s

/-- Forced sources (R409): a page without power records nothing. -/
def State.forceSources (s : State) (page v : Nat) : State :=
  (List.range 32).foldl (fun (s : State) i =>
    if bitsOf v i i = 1 then (s.forcedArg page i).2.detect page i true (s.forcedArg page i).1 else s) s

/-- Actions of the common header. -/
def State.headerActions (s : State) (page off v : Nat) (was : Bool) : State :=
  if off = 8 then s.ctrlWritten page was v
  else if off = 0x30 then s.forceSources page v
  else if 0x68 ≤ off && off < 0xF8 && off % 0x10 = 8 then
    (if bitsOf v 17 17 = 1 then s.setFld page (Reg.PERF_CNT_COUNT ((off - 0x68) / 0x10)) 0 else s)
  else if off = 0xF8 && bitsOf v 1 1 = 1 then
    (List.range 9).foldl (fun (s : State) i => s.setFld page (Reg.PERF_CNT_COUNT i) 0) s
  else s

/-- Facts from outside the device that a raw register write does not carry are free (log 200). -/
def freeWarm (n : Nat) : WarmEnv := { match_ := n % 2 == 0 }
def freeRecov (n : Nat) : RecovEnv :=
  { failing := (List.finRange 512).filter fun p => n / 2 ^ p.val % 2 = 1, cacheBad := n / 2 ^ 512 % 2 == 1 }

/-- Actions of the block-specific registers, once their fields have taken effect. `old` is the register before. -/
def State.blockActions (s : State) (by_ : Writer) (page off v old : Nat) : State :=
  let set := fun (b : Nat) => bitsOf v b b = 1
  let rises := fun (b : Nat) => bitsOf v b b = 1 && bitsOf old b b = 0
  let n := instanceOf page
  match blockOf page with
  | some .glb => if off = 0x140 && set 48 then stateAfter s (execRelease s) else s
  | some .rst =>
    if off = 0x100 && set 0 then stateAfter s (execWarmReset by_ (freeWarm s.fresh.1) s.fresh.2)
    else if off = 0x118 then s.setBit pgRST Reg.RST_GPIO_HELD false else s
  | some .sec =>
    if off = 0x110 && set 0 then stateAfter s (execSecQuoteGo s)
    else if off = 0x118 && set 0 then stateAfter s (execSecExtendGo s) else s
  | some .hphy =>
    if off = 0x118 then
      stateAfter s (execHphyStep (Fin.ofNat 4 n) (BitVec.ofNat 4 v) (Fin.ofNat 4 s.fresh.1) (BitVec.ofNat 32 (s.fresh.1 / 4))
        s.fresh.2)
    else s
  | some .dbg => if off = 0x150 && set 0 then stateAfter s (execDbgRecovGo (freeRecov s.fresh.1) s.fresh.2) else s
  | some .fsch =>
    if off = 0x100 && set 32 then stateAfter s (execHistClear s)
    else if off = 0x120 && set 32 then stateAfter s (execPoolHwmClear s)
    else if off = 0x148 && set 32 then stateAfter s (execWatchClear s) else s
  | some .time =>
    if off = 0x108 && set 0 then stateAfter s (execTimeSnapTake s)
    else if off = 0x138 then
      let s := if rises 1 then { s with time := { s.time with prevOk := false } } else s
      if rises 0 then { s with time := { s.time with since := s.beat, missed := false } } else s
    else s
  | some .fast => if off = 0x118 && set 24 then stateAfter s (execFastLatClear s) else s
  | some .cmdq =>
    if 0x100 ≤ off && off < 0x300 && off % 0x20 = 8 && rises 8 then s.restartRing ((off - 0x108) / 0x20) else s
  | some .stw => if off = 0x108 && set 16 then stateAfter s (execWdtKick (Fin.ofNat 16 n) s) else s
  | _ => s

/-- Bits of a DBG_FENCE register that earlier recoveries fenced; they cannot be cleared (R427). -/
def State.fencedBits (s : State) (off : Nat) : Nat :=
  (((s.flt.fenced.flatMap fun u => u :: u.parts).filterMap FUnit.ownBit).filter fun b => b.1 == off).foldl
    (fun m b => m ||| 2 ^ b.2) 0

/-- Registers whose write is one action as a whole. -/
def State.wholeAction (s : State) (page off : Nat) (v : Word) : Option State :=
  let x := v.toNat
  let set := fun (b : Nat) => bitsOf x b b = 1
  match blockOf page with
  | some .glb =>
    if off = 0x120 then
      some ((List.finRange 3).foldl (fun (s : State) p => if set (4 + p.val) then stateAfter s (execGlbLgrpBind p s) else s) s)
    else none
  | some .hmc =>
    if page = pgHMC 0 && off = 0x408 then
      some (stateAfter s (execHmc0ZoneWrite (BitVec.ofNat 8 x) (BitVec.ofNat 6 (x / 2 ^ 8)) s))
    else none
  | some .fuse => if off = 0x108 && set 16 then some (stateAfter s (execFuseProgGo (BitVec.ofNat 16 x) s)) else none
  | some .xspi => if off = 0x108 && set 31 then some (stateAfter s (execXspiCmdGo v s)) else none
  | some .rst => if off = 0x110 && set 8 then some (stateAfter s (execRstDomainGo (BitVec.ofNat 5 x) s)) else none
  | some .dbg =>
    if off = 0x160 && set 2 then some (stateAfter s (execDbg1500Go (Fin.ofNat 4 x) (BitVec.ofNat 8 (x / 2 ^ 8)) s))
    else if 0x120 ≤ off && off < 0x150 then
      some (s.wr pgDBG off (word (x ||| s.fencedBits off)))
    else none
  | some .batq =>
    if 0x200 ≤ off && off < 0xA00 && off % 0x20 = 0x10 then
      some (stateAfter s (execBatqCons (Fin.ofNat 64 ((off - 0x210) / 0x20)) none 8 v s))
    else none
  | some .time =>
    if 0x208 ≤ off && off < 0x408 && off % 0x10 = 8 && set 0 then
      some (stateAfter s (execTimeCuePost (Fin.ofNat 32 ((off - 0x208) / 0x10)) s))
    else none
  | _ => none

/-- A write that is not refused. -/
def State.applyWrite (s : State) (by_ : Writer) (page off : Nat) (v : Word) : State :=
  match s.wholeAction page off v with
  | some t => t
  | none =>
    let was := s.enabled page
    let old := (s.rd page off).toNat
    let s := s.storeFields page off v.toNat
    if off < 0x100 then s.headerActions page off v.toNat was else s.blockActions by_ page off v.toNat old

/-- A refused write. A refused GO of FUSE_PROG also answers as R446 says. -/
def State.refuseWrite (s : State) (page off cause : Nat) (v : Nat) : State :=
  let s := s.reject page off cause
  if page = pgFUSE && off = 0x108 && bitsOf v 16 16 = 1 then
    (s.setFld pgFUSE Reg.FUSE_PROG_RESULT 4).error pgFUSE Src.fuse_PROG_REFUSED
  else s

/-- A write of some bytes to a page (R24, R30, R33, R46). -/
def State.writeReg (s : State) (by_ : Writer) (page off bytes : Nat) (v : Word) : State :=
  if (blockOf page).isNone || !s.powered page then s
  else if bytes != 8 || off % 8 != 0 then s.reject page off 3
  else if page = pgPWR && off = 0x100 then stateAfter s (execPwrReq v s)
  else match s.writeCause page off v.toNat with
    | some c => s.refuseWrite page off c v.toNat
    | none => s.applyWrite by_ page off v

/-! ## Commands -/

/-- Pages that the package management controller may write (R474). -/
def pmcPage (page : Nat) : Bool :=
  page = pgGLB || page = pgRST || page = pgPWR || page = pgCLK || page = pgTHRM || page = pgSUPV || page = pgI3C

/-- REG_WRITE. The host writes through the BAR0 of a port, of which only the primary one serves it (R390); the sideband
reaches the SBND page alone (R379). -/
def execRegWrite (by_ : Writer) (port : Fin 3) (page : Fin 512) (off : Fin 4096) (bytes : Nat) (v : Word) (s : State) :
    Out := .next <|
  match by_ with
  | .host =>
    if s.primary = some port.val then s.writeReg .host page off bytes v
    else if s.linkUp port then s.error (pgULNK port) Src.ulnk_SECONDARY_MMIO else s
  | .pmc =>
    if !s.enabled pgI3C then s
    else if pmcPage page then s.writeReg .pmc page off bytes v else s.error pgI3C Src.i3c_PMC_DENIED
  | .sideband => if page.val = pgSBND then s.writeReg .sideband page off bytes v else s
  | .henair => s.writeReg .henair page off bytes v
  | .dbg => s.writeReg .dbg page off bytes v

/-- BLK_CTRL as it stands, without the bits that act. -/
def State.ctrl (s : State) (page : Nat) : Nat := (s.rd page 8).toNat &&& maskOf (fun f => f.acc == .rw) page 8

/-- ENABLE (R42). -/
def execEnable (page : Fin 512) (on : Bool) (s : State) : Out :=
  .next (s.writeReg .host page 8 8 (word (s.ctrl page / 2 * 2 + if on then 1 else 0)))

/-- BLOCK_DRAINED (R42): a disabled block that holds no more work clears BUSY. -/
def execBlockDrained (page : Fin 512) (s : State) : Out :=
  .next (if s.enabled page || s.holdsWork page then s else s.setBit page Reg.BLK_STAT_BUSY false)

/-- SRESET (R43). -/
def execSreset (page : Fin 512) (s : State) : Out := .next (s.writeReg .host page 8 8 (word (s.ctrl page ||| 2)))

/-- SRESET_DONE (R43): READY returns to 1; a controller, PHY or link must be trained as well (log 181). -/
def execSresetDone (page : Fin 512) (s : State) : Out := .next <|
  let n := instanceOf page
  let trained := match blockOf page with
    | some .hmc | some .hphy => s.bit (pgHPHY n) Reg.HPHY_STAT_TRAINED
    | some .ulnk => s.bit page Reg.ULNK_STAT_TRAINED
    | some _ => true
    | none => false
  if trained && s.powered page && s.beatOn then s.setBit page Reg.BLK_STAT_READY true else s

/-- SHD_APPLY (R37). -/
def execShdApply (page : Fin 512) (s : State) : Out := .next (s.writeReg .host page 8 8 (word (s.ctrl page ||| 0x10)))

/-- CUE_ARM (R40): CUE_SEL is written with it. -/
def execCueArm (page : Fin 512) (arm : Bool) (sel : Fin 32) (s : State) : Out :=
  .next (s.writeReg .host page 8 8 (word (s.ctrl page % 2 ^ 5 + (if arm then 2 ^ 5 else 0) + sel * 2 ^ 8)))

/-- ERR_FORCE (R409). -/
def execErrForce (page : Fin 512) (bits : BitVec 32) (s : State) : Out :=
  .next (s.writeReg .host page 0x30 8 (word bits.toNat))

/-- PERF_CLEAR and PERF_CLEAR_ALL (R41). -/
def execPerfClear (page : Fin 512) (i : Fin 9) (s : State) : Out :=
  let off := 0x68 + 0x10 * i.val
  .next (s.writeReg .host page off 8 (word ((s.rd page off).toNat % 2 ^ 17 + 2 ^ 17)))
def execPerfClearAll (page : Fin 512) (s : State) : Out :=
  .next (s.writeReg .host page 0xF8 8 (word ((s.rd page 0xF8).toNat % 2 + 2)))

/-! ## I3C (R474) -/

/-- The address of a private transfer, least significant byte first (R9). -/
def i3cPage (a : Nat) : Nat := a / 2 ^ 12 % 2 ^ 9

/-- I3C_WRITE: 11 bytes, A[23] = 1. Another length is a malformed transfer; an address with A[2:0] ≠ 0 is dropped. -/
def execI3cWrite (bytes : List Byte) (s : State) : Out := .next <|
  let a := bytesAt bytes 0 3
  if !s.enabled pgI3C then s
  else if bytes.length != 11 || a / 2 ^ 23 = 0 then s.error pgI3C Src.i3c_PROTOCOL
  else
    let s := s.addWrap pgI3C Reg.I3C_STAT_XFERS 1
    if a % 8 != 0 then s
    else if pmcPage (i3cPage a) then s.writeReg .pmc (i3cPage a) (a % 2 ^ 12) 8 (word (bytesAt bytes 3 8))
    else s.error pgI3C Src.i3c_PMC_DENIED

/-- I3C_READ: a private write of an address with A[23] = 0, then a private read of 8 bytes; without an address a further
read, at the last address + 8. -/
def execI3cRead (addr : List Byte) (s : State) : Out := .next <|
  let a := if addr.isEmpty then s.pwr.i3cAddr else bytesAt addr 0 3
  if !s.enabled pgI3C then s
  else if (addr.length != 3 && !addr.isEmpty) || 2 ^ 23 ≤ a then s.error pgI3C Src.i3c_PROTOCOL
  else
    let s := s.addWrap pgI3C Reg.I3C_STAT_XFERS 1
    if a % 8 != 0 then s
    else
      let s := { s with pwr := { s.pwr with i3cAddr := (a + 8) % 2 ^ 21 } }
      s.emit (.i3c (leBytes 8 (s.readReg (i3cPage a) (a % 2 ^ 12))))

/-! ## The sideband (R379) -/

/-- SIDEBAND_ACCESS, while the sideband of module 0 of the link is up. A read answers with the 8 B word of the mailbox
data. -/
def execSidebandAccess (link : Fin 3) (req : SbReq) (s : State) : Out := .next <|
  if bitsOf (s.fld pgSBND Reg.SBND_STAT_UP) (4 * link) (4 * link) = 0 then s
  else match req with
    | .regWrite off bytes v => s.writeReg .sideband pgSBND off bytes v
    | .mboxWrite off data =>
      let m := (data.zipIdx).foldl (fun (m : KMap Byte) p =>
        if off.val + p.2 < 4096 then kset (fun _ => 0) m (off.val + p.2) p.1 else m) s.link.mailbox
      { s with link := { s.link with mailbox := m } }
    | .mboxRead off =>
      s.emit (.sideband link ((List.range 8).map fun i =>
        if off.val + i < 4096 then kget (fun _ => 0) s.link.mailbox (off.val + i) else 0))
    | .mboxStatus st => s.wr pgSBND Reg.SBND_MBX_WORD.off (putBits (s.rd pgSBND Reg.SBND_MBX_WORD.off) 15 8 st.toNat)

end Sys2Proof.Machine
end

