-- ==== Sys2Proof/Machine/Dispatch.lean ====
section
/-!
DEFINITION. The dispatch: one arm per command, each one direct call of its meaning.
-/

namespace Sys2Proof.Machine

open Sys2Proof

/-- A command's effect on everything but the queue. -/
def exec (i : Instr) (s : State) : Host.Outcome State Fault Refusal :=
  match i with
  | .regWrite by_ port page off bytes v => Sys2Proof.Machine.execRegWrite by_ port page off bytes v s
  | .enable page on => Sys2Proof.Machine.execEnable page on s
  | .blockDrained page => Sys2Proof.Machine.execBlockDrained page s
  | .sreset page => Sys2Proof.Machine.execSreset page s
  | .sresetDone page => Sys2Proof.Machine.execSresetDone page s
  | .shdApply page => Sys2Proof.Machine.execShdApply page s
  | .cueArm page arm sel => Sys2Proof.Machine.execCueArm page arm sel s
  | .errForce page bits => Sys2Proof.Machine.execErrForce page bits s
  | .perfClear page ctr => Sys2Proof.Machine.execPerfClear page ctr s
  | .perfClearAll page => Sys2Proof.Machine.execPerfClearAll page s
  | .errorDetected page src arg => Sys2Proof.Machine.execErrorDetected page src arg s
  | .safeStateComplete => Sys2Proof.Machine.execSafeStateComplete s
  | .quietEnd env => Sys2Proof.Machine.execQuietEnd env s
  | .dbgRecovGo env => Sys2Proof.Machine.execDbgRecovGo env s
  | .release => Sys2Proof.Machine.execRelease s
  | .inHourExpire => Sys2Proof.Machine.execInHourExpire s
  | .dbg1500Go stack instr => Sys2Proof.Machine.execDbg1500Go stack instr s
  | .glbLgrpBind port => Sys2Proof.Machine.execGlbLgrpBind port s
  | .hmc0ZoneWrite fineGib clUnits => Sys2Proof.Machine.execHmc0ZoneWrite fineGib clUnits s
  | .cmdqRingEnable ring => Sys2Proof.Machine.execCmdqRingEnable ring s
  | .cmdqDoorbell ring off bytes v => Sys2Proof.Machine.execCmdqDoorbell ring off bytes v s
  | .cmdEntryFetch ring entry => Sys2Proof.Machine.execCmdEntryFetch ring entry s
  | .cplWriteAck ring => Sys2Proof.Machine.execCplWriteAck ring s
  | .nop ring => Sys2Proof.Machine.execNop ring s
  | .planLoad ring image => Sys2Proof.Machine.execPlanLoad ring image s
  | .admissionCopyDone copy => Sys2Proof.Machine.execAdmissionCopyDone copy s
  | .planStart ring => Sys2Proof.Machine.execPlanStart ring s
  | .planStop ring => Sys2Proof.Machine.execPlanStop ring s
  | .planAbort ring => Sys2Proof.Machine.execPlanAbort ring s
  | .planUnload ring => Sys2Proof.Machine.execPlanUnload ring s
  | .planSetParam ring record => Sys2Proof.Machine.execPlanSetParam ring record s
  | .stageStart slot stage env => Sys2Proof.Machine.execStageStart slot stage env s
  | .tileArrive tile => Sys2Proof.Machine.execTileArrive tile s
  | .stewardArrive slot stw => Sys2Proof.Machine.execStewardArrive slot stw s
  | .gongTimeout slot stage => Sys2Proof.Machine.execGongTimeout slot stage s
  | .varith tile th var mask ty b a d => Sys2Proof.Machine.execVarith tile th var mask ty b a d s
  | .vfma tile th var mask ty b a d => Sys2Proof.Machine.execVfma tile th var mask ty b a d s
  | .vlogic tile th var mask ty b a d => Sys2Proof.Machine.execVlogic tile th var mask ty b a d s
  | .vunary tile th var mask ty b a d => Sys2Proof.Machine.execVunary tile th var mask ty b a d s
  | .vtrans tile th var mask ty b a d => Sys2Proof.Machine.execVtrans tile th var mask ty b a d s
  | .vcmp tile th var mask ty b a d => Sys2Proof.Machine.execVcmp tile th var mask ty b a d s
  | .vsel tile th var mask ty b a d => Sys2Proof.Machine.execVsel tile th var mask ty b a d s
  | .vcvt tile th var mask ty b a d => Sys2Proof.Machine.execVcvt tile th var mask ty b a d s
  | .vmx tile th var mask ty b a d => Sys2Proof.Machine.execVmx tile th var mask ty b a d s
  | .vdec tile th var mask ty b a d => Sys2Proof.Machine.execVdec tile th var mask ty b a d s
  | .vred tile th var mask ty b a d => Sys2Proof.Machine.execVred tile th var mask ty b a d s
  | .vperm tile th var mask ty b a d => Sys2Proof.Machine.execVperm tile th var mask ty b a d s
  | .vsortSort64 tile th mask ty b a d => Sys2Proof.Machine.execVsortSort64 tile th mask ty b a d s
  | .vsortMerge tile th mask ty b a d => Sys2Proof.Machine.execVsortMerge tile th mask ty b a d s
  | .vsortTopk tile th mask ty b a d => Sys2Proof.Machine.execVsortTopk tile th mask ty b a d s
  | .vhash tile th var mask ty b a d => Sys2Proof.Machine.execVhash tile th var mask ty b a d s
  | .vbucket tile th var mask ty b a d => Sys2Proof.Machine.execVbucket tile th var mask ty b a d s
  | .vnorm tile th var mask ty b a d => Sys2Proof.Machine.execVnorm tile th var mask ty b a d s
  | .vld tile th imm f3 a d ecc => Sys2Proof.Machine.execVld tile th imm f3 a d ecc s
  | .vst tile th imm f3 a d => Sys2Proof.Machine.execVst tile th imm f3 a d s
  | .vldx tile th var mask ty b a d ecc => Sys2Proof.Machine.execVldx tile th var mask ty b a d ecc s
  | .vstx tile th var mask ty b a d => Sys2Proof.Machine.execVstx tile th var mask ty b a d s
  | .sld tile th imm f3 a d ecc => Sys2Proof.Machine.execSld tile th imm f3 a d ecc s
  | .sst tile th imm f3 a d => Sys2Proof.Machine.execSst tile th imm f3 a d s
  | .vmovs tile th imm f3 a d => Sys2Proof.Machine.execVmovs tile th imm f3 a d s
  | .vins tile th imm f3 a d => Sys2Proof.Machine.execVins tile th imm f3 a d s
  | .salu tile th var mask ty b a d => Sys2Proof.Machine.execSalu tile th var mask ty b a d s
  | .salui tile th imm f3 a d => Sys2Proof.Machine.execSalui tile th imm f3 a d s
  | .slui tile th imm d => Sys2Proof.Machine.execSlui tile th imm d s
  | .sconst tile th imm f3 a d => Sys2Proof.Machine.execSconst tile th imm f3 a d s
  | .sparam tile th imm f3 a d => Sys2Proof.Machine.execSparam tile th imm f3 a d s
  | .smisc tile th imm f3 a d => Sys2Proof.Machine.execSmisc tile th imm f3 a d s
  | .br tile th imm b a cond => Sys2Proof.Machine.execBr tile th imm b a cond s
  | .jmp tile th imm => Sys2Proof.Machine.execJmp tile th imm s
  | .call tile th imm => Sys2Proof.Machine.execCall tile th imm s
  | .ret tile th imm => Sys2Proof.Machine.execRet tile th imm s
  | .endThread tile th imm => Sys2Proof.Machine.execEndThread tile th imm s
  | .strmIssue tile th a d => Sys2Proof.Machine.execStrmIssue tile th a d s
  | .strmWait tile th a d => Sys2Proof.Machine.execStrmWait tile th a d s
  | .strmTake tile th a d => Sys2Proof.Machine.execStrmTake tile th a d s
  | .strmFree tile th a d => Sys2Proof.Machine.execStrmFree tile th a d s
  | .eventGet tile th imm a d => Sys2Proof.Machine.execEventGet tile th imm a d s
  | .eventDone tile th imm a d => Sys2Proof.Machine.execEventDone tile th imm a d s
  | .eventPost tile th imm a d => Sys2Proof.Machine.execEventPost tile th imm a d s
  | .eventDelay tile th imm a d => Sys2Proof.Machine.execEventDelay tile th imm a d s
  | .itemBegin tile th imm b a => Sys2Proof.Machine.execItemBegin tile th imm b a s
  | .itemEnd tile th imm b a => Sys2Proof.Machine.execItemEnd tile th imm b a s
  | .probeLookup tile th mask ty b a d => Sys2Proof.Machine.execProbeLookup tile th mask ty b a d s
  | .probeInsert tile th mask ty b a d => Sys2Proof.Machine.execProbeInsert tile th mask ty b a d s
  | .probeUpdate tile th mask ty b a d => Sys2Proof.Machine.execProbeUpdate tile th mask ty b a d s
  | .csrchSearch tile th mask ty b a d => Sys2Proof.Machine.execCsrchSearch tile th mask ty b a d s
  | .csrchTokenise tile th mask ty b a d => Sys2Proof.Machine.execCsrchTokenise tile th mask ty b a d s
  | .csrchRange tile th mask ty b a d => Sys2Proof.Machine.execCsrchRange tile th mask ty b a d s
  | .projLoadw tile th var mask ty b a d => Sys2Proof.Machine.execProjLoadw tile th var mask ty b a d s
  | .projMv tile th var mask ty b a d => Sys2Proof.Machine.execProjMv tile th var mask ty b a d s
  | .projMvacc tile th var mask ty b a d => Sys2Proof.Machine.execProjMvacc tile th var mask ty b a d s
  | .itemDivert tile th => Sys2Proof.Machine.execItemDivert tile th s
  | .itemReturn tile th pos => Sys2Proof.Machine.execItemReturn tile th pos s
  | .divertTake tile => Sys2Proof.Machine.execDivertTake tile s
  | .readLineReturn tile slot n data idx poison => Sys2Proof.Machine.execReadLineReturn tile slot n data idx poison s
  | .writeAck tile slot n idx ecc ok => Sys2Proof.Machine.execWriteAck tile slot n idx ecc ok s
  | .combineRequest tile slot idx => Sys2Proof.Machine.execCombineRequest tile slot idx s
  | .xlateResponse tile slot ok addr => Sys2Proof.Machine.execXlateResponse tile slot ok addr s
  | .pageResponse page pasid code => Sys2Proof.Machine.execPageResponse page pasid code s
  | .pfTimeout tile slot => Sys2Proof.Machine.execPfTimeout tile slot s
  | .bwsplitWindow stack => Sys2Proof.Machine.execBwsplitWindow stack s
  | .decodeInput dec unit => Sys2Proof.Machine.execDecodeInput dec unit s
  | .decStreamSwitch dec ctx => Sys2Proof.Machine.execDecStreamSwitch dec ctx s
  | .contextRestore dec => Sys2Proof.Machine.execContextRestore dec s
  | .decAssistReturn dec unit => Sys2Proof.Machine.execDecAssistReturn dec unit s
  | .echoCheckDone cmp slot op block packed head tail same => Sys2Proof.Machine.execEchoCheckDone cmp slot op block packed head tail same s
  | .probeServe tile row => Sys2Proof.Machine.execProbeServe tile row s
  | .probeResponse tile => Sys2Proof.Machine.execProbeResponse tile s
  | .gracePass tile => Sys2Proof.Machine.execGracePass tile s
  | .hotReplicate tile => Sys2Proof.Machine.execHotReplicate tile s
  | .carSearch port parityBad => Sys2Proof.Machine.execCarSearch port parityBad s
  | .carInsert ring records => Sys2Proof.Machine.execCarInsert ring records s
  | .shiftDone bell => Sys2Proof.Machine.execShiftDone bell s
  | .carDelete ring records => Sys2Proof.Machine.execCarDelete ring records s
  | .carModify ring records => Sys2Proof.Machine.execCarModify ring records s
  | .carLoad ring records => Sys2Proof.Machine.execCarLoad ring records s
  | .carSwap ring => Sys2Proof.Machine.execCarSwap ring s
  | .carRegap ring => Sys2Proof.Machine.execCarRegap ring s
  | .windowWrite addr => Sys2Proof.Machine.execWindowWrite addr s
  | .scrubCompare bell env => Sys2Proof.Machine.execScrubCompare bell env s
  | .carLoadDone table => Sys2Proof.Machine.execCarLoadDone table s
  | .carRegapDone table => Sys2Proof.Machine.execCarRegapDone table s
  | .augRecordRead slot op row record => Sys2Proof.Machine.execAugRecordRead slot op row record s
  | .augReread slot op row => Sys2Proof.Machine.execAugReread slot op row s
  | .augWaitExpire slot op row => Sys2Proof.Machine.execAugWaitExpire slot op row s
  | .batchOpen queue env => Sys2Proof.Machine.execBatchOpen queue env s
  | .ownMap slot table queue seq off data tile => Sys2Proof.Machine.execOwnMap slot table queue seq off data tile s
  | .ownWrite ring records => Sys2Proof.Machine.execOwnWrite ring records s
  | .batchComplete queue concealed => Sys2Proof.Machine.execBatchComplete queue concealed s
  | .batchCommit queue => Sys2Proof.Machine.execBatchCommit queue s
  | .batqCons queue door bytes v => Sys2Proof.Machine.execBatqCons queue door bytes v s
  | .batchDeadline queue seq => Sys2Proof.Machine.execBatchDeadline queue seq s
  | .eventDoorbell ring off bytes v => Sys2Proof.Machine.execEventDoorbell ring off bytes v s
  | .hostEvent ring ev => Sys2Proof.Machine.execHostEvent ring ev s
  | .eventDeliver slot => Sys2Proof.Machine.execEventDeliver slot s
  | .reclaim tile th => Sys2Proof.Machine.execReclaim tile th s
  | .delayRelease slot => Sys2Proof.Machine.execDelayRelease slot s
  | .alignRelease group => Sys2Proof.Machine.execAlignRelease group s
  | .streamIdle group stream => Sys2Proof.Machine.execStreamIdle group stream s
  | .histClear => Sys2Proof.Machine.execHistClear s
  | .poolHwmClear => Sys2Proof.Machine.execPoolHwmClear s
  | .watchClear => Sys2Proof.Machine.execWatchClear s
  | .cueFire cue lost => Sys2Proof.Machine.execCueFire cue lost s
  | .timeCuePost cue => Sys2Proof.Machine.execTimeCuePost cue s
  | .beatCheck page => Sys2Proof.Machine.execBeatCheck page s
  | .timeSnapTake => Sys2Proof.Machine.execTimeSnapTake s
  | .syncEdge falling => Sys2Proof.Machine.execSyncEdge falling s
  | .syncMissing => Sys2Proof.Machine.execSyncMissing s
  | .hbmAccess req env => Sys2Proof.Machine.execHbmAccess req env s
  | .storeAccess req env => Sys2Proof.Machine.execStoreAccess req env s
  | .hbmScrubRead stack addr env passDone => Sys2Proof.Machine.execHbmScrubRead stack addr env passDone s
  | .storScrubRead bank addr env passDone => Sys2Proof.Machine.execStorScrubRead bank addr env passDone s
  | .hbmTempRead stack temp => Sys2Proof.Machine.execHbmTempRead stack temp s
  | .hbmRefresh stack pc bank rfm => Sys2Proof.Machine.execHbmRefresh stack pc bank rfm s
  | .hphyStep phy stepNo result chFail => Sys2Proof.Machine.execHphyStep phy stepNo result chFail s
  | .cxlMemRead port addr env => Sys2Proof.Machine.execCxlMemRead port addr env s
  | .cxlMemWrite port addr data mask poison env => Sys2Proof.Machine.execCxlMemWrite port addr data mask poison env s
  | .memInv port addr => Sys2Proof.Machine.execMemInv port addr s
  | .memSpecRd port addr => Sys2Proof.Machine.execMemSpecRd port addr s
  | .memRdFwd port id env => Sys2Proof.Machine.execMemRdFwd port id env s
  | .memWrFwd port id env => Sys2Proof.Machine.execMemWrFwd port id env s
  | .snpData port addr => Sys2Proof.Machine.execSnpData port addr s
  | .snpInv port addr => Sys2Proof.Machine.execSnpInv port addr s
  | .snpCur port addr => Sys2Proof.Machine.execSnpCur port addr s
  | .cxlCacheResponse id resp => Sys2Proof.Machine.execCxlCacheResponse id resp s
  | .configRequest port req => Sys2Proof.Machine.execConfigRequest port req s
  | .decoderCommit port dec req => Sys2Proof.Machine.execDecoderCommit port dec req s
  | .atsInvalidate port => Sys2Proof.Machine.execAtsInvalidate port s
  | .msixUnmask vec => Sys2Proof.Machine.execMsixUnmask vec s
  | .flitRetry link mod => Sys2Proof.Machine.execFlitRetry link mod s
  | .biasSet ring => Sys2Proof.Machine.execBiasSet ring s
  | .fastLookup k off data parityBad fcycles => Sys2Proof.Machine.execFastLookup k off data parityBad fcycles s
  | .fastLatClear => Sys2Proof.Machine.execFastLatClear s
  | .sidebandAccess link req => Sys2Proof.Machine.execSidebandAccess link req s
  | .linkTrained link fails => Sys2Proof.Machine.execLinkTrained link fails s
  | .secQuoteGo => Sys2Proof.Machine.execSecQuoteGo s
  | .quoteDone ok => Sys2Proof.Machine.execQuoteDone ok s
  | .secExtendGo => Sys2Proof.Machine.execSecExtendGo s
  | .fuseProgGo bit => Sys2Proof.Machine.execFuseProgGo bit s
  | .fuseBurnDone lo hi => Sys2Proof.Machine.execFuseBurnDone lo hi s
  | .xspiCmdGo v => Sys2Proof.Machine.execXspiCmdGo v s
  | .xspiCmdDone data => Sys2Proof.Machine.execXspiCmdDone data s
  | .xspiTimeout => Sys2Proof.Machine.execXspiTimeout s
  | .trngHealthFail => Sys2Proof.Machine.execTrngHealthFail s
  | .powerOnReset cause env => Sys2Proof.Machine.execPowerOnReset cause env s
  | .coldReset env => Sys2Proof.Machine.execColdReset env s
  | .pwrokRise env => Sys2Proof.Machine.execPwrokRise env s
  | .warmReset by_ env => Sys2Proof.Machine.execWarmReset by_ env s
  | .cxlReset port env => Sys2Proof.Machine.execCxlReset port env s
  | .rstDomainGo domain => Sys2Proof.Machine.execRstDomainGo domain s
  | .wdtKick stw => Sys2Proof.Machine.execWdtKick stw s
  | .wdtExpire stw env => Sys2Proof.Machine.execWdtExpire stw env s
  | .pwrReq v => Sys2Proof.Machine.execPwrReq v s
  | .pwrDomainDone domain => Sys2Proof.Machine.execPwrDomainDone domain s
  | .switchFail domain => Sys2Proof.Machine.execSwitchFail domain s
  | .powerEstimate watts => Sys2Proof.Machine.execPowerEstimate watts s
  | .quadClockGate quad => Sys2Proof.Machine.execQuadClockGate quad s
  | .quadClockRestart quad => Sys2Proof.Machine.execQuadClockRestart quad s
  | .thrmSample temps => Sys2Proof.Machine.execThrmSample temps s
  | .supvSample mv => Sys2Proof.Machine.execSupvSample mv s
  | .i3cWrite bytes => Sys2Proof.Machine.execI3cWrite bytes s
  | .i3cRead addr => Sys2Proof.Machine.execI3cRead addr s
  | .i3cDaa addr => Sys2Proof.Machine.execI3cDaa addr s

end Sys2Proof.Machine
end

