-- ==== Sys2Proof/Machine/Step.lean ====
section
/-!
DEFINITION. One step of the block: the command at the front of the queue takes its effect; with no command waiting a
beat passes.
-/

namespace Sys2Proof.Machine

open Sys2Proof

/-- The queue without its front command. -/
def State.popped (s : State) : State := { s with pending := s.pending.tail }

/-- What an idle step does (log 2): BEAT advances by one where it counts (R341); nothing else changes. -/
def State.idle (s : State) : State := if s.beatOn then { s with beat := s.beat + 1 } else s

/-- One step: the command at the front of the queue runs on the state with the rest of the queue. -/
def step (s : State) : Host.Outcome State Fault Refusal :=
  match s.pending with
  | [] => .next s.idle
  | c :: rest => exec c { s with pending := rest }

/-- `s` with a command put at the front of its queue. -/
def State.withCommand (s : State) (c : Instr) : State := { s with pending := c :: s.pending }

/-- `s` with the command that the word spells at the front of its queue; `s` where it spells none. -/
def State.withFetchWord (s : State) (nbits w : Nat) : State :=
  match decodeTableWord nbits w with
  | some c => s.withCommand c
  | none => s

end Sys2Proof.Machine
end

