-- ==== Sys2Proof/Safety.lean ====
section
/-!
DEFINITION. The terms in which claims speak of runs: the invariant of every step, which bits of which registers may
change, what an instruction of a thread leaves alone, what a command of a ring leaves behind.
-/

namespace Sys2Proof.Machine

open Sys2Proof

/-- The register map and both memories are in canonical form, so that equal contents are equal data. -/
abbrev State.Inv (s : State) : Prop :=
  kwf resetVal s.regs = true ∧ Memory.wf s.mem.dev = true ∧ Memory.wf s.mem.tile = true

/-- A set of register bits: page, offset, bit. -/
abbrev BitSet := Nat → Nat → Nat → Prop

/-- The bits of a field. -/
def Fld.bits (f : Fld) (page : Nat) : BitSet := fun pg off i => pg = page ∧ off = f.off ∧ f.lo ≤ i ∧ i ≤ f.hi

/-- The nine performance counters of a page (R41). -/
def perfBits (page : Nat) : BitSet := fun pg off i => pg = page ∧ i < 48 ∧ ∃ k, k < 9 ∧ off = 0x70 + 0x10 * k

/-- A whole register. -/
def regBits (page off : Nat) : BitSet := fun pg o _ => pg = page ∧ o = off

/-- No register bit, and the union of two sets of bits. -/
def noBits : BitSet := fun _ _ _ => False
def BitSet.or (p q : BitSet) : BitSet := fun pg off i => p pg off i ∨ q pg off i

/-- Every register bit outside the set is as it was. -/
def RegFrame (p : BitSet) (s t : State) : Prop :=
  ∀ page off i, page < 512 → off < 0x1000 → ¬ p page off i → (t.rd page off).getLsbD i = (s.rd page off).getLsbD i

/-- Nothing but registers has changed. -/
def RegsOnly (s t : State) : Prop := t = { s with regs := t.regs }

/-- Only bits of the set have changed, and nothing but registers. -/
def OnlyBits (p : BitSet) (s t : State) : Prop := RegsOnly s t ∧ RegFrame p s t

/-- What an instruction of a thread leaves alone: the other threads, every tile but for that thread, every register but
the performance counters of the tile, all memory and the rest of the device. -/
def ThreadFrame (tile th : Nat) (s t : State) : Prop :=
  t = { s with regs := t.regs, tiles := t.tiles } ∧ RegFrame (perfBits (pgTILE tile)) s t ∧
    (∀ n k, ¬ (n = tile ∧ k = th) → t.thread n k = s.thread n k) ∧
    ∀ n, { t.tile n with threads := [] } = { s.tile n with threads := [] }

/-- The same of an instruction that stores: tile memory may change, its other contents are said beside. -/
def ThreadStoreFrame (tile th : Nat) (s t : State) : Prop :=
  ThreadFrame tile th s { t with mem := s.mem } ∧ t.mem = { s.mem with tile := t.mem.tile }

/-- What a command of a tile's stream engine leaves alone: the other tiles, every register but the performance
counters of the tile, and the rest of the device; device memory and tile memory are said beside. -/
def EngineFrame (tile : Nat) (s t : State) : Prop :=
  t = { s with regs := t.regs, tiles := t.tiles, mem := t.mem } ∧ RegFrame (perfBits (pgTILE tile)) s t ∧
    (∀ n, n ≠ tile → t.tile n = s.tile n) ∧ (∀ k, t.thread tile k = s.thread tile k) ∧
    { t.tile tile with threads := [], strm := [] } = { s.tile tile with threads := [], strm := [] }

/-- No descriptor of an operator waits for a slot of the tile's engine, and no thread waits on it. -/
abbrev State.engineIdle (s : State) (tile : Nat) : Prop :=
  (s.tile tile).opDescs = [] ∧ ∀ k, k < 8 → (s.thread tile k).wait = none

/-- No thread waits. -/
def State.noWaits (s : State) : Prop := ∀ n k, (s.thread n k).wait = none

/-- The registers that count the event pool (R348). -/
def poolBits : BitSet := (Reg.FSCH_POOL_USED.bits pgFSCH).or (Reg.FSCH_POOL_HWM_MAX.bits pgFSCH)

/-- An event arrives that does not fill its chunk: it takes the next arrival number and waits in the pool (R330,
R332). -/
def Arrived (p : Nat) (ev : Event) (s t : State) : Prop :=
  t.fsch.pool = s.fsch.pool ++ [{ ev := ev, slot := p, flow := s.localFlow p ev, arr := s.fld pgFSCH (Reg.FSCH_P_ARR_NEXT p)
                                  chunk := (s.slot p).evChunk, st := .waiting, acc := 0, since := t.beat }] ∧
    t.fld pgFSCH (Reg.FSCH_P_ARR_NEXT p) = (s.fld pgFSCH (Reg.FSCH_P_ARR_NEXT p) + 1) % 2 ^ 64 ∧
    (t.slot p).evCount = (s.slot p).evCount + 1

/-- An event that is not held for alignment arrives in a chunk that it does not fill. -/
abbrev State.arrivesIn (s : State) (p : Nat) (ev : Event) : Prop :=
  p < 16 ∧ ev.align = false ∧ (s.slot p).evCount + 1 ≠ (s.image p).chunkSize

/-- Every shadow record of a set of a table has a place in memory, and no bell of it lists an entry beyond its size. -/
def State.shadowed (s : State) (t : CarTable) (set : Nat) : Prop :=
  (∀ r j i, r < t.replicas → j < t.bells → i < bellSize → (s.locate (s.shadowAddr t set r j i)).isSome = true) ∧
    ∀ r j i e, r < t.replicas → j < t.bells → (i, some e) ∈ s.bell (s.physBell t set r j) → i < bellSize

/-- The bells of a set of a table are distinct. -/
def State.bellsApart (s : State) (t : CarTable) (set : Nat) : Prop :=
  ∀ r j r' j', r < t.replicas → r' < t.replicas → j < t.bells → j' < t.bells →
    s.physBell t set r j = s.physBell t set r' j' → r = r' ∧ j = j'

/-- A device address has a place in HBM, store memory or tile memory (R22, R25). -/
abbrev State.placed (s : State) (a : Nat) : Prop := (tileAddr a).isSome = true ∨ (s.locate a).isSome = true

/-- No fault is being handled, and an error of the source would only be recorded (R45, R407). -/
abbrev State.quietError (s : State) (page src : Nat) : Prop := s.fltState = 0 ∧ s.severity page src ≤ 1

/-- What recording an error changes on its page while no fault follows (R45): ERR_STAT, ERR_FIRST and bit 0 of
INT_STAT. -/
def errBits (page src : Nat) : BitSet := fun pg off i =>
  pg = page ∧ (off = 0x20 ∧ i = src ∨ off = 0x38 ∨ off = 0x58 ∧ i = 0)

/-- The error stands in ERR_STAT of its page. -/
def Recorded (page src : Nat) (t : State) : Prop := (t.rd page 0x20).getLsbD src = true

/-- The thread wrote a vector register and joined flags; its program counter moved on (R149, R156, R184). -/
def VectorWritten (d value flags : Nat) (x y : Thread) : Prop :=
  y = { x with v := y.v, flags := x.flags ||| BitVec.ofNat 6 flags, pc := (x.pc + 1) % 2 ^ 14 } ∧
    y.vreg d = BitVec.ofNat 2048 value ∧ ∀ k, k ≠ d → y.vreg k = x.vreg k

/-- The thread wrote a mask register; m0 discards what is written to it (R149). -/
def MaskWritten (d value : Nat) (x y : Thread) : Prop :=
  y = { x with m := y.m, pc := (x.pc + 1) % 2 ^ 14 } ∧
    (d ≠ 0 → y.mreg d = BitVec.ofNat 512 value) ∧ ∀ k, k ≠ d ∨ k = 0 → y.mreg k = x.mreg k

/-- The thread wrote a scalar register and joined flags; s0 discards what is written to it (R149). -/
def ScalarWritten (d value flags : Nat) (x y : Thread) : Prop :=
  y = { x with s := y.s, flags := x.flags ||| BitVec.ofNat 6 flags, pc := (x.pc + 1) % 2 ^ 14 } ∧
    (d ≠ 0 → y.sreg d = word value) ∧ ∀ k, k ≠ d ∨ k = 0 → y.sreg k = x.sreg k

/-- The ring is served, its oldest command is this one, valid, and the device is not DOWN (R64). -/
abbrev State.nextCmd (s : State) (ring code : Nat) (c : Cmd) (rest : List Cmd) : Prop :=
  (s.ring ring).waiting = c :: rest ∧ c.code = code ∧ c.bad = false ∧ s.serves ring = true ∧
    s.bit pgGLB Reg.GLB_STAT_DOWN = false

/-- The oldest command of a ring has gone with a completion entry; behind it at most invalid entries have gone (R64,
R75, R392). -/
def RingCompleted (ring : Nat) (c : Cmd) (rest : List Cmd) (code slot count info : Nat) (t : State) : Prop :=
  { tag := c.tag, cmd := c.code, code := code, slot := slot, count := count, info := info, beat := t.beat } ∈
      (t.ring ring).cpls ∧
    ∃ dropped, rest = dropped ++ (t.ring ring).waiting ∧ ∀ e ∈ dropped, e.bad = true

/-- The command is in progress and stays the oldest of its ring (R64). -/
def RingBusy (ring : Nat) (s t : State) : Prop := t.ring ring = { s.ring ring with busy := true }

/-- What a completion changes: rings, requests to the host, messages, counters of the links (R392). -/
def CplFrame (s t : State) : Prop :=
  t = { s with regs := t.regs, rings := t.rings, link := t.link, out := t.out } ∧
    RegFrame (fun pg off i => ∃ n, n < 3 ∧ perfBits (pgULNK n) pg off i) s t

/-- The bytes stand at consecutive storage keys of device memory; every other cell is as it was. -/
def BytesAt (k : Nat) (bs : List Byte) (s t : State) : Prop :=
  (∀ i b, bs[i]? = some b → cell t.mem.dev (k + i) = b) ∧
    ∀ j, j < k ∨ k + bs.length ≤ j → cell t.mem.dev j = cell s.mem.dev j

/-- Poison after a write of n bytes at a storage key: a 64 B line of HBM, or an 8 B word of store memory, that the write
covers takes the poison of the write; one it covers in part keeps its poison, and takes that of the write (R361, R368). -/
def PoisonAt (k n : Nat) (poison : Bool) (s t : State) : Prop :=
  ∀ j, let unit := if j < 2 ^ 40 then 64 else 8
    let lo := j / unit * unit
    (k ≤ lo ∧ lo + unit ≤ k + n → t.mem.poisonedKey j = poison) ∧
    (lo < k + n → k < lo + unit → ¬ (k ≤ lo ∧ lo + unit ≤ k + n) →
      t.mem.poisonedKey j = (poison || s.mem.poisonedKey j)) ∧
    (k + n ≤ lo ∨ lo + unit ≤ k → t.mem.poisonedKey j = s.mem.poisonedKey j)

end Sys2Proof.Machine
end

