-- ==== Sys2Proof/Certificates/Slice0/Obligations.lean ====
section
/-!
DEFINITION. The statements about the model: each cites the rule of spec/ that it formalises or rests on.
-/

open Sys2Proof Sys2Proof.Machine

/-- R157: VARITH on integers, in every element that the mask selects, and SALU wrap, divide and remainder as the rule
says: sums, differences and products modulo 2^w; division by zero gives all ones and the dividend and sets DZ; the most
negative value divided by -1 gives that value, with remainder 0. -/
def Obligations.IntegerArithmetic : Prop :=
  ∀ (s : State) (tile : Fin 64) (th : Fin 8) (var mask : BitVec 3) (ty : BitVec 4) (b a d : BitVec 5),
    ty.toNat ≤ 7 → s.canIssue tile th = true →
    (∃ t, exec (.varith tile th var mask ty b a d) s = .next t ∧
      ∀ j, j < 2048 / tyWidth ty.toNat → ((s.thread tile th).mreg mask.toNat).getLsbD j = true →
        let w := tyWidth ty.toNat
        let p := elem ((s.thread tile th).vreg a.toNat).toNat w j
        let q := elem ((s.thread tile th).vreg b.toNat).toNat w j
        let r := elem ((t.thread tile th).vreg d.toNat).toNat w j
        let dz := (t.thread tile th).flags.getLsbD 1
        (var.toNat = 0 → r = (p + q) % 2 ^ w) ∧
        (var.toNat = 1 → r = (p + (2 ^ w - q)) % 2 ^ w) ∧
        (var.toNat = 2 → r = p * q % 2 ^ w) ∧
        (var.toNat = 6 → q = 0 → r = 2 ^ w - 1 ∧ dz = true) ∧
        (var.toNat = 7 → q = 0 → r = p ∧ dz = true) ∧
        (ty.toNat ≤ 3 → p = 2 ^ (w - 1) → q = 2 ^ w - 1 →
          (var.toNat = 6 → r = p) ∧ (var.toNat = 7 → r = 0))) ∧
    (d.toNat ≠ 0 → ∃ t, exec (.salu tile th 0 0 ty b a d) s = .next t ∧
      let p := ((s.thread tile th).sreg a.toNat).toNat
      let q := ((s.thread tile th).sreg b.toNat).toNat
      let r := ((t.thread tile th).sreg d.toNat).toNat
      let dz := (t.thread tile th).flags.getLsbD 1
      (ty.toNat = 0 → r = (p + q) % 2 ^ 64) ∧
      (ty.toNat = 1 → r = (p + (2 ^ 64 - q)) % 2 ^ 64) ∧
      (ty.toNat = 2 → r = p * q % 2 ^ 64) ∧
      (ty.toNat = 4 ∨ ty.toNat = 5 → q = 0 → r = 2 ^ 64 - 1 ∧ dz = true) ∧
      (ty.toNat = 6 ∨ ty.toNat = 7 → q = 0 → r = p ∧ dz = true) ∧
      (p = 2 ^ 63 → q = 2 ^ 64 - 1 → (ty.toNat = 5 → r = p) ∧ (ty.toNat = 7 → r = 0)))

/-- R149: of every vector instruction of one element width, an element that the mask does not select keeps its value. -/
def Obligations.MaskedElementsKept : Prop :=
  ∀ (s : State) (tile : Fin 64) (th : Fin 8) (var mask : BitVec 3) (ty : BitVec 4) (b a d : BitVec 5) (i : Instr) (op : Nat),
    (op, i) ∈ [(0x01, .varith tile th var mask ty b a d), (0x03, .vlogic tile th var mask ty b a d),
      (0x04, .vunary tile th var mask ty b a d), (0x05, .vtrans tile th var mask ty b a d),
      (0x10, .vnorm tile th var mask ty b a d)] →
    okV op var.toNat mask.toNat ty.toNat b.toNat a.toNat d.toNat = true → s.canIssue tile th = true →
    ∃ t, exec i s = .next t ∧ ∀ j, j < 2048 / tyWidth ty.toNat →
      ((s.thread tile th).mreg mask.toNat).getLsbD j = false →
      elem ((t.thread tile th).vreg d.toNat).toNat (tyWidth ty.toNat) j =
        elem ((s.thread tile th).vreg d.toNat).toNat (tyWidth ty.toNat) j

/-- R162: the vector instructions whose destination is v[D] write their result there, join their sticky flags, and
change nothing else but the program counter and the tile's performance counters. -/
def Obligations.VectorResults : Prop :=
  ∀ (s : State) (tile : Fin 64) (th : Fin 8) (var mask : BitVec 3) (ty : BitVec 4) (b a d : BitVec 5),
    s.canIssue tile th = true →
    let x := s.thread tile th
    let z := s.ftz tile
    let ok := fun op => okV op var.toNat mask.toNat ty.toNat b.toNat a.toNat d.toNat = true
    let writes := fun (i : Instr) (r : Nat × Nat) =>
      ∃ t, exec i s = .next t ∧ ThreadFrame tile th s t ∧ VectorWritten d.toNat r.1 r.2 x (t.thread tile th)
    let m := x.mN mask.toNat
    let va := x.vN a.toNat
    let vb := x.vN b.toNat
    let vd := x.vN d.toNat
    (ok 0x01 → writes (.varith tile th var mask ty b a d) (varith var.toNat ty.toNat z m va vb vd)) ∧
    (ok 0x02 → writes (.vfma tile th var mask ty b a d) (vfma var.toNat ty.toNat z m va vb vd)) ∧
    (ok 0x03 → writes (.vlogic tile th var mask ty b a d) (vlogic var.toNat ty.toNat m va vb vd)) ∧
    (ok 0x04 → writes (.vunary tile th var mask ty b a d) (vunary var.toNat ty.toNat z m va vd)) ∧
    (ok 0x05 → writes (.vtrans tile th var mask ty b a d) (vtrans var.toNat ty.toNat z m va vb vd)) ∧
    (ok 0x07 → writes (.vsel tile th var mask ty b a d) (vsel ty.toNat m va vb, 0)) ∧
    (ok 0x08 → writes (.vcvt tile th var mask ty b a d)
      (vcvt ty.toNat b.toNat var.toNat mask.toNat z (2 ^ 512 - 1) va vd)) ∧
    (ok 0x0A → writes (.vdec tile th var mask ty b a d)
      (vdec var.toNat (x.sreg b.toNat).toInt m va vb vd)) ∧
    (ok 0x0C → writes (.vperm tile th var mask ty b a d)
      (vperm var.toNat ty.toNat z m va vb vd (x.sN a.toNat) (x.sN b.toNat))) ∧
    (ok 0x0F → writes (.vbucket tile th var mask ty b a d) (vbucket var.toNat ty.toNat z m va vb, 0)) ∧
    (ok 0x10 → writes (.vnorm tile th var mask ty b a d)
      (vnorm var.toNat ty.toNat z m va vb vd (x.sN b.toNat) (x.sN (b.toNat + 1)))) ∧
    (ok 0x0E → ty.toNat ≠ 15 → writes (.vhash tile th var mask ty b a d)
      (vhash var.toNat ty.toNat m va vd (x.sN b.toNat))) ∧
    (ok 0x09 → var.toNat / 2 = 0 → writes (.vmx tile th var mask ty b a d)
      ((lanes 32 64 m vd fun j => (elem (vmxPack b.toNat (var.toNat % 2 == 1) va) 32 j, 0)).1, 0)) ∧
    (ok 0x09 → var.toNat / 2 = 1 → writes (.vmx tile th var mask ty b a d)
      ((lanes 32 64 m vd fun j => (elem (vmxUnpack b.toNat va).1 32 j, 0)).1, (vmxUnpack b.toNat va).2))

/-- R162, R177: VHASH of string references within the plan's TILE_MEM claim hashes the strings in tile memory. -/
def Obligations.StringHash : Prop :=
  ∀ (s : State) (tile : Fin 64) (th : Fin 8) (var mask : BitVec 3) (b a d : BitVec 5) (p stage chunk : Nat),
    s.runOf tile = some (p, stage, chunk) → s.canIssue tile th = true → var.toNat ≤ 3 →
    let x := s.thread tile th
    (∀ j, j < 32 → (x.mreg mask.toNat).getLsbD j = true →
      elem (x.vN a.toNat) 64 j % 2 ^ 23 + elem (x.vN a.toNat) 64 j / 2 ^ 32 % 2 ^ 16 ≤ s.tmBytes p) →
    ∃ t, exec (.vhash tile th var mask 15 b a d) s = .next t ∧ ThreadFrame tile th s t ∧
      VectorWritten d.toNat (vhashStr var.toNat (x.mN mask.toNat) (x.vN a.toNat) (x.vN d.toNat) (x.sN b.toNat)
        fun off n => s.tmRead tile off n).1 0 x (t.thread tile th) ∧
      ∀ j, j < 32 → (x.mreg mask.toNat).getLsbD j = true →
        elem ((t.thread tile th).vreg d.toNat).toNat 64 j =
          hashBytes var.toNat (s.tmRead tile (elem (x.vN a.toNat) 64 j % 2 ^ 23)
            (elem (x.vN a.toNat) 64 j / 2 ^ 32 % 2 ^ 16)) (x.sN b.toNat) % 2 ^ 64

/-- R162: VCMP writes a mask register; VRED, the scalar instructions, SPARAM and SMISC write a scalar register. s0 and m0
discard what is written to them (R149). -/
def Obligations.MaskAndScalarResults : Prop :=
  ∀ (s : State) (tile : Fin 64) (th : Fin 8) (var mask : BitVec 3) (ty : BitVec 4) (b a d : BitVec 5)
    (imm : BitVec 12) (imm20 : BitVec 20) (f3 : BitVec 3),
    s.canIssue tile th = true →
    let x := s.thread tile th
    let z := s.ftz tile
    let frame := fun (i : Instr) (q : Thread → Thread → Prop) =>
      ∃ t, exec i s = .next t ∧ ThreadFrame tile th s t ∧ q x (t.thread tile th)
    let ok := fun op => okV op var.toNat mask.toNat ty.toNat b.toNat a.toNat d.toNat = true
    let m := x.mN mask.toNat
    (ok 0x06 → frame (.vcmp tile th var mask ty b a d)
      (MaskWritten d.toNat (vcmp var.toNat ty.toNat z m (x.vN a.toNat) (x.vN b.toNat)))) ∧
    (ok 0x0B → frame (.vred tile th var mask ty b a d)
      (ScalarWritten d.toNat (vred var.toNat ty.toNat z m (x.vN a.toNat)).1
        (vred var.toNat ty.toNat z m (x.vN a.toNat)).2)) ∧
    (ok 0x20 → frame (.salu tile th var mask ty b a d)
      (ScalarWritten d.toNat (saluFn ty.toNat (x.sN a.toNat) (x.sN b.toNat)).1
        (saluFn ty.toNat (x.sN a.toNat) (x.sN b.toNat)).2)) ∧
    frame (.salui tile th imm f3 a d)
      (ScalarWritten d.toNat (saluFn (saluiFn f3.toNat) (x.sN a.toNat) (imm.signExtend 64).toNat).1
        (saluFn (saluiFn f3.toNat) (x.sN a.toNat) (imm.signExtend 64).toNat).2) ∧
    frame (.slui tile th imm20 d) (ScalarWritten d.toNat (imm20.signExtend 64 * 4096).toNat 0) ∧
    (∀ p stage k v, s.runOf tile = some (p, stage, k) → (s.chunkParams p k)[imm.toNat]? = some v →
      frame (.sparam tile th imm 0 0 d) (ScalarWritten d.toNat v.toNat 0)) ∧
    frame (.smisc tile th 0 0 0 d) (ScalarWritten d.toNat s.beat 0) ∧
    frame (.smisc tile th 0 1 0 d) (ScalarWritten d.toNat x.flags.toNat 0) ∧
    frame (.smisc tile th 0 2 0 0) (fun x y => y = { x with flags := 0, pc := (x.pc + 1) % 2 ^ 14 })

/-- R162: SALU and SALUI compute what Table TILE-6 names, on 64-bit scalars. -/
def Obligations.ScalarFunctions : Prop :=
  ∀ (s : State) (tile : Fin 64) (th : Fin 8) (ty : BitVec 4) (b a d : BitVec 5),
    s.canIssue tile th = true → d.toNat ≠ 0 →
    ∃ t, exec (.salu tile th 0 0 ty b a d) s = .next t ∧
      let p := (s.thread tile th).sreg a.toNat
      let q := (s.thread tile th).sreg b.toNat
      let r := (t.thread tile th).sreg d.toNat
      (ty.toNat = 0 → r = p + q) ∧ (ty.toNat = 1 → r = p - q) ∧ (ty.toNat = 2 → r = p * q) ∧
      (ty.toNat = 3 → r.toNat = p.toNat * q.toNat / 2 ^ 64) ∧
      (ty.toNat = 4 → q ≠ 0 → r = p / q) ∧ (ty.toNat = 5 → q ≠ 0 → r = p.sdiv q) ∧
      (ty.toNat = 6 → r = p % q) ∧ (ty.toNat = 7 → q ≠ 0 → r = p.srem q) ∧
      (ty.toNat = 8 → r = p &&& q) ∧ (ty.toNat = 9 → r = p ||| q) ∧ (ty.toNat = 10 → r = p ^^^ q) ∧
      (ty.toNat = 11 → q.toNat < 64 → r = p <<< q.toNat) ∧
      (ty.toNat = 12 → q.toNat < 64 → r = p >>> q.toNat) ∧
      (ty.toNat = 13 → q.toNat < 64 → r = p.sshiftRight q.toNat) ∧
      (ty.toNat = 14 → r = if p.slt q then 1 else 0) ∧ (ty.toNat = 15 → r = if p.ult q then 1 else 0)

/-- R162: BR goes to PC + IMM10 when its condition holds, else to the next word; JMP, CALL and RET set the program
counter; CALL writes s31. Nothing else of the thread changes. -/
def Obligations.Branches : Prop :=
  ∀ (s : State) (tile : Fin 64) (th : Fin 8) (imm : BitVec 10) (far : BitVec 25) (b a cond : BitVec 5)
    (p stage chunk : Nat),
    s.runOf tile = some (p, stage, chunk) → s.canIssue tile th = true →
    let x := s.thread tile th
    let goes := fun (i : Instr) (y : Thread) =>
      ∃ t, exec i s = .next t ∧ ThreadFrame tile th s t ∧ t.thread tile th = y
    let u := x.sreg a.toNat
    let v := x.sreg b.toNat
    let holds := (cond.toNat = 0 ∧ u = v) ∨ (cond.toNat = 1 ∧ u ≠ v) ∨ (cond.toNat = 2 ∧ u.slt v = true) ∨
      (cond.toNat = 3 ∧ u.slt v = false) ∨ (cond.toNat = 4 ∧ u.ult v = true) ∨ (cond.toNat = 5 ∧ u.ult v = false) ∨
      (cond.toNat = 6 ∧ x.mreg a.toNat ≠ 0) ∨ (cond.toNat = 7 ∧ x.mreg a.toNat = 0)
    let target := fun (off : Int) => (((x.pc : Int) + off) % 2 ^ 14).toNat
    (okB 0x30 imm.toNat b.toNat cond.toNat = true → (cond.toNat ≤ 5 ∨ a.toNat ≤ 7) →
      (holds → goes (.br tile th imm b a cond) { x with pc := target imm.toInt }) ∧
      (¬ holds → goes (.br tile th imm b a cond) { x with pc := (x.pc + 1) % 2 ^ 14 })) ∧
    goes (.jmp tile th far) { x with pc := target far.toInt } ∧
    goes (.call tile th far) { x.setS 31 (word (x.pc + 1)) with pc := target far.toInt } ∧
    ((x.sreg 31).toNat < (s.image p).codeWords → goes (.ret tile th 0) { x with pc := (x.sreg 31).toNat })

/-- R162: VMOVS reads an element of a vector register into a scalar one, VINS writes one. -/
def Obligations.ElementMoves : Prop :=
  ∀ (s : State) (tile : Fin 64) (th : Fin 8) (imm : BitVec 12) (f3 : BitVec 3) (a d : BitVec 5),
    s.canIssue tile th = true → f3.toNat ≤ 1 →
    let w := if f3.toNat = 0 then 32 else 64
    imm.toNat < 2048 / w →
    let x := s.thread tile th
    (∃ t, exec (.vmovs tile th imm f3 a d) s = .next t ∧ ThreadFrame tile th s t ∧
      ScalarWritten d.toNat (elem (x.vN a.toNat) w imm.toNat) 0 x (t.thread tile th)) ∧
    ∃ t, exec (.vins tile th imm f3 a d) s = .next t ∧ ThreadFrame tile th s t ∧
      let y := t.thread tile th
      y = { x with v := y.v, pc := (x.pc + 1) % 2 ^ 14 } ∧ (∀ k, k ≠ d.toNat → y.vreg k = x.vreg k) ∧
      ∀ j, j < 2048 / w → elem (y.vreg d.toNat).toNat w j =
        if j = imm.toNat then (x.sreg a.toNat).toNat % 2 ^ w else elem (x.vreg d.toNat).toNat w j

/-- R162, R165: SCONST reads 8 B of the plan's constants from the image area. -/
def Obligations.ConstantRead : Prop :=
  ∀ (s : State) (tile : Fin 64) (th : Fin 8) (imm : BitVec 12) (a d : BitVec 5) (p stage chunk : Nat) (img : Region),
    s.runOf tile = some (p, stage, chunk) → s.canIssue tile th = true → (s.slot p).alloc.image = some img →
    let x := s.thread tile th
    let o := addrOf (x.sN a.toNat) (imm.toInt * 8)
    o + 8 ≤ (s.image p).constBytes → (s.readDev (img.base + (s.image p).constOff + o) 8).2 = false →
    ∃ t, exec (.sconst tile th imm 0 a d) s = .next t ∧ ThreadFrame tile th s t ∧
      ScalarWritten d.toNat (leNat (s.readDev (img.base + (s.image p).constOff + o) 8).1) 0 x (t.thread tile th)

/-- R162, R152: VLD, SLD and VLDX read tile memory within the claim; nothing but the destination register and the
program counter changes where SECDED reports nothing. -/
def Obligations.TileLoads : Prop :=
  ∀ (s : State) (tile : Fin 64) (th : Fin 8) (imm : BitVec 12) (mask : BitVec 3) (ty : BitVec 4) (a b d : BitVec 5)
    (p stage chunk : Nat),
    s.runOf tile = some (p, stage, chunk) → s.canIssue tile th = true →
    let x := s.thread tile th
    let o := fun (k : Int) => addrOf (x.sN a.toNat) (imm.toInt * k)
    (o 64 + 256 ≤ s.tmBytes p → o 64 % 64 = 0 →
      ∃ t, exec (.vld tile th imm 0 a d {}) s = .next t ∧ ThreadFrame tile th s t ∧
        VectorWritten d.toNat (leNat (s.tmRead tile (o 64) 256)) 0 x (t.thread tile th)) ∧
    (o 8 + 8 ≤ s.tmBytes p →
      ∃ t, exec (.sld tile th imm 0 a d {}) s = .next t ∧ ThreadFrame tile th s t ∧
        ScalarWritten d.toNat (leNat (s.tmRead tile (o 8) 8)) 0 x (t.thread tile th)) ∧
    (ty.toNat ≤ 13 →
      let w := tyWidth ty.toNat
      let at_ := fun i => (x.sN a.toNat + elem (x.vN b.toNat) 32 i * (w / 8)) % 2 ^ 64
      (∀ i, i < 2048 / max w 32 → (x.mreg mask.toNat).getLsbD i = true → at_ i + w / 8 ≤ s.tmBytes p) →
      ∃ t, exec (.vldx tile th 0 mask ty b a d {}) s = .next t ∧ ThreadFrame tile th s t ∧
        let y := t.thread tile th
        y = { x with v := y.v, pc := (x.pc + 1) % 2 ^ 14 } ∧ (∀ k, k ≠ d.toNat → y.vreg k = x.vreg k) ∧
        ∀ i, i < 2048 / w → elem (y.vreg d.toNat).toNat w i =
          if i < 2048 / max w 32 ∧ (x.mreg mask.toNat).getLsbD i = true then leNat (s.tmRead tile (at_ i) (w / 8))
          else elem (x.vreg d.toNat).toNat w i)

/-- R162, R152: VST, SST and VSTX write tile memory within the claim, at the address they compute; every other byte of
tile memory, device memory and the thread's registers stay as they are. Where several lanes of a VSTX store a byte, it is
said only where they agree. -/
def Obligations.TileStores : Prop :=
  ∀ (s : State) (tile : Fin 64) (th : Fin 8) (imm : BitVec 12) (mask : BitVec 3) (ty : BitVec 4) (a b d : BitVec 5)
    (p stage chunk : Nat),
    s.runOf tile = some (p, stage, chunk) → s.canIssue tile th = true →
    let x := s.thread tile th
    let o := fun (k : Int) => addrOf (x.sN a.toNat) (imm.toInt * k)
    let moved := fun (t : State) => t.thread tile th = { x with pc := (x.pc + 1) % 2 ^ 14 }
    (o 64 + 256 ≤ s.tmBytes p → o 64 % 64 = 0 →
      ∃ t, exec (.vst tile th imm 0 a d) s = .next t ∧ ThreadStoreFrame tile th s t ∧ moved t ∧
        ∀ k, cell t.mem.tile k = if tmKey tile (o 64) ≤ k ∧ k < tmKey tile (o 64) + 256
          then byte (elem (x.vN d.toNat) 8 (k - tmKey tile (o 64))) else cell s.mem.tile k) ∧
    (o 8 + 8 ≤ s.tmBytes p →
      ∃ t, exec (.sst tile th imm 0 a d) s = .next t ∧ ThreadStoreFrame tile th s t ∧ moved t ∧
        ∀ k, cell t.mem.tile k = if tmKey tile (o 8) ≤ k ∧ k < tmKey tile (o 8) + 8
          then byte (elem (x.sN d.toNat) 8 (k - tmKey tile (o 8))) else cell s.mem.tile k) ∧
    (ty.toNat ≤ 13 →
      let w := tyWidth ty.toNat
      let at_ := fun i => (x.sN a.toNat + elem (x.vN b.toNat) 32 i * (w / 8)) % 2 ^ 64
      let sel := fun i => i < 2048 / max w 32 ∧ (x.mreg mask.toNat).getLsbD i = true
      (∀ i, sel i → at_ i + w / 8 ≤ s.tmBytes p) →
      ∃ t, exec (.vstx tile th 0 mask ty b a d) s = .next t ∧
        ThreadStoreFrame tile th { s with free := t.free } t ∧ moved t ∧
        (∀ k, (∀ i, sel i → k < tmKey tile (at_ i) ∨ tmKey tile (at_ i) + w / 8 ≤ k) →
          cell t.mem.tile k = cell s.mem.tile k) ∧
        ∀ i j, sel i → j < w / 8 →
          (∀ i' j', sel i' → j' < w / 8 → at_ i' + j' = at_ i + j →
            elem (elem (x.vN d.toNat) w i') 8 j' = elem (elem (x.vN d.toNat) w i) 8 j) →
          cell t.mem.tile (tmKey tile (at_ i + j)) = byte (elem (elem (x.vN d.toNat) w i) 8 j))

/-- R151, R156: a corrected word of tile memory is counted; a read of an uncorrectable word gives 0, sets the PZ flag
and is recorded. Said of SLD at a multiple of 8, where the error is only recorded, and the uncorrectable one at severity 0 COUNT. -/
def Obligations.TileMemoryErrors : Prop :=
  ∀ (s : State) (tile : Fin 64) (th : Fin 8) (imm : BitVec 12) (a d : BitVec 5) (p stage chunk : Nat),
    s.runOf tile = some (p, stage, chunk) → s.canIssue tile th = true → d.toNat ≠ 0 →
    let o := addrOf ((s.thread tile th).sN a.toNat) (imm.toInt * 8)
    o + 8 ≤ s.tmBytes p → o % 8 = 0 →
    (s.quietError (pgTILE tile) Src.tile_TM_CORR →
      ∃ t, exec (.sld tile th imm 0 a d ⟨[o / 8], []⟩) s = .next t ∧
        t.fld (pgTILE tile) Reg.TILE_TM_ECC_CORRECTED =
          min (s.fld (pgTILE tile) Reg.TILE_TM_ECC_CORRECTED + 1) (2 ^ 32 - 1) ∧
        Recorded (pgTILE tile) Src.tile_TM_CORR t ∧
        (t.thread tile th).sreg d.toNat = word (leNat (s.tmRead tile o 8))) ∧
    (s.quietError (pgTILE tile) Src.tile_TM_UNCORR → s.severity (pgTILE tile) Src.tile_TM_UNCORR = 0 →
      ∃ t, exec (.sld tile th imm 0 a d ⟨[], [o / 8]⟩) s = .next t ∧
        Recorded (pgTILE tile) Src.tile_TM_UNCORR t ∧ (t.thread tile th).sreg d.toNat = 0 ∧
        (t.thread tile th).flags.getLsbD 5 = true)

/-- R254 to R260: VSORT writes its result lists to the registers that D, and for MERGE also B, name. Without
conflicting keys nothing is recorded beyond the counts of Table TILE-9 and, in 1 ASSIST, QUAD_SORT.ASSISTED. -/
def Obligations.SortResults : Prop :=
  ∀ (s : State) (tile : Fin 64) (th : Fin 8) (ty : BitVec 4) (b a d : BitVec 5) (p stage chunk : Nat),
    s.runOf tile = some (p, stage, chunk) → s.canIssue tile th = true →
    let x := s.thread tile th
    let pg := pgTILE tile
    let counts : BitSet := ((perfBits pg).or ((Reg.TILE_SORT_STAT_NAN_DROPPED.bits pg).or
      ((Reg.TILE_SORT_STAT_CONFLICTS.bits pg).or (Reg.TILE_SORT_DUP_REMOVED.bits pg)))).or
        (Reg.QUAD_SORT_ASSISTED.bits (pgQUAD (tile / 4)))
    let runs := fun (i : Instr) (y : Thread) (nans dups : Nat) =>
      ∃ t, exec i s = .next t ∧ ThreadFrame tile th s { t with regs := s.regs } ∧ RegFrame counts s t ∧
        t.thread tile th = { y with pc := (x.pc + 1) % 2 ^ 14 } ∧
        t.fld pg Reg.TILE_SORT_STAT_NAN_DROPPED = min (s.fld pg Reg.TILE_SORT_STAT_NAN_DROPPED + nans) (2 ^ 32 - 1) ∧
        t.fld pg Reg.TILE_SORT_DUP_REMOVED = min (s.fld pg Reg.TILE_SORT_DUP_REMOVED + dups) (2 ^ 32 - 1)
    (okV 0x0D 0 0 ty.toNat b.toNat a.toNat d.toNat = true →
      runs (.vsortSort64 tile th 0 ty b a d) (x.putList d.toNat (sort64 ty.toNat (x.list a.toNat))) 0 0) ∧
    (okV 0x0D 1 0 ty.toNat b.toNat a.toNat d.toNat = true →
      let r := mergeLists ty.toNat (x.list a.toNat) (x.list b.toNat)
      r.2.2.2 = 0 → runs (.vsortMerge tile th 0 ty b a d) ((x.putList d.toNat r.1).putList b.toNat r.2.1) 0 r.2.2.1) ∧
    (okV 0x0D 2 0 ty.toNat b.toNat a.toNat d.toNat = true →
      let r := topk ty.toNat (x.list d.toNat) (x.list a.toNat)
      r.2.2.2 = 0 → runs (.vsortTopk tile th 0 ty b a d) (x.putList d.toNat r.1) r.2.1 r.2.2.1)

/-- R180, R179: PROJ LOADW takes a matrix from tile memory into a weight set; MV and MVACC write the products, or add
them, in the registers from D on. -/
def Obligations.Projection : Prop :=
  ∀ (s : State) (tile : Fin 64) (th : Fin 8) (mask : BitVec 3) (ty : BitVec 4) (a d : BitVec 5) (p stage chunk : Nat),
    s.runOf tile = some (p, stage, chunk) → s.canIssue tile th = true →
    let x := s.thread tile th
    let w := tyWidth ty.toNat / 8
    let o := x.sN a.toNat
    let loads := fun (var : BitVec 3) (set : Nat) =>
      ∃ t, exec (.projLoadw tile th var 0 ty 0 a 0) s = .next t ∧
        t.thread tile th = { x with pc := (x.pc + 1) % 2 ^ 14 } ∧
        ((t.tile tile).weightSet set).ty = ty.toNat ∧
        (∀ i, i < 1024 → ((t.tile tile).weightSet set).w[i]? =
          some (leNat (slice (s.tmRead tile o (1024 * w)) (i * w) w))) ∧
        (t.tile tile).weightSet (1 - set) = (s.tile tile).weightSet (1 - set) ∧
        t = { s with regs := t.regs, tiles := t.tiles } ∧ RegFrame (perfBits (pgTILE tile)) s t
    (ty.toNat = 8 ∨ ty.toNat = 12 ∨ ty.toNat = 13 → o + 1024 * w ≤ s.tmBytes p → loads 0 0 ∧ loads 5 1) ∧
    ∀ (set : Nat), set ≤ 1 →
      let g := (s.tile tile).weightSet set
      let n := if tyWidth g.ty = 8 then 4 else 2
      d.toNat % n = 0 → d.toNat + n ≤ 32 → (ty.toNat = 0 ∨ ty.toNat = 8 ∨ ty.toNat = 12 ∨ ty.toNat = 13) →
      let product := fun (i : Instr) (e : Nat → Nat → Nat → Nat) =>
        ∃ t, exec i s = .next t ∧ ThreadFrame tile th { s with free := t.free } t ∧
          let y := t.thread tile th
          y = { x with v := y.v, pc := (x.pc + 1) % 2 ^ 14 } ∧
          (∀ k, k < d.toNat ∨ d.toNat + n ≤ k → y.vreg k = x.vreg k) ∧
          ∀ r j, r < n → j < 64 → elem (y.vreg (d.toNat + r)).toNat 32 j =
            if (x.mreg mask.toNat).getLsbD j = true
            then e r j (elem (x.vreg (d.toNat + r)).toNat 32 j) % 2 ^ 32
            else elem (x.vreg (d.toNat + r)).toNat 32 j
      product (.projMv tile th (BitVec.ofNat 3 (1 + set)) mask ty 0 a d) (fun r j _ => projElem g (x.vN a.toNat) r j) ∧
      product (.projMvacc tile th (BitVec.ofNat 3 (3 + set)) mask ty 0 a d)
        (fun r j old => (varithElem 0 10 (s.ftz tile) old (projElem g (x.vN a.toNat) r j)).1)

/-- R181, R182, R183: ITEM BEGIN opens an item, ITEM END closes it and counts it; an item whose count has reached the
budget goes to the divert buffer and its thread to its ITEM END; Henair takes the oldest record and returns it. -/
def Obligations.Items : Prop :=
  ∀ (s : State) (tile : Fin 64) (th : Fin 8) (imm : BitVec 10) (b a : BitVec 5) (p stage chunk : Nat),
    s.runOf tile = some (p, stage, chunk) → s.canIssue tile th = true →
    let x := s.thread tile th
    let pg := pgTILE tile
    (x.item = none →
      ∃ t, exec (.itemBegin tile th imm b a) s = .next t ∧ ThreadFrame tile th s t ∧
        t.thread tile th = { x with
          pc := (x.pc + 1) % 2 ^ 14
          item := some { pos := x.sN a.toNat % 2 ^ 40, recOff := x.sN b.toNat, beginPc := x.pc
                         endPc := (((x.pc : Int) + imm.toInt) % 2 ^ 14).toNat, beat := s.beat } }) ∧
    (∀ it, x.item = some it →
      ∃ t, exec (.itemEnd tile th 0 0 a) s = .next t ∧ ThreadFrame tile th s { t with regs := s.regs } ∧
        RegFrame ((perfBits pg).or (Reg.TILE_ITEM_ITEMS.bits pg)) s t ∧
        t.fld pg Reg.TILE_ITEM_ITEMS = (s.fld pg Reg.TILE_ITEM_ITEMS + 1) % 2 ^ 32 ∧
        ScalarWritten a.toNat (if it.diverted then 1 else 0) 0 { x with item := none } (t.thread tile th)) ∧
    (∀ it, x.item = some it → it.diverted = false → 0 < s.budget tile → s.beatOn = true → x.run = .run →
      it.recOff + 64 ≤ s.tmBytes p → (s.tile tile).divert.length < 16 →
      (∀ k, k < 8 → (s.tile tile).slot k = none) → s.engineIdle tile → s.quietError pg Src.tile_ITEM_DIVERT →
      ∃ t r, exec (.itemDivert tile th) s = .next t ∧ t.beat = max s.beat (it.beat + s.budget tile) ∧
        (t.thread tile th).pc = it.endPc ∧ (t.tile tile).divert = (s.tile tile).divert ++ [r] ∧
        r.pos = it.pos ∧ r.slot = p ∧ r.stage = stage ∧ r.chunk = chunk ∧ r.pc = it.beginPc ∧
        t.fld pg Reg.TILE_ITEM_DIVERTED = (s.fld pg Reg.TILE_ITEM_DIVERTED + 1) % 2 ^ 32 ∧
        Recorded pg Src.tile_ITEM_DIVERT t) ∧
    (∀ r rest, (s.tile tile).divert = r :: rest → (∀ k, k < 8 → (s.thread tile k).item = none) →
      ∃ t, exec (.divertTake tile) s = .next t ∧ (t.tile tile).divert = rest ∧
        (t.tile tile).taken = (s.tile tile).taken ++ [r] ∧ t = { s with regs := t.regs, tiles := t.tiles } ∧
        RegFrame (Reg.TILE_THR_DIVERT_HELD.bits pg) s t) ∧
    ∀ r, r ∈ (s.tile tile).taken → r.thread = th.val → r.event = none → (s.slot r.slot).runs = [] →
      (∀ q ∈ (s.tile tile).taken, q.thread = r.thread → q.pos = r.pos → q = r) →
      ∃ t, exec (.itemReturn tile th r.pos) s = .next t ∧ (t.tile tile).taken = (s.tile tile).taken.erase r ∧
        t = { s with tiles := t.tiles }

/-- R166 to R169, R76: STRM ISSUE loads a descriptor into the lowest free slot; WAIT goes on once the slot has
completed, and waits before; TAKE gives the offset of the next page; FREE gives a page back. -/
def Obligations.StreamInstructions : Prop :=
  ∀ (s : State) (tile : Fin 64) (th : Fin 8) (a d : BitVec 5) (p stage chunk : Nat),
    s.runOf tile = some (p, stage, chunk) → s.canIssue tile th = true →
    let x := s.thread tile th
    let off := x.sN a.toNat
    let k := off % 8
    let desc := parseDesc (s.tmRead tile off 128)
    (∀ n, off + 128 ≤ s.tmBytes p → (s.tile tile).freeSlot = some n → s.descCause p chunk desc = 0 → 0 < desc.total →
      ∃ t y, exec (.strmIssue tile th a d) s = .next t ∧ (t.tile tile).slot n = some y ∧ y.desc = desc ∧ y.done = 0 ∧
        y.thread = th ∧ y.complete = false ∧ (∀ j, j ≠ n → (t.tile tile).slot j = (s.tile tile).slot j) ∧
        ScalarWritten d.toNat n 0 x (t.thread tile th) ∧ t = { s with regs := t.regs, tiles := t.tiles } ∧
        RegFrame (perfBits (pgTILE tile)) s t) ∧
    ((∀ y o, s.strmFor tile k = some (o, y) → y.complete = true) →
      ∃ t, exec (.strmWait tile th a 0) s = .next t ∧ ThreadFrame tile th s t ∧
        t.thread tile th = { x with pc := (x.pc + 1) % 2 ^ 14 }) ∧
    (∀ y o, s.strmFor tile k = some (o, y) → y.complete = false →
      ∃ t, exec (.strmWait tile th a 0) s = .next t ∧ ThreadFrame tile th s t ∧
        t.thread tile th = { x with pc := (x.pc + 1) % 2 ^ 14, run := .streamWait, wait := some (.strm k) }) ∧
    (∀ y, (s.tile tile).slot k = some y → y.desc.write = false → (∃ r ∈ y.rings, r.tile = tile.val) →
      (y.use tile).taken < y.released →
      ∃ t z, exec (.strmTake tile th a d) s = .next t ∧
        ScalarWritten d.toNat (y.desc.tmBase + (y.use tile).taken % y.desc.tmPages * 4096) 0 x (t.thread tile th) ∧
        (t.tile tile).slot k = some z ∧ (z.use tile).taken = (y.use tile).taken + 1 ∧
        (z.use tile).freed = (y.use tile).freed ∧ t = { s with regs := t.regs, tiles := t.tiles } ∧
        RegFrame (perfBits (pgTILE tile)) s t) ∧
    (∀ y, (s.tile tile).slot k = some y → y.desc.peal = 0 → y.rings = [y.use tile] → y.complete = false →
      (y.use tile).freed < (y.use tile).taken → s.engineIdle tile →
      ∃ t z, exec (.strmFree tile th a d) s = .next t ∧ (t.tile tile).slot k = some z ∧
        (z.use tile).freed = (y.use tile).freed + 1 ∧ (z.use tile).taken = (y.use tile).taken ∧
        z.handed = (if y.desc.write then y.handed ++ [x.sN d.toNat] else y.handed) ∧
        t.thread tile th = { x with pc := (x.pc + 1) % 2 ^ 14 } ∧
        t = { s with regs := t.regs, tiles := t.tiles } ∧ RegFrame (perfBits (pgTILE tile)) s t)

/-- R92, R93, R86: an element of a read that arrives is put into the page ring; an element of a write that is
acknowledged stands at its destination; a combining destination combines the element once. Said of one element that
does not end the transfer, of a descriptor in device memory without a peal. -/
def Obligations.StreamElements : Prop :=
  ∀ (s : State) (tile : Fin 64) (slot : Fin 8) (x : StrmSlot),
    (s.tile tile).slot slot = some x → x.st = .active → x.complete = false → x.desc.space = 0 → x.desc.indexed = false →
    x.done + 1 < x.desc.total → s.engineIdle tile → x.rings.map RingUse.tile = [tile.val] →
    let d := x.desc
    let addr := d.addr x.done 0
    let element := (s.ringRead tile d (x.done * d.tmSize) d.tmSize {}).1
    (x.desc.write = false → x.hasCredit = true → ((s.tile tile).cacheUser x || d.broadcasts) = false →
      (s.readMem addr d.memSize).2 = false → ((tileAddr addr).isSome = true ∨ (s.locate addr).isSome = true) →
      ∃ t y, exec (.readLineReturn tile slot 1 [] [] false) s = .next t ∧ (t.tile tile).slot slot = some y ∧
        y.done = x.done + 1 ∧ y.poison = x.poison ∧ y.released = (x.done + 1) * d.tmSize / 4096 ∧ y.desc = d ∧
        t.mem = (s.ringWrite tile d (x.done * d.tmSize) (d.toTile (s.readMem addr d.memSize).1)).mem ∧
        EngineFrame tile s t) ∧
    (x.desc.write = true → d.combine = 0 → d.ownEn = false → (x.done + 1) * d.tmSize ≤ x.handedBytes →
      ((tileAddr addr).isSome = true ∨ (s.locate addr).isSome = true) →
      ∃ t y, exec (.writeAck tile slot 1 [] {} true) s = .next t ∧ (t.tile tile).slot slot = some y ∧
        y.done = x.done + 1 ∧ y.flagged = x.flagged ∧ y.desc = d ∧
        t.mem = (s.writeMem (pgTILE tile) addr (d.toMem element) false).mem ∧ EngineFrame tile s t) ∧
    (x.desc.write = true → 1 ≤ d.combine → d.combine ≤ 4 → (x.applied + 1) * d.tmSize ≤ x.handedBytes →
      let a := d.addr x.applied 0
      let new := (s.ringRead tile d (x.applied * d.tmSize) d.tmSize {}).1
      ((tileAddr a).isSome = true ∨ (s.locate a).isSome = true) →
      ∃ t y, exec (.combineRequest tile slot 0) s = .next t ∧ (t.tile tile).slot slot = some y ∧
        y.applied = x.applied + 1 ∧ y.done = x.done ∧
        t.mem = (s.writeMem (pgTILE tile) a (d.combineBytes (s.readMem a d.memSize).1 (d.toMem new))
          (s.readMem a d.memSize).2).mem ∧ EngineFrame tile s t)

/-- R104, R396, R397, R105: a translation that returns enters the cache as the most recent entry; one that is refused
puts the descriptor to wait and asks for its page; a page response of success lets it go on; without one in time it ends
as 1 PARTIAL with cause 1, and a plan whose descriptor says so fails. -/
def Obligations.Translations : Prop :=
  ∀ (s : State) (tile : Fin 64) (slot : Fin 8) (addr : Word) (x : StrmSlot) (link : Nat),
    (s.tile tile).slot slot = some x → x.complete = false → x.desc.space = 1 → x.desc.indexed = false →
    s.primary = some link → link < 3 →
    let page := addr.toNat / 4096
    (x.st = .active → s.xlateOn = true →
      ∃ t, exec (.xlateResponse tile slot true addr) s = .next t ∧
        t.link.atc = ((page, x.desc.pasid) :: s.link.atc.filter (· != (page, x.desc.pasid))).take 8192 ∧
        t.fld (pgULNK link) Reg.ULNK_ATS_ENTRIES = t.link.atc.length ∧
        t = { s with regs := t.regs, link := { s.link with atc := t.link.atc } } ∧
        RegFrame (Reg.ULNK_ATS_ENTRIES.bits (pgULNK link)) s t) ∧
    (x.st = .active → s.xlateOn = true → (∀ r ∈ s.link.pri ++ s.link.priWait, ¬ (r.page = page ∧ r.pasid = x.desc.pasid)) →
      s.link.priWait = [] → s.link.pri.length < min (s.fld (pgULNK link) Reg.ULNK_PRI_ALLOC) 512 →
      ∃ t y, exec (.xlateResponse tile slot false addr) s = .next t ∧ (t.tile tile).slot slot = some y ∧
        y.st = .pfWait ∧ y.restart = some x.done ∧ y.faultAddr = addr.toNat ∧
        t.link.pri = s.link.pri ++ [{ page := page, pasid := x.desc.pasid, write := x.desc.write }] ∧
        t.out = .pri link x.desc.pasid (page * 4096) x.desc.write :: s.out) ∧
    (∀ pasid : BitVec 20, x.st = .pfWait → x.faultAddr / 4096 = page → x.desc.pasid = pasid.toNat → s.link.priWait = [] →
      (∃ r ∈ s.link.pri, r.page = page ∧ r.pasid = pasid.toNat) →
      ∃ t y, exec (.pageResponse page pasid .success) s = .next t ∧ (t.tile tile).slot slot = some y ∧
        y.st = .active ∧ y.done = x.done ∧ ∀ r, r ∈ t.link.pri ↔
          r ∈ s.link.pri ∧ ¬ (r.page = page ∧ r.pasid = pasid.toNat)) ∧
    (∀ p, x.st = .pfWait → s.slotOfTile tile = some p → x.desc.onError = true → x.desc.peal = 0 →
      x.desc.write = true → s.engineIdle tile → s.quietError (pgTILE tile) Src.tile_STRM_XLATE →
      ∃ t, exec (.pfTimeout tile slot) s = .next t ∧ (t.tile tile).slot slot = none ∧ t.slotState p = 7 ∧
        Recorded (pgTILE tile) Src.tile_STRM_XLATE t ∧
        t.tmRead tile x.desc.cplOff 2 = [1, 1])

/-- R335, R337, R338, R147: EVENT GET takes the event of the prefetch slot, answers EXHAUSTED or waits; DONE ends the
event in service; POST puts an event into the pool; DELAY puts it into the delay list; END ends the thread. -/
def Obligations.EventInstructions : Prop :=
  ∀ (s : State) (tile : Fin 64) (th : Fin 8) (imm : BitVec 12) (a d : BitVec 5) (p stage k : Nat),
    s.runOf tile = some (p, stage, k) → s.canIssue tile th = true → p < 16 →
    let x := s.thread tile th
    let addr := addrOf (x.sN a.toNat) (32 * imm.toInt)
    let ev := { parseEvent (s.tmRead tile addr 32) with slot := p }
    let waits := fun (i : Instr) (w : Wait) => ∃ t, exec i s = .next t ∧ t = { s with regs := t.regs, tiles := t.tiles, fsch := t.fsch } ∧
      t.thread tile th = { x with consumer := true, run := .eventWait, wait := some w } ∧
      t.fsch = { s.fsch with getSeq := s.fsch.getSeq + 1 } ∧ RegFrame (perfBits (pgTILE tile)) s t
    (addr % 32 = 0 → addr + 32 ≤ s.tmBytes p →
      (∀ arr e, x.event = none → x.prefetch = some arr → s.event p arr = some e → s.noWaits →
        ∃ t, exec (.eventGet tile th imm a d) s = .next t ∧ t.tmRead tile addr 32 = e.ev.bytes ∧
          (∀ q, q < tmKey tile addr ∨ tmKey tile addr + 32 ≤ q → cell t.mem.tile q = cell s.mem.tile q) ∧
          t.event p arr = some { e with st := .inService tile th } ∧
          ScalarWritten d.toNat e.flow 0 { x with prefetch := none, consumer := true, event := some arr } (t.thread tile th) ∧
          t = { s with regs := t.regs, tiles := t.tiles, mem := { s.mem with tile := t.mem.tile }, fsch := t.fsch } ∧
          RegFrame ((perfBits (pgTILE tile)).or poolBits) s t) ∧
      (x.event = none → x.prefetch = none → s.exhausted p k = true →
        ∃ t v, exec (.eventGet tile th imm a d) s = .next t ∧ v < 2 ^ 18 ∧
          ThreadFrame tile th { s with free := s.free + 1 } t ∧
          ScalarWritten d.toNat (2 ^ 63 + v) 0 { x with consumer := true } (t.thread tile th)) ∧
      (x.event = none → x.prefetch = none → s.exhausted p k = false →
        waits (.eventGet tile th imm a d) (.get addr d.toNat s.fsch.getSeq)) ∧
      (s.eventOk p ev = true → s.arrivesIn p ev → s.poolFull = false →
        (∀ c ∈ s.fsch.posts, ¬ (c.slot = p ∧ c.chunk = k)) →
        ∃ t, exec (.eventPost tile th imm a d) s = .next t ∧ Arrived p ev s t ∧ ScalarWritten d.toNat 0 0 x (t.thread tile th) ∧
          t = { s with regs := t.regs, tiles := t.tiles, fsch := t.fsch, slots := t.slots } ∧
          RegFrame (((perfBits (pgTILE tile)).or poolBits).or ((Reg.FSCH_P_ARR_NEXT p).bits pgFSCH)) s t) ∧
      (s.eventOk p ev = true → (s.fsch.delay.filter fun e => e.slot == p).length < (s.slot p).alloc.delay →
        (∀ c ∈ s.fsch.posts, ¬ (c.slot = p ∧ c.chunk = k)) →
        let tick := s.beat / max (s.fld pgFSCH Reg.FSCH_TICK_DIV) 1
        ∃ t, exec (.eventDelay tile th imm a d) s = .next t ∧
          t.fsch.delay = s.fsch.delay ++ [{ ev := ev, slot := p, chunk := k, seq := s.fsch.delaySeq
                                            due := max (tick + x.sN d.toNat % 2 ^ 32) (tick + 1) }] ∧
          ThreadFrame tile th { s with fsch := t.fsch } t ∧ t.fsch.pool = s.fsch.pool ∧
          t.thread tile th = { x with pc := (x.pc + 1) % 2 ^ 14 })) ∧
    (∀ arr e, x.event = some arr → s.event p arr = some e →
      ∃ t, exec (.eventDone tile th 0 0 0) s = .next t ∧ t.event p arr = some { e with st := .done } ∧
        t.thread tile th = { x with event := none, pc := (x.pc + 1) % 2 ^ 14 } ∧
        t = { s with regs := t.regs, tiles := t.tiles, fsch := t.fsch } ∧
        RegFrame ((perfBits (pgTILE tile)).or poolBits) s t) ∧
    (x.prefetch = none →
      ∃ t, exec (.endThread tile th 0) s = .next t ∧ ThreadFrame tile th s t ∧
        t.thread tile th = { x with run := .ended })

/-- R333: the event that the FSCH selects is the oldest waiting one of a flow that has none in service, and no other such
event has a higher PRIO, or the same and a lower arrival number. -/
def Obligations.EventSelection : Prop :=
  ∀ (s : State) (p k : Nat) (e : PoolEnt), s.selectEvent p k = some e →
    let eligible := fun (q : PoolEnt) => q ∈ s.fsch.pool ∧ q.slot = p ∧ q.chunk = k ∧ q.st = .waiting ∧
      (∀ r ∈ s.fsch.pool, r.slot = p → r.flow = q.flow → r.st = .waiting → q.arr ≤ r.arr) ∧
      s.flowBusy p q.flow = false
    eligible e ∧ ∀ q, eligible q → q.ev.prio < e.ev.prio ∨ (q.ev.prio = e.ev.prio ∧ e.arr ≤ q.arr)

/-- R334, R338, R339: EVENT_DELIVER gives the selected event to a thread that waits in GET, to a prefetch slot or to a
steward core; RECLAIM takes it back from a prefetch slot; the head of a delay list is released at its tick; one held
event of an alignment group is released at a time; a stream falls idle. -/
def Obligations.EventFlow : Prop :=
  ∀ (s : State),
    (∀ (slot : Fin 16) (seed stage : Nat) (r : StageRun) (e : PoolEnt),
      (s.image slot).events = some (seed, stage) →
      ((s.slot slot).runs.find? fun r => r.stage == stage && r.st == .running) = some r →
      s.selectEvent slot r.chunk = some e → s.event slot e.arr = some e → s.active slot = true → s.enabled pgFSCH = true →
      (∀ tile th addr d, s.target slot stage r.chunk = some (.waiter tile th addr d) → addr % 32 = 0 →
        ∃ t, exec (.eventDeliver slot) s = .next t ∧ t.tmRead tile addr 32 = e.ev.bytes ∧
          t.event slot e.arr = some { e with held := s.beat, st := .inService tile th } ∧
          ScalarWritten d e.flow 0 { s.thread tile th with run := .run, wait := none, event := some e.arr }
            (t.thread tile th)) ∧
      (s.noWaits → ∀ tile th, s.target slot stage r.chunk = some (.slot tile th) →
        ∃ t, exec (.eventDeliver slot) s = .next t ∧
          t.event slot e.arr = some { e with held := s.beat, st := .prefetch tile th } ∧
          t.thread tile th = { s.thread tile th with prefetch := some e.arr } ∧
          t = { s with regs := t.regs, tiles := t.tiles, fsch := t.fsch }) ∧
      (s.noWaits → ∀ n, s.target slot stage r.chunk = some (.core n) →
        ∃ t, exec (.eventDeliver slot) s = .next t ∧
          t.event slot e.arr = some { e with held := s.beat, st := .inCore n } ∧
          t = { s with regs := t.regs, fsch := t.fsch })) ∧
    (∀ (tile : Fin 64) (th : Fin 8) (p stage k arr : Nat) (e : PoolEnt),
      s.runOf tile = some (p, stage, k) → (s.thread tile th).prefetch = some arr → s.event p arr = some e →
      s.beatOn = true → s.quietError pgFSCH Src.fsch_RECLAIM →
      ∃ t, exec (.reclaim tile th) s = .next t ∧ t.event p arr = some { e with st := .waiting } ∧
        t.beat = max s.beat (e.held + s.fld pgFSCH Reg.FSCH_CFG_RECLAIM_BEATS) ∧
        t.thread tile th = { s.thread tile th with prefetch := none } ∧ Recorded pgFSCH Src.fsch_RECLAIM t ∧
        RegFrame (poolBits.or (errBits pgFSCH Src.fsch_RECLAIM)) s t) ∧
    (∀ (slot : Fin 16) (e : DelayEnt), s.delayHead slot = some e → s.poolFull = false → s.enabled pgFSCH = true →
      s.beatOn = true → s.noWaits → s.arrivesIn slot e.ev →
      ∃ t, exec (.delayRelease slot) s = .next t ∧ t.fsch.delay = s.fsch.delay.filter (fun x => x != e) ∧
        t.beat = max s.beat (e.due * s.fld pgFSCH Reg.FSCH_TICK_DIV) ∧
        Arrived slot { e.ev with delayed := true, slot := slot } s t ∧
        RegFrame (poolBits.or ((Reg.FSCH_P_ARR_NEXT slot).bits pgFSCH)) s t) ∧
    (∀ (group : Fin 32) (g : AlignGroup) (w : Int) (e : PoolEnt), s.group group = some g →
      g.watermark (s.heldIn g.slot g.lg) = some w → alignFirst (s.heldIn g.slot g.lg) = some e → e.ev.time.toInt ≤ w →
      s.enabled pgFSCH = true → g.slot < 16 → (s.slot g.slot).evCount + 1 ≠ (s.image g.slot).chunkSize →
      ∃ t, exec (.alignRelease group) s = .next t ∧ t.group group = some { g with frontier := some e.ev.time.toInt } ∧
        Arrived g.slot e.ev { s with fsch := { s.fsch with
          pool := s.fsch.pool.filter fun x => !(x.slot == e.slot && x.st == .aligned && x.acc == e.acc) } } t ∧
        t = { s with regs := t.regs, fsch := t.fsch, slots := t.slots, free := t.free }) ∧
    ∀ (group : Fin 32) (stream : Fin 16) (g : AlignGroup) (a : AlignStream), s.group group = some g →
      g.streams[stream.val]? = some a → g.idleBeats ≠ 0 → a.active = true →
      (a.seen = true ∨ (s.slotState g.slot ≠ 1 ∧ s.slotState g.slot ≠ 2)) → s.beatOn = true →
      ∃ t, exec (.streamIdle group stream) s = .next t ∧ t.beat = max s.beat (a.lastBeat + g.idleBeats) ∧
        t.group group = some { g with streams := g.streams.set stream { a with active := false } } ∧
        t = { s with regs := t.regs, fsch := t.fsch, beat := t.beat, free := t.free } ∧
        RegFrame (((Reg.FSCH_G_STAT_ACTIVE group).bits pgFSCH).or ((Reg.FSCH_G_WM_WM group).bits pgFSCH)) s t

/-- R328, R393, R348: a host event ring takes turns, moves its HEAD and puts an accepted event into the pool; a failed
read disables the ring; a doorbell moves TAIL; the clears of the histogram, the high-water mark and the watch. -/
def Obligations.HostEvents : Prop :=
  ∀ (s : State) (ring : Fin 16),
    let head := s.fld pgFSCH (Reg.FSCH_R_IDX_HEAD ring)
    let turn := s.enabled pgFSCH = true ∧ s.evTurn = some ring.val ∧ s.fsch.pool.length < s.fld pgFSCH Reg.FSCH_POOL_HOST_LIMIT
    (∀ (bs : List Byte), turn →
      let e := parseEvent bs
      s.eventOk e.slot e = true → s.arrivesIn e.slot e →
      ∃ t, exec (.hostEvent ring (some bs)) s = .next t ∧ Arrived e.slot e s t ∧
        t.fld pgFSCH (Reg.FSCH_R_IDX_HEAD ring) = (head + 1) % s.evRingSize ring % 2 ^ 16 ∧
        t.fsch.turn = (ring.val + 1) % 16 ∧ t.mem = s.mem ∧ t.tiles = s.tiles) ∧
    (turn → s.quietError pgFSCH Src.fsch_RING_FETCH →
      ∃ t, exec (.hostEvent ring none) s = .next t ∧ t.bit pgFSCH (Reg.FSCH_R_CFG_EN ring) = false ∧
        Recorded pgFSCH Src.fsch_RING_FETCH t ∧ t.fsch = { s.fsch with turn := (ring.val + 1) % 16 } ∧
        RegFrame (((Reg.FSCH_R_CFG_EN ring).bits pgFSCH).or (errBits pgFSCH Src.fsch_RING_FETCH)) s t) ∧
    (∀ v : Word, v.toNat < 2 ^ 16 → v.toNat < s.evRingSize ring →
      ∃ t, exec (.eventDoorbell ring 0 8 v) s = .next t ∧ t.fld pgFSCH (Reg.FSCH_R_IDX_TAIL ring) = v.toNat ∧
        t.doorbells = kset (fun _ => 0) s.doorbells (16 + ring) v ∧
        OnlyBits ((Reg.FSCH_R_IDX_TAIL ring).bits pgFSCH) { s with doorbells := t.doorbells } t) ∧
    (∃ t, exec .histClear s = .next t ∧ (∀ b, b < 16 → t.fld pgFSCH (Reg.FSCH_HIST_COUNT b) = 0) ∧
      OnlyBits (fun pg off i => ∃ b, b < 16 ∧ (Reg.FSCH_HIST_COUNT b).bits pgFSCH pg off i) s t) ∧
    (∃ t, exec .poolHwmClear s = .next t ∧ t.fld pgFSCH Reg.FSCH_POOL_HWM_MAX = s.fld pgFSCH Reg.FSCH_POOL_USED ∧
      OnlyBits (Reg.FSCH_POOL_HWM_MAX.bits pgFSCH) s t) ∧
    ∃ t, exec .watchClear s = .next t ∧ t.fld pgFSCH Reg.FSCH_WATCH_STAT_DELIVERED = 0 ∧
      t.fld pgFSCH Reg.FSCH_WATCH_STAT_MAX_WAIT = 0 ∧ t.fld pgFSCH Reg.FSCH_WATCH_LAST_LAST_WAIT = 0 ∧
      OnlyBits (((Reg.FSCH_WATCH_STAT_DELIVERED.bits pgFSCH).or (Reg.FSCH_WATCH_STAT_MAX_WAIT.bits pgFSCH)).or
        (Reg.FSCH_WATCH_LAST_LAST_WAIT.bits pgFSCH)) s t
/-- R65, R66, R145, R344: STAGE_START puts a stage without operators to work on its tiles, with the registers of Table
TILE-1; a tile and a steward core arrive at the gong; with the last arrival the release is posted on cue slot 16 + p; the
cue releases the gong and frees the tiles. -/
def Obligations.StageRuns : Prop :=
  ∀ (s : State),
    (∀ (slot : Fin 16) (stage : Fin 64) (env : StageEnv) (k : Nat), s.canStart slot stage = some k →
      let img := s.image slot
      let lts := img.stageTiles stage
      let r := img.stage stage
      img.nOps = 0 → img.realtime = false →
      ∃ t, exec (.stageStart slot stage env) s = .next t ∧
        (t.slot slot).runs = (s.slot slot).runs ++ [{ stage := stage, chunk := k, st := .running, began := s.beat }] ∧
        (∀ lt ∈ lts, (∀ l ∈ lts, s.physTile slot l = s.physTile slot lt → l = lt) →
          t.runOf (s.physTile slot lt) = some (slot.val, stage.val, k) ∧
          ∀ th, th < r.threads →
            let y := t.thread (s.physTile slot lt) th
            y.pc = r.entry / 4 ∧ y.run = .run ∧ y.wait = none ∧ y.item = none ∧ y.flags = 0 ∧ (∀ n, y.vreg n = 0) ∧
              (∀ n, n < 8 → y.mreg n = BitVec.allOnes 512) ∧ y.sreg 1 = word th ∧ y.sreg 2 = word lt ∧
              y.sreg 3 = word k ∧ y.sreg 4 = word r.threads ∧ y.sreg 5 = word lts.length ∧ y.sreg 6 = word slot ∧
              ∀ n, 7 ≤ n → y.sreg n = 0) ∧
        (∀ tile, tile ∉ s.tilesOf slot stage → t.tile tile = s.tile tile) ∧
        t = { s with regs := t.regs, slots := t.slots, tiles := t.tiles, augRows := t.augRows, cmps := t.cmps } ∧
        RegFrame (Reg.CLK_GATE_GATED.bits pgCLK) s t) ∧
    (∀ (tile : Fin 64) (p stage k : Nat) (r : StageRun), s.runOf tile = some (p, stage, k) → s.run p stage k = some r →
      tile.val ∉ r.tiles → s.active p = true → s.tileIdle p stage tile = true → (s.tile tile).partials = [] →
      s.probesDone p tile = true →
      let r' := { r with tiles := r.tiles ++ [tile.val], firstArr := some (r.firstArr.getD s.beat) }
      ((∃ u ∈ s.tilesOf p stage, u ∉ r'.tiles) →
        ∃ t, exec (.tileArrive tile) s = .next t ∧ t.run p stage k = some r' ∧
          (∀ n, t.tile n = s.tile n) ∧ t = { s with regs := t.regs, slots := t.slots, tiles := t.tiles } ∧
          RegFrame (Reg.TILE_PROBE_HOT_PARTIALS.bits (pgTILE tile)) s t) ∧
      (p < 16 → r.st = .running → (∀ u ∈ s.tilesOf p stage, u ∈ r'.tiles) → (∀ n ∈ s.stageStws p stage, n ∈ r.stws) →
        s.divertsOf p stage k = [] → s.cue (16 + p) = none →
        ∃ t, exec (.tileArrive tile) s = .next t ∧ t.run p stage k = some { r' with st := .releasing (s.beat + 128) } ∧
          t.cue (16 + p) = some (s.beat + 128) ∧ t.bit pgTIME (Reg.TIME_CUE_CTL_PENDING (16 + p)) = true ∧
          t.bit pgTIME (Reg.TIME_CUE_CTL_LATE (16 + p)) = false)) ∧
    (∀ (slot stw : Fin 16) (r : StageRun), ((s.slot slot).runs.find? fun (r : StageRun) =>
        r.st == .running && (s.stageStws slot r.stage).contains stw.val && !r.stws.contains stw.val) = some r →
      s.active slot = true → (∀ e ∈ s.fsch.pool, ¬ (e.slot = slot.val ∧ e.st = .inCore stw.val)) →
      (∃ u ∈ s.tilesOf slot r.stage, u ∉ r.tiles) →
      ∃ t r', exec (.stewardArrive slot stw) s = .next t ∧ t.run slot r.stage r.chunk = some r' ∧
        r' = { r with stws := r.stws ++ [stw.val], firstArr := some (r.firstArr.getD s.beat) } ∧
        t = { s with slots := t.slots }) ∧
    ∀ (cue : Fin 32) (p tgt : Nat) (r : StageRun), cue.val = 16 + p → s.cue cue = some tgt → s.beatOn = true →
      s.staged = [] → s.owns = [] → s.car.tables = [] → s.noWaits → s.active p = true →
      (∀ q, (s.slot q).setWaits = [] ∧ (s.image q).cadence = none) → (s.slot p).runs = [r] → r.st = .releasing tgt →
      (∃ e ∈ (s.image p).exits, e ≠ r.stage ∧ s.stageHas p e r.chunk = false) →
      ∃ t, exec (.cueFire cue []) s = .next t ∧ t.cue cue = none ∧ t.beat = max s.beat tgt ∧ (t.slot p).runs = [] ∧
        (∀ tile ∈ s.tilesOf p r.stage, t.runOf tile = none) ∧
        t.stageDoneOf p r.stage = max (s.stageDoneOf p r.stage) (r.chunk + 1)

/-- R68, R344, R345, R342, R346, R347, R99: a limit of a gong passes; a cue slot is posted and fires; a replica of the
beat differs; a snapshot of wall time; an edge of the sync input, and a missing one; a window of the bandwidth split. -/
def Obligations.TimeCommands : Prop :=
  ∀ (s : State),
    (∀ (slot : Fin 16) (stage : Fin 64) (r : StageRun),
      ((s.slot slot).runs.find? fun (r : StageRun) => r.stage == stage.val && !r.timedOut) = some r →
      s.active slot = true → s.beatOn = true → s.quietError pgPLAN Src.plan_GONG_TIMEOUT →
      let a := r.began + 2 ^ s.fld pgPLAN Reg.PLAN_GONG_TMO_START_LOG2
      ∃ t, exec (.gongTimeout slot stage) s = .next t ∧ Recorded pgPLAN Src.plan_GONG_TIMEOUT t ∧
        t.beat = max s.beat ((r.firstArr.map fun b => min a (b + 2 ^ s.fld pgPLAN Reg.PLAN_GONG_TMO_LOG2)).getD a) ∧
        t.fld pgPLAN Reg.PLAN_GONG_WHERE_SLOT = slot ∧ t.fld pgPLAN Reg.PLAN_GONG_WHERE_STAGE = stage ∧
        t.fld pgPLAN Reg.PLAN_GONG_MISS_TILES =
          (((s.tilesOf slot stage).filter fun u => !r.tiles.contains u).map fun u => 2 ^ u).sum % 2 ^ 64 ∧
        t.run slot r.stage r.chunk = some { r with timedOut := true }) ∧
    (∀ (cue : Fin 32), cue.val < 16 → s.cadenceSlot cue = false → s.cue cue = none →
      let b := s.fld pgTIME (Reg.TIME_CUE_BEAT_TARGET cue)
      (s.beat + 128 ≤ b →
        ∃ t, exec (.timeCuePost cue) s = .next t ∧ t.cue cue = some b ∧
          t.bit pgTIME (Reg.TIME_CUE_CTL_PENDING cue) = true ∧ t.bit pgTIME (Reg.TIME_CUE_CTL_LATE cue) = false ∧
          t.fld pgCLK Reg.CLK_GATE_GATED = 0 ∧ t = { s with regs := t.regs, cues := t.cues } ∧
          RegFrame (((Reg.TIME_CUE_CTL_PENDING cue).bits pgTIME).or (((Reg.TIME_CUE_CTL_LATE cue).bits pgTIME).or
            (Reg.CLK_GATE_GATED.bits pgCLK))) s t) ∧
      (b < s.beat + 128 → s.quietError pgTIME Src.time_CUE_LATE →
        ∃ t, exec (.timeCuePost cue) s = .next t ∧ t.cue cue = some (s.beat + 128) ∧
          t.bit pgTIME (Reg.TIME_CUE_CTL_PENDING cue) = true ∧ t.bit pgTIME (Reg.TIME_CUE_CTL_LATE cue) = true ∧
          Recorded pgTIME Src.time_CUE_LATE t)) ∧
    (∀ (cue : Fin 32) (tgt : Nat), s.cue cue = some tgt → s.beatOn = true → s.staged = [] → s.owns = [] →
      s.car.tables = [] → (∀ p, p < 16 → s.slotState p = 0 ∧ (s.slot p).setWaits = []) →
      ∃ t, exec (.cueFire cue []) s = .next t ∧ t.cue cue = none ∧ t.beat = max s.beat tgt ∧
        t.bit pgTIME (Reg.TIME_CUE_CTL_PENDING cue) = false ∧
        t.fld pgTIME (Reg.TIME_CUE_CTL_FIRED cue) = (s.fld pgTIME (Reg.TIME_CUE_CTL_FIRED cue) + 1) % 2 ^ 32 ∧
        (∀ page, page < 512 → s.bit page Reg.BLK_CTRL_CUE_ARM = true → s.fld page Reg.BLK_CTRL_CUE_SEL = cue.val →
          s.bit page Reg.BLK_CTRL_SHD_HOLD = false → s.powered page = true → s.fenced page = false →
          t.bit page Reg.BLK_CTRL_CUE_ARM = false) ∧
        t = { s with regs := t.regs, cues := t.cues, beat := t.beat }) ∧
    (∀ (page : Fin 512), s.beatHold = false → s.beatOn = true → s.powered page = true →
      s.quietError pgTIME Src.time_BEAT_MISMATCH →
      ∃ t, exec (.beatCheck page) s = .next t ∧ t.fld pgTIME Reg.TIME_REPL_LAST_PAGE = page ∧
        t.fld pgTIME Reg.TIME_REPL_MISMATCHES = min (s.fld pgTIME Reg.TIME_REPL_MISMATCHES + 1) (2 ^ 32 - 1) ∧
        Recorded pgTIME Src.time_BEAT_MISMATCH t ∧
        RegFrame (((Reg.TIME_REPL_LAST_PAGE.bits pgTIME).or (Reg.TIME_REPL_MISMATCHES.bits pgTIME)).or
          (errBits pgTIME Src.time_BEAT_MISMATCH)) s t) ∧
    (let ref : Int := s.fld pgTIME Reg.TIME_REF_BEAT_BEAT
      let d : Int := s.beat - ref
      let ppb : Int := toS 32 (s.fld pgTIME Reg.TIME_RATE_PPB)
      let a := (d * 10).tdiv 7
      s.beat < 2 ^ 64 → -2 ^ 59 < d → d < 2 ^ 59 →
      ∃ t, exec .timeSnapTake s = .next t ∧ t.fld pgTIME Reg.TIME_SNAP_BEAT_BEAT = s.beat ∧
        (t.fld pgTIME Reg.TIME_SNAP_WALL_NS : Int) = (s.fld pgTIME Reg.TIME_REF_WALL_NS + a +
          (a.tdiv 1000000000 * ppb + (a.tmod 1000000000 * ppb).tdiv 1000000000)) % 2 ^ 64 ∧
        OnlyBits ((Reg.TIME_SNAP_BEAT_BEAT.bits pgTIME).or (Reg.TIME_SNAP_WALL_NS.bits pgTIME)) s t) ∧
    (∀ (falling : Bool), s.bit pgTIME Reg.TIME_SYNC_EN = true → s.bit pgTIME Reg.TIME_SYNC_FALLING = falling →
      s.bit pgTIME Reg.TIME_SYNC_DISCIPLINE = false →
      ∃ t, exec (.syncEdge falling) s = .next t ∧ t.fld pgTIME Reg.TIME_SYNC_BEAT_BEAT = s.beat % 2 ^ 64 ∧
        OnlyBits (Reg.TIME_SYNC_BEAT_BEAT.bits pgTIME)
          { s with time := { s.time with since := s.beat, missed := false } } t) ∧
    (s.bit pgTIME Reg.TIME_SYNC_EN = true → s.time.missed = false → s.beatOn = true →
      s.quietError pgTIME Src.time_SYNC_MISSING →
      ∃ t, exec .syncMissing s = .next t ∧ Recorded pgTIME Src.time_SYNC_MISSING t ∧
        t.time = { s.time with missed := true } ∧
        t.beat = max s.beat (s.time.since + 1400 * s.fld pgTIME Reg.TIME_SYNC_PERIOD_US) ∧
        RegFrame (errBits pgTIME Src.time_SYNC_MISSING) s t) ∧
    ∀ (stack : Fin 4),
      ∃ t, exec (.bwsplitWindow stack) s = .next t ∧ t = { s with buckets := t.buckets } ∧
        (∀ c, c < 3 →
          let n := s.share99 stack c * (if s.bit (pgHMC stack) Reg.HMC_STAT_THROTTLED then 8 else 16)
          t.bucket stack c = min (2 * n) (s.bucket stack c + n)) ∧
        ∀ other c, c < 3 → other ≠ stack.val → t.bucket other c = s.bucket other c
/-- R189, R211: PROBE sends a request for each selected lane to the owner of its key, and the thread waits for the
answers. Said of one selected lane and a key in the register, without hot keys, replicas or partial states at the tile. -/
def Obligations.ProbeIssue : Prop :=
  ∀ (s : State) (tile : Fin 64) (th : Fin 8) (mask : BitVec 3) (ty : BitVec 4) (b a d : BitVec 5) (p stage k i : Nat)
    (jt : JTab) (kind : ProbeKind) (c : Instr),
    (kind, c) ∈ [(.lookup, .probeLookup tile th mask ty b a d), (.insert, .probeInsert tile th mask ty b a d),
      (.update, .probeUpdate tile th mask ty b a d)] →
    s.runOf tile = some (p, stage, k) → s.canIssue tile th = true → d.toNat % 2 = 0 → s.jtab p ty.toNat = some jt →
    jt.isStr = false → jt.f 2 0 8 ≤ 8 → jt.f 1 5 1 = 0 → (s.pu tile).replicas = [] → (s.tile tile).partials = [] →
    i < 32 → (∀ j, j < 32 → (((s.thread tile th).mreg mask.toNat).getLsbD j = true ↔ j = i)) →
    let x := s.thread tile th
    let hash := elem (x.vN a.toNat) 64 i
    let owner := jt.owners.getD (ownerOf hash jt.owners.length) 0
    (s.tile owner).probes.length < 128 →
    ∃ t, exec c s = .next t ∧
      (t.tile owner).probes = (s.tile owner).probes ++
        [{ kind := kind, slot := p, tile := tile, th := th, lane := i, handle := ty.toNat, d := d.toNat
           key := leBytes (jt.f 2 0 8) (elem (x.vN b.toNat) 64 i)
           load := [word hash, word (elem (x.vN d.toNat) 64 i)] }] ∧
      t.thread tile th = { x with pc := (x.pc + 1) % 2 ^ 14, run := .streamWait, wait := some (.answers 1) } ∧
      t = { s with regs := t.regs, tiles := t.tiles } ∧
      RegFrame ((perfBits (pgTILE tile)).or (Reg.TILE_PROBE_STAT_QUEUED.bits (pgTILE owner))) s t

/-- R211, R193, R189: an owner answers the LOOKUP that waits longest from its share; the answer reaches the lane's
elements, and the last one lets the thread go on. -/
def Obligations.ProbeAnswers : Prop :=
  ∀ (s : State) (tile : Fin 64),
    (∀ (p : Nat) (q : Probe) (l : List Probe) (jt : JTab), s.slotOfTile tile = some p → s.ownerWorks tile p = true →
      (s.tile tile).probes = q :: l → s.jtab q.slot q.handle = some jt → q.kind = .lookup →
      let key : JKey := { bytes := q.key }
      let hash := (q.load.getD 0 0).toNat
      let o := ownerOf hash jt.owners.length
      let f := s.findKey jt (s.shareBase jt o) hash key
      (s.share jt o).level = 0 → (s.share jt o).evicted = [] → f.bad = false →
      let answers := fun (w0 w1 : Nat) => ∃ t, exec (.probeServe tile none) s = .next t ∧ (t.tile tile).probes = l ∧
        (t.pu q.tile).answers = (s.pu q.tile).answers ++ [.lane q.th .lookup q.lane q.d w0 w1] ∧
        t = { s with regs := t.regs, tiles := t.tiles, probeUnits := t.probeUnits } ∧
        t.fld (pgTILE tile) Reg.TILE_PROBE_STAT_SERVED = (s.fld (pgTILE tile) Reg.TILE_PROBE_STAT_SERVED + 1) % 2 ^ 32 ∧
        RegFrame ((perfBits (pgTILE tile)).or ((Reg.TILE_PROBE_STAT_SERVED.bits (pgTILE tile)).or
          (Reg.TILE_PROBE_STAT_QUEUED.bits (pgTILE tile)))) s t
      (f.hit = none ∨ hash ≠ jt.hash key 0 → answers 0 0xFF_FFFF_FFFF) ∧
      ∀ bk j n e es, hash = jt.hash key 0 → f.hit = some (bk, j, n) → s.chain jt o n = (e :: es, false) →
        answers (bytesAt e.2.pay 0 8) (n + 2 ^ 40 + if es = [] then 0 else 2 ^ 41)) ∧
    (∀ (th : Fin 8) (kind : ProbeKind) (i d w0 w1 : Nat) (l : List Answer),
      (s.pu tile).answers = .lane th kind i d w0 w1 :: l → i < 32 →
      ∃ t, exec (.probeResponse tile) s = .next t ∧ (t.pu tile).answers = l ∧
        t = { s with tiles := t.tiles, probeUnits := t.probeUnits } ∧
        let x := s.thread tile th
        let y := t.thread tile th
        y = { x with v := y.v, run := y.run, wait := y.wait } ∧
        (x.wait = some (.answers 1) → y.wait = none ∧ y.run = .run) ∧
        (∀ n, x.wait = some (.answers (n + 2)) → y.wait = some (.answers (n + 1)) ∧ y.run = x.run) ∧
        (∀ r j, j < 32 → elem (y.vreg r).toNat 64 j =
          if j = i ∧ r = d + 1 then w1 % 2 ^ 64
          else if j = i ∧ r = d ∧ kind = .lookup then w0 % 2 ^ 64
          else elem (x.vreg r).toNat 64 j)) ∧
    (∀ (op row : Nat) (build : List (List Byte)) (null : Bool) (l : List Answer) (p : Nat),
      (s.pu tile).answers = .rows op row build null :: l → s.slotOfTile tile = some p →
      let k := (s.image p).joinKind ((s.image p).op op)
      ∃ t, exec (.probeResponse tile) s = .next t ∧ (t.pu tile).answers = l ∧
        (t.pu tile).rows = (s.pu tile).rows ++
          (joinRows k.1 k.2 null build).map (fun b => { op := op, row := row, build := b }) ∧
        t = { s with probeUnits := t.probeUnits })

/-- R196, R209: a grace pass takes the next spill of a share and empties the share's buckets (said of a partition
evicted without rows, of a share in tile memory); the owner of a hot key replicates it to every tile of the issuing stage that has room. -/
def Obligations.JoinPasses : Prop :=
  ∀ (s : State) (tile : Fin 64) (p : Nat), s.slotOfTile tile = some p →
    (∀ (jt : JTab) (o : Nat) (sp : Spill) (rest : List Spill), s.ownerWorks tile p = true → (s.tile tile).probes = [] →
      s.spilled p tile = some (jt, o) → jt.nextSpill (s.share jt o).spills = some (sp, rest) → sp.build = [] →
      sp.probe = [] → jt.isAgg = false → jt.keeps = false → jt.owners.getD o 0 = tile →
      (∀ b, b < jt.nb → (tileAddr (s.shareBase jt o + 64 * b)).isSome = true) →
      ∃ t, exec (.gracePass tile) s = .next t ∧ (t.share jt o).spills = rest ∧ (t.share jt o).level = sp.level + 1 ∧
        (t.share jt o).rows = [] ∧
        t.fld (pgTILE tile) Reg.TILE_PROBE_SPILL_PASSES =
          min (s.fld (pgTILE tile) Reg.TILE_PROBE_SPILL_PASSES + 1) (2 ^ 16 - 1) ∧
        (∀ b, b < jt.nb → t.readMem (s.shareBase jt o + 64 * b) 8 = (leBytes 8 0, false)) ∧
        t = { s with regs := t.regs, shares := t.shares, mem := { s.mem with tile := t.mem.tile } } ∧
        RegFrame ((Reg.TILE_PROBE_SPILL_PASSES.bits (pgTILE tile)).or
          (Reg.TILE_PROBE_SPILL_MAX_LEVEL.bits (pgTILE tile))) s t) ∧
    ∀ (src h n : Nat) (key : List Byte) (l : List (Nat × Nat × List Byte)) (jt : JTab) (p' stage k bk j : Nat)
      (c : List (Nat × EntryRec)),
      (s.pu tile).hotReqs = (src, h, key) :: l → s.jtab p h = some jt → s.runOf src = some (p', stage, k) →
      jt.slot = p → jt.h = h → (s.stageTiles p stage).Nodup →
      let o := (jt.owners.findIdx? (· == tile.val)).getD 0
      let x := s.share jt o
      let f := s.findKey jt (s.shareBase jt o) (jt.hash { bytes := key } x.level) { bytes := key }
      f.hit = some (bk, j, n) → f.bad = false → s.chain jt o n = (c, false) → jt.namedLater = true →
      c.length * jt.entryBytes ≤ 4096 → x.copied.length < 64 →
      ∃ t, exec (.hotReplicate tile) s = .next t ∧ (t.pu tile).hotReqs = l ∧ (t.share jt o).copied = key :: x.copied ∧
        (∀ i ∈ s.stageTiles p stage, s.hotUsed i jt + c.length * jt.entryBytes ≤ jt.hotArea →
          (t.pu i).replicas = (s.pu i).replicas ++ [(h, key, (match c with | e :: _ => bytesAt e.2.pay 0 8 | [] => 0), n,
            c.length)]) ∧
        t = { s with regs := t.regs, probeUnits := t.probeUnits, shares := t.shares }

/-- R227, R246, R247, R223: CSRCH SEARCH, TOKENISE and RANGE queue a search for every lane that needs one at the tile's
port, and the thread waits for the answers. -/
def Obligations.SearchIssue : Prop :=
  ∀ (s : State) (tile : Fin 64) (th : Fin 8) (mask : BitVec 3) (ty : BitVec 4) (b a d : BitVec 5) (p stage k : Nat),
    s.runOf tile = some (p, stage, k) → s.canIssue tile th = true →
    let x := s.thread tile th
    let tid := (s.image p).bellArg + ty.toNat
    let vb := x.vN b.toNat
    let sends := fun (c : Instr) (qs : List CarSearch) (v : Thread → Prop) =>
      ∃ t, exec c s = .next t ∧ t.car = { s.car with searches := s.car.searches ++ qs } ∧
        ThreadFrame tile th { s with car := t.car } t ∧
        let y := t.thread tile th
        y = { x with
          v := y.v
          pc := (x.pc + 1) % 2 ^ 14
          run := if qs = [] then .run else .streamWait
          wait := if qs = [] then none else some (.answers qs.length) } ∧ v y
    let ask := fun (form lane key gmask bellset maxlen cursor : Nat) => ({
      port := s.portOf tile, tile := tile, th := th, slot := p, table := tid, form := form, lane := lane, d := d.toNat
      key := key, gmask := gmask, bellset := bellset, maxlen := maxlen, cursor := cursor } : CarSearch)
    let same := fun (y : Thread) => y.v = x.v
    (d.toNat % 2 = 0 → sends (.csrchSearch tile th mask ty b a d)
      (((List.range 8).filter fun n => (x.mreg mask.toNat).getLsbD n).map fun n =>
        ask 0 n (elem (x.vN a.toNat) 256 n) (vb % 2 ^ 256) (vb / 2 ^ 256 % 2 ^ 32) (vb / 2 ^ 288 % 2 ^ 9)
          (vb / 2 ^ 300 % 2 ^ 4)) same) ∧
    (sends (.csrchTokenise tile th mask ty b a d)
      (((List.range 8).filter fun n => elem vb 64 n != 0).map fun n =>
        ask 1 n (elem (x.vN a.toNat) 256 n) (2 ^ 256 - 1) 0 (8 * min (elem vb 64 n) 32) 0)
      fun y => (∀ r, r ≠ d.toNat → y.vreg r = x.vreg r) ∧ ∀ n, n < 8 → elem (y.vreg d.toNat).toNat 256 n =
        if elem vb 64 n = 0 then 0 else elem (x.vreg d.toNat).toNat 256 n) ∧
    ∀ ct, s.table tid = some ct →
      let ordered := fun (n : Nat) => rangeKey ct.vtype (elem (x.vN a.toNat) 64 n % 2 ^ tyWidth ct.vtype)
      sends (.csrchRange tile th mask ty b a d)
        (((List.range 32).filter fun n => (x.mreg mask.toNat).getLsbD n).filterMap fun n =>
          (ordered n).map fun u => ask 2 n u (2 ^ 256 - 1) 0 256 0)
        fun y => (∀ r, r ≠ d.toNat → y.vreg r = x.vreg r) ∧ ∀ n, n < 32 → elem (y.vreg d.toNat).toNat 64 n =
          if (x.mreg mask.toNat).getLsbD n = true ∧ ordered n = none then ct.miss % 2 ^ 64
          else elem (x.vreg d.toNat).toNat 64 n
/-- R215, R219, R221, R222: the matches of a search are the valid entries of the selected unfenced bells that agree with
the key on the bits of both masks and are no longer than MAXLEN, longer ones first, lower indexes first among equals. -/
def Obligations.SearchMatches : Prop :=
  ∀ (s : State) (t : CarTable) (rep : Nat) (q : SearchReq), t.loading = false →
    (∀ m, m ∈ s.matches t rep q ↔ ∃ j i e, m = (j * 16384 + i, e) ∧ j < t.bells ∧
      (q.bellset = 0 ∨ q.bellset.testBit j = true) ∧ s.fenced (pgBELL (s.physBell t t.active rep j)) = false ∧
      (i, some e) ∈ s.bell (s.physBell t t.active rep j) ∧ popcount 256 e.mask ≤ q.maxlen ∧
      ∀ n, e.mask.testBit n = true → q.gmask.testBit n = true → q.key.testBit n = e.key.testBit n) ∧
    (s.matches t rep q).Pairwise fun a b => popcount 256 b.2.mask < popcount 256 a.2.mask ∨
      (popcount 256 b.2.mask = popcount 256 a.2.mask ∧ a.1 ≤ b.1)

/-- R223 to R227, R246: a search port serves the search that waits longest; the result reaches the lane's element, and
the last answer lets the thread go on. -/
def Obligations.SearchAnswers : Prop :=
  ∀ (s : State) (port : Fin 4) (q : CarSearch) (ct : CarTable),
    (s.car.searches.find? fun q => q.port == port.val) = some q → s.portUp port = true → s.powered pgCAR = true →
    s.table q.table = some ct →
    let ms := s.matches ct (port.val % ct.replicas)
      { key := q.key, gmask := q.gmask, bellset := q.bellset, maxlen := q.maxlen, cursor := q.cursor }
    let fenced := (List.range ct.bells).any fun j => s.bellFenced (s.physBell ct ct.active (port.val % ct.replicas) j)
    let a := ct.answer ms q.cursor false fenced
    let a := if q.form = 1 then ct.fallback a q.key else a
    ∃ t, exec (.carSearch port false) s = .next t ∧ t.car = { s.car with searches := s.car.searches.erase q } ∧
      t.thread q.tile q.th = ((s.thread q.tile q.th).putSearch q a).answered ∧
      t = { s with regs := t.regs, tiles := t.tiles, car := t.car } ∧
      RegFrame (fun pg off i => perfBits pgCAR pg off i ∨ ∃ b, perfBits (pgBELL b) pg off i) s t ∧
      (q.lane < 8 → q.form = 0 → elem ((t.thread q.tile q.th).vreg q.d).toNat 256 q.lane =
        a.data % 2 ^ 64 + a.status % 2 ^ 64 * 2 ^ 64)

/-- R232, R235, R237, R240: CAR_INSERT of one record that finds its place free, CAR_DELETE and CAR_MODIFY of one record
change that entry in every replica of the set and complete with the records applied. -/
def Obligations.TableChanges : Prop :=
  ∀ (s : State) (ring : Fin 16) (c : Cmd) (rest : List Cmd) (host : Option (List Byte)) (ct : CarTable) (bs : List Byte)
    (e : CarEntry) (tid : Nat),
    tid = c.op1.toNat / 2 ^ 24 % 2 ^ 5 → s.table tid = some ct → c.op1.toNat.testBit 29 = false → ct.job = none →
    s.shadowed ct ct.active →
    s.operandBytes (opDev c.op1) c.op0.toNat (128 * (c.op2.toNat % 2 ^ 20)) host = some bs →
    goodRecs ct.kind (cutRecs (c.op2.toNat % 2 ^ 20) bs) = ([e], false) →
    let set := ct.active
    let changes := fun (i : Instr) (j at_ : Nat) (v : Option CarEntry) => ∃ t, exec i s = .next t ∧
      RingCompleted ring c rest 0 ct.slot 1 0 t ∧
      (∀ r, r < ct.replicas → (t.bell (s.physBell ct set r j)).at at_ = v) ∧
      (∀ b n, n ≠ at_ ∨ (∀ r, r < ct.replicas → b ≠ s.physBell ct set r j) → (t.bell b).at n = (s.bell b).at n) ∧
      (∀ n, n ≠ tid → t.table n = s.table n) ∧ CplFrame s { t with car := s.car, mem := s.mem } ∧
      t.mem = { s.mem with dev := t.mem.dev, hbmPoison := t.mem.hbmPoison, storePoison := t.mem.storePoison }
    (s.nextCmd ring 0x20 c rest → (∀ p ∈ s.setEntries ct set, p.2.same e = false) →
      ∀ j, ((List.range ct.bells).find? fun j => (s.bell (s.physBell ct set 0 j)).hasRoom) = some j →
        let at_ := (s.bell (s.physBell ct set 0 j)).point e.len
        at_ < bellSize → (s.bell (s.physBell ct set 0 j)).at at_ = none →
        changes (.carInsert ring host) j at_ (some e)) ∧
    (∀ n old, ((s.setEntries ct set).find? fun p => p.2.same e) = some (n, old) → n / bellSize < ct.bells →
      (s.nextCmd ring 0x21 c rest → changes (.carDelete ring host) (n / bellSize) (n % bellSize) none) ∧
      (s.nextCmd ring 0x22 c rest →
        changes (.carModify ring host) (n / bellSize) (n % bellSize) (some { old with data := e.data })))

/-- R233, R234, R238: a load empties the set and keeps its ring's command in progress; a load and a regap lay the entries
out at their ends; a shift moves the entries between the insertion point and the hole; a swap exchanges the sets, at once
or at a cue. -/
def Obligations.TableJobs : Prop :=
  ∀ (s : State) (tid : Fin 32) (ct : CarTable), s.table tid = some ct →
    (∀ (ring : Fin 16) (c : Cmd) (rest : List Cmd), c.op1.toNat / 2 ^ 24 % 2 ^ 5 = tid.val → ct.job = none →
      let set := if c.op1.toNat.testBit 29 then 1 - ct.active else ct.active
      let started := fun (i : Instr) (w : CarWork) (l : Bool) => ∃ t, exec i s = .next t ∧ RingBusy ring s t ∧
        t.table tid = some { ct with loading := l, job := some ⟨some ring.val, set, 0, w⟩ } ∧
        t = { s with rings := t.rings, car := t.car, mem := t.mem }
      (∀ host bs es bad, s.nextCmd ring 0x23 c rest → (c.op1.toNat.testBit 29 = true → ct.standby = true) →
        c.op2.toNat % 2 ^ 20 ≤ ct.fill * ct.bells → s.shadowed ct set →
        s.operandBytes (opDev c.op1) c.op0.toNat (128 * (c.op2.toNat % 2 ^ 20)) host = some bs →
        goodRecs ct.kind (cutRecs (c.op2.toNat % 2 ^ 20) bs) = (es, bad) →
        started (.carLoad ring host) (.load es bad) (set == ct.active) ∧
        ∀ t, exec (.carLoad ring host) s = .next t → ∀ r j i, r < ct.replicas → j < ct.bells →
          (t.bell (s.physBell ct set r j)).at i = none) ∧
      (s.nextCmd ring 0x25 c rest → (c.op1.toNat.testBit 29 = true → ct.standby = true) →
        started (.carRegap ring) .regap ct.loading) ∧
      (s.nextCmd ring 0x24 c rest → ct.standby = true → c.op2.toNat.testBit 20 = false →
        ∃ t, exec (.carSwap ring) s = .next t ∧ RingCompleted ring c rest 0 ct.slot 0 0 t ∧
          t.table tid = some { ct with active := 1 - ct.active, swaps := (ct.swaps + 1) % 2 ^ 32, loading := false } ∧
          (∀ b, t.bell b = s.bell b) ∧ CplFrame s { t with car := s.car }) ∧
      (s.nextCmd ring 0x24 c rest → ct.standby = true → c.op2.toNat.testBit 20 = true →
        s.cueAllowed ct.slot (c.op2.toNat / 2 ^ 21 % 2 ^ 5) = true →
        let j : CarJob := ⟨some ring.val, ct.active, 0, .swap (c.op2.toNat / 2 ^ 21 % 2 ^ 5)⟩
        ∃ t, exec (.carSwap ring) s = .next t ∧ RingBusy ring s t ∧ t.table tid = some { ct with job := some j } ∧
          t = { s with rings := t.rings, car := t.car })) ∧
    ∀ (ring set n : Nat) (c : Cmd) (rest : List Cmd), (s.ring ring).waiting = c :: rest → s.shadowed ct set →
      s.bellsApart ct set →
      let ended := fun (i : Instr) (code count : Nat) (contents : Nat → Nat → Nat → Option CarEntry) =>
        ∃ t, exec i s = .next t ∧ RingCompleted ring c rest code ct.slot count 0 t ∧
          t.table tid = some { ct with job := none, loading := false } ∧
          (∀ r j k, r < ct.replicas → j < ct.bells → (t.bell (s.physBell ct set r j)).at k = contents r j k) ∧
          ∀ b, (∀ r j, r < ct.replicas → j < ct.bells → s.physBell ct set r j ≠ b) → t.bell b = s.bell b
      let laid := fun (es : List CarEntry) (_ j k : Nat) => kget (fun _ => none) ((ct.layout es).getD j []) k
      (∀ es bad, ct.job = some ⟨some ring, set, n, .load es bad⟩ → (ct.layout es).all (fun b => b.all fun p => p.1 < bellSize) →
        ended (.carLoadDone tid) (if bad then 43 else 0) es.length (laid es)) ∧
      (ct.job = some ⟨some ring, set, n, .regap⟩ →
        (ct.layout ((s.setEntries ct set).map Prod.snd)).all (fun b => b.all fun p => p.1 < bellSize) →
        ended (.carRegapDone tid) 0 0 (laid ((s.setEntries ct set).map Prod.snd))) ∧
      ∀ (bell : Fin 32) (j q hole : Nat) (e : CarEntry) (bad : Bool),
        ct.job = some ⟨some ring, set, n, .shift [bell.val] j q hole e [] bad⟩ →
        (∀ u cu, u ≠ tid.val → s.table u = some cu → cu.job = none) → ct.repl = 0 → j < ct.bells → s.physBell ct set 0 j = bell →
        q < bellSize → hole < bellSize →
        ended (.shiftDone bell) (if bad then 43 else 0) (n + 1) fun _ j' k =>
          let old := fun i => (s.bell (s.physBell ct set 0 j')).at i
          if j' ≠ j then old k
          else if q ≤ hole then (if k = q then some e else if q < k ∧ k ≤ hole then old (k - 1) else old k)
          else if k = q - 1 then some e else if hole ≤ k ∧ k < q - 1 then old (k + 1) else old k

/-- R216, R242: a write to the direct window is dropped and recorded; the scrubber moves on by one index, changes nothing
that agrees with its shadow record, and repairs an entry that differs. -/
def Obligations.WindowAndScrubber : Prop :=
  ∀ (s : State),
    (∀ addr, 0x42_0000_0000 ≤ addr → addr < 0x42_0400_0000 → s.quietError pgCAR Src.car_WINDOW_WRITE →
      ∃ t, exec (.windowWrite addr) s = .next t ∧ Recorded pgCAR Src.car_WINDOW_WRITE t ∧ t.car = s.car ∧
        t.mem = s.mem ∧ RegFrame (errBits pgCAR Src.car_WINDOW_WRITE) s t) ∧
    ∀ (bell : Fin 32) (env : ScrubEnv) (tid set r j : Nat) (ct : CarTable),
      s.bellRole bell = some (tid, ct, set, r, j) → s.bit pgCAR Reg.CAR_CFG_SCRUB_EN = true → s.assist pgCAR = false →
      s.bellFenced bell = false → s.powered (pgBELL bell) = true → ct.busyOn set = false →
      let pg := pgBELL bell
      let i := s.fld pg Reg.BELL_SCRUB_POS
      let rec_ := s.readDev (s.shadowAddr ct set r j i) 128
      rec_.2 = false →
      (env.differs = false → env.parityBad = false → carRecord ((s.bell bell).at i) = rec_.1 →
        ∃ t, exec (.scrubCompare bell env) s = .next t ∧ t.fld pg Reg.BELL_SCRUB_POS = (i + 1) % 16384 ∧
          OnlyBits ((perfBits pg).or (Reg.BELL_SCRUB_POS.bits pg)) s t) ∧
      (env.differs = true ∨ env.parityBad = true ∨ carRecord ((s.bell bell).at i) ≠ rec_.1 →
        s.quietError pg Src.bell_SCRUB_FIX →
        ∃ t, exec (.scrubCompare bell env) s = .next t ∧ t.fld pg Reg.BELL_SCRUB_POS = (i + 1) % 16384 ∧
          (t.bell bell).at i = shadowEntry rec_.1 ∧ (∀ n, n ≠ i → (t.bell bell).at n = (s.bell bell).at n) ∧
          t.fld pg Reg.BELL_SCRUB_FIXED = min (s.fld pg Reg.BELL_SCRUB_FIXED + 1) (2 ^ 32 - 1) ∧
          Recorded pg Src.bell_SCRUB_FIX t ∧ t.mem = s.mem)
/-- R116, R118, R119, R120, R122: a step of a DECOMPRESS operator puts its bytes into the operator's ring, packed, and
counts what it consumed and produced; a frame that a steward core decoded goes on where it was passed. Said of a step
without damage, within the ring and not at its end. -/
def Obligations.DecompressSteps : Prop :=
  ∀ (s : State) (dec : Fin 32) (x : DecStream) (n : Nat) (bs : List Byte),
    s.decWorks x = true → x.dec = dec → (s.decOpRec x).code = 1 → x.held = [] → x.live = true → x.freed ≤ x.released →
    let size := s.decF x 0x18 0 12 * 4096
    let at_ := s.decF x 0x14 0 23 + x.bytes % size
    x.bytes + bs.length - x.freed * 4096 ≤ size → x.bytes % size + bs.length ≤ size →
    let u : DecUnit := { consumed := n, bytes := bs, sized := true }
    let moved := fun (t : State) => ∃ y, t.decOf x.slot x.op = some y ∧ y.inPos = x.inPos + n ∧
      y.outTotal = x.outTotal + bs.length ∧ y.bytes = x.bytes + bs.length ∧ y.released = (x.bytes + bs.length) / 4096 ∧
      y.freed = x.freed ∧ y.assistWait = false ∧ t.tmRead (s.decTile x) at_ bs.length = bs ∧
      (∀ k, k < tmKey (s.decTile x) at_ ∨ tmKey (s.decTile x) at_ + bs.length ≤ k → cell t.mem.tile k = cell s.mem.tile k) ∧
      t.fld (pgDEC dec) Reg.DEC_OUT_TOTAL_BYTES = (s.fld (pgDEC dec) Reg.DEC_OUT_TOTAL_BYTES + bs.length) % 2 ^ 64 ∧
      t = { s with regs := t.regs, decs := t.decs, mem := { s.mem with tile := t.mem.tile } } ∧
      RegFrame (fun pg _ _ => pg = pgDEC dec) s t
    (s.decActive dec = some x → x.restoring = false → x.assistWait = false →
      ∃ t, exec (.decodeInput dec u) s = .next t ∧ moved t) ∧
    ((s.decs.find? fun x => x.dec == dec.val && x.assistWait) = some x →
      ∃ t, exec (.decAssistReturn dec u) s = .next t ∧ moved t)

/-- R123 to R126: a stream that has used its quantum saves its context and the next one runs; a saved context whose record
is good is restored. -/
def Obligations.DecoderContexts : Prop :=
  ∀ (s : State) (dec : Fin 32) (x : DecStream), s.decActive dec = some x → s.decWorks x = true →
    (∀ (ctx : DecCtx) (y : DecStream) (a : Nat), x.restoring = false → s.fld (pgDEC dec) Reg.DEC_CFG_QUANTUM ≤ x.blocks →
      s.nextStream dec x.op = some y → y.op ≠ x.op → s.freeArea x.slot = some a → ctx.rowBack ≤ ctx.hist.length →
      ctx.hist.length ≤ 2 ^ (s.image x.slot).histLog2 →
      (∀ k, k < 2 ^ (s.image x.slot).histLog2 + 4096 → s.placed (s.areaAddr x.slot a + k)) →
      ∃ t, exec (.decStreamSwitch dec ctx) s = .next t ∧
        t.decOf x.slot x.op = some { x with active := false, saved := some a, blocks := 0 } ∧
        t.decOf y.slot y.op = some { y with active := true, restoring := y.saved.isSome, blocks := 0 } ∧
        t.fld (pgDEC dec) Reg.DEC_CTX_SAVES = (s.fld (pgDEC dec) Reg.DEC_CTX_SAVES + 1) % 2 ^ 32 ∧
        t = { s with regs := t.regs, decs := t.decs, mem := t.mem } ∧ RegFrame (fun pg _ _ => pg = pgDEC dec) s t) ∧
    ∀ (a : Nat), x.restoring = true → x.saved = some a →
      let n := 2 ^ (s.image x.slot).histLog2
      let r := s.readMem (s.areaAddr x.slot a) (n + 4096)
      let c := r.1.drop n
      r.2 = false → bytesAt c 0 4 = 0x58434E44 → bytesAt c 4 2 = 1 → bytesAt c 8 1 % 16 = x.slot → bytesAt c 0xA 2 = x.op →
      crc32c (c.take 0xFC ++ c.drop 0x100) = bytesAt c 0xFC 4 →
      ∃ t, exec (.contextRestore dec) s = .next t ∧
        t.decOf x.slot x.op = some { x with
          restoring := false
          saved := none
          inPos := bytesAt c 0x10 8
          outTotal := bytesAt c 0x18 8
          frameOut := bytesAt c 0x28 8
          rowNext := bytesAt c 0x80 8
          rowsDone := bytesAt c 0x88 8 } ∧
        t.fld (pgDEC dec) Reg.DEC_CTX_RESTORES = (s.fld (pgDEC dec) Reg.DEC_CTX_RESTORES + 1) % 2 ^ 32 ∧
        t = { s with regs := t.regs, decs := t.decs } ∧ RegFrame (fun pg _ _ => pg = pgDEC dec) s t

/-- R136: a compressed block that decodes to the block it came from is written; one that differs is stored in its place,
counted and recorded. `u` is the state with the bytes written through the operator's descriptor. -/
def Obligations.EchoCheck : Prop :=
  ∀ (s : State) (cmp slot : Fin 16) (op : Fin 256) (block packed head : List Byte),
    let img := s.image slot
    let o := img.op op
    let c := img.cfg o
    let tile := (s.slot slot).alloc.tiles.getD (cfgField c (0x12, 0, 8)) 64
    let pg := pgCMP cmp
    let x := s.cmpOf slot op
    s.active slot = true → op.val < img.nOps → o.cls = 2 → (o.code = 0x10 ∨ o.code = 0x11) → tile / 4 = cmp.val →
    x.ended = false → s.fenced pg = false → s.powered pg = true → s.enabled pg = true →
    (∃ r ∈ (s.slot slot).runs, r.stage = o.stage) →
    let count := fun (s : State) (n : Nat) => (s.perf pg 0x100 ((block.length + 63) / 64)).perf pg 0x101 ((n + 63) / 64)
    let d := parseDesc (slice c 0x40 128)
    (∀ u, (count s (head ++ packed).length).cmpWrite tile slot d x.outPos (head ++ packed) = some u →
      ∃ t, exec (.echoCheckDone cmp slot op block packed head [] true) s = .next t ∧
        t.cmpOf slot op = { x with outPos := x.outPos + head.length + packed.length } ∧ t = { u with cmps := t.cmps }) ∧
    (s.quietError pg Src.cmp_ECHO_MISMATCH →
      let stored := storedForm o.code (cfgField c (0, 0, 8)) block packed false
      ∃ v, v.fld pg Reg.CMP_STAT_STORED_BLOCKS = min (s.fld pg Reg.CMP_STAT_STORED_BLOCKS + 1) (2 ^ 32 - 1) ∧
        v.fld pg Reg.CMP_ECHO_OFFSET = (x.outPos + head.length) % 2 ^ 48 ∧ v.fld pg Reg.CMP_ECHO_SLOT = slot.val ∧
        v.fld pg Reg.CMP_ECHO_OP = op.val ∧ Recorded pg Src.cmp_ECHO_MISMATCH v ∧
        v = { s with regs := v.regs, out := v.out, link := { s.link with msixPend := v.link.msixPend } } ∧
        ∀ u, (count v (head ++ stored).length).cmpWrite tile slot d x.outPos (head ++ stored) = some u →
          ∃ t, exec (.echoCheckDone cmp slot op block packed head [] false) s = .next t ∧
            t.cmpOf slot op = { x with outPos := x.outPos + head.length + stored.length } ∧ t = { u with cmps := t.cmps })

/-- R284 to R286: a record of the row's step gives the row its parameters; one of another step makes the row wait; it is
read again 1 µs later; at the end of the wait the record is missing, and the plan fails or the row takes zeros. -/
def Obligations.Augmentation : Prop :=
  ∀ (s : State) (slot : Fin 16) (op : Fin 256) (row : Word) (c : List Byte), s.augment slot op = some c →
    let g := row.toNat
    let n := 16 * cfgField c (1, 0, 5)
    let given := fun (bs : List Byte) (concealed : Bool) (t : State) =>
      (slot.val, op.val, g, bs, concealed) ∈ t.augRows ∧ t.augWait slot op g = none
    (∀ (record : Option (List Byte)) (b : List Byte), s.augWait slot op g = none →
      (∀ a ∈ s.augRows, ¬ (a.1 = slot.val ∧ a.2.1 = op.val ∧ a.2.2.1 = g)) →
      (cfgField c (0, 0, 2) = 0 → s.readMem (bytesAt c 8 8 + g % 2 ^ cfgField c (4, 0, 5) * n) n = (b, false)) →
      (cfgField c (0, 0, 2) ≠ 0 → record = some b ∧ b.length = n) →
      ∃ t, exec (.augRecordRead slot op row record) s = .next t ∧ t = { s with augs := t.augs, augRows := t.augRows } ∧
        (leNat (b.take 8) = g → given (b.drop 8) false t) ∧
        (leNat (b.take 8) ≠ g → t.augRows = s.augRows ∧ t.augWait slot op g =
          some { slot := slot, op := op, step := g, since := s.beat, last := s.beat })) ∧
    ∀ (a : AugWait), s.augWait slot op g = some a → s.beatOn = true →
      (a.again = false →
        ∃ t, exec (.augReread slot op row) s = .next t ∧ t.augWait slot op g = some { a with again := true } ∧
          t.beat = max s.beat (a.last + 700) ∧ t = { s with regs := t.regs, augs := t.augs, beat := t.beat } ∧
          RegFrame (perfBits pgSHUF) s t) ∧
      let end_ := max s.beat (a.since + bytesAt c 0x14 4 * 700000)
      (cfgField c (0, 2, 1) = 0 →
        ∃ t, exec (.augWaitExpire slot op row) s = .next t ∧ t.slotState slot = 7 ∧ t.augWait slot op g = none ∧
          t.fld pgPLAN (Reg.PLAN_P_STAT_REASON slot) = 10 ∧ t.beat = end_ ∧
          RegFrame (((Reg.PLAN_P_STAT_STATE slot).bits pgPLAN).or ((Reg.PLAN_P_STAT_REASON slot).bits pgPLAN)) s t) ∧
      (cfgField c (0, 2, 1) ≠ 0 → s.quietError pgSHUF Src.shuf_AUG_MISSING →
        ∃ t, exec (.augWaitExpire slot op row) s = .next t ∧ given (List.replicate (n - 8) 0) true t ∧ t.beat = end_ ∧
          t.fld pgSHUF Reg.SHUF_CNT_AUG_MISSING = min (s.fld pgSHUF Reg.SHUF_CNT_AUG_MISSING + 1) (2 ^ 32 - 1) ∧
          Recorded pgSHUF Src.shuf_AUG_MISSING t)

/-- R292, R293, R310, R314: a batch opens with the next sequence number while the reorder window has room; else the
window stalls; in a re-run it takes the rows it had, and DIVERGED marks a difference. -/
def Obligations.BatchOpens : Prop :=
  ∀ (s : State) (queue : Fin 64) (env : BatchEnv) (q : Queue), s.queue queue = some q → s.active q.slot = true →
    s.enabled pgBATQ = true → (∃ c ∈ (s.slot q.slot).chunks, c.k = env.chunk) → env.rows ≤ q.samples →
    let oldest := (q.batches.head?.map Batch.seq).getD q.next
    let stall := fun (t : State) (v : Bool) => t.bit pgBATQ (Reg.BATQ_Q_STAT_WINDOW_STALL queue) = v ∧
      RegFrame ((Reg.BATQ_Q_STAT_WINDOW_STALL queue).bits pgBATQ) s t
    ((∀ b ∈ q.batches, b.reopen = false) →
      (q.next < oldest + q.depth →
        ∃ t b, exec (.batchOpen queue env) s = .next t ∧ t.queue queue = some { q with next := q.next + 1, batches := q.batches ++ [b] } ∧
          b = {
            seq := q.next, slot := q.slot, chunk := env.chunk, last := max env.chunk env.last, rows := env.rows
            dropped := env.dropped, lineage := (s.lineage q.slot queue q.next env false).1
            gen := (s.own q.slot).cur.gen, short := env.short } ∧
          stall t false ∧ t = { s with regs := t.regs, queues := t.queues, free := t.free }) ∧
      (oldest + q.depth ≤ q.next →
        ∃ t, exec (.batchOpen queue env) s = .next t ∧ stall t true ∧ t = { s with regs := t.regs })) ∧
    ∀ b, (q.batches.find? fun (b : Batch) => b.reopen) = some b →
      (b.dropped = env.dropped →
        ∃ t, exec (.batchOpen queue env) s = .next t ∧ t = { s with queues := t.queues } ∧
          t.queue queue = some (q.setBatch { b with reopen := false })) ∧
      (b.dropped ≠ env.dropped → s.quietError pgSHUF Src.shuf_LINEAGE_DIVERGED →
        ∃ t, exec (.batchOpen queue env) s = .next t ∧ Recorded pgSHUF Src.shuf_LINEAGE_DIVERGED t ∧
          t.queue queue = some (q.setBatch
            { b with reopen := false, diverged := true, lineage := markDiverged b.lineage }))

/-- R303, R305, R306, R307, R316, R320: OWN_MAP writes the bytes of an open batch where the owner table places them,
and drops those of a batch that is committed or closed; OWN_WRITE stages a new version and stays in progress. -/
def Obligations.OwnerTables : Prop :=
  ∀ (s : State),
    (∀ (slot : Fin 16) (table queue tile : Fin 64) (seq : Word) (off : Nat) (data : List Byte) (q : Queue),
      s.queue queue = some q → q.slot = slot → s.active slot = true →
      (∀ (b : Batch) (v : OwnVer) (ot : OwnTable) (r : OwnRun), (q.batches.find? fun b => b.seq == seq.toNat) = some b →
        b.closed = false → b.seq < s.cons queue + q.slots → v = (s.own slot).ver b.gen →
        (v.tables.find? fun t => t.lt == table.val && t.queue == queue.val) = some ot → data ≠ [] →
        off + data.length ≤ ot.rowBytes * ot.samples → v.runs ot b.seq q.slots off data = ([r], []) → r.win.space = 0 →
        s.placed (s.windowBase slot r.win + r.at_) →
        ∃ t b', exec (.ownMap slot table queue seq off data tile) s = .next t ∧ t.queue queue = some (q.setBatch b') ∧
          b' = { b with writers := b'.writers } ∧
          (∀ k, off / ot.rowBytes ≤ k → k ≤ (off + data.length - 1) / ot.rowBytes → kget (fun _ => 64) b'.writers k = tile) ∧
          t.mem = (s.writeMem pgOWN (s.windowBase slot r.win + r.at_) r.bytes false).mem ∧
          t = { s with regs := t.regs, mem := t.mem, queues := t.queues } ∧ RegFrame (perfBits pgOWN) s t) ∧
      ((∃ b, (q.batches.find? fun b => b.seq == seq.toNat) = some b ∧ b.closed = true) ∨
        ((q.batches.find? fun b => b.seq == seq.toNat) = none ∧ seq.toNat < s.prod queue) →
        s.quietError pgOWN Src.own_LATE_WRITE →
        ∃ t, exec (.ownMap slot table queue seq off data tile) s = .next t ∧ Recorded pgOWN Src.own_LATE_WRITE t ∧
          t.fld pgOWN Reg.OWN_DROPPED_LATE = min (s.fld pgOWN Reg.OWN_DROPPED_LATE + 1) (2 ^ 32 - 1) ∧ t.mem = s.mem ∧
          t.queues = s.queues ∧
          RegFrame ((Reg.OWN_DROPPED_LATE.bits pgOWN).or (errBits pgOWN Src.own_LATE_WRITE)) s t)) ∧
    ∀ (ring : Fin 16) (c : Cmd) (rest : List Cmd) (host : Option (List Byte)) (bs : List Byte) (ver : OwnVer),
      s.nextCmd ring 0x30 c rest →
      let p := opSlot c.op1
      let lt := c.op1.toNat / 2 ^ 32 % 2 ^ 6
      let windows := c.op1.toNat.testBit 38
      let first := c.op2.toNat % 2 ^ 16
      let n := c.op2.toNat / 2 ^ 16 % 2 ^ 16
      let count := if windows then (s.own p).cur.windows.length
        else (((s.own p).cur.tables.find? fun t => t.lt == lt).map fun t => t.entries.length).getD 0
      (s.slotState p = 2 ∨ s.slotState p = 3 ∨ s.slotState p = 4) → c.op2.toNat.testBit 32 = false → 0 < count →
      first + n ≤ count → (s.own p).staged = none → (s.own p).prev = none →
      s.operandBytes (opDev c.op1) c.op0.toNat (n * if windows then 32 else 16) host = some bs →
      s.ownEdit p lt windows first n bs = some ver →
      ∃ t, exec (.ownWrite ring host) s = .next t ∧ RingBusy ring s t ∧ t = { s with rings := t.rings, owns := t.owns } ∧
        t.own p = { s.own p with staged := some ⟨ring, ver, none, (s.image p).ownStage lt windows, ⟨c.op0, c.op1, c.op2⟩⟩ }

/-- R311, R312, R313, R316, R320: the oldest batch writes its flags and slot, then its COMMIT, and PROD moves on; CONS
frees slots within the ready ones; at its deadline a batch closes with its late rows. Said of windows in device memory,
without a chime. -/
def Obligations.BatchCommits : Prop :=
  ∀ (s : State) (queue : Fin 64) (q : Queue), s.queue queue = some q →
    (∀ (b : Batch) (rest : List Batch) (w : OwnWindow), q.batches = b :: rest → s.ringWindow q b = some w → w.space = 0 →
      s.commits q = true → b.unacked = 0 →
      let base := s.windowBase q.slot w
      let i := b.seq % q.slots
      (∀ concealed : List Nat, b.phase = 0 → b.reopen = false → (b.last < s.stageDoneOf q.slot q.stage ∨ b.closed = true) →
        q.commitOut = none → b.seq < s.cons queue + q.slots → (s.image q.slot).realtime = false → b.zeroDue = false →
        s.placed (base + (q.flagOff + i * q.flagBytes)) → s.placed (base + (q.ringOff + 256 * i + 8)) →
        let b' := { b with concealed := (concealed.filter (· < b.rows)).eraseDups, phase := 1 }
        ∃ t, exec (.batchComplete queue concealed) s = .next t ∧ t.queue queue = some (q.setBatch { b' with phase := 2 }) ∧
          t.mem = ((s.writeMem pgBATQ (base + (q.flagOff + i * q.flagBytes)) (b'.flags q.flagBytes) false).writeMem pgBATQ
            (base + (q.ringOff + 256 * i + 8)) (b'.slotBytes s.beat) false).mem ∧
          t = { s with regs := t.regs, mem := t.mem, queues := t.queues } ∧
          RegFrame ((Reg.BATQ_Q_STAT_RING_STALL queue).bits pgBATQ) s t) ∧
      (b.phase = 2 → s.link.gateClosed = false → s.placed (base + (q.ringOff + 256 * i)) → s.noWaits →
        s.fld pgBATQ (Reg.BATQ_Q_CFG_CHIME_LOW queue) = 0 →
        ∃ t, exec (.batchCommit queue) s = .next t ∧ t.prod queue = (b.seq + 1) % 2 ^ 64 ∧
          t.queue queue = some { q with batches := rest, commitOut := none } ∧
          t.mem = (s.writeMem pgBATQ (base + (q.ringOff + 256 * i)) (leBytes 8 (b.seq + 1)) false).mem)) ∧
    (∀ (door : Option (Fin 4096)) (v : Word), (door = none ∨ door = some 0) →
      s.fld pgBATQ (Reg.BATQ_Q_CFG_CHIME_LOW queue) = 0 →
      (s.cons queue ≤ v.toNat → v.toNat ≤ s.prod queue →
        ∃ t, exec (.batqCons queue door 8 v) s = .next t ∧ t.cons queue = v.toNat ∧
          OnlyBits ((Reg.BATQ_Q_CONS_SEQ queue).bits pgBATQ) { s with doorbells := t.doorbells } t) ∧
      (v.toNat < s.cons queue ∨ s.prod queue < v.toNat → s.quietError pgBATQ Src.batq_CONS_RANGE →
        ∃ t, exec (.batqCons queue door 8 v) s = .next t ∧ t.cons queue = s.cons queue ∧
          Recorded pgBATQ Src.batq_CONS_RANGE t ∧ RegFrame (errBits pgBATQ Src.batq_CONS_RANGE) s t)) ∧
    ∀ (seq : Word) (b : Batch) (d : Nat), (q.batches.find? fun (b : Batch) => b.seq == seq.toNat) = some b →
      s.deadline q.slot b = some d → b.closed = false → b.phase = 0 → (s.image q.slot).realtime = true →
      s.slotState q.slot ≠ 7 → s.beatOn = true → q.latePolicy ≠ 0 → s.quietError pgBATQ Src.batq_LATE_COMMIT →
      let late := s.lateRows q b
      ∃ t, exec (.batchDeadline queue seq) s = .next t ∧ t.beat = max s.beat d ∧ t.mem = s.mem ∧
        t.queue queue = some (q.setBatch { b with
          closed := true, late := late, reopen := false, zeroDue := false
          lateBeat := !late.isEmpty || decide (s.cons queue + q.slots ≤ b.seq) }) ∧
        (late ≠ [] → Recorded pgBATQ Src.batq_LATE_COMMIT t) ∧
        RegFrame ((perfBits pgBATQ).or (errBits pgBATQ Src.batq_LATE_COMMIT)) s t
/-- R99, R359, R361, R368, R387: a device access to HBM or store memory that needs no answer of the host first moves its
bytes between the storage that its address maps to and its requester, takes its tokens, and leaves the poison that the
rules state. Said of accesses whose class has a token, without errors of the code, while the write gate is open. -/
def Obligations.DeviceAccesses : Prop :=
  ∀ (s : State) (i : Instr) (r : MemReq) (env : MemEnv) (k : Nat),
    (i = .hbmAccess r env ∧ reqOk r 0 hbmTop = true ∧ s.enabled (pgHMC (keyChannel k / 32)) = true ∨
      i = .storeAccess r env ∧ reqOk r storeBase storeTop = true) →
    s.locate r.addr = some k → s.hasToken k r.cls = true → env.corrected = [] → env.uncorr = [] →
    s.link.gateClosed = false → (biasRegion r.addr ∈ s.mem.deviceBias ∨ s.hdmAddr r.addr = none) →
    let tokens := fun (t : State) => t.buckets = (s.charge k r.cls env.cost).buckets
    (r.write = false →
      ∃ t bs bad, exec i s = .next t ∧ bs.length = r.len ∧ (∀ j, j < r.len → bs[j]? = some (cell s.mem.dev (k + j))) ∧
        (bad = true ↔ ∃ j, j < r.len ∧ s.mem.poisonedKey (k + j) = true) ∧ tokens t ∧
        t = { s with buckets := t.buckets, out := .unitData r.page r.addr bs bad :: s.out }) ∧
    (r.write = true →
      ∃ t, exec i s = .next t ∧ BytesAt k r.data s t ∧ PoisonAt k r.data.length r.poison s t ∧ tokens t ∧
        t = { s with
          buckets := t.buckets
          mem := { s.mem with dev := t.mem.dev, hbmPoison := t.mem.hbmPoison, storePoison := t.mem.storePoison } })

/-- R353, R356, R360, R361, R362, R364, R368, R371, R372: the scrub reads of HBM and of a bank; a temperature reading; refresh;
a training step; the zones. -/
def Obligations.MemoryUpkeep : Prop :=
  ∀ (s : State),
    (∀ (stack : Fin 4) (addr : Nat) (env : MemEnv) (passDone : Bool),
      let pg := pgHMC stack
      let k := stack.val * 2 ^ 36 + addr % 2 ^ 36
      s.bit pg Reg.HMC_CFG_SCRUB_EN = true → s.enabled pg = true → s.chanUp (keyChannel k) = true →
      s.hasToken k .read = true → k / 64 ∉ s.mem.hbmPoison →
      let passes := fun (t : State) => t.fld pg Reg.HMC_SCRUB_PASSES =
        (s.fld pg Reg.HMC_SCRUB_PASSES + if passDone then 1 else 0) % 2 ^ 32
      (env.corrected = [] → env.uncorr = [] →
        ∃ t, exec (.hbmScrubRead stack addr env passDone) s = .next t ∧ passes t ∧
          t = { s with regs := t.regs, buckets := (s.charge k .read env.cost).buckets } ∧
          RegFrame (Reg.HMC_SCRUB_PASSES.bits pg) s t) ∧
      (env.uncorr = [] → env.corrected ≠ [] → s.quietError pg Src.hmc_ECC_CORR → s.fld pg Reg.HMC_ECC_CFG_CE_LIMIT = 0 →
        ∃ t, exec (.hbmScrubRead stack addr env passDone) s = .next t ∧ passes t ∧ Recorded pg Src.hmc_ECC_CORR t ∧
          t.fld pg Reg.HMC_ECC_CORRECTED = min (s.fld pg Reg.HMC_ECC_CORRECTED + 1) (2 ^ 32 - 1) ∧
          t.mem = { s.mem with chErrs := t.mem.chErrs }) ∧
      (env.uncorr ≠ [] → s.quietError pg Src.hmc_ECC_UNCORR → s.fld pg Reg.HMC_ECC_CFG_UE_LIMIT = 0 →
        ∃ t, exec (.hbmScrubRead stack addr env passDone) s = .next t ∧ passes t ∧ Recorded pg Src.hmc_ECC_UNCORR t ∧
          t.fld pg Reg.HMC_ECC_UNCORR = min (s.fld pg Reg.HMC_ECC_UNCORR + 1) (2 ^ 16 - 1) ∧
          t.fld pg Reg.HMC_ECC_LAST_CH = keyChannel k % 32 ∧
          t.mem = { s.mem with chErrs := t.mem.chErrs, hbmPoison := k / 64 :: s.mem.hbmPoison })) ∧
    (∀ (bank : Fin 256) (addr : Nat) (env : MemEnv) (passDone : Bool) (o : Nat), s.bit pgSTOR Reg.STOR_SCRUB_EN = true →
      s.halfUp (bank / 128) = true →
      let w := (2 ^ 40 + bank.val * 2 ^ 24 + addr % (10 * 2 ^ 20)) / 64 * 8 + o / 8
      let passes := fun (t : State) => t.fld pgSTOR Reg.STOR_SCRUB_PASSES =
        (s.fld pgSTOR Reg.STOR_SCRUB_PASSES + if passDone then 1 else 0) % 2 ^ 32
      (env.corrected = [] → env.uncorr = [] →
        ∃ t, exec (.storScrubRead bank addr env passDone) s = .next t ∧ passes t ∧
          OnlyBits (Reg.STOR_SCRUB_PASSES.bits pgSTOR) s t) ∧
      (o < 64 → env.corrected = [] → env.uncorr = [o] → w ∉ s.mem.storePoison → s.quietError pgSTOR Src.stor_UNCORR →
        ∃ t, exec (.storScrubRead bank addr env passDone) s = .next t ∧ passes t ∧ Recorded pgSTOR Src.stor_UNCORR t ∧
          t.fld pgSTOR Reg.STOR_ECC_UNCORR = min (s.fld pgSTOR Reg.STOR_ECC_UNCORR + 1) (2 ^ 16 - 1) ∧
          t.fld pgSTOR Reg.STOR_ECC_LAST_BANK = bank.val ∧ t.mem = { s.mem with storePoison := w :: s.mem.storePoison })) ∧
    (∀ (stack : Fin 4) (temp : Byte),
      let pg := pgHMC stack
      let c := temp.toNat
      let hot := s.fld pg Reg.HMC_CFG_HOT_C
      let crit := s.fld pg Reg.HMC_CFG_CRIT_C
      let kept := (Reg.HMC_STAT_TEMP.bits pg).or ((Reg.HMC_STAT_REF_RATE.bits pg).or (Reg.HMC_STAT_THROTTLED.bits pg))
      let read := fun (t : State) (rate : Nat) (hotNow : Bool) => exec (.hbmTempRead stack temp) s = .next t ∧
        t.fld pg Reg.HMC_STAT_TEMP = c ∧ t.fld pg Reg.HMC_STAT_REF_RATE = rate ∧ t.bit pg Reg.HMC_STAT_THROTTLED = hotNow
      (c < hot → c < crit → ∃ t, read t (if 85 ≤ c then 1 else 0)
        (if c + 3 ≤ hot then false else s.bit pg Reg.HMC_STAT_THROTTLED) ∧ OnlyBits kept s t) ∧
      (hot ≤ c → c < crit → s.quietError pg Src.hmc_HBM_HOT → ∃ t, read t 2 true ∧ Recorded pg Src.hmc_HBM_HOT t ∧
        RegFrame (kept.or (errBits pg Src.hmc_HBM_HOT)) s t) ∧
      (crit ≤ c → hot ≤ c → s.quietError pg Src.hmc_HBM_CRIT → ∃ t, read t 2 true ∧ Recorded pg Src.hmc_HBM_CRIT t)) ∧
    (∀ stack pc bank rfm, exec (.hbmRefresh stack pc bank rfm) s = .next s) ∧
    (∀ (phy : Fin 4) (stepNo : BitVec 4) (result : Fin 4) (chFail : BitVec 32),
      let pg := pgHPHY phy
      (s.assist pg = true →
        ∃ t, exec (.hphyStep phy stepNo result chFail) s = .next t ∧ t.fld pg Reg.HPHY_TRAIN_STEP = stepNo.toNat ∧
          t.fld pg Reg.HPHY_TRAIN_RESULT = result.val ∧ t.fld pg Reg.HPHY_TRAIN_CH_FAIL = chFail.toNat ∧
          OnlyBits ((Reg.HPHY_TRAIN_STEP.bits pg).or
            ((Reg.HPHY_TRAIN_RESULT.bits pg).or (Reg.HPHY_TRAIN_CH_FAIL.bits pg))) s t) ∧
      (s.assist pg = false → exec (.hphyStep phy stepNo result chFail) s = .next s)) ∧
    ∀ (fine : Byte) (cl : BitVec 6),
      let zone := (Reg.HMC0_ZONE_FINE_GIB.bits (pgHMC 0)).or (Reg.HMC0_ZONE_CL_UNITS.bits (pgHMC 0))
      ((∀ n, n < 4 → s.enabled (pgHMC n) = false) → s.bit pgGLB Reg.GLB_STAT_READY = true → cl.toNat ≤ 32 →
        (fine.toNat ≤ 64 ∧ fine.toNat + 2 * cl.toNat ≤ s.fld pgGLB Reg.GLB_HBM_STACK_GIB ∨
          fine.toNat = 255 ∧ 2 * cl.toNat ≤ s.fld pgGLB Reg.GLB_HBM_STACK_GIB) →
        ∃ t, exec (.hmc0ZoneWrite fine cl) s = .next t ∧ t.fld (pgHMC 0) Reg.HMC0_ZONE_FINE_GIB = fine.toNat ∧
          t.fld (pgHMC 0) Reg.HMC0_ZONE_CL_UNITS = cl.toNat ∧ t.mem = s.mem ∧ OnlyBits zone s t) ∧
      ∀ n, n < 4 → s.enabled (pgHMC n) = true → s.bit (pgHMC 0) Reg.BLK_STAT_CFG_REJECT = false →
        ∃ t, exec (.hmc0ZoneWrite fine cl) s = .next t ∧ t.bit (pgHMC 0) Reg.BLK_STAT_CFG_REJECT = true ∧
          t.fld (pgHMC 0) Reg.BLK_STAT_REJ_CAUSE = 1 ∧ t.fld (pgHMC 0) Reg.BLK_STAT_REJ_OFFSET = 0x408 ∧
          t.rd (pgHMC 0) 0x408 = s.rd (pgHMC 0) 0x408

/-- R381, R382, R385, R387, R411: the host reads and writes a line that a committed decoder of the port places, with
poison where the line holds it and in the safe state; an invalidation is answered; a speculative read is no request; and
an access to a region in host bias takes place once the host has resolved its caches. Said of lines without errors of
the code, with tokens, while the write gate is open. -/
def Obligations.HostMemory : Prop :=
  ∀ (s : State) (port : Fin 3) (addr : Word),
    let pg := pgULNK port
    let line := addr.toNat / 64 * 64
    exec (.memSpecRd port addr) s = .next s ∧
    (s.servesMem port = true →
      (∃ t, exec (.memInv port addr) s = .next t ∧ t = { s with regs := t.regs, out := .memCmp port line :: s.out } ∧
        RegFrame (perfBits pg) s t) ∧
      (∀ env, s.bit pgGLB Reg.GLB_STAT_SAFE = true →
        ∃ t, exec (.cxlMemRead port addr env) s = .next t ∧
          t = { s with regs := t.regs, out := .memData port line (List.replicate 64 0) true :: s.out } ∧
          t.fld pg Reg.ULNK_CNT_MEM_POISON = min (s.fld pg Reg.ULNK_CNT_MEM_POISON + 1) (2 ^ 32 - 1) ∧
          RegFrame ((perfBits pg).or (Reg.ULNK_CNT_MEM_POISON.bits pg)) s t) ∧
      ∀ (a k : Nat) (env : MemEnv), s.hdmDecode port line = some a → s.locate a = some k →
        (k < 2 ^ 40 → s.enabled (pgHMC (keyChannel k / 32)) = true) → s.hasToken k .remote = true →
        env.corrected = [] → env.uncorr = [] → s.link.gateClosed = false →
        (s.bit pgGLB Reg.GLB_STAT_SAFE = false → (∀ j, j < 64 → s.mem.poisonedKey (k + j) = false) →
          ∃ t, exec (.cxlMemRead port addr env) s = .next t ∧ RegFrame (perfBits pg) s t ∧
            t = { s with
              regs := t.regs
              buckets := (s.charge k .remote env.cost).buckets
              out := .memData port line ((List.range 64).map fun j => cell s.mem.dev (k + j)) false :: s.out }) ∧
        (∀ j, s.bit pgGLB Reg.GLB_STAT_SAFE = false → j < 64 → s.mem.poisonedKey (k + j) = true →
          ∃ t, exec (.cxlMemRead port addr env) s = .next t ∧
            t.out = .memData port line (List.replicate 64 0) true :: s.out ∧ t.mem = s.mem ∧
            t.fld pg Reg.ULNK_CNT_MEM_POISON = min (s.fld pg Reg.ULNK_CNT_MEM_POISON + 1) (2 ^ 32 - 1)) ∧
        ∀ (data : List Byte) (mask : BitVec 64) (poison : Bool), data.length = 64 →
          ∃ t, exec (.cxlMemWrite port addr data mask poison env) s = .next t ∧
            (∀ j b, data[j]? = some b → cell t.mem.dev (k + j) = if mask.getLsbD j then b else cell s.mem.dev (k + j)) ∧
            (∀ j, j < k ∨ k + 64 ≤ j → cell t.mem.dev j = cell s.mem.dev j) ∧
            (mask = BitVec.allOnes 64 → PoisonAt k 64 poison s t) ∧ RegFrame (perfBits pg) s t ∧
            t = { s with
              regs := t.regs
              buckets := (s.charge k .remote env.cost).buckets
              mem := { s.mem with dev := t.mem.dev, hbmPoison := t.mem.hbmPoison, storePoison := t.mem.storePoison }
              out := .memCmp port line :: s.out }) ∧
    ∀ (id k : Nat) (env : MemEnv) (r : HostReq) (b : BiasAcc),
      (s.link.reqs.find? fun (r : HostReq) => r.id == id) = some r →
      (s.link.biasAccs.find? fun (b : BiasAcc) => b.id == id) = some b → b.resolved = false → s.link.biasJobs = [] →
      reqOk b.req 0 storeTop = true → s.locate b.req.addr = some k → s.hasToken k b.req.cls = true → env.corrected = [] →
      env.uncorr = [] → s.link.gateClosed = false →
      let link := { s.link with
        reqs := s.link.reqs.filter fun r => r.id != id, biasAccs := s.link.biasAccs.filter fun q => q.id != id }
      (b.req.write = false →
        ∃ t bs bad, exec (.memRdFwd port id env) s = .next t ∧ RegFrame (perfBits pg) s t ∧ bs.length = b.req.len ∧
          (∀ j, j < b.req.len → bs[j]? = some (cell s.mem.dev (k + j))) ∧
          (bad = true ↔ ∃ j, j < b.req.len ∧ s.mem.poisonedKey (k + j) = true) ∧
          t = { s with
            regs := t.regs
            buckets := t.buckets
            link := link
            out := .unitData b.req.page b.req.addr bs bad :: s.out }) ∧
      (b.req.write = true →
        ∃ t, exec (.memWrFwd port id env) s = .next t ∧ BytesAt k b.req.data s t ∧
          PoisonAt k b.req.data.length b.req.poison s t ∧ RegFrame (perfBits pg) s t ∧
          t = { s with
            regs := t.regs
            buckets := t.buckets
            link := link
            mem := { s.mem with dev := t.mem.dev, hbmPoison := t.mem.hbmPoison, storePoison := t.mem.storePoison } })

/-- R81, R384, R387, R396: a snoop is answered from the coherent cache, SnpData and SnpInv give the line back; an answer
of the host ends the request it answers, an RdOwn line enters the cache, and a refused response write of the fast path is
recorded; an invalidation empties the address translation cache. -/
def Obligations.HostAnswers : Prop :=
  ∀ (s : State),
    (∀ (port : Fin 3) (addr : Word), port.val ∈ s.boundLinks →
      let l := addr.toNat / 64
      (s.cacheLine l = none →
        let t := { s with out := .snpResp port (64 * l) [] false :: s.out }
        exec (.snpData port addr) s = .next t ∧ exec (.snpInv port addr) s = .next t ∧ exec (.snpCur port addr) s = .next t) ∧
      ∀ bs, s.cacheLine l = some bs →
        let t := { s with out := .snpResp port (64 * l) bs true :: s.out }
        exec (.snpCur port addr) s = .next t ∧
        ∃ u, exec (.snpData port addr) s = .next u ∧ exec (.snpInv port addr) s = .next u ∧ u.cacheLine l = none ∧
          (∀ n, n ≠ l → u.cacheLine n = s.cacheLine n) ∧ u = { t with link := { s.link with cache := u.link.cache } }) ∧
    (∀ (id : Nat) (resp : HostResp) (r : HostReq), (s.link.reqs.find? fun (r : HostReq) => r.id == id) = some r →
      let gone := { s with link := { s.link with reqs := s.link.reqs.filter fun q => q.id != id } }
      (resp ≠ .refused → (∃ n, r.src = .fastResp n ∨ r.src = .headWb n) → exec (.cxlCacheResponse id resp) s = .next gone) ∧
      (∀ n, resp = .refused → r.src = .fastResp n → s.quietError pgFAST Src.fast_RESP_WRITE_ERR →
        ∃ t, exec (.cxlCacheResponse id resp) s = .next t ∧ Recorded pgFAST Src.fast_RESP_WRITE_ERR t ∧
          t.link.reqs = gone.link.reqs ∧ RegFrame (errBits pgFAST Src.fast_RESP_WRITE_ERR) s t) ∧
      ∀ l tile slot bs, r.src = .combine l tile slot → resp = .data bs false → bs.length = 64 → s.link.cache.length < 4096 →
        ∃ t, exec (.cxlCacheResponse id resp) s = .next t ∧ t.cacheLine l = some bs ∧
          (∀ n, n ≠ l → t.cacheLine n = s.cacheLine n) ∧ t = { gone with link := { gone.link with cache := t.link.cache } }) ∧
    ∀ (port : Fin 3) (l : Nat), s.linkUp port = true → s.primary = some l →
      let pg := pgULNK l
      ∃ t, exec (.atsInvalidate port) s = .next t ∧ t.fld pg Reg.ULNK_ATS_ENTRIES = 0 ∧
        t.fld pg Reg.ULNK_ATS_INVALIDATIONS = (s.fld pg Reg.ULNK_ATS_INVALIDATIONS + 1) % 2 ^ 32 ∧
        RegFrame ((Reg.ULNK_ATS_ENTRIES.bits pg).or (Reg.ULNK_ATS_INVALIDATIONS.bits pg)) s t ∧
        t = { s with regs := t.regs, link := { s.link with atc := [] }, out := .atsDone port :: s.out }

/-- R50, R376, R377, R382, R383: training brings a link up at the lower of the two limits, or one rate lower where a
module fails and FALLBACK is 0; a bound link joins the group; a retry counts; the group's WAYS, ranks, PRIMARY and
LGRP_OK follow. -/
def Obligations.LinkGroup : Prop :=
  ∀ (s : State) (link : Fin 3),
    let pg := pgULNK link
    let group := fun (t : State) => t.fld pgGLB Reg.GLB_LGRP_WAYS = t.boundLinks.length ∧
      (∀ (n : Nat), n < 3 → t.bit (pgULNK n) Reg.ULNK_STAT_PRIMARY = decide (t.primary = some n) ∧
        t.fld (pgULNK n) Reg.ULNK_STAT_RANK = if n ∈ t.boundLinks then t.boundLinks.idxOf n else 0) ∧
      (t.bit pgGLB Reg.GLB_STAT_LGRP_OK = true ↔ t.fld pgGLB Reg.GLB_LGRP_PRESENT ≠ 0 ∧
        ∀ n, (t.fld pgGLB Reg.GLB_LGRP_PRESENT).testBit n = true → (t.fld pgGLB Reg.GLB_LGRP_BOUND).testBit n = true)
    (s.bit pg Reg.ULNK_STAT_TRAINED = false → s.bit pg Reg.ULNK_STAT_FENCED = false →
      7 ≤ s.fld pgGLB Reg.GLB_STAT_BOOT_STEP → s.fencedModules link = 0 →
      let top := min (s.fld pg Reg.ULNK_CFG_MAX_RATE) (s.fld pg Reg.ULNK_STAT_FUSE_MAX)
      let up := fun (rate : Nat) (t : State) => t.linkUp link = true ∧ t.ready pg = true ∧ t.fld pg Reg.ULNK_STAT_RATE = rate ∧
        t.fld pg Reg.ULNK_STAT_MODULES_UP = 15 ∧ t.fld pgGLB (Reg.GLB_PORT_RATE link) = rate ∧
        t.fld pgGLB (Reg.GLB_PORT_MODULES_UP link) = 15 ∧ t.bit pgGLB (Reg.GLB_PORT_TRAINED link) = true ∧
        t.fld pgGLB Reg.GLB_LGRP_PRESENT = s.fld pgGLB Reg.GLB_LGRP_PRESENT ||| 2 ^ link.val ∧
        t.fld pgCLK Reg.CLK_STAT_UCIE_LOCK = s.fld pgCLK Reg.CLK_STAT_UCIE_LOCK ||| 2 ^ link.val ∧ group t
      (∃ t, exec (.linkTrained link []) s = .next t ∧ up top t ∧ RegsOnly s t ∧
        RegFrame (fun p off _ => off = 0x108 ∧ (∃ n, n < 3 ∧ p = pgULNK n) ∨ p = pg ∧ off = 0x10 ∨ p = pgCLK ∧ off = 0x100 ∨
          p = pgGLB ∧ (off = Reg.GLB_STAT_LGRP_OK.off ∨ off = 0x120 ∨ off = 0x128 + 8 * link.val)) s t) ∧
      (∀ f : BitVec 4, f ≠ 0 → 0 < top → s.bit pg Reg.ULNK_CFG_FALLBACK = false → s.quietError pg Src.ulnk_RATE_FALLBACK →
        ∃ t, exec (.linkTrained link [f]) s = .next t ∧ up (top - 1) t ∧ Recorded pg Src.ulnk_RATE_FALLBACK t)) ∧
    ((s.fld pgGLB Reg.GLB_LGRP_PRESENT).testBit link = true → s.bit pg Reg.ULNK_STAT_CACHE_EN = true →
      s.bit pg Reg.ULNK_STAT_MEM_EN = true → s.link.held = [] →
      ∃ t, exec (.glbLgrpBind link) s = .next t ∧ t.bit pg Reg.ULNK_STAT_BOUND = true ∧
        t.fld pgGLB Reg.GLB_LGRP_BOUND = s.fld pgGLB Reg.GLB_LGRP_BOUND ||| 2 ^ link.val ∧ group t ∧ RegsOnly s t ∧
        RegFrame (fun p off _ => off = 0x108 ∧ (∃ n, n < 3 ∧ p = pgULNK n) ∨
          p = pgGLB ∧ (off = Reg.GLB_STAT_LGRP_OK.off ∨ off = 0x120)) s t) ∧
    ∀ (mod : Fin 4), s.linkUp link = true → (s.fld pg Reg.ULNK_STAT_MODULES_UP).testBit mod = true →
      let m := 4 * link.val + mod.val
      let f : Fld := ⟨0x110, 16 * mod.val + 15, 16 * mod.val⟩
      let recent := (kget (fun _ => []) s.link.retries m).filter fun b => s.beat < b + 700000000
      let lim := s.fld pg Reg.ULNK_CFG_RETRY_LIMIT
      let counted := fun (t : State) => exec (.flitRetry link mod) s = .next t ∧
        t.fld pg f = min (s.fld pg f + 1) (2 ^ 16 - 1) ∧ kget (fun _ => []) t.link.retries m = s.beat :: recent ∧
        ∀ n, n ≠ m → kget (fun _ => []) t.link.retries n = kget (fun _ => []) s.link.retries n
      (lim = 0 ∨ recent.length < lim → ∃ t, counted t ∧ RegFrame ((perfBits pg).or (f.bits pg)) s t ∧
        t = { s with regs := t.regs, link := { s.link with retries := t.link.retries } }) ∧
      (lim ≠ 0 → lim ≤ recent.length → s.quietError pg Src.ulnk_RETRY_LIMIT →
        ∃ t, counted t ∧ Recorded pg Src.ulnk_RETRY_LIMIT t)

/-- R379, R381, R382, R385, R395, R398: what the host configures: captured identity, enables, a decoder committed, taken
down or refused, an MSI-X vector unmasked; and the mailbox of the sideband. -/
def Obligations.HostConfiguration : Prop :=
  ∀ (s : State) (port : Fin 3),
    let pg := pgULNK port
    (s.linkUp port = true →
      (∀ bus dev, ∃ t, exec (.configRequest port (.identity bus dev)) s = .next t ∧
        t.fld pgGLB (Reg.GLB_PORT_BUS port) = bus.toNat ∧ t.fld pgGLB (Reg.GLB_PORT_DEVICE port) = dev.toNat ∧
        OnlyBits (((Reg.GLB_PORT_BUS port).bits pgGLB).or ((Reg.GLB_PORT_DEVICE port).bits pgGLB)) s t) ∧
      (∀ on, s.link.held = [] → ∃ t, exec (.configRequest port (.cacheEn on)) s = .next t ∧
        t.bit pg Reg.ULNK_STAT_CACHE_EN = on ∧ OnlyBits (Reg.ULNK_STAT_CACHE_EN.bits pg) s t) ∧
      (∀ on, ∃ t, exec (.configRequest port (.memEn on)) s = .next t ∧
        t.bit pg Reg.ULNK_STAT_MEM_EN = on ∧ OnlyBits (Reg.ULNK_STAT_MEM_EN.bits pg) s t) ∧
      (∀ on, ∃ t, exec (.configRequest port (.ats on)) s = .next t ∧
        (∀ n, n ∈ t.link.atsEn ↔ if n = port.val then on = true else n ∈ s.link.atsEn) ∧
        t = { s with link := { s.link with atsEn := t.link.atsEn } }) ∧
      (∀ on, ∃ t, exec (.configRequest port (.pasid on)) s = .next t ∧
        (∀ n, n ∈ t.link.pasidEn ↔ if n = port.val then on = true else n ∈ s.link.pasidEn) ∧
        t = { s with link := { s.link with pasidEn := t.link.pasidEn } }) ∧
      exec (.configRequest port (.read .serial)) s =
        .next { s with out := .configResp port (word (s.fld pgGLB Reg.GLB_SERIAL_SERIAL)) :: s.out } ∧
      ∀ (dec : Fin 2) (req : DecReq),
        let base := 0x118 + 0x10 * dec.val
        (req.commit = true → s.badCommit port dec req = false →
          ∃ t, exec (.decoderCommit port dec req) s = .next t ∧ t.fld pg (Reg.ULNK_HDM_BASE_ADDR dec) = req.base.toNat ∧
            t.fld pg (Reg.ULNK_HDM_SIZE_BYTES dec) = req.size.toNat ∧ t.fld pg (Reg.ULNK_HDM_SIZE_IW dec) = req.ways.toNat ∧
            t.bit pg (Reg.ULNK_HDM_SIZE_COMMITTED dec) = true ∧
            OnlyBits (fun p off _ => p = pg ∧ (off = base ∨ off = base + 8)) s t) ∧
        (req.commit = true → s.badCommit port dec req = true → s.quietError pg Src.ulnk_DECODER_COMMIT →
          ∃ t, exec (.decoderCommit port dec req) s = .next t ∧ Recorded pg Src.ulnk_DECODER_COMMIT t ∧
            RegFrame (errBits pg Src.ulnk_DECODER_COMMIT) s t) ∧
        (req.commit = false →
          ∃ t, exec (.decoderCommit port dec req) s = .next t ∧ t.rd pg base = 0 ∧ t.rd pg (base + 8) = 0 ∧
            OnlyBits (fun p off _ => p = pg ∧ (off = base ∨ off = base + 8)) s t)) ∧
    (∀ (vec : Fin 2048), (∀ v ∈ s.link.msixPend, v ∉ s.link.unmasked) → s.link.msixPend.Nodup →
      ∃ t, exec (.msixUnmask vec) s = .next t ∧ (∀ v, v ∈ t.link.unmasked ↔ v = vec.val ∨ v ∈ s.link.unmasked) ∧
        (s.link.fnMask = false → vec.val ∈ s.link.msixPend →
          t = { s with
            out := .msix vec :: s.out
            link := { s.link with unmasked := t.link.unmasked, msixPend := s.link.msixPend.filter (· != vec.val) } }) ∧
        (s.link.fnMask = true ∨ vec.val ∉ s.link.msixPend →
          t = { s with link := { s.link with unmasked := t.link.unmasked } })) ∧
    ((s.fld pgSBND Reg.SBND_STAT_UP).testBit (4 * port) = true →
      let box := fun (u : State) (n : Nat) => kget (fun _ => 0) u.link.mailbox n
      (∀ (off : Fin 4096) (data : List Byte), off.val + data.length ≤ 4096 →
        ∃ t, exec (.sidebandAccess port (.mboxWrite off data)) s = .next t ∧
          (∀ n b, data[n]? = some b → box t (off.val + n) = b) ∧
          (∀ n, n < off.val ∨ off.val + data.length ≤ n → box t n = box s n) ∧
          t = { s with link := { s.link with mailbox := t.link.mailbox } }) ∧
      (∀ (off : Fin 4096), off.val + 8 ≤ 4096 → exec (.sidebandAccess port (.mboxRead off)) s =
        .next { s with out := .sideband port ((List.range 8).map fun n => box s (off.val + n)) :: s.out }) ∧
      ∀ (st : Byte), ∃ t, exec (.sidebandAccess port (.mboxStatus st)) s = .next t ∧
        t.fld pgSBND ⟨Reg.SBND_MBX_WORD.off, 15, 8⟩ = st.toNat ∧
        OnlyBits (fun p off n => p = pgSBND ∧ off = Reg.SBND_MBX_WORD.off ∧ 8 ≤ n ∧ n ≤ 15) s t)

/-- R388, R399, R400, R404, R405: BIAS_SET sets the bias of its regions and completes at once when no access under the
old bias is under way; a fast-path lookup is answered with one response line; LAT.CLEAR. -/
def Obligations.BiasAndLookups : Prop :=
  ∀ (s : State),
    (∀ (ring : Fin 16) (c : Cmd) (rest : List Cmd), s.nextCmd ring 0x40 c rest →
      let first := c.op0.toNat / 2 ^ 21
      let n := c.op2.toNat % 2 ^ 18
      s.biasRange first n = true →
      let biased := fun (t : State) => t.mem = { s.mem with deviceBias := t.mem.deviceBias } ∧
        ∀ r, r ∈ t.mem.deviceBias ↔ if first ≤ r ∧ r < first + n then c.op2.toNat.testBit 20 = true else r ∈ s.mem.deviceBias
      ((∀ b ∈ s.link.biasAccs, ¬ (first ≤ biasRegion b.req.addr ∧ biasRegion b.req.addr < first + n)) →
        ∃ t, exec (.biasSet ring) s = .next t ∧ RingCompleted ring c rest 0 0 n 0 t ∧ biased t ∧
          CplFrame s { t with mem := s.mem }) ∧
      ∀ b ∈ s.link.biasAccs, first ≤ biasRegion b.req.addr → biasRegion b.req.addr < first + n →
        ∃ t j, exec (.biasSet ring) s = .next t ∧ RingBusy ring s t ∧ biased t ∧ b.id ∈ j.ids ∧ j.ring = ring.val ∧
          j.count = n ∧ t = { s with
            rings := t.rings
            mem := t.mem
            link := { s.link with biasJobs := s.link.biasJobs ++ [j] } }) ∧
    (∀ (k : Fin 64) (data : List Byte) (fcycles : Nat), data.length = 64 → s.enabled pgFAST = true →
      s.bit pgGLB Reg.GLB_STAT_SAFE = false →
      ((s.link.reqs ++ s.link.held).filter fun r => r.src == .fastResp k).length < 4 →
      let tid := bytesAt data 0x20 1 % 32
      let result := s.fastResult tid
      let answered := fun (t : State) (r : HostReq) => (r ∈ t.link.reqs ∨ r ∈ t.link.held) ∧ r.src = .fastResp k ∧
        r.kind = .itoMWr ∧ r.addr = s.fld pgFAST Reg.FAST_RESP_ADDR * 4096 + 64 * k.val ∧ r.data.length = 64 ∧
        bytesAt r.data 0x10 4 = bytesAt data 0x28 4 ∧ bytesAt r.data 0x14 4 = result ∧
        bytesAt r.data 0x18 8 = (kget (fun _ => 0) s.link.fastSeq k + 1) % 2 ^ 64 ∧
        kget (fun _ => 0) t.link.fastSeq k = kget (fun _ => 0) s.link.fastSeq k + 1 ∧
        t.fld pgFAST Reg.FAST_STAT_LOOKUPS = (s.fld pgFAST Reg.FAST_STAT_LOOKUPS + 1) % 2 ^ 32 ∧
        t.fld pgFAST Reg.FAST_LAT_LAST = min fcycles 255
      (result ≠ 0 → result ≠ 3 →
        ∃ t r, exec (.fastLookup k 0 data false fcycles) s = .next t ∧ answered t r ∧
          t = { s with regs := t.regs, link := t.link, out := t.out, free := s.free + 1 }) ∧
      ∀ tb, s.table tid = some tb → result = 0 ∨ result = 3 →
        let q : SearchReq := {
          key := bytesAt data 0 32, gmask := s.fastMask (bytesAt data 0x20 1 / 32 % 4), bellset := bytesAt data 0x24 4
          maxlen := bytesAt data 0x22 2 % 512, cursor := 0 }
        let fenced := (List.range tb.bells).any fun j => s.bellFenced (s.physBell tb tb.active tb.latReplica j)
        let a := tb.answer (s.matches tb tb.latReplica q) 0 false fenced
        ∃ t r, exec (.fastLookup k 0 data false fcycles) s = .next t ∧ answered t r ∧
          bytesAt r.data 0 8 = a.data % 2 ^ 64 ∧ bytesAt r.data 8 8 = a.status % 2 ^ 64 ∧
          t = { s with regs := t.regs, link := t.link, out := t.out }) ∧
    ∃ t, exec .fastLatClear s = .next t ∧ t.fld pgFAST Reg.FAST_LAT_MIN = 255 ∧ t.fld pgFAST Reg.FAST_LAT_MAX = 0 ∧
      OnlyBits ((Reg.FAST_LAT_MIN.bits pgFAST).or (Reg.FAST_LAT_MAX.bits pgFAST)) s t
/-- R437, R440, R442 to R447, R452, R453: an extension joins the log; a quote starts, is written line by line, and ends; a
host burn is refused or starts, and its margin read ends it; health tests of the entropy source; flash commands start, end
and time out. -/
def Obligations.SecurityCommands : Prop :=
  ∀ (s : State),
    (let r := measureRecord ((List.range 4).flatMap fun w => leBytes 8 (s.fld pgSEC (Reg.SEC_EXTEND_DATA_DATA w))) 0 0 6 s.beat
      ∃ t, exec .secExtendGo s = .next t ∧ t.sec = { s.sec with log := (r :: s.sec.log).take 2048 } ∧
        (∀ w, w < 4 → t.fld pgSEC (Reg.SEC_M_DATA (12 + w)) = leNat (slice (sha256 (s.measurement 3 ++ r)) (8 * w) 8)) ∧
        t.fld pgSEC Reg.SEC_LOG_CTL_TOTAL = (s.fld pgSEC Reg.SEC_LOG_CTL_TOTAL + 1) % 2 ^ 48 ∧
        t = { s with regs := t.regs, sec := t.sec } ∧
        RegFrame (fun pg off i => Reg.SEC_LOG_CTL_TOTAL.bits pgSEC pg off i ∨
          ∃ w, w < 4 ∧ (Reg.SEC_M_DATA (12 + w)).bits pgSEC pg off i) s t) ∧
    (s.bit pgSEC Reg.SEC_QUOTE_CTL_BUSY = false →
      let n := s.fld pgSEC Reg.SEC_QUOTE_CTL_COUNT
      let body := s.quoteBytes n
      let asked := fun (t : State) => exec .secQuoteGo s = .next t ∧ t.bit pgSEC Reg.SEC_QUOTE_CTL_BUSY = true ∧
        t.bit pgSEC Reg.SEC_QUOTE_CTL_DONE = false ∧
        t.fld pgSEC Reg.SEC_QUOTE_CTL_COUNT = (if s.assist pgSEC then n else n + 1) % 2 ^ 16
      (s.assist pgSEC = true ∨ n < 32768 →
        (s.bit pgGLB Reg.GLB_STAT_SAFE = true → ∃ t, asked t ∧ t.sec = { s.sec with quote := some { body := body } } ∧
          t = { s with regs := t.regs, sec := t.sec }) ∧
        (s.bit pgGLB Reg.GLB_STAT_SAFE = false → ∃ t, asked t ∧
          t.sec = { s.sec with quote := some { body := body, sent := true, left := (body.length + 63) / 64 } } ∧
          (∀ i, i < (body.length + 63) / 64 → ∃ r, (r ∈ t.link.reqs ∨ r ∈ t.link.held) ∧ r.src = .quote ∧ r.kind = .itoMWr ∧
            r.addr = s.fld pgSEC Reg.SEC_QUOTE_ADDR_ADDR * 64 + 64 * i ∧ r.data = slice body (64 * i) 64) ∧
          t = { s with regs := t.regs, sec := t.sec, link := t.link, out := t.out })) ∧
      (s.assist pgSEC = false → 32768 ≤ n → s.quietError pgSEC Src.sec_QUOTE_EXHAUSTED →
        ∃ t, exec .secQuoteGo s = .next t ∧ Recorded pgSEC Src.sec_QUOTE_EXHAUSTED t ∧
          t.fld pgSEC Reg.SEC_QUOTE_CTL_STATUS = 1 ∧ t.bit pgSEC Reg.SEC_QUOTE_CTL_DONE = true)) ∧
    (∀ (q : Quote) (ok : Bool), s.sec.quote = some q → q.sent = true → (ok = true → q.left = 0) →
      ∃ t, exec (.quoteDone ok) s = .next t ∧ t.sec = { s.sec with quote := none } ∧
        t.fld pgSEC Reg.SEC_QUOTE_CTL_STATUS = (if ok then 0 else 2) ∧ t.bit pgSEC Reg.SEC_QUOTE_CTL_BUSY = false ∧
        t.bit pgSEC Reg.SEC_QUOTE_CTL_DONE = true ∧ (t.rd pgSEC 0x58).getLsbD 3 = true) ∧
    (∀ (bit : BitVec 16), s.bit pgFUSE Reg.FUSE_PROG_BUSY = false →
      (s.bit pgGLB Reg.GLB_STAT_READY = true → s.bit pgFUSE Reg.FUSE_STAT_PROV_LOCK = false → hostBurns bit.toNat = true →
        s.fuseOk = true →
        ∃ t, exec (.fuseProgGo bit) s = .next t ∧ t.sec = { s.sec with burn := some bit.toNat, burnCut := false } ∧
          t.fld pgFUSE Reg.FUSE_PROG_BIT = bit.toNat ∧ t.bit pgFUSE Reg.FUSE_PROG_BUSY = true ∧
          t = { s with regs := t.regs, sec := t.sec } ∧
          RegFrame ((Reg.FUSE_PROG_BIT.bits pgFUSE).or (Reg.FUSE_PROG_BUSY.bits pgFUSE)) s t) ∧
      (s.bit pgFUSE Reg.FUSE_STAT_PROV_LOCK = true ∨ hostBurns bit.toNat = false → s.quietError pgFUSE Src.fuse_PROG_REFUSED →
        ∃ t, exec (.fuseProgGo bit) s = .next t ∧ t.fld pgFUSE Reg.FUSE_PROG_RESULT = 4 ∧
          Recorded pgFUSE Src.fuse_PROG_REFUSED t ∧ t.sec = s.sec)) ∧
    (∀ (i : Nat) (lo hi : Bool), s.sec.burn = some i → s.sec.burnCut = false → s.sec.warmWait = none → lo = hi →
      ∃ t, exec (.fuseBurnDone lo hi) s = .next t ∧ t.otp i = (if lo then 2 else 0) ∧ (∀ j, j ≠ i → t.otp j = s.otp j) ∧
        t.bit pgFUSE Reg.FUSE_PROG_BUSY = false ∧ t.fld pgFUSE Reg.FUSE_PROG_RESULT = (if lo then 0 else 2) ∧
        t.sec = { s.sec with burn := none, otp := t.sec.otp } ∧ t = { s with regs := t.regs, sec := t.sec }) ∧
    (s.sec.trng + 1 < 4 → exec .trngHealthFail s = .next { s with sec := { s.sec with trng := s.sec.trng + 1 } }) ∧
    (4 ≤ s.sec.trng + 1 → s.quietError pgSEC Src.sec_TRNG_FAIL →
      ∃ t, exec .trngHealthFail s = .next t ∧ Recorded pgSEC Src.sec_TRNG_FAIL t) ∧
    (∀ (v : Word), s.bit pgXSPI Reg.XSPI_CMD_BUSY = false → s.enabled pgXSPI = true → v.toNat / 2 ^ 18 % 2 ^ 9 ≤ 256 →
      (v.getLsbD 16 = true → s.nvOk = true) →
      ∃ t, exec (.xspiCmdGo v) s = .next t ∧ t.fld pgXSPI Reg.XSPI_CMD_OPCODE = v.toNat % 2 ^ 16 ∧
        t.bit pgXSPI Reg.XSPI_CMD_NV = v.getLsbD 16 ∧ t.bit pgXSPI Reg.XSPI_CMD_WRITE = v.getLsbD 17 ∧
        t.fld pgXSPI Reg.XSPI_CMD_LEN = v.toNat / 2 ^ 18 % 2 ^ 9 ∧ t.bit pgXSPI Reg.XSPI_CMD_BUSY = true ∧
        t = { s with
          regs := t.regs
          pins := { s.pins with xspi := true }
          out := .flash (v.toNat % 2 ^ 16) (s.fld pgXSPI Reg.XSPI_ADDR_ADDR)
            (if v.getLsbD 17 then s.xspiBytes (v.toNat / 2 ^ 18 % 2 ^ 9) else []) :: s.out } ∧
        RegFrame (fun pg off i => pg = pgXSPI ∧ off = 0x108 ∧ (i ≤ 26 ∨ i = 32)) s t) ∧
    (s.bit pgXSPI Reg.XSPI_CMD_BUSY = true →
      (∀ (data : List Byte), ∃ t, exec (.xspiCmdDone data) s = .next t ∧ t.bit pgXSPI Reg.XSPI_CMD_BUSY = false ∧
        t.fld pgXSPI Reg.XSPI_CMD_RESULT = 0 ∧ RegsOnly s t ∧
        (s.bit pgXSPI Reg.XSPI_CMD_WRITE = true → t.xspiBytes 256 = s.xspiBytes 256) ∧
        (s.bit pgXSPI Reg.XSPI_CMD_WRITE = false → ∀ i b, i < s.fld pgXSPI Reg.XSPI_CMD_LEN → i < 256 → data[i]? = some b →
          (t.xspiBytes 256)[i]? = some b)) ∧
      (s.quietError pgXSPI Src.xspi_TIMEOUT →
        ∃ t, exec .xspiTimeout s = .next t ∧ t.bit pgXSPI Reg.XSPI_CMD_BUSY = false ∧ t.fld pgXSPI Reg.XSPI_CMD_RESULT = 3 ∧
          Recorded pgXSPI Src.xspi_TIMEOUT t))

/-- R47, R48, R430, R454 to R459, R473: a power-on reset by PWROK holds the device with every register at its reset value;
a cold reset starts the boot with the fields of R48 kept; a boot without an image ends at step 7 with FAULT_L low, one in
which every step succeeds ends at step 13, READY; a warm reset keeps HBM and store memory and BEAT; the watchdog. -/
def Obligations.Resets : Prop :=
  ∀ (s : State),
    (s.pins.pwrok = true →
      (∀ env, ∃ t, exec (.powerOnReset .pwrok env) s = .next t ∧ t.fld pgRST Reg.RST_CAUSE_CAUSE = 1 ∧
        (∀ page off, page < 512 → off < 0x1000 → ¬ (page = pgRST ∧ off = 0x108) → t.rd page off = resetVal (regKey page off)) ∧
        t = { State.reset with
          regs := t.regs, pending := s.pending, out := s.out, free := s.free, sec := { otp := s.sec.otp } }) ∧
      ∀ env, ∃ u : State, exec (.coldReset env) s = .next (u.boot env) ∧ u.fld pgRST Reg.RST_CAUSE_CAUSE = 3 ∧
        (∀ q ∈ coldKept, u.fld q.1 q.2 = s.fld q.1 q.2) ∧
        (∀ page off, page < 512 → off < 0x1000 → ¬ (page = pgRST ∧ off = 0x108) → (∀ q ∈ coldKept, ¬ (q.1 = page ∧ q.2.off = off)) →
          u.rd page off = resetVal (regKey page off)) ∧
        u = { State.reset with
          regs := u.regs, pending := s.pending, out := s.out, free := s.free, sec := { otp := s.sec.otp }
          pins := { State.reset.pins with pwrok := true } }) ∧
    (∀ env, s.pins.pwrok = false → exec (.pwrokRise env) s = .next ({ s with pins := { s.pins with pwrok := true } }.boot env)) ∧
    (∀ (env : BootEnv), env.images = [] →
      (s.boot env).fld pgGLB Reg.GLB_STAT_BOOT_STEP = 7 ∧ (s.boot env).pins.faultL = false) ∧
    (∀ (env : BootEnv) (i : FwImage) (u : State),
      ((s.fuseStep.clockStep env.refKhz).romStep.measureRom.sidebandStep env.sideband.toNat).fwStep env.images = (u, some i) →
      ((u.hbmStep env.hbm).2 = false → (s.boot env).fld pgGLB Reg.GLB_STAT_BOOT_STEP = 9) ∧
      ((u.hbmStep env.hbm).2 = true →
        (s.boot env).fld pgGLB Reg.GLB_STAT_BOOT_STEP = 13 ∧ (s.boot env).bit pgGLB Reg.GLB_STAT_READY = true ∧
          ∀ n, n < 16 → (s.boot env).fenced (pgSTW n) = false → (s.boot env).fld (pgSTW n) Reg.STW_STAT_STATE = 1)) ∧
    (s.bit pgGLB Reg.GLB_STAT_READY = true → kwf resetVal s.regs = true →
      ∀ (env : WarmEnv) (i : Instr) (code by_ : Nat), env.match_ = true →
      (i = .warmReset .host env ∧ code = 5 ∧ by_ = 0 ∨ i = .warmReset .henair env ∧ code = 5 ∧ by_ = 1 ∨
        i = .warmReset .pmc env ∧ code = 5 ∧ by_ = 2 ∨ i = .warmReset .sideband env ∧ code = 6 ∧ by_ = 0 ∨
        ∃ port, i = .cxlReset port env ∧ s.primary = some port.val ∧ code = 7 ∧ by_ = 0) →
      (s.sec.burn = none → s.bit pgXSPI Reg.XSPI_CMD_BUSY = false →
        ∃ t, exec i s = .next t ∧ t.fld pgRST Reg.RST_CAUSE_CAUSE = code ∧ t.fld pgRST Reg.RST_CAUSE_BY = by_ ∧
          t.bit pgGLB Reg.GLB_STAT_READY = true ∧ t.fld pgGLB Reg.GLB_STAT_BOOT_STEP = 13 ∧
          t.mem = { s.mem with tile := [], deviceBias := [] } ∧ t.beat = s.beat ∧ t.slots = [] ∧ t.rings = [] ∧ t.tiles = [] ∧
          t.queues = [] ∧ t.admission = none ∧ t.fsch = {} ∧ t.flt = { fenced := s.flt.fenced, bootFenced := s.flt.bootFenced } ∧
          t.out = .hotJoin :: s.out ∧
          (∀ n off, n < 4 → off < 0x1000 → off ≠ 0x10 → t.rd (pgHMC n) off = s.rd (pgHMC n) off) ∧
          t.fld pgSEC Reg.SEC_BOOT_WARM = (s.fld pgSEC Reg.SEC_BOOT_WARM + 1) % 2 ^ 32) ∧
      ∀ b, s.sec.burn = some b → s.sec.warmWait = none →
        exec i s = .next { s with sec := { s.sec with warmWait := some (code + by_ * 2 ^ 8, env) } }) ∧
    ∀ (n : Fin 16),
      (∃ t, exec (.wdtKick n) s = .next t ∧ kget (fun _ => 0) t.pwr.kicks n = s.beat + 1 ∧
        (∀ m, m ≠ n.val → kget (fun _ => 0) t.pwr.kicks m = kget (fun _ => 0) s.pwr.kicks m) ∧
        t = { s with pwr := { s.pwr with kicks := t.pwr.kicks } }) ∧
      ∀ (kick : Nat) (env : WarmEnv), kget (fun _ => 0) s.pwr.kicks n = kick + 1 →
        s.fld (pgSTW n) Reg.STW_WDT_TIMEOUT_MS ≠ 0 → s.beatOn = true → s.bit (pgSTW n) Reg.STW_WDT_ACTION = false →
        s.quietError (pgSTW n) Src.stw_WDT_EXPIRE →
        ∃ t, exec (.wdtExpire n env) s = .next t ∧ t.bit (pgSTW n) Reg.STW_WDT_EXPIRED = true ∧
          Recorded (pgSTW n) Src.stw_WDT_EXPIRE t ∧ kget (fun _ => 0) t.pwr.kicks n = 0 ∧
          t.beat = max s.beat (kick + s.fld (pgSTW n) Reg.STW_WDT_TIMEOUT_MS * 700000)

/-- R43, R458: the soft reset of a page, and of every page of a domain, returns the bits of its registers that it does not
keep to their reset values, and leaves the registers of other pages; READY returns when it is done. -/
def Obligations.SoftResets : Prop :=
  ∀ (s : State), kwf resetVal s.regs = true →
    let softly := fun (which : Nat → Prop) (t : State) (kept : BitSet) => t.mem = s.mem ∧ t.slots = s.slots ∧ t.out = s.out ∧
      ∀ page off i, page < 512 → off < 0x1000 → ¬ kept page off i →
        (which page → (softMask page off).testBit i = false →
          (t.rd page off).getLsbD i = (resetVal (regKey page off)).getLsbD i) ∧
        (¬ which page ∨ (softMask page off).testBit i = true → (t.rd page off).getLsbD i = (s.rd page off).getLsbD i)
    (∀ (page : Fin 512), (blockOf page).isSome = true → s.powered page = true → s.enabled page = false →
      s.claimed page = false → modeBad page 8 (s.ctrl page) = false → s.admission = none →
      ∃ t, exec (.sreset page) s = .next t ∧ softly (fun p => p = page) t noBits) ∧
    (∀ (d : BitVec 5), (∀ p ∈ domainPages d.toNat, s.claimed p = false) → d.toNat < 16 ∨ d.toNat = 17 → s.domState d.toNat = 0 →
      ∃ t, exec (.rstDomainGo d) s = .next t ∧ t.fld pgRST Reg.RST_DOMAIN_DOMAIN = d.toNat ∧
        softly (fun p => domainOf p = some d.toNat) t (Reg.RST_DOMAIN_DOMAIN.bits pgRST)) ∧
    ∀ (page : Fin 512), (blockOf page).isSome = true → s.powered page = true → s.beatOn = true →
      (∀ b, blockOf page = some b → (b = .hmc ∨ b = .hphy → s.bit (pgHPHY (instanceOf page)) Reg.HPHY_STAT_TRAINED = true) ∧
        (b = .ulnk → s.bit page Reg.ULNK_STAT_TRAINED = true)) →
      ∃ t, exec (.sresetDone page) s = .next t ∧ t.ready page = true ∧ OnlyBits (Reg.BLK_STAT_READY.bits page) s t

/-- R460 to R472, R478: power domains are asked for, reach their state or fail to; the cap's level; clock gates; readings
of the sensors, with the warning and the trip; samples of the rails, with the supply whose loss holds the device in reset. -/
def Obligations.PowerAndHeat : Prop :=
  ∀ (s : State),
    (∀ (v : Word), v.toNat < 2 ^ 40 →
      let old := s.fld pgPWR Reg.PWR_REQ_REQ
      let moves := fun (d : Nat) => d < 20 ∧ reqOf v.toNat d ≠ reqOf old d
      (∀ d, moves d → domainHas d (reqOf v.toNat d) = true ∧ (reqOf old d = 0 → s.domainClaimed d = false) ∧
        d ≠ 18 + s.poolHalf ∧ ∀ u ∈ s.flt.gone, unitDomain u ≠ some d) →
      ∃ t, exec (.pwrReq v) s = .next t ∧ t.fld pgPWR Reg.PWR_REQ_REQ = v.toNat ∧
        (∀ d, moves d → t.domState d = 3 ∧ kget (fun _ => none) t.pwr.moving d = some s.beat) ∧
        (∀ d, d < 20 → ¬ moves d → t.domState d = s.domState d) ∧
        t = { s with regs := t.regs, pwr := { s.pwr with moving := t.pwr.moving } } ∧
        RegFrame (fun pg off i => pg = pgPWR ∧ (off = 0x100 ∨ off = 0x108) ∧ i < 40) s t) ∧
    (∀ (d : Fin 20), s.domState d = 3 →
      let req := reqOf (s.fld pgPWR Reg.PWR_REQ_REQ) d
      (req = 1 → ∃ t, exec (.pwrDomainDone d) s = .next t ∧ t.domState d = 1 ∧
        (∀ p ∈ domainPages d, t.ready p = false) ∧ kget (fun _ => none) t.pwr.moving d = none ∧
        ∀ i off, d.val < 16 → i < 4 → off < 2 ^ 23 → cell t.mem.tile (tmKey (4 * d.val + i) off) = 0) ∧
      (req = 2 → ∃ t, exec (.pwrDomainDone d) s = .next t ∧ t.domState d = 2 ∧ t.mem = s.mem ∧
        kget (fun _ => none) t.pwr.moving d = none) ∧
      (req = 0 → ∃ t, exec (.pwrDomainDone d) s = .next t ∧ t.domState d = 0 ∧ t.mem = s.mem ∧
        kget (fun _ => none) t.pwr.moving d = none ∧ ∀ p ∈ domainPages d, t.ready p = true ∧
          t.fld p Reg.ERR_RECOV_COUNT = s.fld p Reg.ERR_RECOV_COUNT ∧ t.fenced p = s.fenced p ∧
          ∀ off, off < 0x1000 → off ≠ 0x10 → off ≠ 0x48 → ¬ (p = pgCAR ∧ off = Reg.CAR_STAT_PORTS_UP.off) →
            t.rd p off = resetVal (regKey p off))) ∧
    (∀ (d : Fin 20) (b : Nat), kget (fun _ => none) s.pwr.moving d = some b → s.beatOn = true →
      s.quietError pgPWR Src.pwr_SWITCH_FAIL →
      ∃ t, exec (.switchFail d) s = .next t ∧ Recorded pgPWR Src.pwr_SWITCH_FAIL t ∧ t.beat = max s.beat (b + 700000) ∧
        kget (fun _ => none) t.pwr.moving d = none) ∧
    (∀ (watts : Nat),
      let limit := s.fld pgPWR Reg.PWR_CAP_LIMIT_W
      let level := s.fld pgPWR Reg.PWR_EST_LEVEL
      let counted := if 1 ≤ level then min (s.fld pgPWR Reg.PWR_EST_CAPPED + 1) (2 ^ 32 - 1) else s.fld pgPWR Reg.PWR_EST_CAPPED
      let read := fun (t : State) (new : Nat) => exec (.powerEstimate watts) s = .next t ∧
        t.fld pgPWR Reg.PWR_EST_W = min watts 511 ∧ t.fld pgPWR Reg.PWR_EST_LEVEL = new ∧
        t.fld pgPWR Reg.PWR_EST_CAPPED = counted
      (watts ≤ limit → limit * 95 ≤ watts * 100 → ∃ t, read t level ∧
        OnlyBits (fun pg off _ => pg = pgPWR ∧ off = 0x118) s t) ∧
      (limit < watts → level < 6 → s.quietError pgPWR Src.pwr_CAP_ACTIVE → ∃ t, read t (level + 1) ∧
        Recorded pgPWR Src.pwr_CAP_ACTIVE t) ∧
      (watts * 100 < limit * 95 → watts ≤ limit → 0 < level → s.quietError pgPWR Src.pwr_CAP_ACTIVE → ∃ t, read t (level - 1) ∧
        Recorded pgPWR Src.pwr_CAP_ACTIVE t)) ∧
    (∀ (q : Fin 16), let f : Fld := ⟨Reg.CLK_GATE_GATED.off, 32 + q.val, 32 + q.val⟩
      (s.bit pgCLK Reg.CLK_GATE_EN = true → s.domState q = 0 → s.quadIdle q = true →
        ∃ t, exec (.quadClockGate q) s = .next t ∧ t.bit pgCLK f = true ∧ OnlyBits (f.bits pgCLK) s t) ∧
      ∃ t, exec (.quadClockRestart q) s = .next t ∧ t.bit pgCLK f = false ∧ OnlyBits (f.bits pgCLK) s t) ∧
    (∀ (temps : List (BitVec 8)), temps.length = 32 → (∀ i, i < 32 → s.sensorBad i (temps.map BitVec.toInt) = false) →
      s.pwr.sensors = [] → s.powered pgCAR = false →
      let deg := fun (i : Nat) => (temps.map BitVec.toInt).getD i 0
      let read := fun (t : State) => exec (.thrmSample temps) s = .next t ∧
        (∀ w, w < 4 → t.fld pgTHRM (Reg.THRM_S_TEMP w) = leNat (slice temps (8 * w) 8))
      let hottest := fun (t : State) => ∃ i, i < 32 ∧ t.fld pgTHRM Reg.THRM_STAT_MAX_IDX = i ∧
        t.fld pgTHRM Reg.THRM_STAT_MAX = tempByte (deg i) ∧ ∀ j, j < 32 → deg j ≤ deg i ∧ (j < i → deg j < deg i)
      let cool := (s.fld pgTHRM Reg.THRM_CFG_TILE_C : Int)
      let warn := (s.fld pgTHRM Reg.THRM_CFG_WARN_C : Int)
      s.bit pgTHRM Reg.THRM_STAT_TRIPPED = false → s.fld pgTHRM Reg.THRM_STAT_THROTTLED = 0 →
      (∀ q, q < 16 → deg q < cool) →
      (s.bit pgTHRM Reg.THRM_STAT_THERM_L = false → (∀ i, i < 32 → deg i < warn ∧ deg i < 110) →
        ∃ t, read t ∧ hottest t ∧ t = { s with regs := t.regs, pwr := { s.pwr with sensors := t.pwr.sensors } } ∧
          RegFrame (fun pg off i => pg = pgTHRM ∧ (off = 0x108 ∧ i ≤ 17 ∨ ∃ w, w < 4 ∧ off = 0x110 + 8 * w)) s t) ∧
      (∀ j, s.bit pgTHRM Reg.THRM_STAT_THERM_L = false → j < 32 → warn ≤ deg j → (∀ i, i < 32 → deg i < 110) →
        s.quietError pgTHRM Src.thrm_WARN → ∃ t, read t ∧ hottest t ∧ t.bit pgTHRM Reg.THRM_STAT_THERM_L = true ∧
          t.pins.thermL = false ∧ Recorded pgTHRM Src.thrm_WARN t) ∧
      ∀ j, j < 32 → 110 ≤ deg j → warn ≤ deg j → s.quietError pgTHRM Src.thrm_WARN → s.quietError pgTHRM Src.thrm_TRIP →
        ∃ t, read t ∧ t.bit pgTHRM Reg.THRM_STAT_TRIPPED = true ∧ t.pwr.stopped = true ∧ t.fltState = 4 ∧
          t.bit pgGLB Reg.GLB_STAT_DOWN = true ∧ t.link.gateClosed = true ∧ t.pins.faultL = false) ∧
    ∀ (mv : List Nat), mv.length = 10 → s.beatOn = true →
      (s.fld pgSUPV Reg.SUPV_STAT_UV = 0 → s.fld pgSUPV Reg.SUPV_STAT_OV = 0 → s.nvOk = true →
        s.bit pgSUPV Reg.SUPV_STAT_FUSE_OK = true →
        (∀ i lo hi, i < 10 → s.railRange i = some (lo, hi) → lo * 92 ≤ mv.getD i 0 * 100 ∧ mv.getD i 0 * 100 ≤ hi * 108) →
        7275 ≤ mv.getD 3 0 * 10 → 1746 ≤ mv.getD 8 0 → 1764 ≤ mv.getD 9 0 → mv.getD 9 0 ≤ 1836 →
        ∃ t, exec (.supvSample mv) s = .next t ∧ t.fld pgSUPV Reg.SUPV_STAT_GOOD = 2 ^ 10 - 1 ∧
          (∀ i, i < 10 → t.fld pgSUPV ⟨0x110 + 8 * (i / 4), 16 * (i % 4) + 15, 16 * (i % 4)⟩ = mv.getD i 0 % 2 ^ 16) ∧
          t = { s with regs := t.regs, pwr := t.pwr } ∧
          RegFrame (fun pg off i => pg = pgSUPV ∧ (off = 0x108 ∧ i < 10 ∨ ∃ w, w < 3 ∧ off = 0x110 + 8 * w)) s t) ∧
      (s.bit pgSUPV ⟨Reg.SUPV_STAT_UV.off, 19, 19⟩ = false → kget (fun _ => 0) s.pwr.uvRun 3 = 4 → mv.getD 3 0 * 100 < 750 * 92 →
        ∃ t, exec (.supvSample mv) s = .next t ∧ t.fld pgRST Reg.RST_CAUSE_CAUSE = 0 ∧ t.pins.pwrok = false ∧
          t.sec.otp = s.sec.otp ∧ t.mem = {} ∧ t.slots = [])

/-- R30, R33, R36, R37, R40 to R43, R390, R474: writes of registers by every writer; ENABLE and its drain; staged values;
arming for a cue; performance counters; the I3C target. -/
def Obligations.RegisterCommands : Prop :=
  ∀ (s : State),
    (∀ (by_ : Writer) (port : Fin 3) (page : Fin 512) (v : Word) (bytes : Nat) (off : Fin 4096),
      (by_ = .host ∧ s.primary = some port.val ∨ by_ = .henair ∨ by_ = .dbg ∨
        by_ = .pmc ∧ s.enabled pgI3C = true ∧ pmcPage page = true ∨ by_ = .sideband ∧ page.val = pgSBND) →
      (blockOf page).isSome = true → s.powered page = true →
      (∃ t, exec (.regWrite by_ port page 0x50 8 v) s = .next t ∧ t.rd page 0x50 = v ∧
        OnlyBits (fun p o _ => p = page.val ∧ o = 0x50) s t) ∧
      ∀ cause, (bytes ≠ 8 ∨ off.val % 8 ≠ 0) ∧ cause = 3 ∨ bytes = 8 ∧ off.val % 8 = 0 ∧
          ¬ (page.val = pgPWR ∧ off.val = 0x100) ∧ ¬ (page.val = pgFUSE ∧ off.val = 0x108) ∧
          s.writeCause page off v.toNat = some cause →
        cause < 16 → s.bit page Reg.BLK_STAT_CFG_REJECT = false →
        ∃ t, exec (.regWrite by_ port page off bytes v) s = .next t ∧ t.bit page Reg.BLK_STAT_CFG_REJECT = true ∧
          t.fld page Reg.BLK_STAT_REJ_CAUSE = cause ∧ t.fld page Reg.BLK_STAT_REJ_OFFSET = off.val ∧
          (t.rd page 0x58).getLsbD 1 = true ∧ t.staged = s.staged ∧
          RegFrame (fun p o i => perfBits page p o i ∨ p = page.val ∧ (o = 0x10 ∨ o = 0x58 ∧ i = 1)) s t) ∧
    (∀ (dec : Fin 32) (q : Byte), s.powered (pgDEC dec) = true → q ≠ 0 →
      let pg := pgDEC dec
      let page : Fin 512 := Fin.ofNat 512 pg
      let write := Instr.regWrite .henair 0 page 0x100 8 (word q.toNat)
      (s.enabled pg = true →
        ∃ t, exec write s = .next t ∧ bitsOf (t.rdStaged pg 0x100).toNat 7 0 = q.toNat ∧ OnlyBits noBits s { t with staged := s.staged } ∧
          ∀ k, k ≠ regKey pg 0x100 → kget (fun k => kget resetVal t.regs k) t.staged k = kget (fun k => kget resetVal s.regs k) s.staged k) ∧
      (s.enabled pg = false → s.staged = [] → q.toNat ≠ s.fld pg Reg.DEC_CFG_QUANTUM →
        ∃ t, exec write s = .next t ∧ t.fld pg Reg.DEC_CFG_QUANTUM = q.toNat ∧ t.staged = [] ∧
          t.fld pg Reg.BLK_GEN_GEN = (s.fld pg Reg.BLK_GEN_GEN + 1) % 2 ^ 32)) ∧
    ∀ (page : Fin 512), (blockOf page).isSome = true → s.powered page = true → modeBad page 8 (s.ctrl page) = false →
      (s.enabled page = false → alwaysOn page = false → (page.val = pgCMDQ → s.rings = []) →
        ∃ t, exec (.enable page true) s = .next t ∧ t.enabled page = true ∧ OnlyBits (Reg.BLK_CTRL_ENABLE.bits page) s t) ∧
      (s.enabled page = true → alwaysOn page = false → s.claimed page = false → s.shdPend page = false →
        (page.val = pgPLAN → ∀ p, p < 16 → s.slotState p = 0) →
        ∃ t, exec (.enable page false) s = .next t ∧ t.enabled page = false ∧ t.bit page Reg.BLK_STAT_BUSY = s.holdsWork page ∧
          OnlyBits ((Reg.BLK_CTRL_ENABLE.bits page).or (Reg.BLK_STAT_BUSY.bits page)) s t) ∧
      (s.enabled page = false → s.holdsWork page = false →
        ∃ t, exec (.blockDrained page) s = .next t ∧ t.bit page Reg.BLK_STAT_BUSY = false ∧
          OnlyBits (Reg.BLK_STAT_BUSY.bits page) s t) ∧
      (s.enabled page = true → s.bit page Reg.BLK_CTRL_SHD_HOLD = false → s.bit page Reg.BLK_CTRL_CUE_ARM = false →
        s.shdPend page = true → (s.staged.map Prod.fst).Nodup →
        (∀ k v, (k, v) ∈ s.staged → 0x100 ≤ k % 0x1000) →
        ∃ t, exec (.shdApply page) s = .next t ∧ t.shdPend page = false ∧
          t.fld page Reg.BLK_GEN_GEN = (s.fld page Reg.BLK_GEN_GEN + 1) % 2 ^ 32 ∧
          t.fld page Reg.BLK_GEN_APPLY_BEAT = s.beat % 2 ^ 32 ∧ (t.rd page 0x58).getLsbD 2 = true ∧
          ∀ k v, (k, v) ∈ s.staged → (k / 0x1000 = page.val → t.rd page (k % 0x1000) = v) ∧ (k / 0x1000 ≠ page.val → (k, v) ∈ t.staged)) ∧
      (∀ (arm : Bool) (sel : Fin 32), s.bit page Reg.BLK_CTRL_CUE_ARM = false →
        ∃ t, exec (.cueArm page arm sel) s = .next t ∧ t.bit page Reg.BLK_CTRL_CUE_ARM = arm ∧
          t.fld page Reg.BLK_CTRL_CUE_SEL = sel.val ∧
          OnlyBits ((Reg.BLK_CTRL_CUE_ARM.bits page).or (Reg.BLK_CTRL_CUE_SEL.bits page)) s t) ∧
      (∀ (i : Fin 9), ∃ t, exec (.perfClear page i) s = .next t ∧ t.fld page (Reg.PERF_CNT_COUNT i) = 0 ∧
        OnlyBits ((Reg.PERF_CNT_COUNT i).bits page) s t) ∧
      (∃ t, exec (.perfClearAll page) s = .next t ∧ (∀ i, i < 9 → t.fld page (Reg.PERF_CNT_COUNT i) = 0) ∧
        OnlyBits (perfBits page) s t) ∧
      (s.enabled pgI3C = true →
        (pmcPage page = true → ∀ (bytes : List Byte), bytes.length = 11 →
          bytesAt bytes 0 3 = 2 ^ 23 + page.val * 2 ^ 12 + 0x50 →
          ∃ t, exec (.i3cWrite bytes) s = .next t ∧ t.rd page 0x50 = word (bytesAt bytes 3 8) ∧
            t.fld pgI3C Reg.I3C_STAT_XFERS = (s.fld pgI3C Reg.I3C_STAT_XFERS + 1) % 2 ^ 32 ∧
            OnlyBits (fun p o i => p = page.val ∧ o = 0x50 ∨ Reg.I3C_STAT_XFERS.bits pgI3C p o i) s t) ∧
        (∀ (addr : List Byte), (addr.length = 3 ∧ bytesAt addr 0 3 < 2 ^ 23 ∧ bytesAt addr 0 3 % 8 = 0 ∨
            addr = [] ∧ s.pwr.i3cAddr < 2 ^ 23 ∧ s.pwr.i3cAddr % 8 = 0) →
          let a := if addr = [] then s.pwr.i3cAddr else bytesAt addr 0 3
          ∃ t u, exec (.i3cRead addr) s = .next t ∧ u = { s with regs := t.regs, pwr := { s.pwr with i3cAddr := (a + 8) % 2 ^ 21 } } ∧
            t = { u with out := .i3c (leBytes 8 (u.readReg (a / 2 ^ 12 % 2 ^ 9) (a % 2 ^ 12))) :: s.out } ∧
            t.fld pgI3C Reg.I3C_STAT_XFERS = (s.fld pgI3C Reg.I3C_STAT_XFERS + 1) % 2 ^ 32 ∧
            RegFrame (Reg.I3C_STAT_XFERS.bits pgI3C) s t) ∧
        ∀ (a : BitVec 7), ∃ t, exec (.i3cDaa a) s = .next t ∧ t.fld pgI3C Reg.I3C_STAT_DYN_ADDR = a.toNat ∧
          t.bit pgI3C Reg.I3C_STAT_HJ_PEND = false ∧
          OnlyBits ((Reg.I3C_STAT_DYN_ADDR.bits pgI3C).or (Reg.I3C_STAT_HJ_PEND.bits pgI3C)) s t)
/-- R25, R45, R406, R407, R409, R410, R412, R414, R415, R421: an error at 0 COUNT or 1 LOG is recorded and nothing else
changes, forced or detected; from 2 DEGRADE up it puts the device into the safe state, and a FATAL one takes it down; an
error while a fault is being handled is merged; the safe state completes when the running plans are held. Said of
sources that have no effect of their own on the block's data. -/
def Obligations.FaultEntry : Prop :=
  ∀ (s : State) (page : Fin 512) (src : Fin 32), s.powered page = true → s.queues = [] → (∀ p, p < 16 → s.slotState p = 0) →
    (∃ b, blockOf page = some b ∧ (definesSource page src = true) ∧
      b ∈ ([.rst, .pwr, .fuse, .thrm, .supv, .xspi, .i3c, .dbg, .hmc, .hphy, .stor, .shuf, .cmdq, .quad, .dec, .cmp, .car,
        .bell] : List Block)) → s.enabled page = true →
    let sev := s.severity page src
    (s.quietError page src →
      (∀ arg, ∃ t, exec (.errorDetected page src arg) s = .next t ∧ Recorded page src t ∧ RegFrame (errBits page src) s t ∧
        (sev = 1 → s.bit page Reg.ERR_FIRST_VALID = false → t.fld page Reg.ERR_FIRST_SOURCE = src ∧
          t.bit page Reg.ERR_FIRST_FORCED = false ∧ t.fld page Reg.ERR_FIRST_BEAT = s.beat % 2 ^ 56) ∧
        (sev = 0 → t.rd page 0x38 = s.rd page 0x38 ∧ t.rd page 0x58 = s.rd page 0x58) ∧
        t = { s with regs := t.regs, out := t.out, link := { s.link with msixPend := t.link.msixPend } }) ∧
      ∃ t, exec (.errForce page (BitVec.twoPow 32 src)) s = .next t ∧ Recorded page src t ∧ RegFrame (errBits page src) s t ∧
        (sev = 1 → s.bit page Reg.ERR_FIRST_VALID = false → t.bit page Reg.ERR_FIRST_FORCED = true) ∧
        t = { s with regs := t.regs, out := t.out, free := t.free, link := { s.link with msixPend := t.link.msixPend } }) ∧
    (∀ arg, s.fltState = 0 → 2 ≤ sev → s.admission = none →
      ∃ t, exec (.errorDetected page src arg) s = .next t ∧ Recorded page src t ∧ t.bit pgGLB Reg.GLB_STAT_SAFE = true ∧
        t.link.gateClosed = true ∧ t.pins.faultL = false ∧ t.fld pgDBG Reg.DBG_FLT_SEV = sev ∧
        t.fld pgDBG Reg.DBG_FLT_FIRST_PAGE = page ∧ t.fld pgDBG Reg.DBG_FLT_FIRST_SRC = src ∧
        t.fld pgDBG Reg.DBG_FLT_BEAT_BEAT = s.beat % 2 ^ 64 ∧ t.mem = { s.mem with tile := t.mem.tile } ∧
        (sev = 2 → s.fld pgGLB Reg.GLB_RECOV_IN_HOUR < s.fld pgGLB Reg.GLB_RECOV_RECOV_LIMIT →
          t.fltState = 1 ∧ t.flt.signals = [(page.val, src.val, arg)] ∧ t.bit pgGLB Reg.GLB_STAT_DOWN = s.bit pgGLB Reg.GLB_STAT_DOWN ∧
          t.fld pgDBG Reg.DBG_QUIET_END_BEAT = (s.beat + s.fld pgGLB Reg.GLB_FLT_QUIET_MS * 700000) % 2 ^ 64) ∧
        (sev = 3 ∨ s.fld pgGLB Reg.GLB_RECOV_RECOV_LIMIT ≤ s.fld pgGLB Reg.GLB_RECOV_IN_HOUR →
          t.fltState = 4 ∧ t.bit pgGLB Reg.GLB_STAT_DOWN = true)) ∧
    (∀ arg, s.fltState = 1 → sev ≤ 1 →
      ∃ t, exec (.errorDetected page src arg) s = .next t ∧ Recorded page src t ∧ t.fltState = 1 ∧ t.flt = s.flt ∧
        t.fld pgDBG Reg.DBG_FLT_MERGED_COUNT = min (s.fld pgDBG Reg.DBG_FLT_MERGED_COUNT + 1) (2 ^ 32 - 1) ∧
        t.fld page Reg.ERR_MERGED_COUNT = min (s.fld page Reg.ERR_MERGED_COUNT + 1) (2 ^ 32 - 1))

/-- R33, R51, R410, R415, R417, R420 to R422, R427: the running plans are held when the safe state is complete; at the end of
a quiet period whose candidates all pass their test, and after the host lets it go on, the device resumes; with MODE 1 it
waits for the host; RELEASE starts a quiet period; a recovery leaves the hour; an IEEE 1500 instruction. -/
def Obligations.Recovery : Prop :=
  ∀ (s : State),
    (s.flt.complete = false → s.bit pgGLB Reg.GLB_STAT_SAFE = true →
      ∃ t, exec .safeStateComplete s = .next t ∧ t.flt.complete = true ∧ (t.rd pgGLB 0x58).getLsbD 3 = true ∧
        (∀ p, p < 16 → t.slotState p = if s.slotState p = 3 ∨ s.slotState p = 4 then 6 else s.slotState p) ∧
        (∀ p, p < 16 → s.slotState p = 3 ∨ s.slotState p = 4 → kget (fun _ => 0) t.flt.prev p = s.slotState p) ∧
        t.mem = s.mem ∧ t.slots = s.slots) ∧
    (let resumed := fun (i : Instr) => ∃ t, exec i s = .next t ∧ t.fltState = 0 ∧
        t.bit pgGLB Reg.GLB_STAT_SAFE = false ∧ t.bit pgGLB Reg.GLB_STAT_RECOVERING = false ∧ t.link.gateClosed = false ∧
        t.pins.faultL = true ∧ t.flt.signals = [] ∧ t.flt.fenced = s.flt.fenced ∧
        t.fld pgGLB Reg.GLB_RECOV_COUNT = (s.fld pgGLB Reg.GLB_RECOV_COUNT + 1) % 2 ^ 32 ∧
        t.fld pgGLB Reg.GLB_RECOV_IN_HOUR = min (s.fld pgGLB Reg.GLB_RECOV_IN_HOUR + 1) 255 ∧
        (∀ c ∈ s.flt.cands, t.fld c.unit.home Reg.ERR_RECOV_COUNT = (s.fld c.unit.home Reg.ERR_RECOV_COUNT + 1) % 2 ^ 32) ∧
        (∀ c n, c ∈ s.flt.cands → c.unit = .tile n → t.tile n = {}) ∧ (t.rd pgGLB 0x58).getLsbD 4 = true;
      (∀ p, p < 16 → s.slotState p = 0) → s.flt.releasing = false → s.flt.fatal = [] → s.rings = [] → s.link.held = [] →
      s.link.reqs = [] → s.sec.quote = none → (∀ c ∈ s.flt.cands, c.tested = true ∧ c.unit.home < 512) →
      (s.fltState = 1 → s.beatOn = true → s.flt.assist = false → resumed (.quietEnd {})) ∧
      (s.fltState = 2 → (∀ c ∈ s.flt.cands, c.unit.ownBit = none ∨ s.shown c.unit = true) →
        (∀ u ∈ allUnits, s.shown u = true → covers s.flt.gone u = true ∨ ∃ c ∈ s.flt.cands, c.unit = u) →
        resumed (.dbgRecovGo {}))) ∧
    (∀ env, s.fltState = 1 → s.beatOn = true → s.flt.assist = true → s.flt.releasing = false →
      ∃ t, exec (.quietEnd env) s = .next t ∧ t.fltState = 2 ∧ (t.rd pgGLB 0x58).getLsbD 6 = true ∧
        t.beat = max s.beat (s.fld pgDBG Reg.DBG_QUIET_END_BEAT) ∧ t.link.gateClosed = s.link.gateClosed ∧
        ∀ c ∈ s.flt.cands, c.unit.ownBit ≠ none → t.shown c.unit = true) ∧
    (s.bit pgGLB Reg.GLB_STAT_DOWN = true →
      ∃ t, exec .release s = .next t ∧ t.bit pgGLB Reg.GLB_STAT_DOWN = false ∧ t.fld pgGLB Reg.GLB_RECOV_IN_HOUR = 0 ∧
        t.fltState = 1 ∧ t.fld pgDBG Reg.DBG_QUIET_END_BEAT = (s.beat + s.fld pgGLB Reg.GLB_FLT_QUIET_MS * 700000) % 2 ^ 64 ∧
        t = { s with regs := t.regs, flt := { s.flt with releasing := true, quiet := t.flt.quiet } } ∧
        RegFrame ((Reg.GLB_STAT_DOWN.bits pgGLB).or ((Reg.GLB_RECOV_IN_HOUR.bits pgGLB).or ((Reg.DBG_FLT_STATE.bits pgDBG).or
          ((Reg.DBG_FLT_RESTARTS.bits pgDBG).or (Reg.DBG_QUIET_END_BEAT.bits pgDBG))))) s t) ∧
    (∃ t, exec .inHourExpire s = .next t ∧ t.fld pgGLB Reg.GLB_RECOV_IN_HOUR = s.fld pgGLB Reg.GLB_RECOV_IN_HOUR - 1 ∧
      OnlyBits (Reg.GLB_RECOV_IN_HOUR.bits pgGLB) s t) ∧
    ∀ (stack : Fin 4) (instr : Byte),
      (s.enabled (pgHMC stack) = false →
        ∃ t, exec (.dbg1500Go stack instr) s = .next t ∧ t.fld pgDBG Reg.DBG_1500_STACK = stack ∧
          t.fld pgDBG Reg.DBG_1500_INSTR = instr.toNat ∧ t = { s with regs := t.regs, free := s.free + 1 } ∧
          RegFrame ((Reg.DBG_1500_STACK.bits pgDBG).or
            ((Reg.DBG_1500_INSTR.bits pgDBG).or (Reg.DBG_1500_DATA_DATA.bits pgDBG))) s t) ∧
      (s.enabled (pgHMC stack) = true → s.bit pgDBG Reg.BLK_STAT_CFG_REJECT = false →
        ∃ t, exec (.dbg1500Go stack instr) s = .next t ∧ t.fld pgDBG Reg.BLK_STAT_REJ_CAUSE = 1 ∧
          t.rd pgDBG 0x160 = s.rd pgDBG 0x160 ∧ t.free = s.free)

/-- R64, R74, R75, R389, R391 to R393: a ring starts again when it is enabled; a doorbell moves its TAIL; an entry that is
read waits as its command, an invalid one completes with 37, a failed read clears EN; an acknowledged completion moves
CPL_TAIL on; NOP. -/
def Obligations.CommandRings : Prop :=
  ∀ (s : State) (ring : Fin 16),
    let idx := (Reg.CMDQ_R_IDX_HEAD ring).off
    (s.bit pgCMDQ (Reg.CMDQ_R_CFG_EN ring) = false →
      (s.enabled pgCMDQ = false →
        ∃ t, exec (.cmdqRingEnable ring) s = .next t ∧ t.bit pgCMDQ (Reg.CMDQ_R_CFG_EN ring) = true ∧ t.rd pgCMDQ idx = 0 ∧
          (t.ring ring).cpls = [] ∧ (t.ring ring).phase = true ∧ ((s.ring ring).busy = false → (t.ring ring).waiting = []) ∧
          kget (fun _ => 0) t.doorbells ring = 0 ∧ (∀ n, n ≠ ring.val → t.ring n = s.ring n) ∧
          t = { s with regs := t.regs, rings := t.rings, doorbells := t.doorbells, link := t.link } ∧
          RegFrame (fun pg off i => pg = pgCMDQ ∧ off = idx ∨ (Reg.CMDQ_R_CFG_EN ring).bits pgCMDQ pg off i) s t) ∧
      (s.enabled pgCMDQ = true → s.bit pgCMDQ Reg.BLK_STAT_CFG_REJECT = false →
        ∃ t, exec (.cmdqRingEnable ring) s = .next t ∧ t.bit pgCMDQ (Reg.CMDQ_R_CFG_EN ring) = false ∧
          t.fld pgCMDQ Reg.BLK_STAT_REJ_CAUSE = 1 ∧ t.rings = s.rings)) ∧
    (∀ (v : Word), v.toNat < 2 ^ 16 →
      (v.toNat < s.ringSize ring →
        ∃ t, exec (.cmdqDoorbell ring 0 8 v) s = .next t ∧ t.fld pgCMDQ (Reg.CMDQ_R_IDX_TAIL ring) = v.toNat ∧
          kget (fun _ => 0) t.doorbells ring = v ∧ t = { s with regs := t.regs, doorbells := t.doorbells } ∧
          RegFrame ((Reg.CMDQ_R_IDX_TAIL ring).bits pgCMDQ) s t) ∧
      (s.ringSize ring ≤ v.toNat → s.quietError pgCMDQ Src.cmdq_TAIL_RANGE →
        ∃ t, exec (.cmdqDoorbell ring 0 8 v) s = .next t ∧ Recorded pgCMDQ Src.cmdq_TAIL_RANGE t ∧
          RegFrame (errBits pgCMDQ Src.cmdq_TAIL_RANGE) s t)) ∧
    (s.fetches ring = true →
      (∀ (e : List Byte), e.length = 64 →
        let c := parseCmd e
        let next := fun (t : State) => t.fld pgCMDQ (Reg.CMDQ_R_IDX_HEAD ring) =
          (s.fld pgCMDQ (Reg.CMDQ_R_IDX_HEAD ring) + 1) % s.ringSize ring % 2 ^ 16
        c.code = bytesAt e 0 1 ∧ c.tag = word (bytesAt e 4 4) ∧ c.op0 = word (bytesAt e 8 8) ∧
        c.op1 = word (bytesAt e 16 8) ∧ c.op2 = word (bytesAt e 24 8) ∧
        (c.bad = false → (∀ d ∈ (s.ring ring).waiting, d.bad = false) →
          ∃ t, exec (.cmdEntryFetch ring (some e)) s = .next t ∧ next t ∧
            t.ring ring = { s.ring ring with waiting := (s.ring ring).waiting ++ [c] } ∧
            t = { s with regs := t.regs, rings := t.rings } ∧ RegFrame ((Reg.CMDQ_R_IDX_HEAD ring).bits pgCMDQ) s t) ∧
        (c.bad = true → (s.ring ring).waiting = [] → s.serves ring = true → s.quietError pgCMDQ Src.cmdq_ENTRY_INVALID →
          ∃ t, exec (.cmdEntryFetch ring (some e)) s = .next t ∧ next t ∧ RingCompleted ring c [] 37 0 0 0 t ∧
            Recorded pgCMDQ Src.cmdq_ENTRY_INVALID t)) ∧
      (s.quietError pgCMDQ Src.cmdq_RING_FETCH →
        ∃ t, exec (.cmdEntryFetch ring none) s = .next t ∧ t.bit pgCMDQ (Reg.CMDQ_R_CFG_EN ring) = false ∧
          Recorded pgCMDQ Src.cmdq_RING_FETCH t ∧ t.rings = s.rings)) ∧
    (∀ (r : HostReq) (c : Cpl), s.cplOut ring = some r → (s.ring ring).cpls = [c] →
      let tail := (s.fld pgCMDQ (Reg.CMDQ_R_IDX_CPL_TAIL ring) + 1) % s.ringSize ring
      let vec := s.fld pgCMDQ (Reg.CMDQ_R_CFG_VECTOR ring)
      ∃ t, exec (.cplWriteAck ring) s = .next t ∧ t.fld pgCMDQ (Reg.CMDQ_R_IDX_CPL_TAIL ring) = tail % 2 ^ 16 ∧
        t.ring ring = { s.ring ring with cpls := [], phase := if tail = 0 then !(s.ring ring).phase else (s.ring ring).phase } ∧
        t.link.reqs = (s.link.reqs.filter fun q => q.id != r.id) ∧
        (s.bit pgCMDQ (Reg.CMDQ_R_CFG_CPL_INT ring) = false → t.out = s.out) ∧
        (s.bit pgCMDQ (Reg.CMDQ_R_CFG_CPL_INT ring) = true → s.link.fnMask = false → vec ∈ s.link.unmasked →
          t.out = .msix vec :: s.out) ∧
        t = { s with regs := t.regs, rings := t.rings, link := t.link, out := t.out } ∧
        RegFrame ((Reg.CMDQ_R_IDX_CPL_TAIL ring).bits pgCMDQ) s t) ∧
    ∀ (c : Cmd) (rest : List Cmd), s.nextCmd ring 1 c rest →
      ∃ t, exec (.nop ring) s = .next t ∧ RingCompleted ring c rest 0 0 0 0 t ∧ CplFrame s t

/-- R57, R58, R63, R64, R69: a plan is admitted or refused with a code, its image copied and its digest checked; PLAN_START,
PLAN_STOP, PLAN_ABORT, PLAN_UNLOAD and PLAN_SET_PARAM change the state of their slot, or complete with 32 in a state in which
they are not valid. -/
def Obligations.PlanCommands : Prop :=
  ∀ (s : State) (ring : Fin 16) (c : Cmd) (rest : List Cmd),
    (s.nextCmd ring 0x10 c rest → s.admission = none → (∀ b ∈ planBlocks, s.enabled b = true) → 256 ≤ c.op2.toNat →
      ∀ (p : Nat) (image : Option (List Byte)), p < 16 → s.slotState p = 0 →
      (if c.op1.toNat.testBit 28 then ∀ q, q < p → s.slotState q ≠ 0 else p = opSlot c.op1) →
      let f := if opDev c.op1 then s.fetchDev c.op0.toNat c.op2.toNat else fetchHost c.op2.toNat (image.getD [])
      (∀ a, s.admitPlan p f c.op2.toNat = .ok a →
        ∃ t load, exec (.planLoad ring image) s = .next t ∧ t.slotState p = 1 ∧ RingBusy ring s t ∧
          t.slot p = { image := f.img, load := load, alloc := a } ∧ load.addr = c.op0 ∧ load.len = c.op2.toNat ∧
          load.dev = opDev c.op1 ∧ t.admission = some { slot := p, ring := ring, tag := c.tag } ∧
          t = { s with regs := t.regs, rings := t.rings, slots := t.slots, admission := t.admission } ∧
          RegFrame ((Reg.PLAN_P_STAT_STATE p).bits pgPLAN) s t) ∧
      (∀ r, s.admitPlan p f c.op2.toNat = .error r →
        ∃ t info, exec (.planLoad ring image) s = .next t ∧ RingCompleted ring c rest r.code p 0 info t ∧ t.slotState p = 0 ∧
          t.slots = s.slots ∧ t.admission = none ∧ t.fld pgPLAN Reg.PLAN_ADMIT_REASON = r.code % 2 ^ 8)) ∧
    (∀ (a : Admission) (copy : Option (List Byte)) (bs : List Byte), s.admission = some a → a.slot < 16 →
      (s.ring a.ring).waiting = c :: rest →
      s.operandBytes (s.slot a.slot).load.dev (s.slot a.slot).load.addr.toNat (s.slot a.slot).load.len copy = some bs →
      let img := s.image a.slot
      (imageDigest bs = img.digest →
        ∃ t, exec (.admissionCopyDone copy) s = .next t ∧ t.slotState a.slot = 2 ∧ t.admission = none ∧
          RingCompleted a.ring c rest 0 a.slot 0 0 t ∧ (t.slot a.slot).image = overlay img bs ∧
          (t.slot a.slot).digest = img.digest ∧ (t.slot a.slot).alloc = (s.slot a.slot).alloc ∧
          t.fld pgSEC Reg.SEC_LOG_CTL_TOTAL = (s.fld pgSEC Reg.SEC_LOG_CTL_TOTAL + 1) % 2 ^ 48) ∧
      (imageDigest bs ≠ img.digest →
        ∃ t, exec (.admissionCopyDone copy) s = .next t ∧ t.slotState a.slot = 0 ∧ t.admission = none ∧ t.slot a.slot = {} ∧
          RingCompleted a.ring c rest 6 a.slot 0 0 t)) ∧
    (s.enabled pgPLAN = true →
      let p := opSlot c.op1
      let ended := fun (i : Instr) (state : Nat) (t : State) => exec i s = .next t ∧ RingCompleted ring c rest 0 p 0 0 t ∧
        t.slotState p = state
      (∀ i code valid, (i, code, valid) ∈ ([(.planStart ring, 0x11, [2]), (.planStop ring, 0x12, [3]), (.planAbort ring, 0x13, [3, 4, 7]),
          (.planUnload ring, 0x14, [2, 5, 7])] : List (Instr × Nat × List Nat)) → s.nextCmd ring code c rest →
        s.slotState p ∉ valid → ∃ t, exec i s = .next t ∧ RingCompleted ring c rest 32 p 0 0 t ∧ CplFrame s t) ∧
      (s.nextCmd ring 0x11 c rest → s.slotState p = 2 → (s.slot p).tablesLoaded = true → (s.slot p).alloc.aligns = [] →
        (s.image p).cadence = none →
        ∃ t, ended (.planStart ring) 3 t ∧ (t.slot p).runs = [] ∧ (t.slot p).next = s.oldestChunk p ∧
          ∀ q, q < 16 → q ≠ p → t.slotState q = s.slotState q) ∧
      (s.nextCmd ring 0x12 c rest → s.slotState p = 3 → (s.image p).events = none → (s.slot p).stopWaits = [] →
        ((s.slot p).runs ≠ [] →
          ∃ t, exec (.planStop ring) s = .next t ∧ t.slotState p = 4 ∧ RingBusy ring s t ∧
            t.slot p = { s.slot p with stopWaits := [(ring.val, c.tag)] } ∧
            t = { s with regs := t.regs, rings := t.rings, slots := t.slots } ∧
            RegFrame ((Reg.PLAN_P_STAT_STATE p).bits pgPLAN) s t) ∧
        ((s.slot p).runs = [] → (∀ k ∈ (s.slot p).chunks, k.done = true) → ∃ t, ended (.planStop ring) 2 t)) ∧
      (s.nextCmd ring 0x13 c rest → s.slotState p ∈ [3, 4, 7] → (s.slot p).stopWaits = [] →
        ∃ t, ended (.planAbort ring) (if s.slotState p = 7 then 7 else 2) t ∧ (t.slot p).runs = [] ∧
          ∀ tile ∈ (s.slot p).alloc.tiles, t.runOf tile = none) ∧
      (s.nextCmd ring 0x14 c rest → s.slotState p ∈ [2, 5, 7] → (s.slot p).setWaits = [] → (s.own p).staged = none →
        (∀ tid, tid < 32 → ∀ ct, s.table tid = some ct → ct.slot = p → ct.job = none) → s.noWaits →
        ∃ t, ended (.planUnload ring) 0 t ∧ t.slot p = {} ∧ (∀ tile ∈ (s.slot p).alloc.tiles, t.tile tile = {}) ∧
          (∀ n ∈ (s.slot p).alloc.queues, t.queue n = none) ∧ ∀ e ∈ t.fsch.pool, e.slot ≠ p)) ∧
    (s.nextCmd ring 0x15 c rest → s.enabled pgPLAN = true →
      let p := c.op2.toNat / 2 ^ 8 % 2 ^ 4
      let cue := c.op2.toNat / 2 % 2 ^ 5
      let named := fun (k : Nat) => c.op1.toNat.testBit k = true
      ∀ (record : Option (List Word)) (bs : List Byte), s.slotState p ∈ [2, 3, 4] → (s.slot p).staged = [] →
        s.operandBytes (c.op2.toNat.testBit 33) c.op0.toNat 256 (record.map fun ws => ws.flatMap fun w => leBytes 8 w.toNat) = some bs →
        (∀ k, k < 32 → named k → k < (s.image p).nParams ∧ ((s.image p).param k).inRange (bytesAt bs (8 * k) 8) = true ∧
          (s.slotState p ≠ 2 → ((s.image p).param k).static_ = true → ((s.slot p).params.getD k 0).toNat = bytesAt bs (8 * k) 8)) →
        (c.op2.toNat.testBit 0 = false →
          ∃ t, exec (.planSetParam ring record) s = .next t ∧
            RingCompleted ring c rest 0 p 0 ((s.fld pgPLAN (Reg.PLAN_P_PGEN_GEN p) + 1) % 2 ^ 32) t ∧ (t.slot p).staged = [] ∧
            (t.slot p).params.length = (s.slot p).params.length ∧
            (∀ k, k < 32 → k < (s.slot p).params.length → (t.slot p).params.getD k 0 =
              if c.op1.toNat.testBit k then word (bytesAt bs (8 * k) 8) else (s.slot p).params.getD k 0) ∧
            t.fld pgPLAN (Reg.PLAN_P_PGEN_APPLY_BEAT p) = s.beat % 2 ^ 32) ∧
        (c.op2.toNat.testBit 0 = true → s.cueAllowed p cue = true →
          ∃ t, exec (.planSetParam ring record) s = .next t ∧ RingBusy ring s t ∧
            (t.slot p).setWaits = (s.slot p).setWaits ++ [{ ring := ring, tag := c.tag, cue := cue }] ∧
            (∀ k, k < 32 → kget (fun _ => none) (t.slot p).staged k =
              if c.op1.toNat.testBit k then some (word (bytesAt bs (8 * k) 8)) else none) ∧
            (t.slot p).params = (s.slot p).params ∧ t = { s with rings := t.rings, slots := t.slots }))
/-- A step takes the command at the front of the queue and is that command's effect on the state with the rest of the
queue; with no command waiting one beat passes where BEAT counts, and nothing else changes (R341; log 2 is the model's own
choice). -/
def Obligations.StepRunsCommand : Prop :=
  (∀ (s : State) (c : Instr) (rest : List Instr), step { s with pending := c :: rest } = exec c { s with pending := rest }) ∧
    ∀ (s : State), s.pending = [] → step s = .next { s with beat := if s.beatOn then s.beat + 1 else s.beat }

/-- R28, R41, R42, R454, R459: the machine held in power-on reset: every register at its reset value, canonical and empty
memory, nothing waiting, no plan, no table, BEAT not counting (the reset values of what the spec leaves open are those of
log 3). -/
def Obligations.ResetState : Prop :=
  State.reset.Inv ∧ State.reset.pending = [] ∧ State.reset.mem = {} ∧ State.reset.beatOn = false ∧
    (∀ page off, State.reset.rd page off = resetVal (regKey page off)) ∧ (∀ p, State.reset.slot p = {}) ∧
    (∀ t, State.reset.table t = none) ∧ (∀ n, State.reset.tile n = {}) ∧ State.reset.fltState = 0 ∧
    State.reset.bit pgGLB Reg.GLB_STAT_READY = false ∧ State.reset.pins.pwrok = false ∧
    ∀ b ∈ ([pgGLB, pgRST, pgPWR, pgCLK, pgFUSE, pgSEC, pgTHRM, pgSUPV, pgNOC, pgSTOR] : List Nat), State.reset.enabled b = true

/-- Every step keeps the register map, device memory and tile memory in canonical form, so that equal contents stay equal
data, and takes exactly the front command off the queue. -/
def Obligations.StepKeepsForm : Prop :=
  ∀ (s t : State), s.Inv → step s = .next t → t.Inv ∧ t.pending = s.pending.tail

/-- R423: a unit that a recovery has fenced stays fenced over every step but those that bring a cold boot: a power-on reset, a
cold reset, and a sample of the rails that holds the device in a power-on reset. -/
def Obligations.FencesLast : Prop :=
  ∀ (s t : State), s.Inv → step s = .next t →
    (∀ c rest, s.pending = c :: rest → (∀ cause env, c ≠ .powerOnReset cause env) ∧ (∀ env, c ≠ .coldReset env) ∧
      ∀ mv, c ≠ .supvSample mv) →
    ∀ u ∈ s.flt.fenced, u ∈ t.flt.fenced
end

