-- ==== Sys2Proof/Laws/KMap.lean ====
section
/-!
SUPPORT. The laws of sparse maps: a read after a write, and that writing keeps the canonical form.
-/

namespace Sys2Proof.Machine

variable {α : Type}

theorem kfind_kins (m : KMap α) (q r : Nat) (x : α) :
    kfind (kins m q x) r = if r = q then some x else kfind m r := by
  induction m with
  | nil => simp [kins, kfind]
  | cons p m ih =>
    obtain ⟨k, v⟩ := p
    simp only [kins]
    split
    · simp [kfind]
    · split
      · subst_vars; simp [kfind]; split <;> simp_all
      · simp only [kfind, ih]; split <;> split <;> simp_all

theorem krises_mono {lo lo' : Nat} {m : KMap α} (h : krises lo m = true) (hle : lo' ≤ lo) :
    krises lo' m = true := by
  cases m with
  | nil => rfl
  | cons p m => simp only [krises, Bool.and_eq_true, decide_eq_true_eq] at h ⊢; exact ⟨by omega, h.2⟩

theorem kfind_kdel (m : KMap α) (q r : Nat) : kfind (kdel m q) r = if r = q then none else kfind m r := by
  induction m with
  | nil => simp [kdel, kfind]
  | cons p m ih =>
    obtain ⟨k, v⟩ := p
    simp only [kdel]
    split
    · subst_vars; simp only [ih, kfind]; split <;> simp_all
    · simp only [kfind, ih]; split <;> split <;> simp_all

theorem krises_kins {lo : Nat} {m : KMap α} (h : krises lo m = true) {q : Nat} (hq : lo ≤ q) (x : α) :
    krises lo (kins m q x) = true := by
  induction m generalizing lo with
  | nil => simp [kins, krises, hq]
  | cons p m ih =>
    obtain ⟨k, v⟩ := p
    simp only [krises, Bool.and_eq_true, decide_eq_true_eq] at h
    simp only [kins]
    split
    · simp [krises, hq, h.2]; omega
    · split
      · subst_vars; simp [krises, hq, h.2]
      · simp only [krises, Bool.and_eq_true, decide_eq_true_eq]
        exact ⟨h.1, ih h.2 (by omega)⟩

theorem krises_kdel {lo : Nat} {m : KMap α} (h : krises lo m = true) (q : Nat) :
    krises lo (kdel m q) = true := by
  induction m generalizing lo with
  | nil => rfl
  | cons p m ih =>
    simp only [krises, Bool.and_eq_true, decide_eq_true_eq] at h
    simp only [kdel]
    split
    · exact krises_mono (ih h.2) (by omega)
    · simp only [krises, Bool.and_eq_true, decide_eq_true_eq]; exact ⟨h.1, ih h.2⟩

theorem mem_kins {m : KMap α} {q : Nat} {x : α} {p : Nat × α} (h : p ∈ kins m q x) : p = (q, x) ∨ p ∈ m := by
  induction m with
  | nil => simpa [kins] using h
  | cons a m ih =>
    obtain ⟨k, v⟩ := a
    simp only [kins] at h
    split at h
    · simpa using h
    · split at h
      · simp only [List.mem_cons] at h ⊢; tauto
      · simp only [List.mem_cons] at h ⊢
        rcases h with h | h
        · exact .inr (.inl h)
        · rcases ih h with h | h
          · exact .inl h
          · exact .inr (.inr h)

theorem mem_kdel {m : KMap α} {q : Nat} {p : Nat × α} (h : p ∈ kdel m q) : p ∈ m := by
  induction m with
  | nil => simpa [kdel] using h
  | cons a m ih =>
    simp only [kdel] at h
    split at h
    · exact List.mem_cons_of_mem _ (ih h)
    · simp only [List.mem_cons] at h ⊢
      rcases h with h | h
      · exact .inl h
      · exact .inr (ih h)

variable [DecidableEq α] {d : Nat → α}

/-- A read after a write to the same key gives the value written. -/
@[simp] theorem kget_kset_self (m : KMap α) (q : Nat) (x : α) : kget d (kset d m q x) q = x := by
  simp only [kget, kset]
  split
  · next hx => rw [kfind_kdel]; simp [hx]
  · rw [kfind_kins]; simp

/-- A write leaves every other key alone. -/
theorem kget_kset_ne (m : KMap α) {q r : Nat} (hr : r ≠ q) (x : α) :
    kget d (kset d m q x) r = kget d m r := by
  simp only [kget, kset]
  split
  · rw [kfind_kdel]; simp [hr]
  · rw [kfind_kins]; simp [hr]

/-- What a write does to every key. -/
theorem kget_kset (m : KMap α) (q r : Nat) (x : α) :
    kget d (kset d m q x) r = if r = q then x else kget d m r := by
  split
  · next h => rw [h, kget_kset_self]
  · next h => exact kget_kset_ne m h x

/-- Writing keeps the canonical form. -/
theorem kwf_kset {m : KMap α} (h : kwf d m = true) (q : Nat) (x : α) : kwf d (kset d m q x) = true := by
  simp only [kwf, Bool.and_eq_true, List.all_eq_true] at h ⊢
  simp only [kset]
  split
  · exact ⟨krises_kdel h.1 q, fun p hp => h.2 p (mem_kdel hp)⟩
  · next hx =>
    refine ⟨krises_kins h.1 (Nat.zero_le _) x, fun p hp => ?_⟩
    rcases mem_kins hp with rfl | hp
    · simpa using hx
    · exact h.2 p hp

end Sys2Proof.Machine
end

