-- ==== Sys2Proof/Laws/Keep.lean ====
section
/-!
SUPPORT. What every operation of the model keeps, said once: the queue of waiting commands, the canonical form of the
register map, of device memory and of tile memory, and the units that are fenced. `Keep q u s` says that `s` has queue
`q`, canonical maps and every unit of `u` fenced; `OKeep`, `PKeep` and `QKeep` say it of an outcome, of an optional
state and of an optional state with a result. The lemmas keep_<function> of the files after this one cover every
function that answers a state.
-/

namespace Sys2Proof.Machine
open Sys2Proof
/-- The queue is `q`, the maps are canonical, every unit of `u` is fenced. -/
structure Keep (q : List Instr) (u : List FUnit) (s : State) : Prop where
  pending : s.pending = q
  regs : kwf resetVal s.regs = true
  dev : kwf memDefault s.mem.dev = true
  tile : kwf memDefault s.mem.tile = true
  fenced : ∀ x ∈ u, x ∈ s.flt.fenced
variable {q : List Instr} {u : List FUnit} {s : State}
def OKeep (q : List Instr) (u : List FUnit) : Out → Prop
  | .next t => Keep q u t
  | _ => True
def PKeep (q : List Instr) (u : List FUnit) : Option State → Prop
  | some t => Keep q u t
  | none => True
theorem Keep.foldl1 {α β : Type} {g : State × β → α → State × β} {l : List α} {s : State × β} (h : Keep q u s.1)
    (hg : ∀ t a, Keep q u t.1 → Keep q u (g t a).1) : Keep q u (l.foldl g s).1 := by
  induction l generalizing s with
  | nil => exact h
  | cons a l ih => exact ih (hg s a h)
theorem Keep.ite {c : Prop} {inst : Decidable c} {a b : State} (ha : Keep q u a) (hb : Keep q u b) : Keep q u (if c then a else b) := by
  split
  · exact ha
  · exact hb
theorem OKeep.ite {c : Prop} {inst : Decidable c} {a b : Out} (ha : OKeep q u a) (hb : OKeep q u b) : OKeep q u (if c then a else b) := by
  split
  · exact ha
  · exact hb
theorem PKeep.ite {c : Prop} {inst : Decidable c} {a b : Option State} (ha : PKeep q u a) (hb : PKeep q u b) : PKeep q u (if c then a else b) := by
  split
  · exact ha
  · exact hb
theorem Keep.eq1 {α : Type} {e : State × α} {a : α} {x : State} (he : e = (x, a)) (h : Keep q u e.1) : Keep q u x := by rw [he] at h; exact h
theorem Keep.eq2 {α : Type} {e : α × State} {a : α} {x : State} (he : e = (a, x)) (h : Keep q u e.2) : Keep q u x := by rw [he] at h; exact h
theorem PKeep.eq {e : Option State} {x : State} (he : e = some x) (h : PKeep q u e) : Keep q u x := by rw [he] at h; exact h
def QKeep {β : Type} (q : List Instr) (u : List FUnit) : Option (State × β) → Prop
  | some t => Keep q u t.1
  | none => True
theorem QKeep.eq {β : Type} {e : Option (State × β)} {x : State} {b : β} (he : e = some (x, b)) (h : QKeep q u e) : Keep q u x := by rw [he] at h; exact h
theorem QKeep.eq1 {β : Type} {e : Option (State × β)} {x : State × β} (he : e = some x) (h : QKeep q u e) : Keep q u x.1 := by rw [he] at h; exact h
theorem QKeep.map {β γ : Type} {e : Option (State × β)} {f : State × β → State × γ} (h : QKeep q u e) (hf : ∀ x : State × β, Keep q u x.1 → Keep q u (f x).1) : QKeep q u (e.map f) := by
  cases e with
  | none => trivial
  | some x => exact hf x h
theorem PKeep.map {γ : Type} {e : Option State} {f : State → State × γ} (h : PKeep q u e) (hf : ∀ x : State, Keep q u x → Keep q u (f x).1) : QKeep q u (e.map f) := by
  cases e with
  | none => trivial
  | some x => exact hf x h
theorem PKeep.bind {e : Option State} {f : State → Option State} (h : PKeep q u e) (hf : ∀ x : State, Keep q u x → PKeep q u (f x)) : PKeep q u (e.bind f) := by
  cases e with
  | none => trivial
  | some x => exact hf x h
theorem PKeep.foldl {α : Type} {g : Option State → α → Option State} {l : List α} {s : Option State} (h : PKeep q u s)
    (hg : ∀ t a, PKeep q u t → PKeep q u (g t a)) : PKeep q u (l.foldl g s) := by
  induction l generalizing s with
  | nil => exact h
  | cons a l ih => exact ih (hg s a h)
theorem QKeep.ite {β : Type} {c : Prop} {inst : Decidable c} {a b : Option (State × β)} (ha : QKeep q u a) (hb : QKeep q u b) : QKeep q u (if c then a else b) := by
  split
  · exact ha
  · exact hb
theorem PKeep.bind' {α : Type} {e : Option α} {f : α → Option State} (hf : ∀ x : α, PKeep q u (f x)) : PKeep q u (e.bind f) := by
  cases e with
  | none => trivial
  | some x => exact hf x
theorem PKeep.map' {α : Type} {e : Option α} {f : α → State} (hf : ∀ x : α, Keep q u (f x)) : PKeep q u (e.map f) := by
  cases e with
  | none => trivial
  | some x => exact hf x
theorem PKeep.map0 {e : Option State} {f : State → State} (h : PKeep q u e) (hf : ∀ x : State, Keep q u x → Keep q u (f x)) : PKeep q u (e.map f) := by
  cases e with
  | none => trivial
  | some x => exact hf x h
theorem Keep.cut {P Q : Prop} (a : P) (b : P → Q) : Q := b a
theorem Keep.foldl {α : Type} {g : State → α → State} {l : List α} (h : Keep q u s)
    (hg : ∀ t a, Keep q u t → Keep q u (g t a)) : Keep q u (l.foldl g s) := by
  induction l generalizing s with
  | nil => exact h
  | cons a l ih => exact ih (hg s a h)
theorem Keep.same {t : State} (h : Keep q u s) (h1 : t.pending = s.pending) (h2 : t.regs = s.regs) (h3 : t.mem = s.mem)
    (h4 : t.flt.fenced = s.flt.fenced) : Keep q u t :=
  ⟨h1.trans h.1, by rw [h2]; exact h.2, by rw [h3]; exact h.3, by rw [h3]; exact h.4, by rw [h4]; exact h.5⟩
theorem keep_State_wr (s : State) (page off : Nat) (v : Word) (h : Keep q u s) : Keep q u (s.wr page off v) :=
  ⟨h.1, kwf_kset h.2 _ _, h.3, h.4, h.5⟩
theorem Keep.mk' {regs staged pending out free beat beatOn beatHold mem slots admission rings doorbells tiles fsch queues owns car
    shares probeUnits decs cmps draws opOuts augs augRows cues time buckets link pins flt sec pwr} (h : Keep q u s)
    (h1 : pending = s.pending) (h2 : regs = s.regs) (h3 : mem.dev = s.mem.dev) (h3' : mem.tile = s.mem.tile)
    (h4 : flt.fenced = s.flt.fenced ∨ ∃ l, flt.fenced = s.flt.fenced ++ l) :
    Keep q u (State.mk regs staged pending out free beat beatOn beatHold mem slots admission rings doorbells tiles fsch queues owns car
    shares probeUnits decs cmps draws opOuts augs augRows cues time buckets link pins flt sec pwr) :=
  ⟨h1.trans h.1, by show kwf resetVal regs = true; rw [h2]; exact h.2, by show kwf memDefault mem.dev = true; rw [h3]; exact h.3,
    by show kwf memDefault mem.tile = true; rw [h3']; exact h.4, fun x hx => by
      show x ∈ flt.fenced
      rcases h4 with h4 | ⟨l, h4⟩ <;> rw [h4]
      · exact h.5 x hx
      · exact List.mem_append_left _ (h.5 x hx)⟩
theorem kwf_nil {α : Type} [DecidableEq α] (d : Nat → α) : kwf d [] = true := rfl
theorem krises_filter {α : Type} {lo : Nat} {m : KMap α} (p : Nat × α → Bool) (h : krises lo m = true) : krises lo (m.filter p) = true := by
  induction m generalizing lo with
  | nil => rfl
  | cons a m ih =>
    simp only [krises, Bool.and_eq_true, decide_eq_true_eq] at h
    simp only [List.filter]
    split
    · simp only [krises, Bool.and_eq_true, decide_eq_true_eq]; exact ⟨h.1, ih h.2⟩
    · exact krises_mono (ih h.2) (by omega)
theorem kwf_filter {α : Type} [DecidableEq α] {d : Nat → α} {m : KMap α} (p : Nat × α → Bool) (h : kwf d m = true) : kwf d (m.filter p) = true := by
  simp only [kwf, Bool.and_eq_true, List.all_eq_true] at h ⊢
  exact ⟨krises_filter p h.1, fun x hx => h.2 x (List.mem_filter.1 hx).1⟩
theorem keep_setCells {m : List Host.Cell} {k : Nat} {bs : List Byte} (h : kwf memDefault m = true) :
    kwf memDefault (setCells m k bs) = true := by
  induction bs generalizing m k with
  | nil => exact h
  | cons b bs ih => exact ih (kwf_kset h _ _)
theorem kwf_foldl {α β : Type} [DecidableEq α] {d : Nat → α} {f : β → Nat × α} {l : List β} {m : KMap α} (h : kwf d m = true) :
    kwf d (l.foldl (fun m p => kset d m (f p).1 (f p).2) m) = true := by
  induction l generalizing m with
  | nil => exact h
  | cons a l ih => exact ih (kwf_kset h _ _)
theorem keep_Bits_wf (m : KMap Word) (f : Nat → Nat → Nat) : kwf resetVal (keepBits m f) = true := by
  unfold keepBits
  exact kwf_foldl (f := fun p : Nat × Word => (p.1, word ((resetVal p.1).toNat - ((resetVal p.1).toNat &&& f (p.1 / 0x1000) (p.1 % 0x1000)) + (p.2.toNat &&& f (p.1 / 0x1000) (p.1 % 0x1000))))) rfl
end Sys2Proof.Machine
end

