-- ==== Sys2Proof/Laws/KeepOps.lean ====
section
/-!
SUPPORT. The keep lemmas of registers, memory, completions, streams and errors.
-/

namespace Sys2Proof.Machine

open Sys2Proof

variable {kq : List Instr} {ku : List FUnit}

theorem keep_State_setFld (s : State) (page : Nat) (f : Fld) (v : Nat) (kh : Keep kq ku s) : Keep kq ku (State.setFld s page f v) := by
  unfold State.setFld
  with_reducible apply keep_State_wr
  with_reducible assumption

theorem keep_State_setBit (s : State) (page : Nat) (f : Fld) (b : Bool) (kh : Keep kq ku s) : Keep kq ku (State.setBit s page f b) := by
  unfold State.setBit
  with_reducible apply keep_State_setFld
  with_reducible assumption

theorem keep_State_addSat (s : State) (page : Nat) (f : Fld) (n : Nat) (kh : Keep kq ku s) : Keep kq ku (State.addSat s page f n) := by
  unfold State.addSat
  with_reducible apply keep_State_setFld
  with_reducible assumption

theorem keep_State_addWrap (s : State) (page : Nat) (f : Fld) (n : Nat) (kh : Keep kq ku s) : Keep kq ku (State.addWrap s page f n) := by
  unfold State.addWrap
  with_reducible apply keep_State_setFld
  with_reducible assumption

theorem keep_State_perf (s : State) (page ev n : Nat) (kh : Keep kq ku s) : Keep kq ku (State.perf s page ev n) := by
  unfold State.perf
  refine Keep.ite ?_ ?_
  · with_reducible assumption
  · refine Keep.foldl ?_ ?_
    · with_reducible assumption
    · intro _ _ _
      refine Keep.ite ?_ ?_
      · with_reducible apply keep_State_addSat
        with_reducible assumption
      · with_reducible assumption

theorem keep_State_emit (s : State) (m : Msg) (kh : Keep kq ku s) : Keep kq ku (State.emit s m) := by
  unfold State.emit
  with_reducible refine Keep.mk' ?_ rfl rfl rfl rfl (.inl rfl)
  with_reducible assumption

theorem keep_State_msix (s : State) (vec : Nat) (kh : Keep kq ku s) : Keep kq ku (State.msix s vec) := by
  unfold State.msix
  refine Keep.ite ?_ ?_
  · with_reducible refine Keep.mk' ?_ rfl rfl rfl rfl (.inl rfl)
    with_reducible assumption
  · with_reducible apply keep_State_emit
    with_reducible assumption

theorem keep_State_raise (s : State) (page bit : Nat) (kh : Keep kq ku s) : Keep kq ku (State.raise s page bit) := by
  unfold State.raise
  extract_lets +onlyGivenNames x0
  refine Keep.ite ?_ ?_
  · with_reducible assumption
  · extract_lets +onlyGivenNames x1
    refine Keep.cut (P := Keep kq ku x1) ?_ fun h2 => ?_
    · unfold x1
      with_reducible apply keep_State_wr
      with_reducible assumption
    refine Keep.ite ?_ ?_
    · with_reducible apply keep_State_msix
      with_reducible assumption
    · with_reducible assumption

theorem keep_State_reject (s : State) (page off cause : Nat) (kh : Keep kq ku s) : Keep kq ku (State.reject s page off cause) := by
  unfold State.reject
  extract_lets +onlyGivenNames x0
  refine Keep.cut (P := Keep kq ku x0) ?_ fun h1 => ?_
  · unfold x0
    with_reducible apply keep_State_perf
    with_reducible assumption
  refine Keep.ite ?_ ?_
  · with_reducible assumption
  · with_reducible apply keep_State_raise
    with_reducible apply keep_State_setFld
    with_reducible apply keep_State_setFld
    with_reducible apply keep_State_setBit
    with_reducible assumption

theorem keep_State_applyStaged (s : State) (page : Nat) (h : Keep kq ku s) : Keep kq ku (s.applyStaged page) := by
  unfold State.applyStaged
  split
  · have h1 : ∀ rs st, kwf resetVal rs = true → Keep kq ku { s with regs := rs, staged := st } :=
      fun rs st hr => ⟨h.1, hr, h.3, h.4, h.5⟩
    apply keep_State_raise
    apply keep_State_setFld
    apply keep_State_addWrap
    apply h1
    exact kwf_foldl (f := fun p : Nat × Word => p) h.2
  · exact h

theorem keep_State_gongAt (s : State) (page : Nat) (kh : Keep kq ku s) : Keep kq ku (State.gongAt s page) := by
  unfold State.gongAt
  refine Keep.ite ?_ ?_
  · with_reducible apply keep_State_applyStaged
    with_reducible assumption
  · with_reducible assumption

theorem keep_State_cueAt (s : State) (page cue : Nat) (kh : Keep kq ku s) : Keep kq ku (State.cueAt s page cue) := by
  unfold State.cueAt
  refine Keep.ite ?_ ?_
  · with_reducible apply keep_State_setBit
    with_reducible apply keep_State_applyStaged
    with_reducible assumption
  · with_reducible assumption

theorem keep_State_fresh (s : State) (kh : Keep kq ku s) : Keep kq ku (State.fresh s).2 := by
  unfold State.fresh
  dsimp -zeta only
  with_reducible refine Keep.mk' ?_ rfl rfl rfl rfl (.inl rfl)
  with_reducible assumption

theorem keep_State_setSlot (s : State) (p : Nat) (x : PlanSlot) (kh : Keep kq ku s) : Keep kq ku (State.setSlot s p x) := by
  unfold State.setSlot
  with_reducible refine Keep.mk' ?_ rfl rfl rfl rfl (.inl rfl)
  with_reducible assumption

theorem keep_State_writeDev (s : State) (a : Nat) (bs : List Byte) (poison : Bool) (h : Keep kq ku s) :
    Keep kq ku (s.writeDev a bs poison) :=
  ⟨h.1, h.2, kwf_foldl (f := fun p : Nat × Byte => p) h.3, h.4, h.5⟩

theorem keep_State_tmWrite (s : State) (tile off : Nat) (bs : List Byte) (h : Keep kq ku s) :
    Keep kq ku (s.tmWrite tile off bs) := ⟨h.1, h.2, h.3, keep_setCells h.4, h.5⟩

theorem keep_State_setTile (s : State) (n : Nat) (t : Tile) (kh : Keep kq ku s) : Keep kq ku (State.setTile s n t) := by
  unfold State.setTile
  with_reducible refine Keep.mk' ?_ rfl rfl rfl rfl (.inl rfl)
  with_reducible assumption

theorem keep_State_setThread (s : State) (n k : Nat) (x : Thread) (kh : Keep kq ku s) : Keep kq ku (State.setThread s n k x) := by
  unfold State.setThread
  with_reducible apply keep_State_setTile
  with_reducible assumption

theorem keep_State_setRing (s : State) (n : Nat) (r : Ring) (kh : Keep kq ku s) : Keep kq ku (State.setRing s n r) := by
  unfold State.setRing
  with_reducible refine Keep.mk' ?_ rfl rfl rfl rfl (.inl rfl)
  with_reducible assumption

theorem keep_State_holdReq (s : State) (r : HostReq) (kh : Keep kq ku s) : Keep kq ku (State.holdReq s r) := by
  unfold State.holdReq
  with_reducible refine Keep.mk' ?_ rfl rfl rfl rfl (.inl rfl)
  with_reducible assumption

theorem keep_State_sendReq (s : State) (r : HostReq) (kh : Keep kq ku s) : Keep kq ku (State.sendReq s r) := by
  unfold State.sendReq
  split
  · with_reducible apply keep_State_holdReq
    with_reducible assumption
  · with_reducible assumption
  · with_reducible apply keep_State_holdReq
    with_reducible assumption
  · extract_lets +onlyGivenNames x0
    with_reducible apply keep_State_perf
    with_reducible refine Keep.mk' ?_ rfl rfl rfl rfl (.inl rfl)
    with_reducible assumption

theorem keep_State_issueHost (s : State) (kind : ReqKind) (addr : Nat) (data : List Byte) (src : ReqSrc) (kh : Keep kq ku s) : Keep kq ku (State.issueHost s kind addr data src) := by
  unfold State.issueHost
  extract_lets +onlyGivenNames x0
  with_reducible apply keep_State_sendReq
  with_reducible refine Keep.mk' ?_ rfl rfl rfl rfl (.inl rfl)
  with_reducible assumption

theorem keep_State_releaseHeld (s : State) (kh : Keep kq ku s) : Keep kq ku (State.releaseHeld s) := by
  unfold State.releaseHeld
  extract_lets +onlyGivenNames x0
  refine Keep.foldl ?_ ?_
  · with_reducible refine Keep.mk' ?_ rfl rfl rfl rfl (.inl rfl)
    with_reducible assumption
  · intro _ _ _
    with_reducible apply keep_State_sendReq
    with_reducible assumption

theorem keep_State_sendCpl (s : State) (n : Nat) (kh : Keep kq ku s) : Keep kq ku (State.sendCpl s n) := by
  unfold State.sendCpl
  split
  · with_reducible assumption
  · refine Keep.ite ?_ ?_
    · with_reducible assumption
    · extract_lets +onlyGivenNames x0
      extract_lets +onlyGivenNames x1
      with_reducible apply keep_State_issueHost
      with_reducible assumption

theorem keep_State_pushCpl (s : State) (n : Nat) (c : Cpl) (kh : Keep kq ku s) : Keep kq ku (State.pushCpl s n c) := by
  unfold State.pushCpl
  extract_lets +onlyGivenNames x0
  extract_lets +onlyGivenNames x1
  refine Keep.cut (P := Keep kq ku x1) ?_ fun h2 => ?_
  · unfold x1
    with_reducible apply keep_State_setRing
    with_reducible assumption
  refine Keep.ite ?_ ?_
  · with_reducible apply keep_State_sendCpl
    with_reducible assumption
  · with_reducible assumption

theorem keep_State_completeOne (s : State) (n result slot count info : Nat) (kh : Keep kq ku s) : Keep kq ku (State.completeOne s n result slot count info) := by
  unfold State.completeOne
  extract_lets +onlyGivenNames x0
  split
  · with_reducible assumption
  · with_reducible apply keep_State_pushCpl
    with_reducible apply keep_State_setRing
    with_reducible assumption

theorem keep_State_settleFrom (k : Nat) (s : State) (n : Nat) (h : Keep kq ku s) : Keep kq ku (State.settleFrom k s n) := by
  induction k generalizing s with
  | zero => exact h
  | succ k ih =>
    unfold State.settleFrom
    split
    · split
      · exact ih _ (keep_State_completeOne _ _ _ _ _ _ h)
      · exact h
    · exact h

theorem keep_State_settleRing (s : State) (n : Nat) (kh : Keep kq ku s) : Keep kq ku (State.settleRing s n) := by
  unfold State.settleRing
  with_reducible apply keep_State_settleFrom
  with_reducible assumption

theorem keep_State_complete (s : State) (n result slot count info : Nat) (kh : Keep kq ku s) : Keep kq ku (State.complete s n result slot count info) := by
  unfold State.complete
  with_reducible apply keep_State_settleRing
  with_reducible apply keep_State_completeOne
  with_reducible assumption

theorem keep_State_setSlotState (s : State) (p st : Nat) (kh : Keep kq ku s) : Keep kq ku (State.setSlotState s p st) := by
  unfold State.setSlotState
  with_reducible apply keep_State_setFld
  with_reducible assumption

theorem keep_State_setReason (s : State) (p r : Nat) (kh : Keep kq ku s) : Keep kq ku (State.setReason s p r) := by
  unfold State.setReason
  with_reducible apply keep_State_setFld
  with_reducible assumption

theorem keep_State_writeRecord (s : State) (tile : Nat) (x : StrmSlot) (status cause : Nat) (kh : Keep kq ku s) : Keep kq ku (State.writeRecord s tile x status cause) := by
  unfold State.writeRecord
  extract_lets +onlyGivenNames x0
  refine Keep.cut (P := Keep kq ku x0) ?_ fun h1 => ?_
  · unfold x0
    with_reducible apply keep_State_tmWrite
    with_reducible assumption
  refine Keep.ite ?_ ?_
  · with_reducible assumption
  · refine Keep.foldl ?_ ?_
    · with_reducible assumption
    · intro _ _ _
      with_reducible apply keep_State_tmWrite
      with_reducible assumption

theorem keep_State_endStrm (s : State) (tile k status cause : Nat) (kh : Keep kq ku s) : Keep kq ku (State.endStrm s tile k status cause) := by
  unfold State.endStrm
  split
  · with_reducible assumption
  · refine Keep.ite ?_ ?_
    · with_reducible assumption
    · extract_lets +onlyGivenNames x0
      refine Keep.cut (P := Keep kq ku x0) ?_ fun h1 => ?_
      · unfold x0
        with_reducible apply keep_State_writeRecord
        with_reducible assumption
      extract_lets +onlyGivenNames x2
      extract_lets +onlyGivenNames x3
      with_reducible apply keep_State_setTile
      with_reducible assumption

theorem keep_State_abandonTile (s : State) (tile : Nat) (kh : Keep kq ku s) : Keep kq ku (State.abandonTile s tile) := by
  unfold State.abandonTile
  refine Keep.foldl ?_ ?_
  · with_reducible assumption
  · intro _ _ _
    with_reducible apply keep_State_endStrm
    with_reducible assumption

theorem keep_State_stopUnits (s : State) (p : Nat) (kh : Keep kq ku s) : Keep kq ku (State.stopUnits s p) := by
  unfold State.stopUnits
  extract_lets +onlyGivenNames x0
  with_reducible refine Keep.mk' ?_ rfl rfl rfl rfl (.inl rfl)
  with_reducible assumption

theorem keep_State_stopPlan (s : State) (p : Nat) (kh : Keep kq ku s) : Keep kq ku (State.stopPlan s p) := by
  unfold State.stopPlan
  extract_lets +onlyGivenNames x0
  refine Keep.cut (P := Keep kq ku x0) ?_ fun h1 => ?_
  · unfold x0
    refine Keep.foldl ?_ ?_
    · with_reducible assumption
    · intro _ _ _
      extract_lets +onlyGivenNames x2
      refine Keep.cut (P := Keep kq ku x2) ?_ fun h3 => ?_
      · unfold x2
        with_reducible apply keep_State_abandonTile
        with_reducible assumption
      with_reducible apply keep_State_setTile
      with_reducible assumption
  extract_lets +onlyGivenNames x4
  refine Keep.cut (P := Keep kq ku x4) ?_ fun h5 => ?_
  · unfold x4
    with_reducible apply keep_State_stopUnits
    with_reducible assumption
  with_reducible apply keep_State_setSlot
  with_reducible assumption

theorem keep_State_endAdmission (s : State) (code : Nat) (kh : Keep kq ku s) : Keep kq ku (State.endAdmission s code) := by
  unfold State.endAdmission
  split
  · with_reducible assumption
  · extract_lets +onlyGivenNames x0
    refine Keep.cut (P := Keep kq ku x0) ?_ fun h1 => ?_
    · unfold x0
      with_reducible apply keep_State_setSlot
      with_reducible refine Keep.mk' ?_ rfl rfl rfl rfl (.inl rfl)
      with_reducible assumption
    extract_lets +onlyGivenNames x2
    refine Keep.cut (P := Keep kq ku x2) ?_ fun h3 => ?_
    · unfold x2
      with_reducible apply keep_State_setReason
      with_reducible apply keep_State_setSlotState
      with_reducible assumption
    extract_lets +onlyGivenNames x4
    refine Keep.cut (P := Keep kq ku x4) ?_ fun h5 => ?_
    · unfold x4
      with_reducible apply keep_State_setFld
      with_reducible apply keep_State_setFld
      with_reducible assumption
    with_reducible apply keep_State_complete
    with_reducible assumption

theorem keep_State_logError (s : State) (page src sev : Nat) (forced : Bool) (kh : Keep kq ku s) : Keep kq ku (State.logError s page src sev forced) := by
  unfold State.logError
  extract_lets +onlyGivenNames x0
  refine Keep.cut (P := Keep kq ku x0) ?_ fun h1 => ?_
  · unfold x0
    with_reducible apply keep_State_wr
    with_reducible assumption
  refine Keep.ite ?_ ?_
  · with_reducible assumption
  · extract_lets +onlyGivenNames x2
    refine Keep.cut (P := Keep kq ku x2) ?_ fun h3 => ?_
    · unfold x2
      refine Keep.ite ?_ ?_
      · with_reducible assumption
      · with_reducible apply keep_State_wr
        with_reducible assumption
    with_reducible apply keep_State_raise
    with_reducible assumption

theorem keep_State_goDown (s : State) (kh : Keep kq ku s) : Keep kq ku (State.goDown s) := by
  unfold State.goDown
  with_reducible apply keep_State_raise
  with_reducible apply keep_State_setFld
  with_reducible apply keep_State_setBit
  with_reducible apply keep_State_setBit
  with_reducible apply keep_State_setBit
  with_reducible assumption

theorem keep_State_stopBroadcast (s : State) (kh : Keep kq ku s) : Keep kq ku (State.stopBroadcast s) := by
  unfold State.stopBroadcast
  extract_lets +onlyGivenNames x0
  refine Keep.cut (P := Keep kq ku x0) ?_ fun h1 => ?_
  · unfold x0
    refine Keep.foldl ?_ ?_
    · with_reducible assumption
    · intro _ _ _
      extract_lets +onlyGivenNames x2
      refine Keep.cut (P := Keep kq ku x2) ?_ fun h3 => ?_
      · unfold x2
        refine Keep.ite ?_ ?_
        · with_reducible assumption
        · with_reducible apply keep_State_abandonTile
          with_reducible assumption
      refine Keep.ite ?_ ?_
      · with_reducible assumption
      · with_reducible apply keep_State_setTile
        with_reducible assumption
  extract_lets +onlyGivenNames x4
  extract_lets +onlyGivenNames x5
  extract_lets +onlyGivenNames x6
  refine Keep.cut (P := Keep kq ku x6) ?_ fun h7 => ?_
  · unfold x6
    with_reducible refine Keep.mk' ?_ rfl rfl rfl rfl (.inl rfl)
    with_reducible assumption
  extract_lets +onlyGivenNames x8
  refine Keep.cut (P := Keep kq ku x8) ?_ fun h9 => ?_
  · unfold x8
    with_reducible apply keep_State_endAdmission
    with_reducible assumption
  refine Keep.foldl ?_ ?_
  · with_reducible assumption
  · intro _ _ _
    refine Keep.ite ?_ ?_
    · with_reducible assumption
    · with_reducible apply keep_State_setSlot
      with_reducible assumption

theorem keep_State_startQuiet (s : State) (restarts : Nat) (kh : Keep kq ku s) : Keep kq ku (State.startQuiet s restarts) := by
  unfold State.startQuiet
  extract_lets +onlyGivenNames x0
  extract_lets +onlyGivenNames x1
  extract_lets +onlyGivenNames x2
  refine Keep.cut (P := Keep kq ku x2) ?_ fun h3 => ?_
  · unfold x2
    with_reducible refine Keep.mk' ?_ rfl rfl rfl rfl (.inl rfl)
    with_reducible assumption
  with_reducible apply keep_State_setFld
  with_reducible apply keep_State_setFld
  with_reducible apply keep_State_setFld
  with_reducible assumption

theorem keep_State_enterSafe (s : State) (page src sev arg : Nat) (kh : Keep kq ku s) : Keep kq ku (State.enterSafe s page src sev arg) := by
  unfold State.enterSafe
  extract_lets +onlyGivenNames x0
  refine Keep.cut (P := Keep kq ku x0) ?_ fun h1 => ?_
  · unfold x0
    with_reducible apply keep_State_setBit
    with_reducible assumption
  extract_lets +onlyGivenNames x2
  refine Keep.cut (P := Keep kq ku x2) ?_ fun h3 => ?_
  · unfold x2
    with_reducible apply keep_State_stopBroadcast
    with_reducible assumption
  extract_lets +onlyGivenNames x4
  refine Keep.cut (P := Keep kq ku x4) ?_ fun h5 => ?_
  · unfold x4
    with_reducible apply keep_State_setFld
    with_reducible apply keep_State_setFld
    with_reducible apply keep_State_setFld
    with_reducible assumption
  extract_lets +onlyGivenNames x6
  refine Keep.cut (P := Keep kq ku x6) ?_ fun h7 => ?_
  · unfold x6
    with_reducible apply keep_State_setFld
    with_reducible apply keep_State_setFld
    with_reducible assumption
  extract_lets +onlyGivenNames x8
  extract_lets +onlyGivenNames x9
  extract_lets +onlyGivenNames x10
  refine Keep.cut (P := Keep kq ku x10) ?_ fun h11 => ?_
  · unfold x10
    with_reducible refine Keep.mk' ?_ rfl rfl rfl rfl (.inl rfl)
    with_reducible assumption
  refine Keep.ite ?_ ?_
  · with_reducible apply keep_State_goDown
    with_reducible refine Keep.mk' ?_ rfl rfl rfl rfl (.inl rfl)
    with_reducible assumption
  · with_reducible apply keep_State_startQuiet
    with_reducible assumption

theorem keep_State_merge (s : State) (page src sev arg : Nat) (kh : Keep kq ku s) : Keep kq ku (State.merge s page src sev arg) := by
  unfold State.merge
  extract_lets +onlyGivenNames x0
  refine Keep.cut (P := Keep kq ku x0) ?_ fun h1 => ?_
  · unfold x0
    with_reducible apply keep_State_addSat
    with_reducible apply keep_State_addSat
    with_reducible assumption
  refine Keep.ite ?_ ?_
  · with_reducible assumption
  · extract_lets +onlyGivenNames x2
    extract_lets +onlyGivenNames x3
    extract_lets +onlyGivenNames x4
    extract_lets +onlyGivenNames x5
    refine Keep.cut (P := Keep kq ku x5) ?_ fun h6 => ?_
    · unfold x5
      with_reducible apply keep_State_setFld
      with_reducible assumption
    extract_lets +onlyGivenNames x7
    extract_lets +onlyGivenNames x8
    extract_lets +onlyGivenNames x9
    refine Keep.cut (P := Keep kq ku x9) ?_ fun h10 => ?_
    · unfold x9
      with_reducible refine Keep.mk' ?_ rfl rfl rfl rfl (.inl rfl)
      with_reducible assumption
    refine Keep.ite ?_ ?_
    · with_reducible apply keep_State_goDown
      with_reducible refine Keep.mk' ?_ rfl rfl rfl rfl (.inl rfl)
      with_reducible assumption
    · refine Keep.ite ?_ ?_
      · extract_lets +onlyGivenNames x11
        refine Keep.ite ?_ ?_
        · extract_lets +onlyGivenNames x12
          refine Keep.cut (P := Keep kq ku x12) ?_ fun h13 => ?_
          · unfold x12
            with_reducible apply keep_State_startQuiet
            with_reducible assumption
          refine Keep.ite ?_ ?_
          · with_reducible apply keep_State_logError
            with_reducible assumption
          · with_reducible assumption
        · with_reducible assumption
      · with_reducible apply keep_State_startQuiet
        with_reducible assumption

theorem keep_State_recordError (s : State) (page src : Nat) (forced : Bool) (arg : Nat) (kh : Keep kq ku s) : Keep kq ku (State.recordError s page src forced arg) := by
  unfold State.recordError
  extract_lets +onlyGivenNames x0
  extract_lets +onlyGivenNames x1
  refine Keep.cut (P := Keep kq ku x1) ?_ fun h2 => ?_
  · unfold x1
    with_reducible apply keep_State_logError
    with_reducible assumption
  refine Keep.ite ?_ ?_
  · refine Keep.ite ?_ ?_
    · with_reducible apply keep_State_enterSafe
      with_reducible assumption
    · with_reducible assumption
  · refine Keep.ite ?_ ?_
    · refine Keep.ite ?_ ?_
      · with_reducible refine Keep.mk' ?_ rfl rfl rfl rfl (.inl rfl)
        with_reducible assumption
      · refine Keep.ite ?_ ?_
        · with_reducible refine Keep.mk' ?_ rfl rfl rfl rfl (.inl rfl)
          with_reducible assumption
        · with_reducible assumption
    · with_reducible apply keep_State_merge
      with_reducible assumption

theorem keep_State_error (s : State) (page src : Nat) (kh : Keep kq ku s) : Keep kq ku (State.error s page src) := by
  unfold State.error
  with_reducible apply keep_State_recordError
  with_reducible assumption

theorem keep_State_disabledReq (s : State) (page : Nat) (kh : Keep kq ku s) : Keep kq ku (State.disabledReq s page) := by
  unfold State.disabledReq
  with_reducible apply keep_State_error
  with_reducible assumption

theorem keep_State_hole (s : State) (addr page : Nat) (kh : Keep kq ku s) : Keep kq ku (State.hole s addr page) := by
  unfold State.hole
  with_reducible apply keep_State_error
  with_reducible apply keep_State_addSat
  with_reducible apply keep_State_setFld
  with_reducible apply keep_State_setFld
  with_reducible assumption

theorem keep_State_failPlan (s : State) (p reason : Nat) (kh : Keep kq ku s) : Keep kq ku (State.failPlan s p reason) := by
  unfold State.failPlan
  with_reducible apply keep_State_setReason
  with_reducible apply keep_State_setSlotState
  with_reducible assumption

theorem keep_State_claimOverrun (s : State) (p : Nat) (kh : Keep kq ku s) : Keep kq ku (State.claimOverrun s p) := by
  unfold State.claimOverrun
  with_reducible apply keep_State_error
  with_reducible apply keep_State_failPlan
  with_reducible assumption

end Sys2Proof.Machine
end

