-- ==== Sys2Proof/Laws/KeepThreads.lean ====
section
/-!
SUPPORT. The keep lemmas of the tile threads and their streams.
-/

namespace Sys2Proof.Machine

open Sys2Proof

variable {kq : List Instr} {ku : List FUnit}

theorem keep_State_issue (s : State) (tile th : Nat) (f : Thread → Thread) (kh : Keep kq ku s) : Keep kq ku (State.issue s tile th f) := by
  unfold State.issue
  refine Keep.ite ?_ ?_
  · with_reducible apply keep_State_perf
    with_reducible apply keep_State_setThread
    with_reducible assumption
  · with_reducible assumption

theorem keep_State_issueWith (s : State) (tile th : Nat) (f : State → Nat → Thread → State) (h : Keep kq ku s)
    (hf : ∀ t p x, Keep kq ku t → Keep kq ku (f t p x)) : Keep kq ku (s.issueWith tile th f) := by
  unfold State.issueWith
  split
  · split
    · exact keep_State_perf _ _ _ _ (hf _ _ _ h)
    · exact h
  · exact h

theorem keep_State_tileFault (s : State) (tile th pc cause off : Nat) (kh : Keep kq ku s) : Keep kq ku (State.tileFault s tile th pc cause off) := by
  unfold State.tileFault
  with_reducible apply keep_State_setFld
  with_reducible apply keep_State_setFld
  with_reducible apply keep_State_setFld
  with_reducible apply keep_State_setFld
  with_reducible assumption

theorem keep_State_codeFault (s : State) (tile th p cause : Nat) (kh : Keep kq ku s) : Keep kq ku (State.codeFault s tile th p cause) := by
  unfold State.codeFault
  extract_lets +onlyGivenNames x0
  extract_lets +onlyGivenNames x1
  refine Keep.cut (P := Keep kq ku x1) ?_ fun h2 => ?_
  · unfold x1
    with_reducible apply keep_State_setThread
    with_reducible assumption
  with_reducible apply keep_State_error
  with_reducible apply keep_State_failPlan
  with_reducible apply keep_State_tileFault
  with_reducible assumption

theorem keep_State_tmRange (s : State) (tile th p off : Nat) (kh : Keep kq ku s) : Keep kq ku (State.tmRange s tile th p off) := by
  unfold State.tmRange
  extract_lets +onlyGivenNames x0
  extract_lets +onlyGivenNames x1
  refine Keep.cut (P := Keep kq ku x1) ?_ fun h2 => ?_
  · unfold x1
    with_reducible apply keep_State_setThread
    with_reducible assumption
  with_reducible apply keep_State_claimOverrun
  with_reducible apply keep_State_error
  with_reducible apply keep_State_tileFault
  with_reducible assumption

theorem keep_State_tmEcc (s : State) (tile : Nat) (touched : List Nat) (e : TmEcc) (kh : Keep kq ku s) : Keep kq ku (State.tmEcc s tile touched e) := by
  unfold State.tmEcc
  extract_lets +onlyGivenNames x0
  extract_lets +onlyGivenNames x1
  refine Keep.cut (P := Keep kq ku x1) ?_ fun h2 => ?_
  · unfold x1
    refine Keep.foldl ?_ ?_
    · with_reducible assumption
    · intro _ _ _
      with_reducible apply keep_State_error
      with_reducible apply keep_State_setBit
      with_reducible apply keep_State_setFld
      with_reducible apply keep_State_addSat
      with_reducible assumption
  refine Keep.foldl ?_ ?_
  · with_reducible assumption
  · intro _ _ _
    with_reducible apply keep_State_error
    with_reducible apply keep_State_setBit
    with_reducible apply keep_State_setFld
    with_reducible assumption

theorem keep_State_setQueue (s : State) (n : Nat) (q : Option Queue) (kh : Keep kq ku s) : Keep kq ku (State.setQueue s n q) := by
  unfold State.setQueue
  with_reducible refine Keep.mk' ?_ rfl rfl rfl rfl (.inl rfl)
  with_reducible assumption

theorem keep_State_dropChunks (s : State) (p : Nat) (kh : Keep kq ku s) : Keep kq ku (State.dropChunks s p) := by
  unfold State.dropChunks
  extract_lets +onlyGivenNames x0
  with_reducible apply keep_State_setSlot
  with_reducible assumption

theorem keep_State_rewind (s : State) (p : Nat) (kh : Keep kq ku s) : Keep kq ku (State.rewind s p) := by
  unfold State.rewind
  extract_lets +onlyGivenNames x0
  refine Keep.cut (P := Keep kq ku x0) ?_ fun h1 => ?_
  · unfold x0
    with_reducible apply keep_State_stopPlan
    with_reducible assumption
  extract_lets +onlyGivenNames x2
  extract_lets +onlyGivenNames x3
  extract_lets +onlyGivenNames x4
  refine Keep.cut (P := Keep kq ku x4) ?_ fun h5 => ?_
  · unfold x4
    with_reducible apply keep_State_setSlot
    with_reducible assumption
  with_reducible refine Keep.mk' ?_ rfl rfl rfl rfl (.inl rfl)
  with_reducible assumption

theorem keep_State_orphanWrites (s : State) (n : Nat) (kh : Keep kq ku s) : Keep kq ku (State.orphanWrites s n) := by
  unfold State.orphanWrites
  extract_lets +onlyGivenNames x0
  with_reducible refine Keep.mk' ?_ rfl rfl rfl rfl (.inl rfl)
  with_reducible assumption

theorem keep_State_restartBatches (s : State) (p : Nat) (kh : Keep kq ku s) : Keep kq ku (State.restartBatches s p) := by
  unfold State.restartBatches
  refine Keep.foldl ?_ ?_
  · with_reducible assumption
  · intro _ _ _
    with_reducible apply keep_State_setQueue
    with_reducible apply keep_State_orphanWrites
    with_reducible assumption

theorem keep_State_regenerate (s : State) (p : Nat) (kh : Keep kq ku s) : Keep kq ku (State.regenerate s p) := by
  unfold State.regenerate
  extract_lets +onlyGivenNames x0
  refine Keep.ite ?_ ?_
  · with_reducible assumption
  · extract_lets +onlyGivenNames x1
    refine Keep.cut (P := Keep kq ku x1) ?_ fun h2 => ?_
    · unfold x1
      refine Keep.ite ?_ ?_
      · with_reducible apply keep_State_setSlotState
        with_reducible assumption
      · with_reducible assumption
    extract_lets +onlyGivenNames x3
    refine Keep.cut (P := Keep kq ku x3) ?_ fun h4 => ?_
    · unfold x3
      with_reducible apply keep_State_rewind
      with_reducible assumption
    extract_lets +onlyGivenNames x5
    refine Keep.ite ?_ ?_
    · with_reducible apply keep_State_error
      with_reducible apply keep_State_failPlan
      with_reducible assumption
    · refine Keep.foldl ?_ ?_
      · with_reducible assumption
      · intro _ _ _
        refine Keep.ite ?_ ?_
        · with_reducible assumption
        · with_reducible apply keep_State_error
          with_reducible apply keep_State_addWrap
          with_reducible apply keep_State_setQueue
          with_reducible apply keep_State_orphanWrites
          with_reducible assumption

theorem keep_State_tmEccRead (s : State) (tile : Nat) (touched : List Nat) (e : TmEcc) (kh : Keep kq ku s) : Keep kq ku (State.tmEccRead s tile touched e) := by
  unfold State.tmEccRead
  extract_lets +onlyGivenNames x0
  extract_lets +onlyGivenNames x1
  extract_lets +onlyGivenNames x2
  refine Keep.cut (P := Keep kq ku x2) ?_ fun h3 => ?_
  · unfold x2
    with_reducible apply keep_State_tmEcc
    with_reducible assumption
  clear_value x1
  split
  · refine Keep.ite ?_ ?_
    · with_reducible apply keep_State_regenerate
      with_reducible assumption
    · with_reducible assumption
  · with_reducible assumption

theorem keep_State_rebuildStage (s : State) (p stage : Nat) (kh : Keep kq ku s) : Keep kq ku (State.rebuildStage s p stage) := by
  unfold State.rebuildStage
  extract_lets +onlyGivenNames x0
  refine Keep.ite ?_ ?_
  · with_reducible assumption
  · with_reducible apply keep_State_setSlot
    with_reducible assumption

theorem keep_ifWord (ok : Bool) (s : State) (kh : Keep kq ku s) : OKeep kq ku (ifWord ok s) := by
  unfold ifWord
  refine OKeep.ite ?_ ?_
  · show Keep _ _ _
    with_reducible assumption
  · exact trivial

theorem keep_State_vec (s : State) (tile th : Nat) (f : Bool → Thread → Thread) (kh : Keep kq ku s) : Keep kq ku (State.vec s tile th f) := by
  unfold State.vec
  with_reducible apply keep_State_issue
  with_reducible assumption

theorem keep_execVarith (tile : Fin 64) (th : Fin 8) (var : BitVec 3) (mask : BitVec 3) (ty : BitVec 4) (b a d : BitVec 5) (s : State) (kh : Keep kq ku s) : OKeep kq ku (execVarith tile th var mask ty b a d s) := by
  unfold execVarith
  with_reducible apply keep_ifWord
  with_reducible apply keep_State_vec
  with_reducible assumption

theorem keep_execVfma (tile : Fin 64) (th : Fin 8) (var : BitVec 3) (mask : BitVec 3) (ty : BitVec 4) (b a d : BitVec 5) (s : State) (kh : Keep kq ku s) : OKeep kq ku (execVfma tile th var mask ty b a d s) := by
  unfold execVfma
  with_reducible apply keep_ifWord
  with_reducible apply keep_State_vec
  with_reducible assumption

theorem keep_execVlogic (tile : Fin 64) (th : Fin 8) (var : BitVec 3) (mask : BitVec 3) (ty : BitVec 4) (b a d : BitVec 5) (s : State) (kh : Keep kq ku s) : OKeep kq ku (execVlogic tile th var mask ty b a d s) := by
  unfold execVlogic
  with_reducible apply keep_ifWord
  with_reducible apply keep_State_vec
  with_reducible assumption

theorem keep_execVunary (tile : Fin 64) (th : Fin 8) (var : BitVec 3) (mask : BitVec 3) (ty : BitVec 4) (b a d : BitVec 5) (s : State) (kh : Keep kq ku s) : OKeep kq ku (execVunary tile th var mask ty b a d s) := by
  unfold execVunary
  with_reducible apply keep_ifWord
  with_reducible apply keep_State_vec
  with_reducible assumption

theorem keep_execVtrans (tile : Fin 64) (th : Fin 8) (var : BitVec 3) (mask : BitVec 3) (ty : BitVec 4) (b a d : BitVec 5) (s : State) (kh : Keep kq ku s) : OKeep kq ku (execVtrans tile th var mask ty b a d s) := by
  unfold execVtrans
  with_reducible apply keep_ifWord
  with_reducible apply keep_State_vec
  with_reducible assumption

theorem keep_execVcmp (tile : Fin 64) (th : Fin 8) (var : BitVec 3) (mask : BitVec 3) (ty : BitVec 4) (b a d : BitVec 5) (s : State) (kh : Keep kq ku s) : OKeep kq ku (execVcmp tile th var mask ty b a d s) := by
  unfold execVcmp
  with_reducible apply keep_ifWord
  with_reducible apply keep_State_vec
  with_reducible assumption

theorem keep_execVsel (tile : Fin 64) (th : Fin 8) (var : BitVec 3) (mask : BitVec 3) (ty : BitVec 4) (b a d : BitVec 5) (s : State) (kh : Keep kq ku s) : OKeep kq ku (execVsel tile th var mask ty b a d s) := by
  unfold execVsel
  with_reducible apply keep_ifWord
  with_reducible apply keep_State_vec
  with_reducible assumption

theorem keep_execVcvt (tile : Fin 64) (th : Fin 8) (var : BitVec 3) (mask : BitVec 3) (ty : BitVec 4) (b a d : BitVec 5) (s : State) (kh : Keep kq ku s) : OKeep kq ku (execVcvt tile th var mask ty b a d s) := by
  unfold execVcvt
  with_reducible apply keep_ifWord
  with_reducible apply keep_State_vec
  with_reducible assumption

theorem keep_execVmx (tile : Fin 64) (th : Fin 8) (var : BitVec 3) (mask : BitVec 3) (ty : BitVec 4) (b a d : BitVec 5) (s : State) (kh : Keep kq ku s) : OKeep kq ku (execVmx tile th var mask ty b a d s) := by
  unfold execVmx
  with_reducible apply keep_ifWord
  with_reducible apply keep_State_vec
  with_reducible assumption

theorem keep_execVdec (tile : Fin 64) (th : Fin 8) (var : BitVec 3) (mask : BitVec 3) (ty : BitVec 4) (b a d : BitVec 5) (s : State) (kh : Keep kq ku s) : OKeep kq ku (execVdec tile th var mask ty b a d s) := by
  unfold execVdec
  with_reducible apply keep_ifWord
  with_reducible apply keep_State_vec
  with_reducible assumption

theorem keep_execVred (tile : Fin 64) (th : Fin 8) (var : BitVec 3) (mask : BitVec 3) (ty : BitVec 4) (b a d : BitVec 5) (s : State) (kh : Keep kq ku s) : OKeep kq ku (execVred tile th var mask ty b a d s) := by
  unfold execVred
  with_reducible apply keep_ifWord
  with_reducible apply keep_State_vec
  with_reducible assumption

theorem keep_execVperm (tile : Fin 64) (th : Fin 8) (var : BitVec 3) (mask : BitVec 3) (ty : BitVec 4) (b a d : BitVec 5) (s : State) (kh : Keep kq ku s) : OKeep kq ku (execVperm tile th var mask ty b a d s) := by
  unfold execVperm
  with_reducible apply keep_ifWord
  with_reducible apply keep_State_vec
  with_reducible assumption

theorem keep_State_sortCounts (s : State) (tile nans dups clashes : Nat) (kh : Keep kq ku s) : Keep kq ku (State.sortCounts s tile nans dups clashes) := by
  unfold State.sortCounts
  extract_lets +onlyGivenNames x0
  extract_lets +onlyGivenNames x1
  refine Keep.cut (P := Keep kq ku x1) ?_ fun h2 => ?_
  · unfold x1
    with_reducible apply keep_State_addSat
    with_reducible apply keep_State_addSat
    with_reducible apply keep_State_addSat
    with_reducible assumption
  extract_lets +onlyGivenNames x3
  refine Keep.cut (P := Keep kq ku x3) ?_ fun h4 => ?_
  · unfold x3
    with_reducible apply keep_State_perf
    with_reducible apply keep_State_perf
    with_reducible apply keep_State_perf
    with_reducible assumption
  extract_lets +onlyGivenNames x5
  refine Keep.cut (P := Keep kq ku x5) ?_ fun h6 => ?_
  · unfold x5
    refine Keep.ite ?_ ?_
    · with_reducible apply keep_State_addWrap
      with_reducible assumption
    · with_reducible assumption
  refine Keep.ite ?_ ?_
  · with_reducible apply keep_State_error
    with_reducible assumption
  · with_reducible assumption

theorem keep_execVsortSort64 (tile : Fin 64) (th : Fin 8) (mask : BitVec 3) (ty : BitVec 4) (b a d : BitVec 5) (s : State) (kh : Keep kq ku s) : OKeep kq ku (execVsortSort64 tile th mask ty b a d s) := by
  unfold execVsortSort64
  with_reducible apply keep_ifWord
  with_reducible apply keep_State_issueWith
  · with_reducible assumption
  · intro _ _ _ _
    with_reducible apply keep_State_sortCounts
    with_reducible apply keep_State_setThread
    with_reducible assumption

theorem keep_execVsortMerge (tile : Fin 64) (th : Fin 8) (mask : BitVec 3) (ty : BitVec 4) (b a d : BitVec 5) (s : State) (kh : Keep kq ku s) : OKeep kq ku (execVsortMerge tile th mask ty b a d s) := by
  unfold execVsortMerge
  with_reducible apply keep_ifWord
  with_reducible apply keep_State_issueWith
  · with_reducible assumption
  · intro _ _ _ _
    extract_lets +onlyGivenNames x0
    with_reducible apply keep_State_sortCounts
    with_reducible apply keep_State_setThread
    with_reducible assumption

theorem keep_execVsortTopk (tile : Fin 64) (th : Fin 8) (mask : BitVec 3) (ty : BitVec 4) (b a d : BitVec 5) (s : State) (kh : Keep kq ku s) : OKeep kq ku (execVsortTopk tile th mask ty b a d s) := by
  unfold execVsortTopk
  with_reducible apply keep_ifWord
  with_reducible apply keep_State_issueWith
  · with_reducible assumption
  · intro _ _ _ _
    extract_lets +onlyGivenNames x0
    with_reducible apply keep_State_sortCounts
    with_reducible apply keep_State_setThread
    with_reducible assumption

theorem keep_execVhash (tile : Fin 64) (th : Fin 8) (var : BitVec 3) (mask : BitVec 3) (ty : BitVec 4) (b a d : BitVec 5) (s : State) (kh : Keep kq ku s) : OKeep kq ku (execVhash tile th var mask ty b a d s) := by
  unfold execVhash
  with_reducible apply keep_ifWord
  with_reducible apply keep_State_issueWith
  · with_reducible assumption
  · intro _ _ _ _
    extract_lets +onlyGivenNames x0
    refine Keep.cut (P := Keep kq ku x0) ?_ fun h1 => ?_
    · unfold x0
      with_reducible apply keep_State_perf
      with_reducible assumption
    extract_lets +onlyGivenNames x2
    refine Keep.ite ?_ ?_
    · extract_lets +onlyGivenNames x3
      split
      · with_reducible apply keep_State_tmRange
        with_reducible assumption
      · with_reducible apply keep_State_setThread
        with_reducible assumption
    · with_reducible apply keep_State_setThread
      with_reducible assumption

theorem keep_execVbucket (tile : Fin 64) (th : Fin 8) (var : BitVec 3) (mask : BitVec 3) (ty : BitVec 4) (b a d : BitVec 5) (s : State) (kh : Keep kq ku s) : OKeep kq ku (execVbucket tile th var mask ty b a d s) := by
  unfold execVbucket
  with_reducible apply keep_ifWord
  with_reducible apply keep_State_vec
  with_reducible assumption

theorem keep_execVnorm (tile : Fin 64) (th : Fin 8) (var : BitVec 3) (mask : BitVec 3) (ty : BitVec 4) (b a d : BitVec 5) (s : State) (kh : Keep kq ku s) : OKeep kq ku (execVnorm tile th var mask ty b a d s) := by
  unfold execVnorm
  with_reducible apply keep_ifWord
  with_reducible apply keep_State_vec
  with_reducible assumption

theorem keep_execVmovs (tile : Fin 64) (th : Fin 8) (imm : BitVec 12) (f3 : BitVec 3) (a d : BitVec 5) (s : State) (kh : Keep kq ku s) : OKeep kq ku (execVmovs tile th imm f3 a d s) := by
  unfold execVmovs
  with_reducible apply keep_ifWord
  with_reducible apply keep_State_issueWith
  · with_reducible assumption
  · intro _ _ _ _
    extract_lets +onlyGivenNames x0
    refine Keep.ite ?_ ?_
    · with_reducible apply keep_State_setThread
      with_reducible assumption
    · split
      with_reducible apply keep_State_setThread
      refine Keep.eq2 (by with_reducible assumption) ?_
      with_reducible apply keep_State_fresh
      with_reducible assumption

theorem keep_execVins (tile : Fin 64) (th : Fin 8) (imm : BitVec 12) (f3 : BitVec 3) (a d : BitVec 5) (s : State) (kh : Keep kq ku s) : OKeep kq ku (execVins tile th imm f3 a d s) := by
  unfold execVins
  with_reducible apply keep_ifWord
  with_reducible apply keep_State_issueWith
  · with_reducible assumption
  · intro _ _ _ _
    extract_lets +onlyGivenNames x0
    refine Keep.ite ?_ ?_
    · with_reducible apply keep_State_setThread
      with_reducible assumption
    · split
      with_reducible apply keep_State_setThread
      refine Keep.eq2 (by with_reducible assumption) ?_
      with_reducible apply keep_State_fresh
      with_reducible assumption

theorem keep_execSalu (tile : Fin 64) (th : Fin 8) (var : BitVec 3) (mask : BitVec 3) (ty : BitVec 4) (b a d : BitVec 5) (s : State) (kh : Keep kq ku s) : OKeep kq ku (execSalu tile th var mask ty b a d s) := by
  unfold execSalu
  with_reducible apply keep_ifWord
  with_reducible apply keep_State_issue
  with_reducible assumption

theorem keep_execSalui (tile : Fin 64) (th : Fin 8) (imm : BitVec 12) (f3 : BitVec 3) (a d : BitVec 5) (s : State) (kh : Keep kq ku s) : OKeep kq ku (execSalui tile th imm f3 a d s) := by
  unfold execSalui
  with_reducible apply keep_ifWord
  with_reducible apply keep_State_issue
  with_reducible assumption

theorem keep_execSlui (tile : Fin 64) (th : Fin 8) (imm : BitVec 20) (d : BitVec 5) (s : State) (kh : Keep kq ku s) : OKeep kq ku (execSlui tile th imm d s) := by
  unfold execSlui
  show Keep _ _ _
  with_reducible apply keep_State_issue
  with_reducible assumption

theorem keep_execSconst (tile : Fin 64) (th : Fin 8) (imm : BitVec 12) (f3 : BitVec 3) (a d : BitVec 5) (s : State) (kh : Keep kq ku s) : OKeep kq ku (execSconst tile th imm f3 a d s) := by
  unfold execSconst
  with_reducible apply keep_ifWord
  with_reducible apply keep_State_issueWith
  · with_reducible assumption
  · intro _ _ _ _
    extract_lets +onlyGivenNames x0
    extract_lets +onlyGivenNames x1
    refine Keep.ite ?_ ?_
    · with_reducible apply keep_State_codeFault
      with_reducible assumption
    · extract_lets +onlyGivenNames x2
      extract_lets +onlyGivenNames x3
      refine Keep.ite ?_ ?_
      · split
        with_reducible apply keep_State_error
        with_reducible apply keep_State_setThread
        refine Keep.eq2 (by with_reducible assumption) ?_
        with_reducible apply keep_State_fresh
        with_reducible assumption
      · with_reducible apply keep_State_setThread
        with_reducible assumption

theorem keep_execSparam (tile : Fin 64) (th : Fin 8) (imm : BitVec 12) (f3 : BitVec 3) (a d : BitVec 5) (s : State) (kh : Keep kq ku s) : OKeep kq ku (execSparam tile th imm f3 a d s) := by
  unfold execSparam
  with_reducible apply keep_ifWord
  split
  · split
    · with_reducible apply keep_State_issue
      with_reducible assumption
    · with_reducible assumption
  · with_reducible assumption

theorem keep_execSmisc (tile : Fin 64) (th : Fin 8) (imm : BitVec 12) (f3 : BitVec 3) (a d : BitVec 5) (s : State) (kh : Keep kq ku s) : OKeep kq ku (execSmisc tile th imm f3 a d s) := by
  unfold execSmisc
  with_reducible apply keep_ifWord
  with_reducible apply keep_State_issue
  with_reducible assumption

theorem keep_State_goTo (s : State) (tile th : Nat) (x : Thread) (off : Int) (kh : Keep kq ku s) : Keep kq ku (State.goTo s tile th x off) := by
  unfold State.goTo
  with_reducible apply keep_State_setThread
  with_reducible assumption

theorem keep_execBr (tile : Fin 64) (th : Fin 8) (imm : BitVec 10) (b a cond : BitVec 5) (s : State) (kh : Keep kq ku s) : OKeep kq ku (execBr tile th imm b a cond s) := by
  unfold execBr
  with_reducible apply keep_ifWord
  with_reducible apply keep_State_issueWith
  · with_reducible assumption
  · intro _ _ _ _
    refine Keep.ite ?_ ?_
    · with_reducible apply keep_State_goTo
      with_reducible assumption
    · with_reducible apply keep_State_setThread
      with_reducible assumption

theorem keep_execJmp (tile : Fin 64) (th : Fin 8) (imm : BitVec 25) (s : State) (kh : Keep kq ku s) : OKeep kq ku (execJmp tile th imm s) := by
  unfold execJmp
  show Keep _ _ _
  with_reducible apply keep_State_issueWith
  · with_reducible assumption
  · intro _ _ _ _
    with_reducible apply keep_State_goTo
    with_reducible assumption

theorem keep_execCall (tile : Fin 64) (th : Fin 8) (imm : BitVec 25) (s : State) (kh : Keep kq ku s) : OKeep kq ku (execCall tile th imm s) := by
  unfold execCall
  show Keep _ _ _
  with_reducible apply keep_State_issueWith
  · with_reducible assumption
  · intro _ _ _ _
    with_reducible apply keep_State_goTo
    with_reducible assumption

theorem keep_execRet (tile : Fin 64) (th : Fin 8) (imm : BitVec 25) (s : State) (kh : Keep kq ku s) : OKeep kq ku (execRet tile th imm s) := by
  unfold execRet
  with_reducible apply keep_ifWord
  with_reducible apply keep_State_issueWith
  · with_reducible assumption
  · intro _ _ _ _
    refine Keep.ite ?_ ?_
    · with_reducible apply keep_State_setThread
      with_reducible assumption
    · with_reducible apply keep_State_codeFault
      with_reducible assumption

theorem keep_execVld (tile : Fin 64) (th : Fin 8) (imm : BitVec 12) (f3 : BitVec 3) (a d : BitVec 5) (ecc : TmEcc) (s : State) (kh : Keep kq ku s) : OKeep kq ku (execVld tile th imm f3 a d ecc s) := by
  unfold execVld
  with_reducible apply keep_ifWord
  with_reducible apply keep_State_issueWith
  · with_reducible assumption
  · intro _ _ _ _
    extract_lets +onlyGivenNames x0
    refine Keep.ite ?_ ?_
    · with_reducible apply keep_State_tmRange
      with_reducible assumption
    · refine Keep.ite ?_ ?_
      · split
        with_reducible apply keep_State_setThread
        refine Keep.eq2 (by with_reducible assumption) ?_
        with_reducible apply keep_State_fresh
        with_reducible assumption
      · extract_lets +onlyGivenNames x1
        with_reducible apply keep_State_tmEccRead
        with_reducible apply keep_State_setThread
        with_reducible assumption

theorem keep_execVst (tile : Fin 64) (th : Fin 8) (imm : BitVec 12) (f3 : BitVec 3) (a d : BitVec 5) (s : State) (kh : Keep kq ku s) : OKeep kq ku (execVst tile th imm f3 a d s) := by
  unfold execVst
  with_reducible apply keep_ifWord
  with_reducible apply keep_State_issueWith
  · with_reducible assumption
  · intro _ _ _ _
    extract_lets +onlyGivenNames x0
    refine Keep.ite ?_ ?_
    · with_reducible apply keep_State_tmRange
      with_reducible assumption
    · refine Keep.ite ?_ ?_
      · split
        extract_lets +onlyGivenNames x1
        with_reducible apply keep_State_setThread
        with_reducible apply keep_State_tmWrite
        refine Keep.eq2 (by with_reducible assumption) ?_
        with_reducible apply keep_State_fresh
        with_reducible assumption
      · with_reducible apply keep_State_setThread
        with_reducible apply keep_State_tmWrite
        with_reducible assumption

theorem keep_execVldx (tile : Fin 64) (th : Fin 8) (var : BitVec 3) (mask : BitVec 3) (ty : BitVec 4) (b a d : BitVec 5) (ecc : TmEcc) (s : State) (kh : Keep kq ku s) : OKeep kq ku (execVldx tile th var mask ty b a d ecc s) := by
  unfold execVldx
  with_reducible apply keep_ifWord
  with_reducible apply keep_State_issueWith
  · with_reducible assumption
  · intro _ _ _ _
    extract_lets +onlyGivenNames x0
    extract_lets +onlyGivenNames x1
    split
    · with_reducible apply keep_State_tmRange
      with_reducible assumption
    · extract_lets +onlyGivenNames x2
      extract_lets +onlyGivenNames x3
      with_reducible apply keep_State_tmEccRead
      with_reducible apply keep_State_setThread
      with_reducible assumption

theorem keep_execVstx (tile : Fin 64) (th : Fin 8) (var : BitVec 3) (mask : BitVec 3) (ty : BitVec 4) (b a d : BitVec 5) (s : State) (kh : Keep kq ku s) : OKeep kq ku (execVstx tile th var mask ty b a d s) := by
  unfold execVstx
  with_reducible apply keep_ifWord
  with_reducible apply keep_State_issueWith
  · with_reducible assumption
  · intro _ _ _ _
    extract_lets +onlyGivenNames x0
    extract_lets +onlyGivenNames x1
    split
    · with_reducible apply keep_State_tmRange
      with_reducible assumption
    · split
      extract_lets +onlyGivenNames x2
      with_reducible apply keep_State_setThread
      refine Keep.foldl ?_ ?_
      · refine Keep.eq2 (by with_reducible assumption) ?_
        with_reducible apply keep_State_fresh
        with_reducible assumption
      · intro _ _ _
        with_reducible apply keep_State_tmWrite
        with_reducible assumption

theorem keep_execSld (tile : Fin 64) (th : Fin 8) (imm : BitVec 12) (f3 : BitVec 3) (a d : BitVec 5) (ecc : TmEcc) (s : State) (kh : Keep kq ku s) : OKeep kq ku (execSld tile th imm f3 a d ecc s) := by
  unfold execSld
  with_reducible apply keep_ifWord
  with_reducible apply keep_State_issueWith
  · with_reducible assumption
  · intro _ _ _ _
    extract_lets +onlyGivenNames x0
    refine Keep.ite ?_ ?_
    · with_reducible apply keep_State_tmRange
      with_reducible assumption
    · extract_lets +onlyGivenNames x1
      with_reducible apply keep_State_tmEccRead
      with_reducible apply keep_State_setThread
      with_reducible assumption

theorem keep_execSst (tile : Fin 64) (th : Fin 8) (imm : BitVec 12) (f3 : BitVec 3) (a d : BitVec 5) (s : State) (kh : Keep kq ku s) : OKeep kq ku (execSst tile th imm f3 a d s) := by
  unfold execSst
  with_reducible apply keep_ifWord
  with_reducible apply keep_State_issueWith
  · with_reducible assumption
  · intro _ _ _ _
    extract_lets +onlyGivenNames x0
    refine Keep.ite ?_ ?_
    · with_reducible apply keep_State_tmRange
      with_reducible assumption
    · with_reducible apply keep_State_setThread
      with_reducible apply keep_State_tmWrite
      with_reducible assumption

theorem keep_State_writeMem (s : State) (page a : Nat) (bs : List Byte) (poison : Bool) (kh : Keep kq ku s) : Keep kq ku (State.writeMem s page a bs poison) := by
  unfold State.writeMem
  split
  · with_reducible apply keep_State_tmWrite
    with_reducible assumption
  · refine Keep.ite ?_ ?_
    · with_reducible apply keep_State_hole
      with_reducible assumption
    · with_reducible apply keep_State_writeDev
      with_reducible assumption

theorem keep_State_loadDesc (s : State) (tile k p chunk th : Nat) (d : Desc) (kh : Keep kq ku s) : Keep kq ku (State.loadDesc s tile k p chunk th d) := by
  unfold State.loadDesc
  extract_lets +onlyGivenNames x0
  extract_lets +onlyGivenNames x1
  extract_lets +onlyGivenNames x2
  refine Keep.ite ?_ ?_
  · with_reducible apply keep_State_error
    refine Keep.ite ?_ ?_
    · with_reducible apply keep_State_writeRecord
      with_reducible assumption
    · with_reducible assumption
  · refine Keep.ite ?_ ?_
    · with_reducible apply keep_State_writeRecord
      with_reducible assumption
    · with_reducible apply keep_State_setTile
      with_reducible assumption

theorem keep_State_doTake (s : State) (tile th k d : Nat) (kh : Keep kq ku s) : Keep kq ku (State.doTake s tile th k d) := by
  unfold State.doTake
  extract_lets +onlyGivenNames x0
  extract_lets +onlyGivenNames x1
  subst x1
  split
  · beta_reduce
    with_reducible apply keep_State_setThread
    with_reducible assumption
  · split
    · beta_reduce
      with_reducible apply keep_State_setThread
      with_reducible assumption
    · with_reducible apply keep_State_setThread
      with_reducible assumption
    · extract_lets +onlyGivenNames x2
      beta_reduce
      with_reducible apply keep_State_setThread
      with_reducible apply keep_State_setTile
      with_reducible assumption

theorem keep_State_doIssue (s : State) (tile th p off d : Nat) (kh : Keep kq ku s) : Keep kq ku (State.doIssue s tile th p off d) := by
  unfold State.doIssue
  extract_lets +onlyGivenNames x0
  split
  · extract_lets +onlyGivenNames x1
    extract_lets +onlyGivenNames x2
    refine Keep.cut (P := Keep kq ku x2) ?_ fun h3 => ?_
    · unfold x2
      with_reducible apply keep_State_setThread
      with_reducible assumption
    with_reducible apply keep_State_loadDesc
    with_reducible assumption
  · with_reducible apply keep_State_setThread
    with_reducible assumption

theorem keep_State_strmSettle (s : State) (tile : Nat) (kh : Keep kq ku s) : Keep kq ku (State.strmSettle s tile) := by
  unfold State.strmSettle
  split
  · with_reducible assumption
  · extract_lets +onlyGivenNames x0
    refine Keep.cut (P := Keep kq ku x0) ?_ fun h1 => ?_
    · unfold x0
      refine Keep.foldl ?_ ?_
      · with_reducible assumption
      · intro _ _ _
        split
        · with_reducible apply keep_State_loadDesc
          with_reducible apply keep_State_setTile
          with_reducible assumption
        · with_reducible assumption
    refine Keep.foldl ?_ ?_
    · with_reducible assumption
    · intro _ _ _
      split
      · refine Keep.ite ?_ ?_
        · with_reducible apply keep_State_doIssue
          with_reducible assumption
        · with_reducible assumption
      · with_reducible apply keep_State_doTake
        with_reducible assumption
      · with_reducible assumption

theorem keep_State_strmSettleAll (s : State) (tile : Nat) (x : StrmSlot) (kh : Keep kq ku s) : Keep kq ku (State.strmSettleAll s tile x) := by
  unfold State.strmSettleAll
  refine Keep.foldl ?_ ?_
  · with_reducible apply keep_State_strmSettle
    with_reducible assumption
  · intro _ _ _
    with_reducible apply keep_State_strmSettle
    with_reducible assumption

theorem keep_execStrmIssue (tile : Fin 64) (th : Fin 8) (a d : BitVec 5) (s : State) (kh : Keep kq ku s) : OKeep kq ku (execStrmIssue tile th a d s) := by
  unfold execStrmIssue
  show Keep _ _ _
  with_reducible apply keep_State_issueWith
  · with_reducible assumption
  · intro _ _ _ _
    extract_lets +onlyGivenNames x0
    refine Keep.ite ?_ ?_
    · with_reducible apply keep_State_tmRange
      with_reducible assumption
    · with_reducible apply keep_State_doIssue
      with_reducible assumption

theorem keep_execStrmWait (tile : Fin 64) (th : Fin 8) (a d : BitVec 5) (s : State) (kh : Keep kq ku s) : OKeep kq ku (execStrmWait tile th a d s) := by
  unfold execStrmWait
  with_reducible apply keep_ifWord
  with_reducible apply keep_State_issueWith
  · with_reducible assumption
  · intro _ _ _ _
    extract_lets +onlyGivenNames x0
    split
    · refine Keep.ite ?_ ?_
      · with_reducible apply keep_State_setThread
        with_reducible assumption
      · with_reducible apply keep_State_setThread
        with_reducible assumption
    · with_reducible apply keep_State_setThread
      with_reducible assumption

theorem keep_execStrmTake (tile : Fin 64) (th : Fin 8) (a d : BitVec 5) (s : State) (kh : Keep kq ku s) : OKeep kq ku (execStrmTake tile th a d s) := by
  unfold execStrmTake
  show Keep _ _ _
  with_reducible apply keep_State_issueWith
  · with_reducible assumption
  · intro _ _ _ _
    with_reducible apply keep_State_doTake
    with_reducible assumption

theorem keep_State_releaseRead (s : State) (owner k : Nat) (kh : Keep kq ku s) : Keep kq ku (State.releaseRead s owner k) := by
  unfold State.releaseRead
  split
  · refine Keep.ite ?_ ?_
    · with_reducible apply keep_State_setTile
      with_reducible assumption
    · with_reducible assumption
  · with_reducible assumption

theorem keep_execStrmFree (tile : Fin 64) (th : Fin 8) (a d : BitVec 5) (s : State) (kh : Keep kq ku s) : OKeep kq ku (execStrmFree tile th a d s) := by
  unfold execStrmFree
  show Keep _ _ _
  with_reducible apply keep_State_issueWith
  · with_reducible assumption
  · intro _ _ _ _
    extract_lets +onlyGivenNames x0
    split
    · with_reducible apply keep_State_codeFault
      with_reducible assumption
    · extract_lets +onlyGivenNames x1
      refine Keep.ite ?_ ?_
      · with_reducible apply keep_State_codeFault
        with_reducible assumption
      · extract_lets +onlyGivenNames x2
        extract_lets +onlyGivenNames x3
        extract_lets +onlyGivenNames x4
        refine Keep.cut (P := Keep kq ku x4) ?_ fun h5 => ?_
        · unfold x4
          with_reducible apply keep_State_setTile
          with_reducible apply keep_State_setThread
          with_reducible assumption
        with_reducible apply keep_State_strmSettleAll
        with_reducible apply keep_State_releaseRead
        with_reducible assumption

theorem keep_State_ringWrite (s : State) (tile : Nat) (d : Desc) (pos : Nat) (bs : List Byte) (kh : Keep kq ku s) : Keep kq ku (State.ringWrite s tile d pos bs) := by
  unfold State.ringWrite
  extract_lets +onlyGivenNames x0
  extract_lets +onlyGivenNames x1
  with_reducible apply keep_State_tmWrite
  with_reducible apply keep_State_tmWrite
  with_reducible assumption

theorem keep_State_deliver (s : State) (tile k : Nat) (x : StrmSlot) (host : List Byte) (idx : Word) (poison : Bool) (kh : Keep kq ku s) : Keep kq ku (State.deliver s tile k x host idx poison) := by
  unfold State.deliver
  extract_lets +onlyGivenNames x0
  extract_lets +onlyGivenNames x1
  extract_lets +onlyGivenNames x2
  extract_lets +onlyGivenNames x3
  extract_lets +onlyGivenNames x4
  refine Keep.cut (P := Keep kq ku x4) ?_ fun h5 => ?_
  · unfold x4
    refine Keep.foldl ?_ ?_
    · with_reducible assumption
    · intro _ _ _
      with_reducible apply keep_State_ringWrite
      with_reducible assumption
  extract_lets +onlyGivenNames x6
  extract_lets +onlyGivenNames x7
  extract_lets +onlyGivenNames x8
  extract_lets +onlyGivenNames x9
  extract_lets +onlyGivenNames x10
  extract_lets +onlyGivenNames x11
  refine Keep.cut (P := Keep kq ku x11) ?_ fun h12 => ?_
  · unfold x11
    with_reducible apply keep_State_setTile
    with_reducible assumption
  extract_lets +onlyGivenNames x13
  refine Keep.cut (P := Keep kq ku x13) ?_ fun h14 => ?_
  · unfold x13
    split
    · with_reducible apply keep_State_perf
      refine Keep.ite ?_ ?_
      · with_reducible apply keep_State_hole
        with_reducible assumption
      · with_reducible assumption
    · with_reducible assumption
  extract_lets +onlyGivenNames x15
  refine Keep.cut (P := Keep kq ku x15) ?_ fun h16 => ?_
  · unfold x15
    refine Keep.ite ?_ ?_
    · with_reducible apply keep_State_perf
      with_reducible assumption
    · with_reducible assumption
  extract_lets +onlyGivenNames x17
  refine Keep.cut (P := Keep kq ku x17) ?_ fun h18 => ?_
  · unfold x17
    refine Keep.ite ?_ ?_
    · with_reducible apply keep_State_error
      with_reducible assumption
    · with_reducible assumption
  extract_lets +onlyGivenNames x19
  refine Keep.cut (P := Keep kq ku x19) ?_ fun h20 => ?_
  · unfold x19
    refine Keep.ite ?_ ?_
    · with_reducible apply keep_State_error
      with_reducible assumption
    · with_reducible assumption
  split
  · refine Keep.ite ?_ ?_
    · with_reducible apply keep_State_endStrm
      with_reducible assumption
    · with_reducible assumption
  · with_reducible assumption

theorem keep_execReadLineReturn (tile : Fin 64) (slot : Fin 8) (n : Nat) (data : List Byte) (idx : List Word) (poison : Bool) (s : State) (kh : Keep kq ku s) : OKeep kq ku (execReadLineReturn tile slot n data idx poison s) := by
  unfold execReadLineReturn
  split
  · show Keep _ _ _
    with_reducible assumption
  · show Keep _ _ _
    with_reducible apply keep_State_strmSettleAll
    refine Keep.foldl ?_ ?_
    · with_reducible assumption
    · intro _ _ _
      split
      · refine Keep.ite ?_ ?_
        · with_reducible apply keep_State_deliver
          with_reducible assumption
        · with_reducible assumption
      · with_reducible assumption

theorem keep_State_hostWrite (s : State) (virt : Bool) (pasid a : Nat) (bs : List Byte) (poison : Bool) (src : ReqSrc) (kh : Keep kq ku s) : Keep kq ku (State.hostWrite s virt pasid a bs poison src) := by
  unfold State.hostWrite
  extract_lets +onlyGivenNames x0
  split
  · with_reducible assumption
  · with_reducible apply keep_State_emit
    with_reducible assumption

theorem keep_State_writeElem (s : State) (tile k : Nat) (x : StrmSlot) (idx : Word) (e : TmEcc) (kh : Keep kq ku s) : Keep kq ku (State.writeElem s tile k x idx e).1 := by
  unfold State.writeElem
  extract_lets +onlyGivenNames x0
  extract_lets +onlyGivenNames x1
  extract_lets +onlyGivenNames x2
  extract_lets +onlyGivenNames x3
  split
  · with_reducible assumption
  · extract_lets +onlyGivenNames x4
    extract_lets +onlyGivenNames x5
    refine Keep.cut (P := Keep kq ku x5.2) ?_ fun h6 => ?_
    · unfold x5
      with_reducible apply keep_State_fresh
      with_reducible assumption
    extract_lets +onlyGivenNames x7
    refine Keep.cut (P := Keep kq ku x7) ?_ fun h8 => ?_
    · unfold x7
      refine Keep.ite ?_ ?_
      · with_reducible assumption
      · with_reducible assumption
    extract_lets +onlyGivenNames x9
    split
    · with_reducible assumption
    · split
      · dsimp -zeta only
        with_reducible apply keep_State_writeMem
        with_reducible assumption
      · dsimp -zeta only
        with_reducible apply keep_State_hostWrite
        with_reducible assumption

theorem keep_State_evictLines (s : State) (kh : Keep kq ku s) : Keep kq ku (State.evictLines s) := by
  unfold State.evictLines
  refine Keep.foldl ?_ ?_
  · with_reducible assumption
  · intro _ _ _
    split
    · with_reducible apply keep_State_issueHost
      with_reducible refine Keep.mk' ?_ rfl rfl rfl rfl (.inl rfl)
      with_reducible assumption
    · with_reducible assumption

theorem keep_State_ackElem (s : State) (tile k : Nat) (x : StrmSlot) (idx : Word) (e : TmEcc) (kh : Keep kq ku s) : Keep kq ku (State.ackElem s tile k x idx e) := by
  unfold State.ackElem
  extract_lets +onlyGivenNames x0
  extract_lets +onlyGivenNames x1
  extract_lets +onlyGivenNames x2
  split
  extract_lets +onlyGivenNames x3
  extract_lets +onlyGivenNames x4
  extract_lets +onlyGivenNames x5
  refine Keep.cut (P := Keep kq ku x5) ?_ fun h6 => ?_
  · unfold x5
    with_reducible apply keep_State_perf
    with_reducible apply keep_State_setTile
    refine Keep.eq1 (by with_reducible assumption) ?_
    split
    · with_reducible assumption
    · with_reducible apply keep_State_writeElem
      with_reducible assumption
  extract_lets +onlyGivenNames x7
  refine Keep.cut (P := Keep kq ku x7) ?_ fun h8 => ?_
  · unfold x7
    refine Keep.ite ?_ ?_
    · with_reducible apply keep_State_error
      with_reducible assumption
    · with_reducible assumption
  refine Keep.ite ?_ ?_
  · with_reducible apply keep_State_endStrm
    refine Keep.ite ?_ ?_
    · with_reducible apply keep_State_evictLines
      with_reducible assumption
    · with_reducible assumption
  · with_reducible assumption

theorem keep_execWriteAck (tile : Fin 64) (slot : Fin 8) (n : Nat) (idx : List Word) (ecc : TmEcc) (ok : Bool) (s : State) (kh : Keep kq ku s) : OKeep kq ku (execWriteAck tile slot n idx ecc ok s) := by
  unfold execWriteAck
  extract_lets +onlyGivenNames x0
  refine Keep.cut (P := Keep kq ku x0) ?_ fun h1 => ?_
  · unfold x0
    refine Keep.foldl ?_ ?_
    · with_reducible assumption
    · intro _ _ _
      split
      · refine Keep.ite ?_ ?_
        · with_reducible apply keep_State_ackElem
          with_reducible assumption
        · with_reducible assumption
      · with_reducible assumption
  split
  · extract_lets +onlyGivenNames x2
    refine Keep.cut (P := Keep kq ku x2) ?_ fun h3 => ?_
    · unfold x2
      refine Keep.ite ?_ ?_
      · with_reducible apply keep_State_error
        with_reducible apply keep_State_endStrm
        with_reducible assumption
      · with_reducible assumption
    show Keep _ _ _
    with_reducible apply keep_State_strmSettle
    with_reducible assumption
  · show Keep _ _ _
    with_reducible apply keep_State_strmSettle
    with_reducible assumption

theorem keep_execCombineRequest (tile : Fin 64) (slot : Fin 8) (idx : Word) (s : State) (kh : Keep kq ku s) : OKeep kq ku (execCombineRequest tile slot idx s) := by
  unfold execCombineRequest
  split
  · show Keep _ _ _
    with_reducible assumption
  · extract_lets +onlyGivenNames x0
    refine OKeep.ite ?_ ?_
    · show Keep _ _ _
      with_reducible assumption
    · extract_lets +onlyGivenNames x1
      extract_lets +onlyGivenNames x2
      extract_lets +onlyGivenNames x3
      subst x3
      split
      · show Keep _ _ _
        beta_reduce
        extract_lets +onlyGivenNames x4
        extract_lets +onlyGivenNames x5
        refine Keep.cut (P := Keep kq ku x5) ?_ fun h6 => ?_
        · unfold x5
          with_reducible apply keep_State_setTile
          with_reducible assumption
        refine Keep.ite ?_ ?_
        · with_reducible apply keep_State_error
          with_reducible assumption
        · with_reducible assumption
      · refine OKeep.ite ?_ ?_
        · extract_lets +onlyGivenNames x7
          show Keep _ _ _
          beta_reduce
          extract_lets +onlyGivenNames x8
          extract_lets +onlyGivenNames x9
          refine Keep.cut (P := Keep kq ku x9) ?_ fun h10 => ?_
          · unfold x9
            with_reducible apply keep_State_setTile
            with_reducible apply keep_State_writeMem
            with_reducible assumption
          refine Keep.ite ?_ ?_
          · with_reducible apply keep_State_error
            with_reducible assumption
          · with_reducible assumption
        · extract_lets +onlyGivenNames x11
          extract_lets +onlyGivenNames x12
          extract_lets +onlyGivenNames x13
          refine OKeep.ite ?_ ?_
          · show Keep _ _ _
            with_reducible apply keep_State_error
            with_reducible apply keep_State_endStrm
            with_reducible assumption
          · refine OKeep.ite ?_ ?_
            · extract_lets +onlyGivenNames x14
              extract_lets +onlyGivenNames x15
              extract_lets +onlyGivenNames x16
              extract_lets +onlyGivenNames x17
              show Keep _ _ _
              beta_reduce
              extract_lets +onlyGivenNames x18
              extract_lets +onlyGivenNames x19
              extract_lets +onlyGivenNames x20
              refine Keep.cut (P := Keep kq ku x20) ?_ fun h21 => ?_
              · unfold x20
                with_reducible apply keep_State_setTile
                with_reducible refine Keep.mk' ?_ rfl rfl rfl rfl (.inl rfl)
                with_reducible assumption
              refine Keep.ite ?_ ?_
              · with_reducible apply keep_State_error
                with_reducible assumption
              · with_reducible assumption
            · show Keep _ _ _
              refine Keep.foldl ?_ ?_
              · with_reducible assumption
              · intro _ _ _
                refine Keep.ite ?_ ?_
                · with_reducible assumption
                · with_reducible apply keep_State_issueHost
                  with_reducible assumption

theorem keep_State_partialEnd (s : State) (cause : Nat) (l : List (Nat × Nat × StrmSlot)) (kh : Keep kq ku s) : Keep kq ku (State.partialEnd s cause l) := by
  unfold State.partialEnd
  extract_lets +onlyGivenNames x0
  refine Keep.cut (P := Keep kq ku x0) ?_ fun h1 => ?_
  · unfold x0
    refine Keep.foldl ?_ ?_
    · with_reducible assumption
    · intro _ _ _
      with_reducible apply keep_State_error
      with_reducible apply keep_State_endStrm
      with_reducible assumption
  extract_lets +onlyGivenNames x2
  extract_lets +onlyGivenNames x3
  extract_lets +onlyGivenNames x4
  refine Keep.cut (P := Keep kq ku x4) ?_ fun h5 => ?_
  · unfold x4
    refine Keep.foldl ?_ ?_
    · with_reducible assumption
    · intro _ _ _
      with_reducible apply keep_State_failPlan
      with_reducible apply keep_State_fresh
      with_reducible assumption
  extract_lets +onlyGivenNames x6
  refine Keep.cut (P := Keep kq ku x6) ?_ fun h7 => ?_
  · unfold x6
    refine Keep.foldl ?_ ?_
    · with_reducible assumption
    · intro _ _ _
      with_reducible apply keep_State_regenerate
      with_reducible assumption
  refine Keep.foldl ?_ ?_
  · with_reducible assumption
  · intro _ _ _
    with_reducible apply keep_State_strmSettle
    with_reducible assumption

theorem keep_State_sendPageReqs (s : State) (kh : Keep kq ku s) : Keep kq ku (State.sendPageReqs s) := by
  unfold State.sendPageReqs
  split
  · with_reducible assumption
  · extract_lets +onlyGivenNames x0
    extract_lets +onlyGivenNames x1
    extract_lets +onlyGivenNames x2
    extract_lets +onlyGivenNames x3
    refine Keep.cut (P := Keep kq ku x3) ?_ fun h4 => ?_
    · unfold x3
      with_reducible refine Keep.mk' ?_ rfl rfl rfl rfl (.inl rfl)
      with_reducible assumption
    extract_lets +onlyGivenNames x5
    refine Keep.cut (P := Keep kq ku x5) ?_ fun h6 => ?_
    · unfold x5
      refine Keep.foldl ?_ ?_
      · with_reducible assumption
      · intro _ _ _
        with_reducible apply keep_State_addWrap
        with_reducible apply keep_State_emit
        with_reducible assumption
    with_reducible apply keep_State_setFld
    with_reducible assumption

theorem keep_State_setAtc (s : State) (atc : List (Nat × Nat)) (kh : Keep kq ku s) : Keep kq ku (State.setAtc s atc) := by
  unfold State.setAtc
  extract_lets +onlyGivenNames x0
  extract_lets +onlyGivenNames x1
  refine Keep.cut (P := Keep kq ku x1) ?_ fun h2 => ?_
  · unfold x1
    with_reducible refine Keep.mk' ?_ rfl rfl rfl rfl (.inl rfl)
    with_reducible assumption
  split
  · with_reducible assumption
  · with_reducible apply keep_State_setFld
    with_reducible assumption

theorem keep_execXlateResponse (tile : Fin 64) (slot : Fin 8) (ok : Bool) (addr : Word) (s : State) (kh : Keep kq ku s) : OKeep kq ku (execXlateResponse tile slot ok addr s) := by
  unfold execXlateResponse
  split
  · show Keep _ _ _
    with_reducible assumption
  · extract_lets +onlyGivenNames x0
    extract_lets +onlyGivenNames x1
    refine OKeep.ite ?_ ?_
    · show Keep _ _ _
      with_reducible assumption
    · refine OKeep.ite ?_ ?_
      · extract_lets +onlyGivenNames x2
        show Keep _ _ _
        with_reducible apply keep_State_partialEnd
        with_reducible apply keep_State_setTile
        with_reducible assumption
      · refine OKeep.ite ?_ ?_
        · show Keep _ _ _
          with_reducible apply keep_State_setAtc
          with_reducible assumption
        · extract_lets +onlyGivenNames x3
          extract_lets +onlyGivenNames x4
          refine Keep.cut (P := Keep kq ku x4) ?_ fun h5 => ?_
          · unfold x4
            with_reducible apply keep_State_setTile
            with_reducible assumption
          extract_lets +onlyGivenNames x6
          extract_lets +onlyGivenNames x7
          refine OKeep.ite ?_ ?_
          · show Keep _ _ _
            with_reducible assumption
          · show Keep _ _ _
            with_reducible apply keep_State_sendPageReqs
            with_reducible apply keep_State_perf
            with_reducible refine Keep.mk' ?_ rfl rfl rfl rfl (.inl rfl)
            with_reducible assumption

theorem keep_execPageResponse (page : Nat) (pasid : BitVec 20) (code : PageCode) (s : State) (kh : Keep kq ku s) : OKeep kq ku (execPageResponse page pasid code s) := by
  unfold execPageResponse
  refine OKeep.ite ?_ ?_
  · show Keep _ _ _
    with_reducible assumption
  · extract_lets +onlyGivenNames x0
    extract_lets +onlyGivenNames x1
    extract_lets +onlyGivenNames x2
    refine Keep.cut (P := Keep kq ku x2) ?_ fun h3 => ?_
    · unfold x2
      with_reducible refine Keep.mk' ?_ rfl rfl rfl rfl (.inl rfl)
      with_reducible assumption
    extract_lets +onlyGivenNames x4
    refine Keep.cut (P := Keep kq ku x4) ?_ fun h5 => ?_
    · unfold x4
      with_reducible apply keep_State_sendPageReqs
      with_reducible assumption
    split
    · show Keep _ _ _
      refine Keep.foldl ?_ ?_
      · with_reducible assumption
      · intro _ _ _
        with_reducible apply keep_State_setTile
        with_reducible assumption
    · show Keep _ _ _
      with_reducible apply keep_State_partialEnd
      with_reducible assumption
    · extract_lets +onlyGivenNames x6
      refine Keep.cut (P := Keep kq ku x6) ?_ fun h7 => ?_
      · unfold x6
        with_reducible apply keep_State_partialEnd
        with_reducible assumption
      extract_lets +onlyGivenNames x8
      extract_lets +onlyGivenNames x9
      refine Keep.cut (P := Keep kq ku x9) ?_ fun h10 => ?_
      · unfold x9
        with_reducible refine Keep.mk' ?_ rfl rfl rfl rfl (.inl rfl)
        with_reducible assumption
      split
      · show Keep _ _ _
        with_reducible assumption
      · show Keep _ _ _
        with_reducible apply keep_State_error
        with_reducible apply keep_State_setBit
        with_reducible assumption

theorem keep_execPfTimeout (tile : Fin 64) (slot : Fin 8) (s : State) (kh : Keep kq ku s) : OKeep kq ku (execPfTimeout tile slot s) := by
  unfold execPfTimeout
  split
  · show Keep _ _ _
    with_reducible assumption
  · refine OKeep.ite ?_ ?_
    · show Keep _ _ _
      with_reducible assumption
    · show Keep _ _ _
      with_reducible apply keep_State_partialEnd
      with_reducible assumption

end Sys2Proof.Machine
end

