-- ==== Sys2Proof/Laws/KeepTables.lean ====
section
/-!
SUPPORT. The keep lemmas of admission checks, rings, Carillon, joins and slabs.
-/

namespace Sys2Proof.Machine

open Sys2Proof

variable {kq : List Instr} {ku : List FUnit}

theorem keep_State_command (s : State) (n code : Nat) (f : State → Cmd → State) (h : Keep kq ku s)
    (hf : ∀ t c, Keep kq ku t → Keep kq ku (f t c)) : Keep kq ku (s.command n code f) := by
  unfold State.command
  split
  · with_reducible assumption
  · refine Keep.ite ?_ ?_
    · with_reducible assumption
    · refine Keep.ite ?_ ?_
      · with_reducible apply keep_State_complete
        with_reducible assumption
      · with_reducible apply hf
        with_reducible assumption

theorem keep_State_setBusy (s : State) (n : Nat) (kh : Keep kq ku s) : Keep kq ku (State.setBusy s n) := by
  unfold State.setBusy
  with_reducible apply keep_State_setRing
  with_reducible assumption

theorem keep_execNop (ring : Fin 16) (s : State) (kh : Keep kq ku s) : OKeep kq ku (execNop ring s) := by
  unfold execNop
  show Keep _ _ _
  with_reducible apply keep_State_command
  · with_reducible assumption
  · intro _ _ _
    with_reducible apply keep_State_complete
    with_reducible assumption

theorem keep_State_setBell (s : State) (n : Nat) (b : Bell) (kh : Keep kq ku s) : Keep kq ku (State.setBell s n b) := by
  unfold State.setBell
  with_reducible refine Keep.mk' ?_ rfl rfl rfl rfl (.inl rfl)
  with_reducible assumption

theorem keep_State_setTable (s : State) (n : Nat) (t : Option CarTable) (kh : Keep kq ku s) : Keep kq ku (State.setTable s n t) := by
  unfold State.setTable
  with_reducible refine Keep.mk' ?_ rfl rfl rfl rfl (.inl rfl)
  with_reducible assumption

theorem keep_State_putEntry (s : State) (t : CarTable) (set rep j i : Nat) (e : Option CarEntry) (kh : Keep kq ku s) : Keep kq ku (State.putEntry s t set rep j i e) := by
  unfold State.putEntry
  extract_lets +onlyGivenNames x0
  extract_lets +onlyGivenNames x1
  extract_lets +onlyGivenNames x2
  refine Keep.cut (P := Keep kq ku x2) ?_ fun h3 => ?_
  · unfold x2
    with_reducible apply keep_State_setBell
    with_reducible assumption
  refine Keep.ite ?_ ?_
  · with_reducible apply keep_State_recordError
    with_reducible assumption
  · with_reducible apply keep_State_writeDev
    with_reducible assumption

theorem keep_State_putAll (s : State) (t : CarTable) (set j i : Nat) (e : Option CarEntry) (kh : Keep kq ku s) : Keep kq ku (State.putAll s t set j i e) := by
  unfold State.putAll
  refine Keep.foldl ?_ ?_
  · with_reducible assumption
  · intro _ _ _
    with_reducible apply keep_State_putEntry
    with_reducible assumption

theorem keep_State_loseIndex (s : State) (tid b i : Nat) (kh : Keep kq ku s) : Keep kq ku (State.loseIndex s tid b i) := by
  unfold State.loseIndex
  extract_lets +onlyGivenNames x0
  extract_lets +onlyGivenNames x1
  refine Keep.cut (P := Keep kq ku x1) ?_ fun h2 => ?_
  · unfold x1
    with_reducible apply keep_State_setFld
    with_reducible apply keep_State_setBit
    with_reducible assumption
  extract_lets +onlyGivenNames x3
  refine Keep.cut (P := Keep kq ku x3) ?_ fun h4 => ?_
  · unfold x3
    split
    · with_reducible apply keep_State_setTable
      with_reducible assumption
    · with_reducible assumption
  with_reducible apply keep_State_error
  with_reducible assumption

theorem keep_State_mendEntry (s : State) (tid : Nat) (t : CarTable) (set rep j i : Nat) (kh : Keep kq ku s) : Keep kq ku (State.mendEntry s tid t set rep j i) := by
  unfold State.mendEntry
  extract_lets +onlyGivenNames x0
  extract_lets +onlyGivenNames x1
  refine Keep.ite ?_ ?_
  · with_reducible apply keep_State_loseIndex
    with_reducible apply keep_State_setBell
    with_reducible assumption
  · with_reducible apply keep_State_setBell
    with_reducible assumption

theorem keep_State_search (s : State) (tid : Nat) (t : CarTable) (rep : Nat) (q : SearchReq) (bad : Bool) (kh : Keep kq ku s) : Keep kq ku (State.search s tid t rep q bad).1 := by
  unfold State.search
  extract_lets +onlyGivenNames x0
  extract_lets +onlyGivenNames x1
  extract_lets +onlyGivenNames x2
  extract_lets +onlyGivenNames x3
  refine Keep.cut (P := Keep kq ku x3) ?_ fun h4 => ?_
  · unfold x3
    refine Keep.foldl ?_ ?_
    · with_reducible assumption
    · intro _ _ _
      extract_lets +onlyGivenNames x5
      extract_lets +onlyGivenNames x6
      refine Keep.cut (P := Keep kq ku x6) ?_ fun h7 => ?_
      · unfold x6
        with_reducible apply keep_State_perf
        with_reducible assumption
      refine Keep.ite ?_ ?_
      · with_reducible apply keep_State_perf
        with_reducible assumption
      · with_reducible assumption
  extract_lets +onlyGivenNames x8
  refine Keep.cut (P := Keep kq ku x8) ?_ fun h9 => ?_
  · unfold x8
    with_reducible apply keep_State_perf
    with_reducible assumption
  clear_value x0
  split
  · split
    · extract_lets +onlyGivenNames x10
      dsimp -zeta only
      with_reducible apply keep_State_error
      with_reducible apply keep_State_mendEntry
      with_reducible assumption
    · with_reducible assumption
  · with_reducible assumption

theorem keep_execCarSearch (port : Fin 4) (parityBad : Bool) (s : State) (kh : Keep kq ku s) : OKeep kq ku (execCarSearch port parityBad s) := by
  unfold execCarSearch
  split
  · show Keep _ _ _
    with_reducible assumption
  · refine OKeep.ite ?_ ?_
    · show Keep _ _ _
      with_reducible assumption
    · extract_lets +onlyGivenNames x0
      extract_lets +onlyGivenNames x1
      refine Keep.cut (P := Keep kq ku x1) ?_ fun h2 => ?_
      · unfold x1
        with_reducible refine Keep.mk' ?_ rfl rfl rfl rfl (.inl rfl)
        with_reducible assumption
      split
      · show Keep _ _ _
        with_reducible assumption
      · extract_lets +onlyGivenNames x3
        refine Keep.cut (P := Keep kq ku x3.1) ?_ fun h4 => ?_
        · unfold x3
          with_reducible apply keep_State_search
          with_reducible assumption
        extract_lets +onlyGivenNames x5
        extract_lets +onlyGivenNames x6
        show Keep _ _ _
        with_reducible apply keep_State_perf
        with_reducible apply keep_State_setThread
        with_reducible assumption

theorem keep_State_issueSearches (s : State) (tile th p ty form : Nat) (qs : List (Nat × SearchReq)) (d : Nat) (x' : Thread) (kh : Keep kq ku s) : Keep kq ku (State.issueSearches s tile th p ty form qs d x') := by
  unfold State.issueSearches
  extract_lets +onlyGivenNames x0
  extract_lets +onlyGivenNames x1
  extract_lets +onlyGivenNames x2
  extract_lets +onlyGivenNames x3
  extract_lets +onlyGivenNames x4
  refine Keep.cut (P := Keep kq ku x4) ?_ fun h5 => ?_
  · unfold x4
    with_reducible refine Keep.mk' ?_ rfl rfl rfl rfl (.inl rfl)
    with_reducible assumption
  refine Keep.ite ?_ ?_
  · with_reducible apply keep_State_setThread
    with_reducible assumption
  · with_reducible apply keep_State_setThread
    with_reducible assumption

theorem keep_execCsrchSearch (tile : Fin 64) (th : Fin 8) (mask : BitVec 3) (ty : BitVec 4) (b a d : BitVec 5) (s : State) (kh : Keep kq ku s) : OKeep kq ku (execCsrchSearch tile th mask ty b a d s) := by
  unfold execCsrchSearch
  with_reducible apply keep_ifWord
  with_reducible apply keep_State_issueWith
  · with_reducible assumption
  · intro _ _ _ _
    extract_lets +onlyGivenNames x0
    extract_lets +onlyGivenNames x1
    extract_lets +onlyGivenNames x2
    with_reducible apply keep_State_issueSearches
    with_reducible assumption

theorem keep_execCsrchTokenise (tile : Fin 64) (th : Fin 8) (mask : BitVec 3) (ty : BitVec 4) (b a d : BitVec 5) (s : State) (kh : Keep kq ku s) : OKeep kq ku (execCsrchTokenise tile th mask ty b a d s) := by
  unfold execCsrchTokenise
  with_reducible apply keep_ifWord
  with_reducible apply keep_State_issueWith
  · with_reducible assumption
  · intro _ _ _ _
    extract_lets +onlyGivenNames x0
    extract_lets +onlyGivenNames x1
    extract_lets +onlyGivenNames x2
    with_reducible apply keep_State_issueSearches
    with_reducible assumption

theorem keep_execCsrchRange (tile : Fin 64) (th : Fin 8) (mask : BitVec 3) (ty : BitVec 4) (b a d : BitVec 5) (s : State) (kh : Keep kq ku s) : OKeep kq ku (execCsrchRange tile th mask ty b a d s) := by
  unfold execCsrchRange
  with_reducible apply keep_ifWord
  with_reducible apply keep_State_issueWith
  · with_reducible assumption
  · intro _ _ _ _
    split
    · with_reducible apply keep_State_setThread
      with_reducible assumption
    · extract_lets +onlyGivenNames x0
      extract_lets +onlyGivenNames x1
      extract_lets +onlyGivenNames x2
      extract_lets +onlyGivenNames x3
      with_reducible apply keep_State_issueSearches
      with_reducible assumption

theorem keep_State_putBells (s : State) (t : CarTable) (set : Nat) (bs : List Bell) (kh : Keep kq ku s) : Keep kq ku (State.putBells s t set bs) := by
  unfold State.putBells
  refine Keep.foldl ?_ ?_
  · with_reducible assumption
  · intro _ _ _
    refine Keep.foldl ?_ ?_
    · with_reducible assumption
    · intro _ _ _
      extract_lets +onlyGivenNames x0
      extract_lets +onlyGivenNames x1
      refine Keep.cut (P := Keep kq ku x1) ?_ fun h2 => ?_
      · unfold x1
        refine Keep.foldl ?_ ?_
        · with_reducible assumption
        · intro _ _ _
          with_reducible apply keep_State_putEntry
          with_reducible assumption
      refine Keep.foldl ?_ ?_
      · with_reducible assumption
      · intro _ _ _
        with_reducible apply keep_State_putEntry
        with_reducible assumption

theorem keep_State_endJob (s : State) (tid : Nat) (t : CarTable) (j : CarJob) (code count : Nat) (kh : Keep kq ku s) : Keep kq ku (State.endJob s tid t j code count) := by
  unfold State.endJob
  extract_lets +onlyGivenNames x0
  refine Keep.cut (P := Keep kq ku x0) ?_ fun h1 => ?_
  · unfold x0
    with_reducible apply keep_State_setTable
    with_reducible assumption
  split
  · with_reducible apply keep_State_complete
    with_reducible assumption
  · with_reducible assumption

theorem keep_State_insertFrom (s : State) (tid : Nat) (ring : Option Nat) (set : Nat) (bad : Bool) (l : List CarEntry) (n : Nat)
    (h : Keep kq ku s) : Keep kq ku (s.insertFrom tid ring set bad l n) := by
  induction l generalizing s n with
  | nil =>
    unfold State.insertFrom
    split
    · with_reducible apply keep_State_endJob
      with_reducible assumption
    · with_reducible assumption
  | cons e l ih =>
    unfold State.insertFrom
    split
    · with_reducible assumption
    · extract_lets +onlyGivenNames x0
      refine Keep.ite ?_ ?_
      · with_reducible apply keep_State_endJob
        with_reducible assumption
      · split
        · with_reducible apply keep_State_endJob
          with_reducible assumption
        · extract_lets +onlyGivenNames x1
          extract_lets +onlyGivenNames x2
          refine Keep.ite ?_ ?_
          · with_reducible apply ih
            with_reducible apply keep_State_putAll
            with_reducible assumption
          · extract_lets +onlyGivenNames x3
            extract_lets +onlyGivenNames x4
            refine Keep.cut (P := Keep kq ku x4) ?_ fun h5 => ?_
            · unfold x4
              refine Keep.foldl ?_ ?_
              · with_reducible assumption
              · intro _ _ _
                with_reducible apply keep_State_addWrap
                with_reducible assumption
            with_reducible apply keep_State_setTable
            with_reducible assumption

theorem keep_execShiftDone (bell : Fin 32) (s : State) (kh : Keep kq ku s) : OKeep kq ku (execShiftDone bell s) := by
  unfold execShiftDone
  split
  · show Keep _ _ _
    with_reducible assumption
  · split
    · show Keep _ _ _
      with_reducible assumption
    · split
      · extract_lets +onlyGivenNames x0
        extract_lets +onlyGivenNames x1
        refine Keep.cut (P := Keep kq ku x1) ?_ fun h2 => ?_
        · unfold x1
          refine Keep.foldl ?_ ?_
          · with_reducible assumption
          · intro _ _ _
            with_reducible apply keep_State_putEntry
            with_reducible apply keep_State_putEntry
            with_reducible assumption
        extract_lets +onlyGivenNames x3
        refine Keep.cut (P := Keep kq ku x3) ?_ fun h4 => ?_
        · unfold x3
          with_reducible apply keep_State_perf
          with_reducible assumption
        extract_lets +onlyGivenNames x5
        refine OKeep.ite ?_ ?_
        · extract_lets +onlyGivenNames x6
          refine Keep.cut (P := Keep kq ku x6) ?_ fun h7 => ?_
          · unfold x6
            with_reducible apply keep_State_putAll
            with_reducible assumption
          show Keep _ _ _
          with_reducible apply keep_State_insertFrom
          with_reducible assumption
        · show Keep _ _ _
          with_reducible apply keep_State_setTable
          with_reducible assumption
      · show Keep _ _ _
        with_reducible assumption

theorem keep_State_carCommand (s : State) (n code : Nat) (f : State → Cmd → Nat → CarTable → Nat → State) (h : Keep kq ku s)
    (hf : ∀ t c a b d, Keep kq ku t → Keep kq ku (f t c a b d)) : Keep kq ku (s.carCommand n code f) := by
  unfold State.carCommand
  with_reducible apply keep_State_command
  · with_reducible assumption
  · intro _ _ _
    extract_lets +onlyGivenNames x0
    split
    · with_reducible apply keep_State_complete
      with_reducible assumption
    · refine Keep.ite ?_ ?_
      · with_reducible apply keep_State_complete
        with_reducible assumption
      · refine Keep.ite ?_ ?_
        · with_reducible assumption
        · with_reducible apply hf
          with_reducible assumption

theorem keep_State_carRecords (s : State) (n : Nat) (c : Cmd) (t : CarTable) (host : Option (List Byte))
    (f : State → List CarEntry → Bool → State) (h : Keep kq ku s)
    (hf : ∀ t a b, Keep kq ku t → Keep kq ku (f t a b)) : Keep kq ku (s.carRecords n c t host f) := by
  unfold State.carRecords
  extract_lets +onlyGivenNames x0
  split
  · with_reducible apply keep_State_complete
    with_reducible assumption
  · with_reducible apply hf
    with_reducible assumption

theorem keep_execCarInsert (ring : Fin 16) (records : Option (List Byte)) (s : State) (kh : Keep kq ku s) : OKeep kq ku (execCarInsert ring records s) := by
  unfold execCarInsert
  show Keep _ _ _
  with_reducible apply keep_State_carCommand
  · with_reducible assumption
  · intro _ _ _ _ _ _
    with_reducible apply keep_State_carRecords
    · with_reducible assumption
    · intro _ _ _ _
      with_reducible apply keep_State_insertFrom
      with_reducible apply keep_State_setBusy
      with_reducible assumption

theorem keep_State_editFrom (s : State) (n tid set : Nat) (bad : Bool) (new : CarEntry → CarEntry → Option CarEntry) (l : List CarEntry) (k : Nat)
    (h : Keep kq ku s) : Keep kq ku (s.editFrom n tid set bad new l k) := by
  induction l generalizing s k with
  | nil =>
    unfold State.editFrom
    split
    · with_reducible apply keep_State_complete
      with_reducible assumption
    · with_reducible assumption
  | cons e l ih =>
    unfold State.editFrom
    split
    · with_reducible assumption
    · split
      · with_reducible apply keep_State_complete
        with_reducible assumption
      · with_reducible apply ih
        with_reducible apply keep_State_putAll
        with_reducible assumption

theorem keep_execCarDelete (ring : Fin 16) (records : Option (List Byte)) (s : State) (kh : Keep kq ku s) : OKeep kq ku (execCarDelete ring records s) := by
  unfold execCarDelete
  show Keep _ _ _
  with_reducible apply keep_State_carCommand
  · with_reducible assumption
  · intro _ _ _ _ _ _
    with_reducible apply keep_State_carRecords
    · with_reducible assumption
    · intro _ _ _ _
      with_reducible apply keep_State_editFrom
      with_reducible assumption

theorem keep_execCarModify (ring : Fin 16) (records : Option (List Byte)) (s : State) (kh : Keep kq ku s) : OKeep kq ku (execCarModify ring records s) := by
  unfold execCarModify
  show Keep _ _ _
  with_reducible apply keep_State_carCommand
  · with_reducible assumption
  · intro _ _ _ _ _ _
    with_reducible apply keep_State_carRecords
    · with_reducible assumption
    · intro _ _ _ _
      with_reducible apply keep_State_editFrom
      with_reducible assumption

theorem keep_State_startLoad (s : State) (tid : Nat) (t : CarTable) (ring : Option Nat) (set : Nat) (es : List CarEntry) (bad : Bool) (kh : Keep kq ku s) : Keep kq ku (State.startLoad s tid t ring set es bad) := by
  unfold State.startLoad
  extract_lets +onlyGivenNames x0
  refine Keep.cut (P := Keep kq ku x0) ?_ fun h1 => ?_
  · unfold x0
    with_reducible apply keep_State_putBells
    with_reducible assumption
  with_reducible apply keep_State_setTable
  with_reducible assumption

theorem keep_execCarLoad (ring : Fin 16) (records : Option (List Byte)) (s : State) (kh : Keep kq ku s) : OKeep kq ku (execCarLoad ring records s) := by
  unfold execCarLoad
  show Keep _ _ _
  with_reducible apply keep_State_carCommand
  · with_reducible assumption
  · intro _ _ _ _ _ _
    refine Keep.ite ?_ ?_
    · with_reducible apply keep_State_complete
      with_reducible assumption
    · with_reducible apply keep_State_carRecords
      · with_reducible assumption
      · intro _ _ _ _
        with_reducible apply keep_State_startLoad
        with_reducible apply keep_State_setBusy
        with_reducible assumption

theorem keep_execCarLoadDone (table : Fin 32) (s : State) (kh : Keep kq ku s) : OKeep kq ku (execCarLoadDone table s) := by
  unfold execCarLoadDone
  split
  · split
    · extract_lets +onlyGivenNames x0
      refine Keep.cut (P := Keep kq ku x0) ?_ fun h1 => ?_
      · unfold x0
        with_reducible apply keep_State_putBells
        with_reducible assumption
      show Keep _ _ _
      with_reducible apply keep_State_endJob
      with_reducible assumption
    · show Keep _ _ _
      with_reducible assumption
  · show Keep _ _ _
    with_reducible assumption

theorem keep_execCarRegap (ring : Fin 16) (s : State) (kh : Keep kq ku s) : OKeep kq ku (execCarRegap ring s) := by
  unfold execCarRegap
  show Keep _ _ _
  with_reducible apply keep_State_carCommand
  · with_reducible assumption
  · intro _ _ _ _ _ _
    with_reducible apply keep_State_setTable
    with_reducible apply keep_State_setBusy
    with_reducible assumption

theorem keep_execCarRegapDone (table : Fin 32) (s : State) (kh : Keep kq ku s) : OKeep kq ku (execCarRegapDone table s) := by
  unfold execCarRegapDone
  split
  · split
    · extract_lets +onlyGivenNames x0
      extract_lets +onlyGivenNames x1
      refine Keep.cut (P := Keep kq ku x1) ?_ fun h2 => ?_
      · unfold x1
        refine Keep.foldl ?_ ?_
        · with_reducible assumption
        · intro _ _ _
          refine Keep.foldl ?_ ?_
          · with_reducible assumption
          · intro _ _ _
            with_reducible apply keep_State_perf
            with_reducible assumption
      extract_lets +onlyGivenNames x3
      refine Keep.cut (P := Keep kq ku x3) ?_ fun h4 => ?_
      · unfold x3
        with_reducible apply keep_State_putBells
        with_reducible assumption
      show Keep _ _ _
      with_reducible apply keep_State_endJob
      with_reducible assumption
    · show Keep _ _ _
      with_reducible assumption
  · show Keep _ _ _
    with_reducible assumption

theorem keep_State_swapNow (s : State) (tid : Nat) (t : CarTable) (j : CarJob) (kh : Keep kq ku s) : Keep kq ku (State.swapNow s tid t j) := by
  unfold State.swapNow
  with_reducible apply keep_State_endJob
  with_reducible assumption

theorem keep_execCarSwap (ring : Fin 16) (s : State) (kh : Keep kq ku s) : OKeep kq ku (execCarSwap ring s) := by
  unfold execCarSwap
  show Keep _ _ _
  with_reducible apply keep_State_carCommand
  · with_reducible assumption
  · intro _ _ _ _ _ _
    extract_lets +onlyGivenNames x0
    extract_lets +onlyGivenNames x1
    refine Keep.ite ?_ ?_
    · with_reducible apply keep_State_swapNow
      with_reducible assumption
    · refine Keep.ite ?_ ?_
      · with_reducible apply keep_State_complete
        with_reducible assumption
      · with_reducible apply keep_State_setTable
        with_reducible apply keep_State_setBusy
        with_reducible assumption

theorem keep_State_swapAtCue (s : State) (cue : Nat) (kh : Keep kq ku s) : Keep kq ku (State.swapAtCue s cue) := by
  unfold State.swapAtCue
  refine Keep.foldl ?_ ?_
  · with_reducible assumption
  · intro _ _ _
    split
    · split
      · refine Keep.ite ?_ ?_
        · with_reducible apply keep_State_swapNow
          with_reducible assumption
        · with_reducible assumption
      · with_reducible assumption
    · with_reducible assumption

theorem keep_execWindowWrite (addr : Nat) (s : State) (kh : Keep kq ku s) : OKeep kq ku (execWindowWrite addr s) := by
  unfold execWindowWrite
  show Keep _ _ _
  refine Keep.ite ?_ ?_
  · with_reducible apply keep_State_error
    with_reducible assumption
  · with_reducible assumption

theorem keep_execScrubCompare (bell : Fin 32) (env : ScrubEnv) (s : State) (kh : Keep kq ku s) : OKeep kq ku (execScrubCompare bell env s) := by
  unfold execScrubCompare
  split
  · show Keep _ _ _
    with_reducible assumption
  · extract_lets +onlyGivenNames x0
    refine OKeep.ite ?_ ?_
    · show Keep _ _ _
      with_reducible assumption
    · extract_lets +onlyGivenNames x1
      extract_lets +onlyGivenNames x2
      refine Keep.cut (P := Keep kq ku x2) ?_ fun h3 => ?_
      · unfold x2
        with_reducible apply keep_State_setFld
        with_reducible assumption
      refine OKeep.ite ?_ ?_
      · show Keep _ _ _
        with_reducible assumption
      · extract_lets +onlyGivenNames x4
        refine Keep.cut (P := Keep kq ku x4) ?_ fun h5 => ?_
        · unfold x4
          with_reducible apply keep_State_perf
          with_reducible assumption
        extract_lets +onlyGivenNames x6
        extract_lets +onlyGivenNames x7
        extract_lets +onlyGivenNames x8
        subst x8
        refine OKeep.ite ?_ ?_
        · refine OKeep.ite ?_ ?_
          · show Keep _ _ _
            beta_reduce
            with_reducible apply keep_State_error
            with_reducible apply keep_State_addSat
            with_reducible apply keep_State_setBell
            with_reducible assumption
          · show Keep _ _ _
            with_reducible assumption
        · refine OKeep.ite ?_ ?_
          · show Keep _ _ _
            with_reducible apply keep_State_loseIndex
            with_reducible apply keep_State_setBell
            with_reducible assumption
          · show Keep _ _ _
            beta_reduce
            with_reducible apply keep_State_error
            with_reducible apply keep_State_addSat
            with_reducible apply keep_State_writeDev
            with_reducible assumption

theorem keep_State_setShare (s : State) (t : JTab) (o : Nat) (x : Share) (kh : Keep kq ku s) : Keep kq ku (State.setShare s t o x) := by
  unfold State.setShare
  with_reducible refine Keep.mk' ?_ rfl rfl rfl rfl (.inl rfl)
  with_reducible assumption

theorem keep_State_putShare (s : State) (t : JTab) (o a : Nat) (bs : List Byte) (kh : Keep kq ku s) : Keep kq ku (State.putShare s t o a bs) := by
  unfold State.putShare
  with_reducible apply keep_State_writeMem
  with_reducible assumption

theorem keep_State_insertNew (s : State) (t : JTab) (o h : Nat) (r : Built) (pay : List Byte) (kh : Keep kq ku s) : QKeep kq ku (State.insertNew s t o h r pay) := by
  unfold State.insertNew
  extract_lets +onlyGivenNames x0
  extract_lets +onlyGivenNames x1
  split
  · extract_lets +onlyGivenNames x2
    refine Keep.cut (P := Keep kq ku x2) ?_ fun h3 => ?_
    · unfold x2
      with_reducible apply keep_State_setShare
      with_reducible assumption
    extract_lets +onlyGivenNames x4
    refine Keep.cut (P := Keep kq ku x4) ?_ fun h5 => ?_
    · unfold x4
      refine Keep.ite ?_ ?_
      · with_reducible apply keep_State_putShare
        with_reducible assumption
      · with_reducible assumption
    extract_lets +onlyGivenNames x6
    refine Keep.cut (P := Keep kq ku x6) ?_ fun h7 => ?_
    · unfold x6
      refine Keep.foldl ?_ ?_
      · with_reducible assumption
      · intro _ _ _
        extract_lets +onlyGivenNames x8
        with_reducible apply keep_State_putShare
        with_reducible assumption
    extract_lets +onlyGivenNames x9
    refine Keep.cut (P := Keep kq ku x9) ?_ fun h10 => ?_
    · unfold x9
      with_reducible apply keep_State_putShare
      with_reducible assumption
    extract_lets +onlyGivenNames x11
    refine Keep.cut (P := Keep kq ku x11) ?_ fun h12 => ?_
    · unfold x11
      with_reducible apply keep_State_putShare
      with_reducible assumption
    extract_lets +onlyGivenNames x13
    extract_lets +onlyGivenNames x14
    extract_lets +onlyGivenNames x15
    show Keep _ _ _
    dsimp -zeta only
    with_reducible apply keep_State_putShare
    with_reducible assumption
  · exact trivial

theorem keep_State_insertRow (s : State) (t : JTab) (o h : Nat) (r : Built) (kh : Keep kq ku s) : QKeep kq ku (State.insertRow s t o h r) := by
  unfold State.insertRow
  extract_lets +onlyGivenNames x0
  split
  · refine QKeep.map ?_ ?_
    · with_reducible apply keep_State_insertNew
      with_reducible assumption
    · intro _ _
      with_reducible assumption
  · split
    · exact trivial
    · extract_lets +onlyGivenNames x1
      extract_lets +onlyGivenNames x2
      extract_lets +onlyGivenNames x3
      extract_lets +onlyGivenNames x4
      extract_lets +onlyGivenNames x5
      refine Keep.cut (P := Keep kq ku x5) ?_ fun h6 => ?_
      · unfold x5
        with_reducible apply keep_State_setShare
        with_reducible assumption
      extract_lets +onlyGivenNames x7
      refine Keep.cut (P := Keep kq ku x7) ?_ fun h8 => ?_
      · unfold x7
        refine Keep.ite ?_ ?_
        · with_reducible apply keep_State_putShare
          with_reducible assumption
        · with_reducible assumption
      extract_lets +onlyGivenNames x9
      refine Keep.cut (P := Keep kq ku x9) ?_ fun h10 => ?_
      · unfold x9
        with_reducible apply keep_State_putShare
        with_reducible assumption
      split
      · show Keep _ _ _
        dsimp -zeta only
        with_reducible apply keep_State_putShare
        with_reducible assumption
      · extract_lets +onlyGivenNames x11
        extract_lets +onlyGivenNames x12
        show Keep _ _ _
        dsimp -zeta only
        with_reducible apply keep_State_putShare
        with_reducible assumption

theorem keep_State_changeState (s : State) (t : JTab) (o n : Nat) (q : Nat × Nat × Nat × Nat) (sk : Bool) (f : List Byte → List Byte) (kh : Keep kq ku s) : PKeep kq ku (State.changeState s t o n q sk f) := by
  unfold State.changeState
  extract_lets +onlyGivenNames x0
  extract_lets +onlyGivenNames x1
  extract_lets +onlyGivenNames x2
  extract_lets +onlyGivenNames x3
  extract_lets +onlyGivenNames x4
  refine PKeep.ite ?_ ?_
  · show Keep _ _ _
    with_reducible apply keep_State_putShare
    with_reducible assumption
  · refine PKeep.ite ?_ ?_
    · show Keep _ _ _
      with_reducible assumption
    · refine PKeep.ite ?_ ?_
      · split
        · exact trivial
        · extract_lets +onlyGivenNames x5
          refine Keep.cut (P := Keep kq ku x5) ?_ fun h6 => ?_
          · unfold x5
            with_reducible apply keep_State_putShare
            with_reducible apply keep_State_setShare
            with_reducible assumption
          show Keep _ _ _
          with_reducible apply keep_State_putShare
          with_reducible assumption
      · extract_lets +onlyGivenNames x7
        show Keep _ _ _
        with_reducible apply keep_State_putShare
        with_reducible assumption

theorem keep_State_groupOf (s : State) (t : JTab) (o h : Nat) (k : JKey) (kh : Keep kq ku s) : QKeep kq ku (State.groupOf s t o h k) := by
  unfold State.groupOf
  split
  · show Keep _ _ _
    with_reducible assumption
  · refine QKeep.map ?_ ?_
    · with_reducible apply keep_State_insertNew
      with_reducible assumption
    · intro _ _
      with_reducible assumption

theorem keep_State_applyGroup (s : State) (t : JTab) (o h : Nat) (r : Built) (kh : Keep kq ku s) : QKeep kq ku (State.applyGroup s t o h r) := by
  unfold State.applyGroup
  split
  · exact trivial
  · extract_lets +onlyGivenNames x0
    refine Keep.cut (P := PKeep kq ku x0) ?_ fun h1 => ?_
    · unfold x0
      refine PKeep.foldl ?_ ?_
      · show Keep _ _ _
        refine QKeep.eq (by with_reducible assumption) ?_
        with_reducible apply keep_State_groupOf
        with_reducible assumption
      · intro _ _ _
        refine PKeep.bind ?_ ?_
        · with_reducible assumption
        · intro _ _
          split
          · show Keep _ _ _
            with_reducible assumption
          · with_reducible apply keep_State_changeState
            with_reducible assumption
    clear_value x0
    extract_lets +onlyGivenNames x2
    refine Keep.cut (P := PKeep kq ku x2) ?_ fun h3 => ?_
    · unfold x2
      refine PKeep.foldl ?_ ?_
      · with_reducible assumption
      · intro _ _ _
        refine PKeep.bind ?_ ?_
        · with_reducible assumption
        · intro _ _
          with_reducible apply keep_State_changeState
          with_reducible assumption
    clear_value x2
    refine PKeep.map ?_ ?_
    · with_reducible assumption
    · intro _ _
      with_reducible assumption

theorem keep_State_put (s : State) (t : JTab) (o h : Nat) (r : Built) (kh : Keep kq ku s) : QKeep kq ku (State.put s t o h r) := by
  unfold State.put
  refine QKeep.ite ?_ ?_
  · with_reducible apply keep_State_applyGroup
    with_reducible assumption
  · with_reducible apply keep_State_insertRow
    with_reducible assumption

theorem keep_State_spill (s : State) (t : JTab) (o : Nat) (x : Spill) (kh : Keep kq ku s) : Keep kq ku (State.spill s t o x) := by
  unfold State.spill
  extract_lets +onlyGivenNames x0
  extract_lets +onlyGivenNames x1
  refine Keep.ite ?_ ?_
  · with_reducible apply keep_State_claimOverrun
    with_reducible assumption
  · with_reducible apply keep_State_setShare
    with_reducible assumption

theorem keep_State_evict (s : State) (t : JTab) (o : Nat) (kh : Keep kq ku s) : PKeep kq ku (State.evict s t o) := by
  unfold State.evict
  extract_lets +onlyGivenNames x0
  extract_lets +onlyGivenNames x1
  split
  · exact trivial
  · extract_lets +onlyGivenNames x2
    extract_lets +onlyGivenNames x3
    extract_lets +onlyGivenNames x4
    extract_lets +onlyGivenNames x5
    extract_lets +onlyGivenNames x6
    extract_lets +onlyGivenNames x7
    refine Keep.cut (P := Keep kq ku x7) ?_ fun h8 => ?_
    · unfold x7
      refine Keep.foldl ?_ ?_
      · with_reducible assumption
      · intro _ _ _
        split
        · with_reducible assumption
        · extract_lets +onlyGivenNames x9
          extract_lets +onlyGivenNames x10
          with_reducible apply keep_State_putShare
          with_reducible assumption
    extract_lets +onlyGivenNames x11
    refine Keep.cut (P := Keep kq ku x11) ?_ fun h12 => ?_
    · unfold x11
      with_reducible apply keep_State_setShare
      with_reducible assumption
    extract_lets +onlyGivenNames x13
    refine Keep.cut (P := Keep kq ku x13) ?_ fun h14 => ?_
    · unfold x13
      with_reducible apply keep_State_addSat
      with_reducible assumption
    show Keep _ _ _
    with_reducible apply keep_State_spill
    with_reducible assumption

theorem keep_State_putEvict (f : Nat) (s : State) (t : JTab) (o hh : Nat) (r : Built) (h : Keep kq ku s) : Keep kq ku (State.putEvict f s t o hh r).1 := by
  induction f generalizing s with
  | zero =>
    unfold State.putEvict
    extract_lets +onlyGivenNames x0
    extract_lets +onlyGivenNames x1
    split
    · dsimp -zeta only
      with_reducible apply keep_State_spill
      with_reducible assumption
    · split
      · dsimp -zeta only
        refine QKeep.eq (by with_reducible assumption) ?_
        with_reducible apply keep_State_put
        with_reducible assumption
      · with_reducible assumption
  | succ k ih =>
    unfold State.putEvict
    extract_lets +onlyGivenNames x0
    extract_lets +onlyGivenNames x1
    split
    · dsimp -zeta only
      with_reducible apply keep_State_spill
      with_reducible assumption
    · split
      · dsimp -zeta only
        refine QKeep.eq (by with_reducible assumption) ?_
        with_reducible apply keep_State_put
        with_reducible assumption
      · split
        · with_reducible assumption
        · split
          · rename_i e _ _ _
            injection e with e
            subst e
            with_reducible apply ih
            refine PKeep.eq (by with_reducible assumption) ?_
            with_reducible apply keep_State_evict
            with_reducible assumption
          · with_reducible assumption

theorem keep_State_emptyShare (s : State) (t : JTab) (o level : Nat) (keep : Share) (kh : Keep kq ku s) : Keep kq ku (State.emptyShare s t o level keep) := by
  unfold State.emptyShare
  extract_lets +onlyGivenNames x0
  extract_lets +onlyGivenNames x1
  refine Keep.cut (P := Keep kq ku x1) ?_ fun h2 => ?_
  · unfold x1
    refine Keep.foldl ?_ ?_
    · with_reducible assumption
    · intro _ _ _
      with_reducible apply keep_State_putShare
      with_reducible assumption
  with_reducible apply keep_State_setShare
  with_reducible assumption

theorem keep_State_setPu (s : State) (tile : Nat) (u : ProbeUnit) (kh : Keep kq ku s) : Keep kq ku (State.setPu s tile u) := by
  unfold State.setPu
  with_reducible refine Keep.mk' ?_ rfl rfl rfl rfl (.inl rfl)
  with_reducible assumption

theorem keep_State_reply (s : State) (tile : Nat) (a : Answer) (kh : Keep kq ku s) : Keep kq ku (State.reply s tile a) := by
  unfold State.reply
  extract_lets +onlyGivenNames x0
  with_reducible apply keep_State_setPu
  with_reducible assumption

theorem keep_State_setProbes (s : State) (tile : Nat) (l : List Probe) (kh : Keep kq ku s) : Keep kq ku (State.setProbes s tile l) := by
  unfold State.setProbes
  with_reducible apply keep_State_setFld
  with_reducible apply keep_State_setTile
  with_reducible assumption

theorem keep_State_tablePoison (s : State) (t : JTab) (o : Nat) (kh : Keep kq ku s) : Keep kq ku (State.tablePoison s t o) := by
  unfold State.tablePoison
  extract_lets +onlyGivenNames x0
  refine Keep.cut (P := Keep kq ku x0) ?_ fun h1 => ?_
  · unfold x0
    with_reducible apply keep_State_error
    with_reducible assumption
  extract_lets +onlyGivenNames x2
  refine Keep.cut (P := Keep kq ku x2) ?_ fun h3 => ?_
  · unfold x2
    with_reducible apply keep_State_regenerate
    with_reducible assumption
  refine Keep.ite ?_ ?_
  · with_reducible assumption
  · with_reducible apply keep_State_rebuildStage
    with_reducible assumption

theorem keep_State_noteProbe (s : State) (tile : Nat) (t : JTab) (o : Nat) (k : JKey) (kh : Keep kq ku s) : Keep kq ku (State.noteProbe s tile t o k) := by
  unfold State.noteProbe
  refine Keep.ite ?_ ?_
  · with_reducible assumption
  · extract_lets +onlyGivenNames x0
    extract_lets +onlyGivenNames x1
    extract_lets +onlyGivenNames x2
    refine Keep.ite ?_ ?_
    · with_reducible apply keep_State_setPu
      with_reducible assumption
    · extract_lets +onlyGivenNames x3
      refine Keep.cut (P := Keep kq ku x3) ?_ fun h4 => ?_
      · unfold x3
        with_reducible apply keep_State_setPu
        with_reducible assumption
      refine Keep.ite ?_ ?_
      · extract_lets +onlyGivenNames x5
        extract_lets +onlyGivenNames x6
        refine Keep.ite ?_ ?_
        · with_reducible apply keep_State_setFld
          with_reducible apply keep_State_setTile
          with_reducible assumption
        · with_reducible assumption
      · extract_lets +onlyGivenNames x7
        extract_lets +onlyGivenNames x8
        with_reducible apply keep_State_setPu
        with_reducible assumption

theorem keep_State_applyPartial (s : State) (tile : Nat) (t : JTab) (r : Built) (kh : Keep kq ku s) : PKeep kq ku (State.applyPartial s tile t r) := by
  unfold State.applyPartial
  extract_lets +onlyGivenNames x0
  refine PKeep.ite ?_ ?_
  · extract_lets +onlyGivenNames x1
    show Keep _ _ _
    with_reducible apply keep_State_setTile
    with_reducible assumption
  · exact trivial

theorem keep_State_flushPartials (s : State) (tile p : Nat) (kh : Keep kq ku s) : Keep kq ku (State.flushPartials s tile p) := by
  unfold State.flushPartials
  extract_lets +onlyGivenNames x0
  refine Keep.cut (P := Keep kq ku x0) ?_ fun h1 => ?_
  · unfold x0
    refine Keep.foldl ?_ ?_
    · with_reducible assumption
    · intro _ _ _
      split
      · with_reducible assumption
      · extract_lets +onlyGivenNames x2
        extract_lets +onlyGivenNames x3
        extract_lets +onlyGivenNames x4
        clear_value x4
        clear_value x3
        with_reducible apply keep_State_putEvict
        with_reducible assumption
  with_reducible apply keep_State_setFld
  with_reducible apply keep_State_setTile
  with_reducible assumption

theorem keep_State_issueProbes (s : State) (tile th p : Nat) (x : Thread) (kind : ProbeKind) (mask ty b a d : Nat) (kh : Keep kq ku s) : Keep kq ku (State.issueProbes s tile th p x kind mask ty b a d) := by
  unfold State.issueProbes
  split
  · with_reducible apply keep_State_setThread
    with_reducible assumption
  · extract_lets +onlyGivenNames x0
    extract_lets +onlyGivenNames x1
    extract_lets +onlyGivenNames x2
    split
    · with_reducible apply keep_State_tmRange
      with_reducible assumption
    · extract_lets +onlyGivenNames x3
      extract_lets +onlyGivenNames x4
      refine Keep.ite ?_ ?_
      · with_reducible apply keep_State_perf
        with_reducible assumption
      · extract_lets +onlyGivenNames x5
        refine Keep.cut (P := Keep kq ku x5) ?_ fun h6 => ?_
        · unfold x5
          with_reducible apply keep_State_perf
          with_reducible assumption
        extract_lets +onlyGivenNames x7
        extract_lets +onlyGivenNames x8
        refine Keep.cut (P := Keep kq ku x8) ?_ fun h9 => ?_
        · unfold x8
          refine Keep.ite ?_ ?_
          · with_reducible apply keep_State_setThread
            with_reducible assumption
          · with_reducible apply keep_State_setThread
            with_reducible assumption
        refine Keep.foldl ?_ ?_
        · with_reducible assumption
        · intro _ _ _
          extract_lets +onlyGivenNames x10
          extract_lets +onlyGivenNames x11
          extract_lets +onlyGivenNames x12
          refine Keep.cut (P := Keep kq ku x12) ?_ fun h13 => ?_
          · unfold x12
            with_reducible apply keep_State_noteProbe
            with_reducible assumption
          extract_lets +onlyGivenNames x14
          extract_lets +onlyGivenNames x15
          clear_value x15
          split
          · extract_lets +onlyGivenNames x16
            with_reducible apply keep_State_perf
            with_reducible apply keep_State_reply
            with_reducible assumption
          · extract_lets +onlyGivenNames x17
            split
            · extract_lets +onlyGivenNames x18
              refine Keep.cut (P := Keep kq ku x18.2) ?_ fun h19 => ?_
              · unfold x18
                with_reducible apply keep_State_fresh
                refine PKeep.eq (by with_reducible assumption) ?_
                refine PKeep.ite ?_ ?_
                · with_reducible apply keep_State_applyPartial
                  with_reducible assumption
                · exact trivial
              with_reducible apply keep_State_reply
              with_reducible assumption
            · extract_lets +onlyGivenNames x20
              extract_lets +onlyGivenNames x21
              with_reducible apply keep_State_setProbes
              with_reducible assumption

theorem keep_execProbeLookup (tile : Fin 64) (th : Fin 8) (mask : BitVec 3) (ty : BitVec 4) (b a d : BitVec 5) (s : State) (kh : Keep kq ku s) : OKeep kq ku (execProbeLookup tile th mask ty b a d s) := by
  unfold execProbeLookup
  with_reducible apply keep_ifWord
  with_reducible apply keep_State_issueWith
  · with_reducible assumption
  · intro _ _ _ _
    with_reducible apply keep_State_issueProbes
    with_reducible assumption

theorem keep_execProbeInsert (tile : Fin 64) (th : Fin 8) (mask : BitVec 3) (ty : BitVec 4) (b a d : BitVec 5) (s : State) (kh : Keep kq ku s) : OKeep kq ku (execProbeInsert tile th mask ty b a d s) := by
  unfold execProbeInsert
  with_reducible apply keep_ifWord
  with_reducible apply keep_State_issueWith
  · with_reducible assumption
  · intro _ _ _ _
    with_reducible apply keep_State_issueProbes
    with_reducible assumption

theorem keep_execProbeUpdate (tile : Fin 64) (th : Fin 8) (mask : BitVec 3) (ty : BitVec 4) (b a d : BitVec 5) (s : State) (kh : Keep kq ku s) : OKeep kq ku (execProbeUpdate tile th mask ty b a d s) := by
  unfold execProbeUpdate
  with_reducible apply keep_ifWord
  with_reducible apply keep_State_issueWith
  · with_reducible assumption
  · intro _ _ _ _
    with_reducible apply keep_State_issueProbes
    with_reducible assumption

theorem keep_State_served (s : State) (owner : Nat) (f : JFind) (kh : Keep kq ku s) : Keep kq ku (State.served s owner f) := by
  unfold State.served
  with_reducible apply keep_State_perf
  with_reducible apply keep_State_perf
  with_reducible apply keep_State_perf
  with_reducible apply keep_State_addWrap
  with_reducible assumption

theorem keep_State_serveRow (s : State) (tile p : Nat) (r : JoinRow) (kh : Keep kq ku s) : Keep kq ku (State.serveRow s tile p r) := by
  unfold State.serveRow
  extract_lets +onlyGivenNames x0
  split
  · with_reducible assumption
  · extract_lets +onlyGivenNames x1
    extract_lets +onlyGivenNames x2
    extract_lets +onlyGivenNames x3
    extract_lets +onlyGivenNames x4
    extract_lets +onlyGivenNames x5
    refine Keep.ite ?_ ?_
    · with_reducible assumption
    · refine Keep.ite ?_ ?_
      · extract_lets +onlyGivenNames x6
        refine Keep.cut (P := Keep kq ku x6) ?_ fun h7 => ?_
        · unfold x6
          with_reducible apply keep_State_noteProbe
          with_reducible assumption
        refine Keep.ite ?_ ?_
        · with_reducible apply keep_State_reply
          with_reducible assumption
        · refine Keep.ite ?_ ?_
          · with_reducible apply keep_State_spill
            with_reducible assumption
          · extract_lets +onlyGivenNames x8
            refine Keep.ite ?_ ?_
            · with_reducible apply keep_State_tablePoison
              with_reducible assumption
            · with_reducible apply keep_State_reply
              with_reducible apply keep_State_served
              with_reducible assumption
      · refine Keep.ite ?_ ?_
        · with_reducible apply keep_State_addSat
          with_reducible assumption
        · extract_lets +onlyGivenNames x9
          extract_lets +onlyGivenNames x10
          refine Keep.ite ?_ ?_
          · with_reducible apply keep_State_tablePoison
            with_reducible assumption
          · extract_lets +onlyGivenNames x11
            refine Keep.cut (P := Keep kq ku x11) ?_ fun h12 => ?_
            · unfold x11
              refine Keep.ite ?_ ?_
              · with_reducible apply keep_State_noteProbe
                with_reducible assumption
              · with_reducible assumption
            split
            · refine PKeep.eq (by with_reducible assumption) ?_
              refine PKeep.ite ?_ ?_
              · with_reducible apply keep_State_applyPartial
                with_reducible assumption
              · exact trivial
            · clear_value x2
              clear_value x4
              clear_value x9
              with_reducible apply keep_State_putEvict
              with_reducible apply keep_State_served
              with_reducible assumption

theorem keep_State_serveProbe (s : State) (tile : Nat) (q : Probe) (kh : Keep kq ku s) : Keep kq ku (State.serveProbe s tile q) := by
  unfold State.serveProbe
  split
  · with_reducible assumption
  · extract_lets +onlyGivenNames x0
    extract_lets +onlyGivenNames x1
    extract_lets +onlyGivenNames x2
    extract_lets +onlyGivenNames x3
    extract_lets +onlyGivenNames x4
    extract_lets +onlyGivenNames x5
    refine Keep.ite ?_ ?_
    · with_reducible apply keep_State_tablePoison
      with_reducible assumption
    · extract_lets +onlyGivenNames x6
      refine Keep.cut (P := Keep kq ku x6) ?_ fun h7 => ?_
      · unfold x6
        with_reducible apply keep_State_served
        with_reducible assumption
      extract_lets +onlyGivenNames x8
      extract_lets +onlyGivenNames x9
      subst x9
      split
      · refine Keep.ite ?_ ?_
        · beta_reduce
          with_reducible apply keep_State_reply
          with_reducible assumption
        · refine Keep.ite ?_ ?_
          · extract_lets +onlyGivenNames x10
            refine Keep.cut (P := Keep kq ku x10.2) ?_ fun h11 => ?_
            · unfold x10
              with_reducible apply keep_State_fresh
              with_reducible assumption
            extract_lets +onlyGivenNames x12
            refine Keep.cut (P := Keep kq ku x12.2) ?_ fun h13 => ?_
            · unfold x12
              with_reducible apply keep_State_fresh
              with_reducible assumption
            beta_reduce
            with_reducible apply keep_State_reply
            with_reducible assumption
          · split
            · beta_reduce
              with_reducible apply keep_State_reply
              with_reducible assumption
            · extract_lets +onlyGivenNames x14
              refine Keep.ite ?_ ?_
              · with_reducible apply keep_State_tablePoison
                with_reducible assumption
              · beta_reduce
                with_reducible apply keep_State_reply
                with_reducible assumption
      · extract_lets +onlyGivenNames x15
        extract_lets +onlyGivenNames x16
        split
        · beta_reduce
          with_reducible apply keep_State_reply
          refine Keep.eq1 (by with_reducible assumption) ?_
          clear_value x2
          clear_value x4
          clear_value x16
          with_reducible apply keep_State_putEvict
          with_reducible assumption
        · extract_lets +onlyGivenNames x17
          refine Keep.cut (P := Keep kq ku x17.2) ?_ fun h18 => ?_
          · unfold x17
            with_reducible apply keep_State_fresh
            refine Keep.eq1 (by with_reducible assumption) ?_
            clear_value x2
            clear_value x4
            clear_value x16
            with_reducible apply keep_State_putEvict
            with_reducible assumption
          beta_reduce
          with_reducible apply keep_State_reply
          with_reducible assumption

theorem keep_execProbeServe (tile : Fin 64) (row : Option JoinRow) (s : State) (kh : Keep kq ku s) : OKeep kq ku (execProbeServe tile row s) := by
  unfold execProbeServe
  split
  · show Keep _ _ _
    with_reducible assumption
  · refine OKeep.ite ?_ ?_
    · show Keep _ _ _
      with_reducible assumption
    · split
      · extract_lets +onlyGivenNames x0
        split
        · refine OKeep.ite ?_ ?_
          · show Keep _ _ _
            with_reducible apply keep_State_serveRow
            with_reducible assumption
          · show Keep _ _ _
            with_reducible assumption
        · show Keep _ _ _
          with_reducible assumption
      · split
        · show Keep _ _ _
          with_reducible assumption
        · show Keep _ _ _
          with_reducible apply keep_State_serveProbe
          with_reducible apply keep_State_setProbes
          with_reducible assumption

theorem keep_State_putRows (s : State) (tile : Nat) (rs : List OutRow) (kh : Keep kq ku s) : Keep kq ku (State.putRows s tile rs) := by
  unfold State.putRows
  extract_lets +onlyGivenNames x0
  with_reducible apply keep_State_setPu
  with_reducible assumption

theorem keep_execProbeResponse (tile : Fin 64) (s : State) (kh : Keep kq ku s) : OKeep kq ku (execProbeResponse tile s) := by
  unfold execProbeResponse
  split
  · show Keep _ _ _
    with_reducible assumption
  · extract_lets +onlyGivenNames x0
    extract_lets +onlyGivenNames x1
    refine Keep.cut (P := Keep kq ku x1) ?_ fun h2 => ?_
    · unfold x1
      with_reducible apply keep_State_setPu
      with_reducible assumption
    split
    · extract_lets +onlyGivenNames x3
      extract_lets +onlyGivenNames x4
      extract_lets +onlyGivenNames x5
      show Keep _ _ _
      with_reducible apply keep_State_setThread
      with_reducible assumption
    · split
      · show Keep _ _ _
        with_reducible assumption
      · extract_lets +onlyGivenNames x6
        show Keep _ _ _
        with_reducible apply keep_State_putRows
        with_reducible assumption

theorem keep_State_buildPass (s : State) (t : JTab) (o level : Nat) (l : List Built) (h : Keep kq ku s) : Keep kq ku (s.buildPass t o level l).1 := by
  induction l generalizing s with
  | nil =>
    unfold State.buildPass
    with_reducible assumption
  | cons e l ih =>
    unfold State.buildPass
    extract_lets +onlyGivenNames x0
    split
    · split
      · with_reducible apply ih
        refine QKeep.eq1 (by with_reducible assumption) ?_
        with_reducible apply keep_State_put
        with_reducible assumption
      · with_reducible assumption
    · with_reducible apply ih
      clear_value x0
      with_reducible apply keep_State_putEvict
      with_reducible assumption

theorem keep_State_probePass (s : State) (t : JTab) (o level p : Nat) (l : List JoinRow) (h : Keep kq ku s) : Keep kq ku (s.probePass t o level p l).1 := by
  induction l generalizing s with
  | nil =>
    unfold State.probePass
    with_reducible assumption
  | cons e l ih =>
    unfold State.probePass
    extract_lets +onlyGivenNames x0
    extract_lets +onlyGivenNames x1
    split
    · with_reducible apply ih
      with_reducible apply keep_State_spill
      with_reducible assumption
    · with_reducible apply ih
      with_reducible assumption

theorem keep_State_emitRows (s : State) (r : JoinRow) (bs : List (Option (List Byte))) (kh : Keep kq ku s) : Keep kq ku (State.emitRows s r bs) := by
  unfold State.emitRows
  with_reducible apply keep_State_putRows
  with_reducible assumption

theorem keep_State_pieces (f : Nat) (s : State) (t : JTab) (o p : Nat) (build : List Built) (probe : List JoinRow) (m : List (Bool × Option EntryRec)) (h : Keep kq ku s) :
    Keep kq ku (State.pieces f s t o p build probe m).1 := by
  induction f generalizing s build probe m with
  | zero =>
    unfold State.pieces
    with_reducible assumption
  | succ k ih =>
    unfold State.pieces
    extract_lets +onlyGivenNames x0
    refine Keep.cut (P := Keep kq ku x0) ?_ fun h1 => ?_
    · unfold x0
      with_reducible apply keep_State_emptyShare
      with_reducible assumption
    extract_lets +onlyGivenNames x2
    refine Keep.cut (P := Keep kq ku x2.1) ?_ fun h3 => ?_
    · unfold x2
      with_reducible apply keep_State_buildPass
      with_reducible assumption
    extract_lets +onlyGivenNames x4
    refine Keep.cut (P := Keep kq ku x4.1) ?_ fun h5 => ?_
    · unfold x4
      with_reducible apply keep_State_probePass
      with_reducible assumption
    extract_lets +onlyGivenNames x6
    subst x6
    extract_lets +onlyGivenNames x7
    refine Keep.cut (P := Keep kq ku x7.1) ?_ fun h8 => ?_
    · unfold x7
      refine Keep.foldl1 ?_ ?_
      · with_reducible assumption
      · intro _ _ _
        extract_lets +onlyGivenNames x9
        extract_lets +onlyGivenNames x10
        extract_lets +onlyGivenNames x11
        refine Keep.cut (P := Keep kq ku x11) ?_ fun h12 => ?_
        · unfold x11
          refine Keep.ite ?_ ?_
          · with_reducible apply keep_State_emitRows
            with_reducible assumption
          · refine Keep.ite ?_ ?_
            · with_reducible apply keep_State_emitRows
              with_reducible assumption
            · with_reducible assumption
        with_reducible assumption
    split
    · with_reducible assumption
    · with_reducible apply ih
      with_reducible assumption

theorem keep_State_endPieces (s : State) (p : Nat) (l : List (JoinRow × (Bool × Option EntryRec))) (kh : Keep kq ku s) : Keep kq ku (State.endPieces s p l) := by
  unfold State.endPieces
  refine Keep.foldl ?_ ?_
  · with_reducible assumption
  · intro _ _ _
    extract_lets +onlyGivenNames x0
    refine Keep.ite ?_ ?_
    · with_reducible apply keep_State_emitRows
      with_reducible assumption
    · refine Keep.ite ?_ ?_
      · with_reducible apply keep_State_emitRows
        with_reducible assumption
      · with_reducible assumption

theorem keep_State_afterPass (s0 s : State) (t : JTab) (o : Nat) (h : Keep kq ku s0) (h' : Keep kq ku s) : Keep kq ku (State.afterPass s0 s t o) := by
  unfold State.afterPass
  split
  · exact keep_State_setShare _ _ _ _ ⟨h'.1, h'.2, h.3, h.4, h'.5⟩
  · exact h'

theorem keep_State_onePass (s : State) (t : JTab) (o : Nat) (kh : Keep kq ku s) : Keep kq ku (State.onePass s t o) := by
  unfold State.onePass
  extract_lets +onlyGivenNames x0
  split
  · with_reducible assumption
  · extract_lets +onlyGivenNames x1
    extract_lets +onlyGivenNames x2
    extract_lets +onlyGivenNames x3
    extract_lets +onlyGivenNames x4
    extract_lets +onlyGivenNames x5
    refine Keep.cut (P := Keep kq ku x5) ?_ fun h6 => ?_
    · unfold x5
      with_reducible apply keep_State_setFld
      with_reducible apply keep_State_addSat
      with_reducible assumption
    extract_lets +onlyGivenNames x7
    refine Keep.cut (P := Keep kq ku x7) ?_ fun h8 => ?_
    · unfold x7
      with_reducible apply keep_State_emptyShare
      with_reducible assumption
    extract_lets +onlyGivenNames x9
    refine Keep.cut (P := Keep kq ku x9.1) ?_ fun h10 => ?_
    · unfold x9
      clear_value x2
      with_reducible apply keep_State_buildPass
      with_reducible assumption
    refine Keep.ite ?_ ?_
    · extract_lets +onlyGivenNames x11
      refine Keep.cut (P := Keep kq ku x11) ?_ fun h12 => ?_
      · unfold x11
        with_reducible apply keep_State_error
        with_reducible assumption
      extract_lets +onlyGivenNames x13
      refine Keep.cut (P := Keep kq ku x13.1) ?_ fun h14 => ?_
      · unfold x13
        with_reducible apply keep_State_pieces
        with_reducible assumption
      refine Keep.ite ?_ ?_
      · with_reducible apply keep_State_tablePoison
        with_reducible assumption
      · with_reducible apply keep_State_afterPass
        · with_reducible assumption
        · with_reducible apply keep_State_endPieces
          with_reducible assumption
    · extract_lets +onlyGivenNames x15
      refine Keep.cut (P := Keep kq ku x15.1) ?_ fun h16 => ?_
      · unfold x15
        clear_value x2
        with_reducible apply keep_State_probePass
        with_reducible assumption
      refine Keep.ite ?_ ?_
      · with_reducible apply keep_State_tablePoison
        with_reducible assumption
      · extract_lets +onlyGivenNames x17
        refine Keep.cut (P := Keep kq ku x17) ?_ fun h18 => ?_
        · unfold x17
          refine Keep.foldl ?_ ?_
          · with_reducible assumption
          · intro _ _ _
            extract_lets +onlyGivenNames x19
            with_reducible apply keep_State_emitRows
            with_reducible assumption
        refine Keep.ite ?_ ?_
        · extract_lets +onlyGivenNames x20
          with_reducible apply keep_State_setShare
          with_reducible assumption
        · with_reducible apply keep_State_afterPass
          · with_reducible assumption
          · with_reducible assumption

theorem keep_execGracePass (tile : Fin 64) (s : State) (kh : Keep kq ku s) : OKeep kq ku (execGracePass tile s) := by
  unfold execGracePass
  split
  · show Keep _ _ _
    with_reducible assumption
  · refine OKeep.ite ?_ ?_
    · show Keep _ _ _
      with_reducible assumption
    · split
      · show Keep _ _ _
        with_reducible apply keep_State_onePass
        with_reducible assumption
      · show Keep _ _ _
        with_reducible assumption

theorem keep_execHotReplicate (tile : Fin 64) (s : State) (kh : Keep kq ku s) : OKeep kq ku (execHotReplicate tile s) := by
  unfold execHotReplicate
  split
  · extract_lets +onlyGivenNames x0
    extract_lets +onlyGivenNames x1
    refine Keep.cut (P := Keep kq ku x1) ?_ fun h2 => ?_
    · unfold x1
      with_reducible apply keep_State_setPu
      with_reducible assumption
    split
    · extract_lets +onlyGivenNames x3
      extract_lets +onlyGivenNames x4
      extract_lets +onlyGivenNames x5
      extract_lets +onlyGivenNames x6
      split
      · show Keep _ _ _
        with_reducible assumption
      · extract_lets +onlyGivenNames x7
        refine OKeep.ite ?_ ?_
        · show Keep _ _ _
          with_reducible apply keep_State_tablePoison
          with_reducible assumption
        · refine OKeep.ite ?_ ?_
          · extract_lets +onlyGivenNames x8
            extract_lets +onlyGivenNames x9
            refine Keep.cut (P := Keep kq ku x9) ?_ fun h10 => ?_
            · unfold x9
              with_reducible apply keep_State_setShare
              with_reducible assumption
            show Keep _ _ _
            refine Keep.foldl ?_ ?_
            · with_reducible assumption
            · intro _ _ _
              extract_lets +onlyGivenNames x11
              refine Keep.ite ?_ ?_
              · with_reducible apply keep_State_setFld
                with_reducible apply keep_State_setPu
                with_reducible assumption
              · with_reducible assumption
          · show Keep _ _ _
            with_reducible apply keep_State_error
            with_reducible apply keep_State_addSat
            with_reducible assumption
    · show Keep _ _ _
      with_reducible assumption
  · show Keep _ _ _
    with_reducible assumption

theorem keep_State_clearTables (s : State) (p stage : Nat) (kh : Keep kq ku s) : Keep kq ku (State.clearTables s p stage) := by
  unfold State.clearTables
  refine Keep.foldl ?_ ?_
  · with_reducible assumption
  · intro _ _ _
    split
    · with_reducible assumption
    · refine Keep.ite ?_ ?_
      · with_reducible assumption
      · extract_lets +onlyGivenNames x0
        refine Keep.cut (P := Keep kq ku x0) ?_ fun h1 => ?_
        · unfold x0
          refine Keep.foldl ?_ ?_
          · with_reducible assumption
          · intro _ _ _
            with_reducible apply keep_State_emptyShare
            with_reducible assumption
        refine Keep.foldl ?_ ?_
        · with_reducible assumption
        · intro _ _ _
          extract_lets +onlyGivenNames x2
          refine Keep.ite ?_ ?_
          · extract_lets +onlyGivenNames x3
            with_reducible apply keep_State_setFld
            with_reducible apply keep_State_setPu
            with_reducible assumption
          · with_reducible assumption

theorem keep_State_emitGroups (s : State) (p stage : Nat) (kh : Keep kq ku s) : Keep kq ku (State.emitGroups s p stage) := by
  unfold State.emitGroups
  extract_lets +onlyGivenNames x0
  refine Keep.foldl ?_ ?_
  · with_reducible assumption
  · intro _ _ _
    extract_lets +onlyGivenNames x1
    refine Keep.ite ?_ ?_
    · split
      · with_reducible assumption
      · refine Keep.foldl ?_ ?_
        · with_reducible assumption
        · intro _ _ _
          extract_lets +onlyGivenNames x2
          extract_lets +onlyGivenNames x3
          with_reducible apply keep_State_putRows
          with_reducible assumption
    · with_reducible assumption

end Sys2Proof.Machine
end

