-- ==== Sys2Proof/Laws/KeepPlans.lean ====
section
/-!
SUPPORT. The keep lemmas of decompressors, batches, flows, samples, gongs and plans.
-/

namespace Sys2Proof.Machine

open Sys2Proof

variable {kq : List Instr} {ku : List FUnit}

theorem keep_State_setDec (s : State) (x : DecStream) (kh : Keep kq ku s) : Keep kq ku (State.setDec s x) := by
  unfold State.setDec
  with_reducible refine Keep.mk' ?_ rfl rfl rfl rfl (.inl rfl)
  with_reducible assumption

theorem keep_State_decStat (s : State) (d : Nat) (kh : Keep kq ku s) : Keep kq ku (State.decStat s d) := by
  unfold State.decStat
  extract_lets +onlyGivenNames x0
  split
  · with_reducible apply keep_State_setFld
    with_reducible apply keep_State_setFld
    with_reducible apply keep_State_setFld
    with_reducible apply keep_State_setFld
    with_reducible apply keep_State_setBit
    with_reducible assumption
  · with_reducible apply keep_State_setBit
    with_reducible assumption

theorem keep_State_dmgErrors (s : State) (pg cause : Nat) (kh : Keep kq ku s) : Keep kq ku (State.dmgErrors s pg cause) := by
  unfold State.dmgErrors
  extract_lets +onlyGivenNames x0
  refine Keep.cut (P := Keep kq ku x0) ?_ fun h1 => ?_
  · unfold x0
    refine Keep.ite ?_ ?_
    · with_reducible apply keep_State_error
      with_reducible assumption
    · with_reducible apply keep_State_error
      with_reducible assumption
  refine Keep.ite ?_ ?_
  · with_reducible apply keep_State_error
    with_reducible assumption
  · refine Keep.ite ?_ ?_
    · with_reducible apply keep_State_error
      with_reducible assumption
    · refine Keep.ite ?_ ?_
      · with_reducible apply keep_State_error
        with_reducible assumption
      · with_reducible assumption

theorem keep_State_writeDamage (s : State) (x : DecStream) (cause col first rows off : Nat) (kh : Keep kq ku s) : Keep kq ku (State.writeDamage s x cause col first rows off).1 := by
  unfold State.writeDamage
  extract_lets +onlyGivenNames x0
  extract_lets +onlyGivenNames x1
  extract_lets +onlyGivenNames x2
  extract_lets +onlyGivenNames x3
  extract_lets +onlyGivenNames x4
  extract_lets +onlyGivenNames x5
  refine Keep.cut (P := Keep kq ku x5) ?_ fun h6 => ?_
  · unfold x5
    with_reducible apply keep_State_writeMem
    with_reducible assumption
  extract_lets +onlyGivenNames x7
  refine Keep.cut (P := Keep kq ku x7) ?_ fun h8 => ?_
  · unfold x7
    refine Keep.foldl ?_ ?_
    · with_reducible assumption
    · intro _ _ _
      with_reducible apply keep_State_setFld
      with_reducible assumption
  extract_lets +onlyGivenNames x9
  extract_lets +onlyGivenNames x10
  refine Keep.cut (P := Keep kq ku x10) ?_ fun h11 => ?_
  · unfold x10
    refine Keep.ite ?_ ?_
    · with_reducible assumption
    · with_reducible apply keep_State_setFld
      with_reducible apply keep_State_raise
      with_reducible apply keep_State_addSat
      with_reducible assumption
  dsimp -zeta only
  with_reducible apply keep_State_dmgErrors
  with_reducible assumption

theorem keep_State_damage (s : State) (x : DecStream) (d : DecDamage) (kh : Keep kq ku s) : Keep kq ku (State.damage s x d).1 := by
  unfold State.damage
  extract_lets +onlyGivenNames x0
  refine Keep.cut (P := Keep kq ku x0.1) ?_ fun h1 => ?_
  · unfold x0
    with_reducible apply keep_State_writeDamage
    with_reducible assumption
  with_reducible assumption

theorem keep_State_ringPut (s : State) (x : DecStream) (pos : Nat) (bs : List Byte) (kh : Keep kq ku s) : Keep kq ku (State.ringPut s x pos bs) := by
  unfold State.ringPut
  extract_lets +onlyGivenNames x0
  extract_lets +onlyGivenNames x1
  extract_lets +onlyGivenNames x2
  extract_lets +onlyGivenNames x3
  with_reducible apply keep_State_tmWrite
  with_reducible apply keep_State_tmWrite
  with_reducible assumption

theorem keep_State_releaseSlabs (f : Nat) (s : State) (x : DecStream) (h : Keep kq ku s) : Keep kq ku (State.releaseSlabs f s x).1 := by
  induction f generalizing s x with
  | zero =>
    unfold State.releaseSlabs
    with_reducible assumption
  | succ k ih =>
    unfold State.releaseSlabs
    extract_lets +onlyGivenNames x0
    extract_lets +onlyGivenNames x1
    extract_lets +onlyGivenNames x2
    extract_lets +onlyGivenNames x3
    split
    · with_reducible assumption
    · extract_lets +onlyGivenNames x4
      extract_lets +onlyGivenNames x5
      extract_lets +onlyGivenNames x6
      extract_lets +onlyGivenNames x7
      extract_lets +onlyGivenNames x8
      split
      · with_reducible assumption
      · with_reducible apply ih
        with_reducible apply keep_State_perf
        with_reducible apply keep_State_perf
        with_reducible apply keep_State_perf
        with_reducible apply keep_State_ringPut
        with_reducible assumption

theorem keep_State_saveCtx (s : State) (x : DecStream) (c : DecCtx) (area : Nat) (kh : Keep kq ku s) : Keep kq ku (State.saveCtx s x c area) := by
  unfold State.saveCtx
  extract_lets +onlyGivenNames x0
  extract_lets +onlyGivenNames x1
  extract_lets +onlyGivenNames x2
  extract_lets +onlyGivenNames x3
  extract_lets +onlyGivenNames x4
  refine Keep.cut (P := Keep kq ku x4) ?_ fun h5 => ?_
  · unfold x4
    with_reducible apply keep_State_writeMem
    with_reducible assumption
  extract_lets +onlyGivenNames x6
  refine Keep.cut (P := Keep kq ku x6) ?_ fun h7 => ?_
  · unfold x6
    with_reducible apply keep_State_writeMem
    with_reducible assumption
  with_reducible apply keep_State_addWrap
  with_reducible apply keep_State_writeMem
  with_reducible assumption

theorem keep_State_activate (s : State) (d op : Nat) (kh : Keep kq ku s) : Keep kq ku (State.activate s d op) := by
  unfold State.activate
  refine Keep.ite ?_ ?_
  · with_reducible apply keep_State_decStat
    with_reducible assumption
  · split
    · with_reducible apply keep_State_decStat
      with_reducible apply keep_State_setDec
      with_reducible assumption
    · with_reducible apply keep_State_decStat
      with_reducible assumption

theorem keep_State_dropCheckpoints (s : State) (p : Nat) (kh : Keep kq ku s) : Keep kq ku (State.dropCheckpoints s p) := by
  unfold State.dropCheckpoints
  with_reducible refine Keep.mk' ?_ rfl rfl rfl rfl (.inl rfl)
  with_reducible assumption

theorem keep_State_mismatch (s : State) (x : DecStream) (col n off : Nat) (kh : Keep kq ku s) : Keep kq ku (State.mismatch s x col n off).1 := by
  unfold State.mismatch
  extract_lets +onlyGivenNames x0
  extract_lets +onlyGivenNames x1
  extract_lets +onlyGivenNames x2
  refine Keep.cut (P := Keep kq ku x2.1) ?_ fun h3 => ?_
  · unfold x2
    clear_value x0
    with_reducible apply keep_State_writeDamage
    with_reducible assumption
  extract_lets +onlyGivenNames x4
  refine Keep.cut (P := Keep kq ku x4.2) ?_ fun h5 => ?_
  · unfold x4
    with_reducible apply keep_State_fresh
    with_reducible assumption
  extract_lets +onlyGivenNames x6
  refine Keep.cut (P := Keep kq ku x6.1) ?_ fun h7 => ?_
  · unfold x6
    split
    · with_reducible assumption
    · dsimp -zeta only
      refine Keep.ite ?_ ?_
      · with_reducible apply keep_State_failPlan
        with_reducible assumption
      · with_reducible assumption
  split
  · with_reducible assumption
  · with_reducible apply keep_State_damage
    with_reducible assumption

theorem keep_State_checkpoint (s : State) (x : DecStream) (chunk : Nat) (c : DecCtx) (kh : Keep kq ku s) : Keep kq ku (State.checkpoint s x chunk c).1 := by
  unfold State.checkpoint
  split
  · split
    · dsimp -zeta only
      with_reducible apply keep_State_saveCtx
      with_reducible assumption
    · with_reducible assumption
  · with_reducible assumption

theorem keep_State_putBytes (s : State) (x : DecStream) (bs : List Byte) (ended : Bool) (kh : Keep kq ku s) : Keep kq ku (State.putBytes s x bs ended).1 := by
  unfold State.putBytes
  extract_lets +onlyGivenNames x0
  dsimp -zeta only
  with_reducible apply keep_State_ringPut
  with_reducible assumption

theorem keep_State_decodeUnit (s : State) (x : DecStream) (u : DecUnit) (assisted : Bool) (kh : Keep kq ku s) : Keep kq ku (State.decodeUnit s x u assisted) := by
  unfold State.decodeUnit
  extract_lets +onlyGivenNames x0
  extract_lets +onlyGivenNames x1
  extract_lets +onlyGivenNames x2
  extract_lets +onlyGivenNames x3
  extract_lets +onlyGivenNames x4
  extract_lets +onlyGivenNames x5
  extract_lets +onlyGivenNames x6
  extract_lets +onlyGivenNames x7
  extract_lets +onlyGivenNames x8
  extract_lets +onlyGivenNames x9
  extract_lets +onlyGivenNames x10
  extract_lets +onlyGivenNames x11
  extract_lets +onlyGivenNames x12
  extract_lets +onlyGivenNames x13
  extract_lets +onlyGivenNames x14
  extract_lets +onlyGivenNames x15
  extract_lets +onlyGivenNames x16
  extract_lets +onlyGivenNames x17
  extract_lets +onlyGivenNames x18
  refine Keep.cut (P := Keep kq ku x18) ?_ fun h19 => ?_
  · unfold x18
    with_reducible apply keep_State_addWrap
    with_reducible apply keep_State_perf
    with_reducible apply keep_State_perf
    with_reducible assumption
  extract_lets +onlyGivenNames x20
  refine Keep.cut (P := Keep kq ku x20) ?_ fun h21 => ?_
  · unfold x20
    refine Keep.ite ?_ ?_
    · with_reducible apply keep_State_error
      with_reducible assumption
    · with_reducible assumption
  extract_lets +onlyGivenNames x22
  refine Keep.cut (P := Keep kq ku x22) ?_ fun h23 => ?_
  · unfold x22
    with_reducible apply keep_State_addWrap
    with_reducible assumption
  extract_lets +onlyGivenNames x24
  refine Keep.cut (P := Keep kq ku x24) ?_ fun h25 => ?_
  · unfold x24
    refine Keep.ite ?_ ?_
    · refine Keep.ite ?_ ?_
      · with_reducible assumption
      · with_reducible apply keep_State_addWrap
        with_reducible assumption
    · with_reducible assumption
  extract_lets +onlyGivenNames x26
  refine Keep.cut (P := Keep kq ku x26.1) ?_ fun h27 => ?_
  · unfold x26
    clear_value x11
    refine Keep.foldl1 ?_ ?_
    · with_reducible assumption
    · intro _ _ _
      with_reducible apply keep_State_damage
      with_reducible assumption
  extract_lets +onlyGivenNames x28
  refine Keep.cut (P := Keep kq ku x28.1) ?_ fun h29 => ?_
  · unfold x28
    split
    · with_reducible apply keep_State_mismatch
      with_reducible assumption
    · with_reducible assumption
  extract_lets +onlyGivenNames x30
  extract_lets +onlyGivenNames x31
  extract_lets +onlyGivenNames x32
  extract_lets +onlyGivenNames x33
  refine Keep.cut (P := Keep kq ku x33.1) ?_ fun h34 => ?_
  · unfold x33
    split
    · clear_value x32
      with_reducible apply keep_State_putBytes
      with_reducible assumption
    · clear_value x32
      with_reducible apply keep_State_releaseSlabs
      with_reducible assumption
  extract_lets +onlyGivenNames x35
  refine Keep.cut (P := Keep kq ku x35.1) ?_ fun h36 => ?_
  · unfold x35
    split
    · with_reducible apply keep_State_checkpoint
      with_reducible assumption
    · with_reducible assumption
  extract_lets +onlyGivenNames x37
  refine Keep.cut (P := Keep kq ku x37) ?_ fun h38 => ?_
  · unfold x37
    with_reducible apply keep_State_setDec
    with_reducible assumption
  extract_lets +onlyGivenNames x39
  refine Keep.cut (P := Keep kq ku x39) ?_ fun h40 => ?_
  · unfold x39
    with_reducible apply keep_State_setFld
    with_reducible assumption
  with_reducible apply keep_State_activate
  with_reducible assumption

theorem keep_execDecodeInput (dec : Fin 32) (unit : DecUnit) (s : State) (kh : Keep kq ku s) : OKeep kq ku (execDecodeInput dec unit s) := by
  unfold execDecodeInput
  split
  · show Keep _ _ _
    with_reducible assumption
  · refine OKeep.ite ?_ ?_
    · show Keep _ _ _
      with_reducible assumption
    · extract_lets +onlyGivenNames x0
      extract_lets +onlyGivenNames x1
      refine Keep.cut (P := Keep kq ku x1.1) ?_ fun h2 => ?_
      · unfold x1
        clear_value x0
        with_reducible apply keep_State_releaseSlabs
        with_reducible assumption
      extract_lets +onlyGivenNames x3
      refine Keep.cut (P := Keep kq ku x3) ?_ fun h4 => ?_
      · unfold x3
        with_reducible apply keep_State_setDec
        with_reducible assumption
      refine OKeep.ite ?_ ?_
      · show Keep _ _ _
        with_reducible apply keep_State_perf
        with_reducible assumption
      · show Keep _ _ _
        with_reducible apply keep_State_decodeUnit
        with_reducible assumption

theorem keep_execDecStreamSwitch (dec : Fin 32) (ctx : DecCtx) (s : State) (kh : Keep kq ku s) : OKeep kq ku (execDecStreamSwitch dec ctx s) := by
  unfold execDecStreamSwitch
  split
  · show Keep _ _ _
    with_reducible assumption
  · extract_lets +onlyGivenNames x0
    refine OKeep.ite ?_ ?_
    · show Keep _ _ _
      with_reducible assumption
    · split
      · show Keep _ _ _
        with_reducible assumption
      · extract_lets +onlyGivenNames x1
        refine Keep.cut (P := Keep kq ku x1) ?_ fun h2 => ?_
        · unfold x1
          with_reducible apply keep_State_setDec
          with_reducible apply keep_State_saveCtx
          with_reducible assumption
        split
        · show Keep _ _ _
          with_reducible apply keep_State_decStat
          with_reducible apply keep_State_setDec
          with_reducible assumption
        · show Keep _ _ _
          with_reducible assumption

theorem keep_execContextRestore (dec : Fin 32) (s : State) (kh : Keep kq ku s) : OKeep kq ku (execContextRestore dec s) := by
  unfold execContextRestore
  split
  · show Keep _ _ _
    with_reducible assumption
  · split
    · refine OKeep.ite ?_ ?_
      · show Keep _ _ _
        with_reducible assumption
      · extract_lets +onlyGivenNames x0
        extract_lets +onlyGivenNames x1
        extract_lets +onlyGivenNames x2
        extract_lets +onlyGivenNames x3
        extract_lets +onlyGivenNames x4
        refine OKeep.ite ?_ ?_
        · extract_lets +onlyGivenNames x5
          show Keep _ _ _
          with_reducible apply keep_State_decStat
          with_reducible apply keep_State_addWrap
          with_reducible apply keep_State_setDec
          with_reducible assumption
        · show Keep _ _ _
          with_reducible apply keep_State_regenerate
          with_reducible apply keep_State_error
          with_reducible assumption
    · show Keep _ _ _
      with_reducible assumption

theorem keep_execDecAssistReturn (dec : Fin 32) (unit : DecUnit) (s : State) (kh : Keep kq ku s) : OKeep kq ku (execDecAssistReturn dec unit s) := by
  unfold execDecAssistReturn
  split
  · show Keep _ _ _
    with_reducible assumption
  · refine OKeep.ite ?_ ?_
    · show Keep _ _ _
      with_reducible assumption
    · extract_lets +onlyGivenNames x0
      extract_lets +onlyGivenNames x1
      refine OKeep.ite ?_ ?_
      · show Keep _ _ _
        with_reducible apply keep_State_setDec
        with_reducible assumption
      · show Keep _ _ _
        with_reducible apply keep_State_decodeUnit
        with_reducible assumption

theorem keep_State_bindDecs (s : State) (p stage chunk : Nat) (again : Bool) (kh : Keep kq ku s) : Keep kq ku (State.bindDecs s p stage chunk again) := by
  unfold State.bindDecs
  extract_lets +onlyGivenNames x0
  extract_lets +onlyGivenNames x1
  refine Keep.foldl ?_ ?_
  · with_reducible assumption
  · intro _ _ _
    extract_lets +onlyGivenNames x2
    extract_lets +onlyGivenNames x3
    extract_lets +onlyGivenNames x4
    refine Keep.cut (P := Keep kq ku x4) ?_ fun h5 => ?_
    · unfold x4
      split
      · with_reducible refine Keep.mk' ?_ rfl rfl rfl rfl (.inl rfl)
        with_reducible assumption
      · extract_lets +onlyGivenNames x6
        extract_lets +onlyGivenNames x7
        extract_lets +onlyGivenNames x8
        refine Keep.ite ?_ ?_
        · with_reducible apply keep_State_setDec
          with_reducible assumption
        · refine Keep.ite ?_ ?_
          · with_reducible apply keep_State_setDec
            with_reducible assumption
          · with_reducible apply keep_State_setDec
            with_reducible assumption
    with_reducible apply keep_State_setFld
    with_reducible apply keep_State_activate
    with_reducible assumption

theorem keep_State_setCmp (s : State) (x : CmpStream) (kh : Keep kq ku s) : Keep kq ku (State.setCmp s x) := by
  unfold State.setCmp
  with_reducible refine Keep.mk' ?_ rfl rfl rfl rfl (.inl rfl)
  with_reducible assumption

theorem keep_State_cmpWrite (s : State) (tile : Nat) (p : Nat) (d : Desc) (pos : Nat) (l : List Byte) (h : Keep kq ku s) : PKeep kq ku (State.cmpWrite s tile p d pos l) := by
  induction l generalizing s pos with
  | nil =>
    unfold State.cmpWrite
    show Keep _ _ _
    with_reducible assumption
  | cons b l ih =>
    unfold State.cmpWrite
    extract_lets +onlyGivenNames x0
    refine PKeep.ite ?_ ?_
    · exact trivial
    · split
      · with_reducible apply ih
        with_reducible assumption
      · extract_lets +onlyGivenNames x1
        refine PKeep.ite ?_ ?_
        · refine PKeep.ite ?_ ?_
          · with_reducible apply ih
            with_reducible apply keep_State_writeMem
            with_reducible assumption
          · exact trivial
        · with_reducible apply ih
          with_reducible apply keep_State_hostWrite
          with_reducible assumption

theorem keep_execEchoCheckDone (cmp slot : Fin 16) (op : Fin 256) (block packed head tail : List Byte) (same : Bool) (s : State) (kh : Keep kq ku s) : OKeep kq ku (execEchoCheckDone cmp slot op block packed head tail same s) := by
  unfold execEchoCheckDone
  extract_lets +onlyGivenNames x0
  extract_lets +onlyGivenNames x1
  extract_lets +onlyGivenNames x2
  extract_lets +onlyGivenNames x3
  extract_lets +onlyGivenNames x4
  refine OKeep.ite ?_ ?_
  · show Keep _ _ _
    with_reducible assumption
  · extract_lets +onlyGivenNames x5
    extract_lets +onlyGivenNames x6
    extract_lets +onlyGivenNames x7
    extract_lets +onlyGivenNames x8
    refine Keep.cut (P := Keep kq ku x8) ?_ fun h9 => ?_
    · unfold x8
      refine Keep.ite ?_ ?_
      · with_reducible assumption
      · with_reducible apply keep_State_error
        with_reducible apply keep_State_perf
        with_reducible apply keep_State_setFld
        with_reducible apply keep_State_setFld
        with_reducible apply keep_State_setFld
        with_reducible apply keep_State_addSat
        with_reducible assumption
    extract_lets +onlyGivenNames x10
    refine Keep.cut (P := Keep kq ku x10) ?_ fun h11 => ?_
    · unfold x10
      with_reducible apply keep_State_perf
      with_reducible apply keep_State_perf
      with_reducible assumption
    split
    · show Keep _ _ _
      with_reducible apply keep_State_error
      with_reducible apply keep_State_setCmp
      with_reducible assumption
    · extract_lets +onlyGivenNames x12
      refine Keep.cut (P := Keep kq ku x12) ?_ fun h13 => ?_
      · unfold x12
        with_reducible apply keep_State_setCmp
        refine PKeep.eq (by with_reducible assumption) ?_
        with_reducible apply keep_State_cmpWrite
        with_reducible assumption
      show Keep _ _ _
      refine Keep.ite ?_ ?_
      · with_reducible assumption
      · with_reducible apply keep_State_addWrap
        with_reducible assumption

theorem keep_State_setOwn (s : State) (p : Nat) (o : OwnPlan) (kh : Keep kq ku s) : Keep kq ku (State.setOwn s p o) := by
  unfold State.setOwn
  with_reducible refine Keep.mk' ?_ rfl rfl rfl rfl (.inl rfl)
  with_reducible assumption

theorem keep_State_windowWrite (s : State) (p : Nat) (w : OwnWindow) (at_ : Nat) (bs : List Byte) (kh : Keep kq ku s) : Keep kq ku (State.windowWrite s p w at_ bs) := by
  unfold State.windowWrite
  extract_lets +onlyGivenNames x0
  refine Keep.ite ?_ ?_
  · with_reducible apply keep_State_writeMem
    with_reducible assumption
  · with_reducible apply keep_State_hostWrite
    with_reducible assumption

theorem keep_State_ownPut (s : State) (p : Nat) (v : OwnVer) (t : OwnTable) (seq slots off : Nat) (data : List Byte) (kh : Keep kq ku s) : Keep kq ku (State.ownPut s p v t seq slots off data) := by
  unfold State.ownPut
  extract_lets +onlyGivenNames x0
  extract_lets +onlyGivenNames x1
  refine Keep.cut (P := Keep kq ku x1) ?_ fun h2 => ?_
  · unfold x1
    refine Keep.foldl ?_ ?_
    · with_reducible assumption
    · intro _ _ _
      with_reducible apply keep_State_windowWrite
      with_reducible assumption
  extract_lets +onlyGivenNames x3
  extract_lets +onlyGivenNames x4
  refine Keep.cut (P := Keep kq ku x4) ?_ fun h5 => ?_
  · unfold x4
    with_reducible apply keep_State_perf
    with_reducible apply keep_State_perf
    with_reducible assumption
  refine Keep.ite ?_ ?_
  · with_reducible assumption
  · with_reducible apply keep_State_error
    with_reducible apply keep_State_addSat
    with_reducible assumption

theorem keep_State_dropPrev (s : State) (p : Nat) (kh : Keep kq ku s) : Keep kq ku (State.dropPrev s p) := by
  unfold State.dropPrev
  extract_lets +onlyGivenNames x0
  split
  · refine Keep.ite ?_ ?_
    · with_reducible assumption
    · with_reducible apply keep_State_setOwn
      with_reducible assumption
  · with_reducible assumption

theorem keep_State_applyOwn (s : State) (p : Nat) (kh : Keep kq ku s) : Keep kq ku (State.applyOwn s p) := by
  unfold State.applyOwn
  extract_lets +onlyGivenNames x0
  split
  · with_reducible assumption
  · extract_lets +onlyGivenNames x1
    refine Keep.cut (P := Keep kq ku x1) ?_ fun h2 => ?_
    · unfold x1
      with_reducible apply keep_State_setFld
      with_reducible apply keep_State_addWrap
      with_reducible assumption
    extract_lets +onlyGivenNames x3
    extract_lets +onlyGivenNames x4
    extract_lets +onlyGivenNames x5
    refine Keep.cut (P := Keep kq ku x5) ?_ fun h6 => ?_
    · unfold x5
      with_reducible apply keep_State_setOwn
      with_reducible assumption
    with_reducible apply keep_State_complete
    with_reducible assumption

theorem keep_State_ownAtCue (s : State) (cue : Nat) (kh : Keep kq ku s) : Keep kq ku (State.ownAtCue s cue) := by
  unfold State.ownAtCue
  refine Keep.foldl ?_ ?_
  · with_reducible assumption
  · intro _ _ _
    split
    · refine Keep.ite ?_ ?_
      · with_reducible apply keep_State_applyOwn
        with_reducible assumption
      · with_reducible assumption
    · with_reducible assumption

theorem keep_State_ownAtGong (s : State) (p stage : Nat) (kh : Keep kq ku s) : Keep kq ku (State.ownAtGong s p stage) := by
  unfold State.ownAtGong
  split
  · refine Keep.ite ?_ ?_
    · with_reducible apply keep_State_applyOwn
      with_reducible assumption
    · with_reducible assumption
  · with_reducible assumption

theorem keep_execOwnWrite (ring : Fin 16) (records : Option (List Byte)) (s : State) (kh : Keep kq ku s) : OKeep kq ku (execOwnWrite ring records s) := by
  unfold execOwnWrite
  show Keep _ _ _
  with_reducible apply keep_State_command
  · with_reducible assumption
  · intro _ _ _
    extract_lets +onlyGivenNames x0
    extract_lets +onlyGivenNames x1
    extract_lets +onlyGivenNames x2
    extract_lets +onlyGivenNames x3
    extract_lets +onlyGivenNames x4
    extract_lets +onlyGivenNames x5
    extract_lets +onlyGivenNames x6
    extract_lets +onlyGivenNames x7
    extract_lets +onlyGivenNames x8
    extract_lets +onlyGivenNames x9
    refine Keep.ite ?_ ?_
    · with_reducible apply keep_State_complete
      with_reducible assumption
    · refine Keep.ite ?_ ?_
      · with_reducible apply keep_State_complete
        with_reducible assumption
      · refine Keep.ite ?_ ?_
        · with_reducible apply keep_State_complete
          with_reducible assumption
        · refine Keep.ite ?_ ?_
          · with_reducible assumption
          · split
            · with_reducible apply keep_State_complete
              with_reducible assumption
            · split
              · with_reducible apply keep_State_complete
                with_reducible assumption
              · with_reducible apply keep_State_setBusy
                with_reducible apply keep_State_setOwn
                with_reducible assumption

theorem keep_execOwnMap (slot : Fin 16) (table queue : Fin 64) (seq : Word) (off : Nat) (data : List Byte) (tile : Fin 64) (s : State) (kh : Keep kq ku s) : OKeep kq ku (execOwnMap slot table queue seq off data tile s) := by
  unfold execOwnMap
  split
  · show Keep _ _ _
    with_reducible assumption
  · refine OKeep.ite ?_ ?_
    · show Keep _ _ _
      with_reducible assumption
    · extract_lets +onlyGivenNames x0
      subst x0
      split
      · refine OKeep.ite ?_ ?_
        · show Keep _ _ _
          with_reducible apply keep_State_error
          with_reducible apply keep_State_addSat
          with_reducible assumption
        · show Keep _ _ _
          with_reducible assumption
      · refine OKeep.ite ?_ ?_
        · show Keep _ _ _
          with_reducible apply keep_State_error
          with_reducible apply keep_State_addSat
          with_reducible assumption
        · refine OKeep.ite ?_ ?_
          · show Keep _ _ _
            with_reducible apply keep_State_perf
            with_reducible apply keep_State_setBit
            with_reducible assumption
          · extract_lets +onlyGivenNames x1
            split
            · show Keep _ _ _
              with_reducible assumption
            · refine OKeep.ite ?_ ?_
              · show Keep _ _ _
                with_reducible assumption
              · extract_lets +onlyGivenNames x2
                extract_lets +onlyGivenNames x3
                extract_lets +onlyGivenNames x4
                show Keep _ _ _
                with_reducible apply keep_State_ownPut
                with_reducible apply keep_State_setQueue
                with_reducible assumption

theorem keep_State_atBeat (s : State) (b : Nat) (f : State → State) (h : Keep kq ku s) (hf : ∀ t, Keep kq ku t → Keep kq ku (f t)) :
    Keep kq ku (s.atBeat b f) := by
  unfold State.atBeat
  split
  · exact hf _ ⟨h.1, h.2, h.3, h.4, h.5⟩
  · exact h

theorem keep_State_setPool (s : State) (f : List PoolEnt → List PoolEnt) (kh : Keep kq ku s) : Keep kq ku (State.setPool s f) := by
  unfold State.setPool
  extract_lets +onlyGivenNames x0
  extract_lets +onlyGivenNames x1
  refine Keep.cut (P := Keep kq ku x1) ?_ fun h2 => ?_
  · unfold x1
    with_reducible refine Keep.mk' ?_ rfl rfl rfl rfl (.inl rfl)
    with_reducible assumption
  extract_lets +onlyGivenNames x3
  extract_lets +onlyGivenNames x4
  refine Keep.cut (P := Keep kq ku x4) ?_ fun h5 => ?_
  · unfold x4
    with_reducible apply keep_State_setFld
    with_reducible assumption
  refine Keep.ite ?_ ?_
  · with_reducible apply keep_State_setFld
    with_reducible assumption
  · with_reducible assumption

theorem keep_State_setEvent (s : State) (p arr : Nat) (f : PoolEnt → PoolEnt) (kh : Keep kq ku s) : Keep kq ku (State.setEvent s p arr f) := by
  unfold State.setEvent
  with_reducible apply keep_State_setPool
  with_reducible assumption

theorem keep_State_retireEvents (s : State) (p : Nat) (kh : Keep kq ku s) : Keep kq ku (State.retireEvents s p) := by
  unfold State.retireEvents
  extract_lets +onlyGivenNames x0
  with_reducible apply keep_State_setPool
  with_reducible assumption

theorem keep_State_endService (s : State) (p arr unit : Nat) (st : EvState) (kh : Keep kq ku s) : Keep kq ku (State.endService s p arr unit st) := by
  unfold State.endService
  split
  · with_reducible assumption
  · extract_lets +onlyGivenNames x0
    with_reducible apply keep_State_setEvent
    with_reducible refine Keep.mk' ?_ rfl rfl rfl rfl (.inl rfl)
    with_reducible assumption

theorem keep_State_getExhausted (s : State) (tile th d : Nat) (kh : Keep kq ku s) : Keep kq ku (State.getExhausted s tile th d) := by
  unfold State.getExhausted
  split
  extract_lets +onlyGivenNames x0
  with_reducible apply keep_State_setThread
  refine Keep.eq2 (by with_reducible assumption) ?_
  with_reducible apply keep_State_fresh
  with_reducible assumption

theorem keep_State_wakeExhausted (s : State) (p : Nat) (kh : Keep kq ku s) : Keep kq ku (State.wakeExhausted s p) := by
  unfold State.wakeExhausted
  refine Keep.foldl ?_ ?_
  · with_reducible assumption
  · intro _ _ _
    split
    · refine Keep.ite ?_ ?_
      · refine Keep.foldl ?_ ?_
        · with_reducible assumption
        · intro _ _ _
          split
          · with_reducible apply keep_State_getExhausted
            with_reducible assumption
          · with_reducible assumption
      · with_reducible assumption
    · with_reducible assumption

theorem keep_State_closeChunk (s : State) (p : Nat) (kh : Keep kq ku s) : Keep kq ku (State.closeChunk s p) := by
  unfold State.closeChunk
  extract_lets +onlyGivenNames x0
  with_reducible apply keep_State_wakeExhausted
  with_reducible apply keep_State_setSlot
  with_reducible assumption

theorem keep_State_arrive (s : State) (p : Nat) (ev : Event) (kh : Keep kq ku s) : Keep kq ku (State.arrive s p ev) := by
  unfold State.arrive
  extract_lets +onlyGivenNames x0
  extract_lets +onlyGivenNames x1
  extract_lets +onlyGivenNames x2
  refine Keep.cut (P := Keep kq ku x2) ?_ fun h3 => ?_
  · unfold x2
    with_reducible apply keep_State_setFld
    with_reducible assumption
  extract_lets +onlyGivenNames x4
  refine Keep.cut (P := Keep kq ku x4) ?_ fun h5 => ?_
  · unfold x4
    with_reducible apply keep_State_setPool
    with_reducible assumption
  extract_lets +onlyGivenNames x6
  refine Keep.cut (P := Keep kq ku x6) ?_ fun h7 => ?_
  · unfold x6
    with_reducible apply keep_State_setSlot
    with_reducible assumption
  refine Keep.ite ?_ ?_
  · with_reducible apply keep_State_closeChunk
    with_reducible assumption
  · with_reducible assumption

theorem keep_State_setGroup (s : State) (n : Nat) (g : AlignGroup) (kh : Keep kq ku s) : Keep kq ku (State.setGroup s n g) := by
  unfold State.setGroup
  extract_lets +onlyGivenNames x0
  extract_lets +onlyGivenNames x1
  refine Keep.cut (P := Keep kq ku x1) ?_ fun h2 => ?_
  · unfold x1
    with_reducible refine Keep.mk' ?_ rfl rfl rfl rfl (.inl rfl)
    with_reducible assumption
  extract_lets +onlyGivenNames x3
  extract_lets +onlyGivenNames x4
  refine Keep.cut (P := Keep kq ku x4) ?_ fun h5 => ?_
  · unfold x4
    with_reducible apply keep_State_setFld
    with_reducible assumption
  split
  · with_reducible apply keep_State_setFld
    with_reducible assumption
  · refine Keep.ite ?_ ?_
    · split
      with_reducible apply keep_State_setFld
      refine Keep.eq2 (by with_reducible assumption) ?_
      with_reducible apply keep_State_fresh
      with_reducible assumption
    · with_reducible apply keep_State_setFld
      with_reducible assumption

theorem keep_State_releaseAligned (s : State) (n : Nat) (g : AlignGroup) (e : PoolEnt) (kh : Keep kq ku s) : Keep kq ku (State.releaseAligned s n g e) := by
  unfold State.releaseAligned
  extract_lets +onlyGivenNames x0
  refine Keep.cut (P := Keep kq ku x0) ?_ fun h1 => ?_
  · unfold x0
    with_reducible apply keep_State_arrive
    with_reducible apply keep_State_setPool
    with_reducible assumption
  with_reducible apply keep_State_setGroup
  with_reducible assumption

theorem keep_State_accept (s : State) (p : Nat) (ev : Event) (kh : Keep kq ku s) : Keep kq ku (State.accept s p ev) := by
  unfold State.accept
  extract_lets +onlyGivenNames x0
  refine Keep.ite ?_ ?_
  · with_reducible apply keep_State_arrive
    with_reducible assumption
  · extract_lets +onlyGivenNames x1
    split
    · with_reducible assumption
    · extract_lets +onlyGivenNames x2
      extract_lets +onlyGivenNames x3
      extract_lets +onlyGivenNames x4
      refine Keep.ite ?_ ?_
      · extract_lets +onlyGivenNames x5
        refine Keep.cut (P := Keep kq ku x5) ?_ fun h6 => ?_
        · unfold x5
          with_reducible apply keep_State_setGroup
          with_reducible apply keep_State_error
          with_reducible apply keep_State_addSat
          with_reducible assumption
        refine Keep.ite ?_ ?_
        · with_reducible apply keep_State_arrive
          with_reducible assumption
        · with_reducible assumption
      · extract_lets +onlyGivenNames x7
        refine Keep.cut (P := Keep kq ku x7) ?_ fun h8 => ?_
        · unfold x7
          with_reducible apply keep_State_setPool
          with_reducible assumption
        with_reducible apply keep_State_setGroup
        with_reducible refine Keep.mk' ?_ rfl rfl rfl rfl (.inl rfl)
        with_reducible assumption

theorem keep_execAlignRelease (group : Fin 32) (s : State) (kh : Keep kq ku s) : OKeep kq ku (execAlignRelease group s) := by
  unfold execAlignRelease
  show Keep _ _ _
  split
  · with_reducible assumption
  · extract_lets +onlyGivenNames x0
    split
    · refine Keep.ite ?_ ?_
      · with_reducible apply keep_State_releaseAligned
        with_reducible assumption
      · with_reducible assumption
    · with_reducible assumption

theorem keep_State_releaseAllAligned (s : State) (p : Nat) (kh : Keep kq ku s) : Keep kq ku (State.releaseAllAligned s p) := by
  unfold State.releaseAllAligned
  refine Keep.foldl ?_ ?_
  · with_reducible assumption
  · intro _ _ _
    split
    · with_reducible assumption
    · refine Keep.foldl ?_ ?_
      · with_reducible assumption
      · intro _ _ _
        split
        · with_reducible apply keep_State_releaseAligned
          with_reducible assumption
        · with_reducible assumption

theorem keep_execStreamIdle (group : Fin 32) (stream : Fin 16) (s : State) (kh : Keep kq ku s) : OKeep kq ku (execStreamIdle group stream s) := by
  unfold execStreamIdle
  show Keep _ _ _
  split
  · with_reducible assumption
  · split
    · with_reducible assumption
    · extract_lets +onlyGivenNames x0
      refine Keep.ite ?_ ?_
      · with_reducible assumption
      · with_reducible apply keep_State_atBeat
        · with_reducible assumption
        · intro _ _
          with_reducible apply keep_State_setGroup
          with_reducible assumption

theorem keep_State_countDelivery (s : State) (p : Nat) (e : PoolEnt) (unit : Nat) (kh : Keep kq ku s) : Keep kq ku (State.countDelivery s p e unit) := by
  unfold State.countDelivery
  extract_lets +onlyGivenNames x0
  extract_lets +onlyGivenNames x1
  refine Keep.cut (P := Keep kq ku x1) ?_ fun h2 => ?_
  · unfold x1
    refine Keep.ite ?_ ?_
    · with_reducible apply keep_State_addSat
      with_reducible assumption
    · with_reducible assumption
  extract_lets +onlyGivenNames x3
  refine Keep.cut (P := Keep kq ku x3) ?_ fun h4 => ?_
  · unfold x3
    with_reducible apply keep_State_addWrap
    with_reducible assumption
  extract_lets +onlyGivenNames x5
  refine Keep.cut (P := Keep kq ku x5) ?_ fun h6 => ?_
  · unfold x5
    with_reducible apply keep_State_setFld
    with_reducible assumption
  extract_lets +onlyGivenNames x7
  refine Keep.cut (P := Keep kq ku x7) ?_ fun h8 => ?_
  · unfold x7
    refine Keep.ite ?_ ?_
    · with_reducible apply keep_State_setFld
      with_reducible assumption
    · with_reducible assumption
  extract_lets +onlyGivenNames x9
  with_reducible refine Keep.mk' ?_ rfl rfl rfl rfl (.inl rfl)
  with_reducible assumption

theorem keep_State_putEvent (s : State) (tile addr : Nat) (ev : Event) (kh : Keep kq ku s) : Keep kq ku (State.putEvent s tile addr ev) := by
  unfold State.putEvent
  refine Keep.ite ?_ ?_
  · with_reducible apply keep_State_tmWrite
    with_reducible assumption
  · split
    with_reducible apply keep_State_tmWrite
    refine Keep.eq2 (by with_reducible assumption) ?_
    with_reducible apply keep_State_fresh
    with_reducible assumption

theorem keep_State_takeEvent (s : State) (p tile th addr d : Nat) (e : PoolEnt) (kh : Keep kq ku s) : Keep kq ku (State.takeEvent s p tile th addr d e) := by
  unfold State.takeEvent
  extract_lets +onlyGivenNames x0
  refine Keep.cut (P := Keep kq ku x0) ?_ fun h1 => ?_
  · unfold x0
    with_reducible apply keep_State_putEvent
    with_reducible assumption
  extract_lets +onlyGivenNames x2
  extract_lets +onlyGivenNames x3
  refine Keep.cut (P := Keep kq ku x3) ?_ fun h4 => ?_
  · unfold x3
    with_reducible apply keep_State_setThread
    with_reducible assumption
  with_reducible apply keep_State_setEvent
  with_reducible assumption

theorem keep_State_deliverTo (s : State) (p : Nat) (e : PoolEnt) (t : EvTarget) (kh : Keep kq ku s) : Keep kq ku (State.deliverTo s p e t) := by
  unfold State.deliverTo
  extract_lets +onlyGivenNames x0
  refine Keep.cut (P := Keep kq ku x0) ?_ fun h1 => ?_
  · unfold x0
    with_reducible apply keep_State_setEvent
    with_reducible assumption
  split
  · with_reducible apply keep_State_takeEvent
    with_reducible apply keep_State_countDelivery
    with_reducible assumption
  · extract_lets +onlyGivenNames x2
    refine Keep.cut (P := Keep kq ku x2) ?_ fun h3 => ?_
    · unfold x2
      with_reducible apply keep_State_countDelivery
      with_reducible assumption
    with_reducible apply keep_State_setEvent
    with_reducible apply keep_State_setThread
    with_reducible assumption
  · with_reducible apply keep_State_setEvent
    with_reducible apply keep_State_countDelivery
    with_reducible assumption

theorem keep_execEventDeliver (slot : Fin 16) (s : State) (kh : Keep kq ku s) : OKeep kq ku (execEventDeliver slot s) := by
  unfold execEventDeliver
  show Keep _ _ _
  split
  · with_reducible assumption
  · split
    · with_reducible assumption
    · split
      · refine Keep.ite ?_ ?_
        · with_reducible apply keep_State_wakeExhausted
          with_reducible apply keep_State_deliverTo
          with_reducible assumption
        · with_reducible assumption
      · with_reducible assumption

theorem keep_State_returnPrefetch (s : State) (p tile th : Nat) (kh : Keep kq ku s) : Keep kq ku (State.returnPrefetch s p tile th) := by
  unfold State.returnPrefetch
  extract_lets +onlyGivenNames x0
  split
  · with_reducible assumption
  · with_reducible apply keep_State_error
    with_reducible apply keep_State_endService
    with_reducible apply keep_State_setThread
    with_reducible assumption

theorem keep_execReclaim (tile : Fin 64) (th : Fin 8) (s : State) (kh : Keep kq ku s) : OKeep kq ku (execReclaim tile th s) := by
  unfold execReclaim
  show Keep _ _ _
  split
  · split
    · with_reducible apply keep_State_atBeat
      · with_reducible assumption
      · intro _ _
        with_reducible apply keep_State_returnPrefetch
        with_reducible assumption
    · with_reducible assumption
  · with_reducible assumption

theorem keep_execEndThread (tile : Fin 64) (th : Fin 8) (imm : BitVec 25) (s : State) (kh : Keep kq ku s) : OKeep kq ku (execEndThread tile th imm s) := by
  unfold execEndThread
  with_reducible apply keep_ifWord
  with_reducible apply keep_State_issueWith
  · with_reducible assumption
  · intro _ _ _ _
    with_reducible apply keep_State_returnPrefetch
    with_reducible apply keep_State_setThread
    with_reducible assumption

theorem keep_State_doneEvent (s : State) (p tile th : Nat) (kh : Keep kq ku s) : Keep kq ku (State.doneEvent s p tile th) := by
  unfold State.doneEvent
  extract_lets +onlyGivenNames x0
  split
  · with_reducible assumption
  · with_reducible apply keep_State_endService
    with_reducible apply keep_State_setThread
    with_reducible assumption

theorem keep_execEventGet (tile : Fin 64) (th : Fin 8) (imm : BitVec 12) (a d : BitVec 5) (s : State) (kh : Keep kq ku s) : OKeep kq ku (execEventGet tile th imm a d s) := by
  unfold execEventGet
  with_reducible apply keep_ifWord
  with_reducible apply keep_State_issueWith
  · with_reducible assumption
  · intro _ _ _ _
    extract_lets +onlyGivenNames x0
    refine Keep.ite ?_ ?_
    · with_reducible apply keep_State_tmRange
      with_reducible assumption
    · extract_lets +onlyGivenNames x1
      refine Keep.cut (P := Keep kq ku x1) ?_ fun h2 => ?_
      · unfold x1
        with_reducible apply keep_State_doneEvent
        with_reducible apply keep_State_setThread
        with_reducible assumption
      extract_lets +onlyGivenNames x3
      extract_lets +onlyGivenNames x4
      split
      · with_reducible apply keep_State_wakeExhausted
        with_reducible apply keep_State_takeEvent
        with_reducible apply keep_State_setThread
        with_reducible assumption
      · refine Keep.ite ?_ ?_
        · with_reducible apply keep_State_getExhausted
          with_reducible assumption
        · extract_lets +onlyGivenNames x5
          with_reducible apply keep_State_setThread
          with_reducible refine Keep.mk' ?_ rfl rfl rfl rfl (.inl rfl)
          with_reducible assumption

theorem keep_execEventDone (tile : Fin 64) (th : Fin 8) (imm : BitVec 12) (a d : BitVec 5) (s : State) (kh : Keep kq ku s) : OKeep kq ku (execEventDone tile th imm a d s) := by
  unfold execEventDone
  with_reducible apply keep_ifWord
  with_reducible apply keep_State_issueWith
  · with_reducible assumption
  · intro _ _ _ _
    with_reducible apply keep_State_doneEvent
    with_reducible apply keep_State_setThread
    with_reducible assumption

theorem keep_State_countPost (s : State) (p k : Nat) (o : Origin) (delay : Bool) (kh : Keep kq ku s) : Keep kq ku (State.countPost s p k o delay).1 := by
  unfold State.countPost
  extract_lets +onlyGivenNames x0
  split
  · dsimp -zeta only
    with_reducible refine Keep.mk' ?_ rfl rfl rfl rfl (.inl rfl)
    with_reducible assumption
  · dsimp -zeta only
    with_reducible refine Keep.mk' ?_ rfl rfl rfl rfl (.inl rfl)
    with_reducible assumption

theorem keep_State_threadEvent (s : State) (p tile addr : Nat) (kh : Keep kq ku s) : Keep kq ku (State.threadEvent s p tile addr).2 := by
  unfold State.threadEvent
  split
  · with_reducible assumption
  · split
    dsimp -zeta only
    refine Keep.eq2 (by with_reducible assumption) ?_
    with_reducible apply keep_State_fresh
    with_reducible assumption

theorem keep_State_doPost (s : State) (p tile th addr d : Nat) (kh : Keep kq ku s) : Keep kq ku (State.doPost s p tile th addr d) := by
  unfold State.doPost
  extract_lets +onlyGivenNames x0
  split
  extract_lets +onlyGivenNames x1
  extract_lets +onlyGivenNames x2
  subst x2
  extract_lets +onlyGivenNames x3
  refine Keep.ite ?_ ?_
  · with_reducible apply keep_State_error
    beta_reduce
    with_reducible apply keep_State_setThread
    refine Keep.eq2 (by with_reducible assumption) ?_
    with_reducible apply keep_State_threadEvent
    with_reducible assumption
  · refine Keep.ite ?_ ?_
    · with_reducible apply keep_State_setThread
      refine Keep.eq2 (by with_reducible assumption) ?_
      with_reducible apply keep_State_threadEvent
      with_reducible assumption
    · split
      beta_reduce
      with_reducible apply keep_State_setThread
      refine Keep.ite ?_ ?_
      · with_reducible apply keep_State_accept
        refine Keep.eq1 (by with_reducible assumption) ?_
        clear_value x0
        clear_value x3
        with_reducible apply keep_State_countPost
        refine Keep.eq2 (by with_reducible assumption) ?_
        with_reducible apply keep_State_threadEvent
        with_reducible assumption
      · refine Keep.eq1 (by with_reducible assumption) ?_
        clear_value x0
        clear_value x3
        with_reducible apply keep_State_countPost
        refine Keep.eq2 (by with_reducible assumption) ?_
        with_reducible apply keep_State_threadEvent
        with_reducible assumption

theorem keep_State_doDelay (s : State) (p tile th addr ticks : Nat) (kh : Keep kq ku s) : Keep kq ku (State.doDelay s p tile th addr ticks) := by
  unfold State.doDelay
  extract_lets +onlyGivenNames x0
  split
  extract_lets +onlyGivenNames x1
  extract_lets +onlyGivenNames x2
  subst x2
  extract_lets +onlyGivenNames x3
  refine Keep.ite ?_ ?_
  · with_reducible apply keep_State_error
    beta_reduce
    with_reducible apply keep_State_setThread
    refine Keep.eq2 (by with_reducible assumption) ?_
    with_reducible apply keep_State_threadEvent
    with_reducible assumption
  · refine Keep.ite ?_ ?_
    · with_reducible apply keep_State_setThread
      refine Keep.eq2 (by with_reducible assumption) ?_
      with_reducible apply keep_State_threadEvent
      with_reducible assumption
    · split
      refine Keep.ite ?_ ?_
      · beta_reduce
        with_reducible apply keep_State_setThread
        refine Keep.eq1 (by with_reducible assumption) ?_
        clear_value x0
        clear_value x3
        with_reducible apply keep_State_countPost
        refine Keep.eq2 (by with_reducible assumption) ?_
        with_reducible apply keep_State_threadEvent
        with_reducible assumption
      · extract_lets +onlyGivenNames x4
        extract_lets +onlyGivenNames x5
        beta_reduce
        with_reducible apply keep_State_setThread
        with_reducible refine Keep.mk' ?_ rfl rfl rfl rfl (.inl rfl)
        refine Keep.eq1 (by with_reducible assumption) ?_
        clear_value x0
        clear_value x3
        with_reducible apply keep_State_countPost
        refine Keep.eq2 (by with_reducible assumption) ?_
        with_reducible apply keep_State_threadEvent
        with_reducible assumption

theorem keep_execEventPost (tile : Fin 64) (th : Fin 8) (imm : BitVec 12) (a d : BitVec 5) (s : State) (kh : Keep kq ku s) : OKeep kq ku (execEventPost tile th imm a d s) := by
  unfold execEventPost
  with_reducible apply keep_ifWord
  with_reducible apply keep_State_issueWith
  · with_reducible assumption
  · intro _ _ _ _
    extract_lets +onlyGivenNames x0
    refine Keep.ite ?_ ?_
    · with_reducible apply keep_State_tmRange
      with_reducible assumption
    · with_reducible apply keep_State_doPost
      with_reducible assumption

theorem keep_execEventDelay (tile : Fin 64) (th : Fin 8) (imm : BitVec 12) (a d : BitVec 5) (s : State) (kh : Keep kq ku s) : OKeep kq ku (execEventDelay tile th imm a d s) := by
  unfold execEventDelay
  with_reducible apply keep_ifWord
  with_reducible apply keep_State_issueWith
  · with_reducible assumption
  · intro _ _ _ _
    extract_lets +onlyGivenNames x0
    refine Keep.ite ?_ ?_
    · with_reducible apply keep_State_tmRange
      with_reducible assumption
    · with_reducible apply keep_State_doDelay
      with_reducible assumption

theorem keep_State_wakePosts (s : State) (kh : Keep kq ku s) : Keep kq ku (State.wakePosts s) := by
  unfold State.wakePosts
  refine Keep.foldl ?_ ?_
  · with_reducible assumption
  · intro _ _ _
    extract_lets +onlyGivenNames x0
    split
    · refine Keep.ite ?_ ?_
      · with_reducible assumption
      · with_reducible apply keep_State_doPost
        with_reducible assumption
    · with_reducible apply keep_State_doDelay
      with_reducible assumption
    · with_reducible assumption

theorem keep_execDelayRelease (slot : Fin 16) (s : State) (kh : Keep kq ku s) : OKeep kq ku (execDelayRelease slot s) := by
  unfold execDelayRelease
  show Keep _ _ _
  split
  · with_reducible assumption
  · refine Keep.ite ?_ ?_
    · with_reducible assumption
    · with_reducible apply keep_State_atBeat
      · with_reducible assumption
      · intro _ _
        extract_lets +onlyGivenNames x0
        extract_lets +onlyGivenNames x1
        refine Keep.cut (P := Keep kq ku x1) ?_ fun h2 => ?_
        · unfold x1
          with_reducible refine Keep.mk' ?_ rfl rfl rfl rfl (.inl rfl)
          with_reducible assumption
        with_reducible apply keep_State_wakePosts
        with_reducible apply keep_State_accept
        with_reducible assumption

theorem keep_State_headWriteback (s : State) (n : Nat) (kh : Keep kq ku s) : Keep kq ku (State.headWriteback s n) := by
  unfold State.headWriteback
  extract_lets +onlyGivenNames x0
  with_reducible apply keep_State_issueHost
  with_reducible refine Keep.mk' ?_ rfl rfl rfl rfl (.inl rfl)
  with_reducible assumption

theorem keep_execHostEvent (ring : Fin 16) (ev : Option (List Byte)) (s : State) (kh : Keep kq ku s) : OKeep kq ku (execHostEvent ring ev s) := by
  unfold execHostEvent
  show Keep _ _ _
  refine Keep.ite ?_ ?_
  · with_reducible assumption
  · extract_lets +onlyGivenNames x0
    extract_lets +onlyGivenNames x1
    refine Keep.cut (P := Keep kq ku x1) ?_ fun h2 => ?_
    · unfold x1
      with_reducible refine Keep.mk' ?_ rfl rfl rfl rfl (.inl rfl)
      with_reducible assumption
    split
    · with_reducible apply keep_State_error
      with_reducible apply keep_State_setBit
      with_reducible assumption
    · extract_lets +onlyGivenNames x3
      extract_lets +onlyGivenNames x4
      extract_lets +onlyGivenNames x5
      refine Keep.cut (P := Keep kq ku x5) ?_ fun h6 => ?_
      · unfold x5
        with_reducible apply keep_State_setFld
        with_reducible assumption
      extract_lets +onlyGivenNames x7
      refine Keep.cut (P := Keep kq ku x7) ?_ fun h8 => ?_
      · unfold x7
        refine Keep.ite ?_ ?_
        · with_reducible apply keep_State_accept
          with_reducible assumption
        · with_reducible apply keep_State_error
          with_reducible apply keep_State_addSat
          with_reducible assumption
      extract_lets +onlyGivenNames x9
      refine Keep.ite ?_ ?_
      · with_reducible apply keep_State_headWriteback
        with_reducible assumption
      · with_reducible refine Keep.mk' ?_ rfl rfl rfl rfl (.inl rfl)
        with_reducible assumption

theorem keep_State_badDoorbell (s : State) (kh : Keep kq ku s) : Keep kq ku (State.badDoorbell s) := by
  unfold State.badDoorbell
  with_reducible apply keep_State_error
  with_reducible assumption

theorem keep_execEventDoorbell (ring : Fin 16) (off : Fin 4096) (bytes : Nat) (v : Word) (s : State) (kh : Keep kq ku s) : OKeep kq ku (execEventDoorbell ring off bytes v s) := by
  unfold execEventDoorbell
  show Keep _ _ _
  refine Keep.ite ?_ ?_
  · with_reducible apply keep_State_badDoorbell
    with_reducible assumption
  · extract_lets +onlyGivenNames x0
    refine Keep.cut (P := Keep kq ku x0) ?_ fun h1 => ?_
    · unfold x0
      with_reducible refine Keep.mk' ?_ rfl rfl rfl rfl (.inl rfl)
      with_reducible assumption
    refine Keep.ite ?_ ?_
    · with_reducible apply keep_State_badDoorbell
      with_reducible assumption
    · with_reducible apply keep_State_setFld
      with_reducible assumption

theorem keep_execHistClear (s : State) (kh : Keep kq ku s) : OKeep kq ku (execHistClear s) := by
  unfold execHistClear
  show Keep _ _ _
  refine Keep.foldl ?_ ?_
  · with_reducible assumption
  · intro _ _ _
    with_reducible apply keep_State_setFld
    with_reducible assumption

theorem keep_execPoolHwmClear (s : State) (kh : Keep kq ku s) : OKeep kq ku (execPoolHwmClear s) := by
  unfold execPoolHwmClear
  show Keep _ _ _
  with_reducible apply keep_State_setFld
  with_reducible assumption

theorem keep_execWatchClear (s : State) (kh : Keep kq ku s) : OKeep kq ku (execWatchClear s) := by
  unfold execWatchClear
  show Keep _ _ _
  with_reducible apply keep_State_setFld
  with_reducible apply keep_State_setFld
  with_reducible apply keep_State_setFld
  with_reducible assumption

theorem keep_State_loseEvent (s : State) (p arr : Nat) (kh : Keep kq ku s) : Keep kq ku (State.loseEvent s p arr) := by
  unfold State.loseEvent
  split
  · with_reducible assumption
  · extract_lets +onlyGivenNames x0
    refine Keep.cut (P := Keep kq ku x0) ?_ fun h1 => ?_
    · unfold x0
      with_reducible apply keep_State_setPool
      with_reducible assumption
    extract_lets +onlyGivenNames x2
    refine Keep.cut (P := Keep kq ku x2) ?_ fun h3 => ?_
    · unfold x2
      with_reducible apply keep_State_setFld
      with_reducible apply keep_State_setFld
      with_reducible assumption
    with_reducible apply keep_State_wakeExhausted
    with_reducible apply keep_State_wakePosts
    with_reducible apply keep_State_addSat
    with_reducible assumption

theorem keep_execItemBegin (tile : Fin 64) (th : Fin 8) (imm : BitVec 10) (b a : BitVec 5) (s : State) (kh : Keep kq ku s) : OKeep kq ku (execItemBegin tile th imm b a s) := by
  unfold execItemBegin
  with_reducible apply keep_ifWord
  with_reducible apply keep_State_issueWith
  · with_reducible assumption
  · intro _ _ _ _
    refine Keep.ite ?_ ?_
    · with_reducible apply keep_State_codeFault
      with_reducible assumption
    · extract_lets +onlyGivenNames x0
      with_reducible apply keep_State_setThread
      with_reducible assumption

theorem keep_execItemEnd (tile : Fin 64) (th : Fin 8) (imm : BitVec 10) (b a : BitVec 5) (s : State) (kh : Keep kq ku s) : OKeep kq ku (execItemEnd tile th imm b a s) := by
  unfold execItemEnd
  with_reducible apply keep_ifWord
  with_reducible apply keep_State_issueWith
  · with_reducible assumption
  · intro _ _ _ _
    split
    · with_reducible apply keep_State_addWrap
      with_reducible apply keep_State_setThread
      with_reducible assumption
    · split
      with_reducible apply keep_State_setThread
      refine Keep.eq2 (by with_reducible assumption) ?_
      with_reducible apply keep_State_fresh
      with_reducible assumption

theorem keep_State_noteDiverts (s : State) (tile : Nat) (kh : Keep kq ku s) : Keep kq ku (State.noteDiverts s tile) := by
  unfold State.noteDiverts
  with_reducible apply keep_State_setFld
  with_reducible assumption

theorem keep_State_divertItem (s : State) (tile th : Nat) (kh : Keep kq ku s) : Keep kq ku (State.divertItem s tile th) := by
  unfold State.divertItem
  split
  · with_reducible assumption
  · refine Keep.ite ?_ ?_
    · with_reducible assumption
    · refine Keep.ite ?_ ?_
      · with_reducible apply keep_State_setThread
        with_reducible assumption
      · extract_lets +onlyGivenNames x0
        refine Keep.cut (P := Keep kq ku x0) ?_ fun h1 => ?_
        · unfold x0
          refine Keep.foldl ?_ ?_
          · with_reducible assumption
          · intro _ _ _
            split
            · refine Keep.ite ?_ ?_
              · with_reducible apply keep_State_endStrm
                with_reducible assumption
              · with_reducible assumption
            · with_reducible assumption
        extract_lets +onlyGivenNames x2
        refine Keep.cut (P := Keep kq ku x2) ?_ fun h3 => ?_
        · unfold x2
          with_reducible apply keep_State_strmSettle
          with_reducible assumption
        extract_lets +onlyGivenNames x4
        split
        · refine Keep.ite ?_ ?_
          · with_reducible apply keep_State_setThread
            with_reducible assumption
          · refine Keep.ite ?_ ?_
            · with_reducible apply keep_State_tmRange
              with_reducible assumption
            · extract_lets +onlyGivenNames x5
              extract_lets +onlyGivenNames x6
              refine Keep.cut (P := Keep kq ku x6) ?_ fun h7 => ?_
              · unfold x6
                with_reducible apply keep_State_setThread
                with_reducible assumption
              extract_lets +onlyGivenNames x8
              extract_lets +onlyGivenNames x9
              refine Keep.cut (P := Keep kq ku x9) ?_ fun h10 => ?_
              · unfold x9
                with_reducible apply keep_State_noteDiverts
                with_reducible apply keep_State_setTile
                with_reducible assumption
              with_reducible apply keep_State_error
              with_reducible apply keep_State_addWrap
              with_reducible assumption
        · with_reducible assumption

theorem keep_execItemDivert (tile : Fin 64) (th : Fin 8) (s : State) (kh : Keep kq ku s) : OKeep kq ku (execItemDivert tile th s) := by
  unfold execItemDivert
  show Keep _ _ _
  split
  · with_reducible assumption
  · refine Keep.ite ?_ ?_
    · with_reducible assumption
    · with_reducible apply keep_State_atBeat
      · with_reducible assumption
      · intro _ _
        with_reducible apply keep_State_divertItem
        with_reducible assumption

theorem keep_execDivertTake (tile : Fin 64) (s : State) (kh : Keep kq ku s) : OKeep kq ku (execDivertTake tile s) := by
  unfold execDivertTake
  show Keep _ _ _
  extract_lets +onlyGivenNames x0
  split
  · with_reducible assumption
  · refine Keep.ite ?_ ?_
    · with_reducible assumption
    · extract_lets +onlyGivenNames x1
      refine Keep.cut (P := Keep kq ku x1) ?_ fun h2 => ?_
      · unfold x1
        with_reducible apply keep_State_noteDiverts
        with_reducible apply keep_State_setTile
        with_reducible assumption
      refine Keep.foldl ?_ ?_
      · with_reducible assumption
      · intro _ _ _
        split
        · refine Keep.ite ?_ ?_
          · with_reducible apply keep_State_divertItem
            with_reducible assumption
          · with_reducible assumption
        · with_reducible assumption

theorem keep_execProjLoadw (tile : Fin 64) (th : Fin 8) (var : BitVec 3) (mask : BitVec 3) (ty : BitVec 4) (b a d : BitVec 5) (s : State) (kh : Keep kq ku s) : OKeep kq ku (execProjLoadw tile th var mask ty b a d s) := by
  unfold execProjLoadw
  with_reducible apply keep_ifWord
  with_reducible apply keep_State_issueWith
  · with_reducible assumption
  · intro _ _ _ _
    extract_lets +onlyGivenNames x0
    extract_lets +onlyGivenNames x1
    refine Keep.ite ?_ ?_
    · with_reducible apply keep_State_tmRange
      with_reducible assumption
    · extract_lets +onlyGivenNames x2
      extract_lets +onlyGivenNames x3
      extract_lets +onlyGivenNames x4
      extract_lets +onlyGivenNames x5
      with_reducible apply keep_State_setThread
      with_reducible apply keep_State_setTile
      with_reducible assumption

theorem keep_State_projMul (s : State) (tile th : Nat) (x : Thread) (set mask a d : Nat) (acc : Bool) (kh : Keep kq ku s) : Keep kq ku (State.projMul s tile th x set mask a d acc) := by
  unfold State.projMul
  extract_lets +onlyGivenNames x0
  extract_lets +onlyGivenNames x1
  split
  extract_lets +onlyGivenNames x2
  extract_lets +onlyGivenNames x3
  with_reducible apply keep_State_setThread
  refine Keep.eq2 (by with_reducible assumption) ?_
  with_reducible apply keep_State_fresh
  with_reducible assumption

theorem keep_execProjMv (tile : Fin 64) (th : Fin 8) (var : BitVec 3) (mask : BitVec 3) (ty : BitVec 4) (b a d : BitVec 5) (s : State) (kh : Keep kq ku s) : OKeep kq ku (execProjMv tile th var mask ty b a d s) := by
  unfold execProjMv
  with_reducible apply keep_ifWord
  with_reducible apply keep_State_issueWith
  · with_reducible assumption
  · intro _ _ _ _
    with_reducible apply keep_State_projMul
    with_reducible assumption

theorem keep_execProjMvacc (tile : Fin 64) (th : Fin 8) (var : BitVec 3) (mask : BitVec 3) (ty : BitVec 4) (b a d : BitVec 5) (s : State) (kh : Keep kq ku s) : OKeep kq ku (execProjMvacc tile th var mask ty b a d s) := by
  unfold execProjMvacc
  with_reducible apply keep_ifWord
  with_reducible apply keep_State_issueWith
  · with_reducible assumption
  · intro _ _ _ _
    with_reducible apply keep_State_projMul
    with_reducible assumption

theorem keep_State_lineage (s : State) (p queue seq : Nat) (e : BatchEnv) (diverged : Bool) (kh : Keep kq ku s) : Keep kq ku (State.lineage s p queue seq e diverged).2 := by
  unfold State.lineage
  dsimp only
  split
  · exact kh
  · exact keep_State_fresh _ kh

theorem keep_execBatchOpen (queue : Fin 64) (env : BatchEnv) (s : State) (kh : Keep kq ku s) : OKeep kq ku (execBatchOpen queue env s) := by
  unfold execBatchOpen
  show Keep _ _ _
  split
  · with_reducible assumption
  · refine Keep.ite ?_ ?_
    · with_reducible assumption
    · split
      · refine Keep.ite ?_ ?_
        · with_reducible apply keep_State_setQueue
          with_reducible assumption
        · extract_lets +onlyGivenNames x0
          with_reducible apply keep_State_error
          with_reducible apply keep_State_addSat
          with_reducible apply keep_State_setQueue
          with_reducible assumption
      · refine Keep.ite ?_ ?_
        · with_reducible apply keep_State_setBit
          with_reducible assumption
        · extract_lets +onlyGivenNames x1
          refine Keep.cut (P := Keep kq ku x1.2) ?_ fun h2 => ?_
          · unfold x1
            with_reducible apply keep_State_lineage
            with_reducible assumption
          extract_lets +onlyGivenNames x3
          with_reducible apply keep_State_setBit
          with_reducible apply keep_State_setQueue
          with_reducible assumption

theorem keep_State_batchWrite (s : State) (n : Nat) (q : Queue) (b : Batch) (w : OwnWindow) (off : Nat) (bs : List Byte) (src : ReqSrc) (kh : Keep kq ku s) : Keep kq ku (State.batchWrite s n q b w off bs src) := by
  unfold State.batchWrite
  extract_lets +onlyGivenNames x0
  refine Keep.ite ?_ ?_
  · with_reducible apply keep_State_writeMem
    with_reducible assumption
  · extract_lets +onlyGivenNames x1
    extract_lets +onlyGivenNames x2
    refine Keep.cut (P := Keep kq ku x2) ?_ fun h3 => ?_
    · unfold x2
      refine Keep.foldl ?_ ?_
      · with_reducible assumption
      · intro _ _ _
        with_reducible apply keep_State_issueHost
        with_reducible assumption
    split
    · with_reducible apply keep_State_setQueue
      with_reducible assumption
    · with_reducible assumption

theorem keep_State_zeroRows (s : State) (n : Nat) (q : Queue) (b : Batch) (rows : List Nat) (kh : Keep kq ku s) : Keep kq ku (State.zeroRows s n q b rows) := by
  unfold State.zeroRows
  extract_lets +onlyGivenNames x0
  refine Keep.foldl ?_ ?_
  · with_reducible assumption
  · intro _ _ _
    refine Keep.foldl ?_ ?_
    · with_reducible assumption
    · intro _ _ _
      with_reducible apply keep_State_ownPut
      with_reducible assumption

theorem keep_execBatchComplete (queue : Fin 64) (concealed : List Nat) (s : State) (kh : Keep kq ku s) : OKeep kq ku (execBatchComplete queue concealed s) := by
  unfold execBatchComplete
  show Keep _ _ _
  split
  · with_reducible assumption
  · split
    · with_reducible assumption
    · extract_lets +onlyGivenNames x0
      refine Keep.ite ?_ ?_
      · with_reducible assumption
      · refine Keep.ite ?_ ?_
        · with_reducible apply keep_State_setBit
          with_reducible assumption
        · extract_lets +onlyGivenNames x1
          extract_lets +onlyGivenNames x2
          extract_lets +onlyGivenNames x3
          refine Keep.cut (P := Keep kq ku x3) ?_ fun h4 => ?_
          · unfold x3
            refine Keep.ite ?_ ?_
            · with_reducible apply keep_State_zeroRows
              with_reducible assumption
            · with_reducible assumption
          extract_lets +onlyGivenNames x5
          refine Keep.cut (P := Keep kq ku x5) ?_ fun h6 => ?_
          · unfold x5
            with_reducible apply keep_State_setBit
            with_reducible apply keep_State_setQueue
            with_reducible assumption
          split
          · with_reducible assumption
          · extract_lets +onlyGivenNames x7
            extract_lets +onlyGivenNames x8
            refine Keep.cut (P := Keep kq ku x8) ?_ fun h9 => ?_
            · unfold x8
              with_reducible apply keep_State_batchWrite
              with_reducible assumption
            extract_lets +onlyGivenNames x10
            extract_lets +onlyGivenNames x11
            refine Keep.cut (P := Keep kq ku x11) ?_ fun h12 => ?_
            · unfold x11
              with_reducible apply keep_State_batchWrite
              with_reducible assumption
            split
            · split
              · refine Keep.ite ?_ ?_
                · with_reducible apply keep_State_setQueue
                  with_reducible assumption
                · with_reducible assumption
              · with_reducible assumption
            · with_reducible assumption

theorem keep_State_chime (s : State) (n : Nat) (kh : Keep kq ku s) : Keep kq ku (State.chime s n) := by
  unfold State.chime
  split
  · with_reducible assumption
  · extract_lets +onlyGivenNames x0
    extract_lets +onlyGivenNames x1
    refine Keep.ite ?_ ?_
    · with_reducible assumption
    · refine Keep.ite ?_ ?_
      · with_reducible apply keep_State_setQueue
        with_reducible assumption
      · refine Keep.ite ?_ ?_
        · extract_lets +onlyGivenNames x2
          refine Keep.cut (P := Keep kq ku x2) ?_ fun h3 => ?_
          · unfold x2
            with_reducible apply keep_State_setQueue
            with_reducible assumption
          extract_lets +onlyGivenNames x4
          extract_lets +onlyGivenNames x5
          refine Keep.cut (P := Keep kq ku x5) ?_ fun h6 => ?_
          · unfold x5
            with_reducible apply keep_State_perf
            with_reducible apply keep_State_raise
            with_reducible apply keep_State_wr
            with_reducible assumption
          refine Keep.ite ?_ ?_
          · with_reducible apply keep_State_msix
            with_reducible assumption
          · with_reducible assumption
        · with_reducible assumption

theorem keep_State_afterCommit (s : State) (p : Nat) (kh : Keep kq ku s) : Keep kq ku (State.afterCommit s p) := by
  unfold State.afterCommit
  extract_lets +onlyGivenNames x0
  refine Keep.cut (P := Keep kq ku x0) ?_ fun h1 => ?_
  · unfold x0
    with_reducible apply keep_State_dropChunks
    with_reducible assumption
  extract_lets +onlyGivenNames x2
  refine Keep.cut (P := Keep kq ku x2) ?_ fun h3 => ?_
  · unfold x2
    with_reducible refine Keep.mk' ?_ rfl rfl rfl rfl (.inl rfl)
    with_reducible assumption
  with_reducible apply keep_State_wakePosts
  with_reducible apply keep_State_retireEvents
  with_reducible apply keep_State_dropPrev
  with_reducible apply keep_State_dropCheckpoints
  with_reducible assumption

theorem keep_execBatchCommit (queue : Fin 64) (s : State) (kh : Keep kq ku s) : OKeep kq ku (execBatchCommit queue s) := by
  unfold execBatchCommit
  show Keep _ _ _
  split
  · with_reducible assumption
  · split
    · with_reducible assumption
    · split
      · with_reducible assumption
      · extract_lets +onlyGivenNames x0
        extract_lets +onlyGivenNames x1
        extract_lets +onlyGivenNames x2
        refine Keep.ite ?_ ?_
        · with_reducible assumption
        · extract_lets +onlyGivenNames x3
          refine Keep.cut (P := Keep kq ku x3) ?_ fun h4 => ?_
          · unfold x3
            with_reducible apply keep_State_batchWrite
            with_reducible assumption
          extract_lets +onlyGivenNames x5
          refine Keep.cut (P := Keep kq ku x5) ?_ fun h6 => ?_
          · unfold x5
            with_reducible apply keep_State_setQueue
            with_reducible assumption
          extract_lets +onlyGivenNames x7
          refine Keep.cut (P := Keep kq ku x7) ?_ fun h8 => ?_
          · unfold x7
            with_reducible apply keep_State_perf
            with_reducible apply keep_State_setFld
            with_reducible assumption
          with_reducible apply keep_State_afterCommit
          with_reducible apply keep_State_chime
          with_reducible assumption

theorem keep_State_consume (s : State) (queue : Nat) (v : Word) (kh : Keep kq ku s) : Keep kq ku (State.consume s queue v) := by
  unfold State.consume
  refine Keep.ite ?_ ?_
  · with_reducible apply keep_State_error
    with_reducible assumption
  · with_reducible apply keep_State_chime
    with_reducible apply keep_State_setFld
    with_reducible assumption

theorem keep_execBatqCons (queue : Fin 64) (door : Option (Fin 4096)) (bytes : Nat) (v : Word) (s : State) (kh : Keep kq ku s) : OKeep kq ku (execBatqCons queue door bytes v s) := by
  unfold execBatqCons
  show Keep _ _ _
  split
  · with_reducible apply keep_State_consume
    with_reducible assumption
  · refine Keep.ite ?_ ?_
    · with_reducible apply keep_State_badDoorbell
      with_reducible assumption
    · with_reducible apply keep_State_consume
      with_reducible refine Keep.mk' ?_ rfl rfl rfl rfl (.inl rfl)
      with_reducible assumption

theorem keep_execBatchDeadline (queue : Fin 64) (seq : Word) (s : State) (kh : Keep kq ku s) : OKeep kq ku (execBatchDeadline queue seq s) := by
  unfold execBatchDeadline
  show Keep _ _ _
  split
  · with_reducible assumption
  · split
    · with_reducible assumption
    · split
      · with_reducible assumption
      · refine Keep.ite ?_ ?_
        · with_reducible assumption
        · with_reducible apply keep_State_atBeat
          · with_reducible assumption
          · intro _ _
            extract_lets +onlyGivenNames x0
            extract_lets +onlyGivenNames x1
            extract_lets +onlyGivenNames x2
            refine Keep.cut (P := Keep kq ku x2) ?_ fun h3 => ?_
            · unfold x2
              refine Keep.ite ?_ ?_
              · with_reducible apply keep_State_zeroRows
                with_reducible assumption
              · with_reducible assumption
            extract_lets +onlyGivenNames x4
            extract_lets +onlyGivenNames x5
            refine Keep.cut (P := Keep kq ku x5) ?_ fun h6 => ?_
            · unfold x5
              with_reducible apply keep_State_perf
              with_reducible apply keep_State_setQueue
              with_reducible assumption
            refine Keep.ite ?_ ?_
            · with_reducible apply keep_State_error
              with_reducible assumption
            · with_reducible assumption

theorem keep_State_measure (s : State) (m kind : Nat) (digest : List Byte) (planId slot : Nat) (kh : Keep kq ku s) : Keep kq ku (State.measure s m kind digest planId slot) := by
  unfold State.measure
  extract_lets +onlyGivenNames x0
  extract_lets +onlyGivenNames x1
  extract_lets +onlyGivenNames x2
  refine Keep.cut (P := Keep kq ku x2) ?_ fun h3 => ?_
  · unfold x2
    refine Keep.foldl ?_ ?_
    · with_reducible assumption
    · intro _ _ _
      with_reducible apply keep_State_setFld
      with_reducible assumption
  extract_lets +onlyGivenNames x4
  refine Keep.cut (P := Keep kq ku x4) ?_ fun h5 => ?_
  · unfold x4
    with_reducible apply keep_State_addWrap
    with_reducible assumption
  with_reducible refine Keep.mk' ?_ rfl rfl rfl rfl (.inl rfl)
  with_reducible assumption

theorem keep_State_noteAdmit (s : State) (p : Nat) (r : Refuse) (kh : Keep kq ku s) : Keep kq ku (State.noteAdmit s p r) := by
  unfold State.noteAdmit
  extract_lets +onlyGivenNames x0
  refine Keep.cut (P := Keep kq ku x0) ?_ fun h1 => ?_
  · unfold x0
    with_reducible apply keep_State_setFld
    with_reducible apply keep_State_setFld
    with_reducible apply keep_State_setFld
    with_reducible assumption
  with_reducible apply keep_State_setBit
  with_reducible apply keep_State_setBit
  with_reducible assumption

theorem keep_execPlanLoad (ring : Fin 16) (image : Option (List Byte)) (s : State) (kh : Keep kq ku s) : OKeep kq ku (execPlanLoad ring image s) := by
  unfold execPlanLoad
  show Keep _ _ _
  with_reducible apply keep_State_command
  · with_reducible assumption
  · intro _ _ _
    extract_lets +onlyGivenNames x0
    extract_lets +onlyGivenNames x1
    extract_lets +onlyGivenNames x2
    extract_lets +onlyGivenNames x3
    subst x3
    refine Keep.ite ?_ ?_
    · with_reducible assumption
    · refine Keep.ite ?_ ?_
      · with_reducible apply keep_State_complete
        with_reducible apply keep_State_noteAdmit
        with_reducible assumption
      · refine Keep.ite ?_ ?_
        · with_reducible apply keep_State_complete
          with_reducible apply keep_State_noteAdmit
          with_reducible assumption
        · extract_lets +onlyGivenNames x4
          refine Keep.ite ?_ ?_
          · beta_reduce
            extract_lets +onlyGivenNames x5
            refine Keep.cut (P := Keep kq ku x5) ?_ fun h6 => ?_
            · unfold x5
              with_reducible apply keep_State_setReason
              with_reducible apply keep_State_noteAdmit
              refine Keep.ite ?_ ?_
              · with_reducible assumption
              · with_reducible apply keep_State_disabledReq
                with_reducible assumption
            with_reducible apply keep_State_complete
            with_reducible assumption
          · refine Keep.ite ?_ ?_
            · beta_reduce
              extract_lets +onlyGivenNames x7
              refine Keep.cut (P := Keep kq ku x7) ?_ fun h8 => ?_
              · unfold x7
                with_reducible apply keep_State_setReason
                with_reducible apply keep_State_noteAdmit
                with_reducible assumption
              with_reducible apply keep_State_complete
              with_reducible assumption
            · extract_lets +onlyGivenNames x9
              extract_lets +onlyGivenNames x10
              split
              · beta_reduce
                extract_lets +onlyGivenNames x11
                refine Keep.cut (P := Keep kq ku x11) ?_ fun h12 => ?_
                · unfold x11
                  with_reducible apply keep_State_setReason
                  with_reducible apply keep_State_noteAdmit
                  with_reducible assumption
                with_reducible apply keep_State_complete
                with_reducible assumption
              · extract_lets +onlyGivenNames x13
                extract_lets +onlyGivenNames x14
                refine Keep.cut (P := Keep kq ku x14) ?_ fun h15 => ?_
                · unfold x14
                  with_reducible apply keep_State_setSlot
                  with_reducible assumption
                extract_lets +onlyGivenNames x16
                refine Keep.cut (P := Keep kq ku x16) ?_ fun h17 => ?_
                · unfold x16
                  with_reducible apply keep_State_setSlotState
                  with_reducible assumption
                with_reducible apply keep_State_setBusy
                with_reducible refine Keep.mk' ?_ rfl rfl rfl rfl (.inl rfl)
                with_reducible assumption

theorem keep_State_openQueues (s : State) (p : Nat) (kh : Keep kq ku s) : Keep kq ku (State.openQueues s p) := by
  unfold State.openQueues
  extract_lets +onlyGivenNames x0
  refine Keep.foldl ?_ ?_
  · with_reducible assumption
  · intro _ _ _
    extract_lets +onlyGivenNames x1
    extract_lets +onlyGivenNames x2
    extract_lets +onlyGivenNames x3
    split
    · with_reducible assumption
    · extract_lets +onlyGivenNames x4
      refine Keep.cut (P := Keep kq ku x4) ?_ fun h5 => ?_
      · unfold x4
        with_reducible apply keep_State_setQueue
        with_reducible assumption
      with_reducible apply keep_State_setFld
      with_reducible apply keep_State_setFld
      with_reducible apply keep_State_setFld
      with_reducible assumption

theorem keep_State_openGroups (s : State) (p : Nat) (kh : Keep kq ku s) : Keep kq ku (State.openGroups s p) := by
  unfold State.openGroups
  extract_lets +onlyGivenNames x0
  refine Keep.foldl ?_ ?_
  · with_reducible assumption
  · intro _ _ _
    extract_lets +onlyGivenNames x1
    extract_lets +onlyGivenNames x2
    extract_lets +onlyGivenNames x3
    refine Keep.ite ?_ ?_
    · with_reducible assumption
    · extract_lets +onlyGivenNames x4
      refine Keep.cut (P := Keep kq ku x4) ?_ fun h5 => ?_
      · unfold x4
        with_reducible apply keep_State_setFld
        with_reducible apply keep_State_setFld
        with_reducible apply keep_State_setFld
        with_reducible assumption
      with_reducible apply keep_State_setGroup
      with_reducible assumption

theorem keep_State_openTables (s : State) (p : Nat) (kh : Keep kq ku s) : Keep kq ku (State.openTables s p) := by
  unfold State.openTables
  extract_lets +onlyGivenNames x0
  refine Keep.foldl1 ?_ ?_
  · with_reducible assumption
  · intro _ _ _
    dsimp -zeta only
    with_reducible apply keep_State_setTable
    with_reducible assumption

theorem keep_State_seat (s : State) (p : Nat) (kh : Keep kq ku s) : Keep kq ku (State.seat s p) := by
  unfold State.seat
  extract_lets +onlyGivenNames x0
  extract_lets +onlyGivenNames x1
  extract_lets +onlyGivenNames x2
  refine Keep.cut (P := Keep kq ku x2) ?_ fun h3 => ?_
  · unfold x2
    with_reducible apply keep_State_setSlot
    with_reducible assumption
  extract_lets +onlyGivenNames x4
  refine Keep.cut (P := Keep kq ku x4) ?_ fun h5 => ?_
  · unfold x4
    with_reducible apply keep_State_setFld
    with_reducible apply keep_State_setFld
    with_reducible assumption
  extract_lets +onlyGivenNames x6
  refine Keep.cut (P := Keep kq ku x6) ?_ fun h7 => ?_
  · unfold x6
    with_reducible apply keep_State_wr
    with_reducible apply keep_State_setFld
    with_reducible assumption
  extract_lets +onlyGivenNames x8
  extract_lets +onlyGivenNames x9
  refine Keep.cut (P := Keep kq ku x9) ?_ fun h10 => ?_
  · unfold x9
    with_reducible apply keep_State_setFld
    with_reducible apply keep_State_setFld
    with_reducible assumption
  extract_lets +onlyGivenNames x11
  refine Keep.cut (P := Keep kq ku x11) ?_ fun h12 => ?_
  · unfold x11
    with_reducible apply keep_State_setFld
    with_reducible assumption
  extract_lets +onlyGivenNames x13
  refine Keep.cut (P := Keep kq ku x13) ?_ fun h14 => ?_
  · unfold x13
    with_reducible apply keep_State_wr
    with_reducible apply keep_State_wr
    with_reducible assumption
  extract_lets +onlyGivenNames x15
  refine Keep.cut (P := Keep kq ku x15) ?_ fun h16 => ?_
  · unfold x15
    with_reducible apply keep_State_wr
    with_reducible apply keep_State_wr
    with_reducible assumption
  extract_lets +onlyGivenNames x17
  refine Keep.cut (P := Keep kq ku x17) ?_ fun h18 => ?_
  · unfold x17
    with_reducible apply keep_State_openTables
    with_reducible apply keep_State_openGroups
    with_reducible apply keep_State_openQueues
    with_reducible assumption
  with_reducible apply keep_State_setOwn
  with_reducible assumption

theorem keep_execAdmissionCopyDone (copy : Option (List Byte)) (s : State) (kh : Keep kq ku s) : OKeep kq ku (execAdmissionCopyDone copy s) := by
  unfold execAdmissionCopyDone
  show Keep _ _ _
  split
  · with_reducible assumption
  · extract_lets +onlyGivenNames x0
    split
    · with_reducible apply keep_State_endAdmission
      with_reducible assumption
    · extract_lets +onlyGivenNames x1
      refine Keep.ite ?_ ?_
      · with_reducible apply keep_State_endAdmission
        with_reducible assumption
      · extract_lets +onlyGivenNames x2
        extract_lets +onlyGivenNames x3
        refine Keep.cut (P := Keep kq ku x3) ?_ fun h4 => ?_
        · unfold x3
          with_reducible apply keep_State_writeDev
          with_reducible assumption
        extract_lets +onlyGivenNames x5
        refine Keep.cut (P := Keep kq ku x5) ?_ fun h6 => ?_
        · unfold x5
          with_reducible apply keep_State_setSlot
          with_reducible assumption
        extract_lets +onlyGivenNames x7
        refine Keep.cut (P := Keep kq ku x7) ?_ fun h8 => ?_
        · unfold x7
          with_reducible apply keep_State_measure
          with_reducible assumption
        extract_lets +onlyGivenNames x9
        refine Keep.cut (P := Keep kq ku x9) ?_ fun h10 => ?_
        · unfold x9
          with_reducible apply keep_State_setReason
          with_reducible apply keep_State_setSlotState
          with_reducible apply keep_State_seat
          with_reducible assumption
        with_reducible apply keep_State_complete
        with_reducible apply keep_State_noteAdmit
        with_reducible refine Keep.mk' ?_ rfl rfl rfl rfl (.inl rfl)
        with_reducible assumption

theorem keep_State_putOut (s : State) (o : OpOut) (kh : Keep kq ku s) : Keep kq ku (State.putOut s o) := by
  unfold State.putOut
  with_reducible refine Keep.mk' ?_ rfl rfl rfl rfl (.inl rfl)
  with_reducible assumption

theorem keep_State_runTopk (s : State) (p op stage : Nat) (rows : List SelRow) (kh : Keep kq ku s) : Keep kq ku (State.runTopk s p op stage rows) := by
  unfold State.runTopk
  extract_lets +onlyGivenNames x0
  extract_lets +onlyGivenNames x1
  extract_lets +onlyGivenNames x2
  extract_lets +onlyGivenNames x3
  extract_lets +onlyGivenNames x4
  extract_lets +onlyGivenNames x5
  extract_lets +onlyGivenNames x6
  extract_lets +onlyGivenNames x7
  refine Keep.ite ?_ ?_
  · with_reducible apply keep_State_claimOverrun
    with_reducible assumption
  · refine Keep.foldl ?_ ?_
    · with_reducible assumption
    · intro _ _ _
      refine Keep.foldl ?_ ?_
      · with_reducible assumption
      · intro _ _ _
        extract_lets +onlyGivenNames x8
        extract_lets +onlyGivenNames x9
        extract_lets +onlyGivenNames x10
        with_reducible apply keep_State_sortCounts
        with_reducible apply keep_State_writeMem
        with_reducible assumption

theorem keep_State_mergeItem (s : State) (p op tile g m : Nat) (host : List (Nat × Nat × List Byte)) (kh : Keep kq ku s) : Keep kq ku (State.mergeItem s p op tile g m host).1 := by
  unfold State.mergeItem
  extract_lets +onlyGivenNames x0
  extract_lets +onlyGivenNames x1
  extract_lets +onlyGivenNames x2
  extract_lets +onlyGivenNames x3
  extract_lets +onlyGivenNames x4
  extract_lets +onlyGivenNames x5
  extract_lets +onlyGivenNames x6
  refine Keep.foldl1 ?_ ?_
  · with_reducible assumption
  · intro _ _ _
    extract_lets +onlyGivenNames x7
    refine Keep.cut (P := Keep kq ku x7) ?_ fun h8 => ?_
    · unfold x7
      with_reducible apply keep_State_perf
      with_reducible assumption
    split
    · with_reducible assumption
    · dsimp -zeta only
      with_reducible apply keep_State_error
      with_reducible apply keep_State_addSat
      with_reducible assumption

theorem keep_State_runMerge (s : State) (p op stage : Nat) (host : List (Nat × Nat × List Byte)) (kh : Keep kq ku s) : Keep kq ku (State.runMerge s p op stage host) := by
  unfold State.runMerge
  extract_lets +onlyGivenNames x0
  extract_lets +onlyGivenNames x1
  extract_lets +onlyGivenNames x2
  extract_lets +onlyGivenNames x3
  extract_lets +onlyGivenNames x4
  extract_lets +onlyGivenNames x5
  extract_lets +onlyGivenNames x6
  refine Keep.cut (P := Keep kq ku x6.1) ?_ fun h7 => ?_
  · unfold x6
    refine Keep.foldl1 ?_ ?_
    · with_reducible assumption
    · intro _ _ _
      extract_lets +onlyGivenNames x8
      extract_lets +onlyGivenNames x9
      extract_lets +onlyGivenNames x10
      refine Keep.cut (P := Keep kq ku x10.1) ?_ fun h11 => ?_
      · unfold x10
        clear_value x9
        with_reducible apply keep_State_mergeItem
        with_reducible assumption
      extract_lets +onlyGivenNames x12
      refine Keep.cut (P := Keep kq ku x12) ?_ fun h13 => ?_
      · unfold x12
        with_reducible apply keep_State_writeMem
        with_reducible assumption
      dsimp -zeta only
      with_reducible apply keep_State_sortCounts
      with_reducible assumption
  refine Keep.ite ?_ ?_
  · refine Keep.foldl ?_ ?_
    · with_reducible assumption
    · intro _ _ _
      with_reducible apply keep_State_putOut
      with_reducible assumption
  · with_reducible assumption

theorem keep_State_runSort (s : State) (p op stage : Nat) (rows : List SelRow) (kh : Keep kq ku s) : Keep kq ku (State.runSort s p op stage rows) := by
  unfold State.runSort
  extract_lets +onlyGivenNames x0
  extract_lets +onlyGivenNames x1
  extract_lets +onlyGivenNames x2
  refine Keep.foldl ?_ ?_
  · with_reducible assumption
  · intro _ _ _
    extract_lets +onlyGivenNames x3
    refine Keep.ite ?_ ?_
    · with_reducible apply keep_State_claimOverrun
      with_reducible assumption
    · extract_lets +onlyGivenNames x4
      extract_lets +onlyGivenNames x5
      extract_lets +onlyGivenNames x6
      with_reducible apply keep_State_putOut
      with_reducible assumption

theorem keep_State_runPack (s : State) (p op stage : Nat) (seqs : List SeqIn) (kh : Keep kq ku s) : Keep kq ku (State.runPack s p op stage seqs) := by
  unfold State.runPack
  extract_lets +onlyGivenNames x0
  extract_lets +onlyGivenNames x1
  refine Keep.foldl ?_ ?_
  · with_reducible assumption
  · intro _ _ _
    extract_lets +onlyGivenNames x2
    extract_lets +onlyGivenNames x3
    extract_lets +onlyGivenNames x4
    refine Keep.foldl ?_ ?_
    · with_reducible assumption
    · intro _ _ _
      with_reducible apply keep_State_ringWrite
      with_reducible assumption

theorem keep_State_runRagged (s : State) (p op stage : Nat) (seqs : List SeqIn) (kh : Keep kq ku s) : Keep kq ku (State.runRagged s p op stage seqs) := by
  unfold State.runRagged
  refine Keep.foldl ?_ ?_
  · with_reducible assumption
  · intro _ _ _
    extract_lets +onlyGivenNames x0
    extract_lets +onlyGivenNames x1
    with_reducible apply keep_State_putOut
    with_reducible assumption

theorem keep_State_runOps (s : State) (p stage : Nat) (e : StageEnv) (kh : Keep kq ku s) : Keep kq ku (State.runOps s p stage e) := by
  unfold State.runOps
  extract_lets +onlyGivenNames x0
  refine Keep.foldl ?_ ?_
  · with_reducible assumption
  · intro _ _ _
    extract_lets +onlyGivenNames x1
    extract_lets +onlyGivenNames x2
    extract_lets +onlyGivenNames x3
    refine Keep.ite ?_ ?_
    · with_reducible apply keep_State_runSort
      with_reducible assumption
    · refine Keep.ite ?_ ?_
      · with_reducible apply keep_State_runTopk
        with_reducible assumption
      · refine Keep.ite ?_ ?_
        · with_reducible apply keep_State_runMerge
          with_reducible assumption
        · refine Keep.ite ?_ ?_
          · with_reducible apply keep_State_runPack
            with_reducible assumption
          · refine Keep.ite ?_ ?_
            · with_reducible apply keep_State_runRagged
              with_reducible assumption
            · with_reducible assumption

theorem keep_State_drawSamples (s : State) (p stage k : Nat) (env : StageEnv) (kh : Keep kq ku s) : Keep kq ku (State.drawSamples s p stage k env) := by
  unfold State.drawSamples
  extract_lets +onlyGivenNames x0
  split
  · with_reducible assumption
  · refine Keep.ite ?_ ?_
    · with_reducible assumption
    · extract_lets +onlyGivenNames x1
      extract_lets +onlyGivenNames x2
      extract_lets +onlyGivenNames x3
      refine Keep.ite ?_ ?_
      · with_reducible apply keep_State_error
        with_reducible apply keep_State_failPlan
        with_reducible assumption
      · refine Keep.ite ?_ ?_
        · extract_lets +onlyGivenNames x4
          split
          with_reducible apply keep_State_error
          with_reducible apply keep_State_failPlan
          refine Keep.eq2 (by with_reducible assumption) ?_
          with_reducible apply keep_State_fresh
          with_reducible assumption
        · extract_lets +onlyGivenNames x5
          refine Keep.cut (P := Keep kq ku x5) ?_ fun h6 => ?_
          · unfold x5
            with_reducible refine Keep.mk' ?_ rfl rfl rfl rfl (.inl rfl)
            with_reducible assumption
          extract_lets +onlyGivenNames x7
          extract_lets +onlyGivenNames x8
          refine Keep.cut (P := Keep kq ku x8) ?_ fun h9 => ?_
          · unfold x8
            with_reducible apply keep_State_setFld
            with_reducible apply keep_State_setFld
            with_reducible assumption
          extract_lets +onlyGivenNames x10
          refine Keep.cut (P := Keep kq ku x10) ?_ fun h11 => ?_
          · unfold x10
            refine Keep.ite ?_ ?_
            · with_reducible apply keep_State_setFld
              with_reducible assumption
            · with_reducible assumption
          with_reducible apply keep_State_perf
          with_reducible apply keep_State_perf
          with_reducible assumption

theorem keep_State_dropAug (s : State) (p op g : Nat) (kh : Keep kq ku s) : Keep kq ku (State.dropAug s p op g) := by
  unfold State.dropAug
  with_reducible refine Keep.mk' ?_ rfl rfl rfl rfl (.inl rfl)
  with_reducible assumption

theorem keep_State_giveAug (s : State) (p op g : Nat) (bs : List Byte) (concealed : Bool) (kh : Keep kq ku s) : Keep kq ku (State.giveAug s p op g bs concealed) := by
  unfold State.giveAug
  extract_lets +onlyGivenNames x0
  refine Keep.cut (P := Keep kq ku x0) ?_ fun h1 => ?_
  · unfold x0
    with_reducible apply keep_State_dropAug
    with_reducible assumption
  with_reducible refine Keep.mk' ?_ rfl rfl rfl rfl (.inl rfl)
  with_reducible assumption

theorem keep_State_augMissing (s : State) (p op g : Nat) (c : List Byte) (kh : Keep kq ku s) : Keep kq ku (State.augMissing s p op g c) := by
  unfold State.augMissing
  refine Keep.ite ?_ ?_
  · with_reducible apply keep_State_failPlan
    with_reducible apply keep_State_dropAug
    with_reducible assumption
  · with_reducible apply keep_State_error
    with_reducible apply keep_State_addSat
    with_reducible apply keep_State_giveAug
    with_reducible assumption

theorem keep_execAugRecordRead (slot : Fin 16) (op : Fin 256) (row : Word) (record : Option (List Byte)) (s : State) (kh : Keep kq ku s) : OKeep kq ku (execAugRecordRead slot op row record s) := by
  unfold execAugRecordRead
  show Keep _ _ _
  split
  · with_reducible assumption
  · extract_lets +onlyGivenNames x0
    extract_lets +onlyGivenNames x1
    extract_lets +onlyGivenNames x2
    extract_lets +onlyGivenNames x3
    refine Keep.ite ?_ ?_
    · with_reducible assumption
    · split
      · with_reducible assumption
      · clear_value x3
        split
        · with_reducible apply keep_State_augMissing
          with_reducible apply keep_State_error
          with_reducible apply keep_State_addSat
          with_reducible assumption
        · refine Keep.ite ?_ ?_
          · with_reducible apply keep_State_giveAug
            with_reducible assumption
          · extract_lets +onlyGivenNames x4
            extract_lets +onlyGivenNames x5
            refine Keep.cut (P := Keep kq ku x5) ?_ fun h6 => ?_
            · unfold x5
              with_reducible apply keep_State_dropAug
              with_reducible assumption
            with_reducible refine Keep.mk' ?_ rfl rfl rfl rfl (.inl rfl)
            with_reducible assumption

theorem keep_execAugReread (slot : Fin 16) (op : Fin 256) (row : Word) (s : State) (kh : Keep kq ku s) : OKeep kq ku (execAugReread slot op row s) := by
  unfold execAugReread
  show Keep _ _ _
  split
  · refine Keep.ite ?_ ?_
    · with_reducible assumption
    · with_reducible apply keep_State_atBeat
      · with_reducible assumption
      · intro _ _
        extract_lets +onlyGivenNames x0
        refine Keep.cut (P := Keep kq ku x0) ?_ fun h1 => ?_
        · unfold x0
          with_reducible apply keep_State_dropAug
          with_reducible assumption
        with_reducible apply keep_State_perf
        with_reducible refine Keep.mk' ?_ rfl rfl rfl rfl (.inl rfl)
        with_reducible assumption
  · with_reducible assumption

theorem keep_execAugWaitExpire (slot : Fin 16) (op : Fin 256) (row : Word) (s : State) (kh : Keep kq ku s) : OKeep kq ku (execAugWaitExpire slot op row s) := by
  unfold execAugWaitExpire
  show Keep _ _ _
  split
  · with_reducible apply keep_State_atBeat
    · with_reducible assumption
    · intro _ _
      with_reducible apply keep_State_augMissing
      with_reducible assumption
  · with_reducible assumption

theorem keep_State_postCue (s : State) (c target : Nat) (kh : Keep kq ku s) : Keep kq ku (State.postCue s c target) := by
  unfold State.postCue
  extract_lets +onlyGivenNames x0
  extract_lets +onlyGivenNames x1
  extract_lets +onlyGivenNames x2
  refine Keep.cut (P := Keep kq ku x2) ?_ fun h3 => ?_
  · unfold x2
    with_reducible refine Keep.mk' ?_ rfl rfl rfl rfl (.inl rfl)
    with_reducible assumption
  extract_lets +onlyGivenNames x4
  refine Keep.cut (P := Keep kq ku x4) ?_ fun h5 => ?_
  · unfold x4
    with_reducible apply keep_State_setBit
    with_reducible apply keep_State_setBit
    with_reducible assumption
  extract_lets +onlyGivenNames x6
  refine Keep.cut (P := Keep kq ku x6) ?_ fun h7 => ?_
  · unfold x6
    with_reducible apply keep_State_setFld
    with_reducible assumption
  refine Keep.ite ?_ ?_
  · with_reducible apply keep_State_error
    with_reducible assumption
  · with_reducible assumption

theorem keep_execTimeCuePost (cue : Fin 32) (s : State) (kh : Keep kq ku s) : OKeep kq ku (execTimeCuePost cue s) := by
  unfold execTimeCuePost
  show Keep _ _ _
  refine Keep.ite ?_ ?_
  · with_reducible apply keep_State_reject
    with_reducible assumption
  · with_reducible apply keep_State_postCue
    with_reducible assumption

theorem keep_State_postCadence (s : State) (p : Nat) (kh : Keep kq ku s) : Keep kq ku (State.postCadence s p) := by
  unfold State.postCadence
  split
  · with_reducible assumption
  · extract_lets +onlyGivenNames x0
    extract_lets +onlyGivenNames x1
    refine Keep.ite ?_ ?_
    · with_reducible assumption
    · extract_lets +onlyGivenNames x2
      with_reducible apply keep_State_postCue
      with_reducible apply keep_State_setFld
      with_reducible assumption

theorem keep_State_fireCadence (s : State) (p target : Nat) (kh : Keep kq ku s) : Keep kq ku (State.fireCadence s p target) := by
  unfold State.fireCadence
  extract_lets +onlyGivenNames x0
  extract_lets +onlyGivenNames x1
  extract_lets +onlyGivenNames x2
  extract_lets +onlyGivenNames x3
  refine Keep.cut (P := Keep kq ku x3) ?_ fun h4 => ?_
  · unfold x3
    with_reducible apply keep_State_setSlot
    with_reducible assumption
  extract_lets +onlyGivenNames x5
  refine Keep.cut (P := Keep kq ku x5) ?_ fun h6 => ?_
  · unfold x5
    with_reducible apply keep_State_addWrap
    with_reducible assumption
  extract_lets +onlyGivenNames x7
  refine Keep.cut (P := Keep kq ku x7) ?_ fun h8 => ?_
  · unfold x7
    refine Keep.ite ?_ ?_
    · with_reducible assumption
    · refine Keep.ite ?_ ?_
      · with_reducible apply keep_State_closeChunk
        with_reducible assumption
      · with_reducible assumption
  with_reducible apply keep_State_postCadence
  with_reducible assumption

theorem keep_State_startTile (s : State) (p stage k lt : Nat) (kh : Keep kq ku s) : Keep kq ku (State.startTile s p stage k lt) := by
  unfold State.startTile
  extract_lets +onlyGivenNames x0
  extract_lets +onlyGivenNames x1
  extract_lets +onlyGivenNames x2
  extract_lets +onlyGivenNames x3
  extract_lets +onlyGivenNames x4
  refine Keep.cut (P := Keep kq ku x4) ?_ fun h5 => ?_
  · unfold x4
    with_reducible apply keep_State_setTile
    with_reducible assumption
  extract_lets +onlyGivenNames x6
  extract_lets +onlyGivenNames x7
  refine Keep.cut (P := Keep kq ku x7) ?_ fun h8 => ?_
  · unfold x7
    refine Keep.ite ?_ ?_
    · with_reducible apply keep_State_setFld
      with_reducible assumption
    · with_reducible assumption
  with_reducible apply keep_State_strmSettle
  with_reducible assumption

theorem keep_State_beginChunk (s : State) (p k : Nat) (kh : Keep kq ku s) : Keep kq ku (State.beginChunk s p k) := by
  unfold State.beginChunk
  extract_lets +onlyGivenNames x0
  extract_lets +onlyGivenNames x1
  extract_lets +onlyGivenNames x2
  extract_lets +onlyGivenNames x3
  extract_lets +onlyGivenNames x4
  refine Keep.cut (P := Keep kq ku x4) ?_ fun h5 => ?_
  · unfold x4
    with_reducible apply keep_State_setSlot
    with_reducible assumption
  refine Keep.ite ?_ ?_
  · with_reducible apply keep_State_error
    with_reducible apply keep_State_addSat
    with_reducible assumption
  · with_reducible assumption

theorem keep_execStageStart (slot : Fin 16) (stage : Fin 64) (env : StageEnv) (s : State) (kh : Keep kq ku s) : OKeep kq ku (execStageStart slot stage env s) := by
  unfold execStageStart
  show Keep _ _ _
  split
  · with_reducible assumption
  · extract_lets +onlyGivenNames x0
    extract_lets +onlyGivenNames x1
    extract_lets +onlyGivenNames x2
    refine Keep.cut (P := Keep kq ku x2) ?_ fun h3 => ?_
    · unfold x2
      refine Keep.ite ?_ ?_
      · with_reducible apply keep_State_beginChunk
        with_reducible assumption
      · with_reducible assumption
    extract_lets +onlyGivenNames x4
    refine Keep.cut (P := Keep kq ku x4) ?_ fun h5 => ?_
    · unfold x4
      with_reducible apply keep_State_drawSamples
      with_reducible assumption
    refine Keep.ite ?_ ?_
    · with_reducible assumption
    · extract_lets +onlyGivenNames x6
      extract_lets +onlyGivenNames x7
      refine Keep.cut (P := Keep kq ku x7) ?_ fun h8 => ?_
      · unfold x7
        with_reducible apply keep_State_setSlot
        with_reducible assumption
      extract_lets +onlyGivenNames x9
      extract_lets +onlyGivenNames x10
      refine Keep.cut (P := Keep kq ku x10) ?_ fun h11 => ?_
      · unfold x10
        with_reducible refine Keep.mk' ?_ rfl rfl rfl rfl (.inl rfl)
        with_reducible assumption
      extract_lets +onlyGivenNames x12
      refine Keep.cut (P := Keep kq ku x12) ?_ fun h13 => ?_
      · unfold x12
        with_reducible apply keep_State_bindDecs
        with_reducible apply keep_State_emitGroups
        with_reducible apply keep_State_clearTables
        with_reducible assumption
      extract_lets +onlyGivenNames x14
      refine Keep.cut (P := Keep kq ku x14) ?_ fun h15 => ?_
      · unfold x14
        with_reducible apply keep_State_runOps
        with_reducible assumption
      refine Keep.foldl ?_ ?_
      · with_reducible assumption
      · intro _ _ _
        with_reducible apply keep_State_startTile
        with_reducible assumption

theorem keep_State_setRun (s : State) (p : Nat) (r : StageRun) (kh : Keep kq ku s) : Keep kq ku (State.setRun s p r) := by
  unfold State.setRun
  extract_lets +onlyGivenNames x0
  with_reducible apply keep_State_setSlot
  with_reducible assumption

theorem keep_State_tryRelease (s : State) (p stage k : Nat) (kh : Keep kq ku s) : Keep kq ku (State.tryRelease s p stage k) := by
  unfold State.tryRelease
  split
  · with_reducible assumption
  · extract_lets +onlyGivenNames x0
    refine Keep.ite ?_ ?_
    · with_reducible assumption
    · split
      · with_reducible apply keep_State_setRun
        with_reducible assumption
      · with_reducible apply keep_State_postCue
        with_reducible apply keep_State_setRun
        with_reducible assumption

theorem keep_execTileArrive (tile : Fin 64) (s : State) (kh : Keep kq ku s) : OKeep kq ku (execTileArrive tile s) := by
  unfold execTileArrive
  show Keep _ _ _
  split
  · with_reducible assumption
  · split
    · with_reducible assumption
    · refine Keep.ite ?_ ?_
      · with_reducible assumption
      · extract_lets +onlyGivenNames x0
        refine Keep.cut (P := Keep kq ku x0) ?_ fun h1 => ?_
        · unfold x0
          with_reducible apply keep_State_flushPartials
          with_reducible assumption
        refine Keep.ite ?_ ?_
        · with_reducible assumption
        · extract_lets +onlyGivenNames x2
          with_reducible apply keep_State_tryRelease
          with_reducible apply keep_State_setRun
          with_reducible assumption

theorem keep_execStewardArrive (slot stw : Fin 16) (s : State) (kh : Keep kq ku s) : OKeep kq ku (execStewardArrive slot stw s) := by
  unfold execStewardArrive
  show Keep _ _ _
  split
  · with_reducible assumption
  · refine Keep.ite ?_ ?_
    · with_reducible assumption
    · extract_lets +onlyGivenNames x0
      refine Keep.cut (P := Keep kq ku x0) ?_ fun h1 => ?_
      · unfold x0
        split
        · with_reducible apply keep_State_endService
          with_reducible assumption
        · with_reducible assumption
      with_reducible apply keep_State_tryRelease
      with_reducible apply keep_State_setRun
      with_reducible assumption

theorem keep_execItemReturn (tile : Fin 64) (th : Fin 8) (pos : Nat) (s : State) (kh : Keep kq ku s) : OKeep kq ku (execItemReturn tile th pos s) := by
  unfold execItemReturn
  show Keep _ _ _
  extract_lets +onlyGivenNames x0
  split
  · with_reducible assumption
  · extract_lets +onlyGivenNames x1
    refine Keep.cut (P := Keep kq ku x1) ?_ fun h2 => ?_
    · unfold x1
      with_reducible apply keep_State_setTile
      with_reducible assumption
    extract_lets +onlyGivenNames x3
    refine Keep.cut (P := Keep kq ku x3) ?_ fun h4 => ?_
    · unfold x3
      split
      · with_reducible apply keep_State_endService
        with_reducible assumption
      · with_reducible assumption
    with_reducible apply keep_State_tryRelease
    with_reducible assumption

theorem keep_execGongTimeout (slot : Fin 16) (stage : Fin 64) (s : State) (kh : Keep kq ku s) : OKeep kq ku (execGongTimeout slot stage s) := by
  unfold execGongTimeout
  show Keep _ _ _
  split
  · with_reducible assumption
  · extract_lets +onlyGivenNames x0
    extract_lets +onlyGivenNames x1
    refine Keep.ite ?_ ?_
    · with_reducible assumption
    · with_reducible apply keep_State_atBeat
      · with_reducible assumption
      · intro _ _
        extract_lets +onlyGivenNames x2
        extract_lets +onlyGivenNames x3
        extract_lets +onlyGivenNames x4
        extract_lets +onlyGivenNames x5
        refine Keep.cut (P := Keep kq ku x5) ?_ fun h6 => ?_
        · unfold x5
          with_reducible apply keep_State_setFld
          with_reducible apply keep_State_setFld
          with_reducible assumption
        extract_lets +onlyGivenNames x7
        refine Keep.cut (P := Keep kq ku x7) ?_ fun h8 => ?_
        · unfold x7
          with_reducible apply keep_State_setFld
          with_reducible apply keep_State_setFld
          with_reducible assumption
        with_reducible apply keep_State_recordError
        with_reducible apply keep_State_setRun
        with_reducible assumption

theorem keep_State_settleStop (s : State) (p : Nat) (kh : Keep kq ku s) : Keep kq ku (State.settleStop s p) := by
  unfold State.settleStop
  extract_lets +onlyGivenNames x0
  refine Keep.ite ?_ ?_
  · refine Keep.foldl ?_ ?_
    · with_reducible apply keep_State_setSlot
      with_reducible apply keep_State_setSlotState
      with_reducible assumption
    · intro _ _ _
      with_reducible apply keep_State_complete
      with_reducible assumption
  · with_reducible assumption

theorem keep_State_settleChunk (s : State) (p k : Nat) (kh : Keep kq ku s) : Keep kq ku (State.settleChunk s p k) := by
  unfold State.settleChunk
  extract_lets +onlyGivenNames x0
  refine Keep.ite ?_ ?_
  · with_reducible assumption
  · extract_lets +onlyGivenNames x1
    extract_lets +onlyGivenNames x2
    refine Keep.cut (P := Keep kq ku x2) ?_ fun h3 => ?_
    · unfold x2
      with_reducible apply keep_State_setSlot
      with_reducible assumption
    extract_lets +onlyGivenNames x4
    refine Keep.cut (P := Keep kq ku x4) ?_ fun h5 => ?_
    · unfold x4
      refine Keep.ite ?_ ?_
      · with_reducible apply keep_State_addWrap
        with_reducible assumption
      · with_reducible assumption
    extract_lets +onlyGivenNames x6
    refine Keep.ite ?_ ?_
    · refine Keep.foldl ?_ ?_
      · with_reducible apply keep_State_setSlot
        with_reducible apply keep_State_setSlotState
        with_reducible assumption
      · intro _ _ _
        with_reducible apply keep_State_complete
        with_reducible assumption
    · with_reducible apply keep_State_settleStop
      with_reducible assumption

theorem keep_State_gongDone (s : State) (p : Nat) (r : StageRun) (kh : Keep kq ku s) : Keep kq ku (State.gongDone s p r) := by
  unfold State.gongDone
  extract_lets +onlyGivenNames x0
  refine Keep.cut (P := Keep kq ku x0) ?_ fun h1 => ?_
  · unfold x0
    refine Keep.foldl ?_ ?_
    · with_reducible assumption
    · intro _ _ _
      extract_lets +onlyGivenNames x2
      refine Keep.cut (P := Keep kq ku x2) ?_ fun h3 => ?_
      · unfold x2
        with_reducible apply keep_State_abandonTile
        with_reducible assumption
      with_reducible apply keep_State_setTile
      with_reducible assumption
  extract_lets +onlyGivenNames x4
  extract_lets +onlyGivenNames x5
  refine Keep.cut (P := Keep kq ku x5) ?_ fun h6 => ?_
  · unfold x5
    with_reducible apply keep_State_setSlot
    with_reducible assumption
  extract_lets +onlyGivenNames x7
  refine Keep.cut (P := Keep kq ku x7) ?_ fun h8 => ?_
  · unfold x7
    refine Keep.foldl ?_ ?_
    · with_reducible assumption
    · intro _ _ _
      refine Keep.ite ?_ ?_
      · with_reducible assumption
      · with_reducible apply keep_State_gongAt
        with_reducible assumption
  with_reducible apply keep_State_afterCommit
  with_reducible apply keep_State_settleChunk
  with_reducible apply keep_State_ownAtGong
  with_reducible assumption

theorem keep_State_applyParams (s : State) (p : Nat) (kh : Keep kq ku s) : Keep kq ku (State.applyParams s p) := by
  unfold State.applyParams
  extract_lets +onlyGivenNames x0
  extract_lets +onlyGivenNames x1
  extract_lets +onlyGivenNames x2
  refine Keep.cut (P := Keep kq ku x2) ?_ fun h3 => ?_
  · unfold x2
    with_reducible apply keep_State_setSlot
    with_reducible assumption
  with_reducible apply keep_State_setFld
  with_reducible apply keep_State_addWrap
  with_reducible assumption

theorem keep_State_paramsAtCue (s : State) (cue : Nat) (kh : Keep kq ku s) : Keep kq ku (State.paramsAtCue s cue) := by
  unfold State.paramsAtCue
  refine Keep.foldl ?_ ?_
  · with_reducible assumption
  · intro _ _ _
    extract_lets +onlyGivenNames x0
    extract_lets +onlyGivenNames x1
    refine Keep.ite ?_ ?_
    · with_reducible assumption
    · extract_lets +onlyGivenNames x2
      refine Keep.cut (P := Keep kq ku x2) ?_ fun h3 => ?_
      · unfold x2
        with_reducible apply keep_State_applyParams
        with_reducible apply keep_State_setSlot
        with_reducible assumption
      refine Keep.foldl ?_ ?_
      · with_reducible assumption
      · intro _ _ _
        with_reducible apply keep_State_complete
        with_reducible assumption

theorem keep_State_gongsAtCue (s : State) (p target : Nat) (kh : Keep kq ku s) : Keep kq ku (State.gongsAtCue s p target) := by
  unfold State.gongsAtCue
  extract_lets +onlyGivenNames x0
  extract_lets +onlyGivenNames x1
  refine Keep.cut (P := Keep kq ku x1) ?_ fun h2 => ?_
  · unfold x1
    refine Keep.ite ?_ ?_
    · refine Keep.foldl ?_ ?_
      · with_reducible assumption
      · intro _ _ _
        with_reducible apply keep_State_gongDone
        with_reducible assumption
    · with_reducible assumption
  extract_lets +onlyGivenNames x3
  refine Keep.ite ?_ ?_
  · with_reducible apply keep_State_postCue
    with_reducible apply keep_State_setSlot
    with_reducible assumption
  · with_reducible assumption

theorem keep_execCueFire (cue : Fin 32) (lost : List (Fin 512)) (s : State) (kh : Keep kq ku s) : OKeep kq ku (execCueFire cue lost s) := by
  unfold execCueFire
  show Keep _ _ _
  split
  · with_reducible assumption
  · with_reducible apply keep_State_atBeat
    · with_reducible assumption
    · intro _ _
      extract_lets +onlyGivenNames x0
      refine Keep.cut (P := Keep kq ku x0) ?_ fun h1 => ?_
      · unfold x0
        with_reducible refine Keep.mk' ?_ rfl rfl rfl rfl (.inl rfl)
        with_reducible assumption
      extract_lets +onlyGivenNames x2
      refine Keep.cut (P := Keep kq ku x2) ?_ fun h3 => ?_
      · unfold x2
        with_reducible apply keep_State_addWrap
        with_reducible apply keep_State_setBit
        with_reducible assumption
      extract_lets +onlyGivenNames x4
      refine Keep.cut (P := Keep kq ku x4) ?_ fun h5 => ?_
      · unfold x4
        refine Keep.foldl ?_ ?_
        · with_reducible assumption
        · intro _ _ _
          with_reducible apply keep_State_recordError
          with_reducible assumption
      extract_lets +onlyGivenNames x6
      refine Keep.cut (P := Keep kq ku x6) ?_ fun h7 => ?_
      · unfold x6
        refine Keep.foldl ?_ ?_
        · with_reducible assumption
        · intro _ _ _
          refine Keep.ite ?_ ?_
          · with_reducible assumption
          · with_reducible apply keep_State_cueAt
            with_reducible assumption
      extract_lets +onlyGivenNames x8
      refine Keep.cut (P := Keep kq ku x8) ?_ fun h9 => ?_
      · unfold x8
        with_reducible apply keep_State_swapAtCue
        with_reducible apply keep_State_ownAtCue
        with_reducible apply keep_State_paramsAtCue
        with_reducible assumption
      extract_lets +onlyGivenNames x10
      refine Keep.cut (P := Keep kq ku x10) ?_ fun h11 => ?_
      · unfold x10
        refine Keep.ite ?_ ?_
        · with_reducible apply keep_State_gongsAtCue
          with_reducible assumption
        · with_reducible assumption
      refine Keep.foldl ?_ ?_
      · with_reducible assumption
      · intro _ _ _
        refine Keep.ite ?_ ?_
        · with_reducible apply keep_State_fireCadence
          with_reducible assumption
        · with_reducible assumption

theorem keep_execBeatCheck (page : Fin 512) (s : State) (kh : Keep kq ku s) : OKeep kq ku (execBeatCheck page s) := by
  unfold execBeatCheck
  show Keep _ _ _
  refine Keep.ite ?_ ?_
  · with_reducible assumption
  · extract_lets +onlyGivenNames x0
    refine Keep.cut (P := Keep kq ku x0) ?_ fun h1 => ?_
    · unfold x0
      with_reducible apply keep_State_setFld
      with_reducible apply keep_State_addSat
      with_reducible assumption
    with_reducible apply keep_State_recordError
    with_reducible assumption

theorem keep_State_wallNs (s : State) (b : Nat) (kh : Keep kq ku s) : Keep kq ku (State.wallNs s b).2 := by
  unfold State.wallNs
  extract_lets d ppb a c
  split
  · exact kh
  · exact keep_State_fresh _ kh

theorem keep_execTimeSnapTake (s : State) (kh : Keep kq ku s) : OKeep kq ku (execTimeSnapTake s) := by
  have h := keep_State_wallNs s s.beat kh
  unfold execTimeSnapTake
  revert h
  generalize s.wallNs s.beat = r
  obtain ⟨w, x⟩ := r
  intro h
  exact keep_State_setFld _ _ _ _ (keep_State_setFld _ _ _ _ h)

theorem keep_State_steer (s : State) (prev b w k : Nat) (kh : Keep kq ku s) : Keep kq ku (State.steer s prev b w k) := by
  unfold State.steer
  extract_lets +onlyGivenNames x0
  extract_lets +onlyGivenNames x1
  extract_lets +onlyGivenNames x2
  extract_lets +onlyGivenNames x3
  refine Keep.cut (P := Keep kq ku x3) ?_ fun h4 => ?_
  · unfold x3
    with_reducible apply keep_State_setFld
    with_reducible assumption
  refine Keep.ite ?_ ?_
  · with_reducible apply keep_State_error
    with_reducible apply keep_State_addSat
    with_reducible refine Keep.mk' ?_ rfl rfl rfl rfl (.inl rfl)
    with_reducible assumption
  · extract_lets +onlyGivenNames x5
    extract_lets +onlyGivenNames x6
    extract_lets +onlyGivenNames x7
    extract_lets +onlyGivenNames x8
    refine Keep.cut (P := Keep kq ku x8) ?_ fun h9 => ?_
    · unfold x8
      with_reducible apply keep_State_setFld
      with_reducible apply keep_State_setFld
      with_reducible assumption
    extract_lets +onlyGivenNames x10
    refine Keep.cut (P := Keep kq ku x10) ?_ fun h11 => ?_
    · unfold x10
      refine Keep.ite ?_ ?_
      · with_reducible apply keep_State_setFld
        with_reducible assumption
      · with_reducible assumption
    extract_lets +onlyGivenNames x12
    extract_lets +onlyGivenNames x13
    refine Keep.cut (P := Keep kq ku x13) ?_ fun h14 => ?_
    · unfold x13
      with_reducible refine Keep.mk' ?_ rfl rfl rfl rfl (.inl rfl)
      with_reducible assumption
    with_reducible apply keep_State_addSat
    with_reducible assumption

theorem keep_State_discipline (s : State) (prev : Nat) (kh : Keep kq ku s) : Keep kq ku (State.discipline s prev) :=
  keep_State_steer _ _ _ _ _ (keep_State_fresh _ (keep_State_wallNs s s.beat kh))

theorem keep_execSyncEdge (falling : Bool) (s : State) (kh : Keep kq ku s) : OKeep kq ku (execSyncEdge falling s) := by
  unfold execSyncEdge
  show Keep _ _ _
  refine Keep.ite ?_ ?_
  · with_reducible assumption
  · extract_lets +onlyGivenNames x0
    extract_lets +onlyGivenNames x1
    extract_lets +onlyGivenNames x2
    refine Keep.cut (P := Keep kq ku x2) ?_ fun h3 => ?_
    · unfold x2
      with_reducible refine Keep.mk' ?_ rfl rfl rfl rfl (.inl rfl)
      with_reducible assumption
    extract_lets +onlyGivenNames x4
    refine Keep.cut (P := Keep kq ku x4) ?_ fun h5 => ?_
    · unfold x4
      with_reducible apply keep_State_setFld
      with_reducible assumption
    refine Keep.ite ?_ ?_
    · with_reducible apply keep_State_discipline
      with_reducible assumption
    · with_reducible assumption

theorem keep_execSyncMissing (s : State) (kh : Keep kq ku s) : OKeep kq ku (execSyncMissing s) := by
  unfold execSyncMissing
  show Keep _ _ _
  refine Keep.ite ?_ ?_
  · with_reducible assumption
  · with_reducible apply keep_State_atBeat
    · with_reducible assumption
    · intro _ _
      with_reducible apply keep_State_error
      with_reducible refine Keep.mk' ?_ rfl rfl rfl rfl (.inl rfl)
      with_reducible assumption

theorem keep_State_setBucket (s : State) (stack cls n : Nat) (kh : Keep kq ku s) : Keep kq ku (State.setBucket s stack cls n) := by
  unfold State.setBucket
  with_reducible refine Keep.mk' ?_ rfl rfl rfl rfl (.inl rfl)
  with_reducible assumption

theorem keep_execBwsplitWindow (stack : Fin 4) (s : State) (kh : Keep kq ku s) : OKeep kq ku (execBwsplitWindow stack s) := by
  unfold execBwsplitWindow
  show Keep _ _ _
  refine Keep.foldl ?_ ?_
  · with_reducible assumption
  · intro _ _ _
    extract_lets +onlyGivenNames x0
    with_reducible apply keep_State_setBucket
    with_reducible assumption

theorem keep_State_slotCommand (s : State) (ring code : Nat) (slotOf : Cmd → Nat) (valid : List Nat)
    (f : State → Cmd → Nat → State) (h : Keep kq ku s) (hf : ∀ t c p, Keep kq ku t → Keep kq ku (f t c p)) :
    Keep kq ku (s.slotCommand ring code slotOf valid f) := by
  unfold State.slotCommand
  with_reducible apply keep_State_command
  · with_reducible assumption
  · intro _ _ _
    extract_lets +onlyGivenNames x0
    refine Keep.ite ?_ ?_
    · with_reducible apply keep_State_complete
      with_reducible apply keep_State_disabledReq
      with_reducible assumption
    · refine Keep.ite ?_ ?_
      · with_reducible apply keep_State_complete
        with_reducible assumption
      · with_reducible apply hf
        with_reducible assumption

theorem keep_State_initialLoads (s : State) (p : Nat) (kh : Keep kq ku s) : Keep kq ku (State.initialLoads s p) := by
  unfold State.initialLoads
  refine Keep.foldl ?_ ?_
  · with_reducible assumption
  · intro _ _ _
    extract_lets +onlyGivenNames x0
    extract_lets +onlyGivenNames x1
    split
    · with_reducible assumption
    · extract_lets +onlyGivenNames x2
      refine Keep.ite ?_ ?_
      · with_reducible assumption
      · split
        · with_reducible assumption
        · extract_lets +onlyGivenNames x3
          with_reducible apply keep_State_startLoad
          with_reducible assumption

theorem keep_State_cadenceStart (s : State) (p : Nat) (kh : Keep kq ku s) : Keep kq ku (State.cadenceStart s p) := by
  unfold State.cadenceStart
  split
  · with_reducible assumption
  · extract_lets +onlyGivenNames x0
    extract_lets +onlyGivenNames x1
    extract_lets +onlyGivenNames x2
    with_reducible apply keep_State_postCadence
    with_reducible apply keep_State_setSlot
    with_reducible assumption

theorem keep_execPlanStart (ring : Fin 16) (s : State) (kh : Keep kq ku s) : OKeep kq ku (execPlanStart ring s) := by
  unfold execPlanStart
  show Keep _ _ _
  with_reducible apply keep_State_slotCommand
  · with_reducible assumption
  · intro _ _ _ _
    extract_lets +onlyGivenNames x0
    refine Keep.cut (P := Keep kq ku x0) ?_ fun h1 => ?_
    · unfold x0
      with_reducible apply keep_State_restartBatches
      with_reducible apply keep_State_rewind
      with_reducible assumption
    extract_lets +onlyGivenNames x2
    extract_lets +onlyGivenNames x3
    refine Keep.cut (P := Keep kq ku x3) ?_ fun h4 => ?_
    · unfold x3
      with_reducible apply keep_State_setSlotState
      with_reducible apply keep_State_setSlot
      with_reducible assumption
    extract_lets +onlyGivenNames x5
    refine Keep.cut (P := Keep kq ku x5) ?_ fun h6 => ?_
    · unfold x5
      refine Keep.ite ?_ ?_
      · with_reducible assumption
      · with_reducible apply keep_State_initialLoads
        with_reducible assumption
    extract_lets +onlyGivenNames x7
    refine Keep.cut (P := Keep kq ku x7) ?_ fun h8 => ?_
    · unfold x7
      refine Keep.foldl ?_ ?_
      · with_reducible assumption
      · intro _ _ _
        split
        · with_reducible apply keep_State_setGroup
          with_reducible assumption
        · with_reducible assumption
    with_reducible apply keep_State_complete
    with_reducible apply keep_State_cadenceStart
    with_reducible assumption

theorem keep_execPlanStop (ring : Fin 16) (s : State) (kh : Keep kq ku s) : OKeep kq ku (execPlanStop ring s) := by
  unfold execPlanStop
  show Keep _ _ _
  with_reducible apply keep_State_slotCommand
  · with_reducible assumption
  · intro _ _ _ _
    extract_lets +onlyGivenNames x0
    refine Keep.cut (P := Keep kq ku x0) ?_ fun h1 => ?_
    · unfold x0
      with_reducible apply keep_State_setBusy
      with_reducible assumption
    extract_lets +onlyGivenNames x2
    extract_lets +onlyGivenNames x3
    refine Keep.cut (P := Keep kq ku x3) ?_ fun h4 => ?_
    · unfold x3
      with_reducible apply keep_State_setSlot
      with_reducible assumption
    extract_lets +onlyGivenNames x5
    refine Keep.cut (P := Keep kq ku x5) ?_ fun h6 => ?_
    · unfold x5
      with_reducible apply keep_State_setSlotState
      with_reducible assumption
    extract_lets +onlyGivenNames x7
    refine Keep.cut (P := Keep kq ku x7) ?_ fun h8 => ?_
    · unfold x7
      refine Keep.ite ?_ ?_
      · with_reducible apply keep_State_closeChunk
        with_reducible apply keep_State_releaseAllAligned
        with_reducible assumption
      · with_reducible assumption
    with_reducible apply keep_State_settleStop
    with_reducible assumption

theorem keep_execPlanAbort (ring : Fin 16) (s : State) (kh : Keep kq ku s) : OKeep kq ku (execPlanAbort ring s) := by
  unfold execPlanAbort
  show Keep _ _ _
  with_reducible apply keep_State_slotCommand
  · with_reducible assumption
  · intro _ _ _ _
    extract_lets +onlyGivenNames x0
    refine Keep.cut (P := Keep kq ku x0) ?_ fun h1 => ?_
    · unfold x0
      with_reducible apply keep_State_restartBatches
      with_reducible apply keep_State_rewind
      with_reducible assumption
    extract_lets +onlyGivenNames x2
    extract_lets +onlyGivenNames x3
    extract_lets +onlyGivenNames x4
    refine Keep.cut (P := Keep kq ku x4) ?_ fun h5 => ?_
    · unfold x4
      with_reducible apply keep_State_setSlot
      with_reducible assumption
    extract_lets +onlyGivenNames x6
    refine Keep.cut (P := Keep kq ku x6) ?_ fun h7 => ?_
    · unfold x6
      refine Keep.ite ?_ ?_
      · with_reducible assumption
      · with_reducible apply keep_State_setSlotState
        with_reducible assumption
    extract_lets +onlyGivenNames x8
    refine Keep.cut (P := Keep kq ku x8) ?_ fun h9 => ?_
    · unfold x8
      refine Keep.foldl ?_ ?_
      · with_reducible assumption
      · intro _ _ _
        with_reducible apply keep_State_complete
        with_reducible assumption
    with_reducible apply keep_State_complete
    with_reducible assumption

theorem keep_State_dropWaits (s : State) (p : Nat) (kh : Keep kq ku s) : Keep kq ku (State.dropWaits s p) := by
  unfold State.dropWaits
  extract_lets +onlyGivenNames x0
  refine Keep.cut (P := Keep kq ku x0) ?_ fun h1 => ?_
  · unfold x0
    refine Keep.foldl ?_ ?_
    · with_reducible assumption
    · intro _ _ _
      with_reducible apply keep_State_complete
      with_reducible assumption
  extract_lets +onlyGivenNames x2
  refine Keep.cut (P := Keep kq ku x2) ?_ fun h3 => ?_
  · unfold x2
    split
    · with_reducible apply keep_State_complete
      with_reducible assumption
    · with_reducible assumption
  refine Keep.foldl ?_ ?_
  · with_reducible assumption
  · intro _ _ _
    split
    · refine Keep.ite ?_ ?_
      · with_reducible assumption
      · extract_lets +onlyGivenNames x4
        refine Keep.cut (P := Keep kq ku x4) ?_ fun h5 => ?_
        · unfold x4
          split
          · with_reducible apply keep_State_complete
            with_reducible assumption
          · with_reducible assumption
        with_reducible apply keep_State_setTable
        with_reducible assumption
    · with_reducible assumption

theorem keep_State_release (s : State) (p : Nat) (kh : Keep kq ku s) : Keep kq ku (State.release s p) := by
  unfold State.release
  extract_lets +onlyGivenNames x0
  extract_lets +onlyGivenNames x1
  refine Keep.cut (P := Keep kq ku x1) ?_ fun h2 => ?_
  · unfold x1
    refine Keep.foldl ?_ ?_
    · with_reducible assumption
    · intro _ _ _
      with_reducible apply keep_State_setTile
      with_reducible assumption
  extract_lets +onlyGivenNames x3
  refine Keep.cut (P := Keep kq ku x3) ?_ fun h4 => ?_
  · unfold x3
    refine Keep.foldl ?_ ?_
    · with_reducible assumption
    · intro _ _ _
      with_reducible apply keep_State_setBell
      with_reducible assumption
  extract_lets +onlyGivenNames x5
  refine Keep.cut (P := Keep kq ku x5) ?_ fun h6 => ?_
  · unfold x5
    refine Keep.foldl ?_ ?_
    · with_reducible assumption
    · intro _ _ _
      with_reducible apply keep_State_setQueue
      with_reducible assumption
  extract_lets +onlyGivenNames x7
  refine Keep.cut (P := Keep kq ku x7) ?_ fun h8 => ?_
  · unfold x7
    refine Keep.foldl ?_ ?_
    · with_reducible assumption
    · intro _ _ _
      extract_lets +onlyGivenNames x9
      extract_lets +onlyGivenNames x10
      refine Keep.cut (P := Keep kq ku x10) ?_ fun h11 => ?_
      · unfold x10
        with_reducible refine Keep.mk' ?_ rfl rfl rfl rfl (.inl rfl)
        with_reducible assumption
      with_reducible apply keep_State_setFld
      with_reducible apply keep_State_wr
      with_reducible assumption
  extract_lets +onlyGivenNames x12
  refine Keep.cut (P := Keep kq ku x12) ?_ fun h13 => ?_
  · unfold x12
    with_reducible apply keep_State_setPool
    with_reducible assumption
  extract_lets +onlyGivenNames x14
  extract_lets +onlyGivenNames x15
  refine Keep.cut (P := Keep kq ku x15) ?_ fun h16 => ?_
  · unfold x15
    with_reducible refine Keep.mk' ?_ rfl rfl rfl rfl (.inl rfl)
    with_reducible assumption
  with_reducible apply keep_State_setSlot
  with_reducible assumption

theorem keep_execPlanUnload (ring : Fin 16) (s : State) (kh : Keep kq ku s) : OKeep kq ku (execPlanUnload ring s) := by
  unfold execPlanUnload
  show Keep _ _ _
  with_reducible apply keep_State_slotCommand
  · with_reducible assumption
  · intro _ _ _ _
    extract_lets +onlyGivenNames x0
    extract_lets +onlyGivenNames x1
    refine Keep.cut (P := Keep kq ku x1) ?_ fun h2 => ?_
    · unfold x1
      with_reducible apply keep_State_measure
      with_reducible assumption
    extract_lets +onlyGivenNames x3
    refine Keep.cut (P := Keep kq ku x3) ?_ fun h4 => ?_
    · unfold x3
      with_reducible apply keep_State_release
      with_reducible apply keep_State_dropWaits
      with_reducible apply keep_State_stopPlan
      with_reducible assumption
    extract_lets +onlyGivenNames x5
    refine Keep.cut (P := Keep kq ku x5) ?_ fun h6 => ?_
    · unfold x5
      with_reducible apply keep_State_setFld
      with_reducible apply keep_State_setFld
      with_reducible apply keep_State_setSlotState
      with_reducible assumption
    extract_lets +onlyGivenNames x7
    refine Keep.cut (P := Keep kq ku x7) ?_ fun h8 => ?_
    · unfold x7
      with_reducible apply keep_State_wr
      with_reducible apply keep_State_wr
      with_reducible assumption
    with_reducible apply keep_State_complete
    with_reducible apply keep_State_wakePosts
    with_reducible assumption

theorem keep_execPlanSetParam (ring : Fin 16) (record : Option (List Word)) (s : State) (kh : Keep kq ku s) : OKeep kq ku (execPlanSetParam ring record s) := by
  unfold execPlanSetParam
  show Keep _ _ _
  with_reducible apply keep_State_slotCommand
  · with_reducible assumption
  · intro _ _ _ _
    extract_lets +onlyGivenNames x0
    extract_lets +onlyGivenNames x1
    extract_lets +onlyGivenNames x2
    refine Keep.ite ?_ ?_
    · with_reducible apply keep_State_complete
      with_reducible assumption
    · split
      · with_reducible apply keep_State_complete
        with_reducible assumption
      · extract_lets +onlyGivenNames x3
        extract_lets +onlyGivenNames x4
        extract_lets +onlyGivenNames x5
        refine Keep.ite ?_ ?_
        · with_reducible apply keep_State_complete
          with_reducible assumption
        · refine Keep.ite ?_ ?_
          · with_reducible apply keep_State_complete
            with_reducible assumption
          · extract_lets +onlyGivenNames x6
            refine Keep.ite ?_ ?_
            · with_reducible apply keep_State_setBusy
              with_reducible apply keep_State_setSlot
              with_reducible assumption
            · extract_lets +onlyGivenNames x7
              refine Keep.cut (P := Keep kq ku x7) ?_ fun h8 => ?_
              · unfold x7
                with_reducible apply keep_State_applyParams
                with_reducible apply keep_State_setSlot
                with_reducible assumption
              with_reducible apply keep_State_complete
              with_reducible assumption

end Sys2Proof.Machine
end

