-- ==== Sys2Proof/Laws/KeepUnits.lean ====
section
/-!
SUPPORT. The keep lemmas of memory, links, security, faults, resets, power and register commands.
-/

namespace Sys2Proof.Machine

open Sys2Proof

variable {kq : List Instr} {ku : List FUnit}

theorem keep_State_countErr (s : State) (c : Nat) (unc : Bool) (kh : Keep kq ku s) : Keep kq ku (State.countErr s c unc) := by
  unfold State.countErr
  extract_lets +onlyGivenNames x0
  extract_lets +onlyGivenNames x1
  extract_lets +onlyGivenNames x2
  extract_lets +onlyGivenNames x3
  extract_lets +onlyGivenNames x4
  refine Keep.cut (P := Keep kq ku x4) ?_ fun h5 => ?_
  · unfold x4
    with_reducible refine Keep.mk' ?_ rfl rfl rfl rfl (.inl rfl)
    with_reducible assumption
  extract_lets +onlyGivenNames x6
  extract_lets +onlyGivenNames x7
  refine Keep.ite ?_ ?_
  · with_reducible apply keep_State_recordError
    with_reducible assumption
  · with_reducible assumption

theorem keep_State_eccHbm (s : State) (k : Nat) (env : MemEnv) (kh : Keep kq ku s) : Keep kq ku (State.eccHbm s k env).1 := by
  unfold State.eccHbm
  extract_lets +onlyGivenNames x0
  extract_lets +onlyGivenNames x1
  split
  · with_reducible assumption
  · split
    · extract_lets +onlyGivenNames x2
      refine Keep.cut (P := Keep kq ku x2) ?_ fun h3 => ?_
      · unfold x2
        with_reducible apply keep_State_setFld
        with_reducible apply keep_State_addSat
        with_reducible assumption
      extract_lets +onlyGivenNames x4
      extract_lets +onlyGivenNames x5
      refine Keep.cut (P := Keep kq ku x5) ?_ fun h6 => ?_
      · unfold x5
        with_reducible refine Keep.mk' ?_ rfl rfl rfl rfl (.inl rfl)
        with_reducible assumption
      dsimp -zeta only
      with_reducible apply keep_State_countErr
      with_reducible apply keep_State_error
      with_reducible assumption
    · split
      · dsimp -zeta only
        with_reducible apply keep_State_countErr
        with_reducible apply keep_State_error
        with_reducible apply keep_State_addSat
        with_reducible assumption
      · with_reducible assumption

theorem keep_State_eccStore (s : State) (k : Nat) (env : MemEnv) (kh : Keep kq ku s) : Keep kq ku (State.eccStore s k env) := by
  unfold State.eccStore
  extract_lets +onlyGivenNames x0
  extract_lets +onlyGivenNames x1
  extract_lets +onlyGivenNames x2
  extract_lets +onlyGivenNames x3
  extract_lets +onlyGivenNames x4
  extract_lets +onlyGivenNames x5
  extract_lets +onlyGivenNames x6
  refine Keep.cut (P := Keep kq ku x6) ?_ fun h7 => ?_
  · unfold x6
    refine Keep.foldl ?_ ?_
    · with_reducible assumption
    · intro _ _ _
      with_reducible apply keep_State_error
      with_reducible apply keep_State_setFld
      with_reducible apply keep_State_addSat
      with_reducible assumption
  refine Keep.foldl ?_ ?_
  · with_reducible assumption
  · intro _ _ _
    extract_lets +onlyGivenNames x8
    extract_lets +onlyGivenNames x9
    refine Keep.cut (P := Keep kq ku x9) ?_ fun h10 => ?_
    · unfold x9
      with_reducible refine Keep.mk' ?_ rfl rfl rfl rfl (.inl rfl)
      with_reducible assumption
    with_reducible apply keep_State_recordError
    with_reducible apply keep_State_setFld
    with_reducible apply keep_State_addSat
    with_reducible assumption

theorem keep_State_serve (s : State) (r : MemReq) (k : Nat) (env : MemEnv) (kh : Keep kq ku s) : Keep kq ku (State.serve s r k env).1 := by
  unfold State.serve
  extract_lets +onlyGivenNames x0
  extract_lets +onlyGivenNames x1
  extract_lets +onlyGivenNames x2
  extract_lets +onlyGivenNames x3
  refine Keep.cut (P := Keep kq ku x3) ?_ fun h4 => ?_
  · unfold x3
    refine Keep.ite ?_ ?_
    · with_reducible assumption
    · refine Keep.ite ?_ ?_
      · clear_value x2
        with_reducible apply keep_State_eccHbm
        with_reducible assumption
      · with_reducible apply keep_State_eccStore
        with_reducible assumption
  split
  · dsimp -zeta only
    with_reducible apply keep_State_writeDev
    with_reducible assumption
  · with_reducible assumption

theorem keep_State_charge (s : State) (k : Nat) (cls : MemClass) (cost : Nat) (kh : Keep kq ku s) : Keep kq ku (State.charge s k cls cost) := by
  unfold State.charge
  refine Keep.ite ?_ ?_
  · extract_lets +onlyGivenNames x0
    with_reducible apply keep_State_setBucket
    with_reducible assumption
  · with_reducible assumption

theorem keep_State_serveUnit (s : State) (r : MemReq) (k : Nat) (env : MemEnv) (kh : Keep kq ku s) : Keep kq ku (State.serveUnit s r k env) := by
  unfold State.serveUnit
  extract_lets +onlyGivenNames x0
  refine Keep.cut (P := Keep kq ku x0.1) ?_ fun h1 => ?_
  · unfold x0
    with_reducible apply keep_State_serve
    with_reducible apply keep_State_charge
    with_reducible assumption
  refine Keep.ite ?_ ?_
  · with_reducible assumption
  · with_reducible apply keep_State_emit
    with_reducible assumption

theorem keep_State_refuseUnit (s : State) (r : MemReq) (kh : Keep kq ku s) : Keep kq ku (State.refuseUnit s r) := by
  unfold State.refuseUnit
  refine Keep.ite ?_ ?_
  · with_reducible assumption
  · with_reducible apply keep_State_emit
    with_reducible assumption

theorem keep_State_endAcc (s : State) (id : Nat) (kh : Keep kq ku s) : Keep kq ku (State.endAcc s id) := by
  unfold State.endAcc
  extract_lets +onlyGivenNames x0
  extract_lets +onlyGivenNames x1
  extract_lets +onlyGivenNames x2
  refine Keep.cut (P := Keep kq ku x2) ?_ fun h3 => ?_
  · unfold x2
    with_reducible refine Keep.mk' ?_ rfl rfl rfl rfl (.inl rfl)
    with_reducible assumption
  refine Keep.foldl ?_ ?_
  · with_reducible assumption
  · intro _ _ _
    with_reducible apply keep_State_complete
    with_reducible assumption

theorem keep_State_accessAt (s : State) (r : MemReq) (k : Nat) (env : MemEnv) (kh : Keep kq ku s) : Keep kq ku (State.accessAt s r k env) := by
  unfold State.accessAt
  split
  · refine Keep.ite ?_ ?_
    · with_reducible apply keep_State_serveUnit
      with_reducible assumption
    · with_reducible assumption
  · split
    · refine Keep.ite ?_ ?_
      · with_reducible apply keep_State_endAcc
        with_reducible apply keep_State_serveUnit
        with_reducible assumption
      · with_reducible assumption
    · extract_lets +onlyGivenNames x0
      extract_lets +onlyGivenNames x1
      extract_lets +onlyGivenNames x2
      extract_lets +onlyGivenNames x3
      refine Keep.cut (P := Keep kq ku x3) ?_ fun h4 => ?_
      · unfold x3
        with_reducible refine Keep.mk' ?_ rfl rfl rfl rfl (.inl rfl)
        with_reducible assumption
      with_reducible apply keep_State_issueHost
      with_reducible assumption

theorem keep_execHbmAccess (req : MemReq) (env : MemEnv) (s : State) (kh : Keep kq ku s) : OKeep kq ku (execHbmAccess req env s) := by
  unfold execHbmAccess
  refine OKeep.ite ?_ ?_
  · exact trivial
  · split
    · show Keep _ _ _
      with_reducible apply keep_State_refuseUnit
      with_reducible apply keep_State_hole
      with_reducible assumption
    · extract_lets +onlyGivenNames x0
      refine OKeep.ite ?_ ?_
      · show Keep _ _ _
        with_reducible apply keep_State_refuseUnit
        with_reducible apply keep_State_disabledReq
        with_reducible assumption
      · show Keep _ _ _
        with_reducible apply keep_State_accessAt
        with_reducible assumption

theorem keep_execStoreAccess (req : MemReq) (env : MemEnv) (s : State) (kh : Keep kq ku s) : OKeep kq ku (execStoreAccess req env s) := by
  unfold execStoreAccess
  refine OKeep.ite ?_ ?_
  · exact trivial
  · split
    · show Keep _ _ _
      with_reducible apply keep_State_refuseUnit
      with_reducible apply keep_State_hole
      with_reducible assumption
    · show Keep _ _ _
      with_reducible apply keep_State_accessAt
      with_reducible assumption

theorem keep_State_scrubHbm (s : State) (pg k : Nat) (env : MemEnv) (passDone : Bool) (kh : Keep kq ku s) : Keep kq ku (State.scrubHbm s pg k env passDone) := by
  unfold State.scrubHbm
  refine Keep.ite ?_ ?_
  · with_reducible assumption
  · extract_lets +onlyGivenNames x0
    refine Keep.cut (P := Keep kq ku x0.1) ?_ fun h1 => ?_
    · unfold x0
      with_reducible apply keep_State_eccHbm
      with_reducible apply keep_State_charge
      with_reducible assumption
    extract_lets +onlyGivenNames x2
    extract_lets +onlyGivenNames x3
    refine Keep.cut (P := Keep kq ku x3) ?_ fun h4 => ?_
    · unfold x3
      refine Keep.ite ?_ ?_
      · with_reducible apply keep_State_charge
        with_reducible assumption
      · with_reducible assumption
    refine Keep.ite ?_ ?_
    · with_reducible apply keep_State_addWrap
      with_reducible assumption
    · with_reducible assumption

theorem keep_execHbmScrubRead (stack : Fin 4) (addr : Nat) (env : MemEnv) (passDone : Bool) (s : State) (kh : Keep kq ku s) : OKeep kq ku (execHbmScrubRead stack addr env passDone s) := by
  unfold execHbmScrubRead
  show Keep _ _ _
  with_reducible apply keep_State_scrubHbm
  with_reducible assumption

theorem keep_execStorScrubRead (bank : Fin 256) (addr : Nat) (env : MemEnv) (passDone : Bool) (s : State) (kh : Keep kq ku s) : OKeep kq ku (execStorScrubRead bank addr env passDone s) := by
  unfold execStorScrubRead
  refine OKeep.ite ?_ ?_
  · show Keep _ _ _
    with_reducible assumption
  · extract_lets +onlyGivenNames x0
    refine Keep.cut (P := Keep kq ku x0) ?_ fun h1 => ?_
    · unfold x0
      with_reducible apply keep_State_eccStore
      with_reducible assumption
    show Keep _ _ _
    refine Keep.ite ?_ ?_
    · with_reducible apply keep_State_addWrap
      with_reducible assumption
    · with_reducible assumption

theorem keep_execHbmTempRead (stack : Fin 4) (temp : Byte) (s : State) (kh : Keep kq ku s) : OKeep kq ku (execHbmTempRead stack temp s) := by
  unfold execHbmTempRead
  extract_lets +onlyGivenNames x0
  extract_lets +onlyGivenNames x1
  extract_lets +onlyGivenNames x2
  extract_lets +onlyGivenNames x3
  refine Keep.cut (P := Keep kq ku x3) ?_ fun h4 => ?_
  · unfold x3
    with_reducible apply keep_State_setFld
    with_reducible assumption
  extract_lets +onlyGivenNames x5
  refine Keep.cut (P := Keep kq ku x5) ?_ fun h6 => ?_
  · unfold x5
    with_reducible apply keep_State_setFld
    with_reducible assumption
  extract_lets +onlyGivenNames x7
  refine Keep.cut (P := Keep kq ku x7) ?_ fun h8 => ?_
  · unfold x7
    refine Keep.ite ?_ ?_
    · with_reducible apply keep_State_setBit
      with_reducible assumption
    · refine Keep.ite ?_ ?_
      · with_reducible apply keep_State_setBit
        with_reducible assumption
      · with_reducible assumption
  show Keep _ _ _
  refine Keep.ite ?_ ?_
  · with_reducible apply keep_State_error
    with_reducible assumption
  · refine Keep.ite ?_ ?_
    · with_reducible apply keep_State_error
      with_reducible assumption
    · with_reducible assumption

theorem keep_execHbmRefresh (_stack : Fin 4) (_pc : Fin 64) (_bank : Nat) (_rfm : Bool) (s : State) (kh : Keep kq ku s) : OKeep kq ku (execHbmRefresh _stack _pc _bank _rfm s) := by
  unfold execHbmRefresh
  show Keep _ _ _
  with_reducible assumption

theorem keep_execHphyStep (phy : Fin 4) (stepNo : BitVec 4) (result : Fin 4) (chFail : BitVec 32) (s : State) (kh : Keep kq ku s) : OKeep kq ku (execHphyStep phy stepNo result chFail s) := by
  unfold execHphyStep
  extract_lets +onlyGivenNames x0
  refine OKeep.ite ?_ ?_
  · show Keep _ _ _
    with_reducible apply keep_State_setFld
    with_reducible apply keep_State_setFld
    with_reducible apply keep_State_setFld
    with_reducible assumption
  · show Keep _ _ _
    with_reducible assumption

theorem keep_execHmc0ZoneWrite (fineGib : Byte) (clUnits : BitVec 6) (s : State) (kh : Keep kq ku s) : OKeep kq ku (execHmc0ZoneWrite fineGib clUnits s) := by
  unfold execHmc0ZoneWrite
  extract_lets +onlyGivenNames x0
  extract_lets +onlyGivenNames x1
  extract_lets +onlyGivenNames x2
  show Keep _ _ _
  refine Keep.ite ?_ ?_
  · with_reducible apply keep_State_reject
    with_reducible assumption
  · refine Keep.ite ?_ ?_
    · with_reducible apply keep_State_reject
      with_reducible assumption
    · with_reducible apply keep_State_setFld
      with_reducible apply keep_State_setFld
      with_reducible assumption

theorem keep_State_orphanCpl (s : State) (n : Nat) (kh : Keep kq ku s) : Keep kq ku (State.orphanCpl s n) := by
  unfold State.orphanCpl
  extract_lets +onlyGivenNames x0
  with_reducible refine Keep.mk' ?_ rfl rfl rfl rfl (.inl rfl)
  with_reducible assumption

theorem keep_State_restartRing (s : State) (n : Nat) (kh : Keep kq ku s) : Keep kq ku (State.restartRing s n) := by
  unfold State.restartRing
  extract_lets +onlyGivenNames x0
  refine Keep.cut (P := Keep kq ku x0) ?_ fun h1 => ?_
  · unfold x0
    with_reducible apply keep_State_orphanCpl
    with_reducible apply keep_State_wr
    with_reducible assumption
  extract_lets +onlyGivenNames x2
  extract_lets +onlyGivenNames x3
  refine Keep.cut (P := Keep kq ku x3) ?_ fun h4 => ?_
  · unfold x3
    with_reducible apply keep_State_setRing
    with_reducible assumption
  with_reducible refine Keep.mk' ?_ rfl rfl rfl rfl (.inl rfl)
  with_reducible assumption

theorem keep_execCmdqRingEnable (ring : Fin 16) (s : State) (kh : Keep kq ku s) : OKeep kq ku (execCmdqRingEnable ring s) := by
  unfold execCmdqRingEnable
  show Keep _ _ _
  extract_lets +onlyGivenNames x0
  refine Keep.ite ?_ ?_
  · with_reducible assumption
  · refine Keep.ite ?_ ?_
    · with_reducible apply keep_State_reject
      with_reducible assumption
    · with_reducible apply keep_State_restartRing
      with_reducible apply keep_State_setBit
      with_reducible assumption

theorem keep_execCmdqDoorbell (ring : Fin 16) (off : Fin 4096) (bytes : Nat) (v : Word) (s : State) (kh : Keep kq ku s) : OKeep kq ku (execCmdqDoorbell ring off bytes v s) := by
  unfold execCmdqDoorbell
  show Keep _ _ _
  refine Keep.ite ?_ ?_
  · with_reducible apply keep_State_badDoorbell
    with_reducible assumption
  · extract_lets +onlyGivenNames x0
    refine Keep.cut (P := Keep kq ku x0) ?_ fun h1 => ?_
    · unfold x0
      with_reducible refine Keep.mk' ?_ rfl rfl rfl rfl (.inl rfl)
      with_reducible assumption
    refine Keep.ite ?_ ?_
    · with_reducible apply keep_State_error
      with_reducible assumption
    · with_reducible apply keep_State_setFld
      with_reducible assumption

theorem keep_State_takeEntry (s : State) (n : Nat) (entry : Option (List Byte)) (kh : Keep kq ku s) : Keep kq ku (State.takeEntry s n entry) := by
  unfold State.takeEntry
  refine Keep.ite ?_ ?_
  · with_reducible assumption
  · split
    · with_reducible apply keep_State_error
      with_reducible apply keep_State_setBit
      with_reducible assumption
    · extract_lets +onlyGivenNames x0
      extract_lets +onlyGivenNames x1
      refine Keep.cut (P := Keep kq ku x1) ?_ fun h2 => ?_
      · unfold x1
        with_reducible apply keep_State_setFld
        with_reducible assumption
      extract_lets +onlyGivenNames x3
      extract_lets +onlyGivenNames x4
      refine Keep.cut (P := Keep kq ku x4) ?_ fun h5 => ?_
      · unfold x4
        with_reducible apply keep_State_setRing
        with_reducible assumption
      with_reducible apply keep_State_settleRing
      refine Keep.ite ?_ ?_
      · with_reducible apply keep_State_error
        with_reducible assumption
      · with_reducible assumption

theorem keep_execCmdEntryFetch (ring : Fin 16) (entry : Option (List Byte)) (s : State) (kh : Keep kq ku s) : OKeep kq ku (execCmdEntryFetch ring entry s) := by
  unfold execCmdEntryFetch
  split
  · refine OKeep.ite ?_ ?_
    · show Keep _ _ _
      with_reducible apply keep_State_takeEntry
      with_reducible assumption
    · exact trivial
  · show Keep _ _ _
    with_reducible apply keep_State_takeEntry
    with_reducible assumption

theorem keep_State_cplAcked (s : State) (n : Nat) (kh : Keep kq ku s) : Keep kq ku (State.cplAcked s n) := by
  unfold State.cplAcked
  extract_lets +onlyGivenNames x0
  extract_lets +onlyGivenNames x1
  refine Keep.cut (P := Keep kq ku x1) ?_ fun h2 => ?_
  · unfold x1
    with_reducible apply keep_State_setFld
    with_reducible assumption
  extract_lets +onlyGivenNames x3
  extract_lets +onlyGivenNames x4
  refine Keep.cut (P := Keep kq ku x4) ?_ fun h5 => ?_
  · unfold x4
    with_reducible apply keep_State_setRing
    with_reducible assumption
  extract_lets +onlyGivenNames x6
  refine Keep.cut (P := Keep kq ku x6) ?_ fun h7 => ?_
  · unfold x6
    refine Keep.ite ?_ ?_
    · with_reducible apply keep_State_msix
      with_reducible assumption
    · with_reducible assumption
  with_reducible apply keep_State_sendCpl
  with_reducible assumption

theorem keep_State_cplFailed (s : State) (n : Nat) (kh : Keep kq ku s) : Keep kq ku (State.cplFailed s n) := by
  unfold State.cplFailed
  with_reducible apply keep_State_error
  with_reducible apply keep_State_setBit
  with_reducible assumption

theorem keep_execCplWriteAck (ring : Fin 16) (s : State) (kh : Keep kq ku s) : OKeep kq ku (execCplWriteAck ring s) := by
  unfold execCplWriteAck
  show Keep _ _ _
  split
  · with_reducible assumption
  · with_reducible apply keep_State_cplAcked
    with_reducible refine Keep.mk' ?_ rfl rfl rfl rfl (.inl rfl)
    with_reducible assumption

theorem keep_State_refreshGroup (s : State) (kh : Keep kq ku s) : Keep kq ku (State.refreshGroup s) := by
  unfold State.refreshGroup
  extract_lets +onlyGivenNames x0
  extract_lets +onlyGivenNames x1
  extract_lets +onlyGivenNames x2
  refine Keep.cut (P := Keep kq ku x2) ?_ fun h3 => ?_
  · unfold x2
    with_reducible apply keep_State_setFld
    with_reducible assumption
  extract_lets +onlyGivenNames x4
  refine Keep.cut (P := Keep kq ku x4) ?_ fun h5 => ?_
  · unfold x4
    refine Keep.foldl ?_ ?_
    · with_reducible assumption
    · intro _ _ _
      with_reducible apply keep_State_setBit
      with_reducible apply keep_State_setFld
      with_reducible assumption
  extract_lets +onlyGivenNames x6
  with_reducible apply keep_State_setBit
  with_reducible assumption

theorem keep_execGlbLgrpBind (port : Fin 3) (s : State) (kh : Keep kq ku s) : OKeep kq ku (execGlbLgrpBind port s) := by
  unfold execGlbLgrpBind
  show Keep _ _ _
  extract_lets +onlyGivenNames x0
  refine Keep.ite ?_ ?_
  · with_reducible apply keep_State_reject
    with_reducible assumption
  · extract_lets +onlyGivenNames x1
    refine Keep.cut (P := Keep kq ku x1) ?_ fun h2 => ?_
    · unfold x1
      with_reducible apply keep_State_setFld
      with_reducible assumption
    with_reducible apply keep_State_releaseHeld
    with_reducible apply keep_State_refreshGroup
    with_reducible apply keep_State_setBit
    with_reducible assumption

theorem keep_State_setModules (s : State) (n up : Nat) (kh : Keep kq ku s) : Keep kq ku (State.setModules s n up) := by
  unfold State.setModules
  with_reducible apply keep_State_setFld
  with_reducible apply keep_State_setFld
  with_reducible assumption

theorem keep_execLinkTrained (link : Fin 3) (fails : List (BitVec 4)) (s : State) (kh : Keep kq ku s) : OKeep kq ku (execLinkTrained link fails s) := by
  unfold execLinkTrained
  show Keep _ _ _
  extract_lets +onlyGivenNames x0
  refine Keep.ite ?_ ?_
  · with_reducible assumption
  · extract_lets +onlyGivenNames x1
    extract_lets +onlyGivenNames x2
    extract_lets +onlyGivenNames x3
    extract_lets +onlyGivenNames x4
    refine Keep.cut (P := Keep kq ku x4) ?_ fun h5 => ?_
    · unfold x4
      refine Keep.foldl ?_ ?_
      · with_reducible assumption
      · intro _ _ _
        with_reducible apply keep_State_error
        with_reducible assumption
    extract_lets +onlyGivenNames x6
    extract_lets +onlyGivenNames x7
    extract_lets +onlyGivenNames x8
    refine Keep.cut (P := Keep kq ku x8) ?_ fun h9 => ?_
    · unfold x8
      with_reducible refine Keep.mk' ?_ rfl rfl rfl rfl (.inl rfl)
      with_reducible assumption
    extract_lets +onlyGivenNames x10
    refine Keep.cut (P := Keep kq ku x10) ?_ fun h11 => ?_
    · unfold x10
      refine Keep.ite ?_ ?_
      · with_reducible assumption
      · with_reducible apply keep_State_error
        with_reducible assumption
    extract_lets +onlyGivenNames x12
    refine Keep.ite ?_ ?_
    · with_reducible assumption
    · extract_lets +onlyGivenNames x13
      refine Keep.cut (P := Keep kq ku x13) ?_ fun h14 => ?_
      · unfold x13
        with_reducible apply keep_State_setModules
        with_reducible apply keep_State_setFld
        with_reducible apply keep_State_setBit
        with_reducible apply keep_State_setBit
        with_reducible assumption
      extract_lets +onlyGivenNames x15
      refine Keep.cut (P := Keep kq ku x15) ?_ fun h16 => ?_
      · unfold x15
        with_reducible apply keep_State_setBit
        with_reducible apply keep_State_setFld
        with_reducible assumption
      extract_lets +onlyGivenNames x17
      refine Keep.cut (P := Keep kq ku x17) ?_ fun h18 => ?_
      · unfold x17
        with_reducible apply keep_State_setFld
        with_reducible assumption
      extract_lets +onlyGivenNames x19
      refine Keep.cut (P := Keep kq ku x19) ?_ fun h20 => ?_
      · unfold x19
        with_reducible apply keep_State_setFld
        with_reducible assumption
      with_reducible apply keep_State_refreshGroup
      with_reducible assumption

theorem keep_State_resendFrom (s : State) (n : Nat) (kh : Keep kq ku s) : Keep kq ku (State.resendFrom s n) := by
  unfold State.resendFrom
  extract_lets +onlyGivenNames x0
  extract_lets +onlyGivenNames x1
  extract_lets +onlyGivenNames x2
  refine Keep.cut (P := Keep kq ku x2) ?_ fun h3 => ?_
  · unfold x2
    with_reducible refine Keep.mk' ?_ rfl rfl rfl rfl (.inl rfl)
    with_reducible assumption
  refine Keep.foldl ?_ ?_
  · with_reducible assumption
  · intro _ _ _
    extract_lets +onlyGivenNames x4
    refine Keep.cut (P := Keep kq ku x4) ?_ fun h5 => ?_
    · unfold x4
      split
      · with_reducible apply keep_State_addSat
        with_reducible assumption
      · with_reducible assumption
    with_reducible apply keep_State_sendReq
    with_reducible assumption

theorem keep_State_fenceLink (s : State) (n : Nat) (kh : Keep kq ku s) : Keep kq ku (State.fenceLink s n) := by
  unfold State.fenceLink
  extract_lets +onlyGivenNames x0
  refine Keep.ite ?_ ?_
  · with_reducible assumption
  · extract_lets +onlyGivenNames x1
    refine Keep.cut (P := Keep kq ku x1) ?_ fun h2 => ?_
    · unfold x1
      with_reducible apply keep_State_setModules
      with_reducible apply keep_State_setBit
      with_reducible apply keep_State_setBit
      with_reducible assumption
    extract_lets +onlyGivenNames x3
    extract_lets +onlyGivenNames x4
    refine Keep.cut (P := Keep kq ku x4) ?_ fun h5 => ?_
    · unfold x4
      refine Keep.mk' ?_ rfl rfl rfl rfl (.inr ⟨_, rfl⟩)
      with_reducible assumption
    extract_lets +onlyGivenNames x6
    refine Keep.cut (P := Keep kq ku x6) ?_ fun h7 => ?_
    · unfold x6
      with_reducible apply keep_State_resendFrom
      with_reducible apply keep_State_refreshGroup
      with_reducible assumption
    extract_lets +onlyGivenNames x8
    refine Keep.cut (P := Keep kq ku x8) ?_ fun h9 => ?_
    · unfold x8
      with_reducible apply keep_State_releaseHeld
      with_reducible assumption
    refine Keep.ite ?_ ?_
    · with_reducible apply keep_State_error
      with_reducible assumption
    · with_reducible assumption

theorem keep_State_fenceModule (s : State) (m : Nat) (kh : Keep kq ku s) : Keep kq ku (State.fenceModule s m) := by
  unfold State.fenceModule
  extract_lets +onlyGivenNames x0
  extract_lets +onlyGivenNames x1
  extract_lets +onlyGivenNames x2
  refine Keep.cut (P := Keep kq ku x2) ?_ fun h3 => ?_
  · unfold x2
    refine Keep.mk' ?_ rfl rfl rfl rfl (.inr ⟨_, rfl⟩)
    with_reducible assumption
  extract_lets +onlyGivenNames x4
  extract_lets +onlyGivenNames x5
  refine Keep.ite ?_ ?_
  · with_reducible apply keep_State_fenceLink
    with_reducible assumption
  · with_reducible apply keep_State_setModules
    with_reducible assumption

theorem keep_execFlitRetry (link : Fin 3) (mod : Fin 4) (s : State) (kh : Keep kq ku s) : OKeep kq ku (execFlitRetry link mod s) := by
  unfold execFlitRetry
  show Keep _ _ _
  extract_lets +onlyGivenNames x0
  refine Keep.ite ?_ ?_
  · with_reducible assumption
  · extract_lets +onlyGivenNames x1
    refine Keep.cut (P := Keep kq ku x1) ?_ fun h2 => ?_
    · unfold x1
      with_reducible apply keep_State_addSat
      with_reducible assumption
    extract_lets +onlyGivenNames x3
    refine Keep.cut (P := Keep kq ku x3) ?_ fun h4 => ?_
    · unfold x3
      with_reducible apply keep_State_perf
      with_reducible assumption
    extract_lets +onlyGivenNames x5
    extract_lets +onlyGivenNames x6
    extract_lets +onlyGivenNames x7
    extract_lets +onlyGivenNames x8
    refine Keep.cut (P := Keep kq ku x8) ?_ fun h9 => ?_
    · unfold x8
      with_reducible refine Keep.mk' ?_ rfl rfl rfl rfl (.inl rfl)
      with_reducible assumption
    extract_lets +onlyGivenNames x10
    refine Keep.ite ?_ ?_
    · with_reducible apply keep_State_recordError
      with_reducible assumption
    · with_reducible assumption

theorem keep_execDecoderCommit (port : Fin 3) (dec : Fin 2) (req : DecReq) (s : State) (kh : Keep kq ku s) : OKeep kq ku (execDecoderCommit port dec req s) := by
  unfold execDecoderCommit
  show Keep _ _ _
  extract_lets +onlyGivenNames x0
  refine Keep.ite ?_ ?_
  · with_reducible assumption
  · refine Keep.ite ?_ ?_
    · with_reducible apply keep_State_wr
      with_reducible apply keep_State_wr
      with_reducible assumption
    · refine Keep.ite ?_ ?_
      · with_reducible apply keep_State_error
        with_reducible assumption
      · extract_lets +onlyGivenNames x1
        refine Keep.cut (P := Keep kq ku x1) ?_ fun h2 => ?_
        · unfold x1
          with_reducible apply keep_State_setFld
          with_reducible assumption
        extract_lets +onlyGivenNames x3
        refine Keep.cut (P := Keep kq ku x3) ?_ fun h4 => ?_
        · unfold x3
          with_reducible apply keep_State_setFld
          with_reducible apply keep_State_setFld
          with_reducible assumption
        with_reducible apply keep_State_setBit
        with_reducible assumption

theorem keep_State_memTarget {s t : State} {port addr : Nat} (e : s.memTarget port addr = .none_ t) (kh : Keep kq ku s) : Keep kq ku t := by
  unfold State.memTarget at e
  dsimp only at e
  repeat' split at e
  all_goals (first | cases e | skip)
  · exact keep_State_error _ _ _ kh
  · exact keep_State_hole _ _ _ kh
  · exact keep_State_disabledReq _ _ kh

theorem keep_State_poisonRead (s : State) (port addr : Nat) (kh : Keep kq ku s) : Keep kq ku (State.poisonRead s port addr) := by
  unfold State.poisonRead
  with_reducible apply keep_State_emit
  with_reducible apply keep_State_addSat
  with_reducible assumption

theorem keep_execCxlMemRead (port : Fin 3) (addr : Word) (env : MemEnv) (s : State) (kh : Keep kq ku s) : OKeep kq ku (execCxlMemRead port addr env s) := by
  unfold execCxlMemRead
  show Keep _ _ _
  extract_lets +onlyGivenNames x0
  extract_lets +onlyGivenNames x1
  refine Keep.ite ?_ ?_
  · with_reducible assumption
  · refine Keep.ite ?_ ?_
    · with_reducible apply keep_State_poisonRead
      with_reducible apply keep_State_perf
      with_reducible assumption
    · split
      · with_reducible assumption
      · with_reducible apply keep_State_poisonRead
        with_reducible apply keep_State_perf
        refine keep_State_memTarget (by with_reducible assumption) ?_
        with_reducible assumption
      · extract_lets +onlyGivenNames x2
        extract_lets +onlyGivenNames x3
        refine Keep.cut (P := Keep kq ku x3.1) ?_ fun h4 => ?_
        · unfold x3
          clear_value x2
          with_reducible apply keep_State_serve
          with_reducible apply keep_State_charge
          with_reducible apply keep_State_perf
          with_reducible assumption
        refine Keep.ite ?_ ?_
        · with_reducible apply keep_State_poisonRead
          with_reducible assumption
        · with_reducible apply keep_State_emit
          with_reducible assumption

theorem keep_State_writeMasked (s : State) (a : Nat) (data : List Byte) (mask : Nat) (poison : Bool) (kh : Keep kq ku s) : Keep kq ku (State.writeMasked s a data mask poison) := by
  unfold State.writeMasked
  refine Keep.ite ?_ ?_
  · with_reducible apply keep_State_writeDev
    with_reducible assumption
  · refine Keep.foldl ?_ ?_
    · with_reducible assumption
    · intro _ _ _
      refine Keep.ite ?_ ?_
      · with_reducible apply keep_State_writeDev
        with_reducible assumption
      · refine Keep.foldl ?_ ?_
        · with_reducible assumption
        · intro _ _ _
          extract_lets +onlyGivenNames x0
          refine Keep.ite ?_ ?_
          · with_reducible apply keep_State_writeDev
            with_reducible assumption
          · with_reducible assumption

theorem keep_execCxlMemWrite (port : Fin 3) (addr : Word) (data : List Byte) (mask : BitVec 64) (poison : Bool) (env : MemEnv) (s : State) (kh : Keep kq ku s) : OKeep kq ku (execCxlMemWrite port addr data mask poison env s) := by
  unfold execCxlMemWrite
  refine OKeep.ite ?_ ?_
  · exact trivial
  · show Keep _ _ _
    extract_lets +onlyGivenNames x0
    extract_lets +onlyGivenNames x1
    refine Keep.ite ?_ ?_
    · with_reducible assumption
    · split
      · with_reducible assumption
      · with_reducible apply keep_State_emit
        with_reducible apply keep_State_perf
        refine keep_State_memTarget (by with_reducible assumption) ?_
        with_reducible assumption
      · extract_lets +onlyGivenNames x2
        refine Keep.cut (P := Keep kq ku x2) ?_ fun h3 => ?_
        · unfold x2
          with_reducible apply keep_State_charge
          with_reducible apply keep_State_perf
          with_reducible assumption
        extract_lets +onlyGivenNames x4
        extract_lets +onlyGivenNames x5
        refine Keep.cut (P := Keep kq ku x5) ?_ fun h6 => ?_
        · unfold x5
          refine Keep.ite ?_ ?_
          · with_reducible assumption
          · refine Keep.ite ?_ ?_
            · with_reducible apply keep_State_eccHbm
              with_reducible assumption
            · with_reducible apply keep_State_eccStore
              with_reducible assumption
        with_reducible apply keep_State_emit
        with_reducible apply keep_State_writeMasked
        with_reducible assumption

theorem keep_execMemInv (port : Fin 3) (addr : Word) (s : State) (kh : Keep kq ku s) : OKeep kq ku (execMemInv port addr s) := by
  unfold execMemInv
  show Keep _ _ _
  refine Keep.ite ?_ ?_
  · with_reducible apply keep_State_emit
    with_reducible apply keep_State_perf
    with_reducible assumption
  · with_reducible assumption

theorem keep_execMemSpecRd (_port : Fin 3) (_addr : Word) (s : State) (kh : Keep kq ku s) : OKeep kq ku (execMemSpecRd _port _addr s) := by
  unfold execMemSpecRd
  show Keep _ _ _
  with_reducible assumption

theorem keep_State_resolved (s : State) (port id : Nat) (write : Bool) (env : MemEnv) (kh : Keep kq ku s) : Keep kq ku (State.resolved s port id write env) := by
  unfold State.resolved
  split
  · extract_lets +onlyGivenNames x0
    extract_lets +onlyGivenNames x1
    refine Keep.cut (P := Keep kq ku x1) ?_ fun h2 => ?_
    · unfold x1
      with_reducible refine Keep.mk' ?_ rfl rfl rfl rfl (.inl rfl)
      with_reducible assumption
    extract_lets +onlyGivenNames x3
    refine Keep.cut (P := Keep kq ku x3) ?_ fun h4 => ?_
    · unfold x3
      with_reducible apply keep_State_perf
      with_reducible assumption
    split
    · with_reducible apply keep_State_endAcc
      with_reducible apply keep_State_refuseUnit
      with_reducible apply keep_State_hole
      with_reducible assumption
    · refine Keep.ite ?_ ?_
      · with_reducible apply keep_State_endAcc
        with_reducible apply keep_State_serveUnit
        with_reducible assumption
      · with_reducible refine Keep.mk' ?_ rfl rfl rfl rfl (.inl rfl)
        with_reducible assumption
  · with_reducible assumption

theorem keep_execMemRdFwd (port : Fin 3) (id : Nat) (env : MemEnv) (s : State) (kh : Keep kq ku s) : OKeep kq ku (execMemRdFwd port id env s) := by
  unfold execMemRdFwd
  show Keep _ _ _
  with_reducible apply keep_State_resolved
  with_reducible assumption

theorem keep_execMemWrFwd (port : Fin 3) (id : Nat) (env : MemEnv) (s : State) (kh : Keep kq ku s) : OKeep kq ku (execMemWrFwd port id env s) := by
  unfold execMemWrFwd
  show Keep _ _ _
  with_reducible apply keep_State_resolved
  with_reducible assumption

theorem keep_execBiasSet (ring : Fin 16) (s : State) (kh : Keep kq ku s) : OKeep kq ku (execBiasSet ring s) := by
  unfold execBiasSet
  show Keep _ _ _
  with_reducible apply keep_State_command
  · with_reducible assumption
  · intro _ _ _
    extract_lets +onlyGivenNames x0
    extract_lets +onlyGivenNames x1
    extract_lets +onlyGivenNames x2
    extract_lets +onlyGivenNames x3
    refine Keep.ite ?_ ?_
    · with_reducible apply keep_State_complete
      with_reducible assumption
    · extract_lets +onlyGivenNames x4
      extract_lets +onlyGivenNames x5
      extract_lets +onlyGivenNames x6
      extract_lets +onlyGivenNames x7
      refine Keep.cut (P := Keep kq ku x7) ?_ fun h8 => ?_
      · unfold x7
        with_reducible refine Keep.mk' ?_ rfl rfl rfl rfl (.inl rfl)
        with_reducible assumption
      extract_lets +onlyGivenNames x9
      refine Keep.ite ?_ ?_
      · with_reducible apply keep_State_complete
        with_reducible assumption
      · extract_lets +onlyGivenNames x10
        with_reducible apply keep_State_setBusy
        with_reducible refine Keep.mk' ?_ rfl rfl rfl rfl (.inl rfl)
        with_reducible assumption

theorem keep_State_snoop (s : State) (port addr : Nat) (gives : Bool) (kh : Keep kq ku s) : Keep kq ku (State.snoop s port addr gives) := by
  unfold State.snoop
  extract_lets +onlyGivenNames x0
  refine Keep.ite ?_ ?_
  · with_reducible assumption
  · split
    · with_reducible apply keep_State_emit
      with_reducible assumption
    · extract_lets +onlyGivenNames x1
      refine Keep.cut (P := Keep kq ku x1) ?_ fun h2 => ?_
      · unfold x1
        with_reducible apply keep_State_emit
        with_reducible assumption
      refine Keep.ite ?_ ?_
      · with_reducible refine Keep.mk' ?_ rfl rfl rfl rfl (.inl rfl)
        with_reducible assumption
      · with_reducible assumption

theorem keep_execSnpData (port : Fin 3) (addr : Word) (s : State) (kh : Keep kq ku s) : OKeep kq ku (execSnpData port addr s) := by
  unfold execSnpData
  show Keep _ _ _
  with_reducible apply keep_State_snoop
  with_reducible assumption

theorem keep_execSnpInv (port : Fin 3) (addr : Word) (s : State) (kh : Keep kq ku s) : OKeep kq ku (execSnpInv port addr s) := by
  unfold execSnpInv
  show Keep _ _ _
  with_reducible apply keep_State_snoop
  with_reducible assumption

theorem keep_execSnpCur (port : Fin 3) (addr : Word) (s : State) (kh : Keep kq ku s) : OKeep kq ku (execSnpCur port addr s) := by
  unfold execSnpCur
  show Keep _ _ _
  with_reducible apply keep_State_snoop
  with_reducible assumption

theorem keep_State_sendPending (s : State) (kh : Keep kq ku s) : Keep kq ku (State.sendPending s) := by
  unfold State.sendPending
  refine Keep.ite ?_ ?_
  · with_reducible assumption
  · extract_lets +onlyGivenNames x0
    extract_lets +onlyGivenNames x1
    extract_lets +onlyGivenNames x2
    refine Keep.cut (P := Keep kq ku x2) ?_ fun h3 => ?_
    · unfold x2
      with_reducible refine Keep.mk' ?_ rfl rfl rfl rfl (.inl rfl)
      with_reducible assumption
    refine Keep.foldl ?_ ?_
    · with_reducible assumption
    · intro _ _ _
      with_reducible apply keep_State_emit
      with_reducible assumption

theorem keep_execConfigRequest (port : Fin 3) (req : CfgReq) (s : State) (kh : Keep kq ku s) : OKeep kq ku (execConfigRequest port req s) := by
  unfold execConfigRequest
  show Keep _ _ _
  extract_lets +onlyGivenNames x0
  refine Keep.ite ?_ ?_
  · with_reducible assumption
  · split
    · with_reducible apply keep_State_setFld
      with_reducible apply keep_State_setFld
      with_reducible assumption
    · with_reducible apply keep_State_releaseHeld
      with_reducible apply keep_State_setBit
      with_reducible assumption
    · with_reducible apply keep_State_setBit
      with_reducible assumption
    · with_reducible refine Keep.mk' ?_ rfl rfl rfl rfl (.inl rfl)
      with_reducible assumption
    · with_reducible refine Keep.mk' ?_ rfl rfl rfl rfl (.inl rfl)
      with_reducible assumption
    · extract_lets +onlyGivenNames x1
      refine Keep.cut (P := Keep kq ku x1) ?_ fun h2 => ?_
      · unfold x1
        with_reducible apply keep_State_setBit
        with_reducible assumption
      refine Keep.ite ?_ ?_
      · with_reducible apply keep_State_sendPageReqs
        with_reducible assumption
      · with_reducible apply keep_State_setBit
        with_reducible assumption
    · with_reducible apply keep_State_sendPageReqs
      with_reducible apply keep_State_setFld
      with_reducible assumption
    · refine Keep.ite ?_ ?_
      · with_reducible apply keep_State_sendPending
        with_reducible refine Keep.mk' ?_ rfl rfl rfl rfl (.inl rfl)
        with_reducible assumption
      · with_reducible assumption
    · with_reducible apply keep_State_emit
      with_reducible assumption

theorem keep_execMsixUnmask (vec : Fin 2048) (s : State) (kh : Keep kq ku s) : OKeep kq ku (execMsixUnmask vec s) := by
  unfold execMsixUnmask
  show Keep _ _ _
  with_reducible apply keep_State_sendPending
  with_reducible refine Keep.mk' ?_ rfl rfl rfl rfl (.inl rfl)
  with_reducible assumption

theorem keep_execAtsInvalidate (port : Fin 3) (s : State) (kh : Keep kq ku s) : OKeep kq ku (execAtsInvalidate port s) := by
  unfold execAtsInvalidate
  show Keep _ _ _
  refine Keep.ite ?_ ?_
  · with_reducible assumption
  · extract_lets +onlyGivenNames x0
    refine Keep.cut (P := Keep kq ku x0) ?_ fun h1 => ?_
    · unfold x0
      with_reducible apply keep_State_setAtc
      with_reducible assumption
    extract_lets +onlyGivenNames x2
    refine Keep.cut (P := Keep kq ku x2) ?_ fun h3 => ?_
    · unfold x2
      split
      · with_reducible apply keep_State_addWrap
        with_reducible assumption
      · with_reducible assumption
    with_reducible apply keep_State_emit
    with_reducible assumption

theorem keep_State_burnBit (s : State) (i : Nat) (lo hi : Bool) (kh : Keep kq ku s) : Keep kq ku (State.burnBit s i lo hi) := by
  unfold State.burnBit
  with_reducible refine Keep.mk' ?_ rfl rfl rfl rfl (.inl rfl)
  with_reducible assumption

theorem keep_State_loadFuses (s : State) (kh : Keep kq ku s) : Keep kq ku (State.loadFuses s) := by
  unfold State.loadFuses
  extract_lets +onlyGivenNames x0
  refine Keep.cut (P := Keep kq ku x0) ?_ fun h1 => ?_
  · unfold x0
    with_reducible apply keep_State_setFld
    with_reducible apply keep_State_setBit
    with_reducible assumption
  with_reducible apply keep_State_setFld
  with_reducible apply keep_State_setFld
  with_reducible assumption

theorem keep_execFuseProgGo (bit : BitVec 16) (s : State) (kh : Keep kq ku s) : OKeep kq ku (execFuseProgGo bit s) := by
  unfold execFuseProgGo
  show Keep _ _ _
  extract_lets +onlyGivenNames x0
  subst x0
  refine Keep.ite ?_ ?_
  · beta_reduce
    with_reducible apply keep_State_error
    with_reducible apply keep_State_setFld
    with_reducible apply keep_State_reject
    with_reducible assumption
  · extract_lets +onlyGivenNames x1
    refine Keep.cut (P := Keep kq ku x1) ?_ fun h2 => ?_
    · unfold x1
      with_reducible apply keep_State_setFld
      with_reducible assumption
    refine Keep.ite ?_ ?_
    · beta_reduce
      with_reducible apply keep_State_error
      with_reducible apply keep_State_setFld
      with_reducible assumption
    · refine Keep.ite ?_ ?_
      · with_reducible apply keep_State_setFld
        with_reducible apply keep_State_fresh
        with_reducible assumption
      · with_reducible apply keep_State_setBit
        with_reducible refine Keep.mk' ?_ rfl rfl rfl rfl (.inl rfl)
        with_reducible assumption

theorem keep_execSecExtendGo (s : State) (kh : Keep kq ku s) : OKeep kq ku (execSecExtendGo s) := by
  unfold execSecExtendGo
  show Keep _ _ _
  with_reducible apply keep_State_measure
  with_reducible assumption

theorem keep_State_sendQuote (s : State) (kh : Keep kq ku s) : Keep kq ku (State.sendQuote s) := by
  unfold State.sendQuote
  split
  · with_reducible assumption
  · refine Keep.ite ?_ ?_
    · with_reducible assumption
    · extract_lets +onlyGivenNames x0
      extract_lets +onlyGivenNames x1
      extract_lets +onlyGivenNames x2
      extract_lets +onlyGivenNames x3
      refine Keep.cut (P := Keep kq ku x3) ?_ fun h4 => ?_
      · unfold x3
        with_reducible refine Keep.mk' ?_ rfl rfl rfl rfl (.inl rfl)
        with_reducible assumption
      refine Keep.foldl ?_ ?_
      · with_reducible assumption
      · intro _ _ _
        with_reducible apply keep_State_issueHost
        with_reducible assumption

theorem keep_State_endQuote (s : State) (status : Nat) (kh : Keep kq ku s) : Keep kq ku (State.endQuote s status) := by
  unfold State.endQuote
  extract_lets +onlyGivenNames x0
  extract_lets +onlyGivenNames x1
  refine Keep.cut (P := Keep kq ku x1) ?_ fun h2 => ?_
  · unfold x1
    with_reducible refine Keep.mk' ?_ rfl rfl rfl rfl (.inl rfl)
    with_reducible assumption
  extract_lets +onlyGivenNames x3
  refine Keep.cut (P := Keep kq ku x3) ?_ fun h4 => ?_
  · unfold x3
    with_reducible apply keep_State_setBit
    with_reducible apply keep_State_setFld
    with_reducible assumption
  with_reducible apply keep_State_raise
  with_reducible apply keep_State_setBit
  with_reducible assumption

theorem keep_execSecQuoteGo (s : State) (kh : Keep kq ku s) : OKeep kq ku (execSecQuoteGo s) := by
  unfold execSecQuoteGo
  show Keep _ _ _
  extract_lets +onlyGivenNames x0
  refine Keep.ite ?_ ?_
  · with_reducible apply keep_State_reject
    with_reducible assumption
  · refine Keep.ite ?_ ?_
    · with_reducible apply keep_State_error
      with_reducible apply keep_State_endQuote
      with_reducible assumption
    · extract_lets +onlyGivenNames x1
      extract_lets +onlyGivenNames x2
      refine Keep.cut (P := Keep kq ku x2) ?_ fun h3 => ?_
      · unfold x2
        refine Keep.ite ?_ ?_
        · with_reducible assumption
        · with_reducible apply keep_State_setFld
          with_reducible assumption
      extract_lets +onlyGivenNames x4
      extract_lets +onlyGivenNames x5
      refine Keep.cut (P := Keep kq ku x5) ?_ fun h6 => ?_
      · unfold x5
        with_reducible refine Keep.mk' ?_ rfl rfl rfl rfl (.inl rfl)
        with_reducible assumption
      with_reducible apply keep_State_sendQuote
      with_reducible apply keep_State_setBit
      with_reducible apply keep_State_setBit
      with_reducible assumption

theorem keep_State_quoteAnswer (s : State) (ok : Bool) (kh : Keep kq ku s) : Keep kq ku (State.quoteAnswer s ok) := by
  unfold State.quoteAnswer
  split
  · with_reducible assumption
  · refine Keep.ite ?_ ?_
    · with_reducible refine Keep.mk' ?_ rfl rfl rfl rfl (.inl rfl)
      with_reducible assumption
    · with_reducible apply keep_State_endQuote
      with_reducible assumption

theorem keep_execQuoteDone (ok : Bool) (s : State) (kh : Keep kq ku s) : OKeep kq ku (execQuoteDone ok s) := by
  unfold execQuoteDone
  show Keep _ _ _
  split
  · with_reducible assumption
  · refine Keep.ite ?_ ?_
    · with_reducible assumption
    · refine Keep.ite ?_ ?_
      · with_reducible apply keep_State_endQuote
        with_reducible assumption
      · refine Keep.ite ?_ ?_
        · with_reducible apply keep_State_endQuote
          with_reducible assumption
        · with_reducible assumption

theorem keep_execTrngHealthFail (s : State) (kh : Keep kq ku s) : OKeep kq ku (execTrngHealthFail s) := by
  unfold execTrngHealthFail
  show Keep _ _ _
  extract_lets +onlyGivenNames x0
  extract_lets +onlyGivenNames x1
  refine Keep.cut (P := Keep kq ku x1) ?_ fun h2 => ?_
  · unfold x1
    with_reducible refine Keep.mk' ?_ rfl rfl rfl rfl (.inl rfl)
    with_reducible assumption
  refine Keep.ite ?_ ?_
  · with_reducible apply keep_State_error
    with_reducible assumption
  · with_reducible assumption

theorem keep_execXspiCmdGo (v : Word) (s : State) (kh : Keep kq ku s) : OKeep kq ku (execXspiCmdGo v s) := by
  unfold execXspiCmdGo
  show Keep _ _ _
  extract_lets +onlyGivenNames x0
  refine Keep.ite ?_ ?_
  · with_reducible apply keep_State_reject
    with_reducible assumption
  · extract_lets +onlyGivenNames x1
    refine Keep.cut (P := Keep kq ku x1) ?_ fun h2 => ?_
    · unfold x1
      with_reducible apply keep_State_setFld
      with_reducible assumption
    refine Keep.ite ?_ ?_
    · with_reducible apply keep_State_disabledReq
      with_reducible assumption
    · refine Keep.ite ?_ ?_
      · with_reducible apply keep_State_setFld
        with_reducible assumption
      · extract_lets +onlyGivenNames x3
        extract_lets +onlyGivenNames x4
        extract_lets +onlyGivenNames x5
        refine Keep.cut (P := Keep kq ku x5) ?_ fun h6 => ?_
        · unfold x5
          with_reducible apply keep_State_setBit
          with_reducible refine Keep.mk' ?_ rfl rfl rfl rfl (.inl rfl)
          with_reducible assumption
        with_reducible apply keep_State_emit
        with_reducible assumption

theorem keep_State_endFlash (s : State) (result : Nat) (kh : Keep kq ku s) : Keep kq ku (State.endFlash s result) := by
  unfold State.endFlash
  with_reducible apply keep_State_setFld
  with_reducible apply keep_State_setBit
  with_reducible assumption

theorem keep_execXspiCmdDone (data : List Byte) (s : State) (kh : Keep kq ku s) : OKeep kq ku (execXspiCmdDone data s) := by
  unfold execXspiCmdDone
  show Keep _ _ _
  refine Keep.ite ?_ ?_
  · with_reducible assumption
  · extract_lets +onlyGivenNames x0
    extract_lets +onlyGivenNames x1
    extract_lets +onlyGivenNames x2
    refine Keep.cut (P := Keep kq ku x2) ?_ fun h3 => ?_
    · unfold x2
      refine Keep.ite ?_ ?_
      · with_reducible assumption
      · refine Keep.foldl ?_ ?_
        · with_reducible assumption
        · intro _ _ _
          with_reducible apply keep_State_setFld
          with_reducible assumption
    with_reducible apply keep_State_endFlash
    with_reducible assumption

theorem keep_execXspiTimeout (s : State) (kh : Keep kq ku s) : OKeep kq ku (execXspiTimeout s) := by
  unfold execXspiTimeout
  show Keep _ _ _
  refine Keep.ite ?_ ?_
  · with_reducible apply keep_State_error
    with_reducible apply keep_State_endFlash
    with_reducible assumption
  · with_reducible assumption

theorem keep_State_fastRespond (s : State) (k : Nat) (tag result data status beat fcycles : Nat) (kh : Keep kq ku s) : Keep kq ku (State.fastRespond s k tag result data status beat fcycles) := by
  unfold State.fastRespond
  extract_lets +onlyGivenNames x0
  extract_lets +onlyGivenNames x1
  extract_lets +onlyGivenNames x2
  refine Keep.cut (P := Keep kq ku x2) ?_ fun h3 => ?_
  · unfold x2
    with_reducible refine Keep.mk' ?_ rfl rfl rfl rfl (.inl rfl)
    with_reducible assumption
  extract_lets +onlyGivenNames x4
  refine Keep.cut (P := Keep kq ku x4) ?_ fun h5 => ?_
  · unfold x4
    with_reducible apply keep_State_addWrap
    with_reducible assumption
  extract_lets +onlyGivenNames x6
  extract_lets +onlyGivenNames x7
  refine Keep.cut (P := Keep kq ku x7) ?_ fun h8 => ?_
  · unfold x7
    with_reducible apply keep_State_setFld
    with_reducible assumption
  extract_lets +onlyGivenNames x9
  refine Keep.cut (P := Keep kq ku x9) ?_ fun h10 => ?_
  · unfold x9
    with_reducible apply keep_State_setFld
    with_reducible assumption
  extract_lets +onlyGivenNames x11
  refine Keep.cut (P := Keep kq ku x11) ?_ fun h12 => ?_
  · unfold x11
    with_reducible apply keep_State_setFld
    with_reducible assumption
  extract_lets +onlyGivenNames x13
  with_reducible apply keep_State_issueHost
  with_reducible assumption

theorem keep_execFastLookup (k : Fin 64) (off : Fin 4096) (data : List Byte) (parityBad : Bool) (fcycles : Nat) (s : State) (kh : Keep kq ku s) : OKeep kq ku (execFastLookup k off data parityBad fcycles s) := by
  unfold execFastLookup
  show Keep _ _ _
  extract_lets +onlyGivenNames x0
  subst x0
  extract_lets +onlyGivenNames x1
  refine Keep.ite ?_ ?_
  · with_reducible apply keep_State_error
    with_reducible assumption
  · refine Keep.ite ?_ ?_
    · beta_reduce
      with_reducible apply keep_State_addSat
      with_reducible apply keep_State_disabledReq
      with_reducible assumption
    · refine Keep.ite ?_ ?_
      · beta_reduce
        with_reducible apply keep_State_addSat
        with_reducible assumption
      · refine Keep.ite ?_ ?_
        · beta_reduce
          with_reducible apply keep_State_addSat
          with_reducible apply keep_State_error
          with_reducible assumption
        · extract_lets +onlyGivenNames x2
          extract_lets +onlyGivenNames x3
          extract_lets +onlyGivenNames x4
          split
          · refine Keep.ite ?_ ?_
            · extract_lets +onlyGivenNames x5
              extract_lets +onlyGivenNames x6
              refine Keep.cut (P := Keep kq ku x6.1) ?_ fun h7 => ?_
              · unfold x6
                clear_value x2
                clear_value x5
                with_reducible apply keep_State_search
                with_reducible apply keep_State_perf
                with_reducible assumption
              with_reducible apply keep_State_fastRespond
              with_reducible assumption
            · with_reducible apply keep_State_fastRespond
              with_reducible apply keep_State_fresh
              with_reducible assumption
          · with_reducible apply keep_State_fastRespond
            with_reducible apply keep_State_fresh
            with_reducible assumption

theorem keep_execFastLatClear (s : State) (kh : Keep kq ku s) : OKeep kq ku (execFastLatClear s) := by
  unfold execFastLatClear
  show Keep _ _ _
  with_reducible apply keep_State_setFld
  with_reducible apply keep_State_setFld
  with_reducible assumption

theorem keep_State_batchAcked (s : State) (n seq : Nat) (kh : Keep kq ku s) : Keep kq ku (State.batchAcked s n seq) := by
  unfold State.batchAcked
  split
  · with_reducible assumption
  · split
    · with_reducible assumption
    · refine Keep.ite ?_ ?_
      · with_reducible assumption
      · extract_lets +onlyGivenNames x0
        with_reducible apply keep_State_setQueue
        with_reducible assumption

theorem keep_State_batchRefused (s : State) (n : Nat) (commit : Bool) (kh : Keep kq ku s) : Keep kq ku (State.batchRefused s n commit) := by
  unfold State.batchRefused
  split
  · with_reducible assumption
  · extract_lets +onlyGivenNames x0
    refine Keep.cut (P := Keep kq ku x0) ?_ fun h1 => ?_
    · unfold x0
      with_reducible apply keep_State_error
      with_reducible assumption
    extract_lets +onlyGivenNames x2
    refine Keep.cut (P := Keep kq ku x2) ?_ fun h3 => ?_
    · unfold x2
      split
      · with_reducible apply keep_State_setFld
        with_reducible apply keep_State_setQueue
        with_reducible assumption
      · with_reducible assumption
    with_reducible apply keep_State_regenerate
    with_reducible assumption

theorem keep_State_commitAcked (s : State) (n : Nat) (kh : Keep kq ku s) : Keep kq ku (State.commitAcked s n) := by
  unfold State.commitAcked
  split
  · with_reducible assumption
  · with_reducible apply keep_State_dropChunks
    with_reducible apply keep_State_setQueue
    with_reducible assumption

theorem keep_State_cacheFill (s : State) (l : Nat) (bs : List Byte) (kh : Keep kq ku s) : Keep kq ku (State.cacheFill s l bs) := by
  unfold State.cacheFill
  extract_lets +onlyGivenNames x0
  extract_lets +onlyGivenNames x1
  refine Keep.cut (P := Keep kq ku x1) ?_ fun h2 => ?_
  · unfold x1
    split
    · refine Keep.ite ?_ ?_
      · with_reducible apply keep_State_issueHost
        with_reducible refine Keep.mk' ?_ rfl rfl rfl rfl (.inl rfl)
        with_reducible assumption
      · with_reducible assumption
    · with_reducible assumption
  with_reducible refine Keep.mk' ?_ rfl rfl rfl rfl (.inl rfl)
  with_reducible assumption

theorem keep_State_combineRefused (s : State) (tile slot : Nat) (kh : Keep kq ku s) : Keep kq ku (State.combineRefused s tile slot) := by
  unfold State.combineRefused
  split
  · with_reducible assumption
  · with_reducible apply keep_State_strmSettle
    with_reducible apply keep_State_error
    with_reducible apply keep_State_endStrm
    with_reducible assumption

theorem keep_execCxlCacheResponse (id : Nat) (resp : HostResp) (s : State) (kh : Keep kq ku s) : OKeep kq ku (execCxlCacheResponse id resp s) := by
  unfold execCxlCacheResponse
  show Keep _ _ _
  split
  · with_reducible assumption
  · extract_lets +onlyGivenNames x0
    extract_lets +onlyGivenNames x1
    extract_lets +onlyGivenNames x2
    refine Keep.cut (P := Keep kq ku x2) ?_ fun h3 => ?_
    · unfold x2
      with_reducible refine Keep.mk' ?_ rfl rfl rfl rfl (.inl rfl)
      with_reducible assumption
    split
    · refine Keep.ite ?_ ?_
      · with_reducible apply keep_State_cplAcked
        with_reducible assumption
      · with_reducible apply keep_State_cplFailed
        with_reducible assumption
    · refine Keep.ite ?_ ?_
      · with_reducible assumption
      · with_reducible apply keep_State_error
        with_reducible apply keep_State_setBit
        with_reducible assumption
    · refine Keep.ite ?_ ?_
      · with_reducible apply keep_State_batchAcked
        with_reducible assumption
      · with_reducible apply keep_State_batchRefused
        with_reducible assumption
    · refine Keep.ite ?_ ?_
      · with_reducible apply keep_State_commitAcked
        with_reducible assumption
      · with_reducible apply keep_State_batchRefused
        with_reducible assumption
    · refine Keep.ite ?_ ?_
      · with_reducible assumption
      · with_reducible apply keep_State_error
        with_reducible assumption
    · with_reducible apply keep_State_quoteAnswer
      with_reducible assumption
    · split
      · refine Keep.ite ?_ ?_
        · with_reducible apply keep_State_cacheFill
          with_reducible assumption
        · with_reducible apply keep_State_combineRefused
          with_reducible assumption
      · with_reducible apply keep_State_combineRefused
        with_reducible assumption
    · with_reducible assumption
    · with_reducible assumption

theorem keep_State_loseDelay (s : State) (p seq : Nat) (kh : Keep kq ku s) : Keep kq ku (State.loseDelay s p seq) := by
  unfold State.loseDelay
  split
  · with_reducible assumption
  · extract_lets +onlyGivenNames x0
    extract_lets +onlyGivenNames x1
    refine Keep.cut (P := Keep kq ku x1) ?_ fun h2 => ?_
    · unfold x1
      with_reducible refine Keep.mk' ?_ rfl rfl rfl rfl (.inl rfl)
      with_reducible assumption
    extract_lets +onlyGivenNames x3
    refine Keep.cut (P := Keep kq ku x3) ?_ fun h4 => ?_
    · unfold x3
      with_reducible apply keep_State_setFld
      with_reducible assumption
    with_reducible apply keep_State_addSat
    with_reducible apply keep_State_setFld
    with_reducible assumption

theorem keep_State_noteEcc (s : State) (page : Nat) (cnt addr last : Fld) (arg : Nat) (unc : Bool) (kh : Keep kq ku s) : Keep kq ku (State.noteEcc s page cnt addr last arg unc) := by
  unfold State.noteEcc
  extract_lets +onlyGivenNames x0
  refine Keep.cut (P := Keep kq ku x0) ?_ fun h1 => ?_
  · unfold x0
    refine Keep.ite ?_ ?_
    · with_reducible assumption
    · with_reducible apply keep_State_addSat
      with_reducible assumption
  with_reducible apply keep_State_setBit
  with_reducible apply keep_State_setFld
  with_reducible assumption

theorem keep_State_spoilRecord (s : State) (k : Nat) (kh : Keep kq ku s) : Keep kq ku (State.spoilRecord s k) := by
  unfold State.spoilRecord
  extract_lets +onlyGivenNames x0
  extract_lets +onlyGivenNames x1
  extract_lets +onlyGivenNames x2
  refine Keep.cut (P := Keep kq ku x2) ?_ fun h3 => ?_
  · unfold x2
    with_reducible apply keep_State_fresh
    with_reducible assumption
  with_reducible refine Keep.mk' ?_ rfl rfl rfl rfl (.inl rfl)
  with_reducible assumption

theorem keep_State_dropTree (s : State) (kh : Keep kq ku s) : Keep kq ku (State.dropTree s) := by
  unfold State.dropTree
  with_reducible apply keep_State_setBit
  with_reducible apply keep_State_setBit
  with_reducible assumption

theorem keep_State_detectEffect (s : State) (page src arg : Nat) (kh : Keep kq ku s) : Keep kq ku (State.detectEffect s page src arg) := by
  unfold State.detectEffect
  split
  · refine Keep.ite ?_ ?_
    · with_reducible apply keep_State_noteEcc
      with_reducible assumption
    · refine Keep.ite ?_ ?_
      · with_reducible apply keep_State_endStrm
        with_reducible assumption
      · with_reducible assumption
  · refine Keep.ite ?_ ?_
    · with_reducible apply keep_State_noteEcc
      with_reducible assumption
    · with_reducible assumption
  · refine Keep.ite ?_ ?_
    · with_reducible apply keep_State_addSat
      with_reducible assumption
    · with_reducible assumption
  · refine Keep.ite ?_ ?_
    · with_reducible apply keep_State_addSat
      with_reducible assumption
    · refine Keep.ite ?_ ?_
      · with_reducible apply keep_State_addSat
        with_reducible assumption
      · with_reducible assumption
  · refine Keep.ite ?_ ?_
    · extract_lets +onlyGivenNames x0
      extract_lets +onlyGivenNames x1
      with_reducible apply keep_State_setFld
      with_reducible assumption
    · with_reducible assumption
  · refine Keep.ite ?_ ?_
    · refine Keep.ite ?_ ?_
      · with_reducible apply keep_State_loseEvent
        with_reducible assumption
      · with_reducible apply keep_State_loseDelay
        with_reducible assumption
    · with_reducible assumption
  · refine Keep.ite ?_ ?_
    · with_reducible refine Keep.mk' ?_ rfl rfl rfl rfl (.inl rfl)
      with_reducible assumption
    · refine Keep.ite ?_ ?_
      · with_reducible apply keep_State_setAtc
        with_reducible assumption
      · refine Keep.ite ?_ ?_
        · extract_lets +onlyGivenNames x2
          extract_lets +onlyGivenNames x3
          refine Keep.cut (P := Keep kq ku x3) ?_ fun h4 => ?_
          · unfold x3
            with_reducible refine Keep.mk' ?_ rfl rfl rfl rfl (.inl rfl)
            with_reducible assumption
          with_reducible apply keep_State_combineRefused
          with_reducible assumption
        · with_reducible assumption
  · refine Keep.ite ?_ ?_
    · refine Keep.ite ?_ ?_
      · with_reducible apply keep_State_spoilRecord
        with_reducible assumption
      · with_reducible apply keep_State_dropTree
        with_reducible assumption
    · with_reducible assumption
  · refine Keep.ite ?_ ?_
    · extract_lets +onlyGivenNames x5
      with_reducible apply keep_State_setFld
      with_reducible assumption
    · with_reducible assumption
  · refine Keep.ite ?_ ?_
    · with_reducible apply keep_State_failPlan
      with_reducible assumption
    · with_reducible assumption
  · with_reducible assumption

theorem keep_State_rebuildTables (s : State) (p : Nat) (lost : JTab → Bool) (kh : Keep kq ku s) : Keep kq ku (State.rebuildTables s p lost) := by
  unfold State.rebuildTables
  refine Keep.foldl ?_ ?_
  · with_reducible assumption
  · intro _ _ _
    split
    · refine Keep.ite ?_ ?_
      · with_reducible apply keep_State_rebuildStage
        with_reducible assumption
      · with_reducible assumption
    · with_reducible assumption

theorem keep_State_regenerateIf (s : State) (which : State → Nat → Bool) (h : Keep kq ku s) : Keep kq ku (s.regenerateIf which) := by
  unfold State.regenerateIf
  refine Keep.foldl ?_ ?_
  · with_reducible assumption
  · intro _ _ _
    refine Keep.ite ?_ ?_
    · with_reducible apply keep_State_regenerate
      with_reducible assumption
    · with_reducible assumption

theorem keep_State_react (s : State) (page src sev arg : Nat) (kh : Keep kq ku s) : Keep kq ku (State.react s page src sev arg) := by
  unfold State.react
  extract_lets +onlyGivenNames x0
  split
  · refine Keep.ite ?_ ?_
    · with_reducible refine Keep.mk' ?_ rfl rfl rfl rfl (.inl rfl)
      with_reducible assumption
    · with_reducible assumption
  · refine Keep.ite ?_ ?_
    · with_reducible refine Keep.mk' ?_ rfl rfl rfl rfl (.inl rfl)
      with_reducible assumption
    · with_reducible assumption
  · refine Keep.ite ?_ ?_
    · split
      · with_reducible apply keep_State_rebuildTables
        with_reducible apply keep_State_regenerate
        with_reducible assumption
      · with_reducible assumption
    · with_reducible assumption
  · refine Keep.ite ?_ ?_
    · with_reducible apply keep_State_regenerateIf
      with_reducible assumption
    · with_reducible assumption
  · refine Keep.ite ?_ ?_
    · with_reducible apply keep_State_regenerateIf
      with_reducible assumption
    · with_reducible assumption
  · refine Keep.ite ?_ ?_
    · split
      · with_reducible apply keep_State_regenerate
        with_reducible assumption
      · with_reducible assumption
    · with_reducible assumption
  · with_reducible assumption

theorem keep_State_detect (s : State) (page src : Nat) (forced : Bool) (arg : Nat) (kh : Keep kq ku s) : Keep kq ku (State.detect s page src forced arg) := by
  unfold State.detect
  extract_lets +onlyGivenNames x0
  extract_lets +onlyGivenNames x1
  refine Keep.cut (P := Keep kq ku x1) ?_ fun h2 => ?_
  · unfold x1
    refine Keep.ite ?_ ?_
    · with_reducible assumption
    · with_reducible apply keep_State_detectEffect
      with_reducible assumption
  with_reducible apply keep_State_react
  with_reducible apply keep_State_recordError
  with_reducible assumption

theorem keep_State_forcedArg (s : State) (page src : Nat) (kh : Keep kq ku s) : Keep kq ku (State.forcedArg s page src).2 := by
  unfold State.forcedArg
  split
  · with_reducible assumption
  · with_reducible assumption
  · split
    · with_reducible assumption
    · with_reducible apply keep_State_fresh
      with_reducible assumption
  · split
    · with_reducible assumption
    · dsimp -zeta only
      with_reducible apply keep_State_fresh
      with_reducible assumption
  · dsimp -zeta only
    with_reducible apply keep_State_fresh
    with_reducible assumption
  · dsimp -zeta only
    with_reducible apply keep_State_fresh
    with_reducible assumption
  · with_reducible apply keep_State_fresh
    with_reducible assumption
  · with_reducible assumption

theorem keep_execErrorDetected (page : Fin 512) (src : Fin 32) (arg : Nat) (s : State) (kh : Keep kq ku s) : OKeep kq ku (execErrorDetected page src arg s) := by
  unfold execErrorDetected
  refine OKeep.ite ?_ ?_
  · exact trivial
  · refine OKeep.ite ?_ ?_
    · show Keep _ _ _
      with_reducible assumption
    · show Keep _ _ _
      with_reducible apply keep_State_detect
      with_reducible assumption

theorem keep_State_completeSafe (s : State) (kh : Keep kq ku s) : Keep kq ku (State.completeSafe s) := by
  unfold State.completeSafe
  refine Keep.ite ?_ ?_
  · with_reducible assumption
  · extract_lets +onlyGivenNames x0
    extract_lets +onlyGivenNames x1
    refine Keep.cut (P := Keep kq ku x1) ?_ fun h2 => ?_
    · unfold x1
      with_reducible refine Keep.mk' ?_ rfl rfl rfl rfl (.inl rfl)
      with_reducible assumption
    extract_lets +onlyGivenNames x3
    refine Keep.cut (P := Keep kq ku x3) ?_ fun h4 => ?_
    · unfold x3
      refine Keep.foldl ?_ ?_
      · with_reducible assumption
      · intro _ _ _
        extract_lets +onlyGivenNames x5
        refine Keep.ite ?_ ?_
        · with_reducible apply keep_State_setSlotState
          with_reducible refine Keep.mk' ?_ rfl rfl rfl rfl (.inl rfl)
          with_reducible assumption
        · with_reducible assumption
    with_reducible apply keep_State_raise
    with_reducible assumption

theorem keep_execSafeStateComplete (s : State) (kh : Keep kq ku s) : OKeep kq ku (execSafeStateComplete s) := by
  unfold execSafeStateComplete
  show Keep _ _ _
  with_reducible apply keep_State_completeSafe
  with_reducible assumption

theorem keep_State_setDomState (s : State) (d st : Nat) (kh : Keep kq ku s) : Keep kq ku (State.setDomState s d st) := by
  unfold State.setDomState
  with_reducible apply keep_State_wr
  with_reducible assumption

theorem keep_State_clearTile (s : State) (t : Nat) (h : Keep kq ku s) : Keep kq ku (s.clearTile t) := by
  unfold State.clearTile
  exact keep_State_setTile _ _ _ ⟨h.1, h.2, h.3, kwf_filter _ h.4, h.5⟩

theorem keep_State_clearHalf (s : State) (t : Nat) (h : Keep kq ku s) : Keep kq ku (s.clearHalf t) :=
  ⟨h.1, h.2, kwf_filter _ h.3, h.4, h.5⟩

theorem keep_State_domainLoss (s : State) (d : Nat) (kh : Keep kq ku s) : Keep kq ku (State.domainLoss s d) := by
  unfold State.domainLoss
  refine Keep.ite ?_ ?_
  · refine Keep.foldl ?_ ?_
    · with_reducible assumption
    · intro _ _ _
      with_reducible apply keep_State_clearTile
      with_reducible assumption
  · refine Keep.ite ?_ ?_
    · with_reducible refine Keep.mk' ?_ rfl rfl rfl rfl (.inl rfl)
      with_reducible assumption
    · refine Keep.ite ?_ ?_
      · with_reducible apply keep_State_clearHalf
        with_reducible assumption
      · with_reducible assumption

theorem keep_State_domainOff (s : State) (d : Nat) (kh : Keep kq ku s) : Keep kq ku (State.domainOff s d) := by
  unfold State.domainOff
  extract_lets +onlyGivenNames x0
  refine Keep.cut (P := Keep kq ku x0) ?_ fun h1 => ?_
  · unfold x0
    with_reducible apply keep_State_domainLoss
    with_reducible apply keep_State_setDomState
    with_reducible assumption
  refine Keep.foldl ?_ ?_
  · with_reducible assumption
  · intro _ _ _
    with_reducible apply keep_State_setBit
    with_reducible assumption

theorem keep_State_resetPage (s : State) (page : Nat) (h : Keep kq ku s) : Keep kq ku (s.resetPage page) := by
  unfold State.resetPage
  exact keep_State_setBit _ _ _ _ (keep_State_setFld _ _ _ _ ⟨h.1, kwf_filter _ h.2, h.3, h.4, h.5⟩)

theorem keep_State_domainOn (s : State) (d : Nat) (kh : Keep kq ku s) : Keep kq ku (State.domainOn s d) := by
  unfold State.domainOn
  extract_lets +onlyGivenNames x0
  refine Keep.cut (P := Keep kq ku x0) ?_ fun h1 => ?_
  · unfold x0
    with_reducible apply keep_State_setDomState
    with_reducible assumption
  extract_lets +onlyGivenNames x2
  refine Keep.cut (P := Keep kq ku x2) ?_ fun h3 => ?_
  · unfold x2
    refine Keep.foldl ?_ ?_
    · with_reducible assumption
    · intro _ _ _
      with_reducible apply keep_State_setBit
      with_reducible apply keep_State_resetPage
      with_reducible assumption
  refine Keep.ite ?_ ?_
  · with_reducible apply keep_State_setFld
    with_reducible assumption
  · with_reducible assumption

theorem keep_State_zeroDev (s : State) (a n : Nat) (h : Keep kq ku s) : Keep kq ku (s.zeroDev a n) := by
  unfold State.zeroDev
  apply Keep.foldl h
  intro t i h
  dsimp only
  split
  · exact h
  · exact ⟨h.1, h.2, kwf_filter _ h.3, h.4, h.5⟩

theorem keep_State_showFence (s : State) (us : List FUnit) (kh : Keep kq ku s) : Keep kq ku (State.showFence s us) := by
  unfold State.showFence
  extract_lets +onlyGivenNames x0
  refine Keep.foldl ?_ ?_
  · with_reducible assumption
  · intro _ _ _
    with_reducible apply keep_State_wr
    with_reducible assumption

theorem keep_State_runTests (s : State) (cs : List Cand) (env : RecovEnv) (kh : Keep kq ku s) : Keep kq ku (State.runTests s cs env).1 := by
  unfold State.runTests
  extract_lets +onlyGivenNames x0
  extract_lets +onlyGivenNames x1
  extract_lets +onlyGivenNames x2
  refine Keep.cut (P := Keep kq ku x2) ?_ fun h3 => ?_
  · unfold x2
    refine Keep.foldl ?_ ?_
    · with_reducible assumption
    · intro _ _ _
      with_reducible apply keep_State_error
      with_reducible assumption
  extract_lets +onlyGivenNames x4
  extract_lets +onlyGivenNames x5
  refine Keep.cut (P := Keep kq ku x5) ?_ fun h6 => ?_
  · unfold x5
    refine Keep.ite ?_ ?_
    · with_reducible refine Keep.mk' ?_ rfl rfl rfl rfl (.inl rfl)
      with_reducible assumption
    · with_reducible assumption
  extract_lets +onlyGivenNames x7
  refine Keep.cut (P := Keep kq ku x7) ?_ fun h8 => ?_
  · unfold x7
    refine Keep.ite ?_ ?_
    · with_reducible apply keep_State_goDown
      with_reducible apply keep_State_setFld
      with_reducible assumption
    · with_reducible assumption
  with_reducible assumption

theorem keep_State_losePool (s : State) (kh : Keep kq ku s) : Keep kq ku (State.losePool s) := by
  unfold State.losePool
  refine Keep.foldl ?_ ?_
  · with_reducible assumption
  · intro _ _ _
    with_reducible apply keep_State_error
    with_reducible apply keep_State_loseEvent
    with_reducible assumption

theorem keep_State_fenceUnit (s : State) (u : FUnit) (kh : Keep kq ku s) : Keep kq ku (State.fenceUnit s u) := by
  unfold State.fenceUnit
  refine Keep.ite ?_ ?_
  · with_reducible assumption
  · split
    · with_reducible apply keep_State_fenceModule
      with_reducible assumption
    · with_reducible apply keep_State_fenceLink
      with_reducible assumption
    · extract_lets +onlyGivenNames x0
      extract_lets +onlyGivenNames x1
      refine Keep.cut (P := Keep kq ku x1) ?_ fun h2 => ?_
      · unfold x1
        refine Keep.mk' ?_ rfl rfl rfl rfl (.inr ⟨_, rfl⟩)
        with_reducible assumption
      extract_lets +onlyGivenNames x3
      refine Keep.cut (P := Keep kq ku x3) ?_ fun h4 => ?_
      · unfold x3
        refine Keep.foldl ?_ ?_
        · with_reducible assumption
        · intro _ _ _
          with_reducible apply keep_State_setBit
          with_reducible assumption
      extract_lets +onlyGivenNames x5
      subst x5
      split
      · with_reducible apply keep_State_domainOff
        with_reducible assumption
      · beta_reduce
        with_reducible apply keep_State_setFld
        with_reducible assumption
      · with_reducible apply keep_State_setFld
        with_reducible assumption
      · with_reducible apply keep_State_setBit
        with_reducible apply keep_State_setFld
        beta_reduce
        with_reducible apply keep_State_setFld
        with_reducible assumption
      · beta_reduce
        with_reducible apply keep_State_setFld
        with_reducible assumption
      · extract_lets +onlyGivenNames x6
        extract_lets +onlyGivenNames x7
        refine Keep.cut (P := Keep kq ku x7) ?_ fun h8 => ?_
        · unfold x7
          with_reducible apply keep_State_setBit
          with_reducible assumption
        refine Keep.ite ?_ ?_
        · with_reducible apply keep_State_losePool
          with_reducible assumption
        · with_reducible assumption
      · with_reducible assumption

theorem keep_State_markLost (s : State) (p pos : Nat) (kh : Keep kq ku s) : Keep kq ku (State.markLost s p pos) := by
  unfold State.markLost
  split
  · with_reducible apply keep_State_setTable
    with_reducible assumption
  · with_reducible assumption

theorem keep_State_reloadBell (s : State) (p pos : Nat) (copyLost : Bool) (kh : Keep kq ku s) : Keep kq ku (State.reloadBell s p pos copyLost) := by
  unfold State.reloadBell
  extract_lets +onlyGivenNames x0
  extract_lets +onlyGivenNames x1
  extract_lets +onlyGivenNames x2
  refine Keep.ite ?_ ?_
  · with_reducible apply keep_State_markLost
    with_reducible apply keep_State_setBell
    with_reducible assumption
  · extract_lets +onlyGivenNames x3
    extract_lets +onlyGivenNames x4
    extract_lets +onlyGivenNames x5
    refine Keep.cut (P := Keep kq ku x5) ?_ fun h6 => ?_
    · unfold x5
      with_reducible apply keep_State_setBell
      with_reducible assumption
    refine Keep.ite ?_ ?_
    · with_reducible apply keep_State_markLost
      with_reducible assumption
    · with_reducible assumption

theorem keep_State_rewriteShadow (s : State) (p pos : Nat) (kh : Keep kq ku s) : Keep kq ku (State.rewriteShadow s p pos) := by
  unfold State.rewriteShadow
  extract_lets +onlyGivenNames x0
  extract_lets +onlyGivenNames x1
  extract_lets +onlyGivenNames x2
  refine Keep.foldl ?_ ?_
  · with_reducible assumption
  · intro _ _ _
    with_reducible apply keep_State_writeDev
    with_reducible assumption

theorem keep_State_recoveryReset (s : State) (u : FUnit) (kh : Keep kq ku s) : Keep kq ku (State.recoveryReset s u) := by
  unfold State.recoveryReset
  split
  · with_reducible apply keep_State_clearTile
    with_reducible assumption
  · refine Keep.foldl ?_ ?_
    · with_reducible assumption
    · intro _ _ _
      with_reducible apply keep_State_clearTile
      with_reducible assumption
  · split
    · with_reducible refine Keep.mk' ?_ rfl rfl rfl rfl (.inl rfl)
      with_reducible assumption
    · with_reducible refine Keep.mk' ?_ rfl rfl rfl rfl (.inl rfl)
      with_reducible assumption
    · with_reducible assumption
  · with_reducible assumption

theorem keep_State_reapplyOwn (s : State) (p : Nat) (r : OwnRef) (bs : Option (List Byte)) (h : Keep kq ku s) : PKeep kq ku (s.reapplyOwn p r bs) := by
  unfold State.reapplyOwn
  refine PKeep.bind' fun b => PKeep.map' fun v => ?_
  exact keep_State_setOwn _ _ _ h

theorem keep_State_reloadOwn (s : State) (p : Nat) (env : RecovEnv) (h : Keep kq ku s) : PKeep kq ku (s.reloadOwn p env) := by
  unfold State.reloadOwn
  refine PKeep.map0 (PKeep.foldl (keep_State_setOwn _ _ _ h) fun t a ht => PKeep.bind ht fun x hx => keep_State_reapplyOwn _ _ _ _ hx) fun t ht => ?_
  exact keep_State_setOwn _ _ _ ht

theorem keep_State_moveShares (s : State) (p : Nat) (old new : List Nat) (kh : Keep kq ku s) : Keep kq ku (State.moveShares s p old new) := by
  unfold State.moveShares
  extract_lets +onlyGivenNames x0
  with_reducible refine Keep.mk' ?_ rfl rfl rfl rfl (.inl rfl)
  with_reducible assumption

theorem keep_State_rebuild (s : State) (p : Nat) (l : Losses) (a : Alloc) (kh : Keep kq ku s) : Keep kq ku (State.rebuild s p l a) := by
  unfold State.rebuild
  extract_lets +onlyGivenNames x0
  extract_lets +onlyGivenNames x1
  extract_lets +onlyGivenNames x2
  refine Keep.cut (P := Keep kq ku x2) ?_ fun h3 => ?_
  · unfold x2
    with_reducible apply keep_State_setSlot
    with_reducible assumption
  extract_lets +onlyGivenNames x4
  refine Keep.cut (P := Keep kq ku x4) ?_ fun h5 => ?_
  · unfold x4
    refine Keep.foldl ?_ ?_
    · with_reducible assumption
    · intro _ _ _
      with_reducible apply keep_State_clearTile
      with_reducible assumption
  extract_lets +onlyGivenNames x6
  refine Keep.cut (P := Keep kq ku x6) ?_ fun h7 => ?_
  · unfold x6
    with_reducible apply keep_State_moveShares
    with_reducible assumption
  extract_lets +onlyGivenNames x8
  refine Keep.cut (P := Keep kq ku x8) ?_ fun h9 => ?_
  · unfold x8
    refine Keep.foldl ?_ ?_
    · with_reducible assumption
    · intro _ _ _
      with_reducible apply keep_State_zeroDev
      with_reducible assumption
  extract_lets +onlyGivenNames x10
  extract_lets +onlyGivenNames x11
  extract_lets +onlyGivenNames x12
  extract_lets +onlyGivenNames x13
  refine Keep.cut (P := Keep kq ku x13) ?_ fun h14 => ?_
  · unfold x13
    refine Keep.foldl ?_ ?_
    · with_reducible assumption
    · intro _ _ _
      refine Keep.ite ?_ ?_
      · with_reducible apply keep_State_reloadBell
        with_reducible assumption
      · with_reducible assumption
  extract_lets +onlyGivenNames x15
  refine Keep.cut (P := Keep kq ku x15) ?_ fun h16 => ?_
  · unfold x15
    refine Keep.ite ?_ ?_
    · refine Keep.foldl ?_ ?_
      · with_reducible assumption
      · intro _ _ _
        with_reducible apply keep_State_rewriteShadow
        with_reducible assumption
    · with_reducible assumption
  extract_lets +onlyGivenNames x17
  refine Keep.cut (P := Keep kq ku x17) ?_ fun h18 => ?_
  · unfold x17
    refine Keep.ite ?_ ?_
    · with_reducible refine Keep.mk' ?_ rfl rfl rfl rfl (.inl rfl)
      with_reducible assumption
    · with_reducible assumption
  with_reducible apply keep_State_rebuildTables
  with_reducible assumption

theorem keep_State_giveUp (s : State) (p code : Nat) (kh : Keep kq ku s) : Keep kq ku (State.giveUp s p code) := by
  unfold State.giveUp
  with_reducible apply keep_State_failPlan
  with_reducible apply keep_State_stopPlan
  with_reducible assumption

theorem keep_State_readmit (s : State) (p : Nat) (l : Losses) (env : RecovEnv) (kh : Keep kq ku s) : Keep kq ku (State.readmit s p l env).1 := by
  unfold State.readmit
  split
  · dsimp -zeta only
    with_reducible apply keep_State_giveUp
    with_reducible assumption
  · split
    · dsimp -zeta only
      with_reducible apply keep_State_giveUp
      with_reducible assumption
    · extract_lets +onlyGivenNames x0
      extract_lets +onlyGivenNames x1
      split
      · dsimp -zeta only
        with_reducible apply keep_State_giveUp
        with_reducible assumption
      · extract_lets +onlyGivenNames x2
        refine Keep.cut (P := Keep kq ku x2) ?_ fun h3 => ?_
        · unfold x2
          with_reducible apply keep_State_rebuild
          with_reducible apply keep_State_stopPlan
          with_reducible assumption
        extract_lets +onlyGivenNames x4
        extract_lets +onlyGivenNames x5
        refine Keep.cut (P := Keep kq ku x5) ?_ fun h6 => ?_
        · unfold x5
          refine Keep.ite ?_ ?_
          · with_reducible apply keep_State_writeDev
            with_reducible apply keep_State_setSlot
            with_reducible assumption
          · with_reducible assumption
        split
        · split
          · dsimp -zeta only
            refine PKeep.eq (by with_reducible assumption) ?_
            with_reducible apply keep_State_reloadOwn
            with_reducible assumption
          · dsimp -zeta only
            with_reducible apply keep_State_giveUp
            with_reducible apply keep_State_error
            with_reducible assumption
        · with_reducible assumption

theorem keep_State_readmitAll (s : State) (l : Losses) (env : RecovEnv) (kh : Keep kq ku s) : Keep kq ku (State.readmitAll s l env).1 := by
  unfold State.readmitAll
  refine Keep.foldl1 ?_ ?_
  · with_reducible assumption
  · intro _ _ _
    extract_lets +onlyGivenNames x0
    refine Keep.cut (P := Keep kq ku x0) ?_ fun h1 => ?_
    · unfold x0
      with_reducible assumption
    extract_lets +onlyGivenNames x2
    split
    · with_reducible assumption
    · extract_lets +onlyGivenNames x3
      extract_lets +onlyGivenNames x4
      refine Keep.cut (P := Keep kq ku x4.1) ?_ fun h5 => ?_
      · unfold x4
        with_reducible apply keep_State_readmit
        with_reducible assumption
      split
      · with_reducible assumption
      · with_reducible assumption

theorem keep_State_restartPlan (s : State) (p : Nat) (readmitted : Bool) (kh : Keep kq ku s) : Keep kq ku (State.restartPlan s p readmitted) := by
  unfold State.restartPlan
  refine Keep.ite ?_ ?_
  · extract_lets +onlyGivenNames x0
    refine Keep.cut (P := Keep kq ku x0) ?_ fun h1 => ?_
    · unfold x0
      with_reducible apply keep_State_regenerate
      with_reducible assumption
    refine Keep.ite ?_ ?_
    · with_reducible assumption
    · with_reducible apply keep_State_settleStop
      with_reducible apply keep_State_postCadence
      with_reducible apply keep_State_setSlotState
      with_reducible assumption
  · refine Keep.ite ?_ ?_
    · with_reducible apply keep_State_regenerate
      with_reducible assumption
    · with_reducible assumption

theorem keep_State_resume (s : State) (kh : Keep kq ku s) : Keep kq ku (State.resume s) := by
  unfold State.resume
  extract_lets +onlyGivenNames x0
  extract_lets +onlyGivenNames x1
  extract_lets +onlyGivenNames x2
  refine Keep.cut (P := Keep kq ku x2) ?_ fun h3 => ?_
  · unfold x2
    with_reducible refine Keep.mk' ?_ rfl rfl rfl rfl (.inl rfl)
    with_reducible assumption
  extract_lets +onlyGivenNames x4
  refine Keep.cut (P := Keep kq ku x4) ?_ fun h5 => ?_
  · unfold x4
    with_reducible apply keep_State_setFld
    with_reducible apply keep_State_setBit
    with_reducible apply keep_State_setBit
    with_reducible assumption
  extract_lets +onlyGivenNames x6
  refine Keep.cut (P := Keep kq ku x6) ?_ fun h7 => ?_
  · unfold x6
    with_reducible apply keep_State_releaseHeld
    with_reducible apply keep_State_raise
    with_reducible assumption
  extract_lets +onlyGivenNames x8
  refine Keep.cut (P := Keep kq ku x8) ?_ fun h9 => ?_
  · unfold x8
    refine Keep.foldl ?_ ?_
    · with_reducible assumption
    · intro _ _ _
      refine Keep.ite ?_ ?_
      · with_reducible apply keep_State_sendCpl
        with_reducible assumption
      · with_reducible assumption
  extract_lets +onlyGivenNames x10
  refine Keep.cut (P := Keep kq ku x10) ?_ fun h11 => ?_
  · unfold x10
    with_reducible apply keep_State_sendQuote
    with_reducible assumption
  refine Keep.foldl ?_ ?_
  · with_reducible assumption
  · intro _ _ _
    with_reducible apply keep_State_settleRing
    with_reducible assumption

theorem keep_State_recover (s : State) (fences : List FUnit) (passed : List Cand) (env : RecovEnv) (kh : Keep kq ku s) : Keep kq ku (State.recover s fences passed env) := by
  unfold State.recover
  refine Keep.ite ?_ ?_
  · with_reducible assumption
  · extract_lets +onlyGivenNames x0
    extract_lets +onlyGivenNames x1
    refine Keep.cut (P := Keep kq ku x1) ?_ fun h2 => ?_
    · unfold x1
      with_reducible refine Keep.mk' ?_ rfl rfl rfl rfl (.inl rfl)
      with_reducible assumption
    extract_lets +onlyGivenNames x3
    refine Keep.cut (P := Keep kq ku x3) ?_ fun h4 => ?_
    · unfold x3
      with_reducible apply keep_State_setBit
      with_reducible assumption
    extract_lets +onlyGivenNames x5
    refine Keep.cut (P := Keep kq ku x5) ?_ fun h6 => ?_
    · unfold x5
      with_reducible assumption
    extract_lets +onlyGivenNames x7
    refine Keep.cut (P := Keep kq ku x7) ?_ fun h8 => ?_
    · unfold x7
      with_reducible apply keep_State_showFence
      refine Keep.foldl ?_ ?_
      · with_reducible assumption
      · intro _ _ _
        with_reducible apply keep_State_fenceUnit
        with_reducible assumption
    refine Keep.ite ?_ ?_
    · with_reducible assumption
    · extract_lets +onlyGivenNames x9
      extract_lets +onlyGivenNames x10
      refine Keep.cut (P := Keep kq ku x10) ?_ fun h11 => ?_
      · unfold x10
        refine Keep.foldl ?_ ?_
        · with_reducible assumption
        · intro _ _ _
          with_reducible apply keep_State_recoveryReset
          with_reducible assumption
      extract_lets +onlyGivenNames x12
      extract_lets +onlyGivenNames x13
      refine Keep.cut (P := Keep kq ku x13.1) ?_ fun h14 => ?_
      · unfold x13
        clear_value x12
        with_reducible apply keep_State_readmitAll
        with_reducible assumption
      extract_lets +onlyGivenNames x15
      refine Keep.cut (P := Keep kq ku x15) ?_ fun h16 => ?_
      · unfold x15
        with_reducible assumption
      refine Keep.ite ?_ ?_
      · with_reducible assumption
      · extract_lets +onlyGivenNames x17
        refine Keep.cut (P := Keep kq ku x17) ?_ fun h18 => ?_
        · unfold x17
          refine Keep.foldl ?_ ?_
          · with_reducible assumption
          · intro _ _ _
            with_reducible apply keep_State_restartPlan
            with_reducible assumption
        refine Keep.ite ?_ ?_
        · with_reducible assumption
        · extract_lets +onlyGivenNames x19
          extract_lets +onlyGivenNames x20
          extract_lets +onlyGivenNames x21
          refine Keep.cut (P := Keep kq ku x21) ?_ fun h22 => ?_
          · unfold x21
            refine Keep.foldl ?_ ?_
            · with_reducible assumption
            · intro _ _ _
              with_reducible apply keep_State_addWrap
              with_reducible assumption
          extract_lets +onlyGivenNames x23
          refine Keep.cut (P := Keep kq ku x23) ?_ fun h24 => ?_
          · unfold x23
            with_reducible apply keep_State_setFld
            with_reducible apply keep_State_setFld
            with_reducible assumption
          extract_lets +onlyGivenNames x25
          refine Keep.cut (P := Keep kq ku x25) ?_ fun h26 => ?_
          · unfold x25
            with_reducible apply keep_State_setFld
            with_reducible assumption
          extract_lets +onlyGivenNames x27
          refine Keep.cut (P := Keep kq ku x27) ?_ fun h28 => ?_
          · unfold x27
            with_reducible apply keep_State_addSat
            with_reducible apply keep_State_addWrap
            with_reducible assumption
          extract_lets +onlyGivenNames x29
          extract_lets +onlyGivenNames x30
          refine Keep.cut (P := Keep kq ku x30) ?_ fun h31 => ?_
          · unfold x30
            with_reducible refine Keep.mk' ?_ rfl rfl rfl rfl (.inl rfl)
            with_reducible assumption
          with_reducible apply keep_State_resume
          with_reducible assumption

theorem keep_execQuietEnd (env : RecovEnv) (s : State) (kh : Keep kq ku s) : OKeep kq ku (execQuietEnd env s) := by
  unfold execQuietEnd
  show Keep _ _ _
  refine Keep.ite ?_ ?_
  · with_reducible assumption
  · with_reducible apply keep_State_atBeat
    · with_reducible assumption
    · intro _ _
      extract_lets +onlyGivenNames x0
      refine Keep.cut (P := Keep kq ku x0) ?_ fun h1 => ?_
      · unfold x0
        with_reducible apply keep_State_completeSafe
        with_reducible assumption
      refine Keep.ite ?_ ?_
      · with_reducible apply keep_State_goDown
        with_reducible refine Keep.mk' ?_ rfl rfl rfl rfl (.inl rfl)
        with_reducible assumption
      · refine Keep.ite ?_ ?_
        · with_reducible apply keep_State_raise
          with_reducible apply keep_State_setFld
          with_reducible apply keep_State_showFence
          with_reducible assumption
        · extract_lets +onlyGivenNames x2
          refine Keep.cut (P := Keep kq ku x2.1) ?_ fun h3 => ?_
          · unfold x2
            with_reducible apply keep_State_runTests
            with_reducible apply keep_State_setFld
            with_reducible assumption
          with_reducible apply keep_State_recover
          with_reducible assumption

theorem keep_execDbgRecovGo (env : RecovEnv) (s : State) (kh : Keep kq ku s) : OKeep kq ku (execDbgRecovGo env s) := by
  unfold execDbgRecovGo
  show Keep _ _ _
  refine Keep.ite ?_ ?_
  · with_reducible assumption
  · extract_lets +onlyGivenNames x0
    extract_lets +onlyGivenNames x1
    extract_lets +onlyGivenNames x2
    extract_lets +onlyGivenNames x3
    extract_lets +onlyGivenNames x4
    refine Keep.cut (P := Keep kq ku x4.1) ?_ fun h5 => ?_
    · unfold x4
      with_reducible apply keep_State_runTests
      with_reducible apply keep_State_setFld
      with_reducible assumption
    extract_lets +onlyGivenNames x6
    extract_lets +onlyGivenNames x7
    refine Keep.cut (P := Keep kq ku x7) ?_ fun h8 => ?_
    · unfold x7
      refine Keep.foldl ?_ ?_
      · with_reducible assumption
      · intro _ _ _
        with_reducible apply keep_State_recoveryReset
        with_reducible assumption
    with_reducible apply keep_State_recover
    with_reducible assumption

theorem keep_execRelease (s : State) (kh : Keep kq ku s) : OKeep kq ku (execRelease s) := by
  unfold execRelease
  show Keep _ _ _
  refine Keep.ite ?_ ?_
  · with_reducible assumption
  · extract_lets +onlyGivenNames x0
    refine Keep.cut (P := Keep kq ku x0) ?_ fun h1 => ?_
    · unfold x0
      with_reducible apply keep_State_setFld
      with_reducible apply keep_State_setBit
      with_reducible assumption
    with_reducible apply keep_State_startQuiet
    with_reducible refine Keep.mk' ?_ rfl rfl rfl rfl (.inl rfl)
    with_reducible assumption

theorem keep_execInHourExpire (s : State) (kh : Keep kq ku s) : OKeep kq ku (execInHourExpire s) := by
  unfold execInHourExpire
  show Keep _ _ _
  with_reducible apply keep_State_setFld
  with_reducible assumption

theorem keep_execDbg1500Go (stack : Fin 4) (instr : Byte) (s : State) (kh : Keep kq ku s) : OKeep kq ku (execDbg1500Go stack instr s) := by
  unfold execDbg1500Go
  show Keep _ _ _
  refine Keep.ite ?_ ?_
  · with_reducible apply keep_State_reject
    with_reducible assumption
  · extract_lets +onlyGivenNames x0
    refine Keep.cut (P := Keep kq ku x0) ?_ fun h1 => ?_
    · unfold x0
      with_reducible apply keep_State_setFld
      with_reducible apply keep_State_setFld
      with_reducible assumption
    with_reducible apply keep_State_wr
    with_reducible apply keep_State_fresh
    with_reducible assumption

theorem keep_State_bootStep (s : State) (n : Nat) (kh : Keep kq ku s) : Keep kq ku (State.bootStep s n) := by
  unfold State.bootStep
  with_reducible apply keep_State_setFld
  with_reducible assumption

theorem keep_State_fuseStep (s : State) (kh : Keep kq ku s) : Keep kq ku (State.fuseStep s) := by
  unfold State.fuseStep
  extract_lets +onlyGivenNames x0
  refine Keep.cut (P := Keep kq ku x0) ?_ fun h1 => ?_
  · unfold x0
    with_reducible apply keep_State_setBit
    with_reducible apply keep_State_setBit
    with_reducible apply keep_State_loadFuses
    with_reducible assumption
  extract_lets +onlyGivenNames x2
  refine Keep.cut (P := Keep kq ku x2) ?_ fun h3 => ?_
  · unfold x2
    with_reducible apply keep_State_bootStep
    with_reducible assumption
  refine Keep.ite ?_ ?_
  · with_reducible apply keep_State_error
    with_reducible assumption
  · with_reducible assumption

theorem keep_State_clockStep (s : State) (khz : Nat) (kh : Keep kq ku s) : Keep kq ku (State.clockStep s khz) := by
  unfold State.clockStep
  extract_lets +onlyGivenNames x0
  extract_lets +onlyGivenNames x1
  refine Keep.cut (P := Keep kq ku x1) ?_ fun h2 => ?_
  · unfold x1
    with_reducible refine Keep.mk' ?_ rfl rfl rfl rfl (.inl rfl)
    with_reducible assumption
  extract_lets +onlyGivenNames x3
  refine Keep.cut (P := Keep kq ku x3) ?_ fun h4 => ?_
  · unfold x3
    with_reducible apply keep_State_setFld
    with_reducible apply keep_State_setBit
    with_reducible assumption
  extract_lets +onlyGivenNames x5
  refine Keep.cut (P := Keep kq ku x5) ?_ fun h6 => ?_
  · unfold x5
    refine Keep.foldl ?_ ?_
    · with_reducible assumption
    · intro _ _ _
      refine Keep.ite ?_ ?_
      · with_reducible assumption
      · with_reducible apply keep_State_setBit
        with_reducible assumption
  with_reducible apply keep_State_bootStep
  with_reducible apply keep_State_setFld
  with_reducible assumption

theorem keep_State_romStep (s : State) (kh : Keep kq ku s) : Keep kq ku (State.romStep s) := by
  unfold State.romStep
  extract_lets +onlyGivenNames x0
  refine Keep.cut (P := Keep kq ku x0) ?_ fun h1 => ?_
  · unfold x0
    with_reducible apply keep_State_setFld
    with_reducible assumption
  with_reducible apply keep_State_setBit
  with_reducible apply keep_State_setFld
  with_reducible assumption

theorem keep_State_measureRom (s : State) (kh : Keep kq ku s) : Keep kq ku (State.measureRom s) := by
  unfold State.measureRom
  extract_lets +onlyGivenNames x0
  refine Keep.cut (P := Keep kq ku x0) ?_ fun h1 => ?_
  · unfold x0
    with_reducible apply keep_State_measure
    with_reducible assumption
  with_reducible apply keep_State_measure
  with_reducible assumption

theorem keep_State_sidebandStep (s : State) (up : Nat) (kh : Keep kq ku s) : Keep kq ku (State.sidebandStep s up) := by
  unfold State.sidebandStep
  extract_lets +onlyGivenNames x0
  refine Keep.cut (P := Keep kq ku x0) ?_ fun h1 => ?_
  · unfold x0
    with_reducible apply keep_State_setFld
    with_reducible assumption
  extract_lets +onlyGivenNames x2
  refine Keep.cut (P := Keep kq ku x2) ?_ fun h3 => ?_
  · unfold x2
    split
    · with_reducible apply keep_State_setFld
      with_reducible assumption
    · with_reducible assumption
  refine Keep.foldl ?_ ?_
  · with_reducible apply keep_State_bootStep
    with_reducible assumption
  · intro _ _ _
    with_reducible apply keep_State_recordError
    with_reducible assumption

theorem keep_State_trySources (s : State) (l : List Nat) (imgs : List (Option FwImage)) (h : Keep kq ku s) : Keep kq ku (s.trySources l imgs).1 := by
  induction l generalizing s imgs with
  | nil =>
    unfold State.trySources
    with_reducible assumption
  | cons b l ih =>
    unfold State.trySources
    extract_lets +onlyGivenNames x0
    extract_lets +onlyGivenNames x1
    extract_lets +onlyGivenNames x2
    refine Keep.cut (P := Keep kq ku x2) ?_ fun h3 => ?_
    · unfold x2
      refine Keep.ite ?_ ?_
      · with_reducible assumption
      · with_reducible refine Keep.mk' ?_ rfl rfl rfl rfl (.inl rfl)
        with_reducible assumption
    extract_lets +onlyGivenNames x4
    extract_lets +onlyGivenNames x5
    refine Keep.cut (P := Keep kq ku x5) ?_ fun h6 => ?_
    · unfold x5
      with_reducible apply keep_State_setFld
      with_reducible apply keep_State_setFld
      with_reducible assumption
    extract_lets +onlyGivenNames x7
    refine Keep.cut (P := Keep kq ku x7) ?_ fun h8 => ?_
    · unfold x7
      clear_value x0
      split
      · with_reducible apply keep_State_setFld
        with_reducible assumption
      · with_reducible assumption
    clear_value x0
    clear_value x4
    split
    · with_reducible assumption
    · with_reducible apply ih
      refine Keep.ite ?_ ?_
      · with_reducible apply keep_State_error
        with_reducible assumption
      · with_reducible apply keep_State_error
        with_reducible assumption

theorem keep_State_fwStep (s : State) (imgs : List (Option FwImage)) (kh : Keep kq ku s) : Keep kq ku (State.fwStep s imgs).1 := by
  unfold State.fwStep
  split
  · dsimp -zeta only
    with_reducible apply keep_State_bootStep
    with_reducible refine Keep.mk' ?_ rfl rfl rfl rfl (.inl rfl)
    refine Keep.eq1 (by with_reducible assumption) ?_
    with_reducible apply keep_State_trySources
    with_reducible assumption
  · extract_lets +onlyGivenNames x0
    refine Keep.cut (P := Keep kq ku x0) ?_ fun h1 => ?_
    · unfold x0
      with_reducible apply keep_State_setFld
      with_reducible apply keep_State_measure
      refine Keep.eq1 (by with_reducible assumption) ?_
      with_reducible apply keep_State_trySources
      with_reducible assumption
    dsimp -zeta only
    with_reducible apply keep_State_bootStep
    with_reducible refine Keep.mk' ?_ rfl rfl rfl rfl (.inl rfl)
    with_reducible assumption

theorem keep_State_phyDone (s : State) (n rate up fail result : Nat) (kh : Keep kq ku s) : Keep kq ku (State.phyDone s n rate up fail result) := by
  unfold State.phyDone
  extract_lets +onlyGivenNames x0
  extract_lets +onlyGivenNames x1
  refine Keep.cut (P := Keep kq ku x1) ?_ fun h2 => ?_
  · unfold x1
    with_reducible apply keep_State_setFld
    with_reducible apply keep_State_setBit
    with_reducible apply keep_State_setFld
    with_reducible assumption
  extract_lets +onlyGivenNames x3
  refine Keep.cut (P := Keep kq ku x3) ?_ fun h4 => ?_
  · unfold x3
    with_reducible apply keep_State_setFld
    with_reducible apply keep_State_setFld
    with_reducible apply keep_State_fresh
    with_reducible assumption
  extract_lets +onlyGivenNames x5
  refine Keep.cut (P := Keep kq ku x5) ?_ fun h6 => ?_
  · unfold x5
    with_reducible apply keep_State_setFld
    with_reducible assumption
  refine Keep.ite ?_ ?_
  · with_reducible assumption
  · extract_lets +onlyGivenNames x7
    refine Keep.cut (P := Keep kq ku x7) ?_ fun h8 => ?_
    · unfold x7
      with_reducible apply keep_State_setBit
      with_reducible apply keep_State_setBit
      with_reducible assumption
    extract_lets +onlyGivenNames x9
    refine Keep.cut (P := Keep kq ku x9) ?_ fun h10 => ?_
    · unfold x9
      with_reducible apply keep_State_setBit
      with_reducible apply keep_State_setFld
      with_reducible assumption
    with_reducible apply keep_State_setFld
    with_reducible assumption

theorem keep_State_bootFenceStack (s : State) (n : Nat) (kh : Keep kq ku s) : Keep kq ku (State.bootFenceStack s n) := by
  unfold State.bootFenceStack
  extract_lets +onlyGivenNames x0
  refine Keep.cut (P := Keep kq ku x0) ?_ fun h1 => ?_
  · unfold x0
    with_reducible apply keep_State_setBit
    with_reducible apply keep_State_setBit
    with_reducible assumption
  with_reducible refine Keep.mk' ?_ rfl rfl rfl rfl (.inl rfl)
  with_reducible assumption

theorem keep_State_trainStack (s : State) (hbm : List StackEnv) (rate k n : Nat) (kh : Keep kq ku s) : Keep kq ku (State.trainStack s hbm rate k n) := by
  unfold State.trainStack
  refine Keep.ite ?_ ?_
  · with_reducible apply keep_State_error
    with_reducible apply keep_State_bootFenceStack
    with_reducible apply keep_State_phyDone
    with_reducible assumption
  · extract_lets +onlyGivenNames x0
    extract_lets +onlyGivenNames x1
    extract_lets +onlyGivenNames x2
    extract_lets +onlyGivenNames x3
    refine Keep.cut (P := Keep kq ku x3) ?_ fun h4 => ?_
    · unfold x3
      with_reducible apply keep_State_phyDone
      with_reducible assumption
    extract_lets +onlyGivenNames x5
    extract_lets +onlyGivenNames x6
    extract_lets +onlyGivenNames x7
    refine Keep.cut (P := Keep kq ku x7) ?_ fun h8 => ?_
    · unfold x7
      with_reducible refine Keep.mk' ?_ rfl rfl rfl rfl (.inl rfl)
      with_reducible assumption
    extract_lets +onlyGivenNames x9
    refine Keep.cut (P := Keep kq ku x9) ?_ fun h10 => ?_
    · unfold x9
      refine Keep.foldl ?_ ?_
      · with_reducible assumption
      · intro _ _ _
        with_reducible apply keep_State_error
        with_reducible assumption
    refine Keep.ite ?_ ?_
    · with_reducible apply keep_State_error
      with_reducible apply keep_State_bootFenceStack
      with_reducible assumption
    · with_reducible assumption

theorem keep_State_hbmStep (s : State) (hbm : List StackEnv) (kh : Keep kq ku s) : Keep kq ku (State.hbmStep s hbm).1 := by
  unfold State.hbmStep
  extract_lets +onlyGivenNames x0
  extract_lets +onlyGivenNames x1
  split
  · extract_lets +onlyGivenNames x2
    refine Keep.cut (P := Keep kq ku x2) ?_ fun h3 => ?_
    · unfold x2
      refine Keep.foldl ?_ ?_
      · with_reducible assumption
      · intro _ _ _
        refine Keep.ite ?_ ?_
        · with_reducible assumption
        · with_reducible apply keep_State_error
          with_reducible apply keep_State_phyDone
          with_reducible assumption
    dsimp -zeta only
    with_reducible apply keep_State_error
    with_reducible assumption
  · extract_lets +onlyGivenNames x4
    extract_lets +onlyGivenNames x5
    extract_lets +onlyGivenNames x6
    refine Keep.cut (P := Keep kq ku x6) ?_ fun h7 => ?_
    · unfold x6
      refine Keep.foldl ?_ ?_
      · with_reducible assumption
      · intro _ _ _
        refine Keep.foldl ?_ ?_
        · with_reducible assumption
        · intro _ _ _
          with_reducible apply keep_State_error
          with_reducible assumption
    extract_lets +onlyGivenNames x8
    refine Keep.cut (P := Keep kq ku x8) ?_ fun h9 => ?_
    · unfold x8
      refine Keep.foldl ?_ ?_
      · with_reducible assumption
      · intro _ _ _
        with_reducible apply keep_State_trainStack
        with_reducible assumption
    extract_lets +onlyGivenNames x10
    clear_value x10
    split
    · extract_lets +onlyGivenNames x11
      refine Keep.cut (P := Keep kq ku x11) ?_ fun h12 => ?_
      · unfold x11
        with_reducible apply keep_State_setFld
        with_reducible apply keep_State_setFld
        with_reducible apply keep_State_setFld
        with_reducible assumption
      extract_lets +onlyGivenNames x13
      refine Keep.cut (P := Keep kq ku x13) ?_ fun h14 => ?_
      · unfold x13
        with_reducible apply keep_State_setFld
        with_reducible apply keep_State_setFld
        with_reducible assumption
      dsimp -zeta only
      with_reducible apply keep_State_bootStep
      with_reducible assumption
    · with_reducible assumption

theorem keep_State_bistStep (s : State) (base store : Bool) (kh : Keep kq ku s) : Keep kq ku (State.bistStep s base store) := by
  unfold State.bistStep
  extract_lets +onlyGivenNames x0
  refine Keep.cut (P := Keep kq ku x0) ?_ fun h1 => ?_
  · unfold x0
    with_reducible apply keep_State_setBit
    with_reducible assumption
  extract_lets +onlyGivenNames x2
  subst x2
  extract_lets +onlyGivenNames x3
  refine Keep.cut (P := Keep kq ku x3) ?_ fun h4 => ?_
  · unfold x3
    refine Keep.ite ?_ ?_
    · with_reducible assumption
    · beta_reduce
      extract_lets +onlyGivenNames x5
      with_reducible apply keep_State_recordError
      with_reducible apply keep_State_setBit
      with_reducible refine Keep.mk' ?_ rfl rfl rfl rfl (.inl rfl)
      with_reducible assumption
  with_reducible apply keep_State_bootStep
  refine Keep.ite ?_ ?_
  · with_reducible assumption
  · beta_reduce
    extract_lets +onlyGivenNames x6
    with_reducible apply keep_State_recordError
    with_reducible apply keep_State_setBit
    with_reducible refine Keep.mk' ?_ rfl rfl rfl rfl (.inl rfl)
    with_reducible assumption

theorem keep_State_burnLeaf (s : State) (lost : Bool) (n : Nat) (r : Bool) (rs : List BurnRes) (h : Keep kq ku s) : Keep kq ku (s.burnLeaf lost n r rs).1 := by
  induction n generalizing s r rs with
  | zero =>
    unfold State.burnLeaf
    with_reducible assumption
  | succ n ih =>
    unfold State.burnLeaf
    split
    · with_reducible assumption
    · extract_lets +onlyGivenNames x0
      extract_lets +onlyGivenNames x1
      extract_lets +onlyGivenNames x2
      refine Keep.cut (P := Keep kq ku x2) ?_ fun h3 => ?_
      · unfold x2
        with_reducible apply keep_State_burnBit
        with_reducible assumption
      split
      · extract_lets +onlyGivenNames x4
        refine Keep.cut (P := Keep kq ku x4) ?_ fun h5 => ?_
        · unfold x4
          with_reducible apply keep_State_error
          with_reducible assumption
        split
        · with_reducible assumption
        · with_reducible apply ih
          with_reducible assumption
      · split
        · with_reducible assumption
        · split
          · with_reducible apply ih
            with_reducible apply keep_State_error
            with_reducible assumption
          · split
            · with_reducible assumption
            · with_reducible apply ih
              with_reducible assumption

theorem keep_State_setTree (s : State) (leaf : Nat) (pub : List Byte) (kh : Keep kq ku s) : Keep kq ku (State.setTree s leaf pub) := by
  unfold State.setTree
  extract_lets +onlyGivenNames x0
  refine Keep.cut (P := Keep kq ku x0) ?_ fun h1 => ?_
  · unfold x0
    with_reducible apply keep_State_setBit
    with_reducible apply keep_State_setFld
    with_reducible assumption
  refine Keep.foldl ?_ ?_
  · with_reducible assumption
  · intro _ _ _
    with_reducible apply keep_State_setFld
    with_reducible assumption

theorem keep_State_burnOthers (s : State) (l : List Nat) (rs : List BurnRes) (h : Keep kq ku s) : Keep kq ku (s.burnOthers l rs) := by
  induction l generalizing s rs with
  | nil =>
    unfold State.burnOthers
    with_reducible assumption
  | cons b l ih =>
    unfold State.burnOthers
    extract_lets +onlyGivenNames x0
    extract_lets +onlyGivenNames x1
    refine Keep.cut (P := Keep kq ku x1) ?_ fun h2 => ?_
    · unfold x1
      with_reducible apply keep_State_burnBit
      with_reducible assumption
    refine Keep.ite ?_ ?_
    · with_reducible apply keep_State_error
      with_reducible assumption
    · with_reducible apply ih
      with_reducible assumption

theorem keep_State_treeStep (s : State) (i : FwImage) (env : BootEnv) (kh : Keep kq ku s) : Keep kq ku (State.treeStep s i env) := by
  unfold State.treeStep
  extract_lets +onlyGivenNames x0
  extract_lets +onlyGivenNames x1
  refine Keep.cut (P := Keep kq ku x1) ?_ fun h2 => ?_
  · unfold x1
    with_reducible refine Keep.mk' ?_ rfl rfl rfl rfl (.inl rfl)
    with_reducible assumption
  extract_lets +onlyGivenNames x3
  extract_lets +onlyGivenNames x4
  refine Keep.cut (P := Keep kq ku x4) ?_ fun h5 => ?_
  · unfold x4
    refine Keep.ite ?_ ?_
    · with_reducible apply keep_State_setBit
      with_reducible assumption
    · with_reducible assumption
  extract_lets +onlyGivenNames x6
  refine Keep.cut (P := Keep kq ku x6.1) ?_ fun h7 => ?_
  · unfold x6
    split
    · dsimp -zeta only
      with_reducible apply keep_State_error
      with_reducible assumption
    · split
      · with_reducible assumption
      · split
        · dsimp -zeta only
          with_reducible apply keep_State_setTree
          refine Keep.eq1 (by with_reducible assumption) ?_
          with_reducible apply keep_State_burnLeaf
          with_reducible assumption
        · dsimp -zeta only
          with_reducible apply keep_State_error
          refine Keep.eq1 (by with_reducible assumption) ?_
          with_reducible apply keep_State_burnLeaf
          with_reducible assumption
  extract_lets +onlyGivenNames x8
  refine Keep.cut (P := Keep kq ku x8) ?_ fun h9 => ?_
  · unfold x8
    with_reducible apply keep_State_setBit
    with_reducible assumption
  with_reducible apply keep_State_bootStep
  with_reducible apply keep_State_loadFuses
  with_reducible apply keep_State_burnOthers
  with_reducible assumption

theorem keep_State_readyStep (s : State) (kh : Keep kq ku s) : Keep kq ku (State.readyStep s) := by
  unfold State.readyStep
  extract_lets +onlyGivenNames x0
  refine Keep.cut (P := Keep kq ku x0) ?_ fun h1 => ?_
  · unfold x0
    refine Keep.foldl ?_ ?_
    · with_reducible assumption
    · intro _ _ _
      refine Keep.ite ?_ ?_
      · with_reducible assumption
      · with_reducible apply keep_State_setFld
        with_reducible assumption
  with_reducible apply keep_State_bootStep
  with_reducible apply keep_State_setBit
  with_reducible assumption

theorem keep_State_boot (s : State) (env : BootEnv) (kh : Keep kq ku s) : Keep kq ku (State.boot s env) := by
  unfold State.boot
  extract_lets +onlyGivenNames x0
  refine Keep.cut (P := Keep kq ku x0) ?_ fun h1 => ?_
  · unfold x0
    with_reducible apply keep_State_measureRom
    with_reducible apply keep_State_romStep
    with_reducible apply keep_State_clockStep
    with_reducible apply keep_State_fuseStep
    with_reducible assumption
  split
  · refine Keep.eq1 (by with_reducible assumption) ?_
    with_reducible apply keep_State_fwStep
    with_reducible apply keep_State_sidebandStep
    with_reducible assumption
  · split
    · refine Keep.eq1 (by with_reducible assumption) ?_
      with_reducible apply keep_State_hbmStep
      refine Keep.eq1 (by with_reducible assumption) ?_
      with_reducible apply keep_State_fwStep
      with_reducible apply keep_State_sidebandStep
      with_reducible assumption
    · with_reducible apply keep_State_readyStep
      with_reducible apply keep_State_treeStep
      with_reducible apply keep_State_bistStep
      refine Keep.eq1 (by with_reducible assumption) ?_
      with_reducible apply keep_State_hbmStep
      refine Keep.eq1 (by with_reducible assumption) ?_
      with_reducible apply keep_State_fwStep
      with_reducible apply keep_State_sidebandStep
      with_reducible assumption

theorem keep_State_blank (s : State) (kh : Keep kq [] s) : Keep kq [] (State.blank s) := by
  unfold State.blank State.reset
  refine ⟨kh.1, kwf_nil _, kwf_nil _, kwf_nil _, ?_⟩
  intro x hx
  cases hx

theorem keep_State_setCause (s : State) (v : Nat) (kh : Keep kq ku s) : Keep kq ku (State.setCause s v) := by
  unfold State.setCause
  with_reducible apply keep_State_wr
  with_reducible assumption

theorem keep_execPowerOnReset (cause : PorCause) (env : BootEnv) (s : State) (kh : Keep kq [] s) : OKeep kq [] (execPowerOnReset cause env s) := by
  unfold execPowerOnReset
  show Keep _ _ _
  refine Keep.ite ?_ ?_
  · with_reducible assumption
  · extract_lets +onlyGivenNames x0
    refine Keep.cut (P := Keep kq [] x0) ?_ fun h1 => ?_
    · unfold x0
      with_reducible apply keep_State_setCause
      with_reducible apply keep_State_blank
      with_reducible assumption
    split
    · with_reducible assumption
    · with_reducible apply keep_State_boot
      with_reducible refine Keep.mk' ?_ rfl rfl rfl rfl (.inl rfl)
      with_reducible assumption

theorem keep_execPwrokRise (env : BootEnv) (s : State) (kh : Keep kq ku s) : OKeep kq ku (execPwrokRise env s) := by
  unfold execPwrokRise
  show Keep _ _ _
  refine Keep.ite ?_ ?_
  · with_reducible assumption
  · with_reducible apply keep_State_boot
    with_reducible refine Keep.mk' ?_ rfl rfl rfl rfl (.inl rfl)
    with_reducible assumption

theorem keep_execColdReset (env : BootEnv) (s : State) (kh : Keep kq [] s) : OKeep kq [] (execColdReset env s) := by
  unfold execColdReset
  show Keep _ _ _
  refine Keep.ite ?_ ?_
  · with_reducible assumption
  · extract_lets +onlyGivenNames x0
    refine Keep.cut (P := Keep kq [] x0) ?_ fun h1 => ?_
    · unfold x0
      with_reducible apply keep_State_setCause
      with_reducible apply keep_State_blank
      with_reducible assumption
    extract_lets +onlyGivenNames x2
    refine Keep.cut (P := Keep kq [] x2) ?_ fun h3 => ?_
    · unfold x2
      refine Keep.foldl ?_ ?_
      · with_reducible assumption
      · intro _ _ _
        with_reducible apply keep_State_setFld
        with_reducible assumption
    with_reducible apply keep_State_boot
    with_reducible refine Keep.mk' ?_ rfl rfl rfl rfl (.inl rfl)
    with_reducible assumption

theorem keep_State_warmClear (s : State) (kh : Keep kq ku s) : Keep kq ku (State.warmClear s) := by
  unfold State.warmClear
  extract_lets link sec flt pins src msrc t0 t1 t2 t3
  have h0 : Keep kq ku t0 := ⟨kh.1, keep_Bits_wf _ _, kh.3, kwf_nil _, kh.5⟩
  clear_value t0
  have h1 : Keep kq ku t1 := by
    show Keep kq ku (List.foldl _ _ _)
    refine Keep.foldl ?_ ?_
    · with_reducible assumption
    · intro _ _ _
      refine Keep.ite ?_ ?_
      · with_reducible apply keep_State_setDomState
        with_reducible assumption
      · with_reducible assumption
  clear_value t1
  have h2 : Keep kq ku t2 := by
    show Keep kq ku (List.foldl _ _ _)
    refine Keep.foldl ?_ ?_
    · with_reducible assumption
    · intro _ _ _
      refine Keep.ite ?_ ?_
      · with_reducible assumption
      · with_reducible apply keep_State_setBit
        with_reducible assumption
  clear_value t2
  have h3 : Keep kq ku t3 := keep_State_setFld _ _ _ _ h2
  exact keep_State_refreshGroup _ h3

theorem keep_State_warmBoot (s : State) (env : WarmEnv) (kh : Keep kq ku s) : Keep kq ku (State.warmBoot s env).1 := by
  unfold State.warmBoot
  extract_lets +onlyGivenNames x0
  refine Keep.cut (P := Keep kq ku x0) ?_ fun h1 => ?_
  · unfold x0
    with_reducible apply keep_State_addWrap
    with_reducible apply keep_State_romStep
    with_reducible assumption
  extract_lets +onlyGivenNames x2
  refine Keep.cut (P := Keep kq ku x2) ?_ fun h3 => ?_
  · unfold x2
    with_reducible apply keep_State_measure
    with_reducible assumption
  split
  · with_reducible assumption
  · split
    · dsimp -zeta only
      refine Keep.eq1 (by with_reducible assumption) ?_
      with_reducible apply keep_State_fwStep
      with_reducible assumption
    · dsimp -zeta only
      refine Keep.eq1 (by with_reducible assumption) ?_
      with_reducible apply keep_State_fwStep
      with_reducible assumption

theorem keep_State_warm (s : State) (cause : Nat) (env : WarmEnv) (kh : Keep kq ku s) : Keep kq ku (State.warm s cause env) := by
  unfold State.warm
  extract_lets +onlyGivenNames x0
  refine Keep.cut (P := Keep kq ku x0) ?_ fun h1 => ?_
  · unfold x0
    refine Keep.ite ?_ ?_
    · with_reducible apply keep_State_error
      with_reducible apply keep_State_endFlash
      with_reducible assumption
    · with_reducible assumption
  extract_lets +onlyGivenNames x2
  refine Keep.cut (P := Keep kq ku x2) ?_ fun h3 => ?_
  · unfold x2
    with_reducible apply keep_State_setCause
    with_reducible apply keep_State_warmClear
    with_reducible assumption
  split
  · refine Keep.eq1 (by with_reducible assumption) ?_
    with_reducible apply keep_State_warmBoot
    with_reducible assumption
  · extract_lets +onlyGivenNames x4
    refine Keep.cut (P := Keep kq ku x4) ?_ fun h5 => ?_
    · unfold x4
      refine Keep.foldl ?_ ?_
      · with_reducible apply keep_State_readyStep
        refine Keep.eq1 (by with_reducible assumption) ?_
        with_reducible apply keep_State_warmBoot
        with_reducible assumption
      · intro _ _ _
        refine Keep.ite ?_ ?_
        · with_reducible apply keep_State_setFld
          with_reducible assumption
        · with_reducible assumption
    with_reducible apply keep_State_emit
    with_reducible apply keep_State_setBit
    with_reducible assumption

theorem keep_State_warmRequest (s : State) (cause : Nat) (env : WarmEnv) (kh : Keep kq ku s) : Keep kq ku (State.warmRequest s cause env) := by
  unfold State.warmRequest
  refine Keep.ite ?_ ?_
  · with_reducible assumption
  · split
    · with_reducible apply keep_State_warm
      with_reducible assumption
    · with_reducible refine Keep.mk' ?_ rfl rfl rfl rfl (.inl rfl)
      with_reducible assumption
    · with_reducible assumption

theorem keep_execWarmReset (by_ : Writer) (env : WarmEnv) (s : State) (kh : Keep kq ku s) : OKeep kq ku (execWarmReset by_ env s) := by
  unfold execWarmReset
  show Keep _ _ _
  split
  · with_reducible apply keep_State_warmRequest
    with_reducible assumption
  · with_reducible apply keep_State_warmRequest
    with_reducible assumption
  · with_reducible apply keep_State_warmRequest
    with_reducible assumption
  · with_reducible apply keep_State_warmRequest
    with_reducible apply keep_State_fresh
    with_reducible assumption
  · with_reducible apply keep_State_warmRequest
    with_reducible assumption

theorem keep_execCxlReset (port : Fin 3) (env : WarmEnv) (s : State) (kh : Keep kq ku s) : OKeep kq ku (execCxlReset port env s) := by
  unfold execCxlReset
  show Keep _ _ _
  refine Keep.ite ?_ ?_
  · with_reducible apply keep_State_warmRequest
    with_reducible assumption
  · with_reducible assumption

theorem keep_execFuseBurnDone (lo hi : Bool) (s : State) (kh : Keep kq ku s) : OKeep kq ku (execFuseBurnDone lo hi s) := by
  unfold execFuseBurnDone
  show Keep _ _ _
  split
  · with_reducible assumption
  · extract_lets +onlyGivenNames x0
    extract_lets +onlyGivenNames x1
    extract_lets +onlyGivenNames x2
    extract_lets +onlyGivenNames x3
    refine Keep.cut (P := Keep kq ku x3) ?_ fun h4 => ?_
    · unfold x3
      with_reducible apply keep_State_burnBit
      with_reducible refine Keep.mk' ?_ rfl rfl rfl rfl (.inl rfl)
      with_reducible assumption
    extract_lets +onlyGivenNames x5
    refine Keep.cut (P := Keep kq ku x5) ?_ fun h6 => ?_
    · unfold x5
      with_reducible apply keep_State_loadFuses
      with_reducible apply keep_State_setBit
      with_reducible assumption
    extract_lets +onlyGivenNames x7
    refine Keep.cut (P := Keep kq ku x7) ?_ fun h8 => ?_
    · unfold x7
      with_reducible apply keep_State_setFld
      with_reducible assumption
    extract_lets +onlyGivenNames x9
    refine Keep.cut (P := Keep kq ku x9) ?_ fun h10 => ?_
    · unfold x9
      refine Keep.ite ?_ ?_
      · with_reducible apply keep_State_error
        with_reducible assumption
      · with_reducible assumption
    clear_value x1
    split
    · with_reducible apply keep_State_warm
      with_reducible assumption
    · with_reducible assumption

theorem keep_State_discard (s : State) (page : Nat) (kh : Keep kq ku s) : Keep kq ku (State.discard s page) := by
  unfold State.discard
  extract_lets +onlyGivenNames x0
  split
  · with_reducible apply keep_State_setTile
    with_reducible refine Keep.mk' ?_ rfl rfl rfl rfl (.inl rfl)
    with_reducible assumption
  · with_reducible apply keep_State_setBell
    with_reducible assumption
  · with_reducible refine Keep.mk' ?_ rfl rfl rfl rfl (.inl rfl)
    with_reducible assumption
  · with_reducible refine Keep.mk' ?_ rfl rfl rfl rfl (.inl rfl)
    with_reducible assumption
  · with_reducible apply keep_State_endAdmission
    with_reducible assumption
  · with_reducible refine Keep.mk' ?_ rfl rfl rfl rfl (.inl rfl)
    with_reducible assumption
  · with_reducible refine Keep.mk' ?_ rfl rfl rfl rfl (.inl rfl)
    with_reducible assumption
  · with_reducible refine Keep.mk' ?_ rfl rfl rfl rfl (.inl rfl)
    with_reducible assumption
  · with_reducible refine Keep.mk' ?_ rfl rfl rfl rfl (.inl rfl)
    with_reducible assumption
  · with_reducible refine Keep.mk' ?_ rfl rfl rfl rfl (.inl rfl)
    with_reducible assumption
  · with_reducible refine Keep.mk' ?_ rfl rfl rfl rfl (.inl rfl)
    with_reducible assumption
  · with_reducible refine Keep.mk' ?_ rfl rfl rfl rfl (.inl rfl)
    with_reducible assumption
  · with_reducible refine Keep.mk' ?_ rfl rfl rfl rfl (.inl rfl)
    with_reducible assumption
  · with_reducible refine Keep.mk' ?_ rfl rfl rfl rfl (.inl rfl)
    with_reducible assumption
  · with_reducible refine Keep.mk' ?_ rfl rfl rfl rfl (.inl rfl)
    with_reducible assumption
  · with_reducible refine Keep.mk' ?_ rfl rfl rfl rfl (.inl rfl)
    with_reducible assumption
  · with_reducible refine Keep.mk' ?_ rfl rfl rfl rfl (.inl rfl)
    with_reducible assumption
  · with_reducible refine Keep.mk' ?_ rfl rfl rfl rfl (.inl rfl)
    with_reducible assumption
  · with_reducible assumption

theorem keep_State_softReset (s : State) (page : Nat) (kh : Keep kq ku s) : Keep kq ku (State.softReset s page) := by
  have h := keep_State_discard s page kh
  unfold State.softReset
  extract_lets t
  change Keep kq ku t at h
  clear_value t
  refine ⟨h.1, ?_, h.3, h.4, h.5⟩
  dsimp only
  exact keep_Bits_wf _ _

theorem keep_execRstDomainGo (domain : BitVec 5) (s : State) (kh : Keep kq ku s) : OKeep kq ku (execRstDomainGo domain s) := by
  unfold execRstDomainGo
  show Keep _ _ _
  extract_lets +onlyGivenNames x0
  refine Keep.ite ?_ ?_
  · with_reducible apply keep_State_reject
    with_reducible assumption
  · refine Keep.ite ?_ ?_
    · with_reducible apply keep_State_reject
      with_reducible assumption
    · refine Keep.foldl ?_ ?_
      · with_reducible apply keep_State_setFld
        with_reducible assumption
      · intro _ _ _
        with_reducible apply keep_State_softReset
        with_reducible assumption

theorem keep_execWdtKick (stw : Fin 16) (s : State) (kh : Keep kq ku s) : OKeep kq ku (execWdtKick stw s) := by
  unfold execWdtKick
  show Keep _ _ _
  with_reducible refine Keep.mk' ?_ rfl rfl rfl rfl (.inl rfl)
  with_reducible assumption

theorem keep_execWdtExpire (stw : Fin 16) (env : WarmEnv) (s : State) (kh : Keep kq ku s) : OKeep kq ku (execWdtExpire stw env s) := by
  unfold execWdtExpire
  show Keep _ _ _
  extract_lets +onlyGivenNames x0
  extract_lets +onlyGivenNames x1
  extract_lets +onlyGivenNames x2
  refine Keep.ite ?_ ?_
  · with_reducible assumption
  · with_reducible apply keep_State_atBeat
    · with_reducible assumption
    · intro _ _
      extract_lets +onlyGivenNames x3
      extract_lets +onlyGivenNames x4
      refine Keep.cut (P := Keep kq ku x4) ?_ fun h5 => ?_
      · unfold x4
        with_reducible apply keep_State_setBit
        with_reducible refine Keep.mk' ?_ rfl rfl rfl rfl (.inl rfl)
        with_reducible assumption
      extract_lets +onlyGivenNames x6
      refine Keep.cut (P := Keep kq ku x6) ?_ fun h7 => ?_
      · unfold x6
        with_reducible apply keep_State_error
        with_reducible assumption
      refine Keep.ite ?_ ?_
      · with_reducible apply keep_State_warmRequest
        with_reducible assumption
      · with_reducible assumption

theorem keep_execPwrReq (v : Word) (s : State) (kh : Keep kq ku s) : OKeep kq ku (execPwrReq v s) := by
  unfold execPwrReq
  show Keep _ _ _
  extract_lets +onlyGivenNames x0
  extract_lets +onlyGivenNames x1
  extract_lets +onlyGivenNames x2
  subst x2
  refine Keep.ite ?_ ?_
  · with_reducible apply keep_State_reject
    with_reducible assumption
  · refine Keep.ite ?_ ?_
    · with_reducible apply keep_State_reject
      with_reducible assumption
    · refine Keep.ite ?_ ?_
      · with_reducible apply keep_State_reject
        with_reducible assumption
      · refine Keep.foldl ?_ ?_
        · with_reducible apply keep_State_setFld
          with_reducible assumption
        · intro _ _ _
          with_reducible apply keep_State_setDomState
          with_reducible refine Keep.mk' ?_ rfl rfl rfl rfl (.inl rfl)
          with_reducible assumption

theorem keep_State_settleDomain (s : State) (d : Nat) (kh : Keep kq ku s) : Keep kq ku (State.settleDomain s d) := by
  unfold State.settleDomain
  with_reducible refine Keep.mk' ?_ rfl rfl rfl rfl (.inl rfl)
  with_reducible assumption

theorem keep_execPwrDomainDone (domain : Fin 20) (s : State) (kh : Keep kq ku s) : OKeep kq ku (execPwrDomainDone domain s) := by
  unfold execPwrDomainDone
  show Keep _ _ _
  extract_lets +onlyGivenNames x0
  refine Keep.ite ?_ ?_
  · with_reducible assumption
  · extract_lets +onlyGivenNames x1
    refine Keep.cut (P := Keep kq ku x1) ?_ fun h2 => ?_
    · unfold x1
      with_reducible apply keep_State_settleDomain
      with_reducible assumption
    split
    · with_reducible apply keep_State_domainOn
      with_reducible assumption
    · with_reducible apply keep_State_domainOff
      with_reducible assumption
    · with_reducible apply keep_State_setDomState
      with_reducible assumption

theorem keep_execSwitchFail (domain : Fin 20) (s : State) (kh : Keep kq ku s) : OKeep kq ku (execSwitchFail domain s) := by
  unfold execSwitchFail
  show Keep _ _ _
  split
  · with_reducible assumption
  · with_reducible apply keep_State_atBeat
    · with_reducible assumption
    · intro _ _
      with_reducible apply keep_State_recordError
      with_reducible apply keep_State_settleDomain
      with_reducible assumption

theorem keep_execPowerEstimate (watts : Nat) (s : State) (kh : Keep kq ku s) : OKeep kq ku (execPowerEstimate watts s) := by
  unfold execPowerEstimate
  show Keep _ _ _
  extract_lets +onlyGivenNames x0
  extract_lets +onlyGivenNames x1
  extract_lets +onlyGivenNames x2
  extract_lets +onlyGivenNames x3
  refine Keep.cut (P := Keep kq ku x3) ?_ fun h4 => ?_
  · unfold x3
    with_reducible apply keep_State_setFld
    with_reducible assumption
  extract_lets +onlyGivenNames x5
  refine Keep.cut (P := Keep kq ku x5) ?_ fun h6 => ?_
  · unfold x5
    refine Keep.ite ?_ ?_
    · with_reducible apply keep_State_addSat
      with_reducible assumption
    · with_reducible assumption
  refine Keep.ite ?_ ?_
  · with_reducible assumption
  · with_reducible apply keep_State_error
    with_reducible apply keep_State_setFld
    with_reducible assumption

theorem keep_State_setGated (s : State) (q : Nat) (on : Bool) (kh : Keep kq ku s) : Keep kq ku (State.setGated s q on) := by
  unfold State.setGated
  with_reducible apply keep_State_setBit
  with_reducible assumption

theorem keep_execQuadClockGate (quad : Fin 16) (s : State) (kh : Keep kq ku s) : OKeep kq ku (execQuadClockGate quad s) := by
  unfold execQuadClockGate
  show Keep _ _ _
  refine Keep.ite ?_ ?_
  · with_reducible apply keep_State_setGated
    with_reducible assumption
  · with_reducible assumption

theorem keep_execQuadClockRestart (quad : Fin 16) (s : State) (kh : Keep kq ku s) : OKeep kq ku (execQuadClockRestart quad s) := by
  unfold execQuadClockRestart
  show Keep _ _ _
  with_reducible apply keep_State_setGated
  with_reducible assumption

theorem keep_State_noteSensor (s : State) (i : Nat) (ts : List Int) (kh : Keep kq ku s) : Keep kq ku (State.noteSensor s i ts) := by
  unfold State.noteSensor
  extract_lets +onlyGivenNames x0
  extract_lets +onlyGivenNames x1
  split
  · refine Keep.ite ?_ ?_
    · with_reducible assumption
    · with_reducible refine Keep.mk' ?_ rfl rfl rfl rfl (.inl rfl)
      with_reducible assumption
  · with_reducible refine Keep.mk' ?_ rfl rfl rfl rfl (.inl rfl)
    with_reducible assumption

theorem keep_State_carTemp (s : State) (ts : List Int) (kh : Keep kq ku s) : Keep kq ku (State.carTemp s ts) := by
  unfold State.carTemp
  split
  · refine Keep.ite ?_ ?_
    · with_reducible assumption
    · extract_lets +onlyGivenNames x0
      refine Keep.cut (P := Keep kq ku x0) ?_ fun h1 => ?_
      · unfold x0
        with_reducible apply keep_State_setFld
        with_reducible assumption
      extract_lets +onlyGivenNames x2
      extract_lets +onlyGivenNames x3
      refine Keep.ite ?_ ?_
      · with_reducible assumption
      · with_reducible apply keep_State_error
        with_reducible apply keep_State_setFld
        with_reducible assumption
  · with_reducible assumption

theorem keep_State_thermWarn (s : State) (max_ : Int) (kh : Keep kq ku s) : Keep kq ku (State.thermWarn s max_) := by
  unfold State.thermWarn
  extract_lets +onlyGivenNames x0
  extract_lets +onlyGivenNames x1
  refine Keep.cut (P := Keep kq ku x1) ?_ fun h2 => ?_
  · unfold x1
    refine Keep.ite ?_ ?_
    · with_reducible apply keep_State_setBit
      with_reducible assumption
    · with_reducible assumption
  refine Keep.ite ?_ ?_
  · refine Keep.ite ?_ ?_
    · with_reducible apply keep_State_setBit
      with_reducible refine Keep.mk' ?_ rfl rfl rfl rfl (.inl rfl)
      with_reducible assumption
    · with_reducible assumption
  · refine Keep.ite ?_ ?_
    · with_reducible apply keep_State_error
      with_reducible apply keep_State_setBit
      with_reducible refine Keep.mk' ?_ rfl rfl rfl rfl (.inl rfl)
      with_reducible assumption
    · with_reducible assumption

theorem keep_State_quadThrottles (s : State) (ts : List Int) (kh : Keep kq ku s) : Keep kq ku (State.quadThrottles s ts) := by
  unfold State.quadThrottles
  extract_lets +onlyGivenNames x0
  refine Keep.foldl ?_ ?_
  · with_reducible assumption
  · intro _ _ _
    extract_lets +onlyGivenNames x1
    extract_lets +onlyGivenNames x2
    refine Keep.ite ?_ ?_
    · refine Keep.ite ?_ ?_
      · with_reducible apply keep_State_setBit
        with_reducible assumption
      · with_reducible assumption
    · refine Keep.ite ?_ ?_
      · with_reducible apply keep_State_error
        with_reducible apply keep_State_setBit
        with_reducible assumption
      · with_reducible assumption

theorem keep_State_thermTrip (s : State) (ts : List Int) (kh : Keep kq ku s) : Keep kq ku (State.thermTrip s ts) := by
  unfold State.thermTrip
  refine Keep.ite ?_ ?_
  · with_reducible assumption
  · extract_lets +onlyGivenNames x0
    extract_lets +onlyGivenNames x1
    refine Keep.cut (P := Keep kq ku x1) ?_ fun h2 => ?_
    · unfold x1
      with_reducible apply keep_State_setBit
      with_reducible refine Keep.mk' ?_ rfl rfl rfl rfl (.inl rfl)
      with_reducible assumption
    extract_lets +onlyGivenNames x3
    refine Keep.cut (P := Keep kq ku x3) ?_ fun h4 => ?_
    · unfold x3
      with_reducible apply keep_State_error
      with_reducible assumption
    refine Keep.ite ?_ ?_
    · with_reducible assumption
    · refine Keep.ite ?_ ?_
      · with_reducible apply keep_State_enterSafe
        with_reducible assumption
      · with_reducible apply keep_State_goDown
        with_reducible apply keep_State_setFld
        with_reducible assumption

theorem keep_execThrmSample (temps : List (BitVec 8)) (s : State) (kh : Keep kq ku s) : OKeep kq ku (execThrmSample temps s) := by
  unfold execThrmSample
  refine OKeep.ite ?_ ?_
  · exact trivial
  · show Keep _ _ _
    extract_lets +onlyGivenNames x0
    extract_lets +onlyGivenNames x1
    refine Keep.cut (P := Keep kq ku x1) ?_ fun h2 => ?_
    · unfold x1
      refine Keep.foldl ?_ ?_
      · with_reducible assumption
      · intro _ _ _
        with_reducible apply keep_State_setFld
        with_reducible assumption
    extract_lets +onlyGivenNames x3
    refine Keep.cut (P := Keep kq ku x3) ?_ fun h4 => ?_
    · unfold x3
      refine Keep.foldl ?_ ?_
      · with_reducible assumption
      · intro _ _ _
        with_reducible apply keep_State_noteSensor
        with_reducible assumption
    extract_lets +onlyGivenNames x5
    extract_lets +onlyGivenNames x6
    refine Keep.cut (P := Keep kq ku x6) ?_ fun h7 => ?_
    · unfold x6
      refine Keep.foldl ?_ ?_
      · with_reducible assumption
      · intro _ _ _
        with_reducible apply keep_State_error
        with_reducible assumption
    extract_lets +onlyGivenNames x8
    refine Keep.cut (P := Keep kq ku x8) ?_ fun h9 => ?_
    · unfold x8
      split
      · with_reducible apply keep_State_thermWarn
        with_reducible apply keep_State_setFld
        with_reducible apply keep_State_setFld
        with_reducible assumption
      · with_reducible assumption
    with_reducible apply keep_State_thermTrip
    with_reducible apply keep_State_quadThrottles
    with_reducible apply keep_State_carTemp
    with_reducible assumption

theorem keep_State_railSample (s : State) (i mv : Nat) (kh : Keep kq ku s) : Keep kq ku (State.railSample s i mv).1 := by
  unfold State.railSample
  split
  · with_reducible assumption
  · extract_lets +onlyGivenNames x0
    extract_lets +onlyGivenNames x1
    extract_lets +onlyGivenNames x2
    extract_lets +onlyGivenNames x3
    extract_lets +onlyGivenNames x4
    extract_lets +onlyGivenNames x5
    extract_lets +onlyGivenNames x6
    extract_lets +onlyGivenNames x7
    refine Keep.cut (P := Keep kq ku x7) ?_ fun h8 => ?_
    · unfold x7
      with_reducible refine Keep.mk' ?_ rfl rfl rfl rfl (.inl rfl)
      with_reducible assumption
    dsimp -zeta only
    with_reducible apply keep_State_setBit
    with_reducible apply keep_State_setBit
    with_reducible assumption

theorem keep_State_nvLost (s : State) (kh : Keep kq ku s) : Keep kq ku (State.nvLost s) := by
  unfold State.nvLost
  extract_lets +onlyGivenNames x0
  refine Keep.cut (P := Keep kq ku x0) ?_ fun h1 => ?_
  · unfold x0
    with_reducible apply keep_State_error
    with_reducible assumption
  refine Keep.ite ?_ ?_
  · with_reducible apply keep_State_error
    with_reducible apply keep_State_endFlash
    with_reducible assumption
  · with_reducible assumption

theorem keep_State_burnLost (s : State) (kh : Keep kq ku s) : Keep kq ku (State.burnLost s) := by
  unfold State.burnLost
  split
  · refine Keep.ite ?_ ?_
    · with_reducible assumption
    · with_reducible apply keep_State_error
      with_reducible refine Keep.mk' ?_ rfl rfl rfl rfl (.inl rfl)
      with_reducible assumption
  · with_reducible assumption

theorem keep_State_nvSample (s : State) (base io vpp : Nat) (kh : Keep kq ku s) : Keep kq ku (State.nvSample s base io vpp) := by
  unfold State.nvSample
  extract_lets +onlyGivenNames x0
  extract_lets +onlyGivenNames x1
  extract_lets +onlyGivenNames x2
  extract_lets +onlyGivenNames x3
  extract_lets +onlyGivenNames x4
  extract_lets +onlyGivenNames x5
  extract_lets +onlyGivenNames x6
  refine Keep.cut (P := Keep kq ku x6) ?_ fun h7 => ?_
  · unfold x6
    with_reducible refine Keep.mk' ?_ rfl rfl rfl rfl (.inl rfl)
    with_reducible assumption
  extract_lets +onlyGivenNames x8
  refine Keep.cut (P := Keep kq ku x8) ?_ fun h9 => ?_
  · unfold x8
    with_reducible apply keep_State_setBit
    with_reducible apply keep_State_setBit
    with_reducible assumption
  extract_lets +onlyGivenNames x10
  refine Keep.cut (P := Keep kq ku x10) ?_ fun h11 => ?_
  · unfold x10
    refine Keep.ite ?_ ?_
    · with_reducible apply keep_State_nvLost
      with_reducible assumption
    · with_reducible assumption
  refine Keep.ite ?_ ?_
  · with_reducible apply keep_State_burnLost
    with_reducible assumption
  · with_reducible assumption

theorem keep_execSupvSample (mv : List Nat) (s : State) (kh : Keep kq [] s) : OKeep kq [] (execSupvSample mv s) := by
  unfold execSupvSample
  refine OKeep.ite ?_ ?_
  · exact trivial
  · show Keep _ _ _
    refine Keep.ite ?_ ?_
    · with_reducible assumption
    · extract_lets +onlyGivenNames x0
      refine Keep.cut (P := Keep kq [] x0) ?_ fun h1 => ?_
      · unfold x0
        refine Keep.foldl ?_ ?_
        · with_reducible assumption
        · intro _ _ _
          with_reducible apply keep_State_wr
          with_reducible assumption
      extract_lets +onlyGivenNames x2
      refine Keep.cut (P := Keep kq [] x2.1) ?_ fun h3 => ?_
      · unfold x2
        refine Keep.foldl1 ?_ ?_
        · with_reducible assumption
        · intro _ _ _
          extract_lets +onlyGivenNames x4
          refine Keep.cut (P := Keep kq [] x4.1) ?_ fun h5 => ?_
          · unfold x4
            with_reducible apply keep_State_railSample
            with_reducible assumption
          with_reducible assumption
      extract_lets +onlyGivenNames x6
      refine Keep.cut (P := Keep kq [] x6) ?_ fun h7 => ?_
      · unfold x6
        with_reducible assumption
      refine Keep.ite ?_ ?_
      · with_reducible apply keep_State_setCause
        with_reducible apply keep_State_blank
        with_reducible assumption
      · refine Keep.ite ?_ ?_
        · with_reducible apply keep_State_setCause
          with_reducible apply keep_State_blank
          with_reducible assumption
        · extract_lets +onlyGivenNames x8
          extract_lets +onlyGivenNames x9
          refine Keep.cut (P := Keep kq [] x9) ?_ fun h10 => ?_
          · unfold x9
            with_reducible apply keep_State_setFld
            with_reducible assumption
          extract_lets +onlyGivenNames x11
          refine Keep.cut (P := Keep kq [] x11) ?_ fun h12 => ?_
          · unfold x11
            with_reducible apply keep_State_nvSample
            with_reducible assumption
          extract_lets +onlyGivenNames x13
          refine Keep.cut (P := Keep kq [] x13) ?_ fun h14 => ?_
          · unfold x13
            refine Keep.foldl ?_ ?_
            · with_reducible assumption
            · intro _ _ _
              with_reducible apply keep_State_error
              with_reducible assumption
          refine Keep.foldl ?_ ?_
          · with_reducible assumption
          · intro _ _ _
            with_reducible apply keep_State_error
            with_reducible assumption

theorem keep_execI3cDaa (addr : BitVec 7) (s : State) (kh : Keep kq ku s) : OKeep kq ku (execI3cDaa addr s) := by
  unfold execI3cDaa
  show Keep _ _ _
  refine Keep.ite ?_ ?_
  · with_reducible apply keep_State_setBit
    with_reducible apply keep_State_setFld
    with_reducible assumption
  · with_reducible assumption

theorem keep_stateAfter (s : State) (o : Out) (h : Keep kq ku s) (ho : OKeep kq ku o) : Keep kq ku (stateAfter s o) := by
  unfold stateAfter
  split
  · exact ho
  · exact h

theorem keep_State_storeFields (s : State) (page off v : Nat) (kh : Keep kq ku s) : Keep kq ku (State.storeFields s page off v) := by
  unfold State.storeFields
  extract_lets +onlyGivenNames x0
  extract_lets +onlyGivenNames x1
  extract_lets +onlyGivenNames x2
  refine Keep.cut (P := Keep kq ku x2) ?_ fun h3 => ?_
  · unfold x2
    with_reducible apply keep_State_wr
    with_reducible assumption
  refine Keep.ite ?_ ?_
  · with_reducible assumption
  · extract_lets +onlyGivenNames x4
    extract_lets +onlyGivenNames x5
    refine Keep.cut (P := Keep kq ku x5) ?_ fun h6 => ?_
    · unfold x5
      with_reducible refine Keep.mk' ?_ rfl rfl rfl rfl (.inl rfl)
      with_reducible assumption
    refine Keep.ite ?_ ?_
    · with_reducible assumption
    · with_reducible apply keep_State_applyStaged
      with_reducible assumption

theorem keep_State_ctrlWritten (s : State) (page : Nat) (was : Bool) (v : Nat) (kh : Keep kq ku s) : Keep kq ku (State.ctrlWritten s page was v) := by
  unfold State.ctrlWritten
  extract_lets +onlyGivenNames x0
  refine Keep.cut (P := Keep kq ku x0) ?_ fun h1 => ?_
  · unfold x0
    refine Keep.ite ?_ ?_
    · with_reducible apply keep_State_applyStaged
      with_reducible apply keep_State_setBit
      with_reducible assumption
    · with_reducible assumption
  extract_lets +onlyGivenNames x2
  refine Keep.cut (P := Keep kq ku x2) ?_ fun h3 => ?_
  · unfold x2
    refine Keep.ite ?_ ?_
    · with_reducible apply keep_State_applyStaged
      with_reducible assumption
    · with_reducible assumption
  extract_lets +onlyGivenNames x4
  refine Keep.cut (P := Keep kq ku x4) ?_ fun h5 => ?_
  · unfold x4
    refine Keep.ite ?_ ?_
    · with_reducible apply keep_State_softReset
      with_reducible assumption
    · with_reducible assumption
  refine Keep.ite ?_ ?_
  · refine Keep.foldl ?_ ?_
    · with_reducible assumption
    · intro _ _ _
      with_reducible apply keep_State_settleRing
      with_reducible assumption
  · with_reducible assumption

theorem keep_State_forceSources (s : State) (page v : Nat) (kh : Keep kq ku s) : Keep kq ku (State.forceSources s page v) := by
  unfold State.forceSources
  refine Keep.foldl ?_ ?_
  · with_reducible assumption
  · intro _ _ _
    refine Keep.ite ?_ ?_
    · with_reducible apply keep_State_detect
      with_reducible apply keep_State_forcedArg
      with_reducible assumption
    · with_reducible assumption

theorem keep_State_headerActions (s : State) (page off v : Nat) (was : Bool) (kh : Keep kq ku s) : Keep kq ku (State.headerActions s page off v was) := by
  unfold State.headerActions
  refine Keep.ite ?_ ?_
  · with_reducible apply keep_State_ctrlWritten
    with_reducible assumption
  · refine Keep.ite ?_ ?_
    · with_reducible apply keep_State_forceSources
      with_reducible assumption
    · refine Keep.ite ?_ ?_
      · refine Keep.ite ?_ ?_
        · with_reducible apply keep_State_setFld
          with_reducible assumption
        · with_reducible assumption
      · refine Keep.ite ?_ ?_
        · refine Keep.foldl ?_ ?_
          · with_reducible assumption
          · intro _ _ _
            with_reducible apply keep_State_setFld
            with_reducible assumption
        · with_reducible assumption

theorem keep_State_blockActions (s : State) (by_ : Writer) (page off v old : Nat) (kh : Keep kq ku s) : Keep kq ku (State.blockActions s by_ page off v old) := by
  unfold State.blockActions
  extract_lets +onlyGivenNames x0
  extract_lets +onlyGivenNames x1
  extract_lets +onlyGivenNames x2
  split
  · refine Keep.ite ?_ ?_
    · with_reducible apply keep_stateAfter
      · with_reducible assumption
      · with_reducible apply keep_execRelease
        with_reducible assumption
    · with_reducible assumption
  · refine Keep.ite ?_ ?_
    · with_reducible apply keep_stateAfter
      · with_reducible assumption
      · with_reducible apply keep_execWarmReset
        with_reducible apply keep_State_fresh
        with_reducible assumption
    · refine Keep.ite ?_ ?_
      · with_reducible apply keep_State_setBit
        with_reducible assumption
      · with_reducible assumption
  · refine Keep.ite ?_ ?_
    · with_reducible apply keep_stateAfter
      · with_reducible assumption
      · with_reducible apply keep_execSecQuoteGo
        with_reducible assumption
    · refine Keep.ite ?_ ?_
      · with_reducible apply keep_stateAfter
        · with_reducible assumption
        · with_reducible apply keep_execSecExtendGo
          with_reducible assumption
      · with_reducible assumption
  · refine Keep.ite ?_ ?_
    · with_reducible apply keep_stateAfter
      · with_reducible assumption
      · with_reducible apply keep_execHphyStep
        with_reducible apply keep_State_fresh
        with_reducible assumption
    · with_reducible assumption
  · refine Keep.ite ?_ ?_
    · with_reducible apply keep_stateAfter
      · with_reducible assumption
      · with_reducible apply keep_execDbgRecovGo
        with_reducible apply keep_State_fresh
        with_reducible assumption
    · with_reducible assumption
  · refine Keep.ite ?_ ?_
    · with_reducible apply keep_stateAfter
      · with_reducible assumption
      · with_reducible apply keep_execHistClear
        with_reducible assumption
    · refine Keep.ite ?_ ?_
      · with_reducible apply keep_stateAfter
        · with_reducible assumption
        · with_reducible apply keep_execPoolHwmClear
          with_reducible assumption
      · refine Keep.ite ?_ ?_
        · with_reducible apply keep_stateAfter
          · with_reducible assumption
          · with_reducible apply keep_execWatchClear
            with_reducible assumption
        · with_reducible assumption
  · refine Keep.ite ?_ ?_
    · with_reducible apply keep_stateAfter
      · with_reducible assumption
      · with_reducible apply keep_execTimeSnapTake
        with_reducible assumption
    · refine Keep.ite ?_ ?_
      · extract_lets +onlyGivenNames x3
        extract_lets +onlyGivenNames x4
        refine Keep.cut (P := Keep kq ku x4) ?_ fun h5 => ?_
        · unfold x4
          refine Keep.ite ?_ ?_
          · with_reducible refine Keep.mk' ?_ rfl rfl rfl rfl (.inl rfl)
            with_reducible assumption
          · with_reducible assumption
        refine Keep.ite ?_ ?_
        · with_reducible refine Keep.mk' ?_ rfl rfl rfl rfl (.inl rfl)
          with_reducible assumption
        · with_reducible assumption
      · with_reducible assumption
  · refine Keep.ite ?_ ?_
    · with_reducible apply keep_stateAfter
      · with_reducible assumption
      · with_reducible apply keep_execFastLatClear
        with_reducible assumption
    · with_reducible assumption
  · refine Keep.ite ?_ ?_
    · with_reducible apply keep_State_restartRing
      with_reducible assumption
    · with_reducible assumption
  · refine Keep.ite ?_ ?_
    · with_reducible apply keep_stateAfter
      · with_reducible assumption
      · with_reducible apply keep_execWdtKick
        with_reducible assumption
    · with_reducible assumption
  · with_reducible assumption

theorem keep_State_wholeAction (s : State) (page off : Nat) (v : Word) (kh : Keep kq ku s) : PKeep kq ku (State.wholeAction s page off v) := by
  unfold State.wholeAction
  extract_lets +onlyGivenNames x0
  extract_lets +onlyGivenNames x1
  split
  · refine PKeep.ite ?_ ?_
    · show Keep _ _ _
      refine Keep.foldl ?_ ?_
      · with_reducible assumption
      · intro _ _ _
        refine Keep.ite ?_ ?_
        · with_reducible apply keep_stateAfter
          · with_reducible assumption
          · with_reducible apply keep_execGlbLgrpBind
            with_reducible assumption
        · with_reducible assumption
    · exact trivial
  · refine PKeep.ite ?_ ?_
    · show Keep _ _ _
      with_reducible apply keep_stateAfter
      · with_reducible assumption
      · with_reducible apply keep_execHmc0ZoneWrite
        with_reducible assumption
    · exact trivial
  · refine PKeep.ite ?_ ?_
    · show Keep _ _ _
      with_reducible apply keep_stateAfter
      · with_reducible assumption
      · with_reducible apply keep_execFuseProgGo
        with_reducible assumption
    · exact trivial
  · refine PKeep.ite ?_ ?_
    · show Keep _ _ _
      with_reducible apply keep_stateAfter
      · with_reducible assumption
      · with_reducible apply keep_execXspiCmdGo
        with_reducible assumption
    · exact trivial
  · refine PKeep.ite ?_ ?_
    · show Keep _ _ _
      with_reducible apply keep_stateAfter
      · with_reducible assumption
      · with_reducible apply keep_execRstDomainGo
        with_reducible assumption
    · exact trivial
  · refine PKeep.ite ?_ ?_
    · show Keep _ _ _
      with_reducible apply keep_stateAfter
      · with_reducible assumption
      · with_reducible apply keep_execDbg1500Go
        with_reducible assumption
    · refine PKeep.ite ?_ ?_
      · show Keep _ _ _
        with_reducible apply keep_State_wr
        with_reducible assumption
      · exact trivial
  · refine PKeep.ite ?_ ?_
    · show Keep _ _ _
      with_reducible apply keep_stateAfter
      · with_reducible assumption
      · with_reducible apply keep_execBatqCons
        with_reducible assumption
    · exact trivial
  · refine PKeep.ite ?_ ?_
    · show Keep _ _ _
      with_reducible apply keep_stateAfter
      · with_reducible assumption
      · with_reducible apply keep_execTimeCuePost
        with_reducible assumption
    · exact trivial
  · exact trivial

theorem keep_State_applyWrite (s : State) (by_ : Writer) (page off : Nat) (v : Word) (kh : Keep kq ku s) : Keep kq ku (State.applyWrite s by_ page off v) := by
  unfold State.applyWrite
  split
  · refine PKeep.eq (by with_reducible assumption) ?_
    with_reducible apply keep_State_wholeAction
    with_reducible assumption
  · extract_lets +onlyGivenNames x0
    extract_lets +onlyGivenNames x1
    extract_lets +onlyGivenNames x2
    refine Keep.cut (P := Keep kq ku x2) ?_ fun h3 => ?_
    · unfold x2
      with_reducible apply keep_State_storeFields
      with_reducible assumption
    refine Keep.ite ?_ ?_
    · with_reducible apply keep_State_headerActions
      with_reducible assumption
    · with_reducible apply keep_State_blockActions
      with_reducible assumption

theorem keep_State_refuseWrite (s : State) (page off cause : Nat) (v : Nat) (kh : Keep kq ku s) : Keep kq ku (State.refuseWrite s page off cause v) := by
  unfold State.refuseWrite
  extract_lets +onlyGivenNames x0
  refine Keep.cut (P := Keep kq ku x0) ?_ fun h1 => ?_
  · unfold x0
    with_reducible apply keep_State_reject
    with_reducible assumption
  refine Keep.ite ?_ ?_
  · with_reducible apply keep_State_error
    with_reducible apply keep_State_setFld
    with_reducible assumption
  · with_reducible assumption

theorem keep_State_writeReg (s : State) (by_ : Writer) (page off bytes : Nat) (v : Word) (kh : Keep kq ku s) : Keep kq ku (State.writeReg s by_ page off bytes v) := by
  unfold State.writeReg
  refine Keep.ite ?_ ?_
  · with_reducible assumption
  · refine Keep.ite ?_ ?_
    · with_reducible apply keep_State_reject
      with_reducible assumption
    · refine Keep.ite ?_ ?_
      · with_reducible apply keep_stateAfter
        · with_reducible assumption
        · with_reducible apply keep_execPwrReq
          with_reducible assumption
      · split
        · with_reducible apply keep_State_refuseWrite
          with_reducible assumption
        · with_reducible apply keep_State_applyWrite
          with_reducible assumption

theorem keep_execRegWrite (by_ : Writer) (port : Fin 3) (page : Fin 512) (off : Fin 4096) (bytes : Nat) (v : Word) (s : State) (kh : Keep kq ku s) : OKeep kq ku (execRegWrite by_ port page off bytes v s) := by
  unfold execRegWrite
  show Keep _ _ _
  split
  · refine Keep.ite ?_ ?_
    · with_reducible apply keep_State_writeReg
      with_reducible assumption
    · refine Keep.ite ?_ ?_
      · with_reducible apply keep_State_error
        with_reducible assumption
      · with_reducible assumption
  · refine Keep.ite ?_ ?_
    · with_reducible assumption
    · refine Keep.ite ?_ ?_
      · with_reducible apply keep_State_writeReg
        with_reducible assumption
      · with_reducible apply keep_State_error
        with_reducible assumption
  · refine Keep.ite ?_ ?_
    · with_reducible apply keep_State_writeReg
      with_reducible assumption
    · with_reducible assumption
  · with_reducible apply keep_State_writeReg
    with_reducible assumption
  · with_reducible apply keep_State_writeReg
    with_reducible assumption

theorem keep_execEnable (page : Fin 512) (on : Bool) (s : State) (kh : Keep kq ku s) : OKeep kq ku (execEnable page on s) := by
  unfold execEnable
  show Keep _ _ _
  with_reducible apply keep_State_writeReg
  with_reducible assumption

theorem keep_execBlockDrained (page : Fin 512) (s : State) (kh : Keep kq ku s) : OKeep kq ku (execBlockDrained page s) := by
  unfold execBlockDrained
  show Keep _ _ _
  refine Keep.ite ?_ ?_
  · with_reducible assumption
  · with_reducible apply keep_State_setBit
    with_reducible assumption

theorem keep_execSreset (page : Fin 512) (s : State) (kh : Keep kq ku s) : OKeep kq ku (execSreset page s) := by
  unfold execSreset
  show Keep _ _ _
  with_reducible apply keep_State_writeReg
  with_reducible assumption

theorem keep_execSresetDone (page : Fin 512) (s : State) (kh : Keep kq ku s) : OKeep kq ku (execSresetDone page s) := by
  unfold execSresetDone
  show Keep _ _ _
  extract_lets +onlyGivenNames x0
  extract_lets +onlyGivenNames x1
  refine Keep.ite ?_ ?_
  · with_reducible apply keep_State_setBit
    with_reducible assumption
  · with_reducible assumption

theorem keep_execShdApply (page : Fin 512) (s : State) (kh : Keep kq ku s) : OKeep kq ku (execShdApply page s) := by
  unfold execShdApply
  show Keep _ _ _
  with_reducible apply keep_State_writeReg
  with_reducible assumption

theorem keep_execCueArm (page : Fin 512) (arm : Bool) (sel : Fin 32) (s : State) (kh : Keep kq ku s) : OKeep kq ku (execCueArm page arm sel s) := by
  unfold execCueArm
  show Keep _ _ _
  with_reducible apply keep_State_writeReg
  with_reducible assumption

theorem keep_execErrForce (page : Fin 512) (bits : BitVec 32) (s : State) (kh : Keep kq ku s) : OKeep kq ku (execErrForce page bits s) := by
  unfold execErrForce
  show Keep _ _ _
  with_reducible apply keep_State_writeReg
  with_reducible assumption

theorem keep_execPerfClear (page : Fin 512) (i : Fin 9) (s : State) (kh : Keep kq ku s) : OKeep kq ku (execPerfClear page i s) := by
  unfold execPerfClear
  extract_lets +onlyGivenNames x0
  show Keep _ _ _
  with_reducible apply keep_State_writeReg
  with_reducible assumption

theorem keep_execPerfClearAll (page : Fin 512) (s : State) (kh : Keep kq ku s) : OKeep kq ku (execPerfClearAll page s) := by
  unfold execPerfClearAll
  show Keep _ _ _
  with_reducible apply keep_State_writeReg
  with_reducible assumption

theorem keep_execI3cWrite (bytes : List Byte) (s : State) (kh : Keep kq ku s) : OKeep kq ku (execI3cWrite bytes s) := by
  unfold execI3cWrite
  show Keep _ _ _
  extract_lets +onlyGivenNames x0
  refine Keep.ite ?_ ?_
  · with_reducible assumption
  · refine Keep.ite ?_ ?_
    · with_reducible apply keep_State_error
      with_reducible assumption
    · extract_lets +onlyGivenNames x1
      refine Keep.cut (P := Keep kq ku x1) ?_ fun h2 => ?_
      · unfold x1
        with_reducible apply keep_State_addWrap
        with_reducible assumption
      refine Keep.ite ?_ ?_
      · with_reducible assumption
      · refine Keep.ite ?_ ?_
        · with_reducible apply keep_State_writeReg
          with_reducible assumption
        · with_reducible apply keep_State_error
          with_reducible assumption

theorem keep_execI3cRead (addr : List Byte) (s : State) (kh : Keep kq ku s) : OKeep kq ku (execI3cRead addr s) := by
  unfold execI3cRead
  show Keep _ _ _
  extract_lets +onlyGivenNames x0
  refine Keep.ite ?_ ?_
  · with_reducible assumption
  · refine Keep.ite ?_ ?_
    · with_reducible apply keep_State_error
      with_reducible assumption
    · extract_lets +onlyGivenNames x1
      refine Keep.cut (P := Keep kq ku x1) ?_ fun h2 => ?_
      · unfold x1
        with_reducible apply keep_State_addWrap
        with_reducible assumption
      refine Keep.ite ?_ ?_
      · with_reducible assumption
      · extract_lets +onlyGivenNames x3
        extract_lets +onlyGivenNames x4
        refine Keep.cut (P := Keep kq ku x4) ?_ fun h5 => ?_
        · unfold x4
          with_reducible refine Keep.mk' ?_ rfl rfl rfl rfl (.inl rfl)
          with_reducible assumption
        with_reducible apply keep_State_emit
        with_reducible assumption

theorem keep_execSidebandAccess (link : Fin 3) (req : SbReq) (s : State) (kh : Keep kq ku s) : OKeep kq ku (execSidebandAccess link req s) := by
  unfold execSidebandAccess
  show Keep _ _ _
  refine Keep.ite ?_ ?_
  · with_reducible assumption
  · split
    · with_reducible apply keep_State_writeReg
      with_reducible assumption
    · extract_lets +onlyGivenNames x0
      with_reducible refine Keep.mk' ?_ rfl rfl rfl rfl (.inl rfl)
      with_reducible assumption
    · with_reducible apply keep_State_emit
      with_reducible assumption
    · with_reducible apply keep_State_wr
      with_reducible assumption

end Sys2Proof.Machine
end

