-- ==== Sys2Proof/Laws/Lanes.lean ====
section
/-!
SUPPORT. The laws of elements of vector registers: what packing and a masked write give at each element.
-/

namespace Sys2Proof.Machine

theorem pack_succ (w n : Nat) (f : Nat → Nat) : pack w (n + 1) f = pack w n f + f n % 2 ^ w * 2 ^ (w * n) := by
  have h : ∀ (l : List Nat) (a : Nat), l.foldr (fun j acc => acc + f j % 2 ^ w * 2 ^ (w * j)) a =
      l.foldr (fun j acc => acc + f j % 2 ^ w * 2 ^ (w * j)) 0 + a := by
    intro l a
    induction l with
    | nil => simp
    | cons x l ih => simp only [List.foldr_cons]; rw [ih]; omega
  unfold pack
  rw [List.range_succ, List.foldr_append, h]
  simp

theorem pack_lt (w n : Nat) (f : Nat → Nat) : pack w n f < 2 ^ (w * n) := by
  induction n with
  | zero => simp [pack]
  | succ n ih =>
    rw [pack_succ, Nat.mul_succ, Nat.add_comm (w * n) w, pow_add]
    have : f n % 2 ^ w + 1 ≤ 2 ^ w := Nat.mod_lt _ (Nat.two_pow_pos _)
    calc pack w n f + f n % 2 ^ w * 2 ^ (w * n) < 2 ^ (w * n) + f n % 2 ^ w * 2 ^ (w * n) := by omega
      _ = (f n % 2 ^ w + 1) * 2 ^ (w * n) := by ring
      _ ≤ 2 ^ w * 2 ^ (w * n) := Nat.mul_le_mul_right _ this

/-- An element of packed elements. -/
theorem elem_pack (w n : Nat) (f : Nat → Nat) {j : Nat} (h : j < n) : elem (pack w n f) w j = f j % 2 ^ w := by
  induction n with
  | zero => omega
  | succ n ih =>
    rw [pack_succ]
    unfold elem
    by_cases hj : j = n
    · subst hj
      rw [Nat.add_mul_div_right _ _ (Nat.two_pow_pos _), Nat.div_eq_of_lt (pack_lt w j f), Nat.zero_add, Nat.mod_mod]
    · have hlt : j < n := by omega
      have e : f n % 2 ^ w * 2 ^ (w * n) = 2 ^ (w * j) * (2 ^ w * (f n % 2 ^ w * 2 ^ (w * (n - j - 1)))) := by
        have : w * n = w * j + (w + w * (n - j - 1)) := by
          obtain ⟨k, rfl⟩ : ∃ k, n = j + 1 + k := ⟨n - j - 1, by omega⟩
          rw [show j + 1 + k - j - 1 = k by omega]; ring
        rw [this, pow_add, pow_add]; ring
      rw [e, Nat.add_mul_div_left _ _ (Nat.two_pow_pos _), Nat.add_mul_mod_self_left]
      exact ih hlt

/-- An element of a register that holds packed elements. -/
theorem elem_ofNat_pack (w n : Nat) (f : Nat → Nat) {j : Nat} (h : j < n) (hw : w * n ≤ 2048) :
    elem (BitVec.ofNat 2048 (pack w n f)).toNat w j = f j % 2 ^ w := by
  rw [BitVec.toNat_ofNat, Nat.mod_eq_of_lt, elem_pack w n f h]
  exact lt_of_lt_of_le (pack_lt w n f) (Nat.pow_le_pow_right (by omega) hw)

theorem elem_lt (x w j : Nat) : elem x w j < 2 ^ w := Nat.mod_lt _ (Nat.two_pow_pos _)

/-- An element after a masked write (R149). -/
theorem elem_lanes (w n mask d : Nat) (f : Nat → Nat × Nat) {j : Nat} (h : j < 2048 / w) (hw : w * (2048 / w) ≤ 2048) :
    elem (BitVec.ofNat 2048 (lanes w n mask d f).1).toNat w j =
      if j < n ∧ mask.testBit j = true then (f j).1 % 2 ^ w else elem d w j := by
  unfold lanes
  simp only
  rw [elem_ofNat_pack _ _ _ h hw]
  simp only [Nat.testBit_eq_decide_div_mod_eq, decide_eq_true_eq, Bool.and_eq_true, beq_iff_eq]
  split
  · rfl
  · exact Nat.mod_eq_of_lt (elem_lt _ _ _)

/-- A flag of a selected element is set by a masked write. -/
theorem flags_lanes (w n mask d : Nat) (f : Nat → Nat × Nat) {j i : Nat} (h : j < n) (hm : mask.testBit j = true)
    (hf : (f j).2.testBit i = true) : (lanes w n mask d f).2.testBit i = true := by
  unfold lanes
  simp only
  have key : ∀ (l : List Nat) (a : Nat), a.testBit i = true ∨ j ∈ l →
      (l.foldl (fun fl j => if (mask / 2 ^ j % 2 == 1) = true then fl ||| (f j).2 else fl) a).testBit i = true := by
    intro l
    induction l with
    | nil => intro a ha; simpa using ha
    | cons x l ih =>
      intro a ha
      simp only [List.foldl_cons]
      apply ih
      rcases ha with ha | ha
      · left; split
        · simp [Nat.testBit_or, ha]
        · exact ha
      · rcases List.mem_cons.1 ha with rfl | ha
        · left
          rw [if_pos]
          · simp [Nat.testBit_or, hf]
          · simpa [Nat.testBit_eq_decide_div_mod_eq] using hm
        · exact .inr ha
  exact key _ _ (.inr (List.mem_range.2 h))

end Sys2Proof.Machine
end

