-- ==== Sys2Proof/Laws/Regs.lean ====
section
/-!
SUPPORT. The laws of the register file: a read after a write, the bits that a field write changes, what counting an
event, joining frames and raising an interrupt change.
-/

namespace Sys2Proof.Machine

theorem regKey_eq {p o p' o' : Nat} (ho : o < 0x1000) (ho' : o' < 0x1000) :
    regKey p o = regKey p' o' ↔ p = p' ∧ o = o' := by
  unfold regKey; omega

/-- A read after a write. -/
theorem State.rd_wr (s : State) (p o p' o' : Nat) (v : Word) :
    (s.wr p o v).rd p' o' = if regKey p' o' = regKey p o then v else s.rd p' o' := by
  simp [State.rd, State.wr, kget_kset]

@[simp] theorem State.rd_wr_self (s : State) (p o : Nat) (v : Word) : (s.wr p o v).rd p o = v := by
  simp [State.rd_wr]

theorem State.rd_wr_ne (s : State) {p o p' o' : Nat} (v : Word) (ho : o < 0x1000) (ho' : o' < 0x1000)
    (h : ¬ (p' = p ∧ o' = o)) : (s.wr p o v).rd p' o' = s.rd p' o' := by
  rw [State.rd_wr, if_neg]; rwa [regKey_eq ho' ho]

theorem testBit_bitsOf (x hi lo i : Nat) :
    (bitsOf x hi lo).testBit i = (decide (i < hi + 1 - lo) && x.testBit (lo + i)) := by
  simp [bitsOf, Nat.testBit_mod_two_pow, Nat.testBit_div_two_pow, Nat.add_comm]

theorem bitsOf_lt (x hi lo : Nat) : bitsOf x hi lo < 2 ^ (hi + 1 - lo) := Nat.mod_lt _ (Nat.two_pow_pos _)

/-- The number that putBits makes: the bits below the field, the new value, the bits above. -/
theorem putBits_number (x hi lo v : Nat) (h : lo ≤ hi) :
    x - bitsOf x hi lo * 2 ^ lo + v % 2 ^ (hi + 1 - lo) * 2 ^ lo =
      2 ^ (hi + 1) * (x / 2 ^ (hi + 1)) + (2 ^ lo * (v % 2 ^ (hi + 1 - lo)) + x % 2 ^ lo) := by
  have e : 2 ^ (hi + 1) = 2 ^ lo * 2 ^ (hi + 1 - lo) := by rw [← pow_add]; congr 1; omega
  unfold bitsOf
  rw [e, ← Nat.div_div_eq_div_mul]
  have h1 := Nat.div_add_mod x (2 ^ lo)
  have h2 := Nat.div_add_mod (x / 2 ^ lo) (2 ^ (hi + 1 - lo))
  generalize 2 ^ lo = a at *
  generalize 2 ^ (hi + 1 - lo) = b at *
  generalize x / a / b = q at *
  generalize x / a % b = r at *
  generalize x % a = t at *
  generalize v % b = u at *
  have h3 : x = a * b * q + r * a + t := by rw [← h1, ← h2]; ring
  rw [h3]
  have : a * b * q + r * a + t - r * a = a * b * q + t := by omega
  rw [this]; ring

/-- The bits of a word with a field replaced. -/
theorem getLsbD_putBits (w : Word) (hi lo v i : Nat) (h : lo ≤ hi) (h' : hi < 64) :
    (putBits w hi lo v).getLsbD i = if lo ≤ i ∧ i ≤ hi then v.testBit (i - lo) else w.getLsbD i := by
  unfold putBits word
  rw [putBits_number _ _ _ _ h]
  by_cases hi64 : i < 64
  · rw [BitVec.getLsbD_ofNat]
    simp only [hi64, decide_true, Bool.true_and]
    rw [Nat.testBit_two_pow_mul_add]
    · by_cases h1 : i < hi + 1
      · rw [if_pos h1, Nat.testBit_two_pow_mul_add _ (Nat.mod_lt _ (Nat.two_pow_pos _))]
        by_cases h2 : i < lo
        · rw [if_pos h2, if_neg (by omega), Nat.testBit_mod_two_pow]
          simp [h2, BitVec.getLsbD]
        · rw [if_neg h2, if_pos (by omega), Nat.testBit_mod_two_pow]
          simp; omega
      · rw [if_neg h1, if_neg (by omega), Nat.testBit_div_two_pow]
        simp only [BitVec.getLsbD]
        congr 1; omega
    · have a1 : w.toNat % 2 ^ lo < 2 ^ lo := Nat.mod_lt _ (Nat.two_pow_pos _)
      have a2 : v % 2 ^ (hi + 1 - lo) < 2 ^ (hi + 1 - lo) := Nat.mod_lt _ (Nat.two_pow_pos _)
      have e : 2 ^ (hi + 1) = 2 ^ lo * 2 ^ (hi + 1 - lo) := by rw [← pow_add]; congr 1; omega
      rw [e]
      calc 2 ^ lo * (v % 2 ^ (hi + 1 - lo)) + w.toNat % 2 ^ lo
          < 2 ^ lo * (v % 2 ^ (hi + 1 - lo)) + 2 ^ lo := by omega
        _ = 2 ^ lo * (v % 2 ^ (hi + 1 - lo) + 1) := by ring
        _ ≤ 2 ^ lo * 2 ^ (hi + 1 - lo) := Nat.mul_le_mul_left _ a2
  · rw [BitVec.getLsbD_of_ge _ _ (by omega), if_neg (by omega), BitVec.getLsbD_of_ge _ _ (by omega)]

/-- A field lies in a register. -/
def Fld.ok (f : Fld) : Prop := f.lo ≤ f.hi ∧ f.hi < 64 ∧ f.off < 0x1000

/-- A field after it is set. -/
theorem State.fld_setFld_self (s : State) (page : Nat) (f : Fld) (v : Nat) (h : f.ok) :
    (s.setFld page f v).fld page f = v % 2 ^ (f.hi + 1 - f.lo) := by
  apply Nat.eq_of_testBit_eq
  intro i
  simp only [State.fld, State.setFld, State.rd_wr_self, testBit_bitsOf, Nat.testBit_mod_two_pow]
  have := getLsbD_putBits (s.rd page f.off) f.hi f.lo v (f.lo + i) h.1 h.2.1
  simp only [BitVec.getLsbD] at this
  rw [this]
  by_cases hi : i < f.hi + 1 - f.lo
  · rw [if_pos (by omega)]; simp
  · simp [hi]

theorem State.fld_eq_of_bits {s t : State} {page : Nat} {f : Fld}
    (h : ∀ i, f.lo ≤ i → i ≤ f.hi → (t.rd page f.off).getLsbD i = (s.rd page f.off).getLsbD i) :
    t.fld page f = s.fld page f := by
  apply Nat.eq_of_testBit_eq
  intro i
  simp only [State.fld, testBit_bitsOf]
  by_cases hi : i < f.hi + 1 - f.lo
  · have := h (f.lo + i) (by omega) (by omega)
    simp only [BitVec.getLsbD] at this
    rw [this]
  · simp [hi]

/-- A field outside what a frame lets change. -/
theorem RegFrame.fld {p : BitSet} {s t : State} (h : RegFrame p s t) {page : Nat} {f : Fld} (hp : page < 512)
    (hf : f.off < 0x1000) (hn : ∀ i, f.lo ≤ i → i ≤ f.hi → ¬ p page f.off i) : t.fld page f = s.fld page f :=
  State.fld_eq_of_bits fun i h1 h2 => h page f.off i hp hf (hn i h1 h2)

theorem RegFrame.refl (s : State) : RegFrame noBits s s := fun _ _ _ _ _ _ => rfl

theorem RegFrame.mono {p q : BitSet} {s t : State} (h : RegFrame p s t) (hpq : ∀ a b c, p a b c → q a b c) :
    RegFrame q s t := fun a b c h1 h2 hn => h a b c h1 h2 fun hp => hn (hpq a b c hp)

theorem RegFrame.trans {p q : BitSet} {s t u : State} (h : RegFrame p s t) (h' : RegFrame q t u) :
    RegFrame (p.or q) s u := fun a b c h1 h2 hn =>
  (h' a b c h1 h2 fun hq => hn (.inr hq)).trans (h a b c h1 h2 fun hp => hn (.inl hp))

theorem RegsOnly.refl (s : State) : RegsOnly s s := rfl
theorem RegsOnly.trans {s t u : State} (h : RegsOnly s t) (h' : RegsOnly t u) : RegsOnly s u := by
  unfold RegsOnly at *; rw [h', h]
theorem OnlyBits.refl (s : State) : OnlyBits noBits s s := ⟨rfl, RegFrame.refl s⟩
theorem OnlyBits.trans {p q : BitSet} {s t u : State} (h : OnlyBits p s t) (h' : OnlyBits q t u) :
    OnlyBits (p.or q) s u := ⟨h.1.trans h'.1, h.2.trans h'.2⟩
theorem OnlyBits.mono {p q : BitSet} {s t : State} (h : OnlyBits p s t) (hpq : ∀ a b c, p a b c → q a b c) :
    OnlyBits q s t := ⟨h.1, h.2.mono hpq⟩

/-- Writing a register changes that register alone. -/
theorem onlyBits_wr (s : State) (page off : Nat) (v : Word) (ho : off < 0x1000) :
    OnlyBits (regBits page off) s (s.wr page off v) :=
  ⟨rfl, fun a b c _ h2 hn => by rw [State.rd_wr_ne s v ho h2 hn]⟩

/-- Setting a field changes the bits of that field alone. -/
theorem onlyBits_setFld (s : State) (page : Nat) (f : Fld) (v : Nat) (h : f.ok) :
    OnlyBits (f.bits page) s (s.setFld page f v) := by
  refine ⟨rfl, fun a b c _ h2 hn => ?_⟩
  unfold State.setFld
  by_cases hk : a = page ∧ b = f.off
  · obtain ⟨rfl, rfl⟩ := hk
    rw [State.rd_wr_self, getLsbD_putBits _ _ _ _ _ h.1 h.2.1, if_neg]
    exact fun hc => hn ⟨rfl, rfl, hc.1, hc.2⟩
  · rw [State.rd_wr_ne s _ h.2.2 h2 hk]

theorem onlyBits_setBit (s : State) (page : Nat) (f : Fld) (b : Bool) (h : f.ok) :
    OnlyBits (f.bits page) s (s.setBit page f b) := onlyBits_setFld s page f _ h

theorem onlyBits_addSat (s : State) (page : Nat) (f : Fld) (n : Nat) (h : f.ok) :
    OnlyBits (f.bits page) s (s.addSat page f n) := onlyBits_setFld s page f _ h

theorem onlyBits_addWrap (s : State) (page : Nat) (f : Fld) (n : Nat) (h : f.ok) :
    OnlyBits (f.bits page) s (s.addWrap page f n) := onlyBits_setFld s page f _ h

theorem State.bit_setBit_self (s : State) (page : Nat) (f : Fld) (b : Bool) (h : f.ok) (h1 : f.hi = f.lo) :
    (s.setBit page f b).bit page f = b := by
  unfold State.bit State.setBit
  rw [State.fld_setFld_self _ _ _ _ h, h1]
  cases b <;> simp

/-- Bits of a union are bits of the set. -/
theorem OnlyBits.or_self {p : BitSet} {s t : State} (h : OnlyBits (p.or p) s t) : OnlyBits p s t :=
  h.mono fun _ _ _ h => h.elim id id

theorem onlyBits_foldl {α : Type} {p : BitSet} {g : State → α → State} (l : List α)
    (hg : ∀ s, ∀ a ∈ l, OnlyBits p s (g s a)) (s : State) : OnlyBits p s (l.foldl g s) := by
  induction l generalizing s with
  | nil => exact (OnlyBits.refl s).mono fun _ _ _ h => h.elim
  | cons a l ih =>
    exact ((hg s a (List.mem_cons_self)).trans (ih (fun s b hb => hg s b (List.mem_cons_of_mem _ hb)) _)).or_self

/-- Counting an event changes the performance counters of the page alone (R41). -/
theorem onlyBits_perf (s : State) (page ev n : Nat) : OnlyBits (perfBits page) s (s.perf page ev n) := by
  unfold State.perf
  split
  · exact (OnlyBits.refl s).mono fun _ _ _ h => h.elim
  · refine onlyBits_foldl _ (fun s i hi => ?_) s
    have hi : i < 9 := by simpa using hi
    split
    · refine (onlyBits_addSat s page _ n ⟨by simp [Reg.PERF_CNT_COUNT], by simp [Reg.PERF_CNT_COUNT], ?_⟩).mono ?_
      · simp only [Reg.PERF_CNT_COUNT]; omega
      · rintro a b c ⟨rfl, rfl, h1, h2⟩
        exact ⟨rfl, by simp only [Reg.PERF_CNT_COUNT] at h2; omega, i, hi, rfl⟩
    · exact (OnlyBits.refl s).mono fun _ _ _ h => h.elim

end Sys2Proof.Machine
end

