-- ==== Sys2Proof/Laws/State.lean ====
section
/-!
SUPPORT. What each update of the state leaves as it is: one lemma for each field and each update.
-/

namespace Sys2Proof.Machine

open Sys2Proof

variable (s : State)

@[simp] theorem State.wr_staged (page off : Nat) (v : Word) : (s.wr page off v).staged = s.staged := rfl
@[simp] theorem State.wr_pending (page off : Nat) (v : Word) : (s.wr page off v).pending = s.pending := rfl
@[simp] theorem State.wr_out (page off : Nat) (v : Word) : (s.wr page off v).out = s.out := rfl
@[simp] theorem State.wr_free (page off : Nat) (v : Word) : (s.wr page off v).free = s.free := rfl
@[simp] theorem State.wr_beat (page off : Nat) (v : Word) : (s.wr page off v).beat = s.beat := rfl
@[simp] theorem State.wr_beatOn (page off : Nat) (v : Word) : (s.wr page off v).beatOn = s.beatOn := rfl
@[simp] theorem State.wr_beatHold (page off : Nat) (v : Word) : (s.wr page off v).beatHold = s.beatHold := rfl
@[simp] theorem State.wr_mem (page off : Nat) (v : Word) : (s.wr page off v).mem = s.mem := rfl
@[simp] theorem State.wr_slots (page off : Nat) (v : Word) : (s.wr page off v).slots = s.slots := rfl
@[simp] theorem State.wr_admission (page off : Nat) (v : Word) : (s.wr page off v).admission = s.admission := rfl
@[simp] theorem State.wr_rings (page off : Nat) (v : Word) : (s.wr page off v).rings = s.rings := rfl
@[simp] theorem State.wr_doorbells (page off : Nat) (v : Word) : (s.wr page off v).doorbells = s.doorbells := rfl
@[simp] theorem State.wr_tiles (page off : Nat) (v : Word) : (s.wr page off v).tiles = s.tiles := rfl
@[simp] theorem State.wr_fsch (page off : Nat) (v : Word) : (s.wr page off v).fsch = s.fsch := rfl
@[simp] theorem State.wr_queues (page off : Nat) (v : Word) : (s.wr page off v).queues = s.queues := rfl
@[simp] theorem State.wr_owns (page off : Nat) (v : Word) : (s.wr page off v).owns = s.owns := rfl
@[simp] theorem State.wr_car (page off : Nat) (v : Word) : (s.wr page off v).car = s.car := rfl
@[simp] theorem State.wr_shares (page off : Nat) (v : Word) : (s.wr page off v).shares = s.shares := rfl
@[simp] theorem State.wr_probeUnits (page off : Nat) (v : Word) : (s.wr page off v).probeUnits = s.probeUnits := rfl
@[simp] theorem State.wr_decs (page off : Nat) (v : Word) : (s.wr page off v).decs = s.decs := rfl
@[simp] theorem State.wr_cmps (page off : Nat) (v : Word) : (s.wr page off v).cmps = s.cmps := rfl
@[simp] theorem State.wr_draws (page off : Nat) (v : Word) : (s.wr page off v).draws = s.draws := rfl
@[simp] theorem State.wr_opOuts (page off : Nat) (v : Word) : (s.wr page off v).opOuts = s.opOuts := rfl
@[simp] theorem State.wr_augs (page off : Nat) (v : Word) : (s.wr page off v).augs = s.augs := rfl
@[simp] theorem State.wr_augRows (page off : Nat) (v : Word) : (s.wr page off v).augRows = s.augRows := rfl
@[simp] theorem State.wr_cues (page off : Nat) (v : Word) : (s.wr page off v).cues = s.cues := rfl
@[simp] theorem State.wr_time (page off : Nat) (v : Word) : (s.wr page off v).time = s.time := rfl
@[simp] theorem State.wr_buckets (page off : Nat) (v : Word) : (s.wr page off v).buckets = s.buckets := rfl
@[simp] theorem State.wr_link (page off : Nat) (v : Word) : (s.wr page off v).link = s.link := rfl
@[simp] theorem State.wr_pins (page off : Nat) (v : Word) : (s.wr page off v).pins = s.pins := rfl
@[simp] theorem State.wr_flt (page off : Nat) (v : Word) : (s.wr page off v).flt = s.flt := rfl
@[simp] theorem State.wr_sec (page off : Nat) (v : Word) : (s.wr page off v).sec = s.sec := rfl
@[simp] theorem State.wr_pwr (page off : Nat) (v : Word) : (s.wr page off v).pwr = s.pwr := rfl

@[simp] theorem State.setFld_staged (page : Nat) (f : Fld) (v : Nat) : (s.setFld page f v).staged = s.staged := rfl
@[simp] theorem State.setFld_pending (page : Nat) (f : Fld) (v : Nat) : (s.setFld page f v).pending = s.pending := rfl
@[simp] theorem State.setFld_out (page : Nat) (f : Fld) (v : Nat) : (s.setFld page f v).out = s.out := rfl
@[simp] theorem State.setFld_free (page : Nat) (f : Fld) (v : Nat) : (s.setFld page f v).free = s.free := rfl
@[simp] theorem State.setFld_beat (page : Nat) (f : Fld) (v : Nat) : (s.setFld page f v).beat = s.beat := rfl
@[simp] theorem State.setFld_beatOn (page : Nat) (f : Fld) (v : Nat) : (s.setFld page f v).beatOn = s.beatOn := rfl
@[simp] theorem State.setFld_beatHold (page : Nat) (f : Fld) (v : Nat) : (s.setFld page f v).beatHold = s.beatHold := rfl
@[simp] theorem State.setFld_mem (page : Nat) (f : Fld) (v : Nat) : (s.setFld page f v).mem = s.mem := rfl
@[simp] theorem State.setFld_slots (page : Nat) (f : Fld) (v : Nat) : (s.setFld page f v).slots = s.slots := rfl
@[simp] theorem State.setFld_admission (page : Nat) (f : Fld) (v : Nat) : (s.setFld page f v).admission = s.admission := rfl
@[simp] theorem State.setFld_rings (page : Nat) (f : Fld) (v : Nat) : (s.setFld page f v).rings = s.rings := rfl
@[simp] theorem State.setFld_doorbells (page : Nat) (f : Fld) (v : Nat) : (s.setFld page f v).doorbells = s.doorbells := rfl
@[simp] theorem State.setFld_tiles (page : Nat) (f : Fld) (v : Nat) : (s.setFld page f v).tiles = s.tiles := rfl
@[simp] theorem State.setFld_fsch (page : Nat) (f : Fld) (v : Nat) : (s.setFld page f v).fsch = s.fsch := rfl
@[simp] theorem State.setFld_queues (page : Nat) (f : Fld) (v : Nat) : (s.setFld page f v).queues = s.queues := rfl
@[simp] theorem State.setFld_owns (page : Nat) (f : Fld) (v : Nat) : (s.setFld page f v).owns = s.owns := rfl
@[simp] theorem State.setFld_car (page : Nat) (f : Fld) (v : Nat) : (s.setFld page f v).car = s.car := rfl
@[simp] theorem State.setFld_shares (page : Nat) (f : Fld) (v : Nat) : (s.setFld page f v).shares = s.shares := rfl
@[simp] theorem State.setFld_probeUnits (page : Nat) (f : Fld) (v : Nat) : (s.setFld page f v).probeUnits = s.probeUnits := rfl
@[simp] theorem State.setFld_decs (page : Nat) (f : Fld) (v : Nat) : (s.setFld page f v).decs = s.decs := rfl
@[simp] theorem State.setFld_cmps (page : Nat) (f : Fld) (v : Nat) : (s.setFld page f v).cmps = s.cmps := rfl
@[simp] theorem State.setFld_draws (page : Nat) (f : Fld) (v : Nat) : (s.setFld page f v).draws = s.draws := rfl
@[simp] theorem State.setFld_opOuts (page : Nat) (f : Fld) (v : Nat) : (s.setFld page f v).opOuts = s.opOuts := rfl
@[simp] theorem State.setFld_augs (page : Nat) (f : Fld) (v : Nat) : (s.setFld page f v).augs = s.augs := rfl
@[simp] theorem State.setFld_augRows (page : Nat) (f : Fld) (v : Nat) : (s.setFld page f v).augRows = s.augRows := rfl
@[simp] theorem State.setFld_cues (page : Nat) (f : Fld) (v : Nat) : (s.setFld page f v).cues = s.cues := rfl
@[simp] theorem State.setFld_time (page : Nat) (f : Fld) (v : Nat) : (s.setFld page f v).time = s.time := rfl
@[simp] theorem State.setFld_buckets (page : Nat) (f : Fld) (v : Nat) : (s.setFld page f v).buckets = s.buckets := rfl
@[simp] theorem State.setFld_link (page : Nat) (f : Fld) (v : Nat) : (s.setFld page f v).link = s.link := rfl
@[simp] theorem State.setFld_pins (page : Nat) (f : Fld) (v : Nat) : (s.setFld page f v).pins = s.pins := rfl
@[simp] theorem State.setFld_flt (page : Nat) (f : Fld) (v : Nat) : (s.setFld page f v).flt = s.flt := rfl
@[simp] theorem State.setFld_sec (page : Nat) (f : Fld) (v : Nat) : (s.setFld page f v).sec = s.sec := rfl
@[simp] theorem State.setFld_pwr (page : Nat) (f : Fld) (v : Nat) : (s.setFld page f v).pwr = s.pwr := rfl

@[simp] theorem State.setBit_staged (page : Nat) (f : Fld) (b : Bool) : (s.setBit page f b).staged = s.staged := rfl
@[simp] theorem State.setBit_pending (page : Nat) (f : Fld) (b : Bool) : (s.setBit page f b).pending = s.pending := rfl
@[simp] theorem State.setBit_out (page : Nat) (f : Fld) (b : Bool) : (s.setBit page f b).out = s.out := rfl
@[simp] theorem State.setBit_free (page : Nat) (f : Fld) (b : Bool) : (s.setBit page f b).free = s.free := rfl
@[simp] theorem State.setBit_beat (page : Nat) (f : Fld) (b : Bool) : (s.setBit page f b).beat = s.beat := rfl
@[simp] theorem State.setBit_beatOn (page : Nat) (f : Fld) (b : Bool) : (s.setBit page f b).beatOn = s.beatOn := rfl
@[simp] theorem State.setBit_beatHold (page : Nat) (f : Fld) (b : Bool) : (s.setBit page f b).beatHold = s.beatHold := rfl
@[simp] theorem State.setBit_mem (page : Nat) (f : Fld) (b : Bool) : (s.setBit page f b).mem = s.mem := rfl
@[simp] theorem State.setBit_slots (page : Nat) (f : Fld) (b : Bool) : (s.setBit page f b).slots = s.slots := rfl
@[simp] theorem State.setBit_admission (page : Nat) (f : Fld) (b : Bool) : (s.setBit page f b).admission = s.admission := rfl
@[simp] theorem State.setBit_rings (page : Nat) (f : Fld) (b : Bool) : (s.setBit page f b).rings = s.rings := rfl
@[simp] theorem State.setBit_doorbells (page : Nat) (f : Fld) (b : Bool) : (s.setBit page f b).doorbells = s.doorbells := rfl
@[simp] theorem State.setBit_tiles (page : Nat) (f : Fld) (b : Bool) : (s.setBit page f b).tiles = s.tiles := rfl
@[simp] theorem State.setBit_fsch (page : Nat) (f : Fld) (b : Bool) : (s.setBit page f b).fsch = s.fsch := rfl
@[simp] theorem State.setBit_queues (page : Nat) (f : Fld) (b : Bool) : (s.setBit page f b).queues = s.queues := rfl
@[simp] theorem State.setBit_owns (page : Nat) (f : Fld) (b : Bool) : (s.setBit page f b).owns = s.owns := rfl
@[simp] theorem State.setBit_car (page : Nat) (f : Fld) (b : Bool) : (s.setBit page f b).car = s.car := rfl
@[simp] theorem State.setBit_shares (page : Nat) (f : Fld) (b : Bool) : (s.setBit page f b).shares = s.shares := rfl
@[simp] theorem State.setBit_probeUnits (page : Nat) (f : Fld) (b : Bool) : (s.setBit page f b).probeUnits = s.probeUnits := rfl
@[simp] theorem State.setBit_decs (page : Nat) (f : Fld) (b : Bool) : (s.setBit page f b).decs = s.decs := rfl
@[simp] theorem State.setBit_cmps (page : Nat) (f : Fld) (b : Bool) : (s.setBit page f b).cmps = s.cmps := rfl
@[simp] theorem State.setBit_draws (page : Nat) (f : Fld) (b : Bool) : (s.setBit page f b).draws = s.draws := rfl
@[simp] theorem State.setBit_opOuts (page : Nat) (f : Fld) (b : Bool) : (s.setBit page f b).opOuts = s.opOuts := rfl
@[simp] theorem State.setBit_augs (page : Nat) (f : Fld) (b : Bool) : (s.setBit page f b).augs = s.augs := rfl
@[simp] theorem State.setBit_augRows (page : Nat) (f : Fld) (b : Bool) : (s.setBit page f b).augRows = s.augRows := rfl
@[simp] theorem State.setBit_cues (page : Nat) (f : Fld) (b : Bool) : (s.setBit page f b).cues = s.cues := rfl
@[simp] theorem State.setBit_time (page : Nat) (f : Fld) (b : Bool) : (s.setBit page f b).time = s.time := rfl
@[simp] theorem State.setBit_buckets (page : Nat) (f : Fld) (b : Bool) : (s.setBit page f b).buckets = s.buckets := rfl
@[simp] theorem State.setBit_link (page : Nat) (f : Fld) (b : Bool) : (s.setBit page f b).link = s.link := rfl
@[simp] theorem State.setBit_pins (page : Nat) (f : Fld) (b : Bool) : (s.setBit page f b).pins = s.pins := rfl
@[simp] theorem State.setBit_flt (page : Nat) (f : Fld) (b : Bool) : (s.setBit page f b).flt = s.flt := rfl
@[simp] theorem State.setBit_sec (page : Nat) (f : Fld) (b : Bool) : (s.setBit page f b).sec = s.sec := rfl
@[simp] theorem State.setBit_pwr (page : Nat) (f : Fld) (b : Bool) : (s.setBit page f b).pwr = s.pwr := rfl

@[simp] theorem State.addSat_staged (page : Nat) (f : Fld) (n : Nat) : (s.addSat page f n).staged = s.staged := rfl
@[simp] theorem State.addSat_pending (page : Nat) (f : Fld) (n : Nat) : (s.addSat page f n).pending = s.pending := rfl
@[simp] theorem State.addSat_out (page : Nat) (f : Fld) (n : Nat) : (s.addSat page f n).out = s.out := rfl
@[simp] theorem State.addSat_free (page : Nat) (f : Fld) (n : Nat) : (s.addSat page f n).free = s.free := rfl
@[simp] theorem State.addSat_beat (page : Nat) (f : Fld) (n : Nat) : (s.addSat page f n).beat = s.beat := rfl
@[simp] theorem State.addSat_beatOn (page : Nat) (f : Fld) (n : Nat) : (s.addSat page f n).beatOn = s.beatOn := rfl
@[simp] theorem State.addSat_beatHold (page : Nat) (f : Fld) (n : Nat) : (s.addSat page f n).beatHold = s.beatHold := rfl
@[simp] theorem State.addSat_mem (page : Nat) (f : Fld) (n : Nat) : (s.addSat page f n).mem = s.mem := rfl
@[simp] theorem State.addSat_slots (page : Nat) (f : Fld) (n : Nat) : (s.addSat page f n).slots = s.slots := rfl
@[simp] theorem State.addSat_admission (page : Nat) (f : Fld) (n : Nat) : (s.addSat page f n).admission = s.admission := rfl
@[simp] theorem State.addSat_rings (page : Nat) (f : Fld) (n : Nat) : (s.addSat page f n).rings = s.rings := rfl
@[simp] theorem State.addSat_doorbells (page : Nat) (f : Fld) (n : Nat) : (s.addSat page f n).doorbells = s.doorbells := rfl
@[simp] theorem State.addSat_tiles (page : Nat) (f : Fld) (n : Nat) : (s.addSat page f n).tiles = s.tiles := rfl
@[simp] theorem State.addSat_fsch (page : Nat) (f : Fld) (n : Nat) : (s.addSat page f n).fsch = s.fsch := rfl
@[simp] theorem State.addSat_queues (page : Nat) (f : Fld) (n : Nat) : (s.addSat page f n).queues = s.queues := rfl
@[simp] theorem State.addSat_owns (page : Nat) (f : Fld) (n : Nat) : (s.addSat page f n).owns = s.owns := rfl
@[simp] theorem State.addSat_car (page : Nat) (f : Fld) (n : Nat) : (s.addSat page f n).car = s.car := rfl
@[simp] theorem State.addSat_shares (page : Nat) (f : Fld) (n : Nat) : (s.addSat page f n).shares = s.shares := rfl
@[simp] theorem State.addSat_probeUnits (page : Nat) (f : Fld) (n : Nat) : (s.addSat page f n).probeUnits = s.probeUnits := rfl
@[simp] theorem State.addSat_decs (page : Nat) (f : Fld) (n : Nat) : (s.addSat page f n).decs = s.decs := rfl
@[simp] theorem State.addSat_cmps (page : Nat) (f : Fld) (n : Nat) : (s.addSat page f n).cmps = s.cmps := rfl
@[simp] theorem State.addSat_draws (page : Nat) (f : Fld) (n : Nat) : (s.addSat page f n).draws = s.draws := rfl
@[simp] theorem State.addSat_opOuts (page : Nat) (f : Fld) (n : Nat) : (s.addSat page f n).opOuts = s.opOuts := rfl
@[simp] theorem State.addSat_augs (page : Nat) (f : Fld) (n : Nat) : (s.addSat page f n).augs = s.augs := rfl
@[simp] theorem State.addSat_augRows (page : Nat) (f : Fld) (n : Nat) : (s.addSat page f n).augRows = s.augRows := rfl
@[simp] theorem State.addSat_cues (page : Nat) (f : Fld) (n : Nat) : (s.addSat page f n).cues = s.cues := rfl
@[simp] theorem State.addSat_time (page : Nat) (f : Fld) (n : Nat) : (s.addSat page f n).time = s.time := rfl
@[simp] theorem State.addSat_buckets (page : Nat) (f : Fld) (n : Nat) : (s.addSat page f n).buckets = s.buckets := rfl
@[simp] theorem State.addSat_link (page : Nat) (f : Fld) (n : Nat) : (s.addSat page f n).link = s.link := rfl
@[simp] theorem State.addSat_pins (page : Nat) (f : Fld) (n : Nat) : (s.addSat page f n).pins = s.pins := rfl
@[simp] theorem State.addSat_flt (page : Nat) (f : Fld) (n : Nat) : (s.addSat page f n).flt = s.flt := rfl
@[simp] theorem State.addSat_sec (page : Nat) (f : Fld) (n : Nat) : (s.addSat page f n).sec = s.sec := rfl
@[simp] theorem State.addSat_pwr (page : Nat) (f : Fld) (n : Nat) : (s.addSat page f n).pwr = s.pwr := rfl

@[simp] theorem State.addWrap_staged (page : Nat) (f : Fld) (n : Nat) : (s.addWrap page f n).staged = s.staged := rfl
@[simp] theorem State.addWrap_pending (page : Nat) (f : Fld) (n : Nat) : (s.addWrap page f n).pending = s.pending := rfl
@[simp] theorem State.addWrap_out (page : Nat) (f : Fld) (n : Nat) : (s.addWrap page f n).out = s.out := rfl
@[simp] theorem State.addWrap_free (page : Nat) (f : Fld) (n : Nat) : (s.addWrap page f n).free = s.free := rfl
@[simp] theorem State.addWrap_beat (page : Nat) (f : Fld) (n : Nat) : (s.addWrap page f n).beat = s.beat := rfl
@[simp] theorem State.addWrap_beatOn (page : Nat) (f : Fld) (n : Nat) : (s.addWrap page f n).beatOn = s.beatOn := rfl
@[simp] theorem State.addWrap_beatHold (page : Nat) (f : Fld) (n : Nat) : (s.addWrap page f n).beatHold = s.beatHold := rfl
@[simp] theorem State.addWrap_mem (page : Nat) (f : Fld) (n : Nat) : (s.addWrap page f n).mem = s.mem := rfl
@[simp] theorem State.addWrap_slots (page : Nat) (f : Fld) (n : Nat) : (s.addWrap page f n).slots = s.slots := rfl
@[simp] theorem State.addWrap_admission (page : Nat) (f : Fld) (n : Nat) : (s.addWrap page f n).admission = s.admission := rfl
@[simp] theorem State.addWrap_rings (page : Nat) (f : Fld) (n : Nat) : (s.addWrap page f n).rings = s.rings := rfl
@[simp] theorem State.addWrap_doorbells (page : Nat) (f : Fld) (n : Nat) : (s.addWrap page f n).doorbells = s.doorbells := rfl
@[simp] theorem State.addWrap_tiles (page : Nat) (f : Fld) (n : Nat) : (s.addWrap page f n).tiles = s.tiles := rfl
@[simp] theorem State.addWrap_fsch (page : Nat) (f : Fld) (n : Nat) : (s.addWrap page f n).fsch = s.fsch := rfl
@[simp] theorem State.addWrap_queues (page : Nat) (f : Fld) (n : Nat) : (s.addWrap page f n).queues = s.queues := rfl
@[simp] theorem State.addWrap_owns (page : Nat) (f : Fld) (n : Nat) : (s.addWrap page f n).owns = s.owns := rfl
@[simp] theorem State.addWrap_car (page : Nat) (f : Fld) (n : Nat) : (s.addWrap page f n).car = s.car := rfl
@[simp] theorem State.addWrap_shares (page : Nat) (f : Fld) (n : Nat) : (s.addWrap page f n).shares = s.shares := rfl
@[simp] theorem State.addWrap_probeUnits (page : Nat) (f : Fld) (n : Nat) : (s.addWrap page f n).probeUnits = s.probeUnits := rfl
@[simp] theorem State.addWrap_decs (page : Nat) (f : Fld) (n : Nat) : (s.addWrap page f n).decs = s.decs := rfl
@[simp] theorem State.addWrap_cmps (page : Nat) (f : Fld) (n : Nat) : (s.addWrap page f n).cmps = s.cmps := rfl
@[simp] theorem State.addWrap_draws (page : Nat) (f : Fld) (n : Nat) : (s.addWrap page f n).draws = s.draws := rfl
@[simp] theorem State.addWrap_opOuts (page : Nat) (f : Fld) (n : Nat) : (s.addWrap page f n).opOuts = s.opOuts := rfl
@[simp] theorem State.addWrap_augs (page : Nat) (f : Fld) (n : Nat) : (s.addWrap page f n).augs = s.augs := rfl
@[simp] theorem State.addWrap_augRows (page : Nat) (f : Fld) (n : Nat) : (s.addWrap page f n).augRows = s.augRows := rfl
@[simp] theorem State.addWrap_cues (page : Nat) (f : Fld) (n : Nat) : (s.addWrap page f n).cues = s.cues := rfl
@[simp] theorem State.addWrap_time (page : Nat) (f : Fld) (n : Nat) : (s.addWrap page f n).time = s.time := rfl
@[simp] theorem State.addWrap_buckets (page : Nat) (f : Fld) (n : Nat) : (s.addWrap page f n).buckets = s.buckets := rfl
@[simp] theorem State.addWrap_link (page : Nat) (f : Fld) (n : Nat) : (s.addWrap page f n).link = s.link := rfl
@[simp] theorem State.addWrap_pins (page : Nat) (f : Fld) (n : Nat) : (s.addWrap page f n).pins = s.pins := rfl
@[simp] theorem State.addWrap_flt (page : Nat) (f : Fld) (n : Nat) : (s.addWrap page f n).flt = s.flt := rfl
@[simp] theorem State.addWrap_sec (page : Nat) (f : Fld) (n : Nat) : (s.addWrap page f n).sec = s.sec := rfl
@[simp] theorem State.addWrap_pwr (page : Nat) (f : Fld) (n : Nat) : (s.addWrap page f n).pwr = s.pwr := rfl

@[simp] theorem State.emit_regs (m : Msg) : (s.emit m).regs = s.regs := rfl
@[simp] theorem State.emit_staged (m : Msg) : (s.emit m).staged = s.staged := rfl
@[simp] theorem State.emit_pending (m : Msg) : (s.emit m).pending = s.pending := rfl
@[simp] theorem State.emit_free (m : Msg) : (s.emit m).free = s.free := rfl
@[simp] theorem State.emit_beat (m : Msg) : (s.emit m).beat = s.beat := rfl
@[simp] theorem State.emit_beatOn (m : Msg) : (s.emit m).beatOn = s.beatOn := rfl
@[simp] theorem State.emit_beatHold (m : Msg) : (s.emit m).beatHold = s.beatHold := rfl
@[simp] theorem State.emit_mem (m : Msg) : (s.emit m).mem = s.mem := rfl
@[simp] theorem State.emit_slots (m : Msg) : (s.emit m).slots = s.slots := rfl
@[simp] theorem State.emit_admission (m : Msg) : (s.emit m).admission = s.admission := rfl
@[simp] theorem State.emit_rings (m : Msg) : (s.emit m).rings = s.rings := rfl
@[simp] theorem State.emit_doorbells (m : Msg) : (s.emit m).doorbells = s.doorbells := rfl
@[simp] theorem State.emit_tiles (m : Msg) : (s.emit m).tiles = s.tiles := rfl
@[simp] theorem State.emit_fsch (m : Msg) : (s.emit m).fsch = s.fsch := rfl
@[simp] theorem State.emit_queues (m : Msg) : (s.emit m).queues = s.queues := rfl
@[simp] theorem State.emit_owns (m : Msg) : (s.emit m).owns = s.owns := rfl
@[simp] theorem State.emit_car (m : Msg) : (s.emit m).car = s.car := rfl
@[simp] theorem State.emit_shares (m : Msg) : (s.emit m).shares = s.shares := rfl
@[simp] theorem State.emit_probeUnits (m : Msg) : (s.emit m).probeUnits = s.probeUnits := rfl
@[simp] theorem State.emit_decs (m : Msg) : (s.emit m).decs = s.decs := rfl
@[simp] theorem State.emit_cmps (m : Msg) : (s.emit m).cmps = s.cmps := rfl
@[simp] theorem State.emit_draws (m : Msg) : (s.emit m).draws = s.draws := rfl
@[simp] theorem State.emit_opOuts (m : Msg) : (s.emit m).opOuts = s.opOuts := rfl
@[simp] theorem State.emit_augs (m : Msg) : (s.emit m).augs = s.augs := rfl
@[simp] theorem State.emit_augRows (m : Msg) : (s.emit m).augRows = s.augRows := rfl
@[simp] theorem State.emit_cues (m : Msg) : (s.emit m).cues = s.cues := rfl
@[simp] theorem State.emit_time (m : Msg) : (s.emit m).time = s.time := rfl
@[simp] theorem State.emit_buckets (m : Msg) : (s.emit m).buckets = s.buckets := rfl
@[simp] theorem State.emit_link (m : Msg) : (s.emit m).link = s.link := rfl
@[simp] theorem State.emit_pins (m : Msg) : (s.emit m).pins = s.pins := rfl
@[simp] theorem State.emit_flt (m : Msg) : (s.emit m).flt = s.flt := rfl
@[simp] theorem State.emit_sec (m : Msg) : (s.emit m).sec = s.sec := rfl
@[simp] theorem State.emit_pwr (m : Msg) : (s.emit m).pwr = s.pwr := rfl

@[simp] theorem State.setSlot_regs (p : Nat) (x : PlanSlot) : (s.setSlot p x).regs = s.regs := rfl
@[simp] theorem State.setSlot_staged (p : Nat) (x : PlanSlot) : (s.setSlot p x).staged = s.staged := rfl
@[simp] theorem State.setSlot_pending (p : Nat) (x : PlanSlot) : (s.setSlot p x).pending = s.pending := rfl
@[simp] theorem State.setSlot_out (p : Nat) (x : PlanSlot) : (s.setSlot p x).out = s.out := rfl
@[simp] theorem State.setSlot_free (p : Nat) (x : PlanSlot) : (s.setSlot p x).free = s.free := rfl
@[simp] theorem State.setSlot_beat (p : Nat) (x : PlanSlot) : (s.setSlot p x).beat = s.beat := rfl
@[simp] theorem State.setSlot_beatOn (p : Nat) (x : PlanSlot) : (s.setSlot p x).beatOn = s.beatOn := rfl
@[simp] theorem State.setSlot_beatHold (p : Nat) (x : PlanSlot) : (s.setSlot p x).beatHold = s.beatHold := rfl
@[simp] theorem State.setSlot_mem (p : Nat) (x : PlanSlot) : (s.setSlot p x).mem = s.mem := rfl
@[simp] theorem State.setSlot_admission (p : Nat) (x : PlanSlot) : (s.setSlot p x).admission = s.admission := rfl
@[simp] theorem State.setSlot_rings (p : Nat) (x : PlanSlot) : (s.setSlot p x).rings = s.rings := rfl
@[simp] theorem State.setSlot_doorbells (p : Nat) (x : PlanSlot) : (s.setSlot p x).doorbells = s.doorbells := rfl
@[simp] theorem State.setSlot_tiles (p : Nat) (x : PlanSlot) : (s.setSlot p x).tiles = s.tiles := rfl
@[simp] theorem State.setSlot_fsch (p : Nat) (x : PlanSlot) : (s.setSlot p x).fsch = s.fsch := rfl
@[simp] theorem State.setSlot_queues (p : Nat) (x : PlanSlot) : (s.setSlot p x).queues = s.queues := rfl
@[simp] theorem State.setSlot_owns (p : Nat) (x : PlanSlot) : (s.setSlot p x).owns = s.owns := rfl
@[simp] theorem State.setSlot_car (p : Nat) (x : PlanSlot) : (s.setSlot p x).car = s.car := rfl
@[simp] theorem State.setSlot_shares (p : Nat) (x : PlanSlot) : (s.setSlot p x).shares = s.shares := rfl
@[simp] theorem State.setSlot_probeUnits (p : Nat) (x : PlanSlot) : (s.setSlot p x).probeUnits = s.probeUnits := rfl
@[simp] theorem State.setSlot_decs (p : Nat) (x : PlanSlot) : (s.setSlot p x).decs = s.decs := rfl
@[simp] theorem State.setSlot_cmps (p : Nat) (x : PlanSlot) : (s.setSlot p x).cmps = s.cmps := rfl
@[simp] theorem State.setSlot_draws (p : Nat) (x : PlanSlot) : (s.setSlot p x).draws = s.draws := rfl
@[simp] theorem State.setSlot_opOuts (p : Nat) (x : PlanSlot) : (s.setSlot p x).opOuts = s.opOuts := rfl
@[simp] theorem State.setSlot_augs (p : Nat) (x : PlanSlot) : (s.setSlot p x).augs = s.augs := rfl
@[simp] theorem State.setSlot_augRows (p : Nat) (x : PlanSlot) : (s.setSlot p x).augRows = s.augRows := rfl
@[simp] theorem State.setSlot_cues (p : Nat) (x : PlanSlot) : (s.setSlot p x).cues = s.cues := rfl
@[simp] theorem State.setSlot_time (p : Nat) (x : PlanSlot) : (s.setSlot p x).time = s.time := rfl
@[simp] theorem State.setSlot_buckets (p : Nat) (x : PlanSlot) : (s.setSlot p x).buckets = s.buckets := rfl
@[simp] theorem State.setSlot_link (p : Nat) (x : PlanSlot) : (s.setSlot p x).link = s.link := rfl
@[simp] theorem State.setSlot_pins (p : Nat) (x : PlanSlot) : (s.setSlot p x).pins = s.pins := rfl
@[simp] theorem State.setSlot_flt (p : Nat) (x : PlanSlot) : (s.setSlot p x).flt = s.flt := rfl
@[simp] theorem State.setSlot_sec (p : Nat) (x : PlanSlot) : (s.setSlot p x).sec = s.sec := rfl
@[simp] theorem State.setSlot_pwr (p : Nat) (x : PlanSlot) : (s.setSlot p x).pwr = s.pwr := rfl

@[simp] theorem State.setTile_regs (n : Nat) (t : Tile) : (s.setTile n t).regs = s.regs := rfl
@[simp] theorem State.setTile_staged (n : Nat) (t : Tile) : (s.setTile n t).staged = s.staged := rfl
@[simp] theorem State.setTile_pending (n : Nat) (t : Tile) : (s.setTile n t).pending = s.pending := rfl
@[simp] theorem State.setTile_out (n : Nat) (t : Tile) : (s.setTile n t).out = s.out := rfl
@[simp] theorem State.setTile_free (n : Nat) (t : Tile) : (s.setTile n t).free = s.free := rfl
@[simp] theorem State.setTile_beat (n : Nat) (t : Tile) : (s.setTile n t).beat = s.beat := rfl
@[simp] theorem State.setTile_beatOn (n : Nat) (t : Tile) : (s.setTile n t).beatOn = s.beatOn := rfl
@[simp] theorem State.setTile_beatHold (n : Nat) (t : Tile) : (s.setTile n t).beatHold = s.beatHold := rfl
@[simp] theorem State.setTile_mem (n : Nat) (t : Tile) : (s.setTile n t).mem = s.mem := rfl
@[simp] theorem State.setTile_slots (n : Nat) (t : Tile) : (s.setTile n t).slots = s.slots := rfl
@[simp] theorem State.setTile_admission (n : Nat) (t : Tile) : (s.setTile n t).admission = s.admission := rfl
@[simp] theorem State.setTile_rings (n : Nat) (t : Tile) : (s.setTile n t).rings = s.rings := rfl
@[simp] theorem State.setTile_doorbells (n : Nat) (t : Tile) : (s.setTile n t).doorbells = s.doorbells := rfl
@[simp] theorem State.setTile_fsch (n : Nat) (t : Tile) : (s.setTile n t).fsch = s.fsch := rfl
@[simp] theorem State.setTile_queues (n : Nat) (t : Tile) : (s.setTile n t).queues = s.queues := rfl
@[simp] theorem State.setTile_owns (n : Nat) (t : Tile) : (s.setTile n t).owns = s.owns := rfl
@[simp] theorem State.setTile_car (n : Nat) (t : Tile) : (s.setTile n t).car = s.car := rfl
@[simp] theorem State.setTile_shares (n : Nat) (t : Tile) : (s.setTile n t).shares = s.shares := rfl
@[simp] theorem State.setTile_probeUnits (n : Nat) (t : Tile) : (s.setTile n t).probeUnits = s.probeUnits := rfl
@[simp] theorem State.setTile_decs (n : Nat) (t : Tile) : (s.setTile n t).decs = s.decs := rfl
@[simp] theorem State.setTile_cmps (n : Nat) (t : Tile) : (s.setTile n t).cmps = s.cmps := rfl
@[simp] theorem State.setTile_draws (n : Nat) (t : Tile) : (s.setTile n t).draws = s.draws := rfl
@[simp] theorem State.setTile_opOuts (n : Nat) (t : Tile) : (s.setTile n t).opOuts = s.opOuts := rfl
@[simp] theorem State.setTile_augs (n : Nat) (t : Tile) : (s.setTile n t).augs = s.augs := rfl
@[simp] theorem State.setTile_augRows (n : Nat) (t : Tile) : (s.setTile n t).augRows = s.augRows := rfl
@[simp] theorem State.setTile_cues (n : Nat) (t : Tile) : (s.setTile n t).cues = s.cues := rfl
@[simp] theorem State.setTile_time (n : Nat) (t : Tile) : (s.setTile n t).time = s.time := rfl
@[simp] theorem State.setTile_buckets (n : Nat) (t : Tile) : (s.setTile n t).buckets = s.buckets := rfl
@[simp] theorem State.setTile_link (n : Nat) (t : Tile) : (s.setTile n t).link = s.link := rfl
@[simp] theorem State.setTile_pins (n : Nat) (t : Tile) : (s.setTile n t).pins = s.pins := rfl
@[simp] theorem State.setTile_flt (n : Nat) (t : Tile) : (s.setTile n t).flt = s.flt := rfl
@[simp] theorem State.setTile_sec (n : Nat) (t : Tile) : (s.setTile n t).sec = s.sec := rfl
@[simp] theorem State.setTile_pwr (n : Nat) (t : Tile) : (s.setTile n t).pwr = s.pwr := rfl

@[simp] theorem State.setThread_regs (n k : Nat) (x : Thread) : (s.setThread n k x).regs = s.regs := rfl
@[simp] theorem State.setThread_staged (n k : Nat) (x : Thread) : (s.setThread n k x).staged = s.staged := rfl
@[simp] theorem State.setThread_pending (n k : Nat) (x : Thread) : (s.setThread n k x).pending = s.pending := rfl
@[simp] theorem State.setThread_out (n k : Nat) (x : Thread) : (s.setThread n k x).out = s.out := rfl
@[simp] theorem State.setThread_free (n k : Nat) (x : Thread) : (s.setThread n k x).free = s.free := rfl
@[simp] theorem State.setThread_beat (n k : Nat) (x : Thread) : (s.setThread n k x).beat = s.beat := rfl
@[simp] theorem State.setThread_beatOn (n k : Nat) (x : Thread) : (s.setThread n k x).beatOn = s.beatOn := rfl
@[simp] theorem State.setThread_beatHold (n k : Nat) (x : Thread) : (s.setThread n k x).beatHold = s.beatHold := rfl
@[simp] theorem State.setThread_mem (n k : Nat) (x : Thread) : (s.setThread n k x).mem = s.mem := rfl
@[simp] theorem State.setThread_slots (n k : Nat) (x : Thread) : (s.setThread n k x).slots = s.slots := rfl
@[simp] theorem State.setThread_admission (n k : Nat) (x : Thread) : (s.setThread n k x).admission = s.admission := rfl
@[simp] theorem State.setThread_rings (n k : Nat) (x : Thread) : (s.setThread n k x).rings = s.rings := rfl
@[simp] theorem State.setThread_doorbells (n k : Nat) (x : Thread) : (s.setThread n k x).doorbells = s.doorbells := rfl
@[simp] theorem State.setThread_fsch (n k : Nat) (x : Thread) : (s.setThread n k x).fsch = s.fsch := rfl
@[simp] theorem State.setThread_queues (n k : Nat) (x : Thread) : (s.setThread n k x).queues = s.queues := rfl
@[simp] theorem State.setThread_owns (n k : Nat) (x : Thread) : (s.setThread n k x).owns = s.owns := rfl
@[simp] theorem State.setThread_car (n k : Nat) (x : Thread) : (s.setThread n k x).car = s.car := rfl
@[simp] theorem State.setThread_shares (n k : Nat) (x : Thread) : (s.setThread n k x).shares = s.shares := rfl
@[simp] theorem State.setThread_probeUnits (n k : Nat) (x : Thread) : (s.setThread n k x).probeUnits = s.probeUnits := rfl
@[simp] theorem State.setThread_decs (n k : Nat) (x : Thread) : (s.setThread n k x).decs = s.decs := rfl
@[simp] theorem State.setThread_cmps (n k : Nat) (x : Thread) : (s.setThread n k x).cmps = s.cmps := rfl
@[simp] theorem State.setThread_draws (n k : Nat) (x : Thread) : (s.setThread n k x).draws = s.draws := rfl
@[simp] theorem State.setThread_opOuts (n k : Nat) (x : Thread) : (s.setThread n k x).opOuts = s.opOuts := rfl
@[simp] theorem State.setThread_augs (n k : Nat) (x : Thread) : (s.setThread n k x).augs = s.augs := rfl
@[simp] theorem State.setThread_augRows (n k : Nat) (x : Thread) : (s.setThread n k x).augRows = s.augRows := rfl
@[simp] theorem State.setThread_cues (n k : Nat) (x : Thread) : (s.setThread n k x).cues = s.cues := rfl
@[simp] theorem State.setThread_time (n k : Nat) (x : Thread) : (s.setThread n k x).time = s.time := rfl
@[simp] theorem State.setThread_buckets (n k : Nat) (x : Thread) : (s.setThread n k x).buckets = s.buckets := rfl
@[simp] theorem State.setThread_link (n k : Nat) (x : Thread) : (s.setThread n k x).link = s.link := rfl
@[simp] theorem State.setThread_pins (n k : Nat) (x : Thread) : (s.setThread n k x).pins = s.pins := rfl
@[simp] theorem State.setThread_flt (n k : Nat) (x : Thread) : (s.setThread n k x).flt = s.flt := rfl
@[simp] theorem State.setThread_sec (n k : Nat) (x : Thread) : (s.setThread n k x).sec = s.sec := rfl
@[simp] theorem State.setThread_pwr (n k : Nat) (x : Thread) : (s.setThread n k x).pwr = s.pwr := rfl

@[simp] theorem State.setRing_regs (n : Nat) (r : Ring) : (s.setRing n r).regs = s.regs := rfl
@[simp] theorem State.setRing_staged (n : Nat) (r : Ring) : (s.setRing n r).staged = s.staged := rfl
@[simp] theorem State.setRing_pending (n : Nat) (r : Ring) : (s.setRing n r).pending = s.pending := rfl
@[simp] theorem State.setRing_out (n : Nat) (r : Ring) : (s.setRing n r).out = s.out := rfl
@[simp] theorem State.setRing_free (n : Nat) (r : Ring) : (s.setRing n r).free = s.free := rfl
@[simp] theorem State.setRing_beat (n : Nat) (r : Ring) : (s.setRing n r).beat = s.beat := rfl
@[simp] theorem State.setRing_beatOn (n : Nat) (r : Ring) : (s.setRing n r).beatOn = s.beatOn := rfl
@[simp] theorem State.setRing_beatHold (n : Nat) (r : Ring) : (s.setRing n r).beatHold = s.beatHold := rfl
@[simp] theorem State.setRing_mem (n : Nat) (r : Ring) : (s.setRing n r).mem = s.mem := rfl
@[simp] theorem State.setRing_slots (n : Nat) (r : Ring) : (s.setRing n r).slots = s.slots := rfl
@[simp] theorem State.setRing_admission (n : Nat) (r : Ring) : (s.setRing n r).admission = s.admission := rfl
@[simp] theorem State.setRing_doorbells (n : Nat) (r : Ring) : (s.setRing n r).doorbells = s.doorbells := rfl
@[simp] theorem State.setRing_tiles (n : Nat) (r : Ring) : (s.setRing n r).tiles = s.tiles := rfl
@[simp] theorem State.setRing_fsch (n : Nat) (r : Ring) : (s.setRing n r).fsch = s.fsch := rfl
@[simp] theorem State.setRing_queues (n : Nat) (r : Ring) : (s.setRing n r).queues = s.queues := rfl
@[simp] theorem State.setRing_owns (n : Nat) (r : Ring) : (s.setRing n r).owns = s.owns := rfl
@[simp] theorem State.setRing_car (n : Nat) (r : Ring) : (s.setRing n r).car = s.car := rfl
@[simp] theorem State.setRing_shares (n : Nat) (r : Ring) : (s.setRing n r).shares = s.shares := rfl
@[simp] theorem State.setRing_probeUnits (n : Nat) (r : Ring) : (s.setRing n r).probeUnits = s.probeUnits := rfl
@[simp] theorem State.setRing_decs (n : Nat) (r : Ring) : (s.setRing n r).decs = s.decs := rfl
@[simp] theorem State.setRing_cmps (n : Nat) (r : Ring) : (s.setRing n r).cmps = s.cmps := rfl
@[simp] theorem State.setRing_draws (n : Nat) (r : Ring) : (s.setRing n r).draws = s.draws := rfl
@[simp] theorem State.setRing_opOuts (n : Nat) (r : Ring) : (s.setRing n r).opOuts = s.opOuts := rfl
@[simp] theorem State.setRing_augs (n : Nat) (r : Ring) : (s.setRing n r).augs = s.augs := rfl
@[simp] theorem State.setRing_augRows (n : Nat) (r : Ring) : (s.setRing n r).augRows = s.augRows := rfl
@[simp] theorem State.setRing_cues (n : Nat) (r : Ring) : (s.setRing n r).cues = s.cues := rfl
@[simp] theorem State.setRing_time (n : Nat) (r : Ring) : (s.setRing n r).time = s.time := rfl
@[simp] theorem State.setRing_buckets (n : Nat) (r : Ring) : (s.setRing n r).buckets = s.buckets := rfl
@[simp] theorem State.setRing_link (n : Nat) (r : Ring) : (s.setRing n r).link = s.link := rfl
@[simp] theorem State.setRing_pins (n : Nat) (r : Ring) : (s.setRing n r).pins = s.pins := rfl
@[simp] theorem State.setRing_flt (n : Nat) (r : Ring) : (s.setRing n r).flt = s.flt := rfl
@[simp] theorem State.setRing_sec (n : Nat) (r : Ring) : (s.setRing n r).sec = s.sec := rfl
@[simp] theorem State.setRing_pwr (n : Nat) (r : Ring) : (s.setRing n r).pwr = s.pwr := rfl

@[simp] theorem State.tmWrite_regs (tile off : Nat) (bs : List Byte) : (s.tmWrite tile off bs).regs = s.regs := rfl
@[simp] theorem State.tmWrite_staged (tile off : Nat) (bs : List Byte) : (s.tmWrite tile off bs).staged = s.staged := rfl
@[simp] theorem State.tmWrite_pending (tile off : Nat) (bs : List Byte) : (s.tmWrite tile off bs).pending = s.pending := rfl
@[simp] theorem State.tmWrite_out (tile off : Nat) (bs : List Byte) : (s.tmWrite tile off bs).out = s.out := rfl
@[simp] theorem State.tmWrite_free (tile off : Nat) (bs : List Byte) : (s.tmWrite tile off bs).free = s.free := rfl
@[simp] theorem State.tmWrite_beat (tile off : Nat) (bs : List Byte) : (s.tmWrite tile off bs).beat = s.beat := rfl
@[simp] theorem State.tmWrite_beatOn (tile off : Nat) (bs : List Byte) : (s.tmWrite tile off bs).beatOn = s.beatOn := rfl
@[simp] theorem State.tmWrite_beatHold (tile off : Nat) (bs : List Byte) : (s.tmWrite tile off bs).beatHold = s.beatHold := rfl
@[simp] theorem State.tmWrite_slots (tile off : Nat) (bs : List Byte) : (s.tmWrite tile off bs).slots = s.slots := rfl
@[simp] theorem State.tmWrite_admission (tile off : Nat) (bs : List Byte) : (s.tmWrite tile off bs).admission = s.admission := rfl
@[simp] theorem State.tmWrite_rings (tile off : Nat) (bs : List Byte) : (s.tmWrite tile off bs).rings = s.rings := rfl
@[simp] theorem State.tmWrite_doorbells (tile off : Nat) (bs : List Byte) : (s.tmWrite tile off bs).doorbells = s.doorbells := rfl
@[simp] theorem State.tmWrite_tiles (tile off : Nat) (bs : List Byte) : (s.tmWrite tile off bs).tiles = s.tiles := rfl
@[simp] theorem State.tmWrite_fsch (tile off : Nat) (bs : List Byte) : (s.tmWrite tile off bs).fsch = s.fsch := rfl
@[simp] theorem State.tmWrite_queues (tile off : Nat) (bs : List Byte) : (s.tmWrite tile off bs).queues = s.queues := rfl
@[simp] theorem State.tmWrite_owns (tile off : Nat) (bs : List Byte) : (s.tmWrite tile off bs).owns = s.owns := rfl
@[simp] theorem State.tmWrite_car (tile off : Nat) (bs : List Byte) : (s.tmWrite tile off bs).car = s.car := rfl
@[simp] theorem State.tmWrite_shares (tile off : Nat) (bs : List Byte) : (s.tmWrite tile off bs).shares = s.shares := rfl
@[simp] theorem State.tmWrite_probeUnits (tile off : Nat) (bs : List Byte) : (s.tmWrite tile off bs).probeUnits = s.probeUnits := rfl
@[simp] theorem State.tmWrite_decs (tile off : Nat) (bs : List Byte) : (s.tmWrite tile off bs).decs = s.decs := rfl
@[simp] theorem State.tmWrite_cmps (tile off : Nat) (bs : List Byte) : (s.tmWrite tile off bs).cmps = s.cmps := rfl
@[simp] theorem State.tmWrite_draws (tile off : Nat) (bs : List Byte) : (s.tmWrite tile off bs).draws = s.draws := rfl
@[simp] theorem State.tmWrite_opOuts (tile off : Nat) (bs : List Byte) : (s.tmWrite tile off bs).opOuts = s.opOuts := rfl
@[simp] theorem State.tmWrite_augs (tile off : Nat) (bs : List Byte) : (s.tmWrite tile off bs).augs = s.augs := rfl
@[simp] theorem State.tmWrite_augRows (tile off : Nat) (bs : List Byte) : (s.tmWrite tile off bs).augRows = s.augRows := rfl
@[simp] theorem State.tmWrite_cues (tile off : Nat) (bs : List Byte) : (s.tmWrite tile off bs).cues = s.cues := rfl
@[simp] theorem State.tmWrite_time (tile off : Nat) (bs : List Byte) : (s.tmWrite tile off bs).time = s.time := rfl
@[simp] theorem State.tmWrite_buckets (tile off : Nat) (bs : List Byte) : (s.tmWrite tile off bs).buckets = s.buckets := rfl
@[simp] theorem State.tmWrite_link (tile off : Nat) (bs : List Byte) : (s.tmWrite tile off bs).link = s.link := rfl
@[simp] theorem State.tmWrite_pins (tile off : Nat) (bs : List Byte) : (s.tmWrite tile off bs).pins = s.pins := rfl
@[simp] theorem State.tmWrite_flt (tile off : Nat) (bs : List Byte) : (s.tmWrite tile off bs).flt = s.flt := rfl
@[simp] theorem State.tmWrite_sec (tile off : Nat) (bs : List Byte) : (s.tmWrite tile off bs).sec = s.sec := rfl
@[simp] theorem State.tmWrite_pwr (tile off : Nat) (bs : List Byte) : (s.tmWrite tile off bs).pwr = s.pwr := rfl

@[simp] theorem State.writeDev_regs (a : Nat) (bs : List Byte) (poison : Bool) : (s.writeDev a bs poison).regs = s.regs := rfl
@[simp] theorem State.writeDev_staged (a : Nat) (bs : List Byte) (poison : Bool) : (s.writeDev a bs poison).staged = s.staged := rfl
@[simp] theorem State.writeDev_pending (a : Nat) (bs : List Byte) (poison : Bool) : (s.writeDev a bs poison).pending = s.pending := rfl
@[simp] theorem State.writeDev_out (a : Nat) (bs : List Byte) (poison : Bool) : (s.writeDev a bs poison).out = s.out := rfl
@[simp] theorem State.writeDev_free (a : Nat) (bs : List Byte) (poison : Bool) : (s.writeDev a bs poison).free = s.free := rfl
@[simp] theorem State.writeDev_beat (a : Nat) (bs : List Byte) (poison : Bool) : (s.writeDev a bs poison).beat = s.beat := rfl
@[simp] theorem State.writeDev_beatOn (a : Nat) (bs : List Byte) (poison : Bool) : (s.writeDev a bs poison).beatOn = s.beatOn := rfl
@[simp] theorem State.writeDev_beatHold (a : Nat) (bs : List Byte) (poison : Bool) : (s.writeDev a bs poison).beatHold = s.beatHold := rfl
@[simp] theorem State.writeDev_slots (a : Nat) (bs : List Byte) (poison : Bool) : (s.writeDev a bs poison).slots = s.slots := rfl
@[simp] theorem State.writeDev_admission (a : Nat) (bs : List Byte) (poison : Bool) : (s.writeDev a bs poison).admission = s.admission := rfl
@[simp] theorem State.writeDev_rings (a : Nat) (bs : List Byte) (poison : Bool) : (s.writeDev a bs poison).rings = s.rings := rfl
@[simp] theorem State.writeDev_doorbells (a : Nat) (bs : List Byte) (poison : Bool) : (s.writeDev a bs poison).doorbells = s.doorbells := rfl
@[simp] theorem State.writeDev_tiles (a : Nat) (bs : List Byte) (poison : Bool) : (s.writeDev a bs poison).tiles = s.tiles := rfl
@[simp] theorem State.writeDev_fsch (a : Nat) (bs : List Byte) (poison : Bool) : (s.writeDev a bs poison).fsch = s.fsch := rfl
@[simp] theorem State.writeDev_queues (a : Nat) (bs : List Byte) (poison : Bool) : (s.writeDev a bs poison).queues = s.queues := rfl
@[simp] theorem State.writeDev_owns (a : Nat) (bs : List Byte) (poison : Bool) : (s.writeDev a bs poison).owns = s.owns := rfl
@[simp] theorem State.writeDev_car (a : Nat) (bs : List Byte) (poison : Bool) : (s.writeDev a bs poison).car = s.car := rfl
@[simp] theorem State.writeDev_shares (a : Nat) (bs : List Byte) (poison : Bool) : (s.writeDev a bs poison).shares = s.shares := rfl
@[simp] theorem State.writeDev_probeUnits (a : Nat) (bs : List Byte) (poison : Bool) : (s.writeDev a bs poison).probeUnits = s.probeUnits := rfl
@[simp] theorem State.writeDev_decs (a : Nat) (bs : List Byte) (poison : Bool) : (s.writeDev a bs poison).decs = s.decs := rfl
@[simp] theorem State.writeDev_cmps (a : Nat) (bs : List Byte) (poison : Bool) : (s.writeDev a bs poison).cmps = s.cmps := rfl
@[simp] theorem State.writeDev_draws (a : Nat) (bs : List Byte) (poison : Bool) : (s.writeDev a bs poison).draws = s.draws := rfl
@[simp] theorem State.writeDev_opOuts (a : Nat) (bs : List Byte) (poison : Bool) : (s.writeDev a bs poison).opOuts = s.opOuts := rfl
@[simp] theorem State.writeDev_augs (a : Nat) (bs : List Byte) (poison : Bool) : (s.writeDev a bs poison).augs = s.augs := rfl
@[simp] theorem State.writeDev_augRows (a : Nat) (bs : List Byte) (poison : Bool) : (s.writeDev a bs poison).augRows = s.augRows := rfl
@[simp] theorem State.writeDev_cues (a : Nat) (bs : List Byte) (poison : Bool) : (s.writeDev a bs poison).cues = s.cues := rfl
@[simp] theorem State.writeDev_time (a : Nat) (bs : List Byte) (poison : Bool) : (s.writeDev a bs poison).time = s.time := rfl
@[simp] theorem State.writeDev_buckets (a : Nat) (bs : List Byte) (poison : Bool) : (s.writeDev a bs poison).buckets = s.buckets := rfl
@[simp] theorem State.writeDev_link (a : Nat) (bs : List Byte) (poison : Bool) : (s.writeDev a bs poison).link = s.link := rfl
@[simp] theorem State.writeDev_pins (a : Nat) (bs : List Byte) (poison : Bool) : (s.writeDev a bs poison).pins = s.pins := rfl
@[simp] theorem State.writeDev_flt (a : Nat) (bs : List Byte) (poison : Bool) : (s.writeDev a bs poison).flt = s.flt := rfl
@[simp] theorem State.writeDev_sec (a : Nat) (bs : List Byte) (poison : Bool) : (s.writeDev a bs poison).sec = s.sec := rfl
@[simp] theorem State.writeDev_pwr (a : Nat) (bs : List Byte) (poison : Bool) : (s.writeDev a bs poison).pwr = s.pwr := rfl

@[simp] theorem State.popped_regs : (s.popped).regs = s.regs := rfl
@[simp] theorem State.popped_staged : (s.popped).staged = s.staged := rfl
@[simp] theorem State.popped_out : (s.popped).out = s.out := rfl
@[simp] theorem State.popped_free : (s.popped).free = s.free := rfl
@[simp] theorem State.popped_beat : (s.popped).beat = s.beat := rfl
@[simp] theorem State.popped_beatOn : (s.popped).beatOn = s.beatOn := rfl
@[simp] theorem State.popped_beatHold : (s.popped).beatHold = s.beatHold := rfl
@[simp] theorem State.popped_mem : (s.popped).mem = s.mem := rfl
@[simp] theorem State.popped_slots : (s.popped).slots = s.slots := rfl
@[simp] theorem State.popped_admission : (s.popped).admission = s.admission := rfl
@[simp] theorem State.popped_rings : (s.popped).rings = s.rings := rfl
@[simp] theorem State.popped_doorbells : (s.popped).doorbells = s.doorbells := rfl
@[simp] theorem State.popped_tiles : (s.popped).tiles = s.tiles := rfl
@[simp] theorem State.popped_fsch : (s.popped).fsch = s.fsch := rfl
@[simp] theorem State.popped_queues : (s.popped).queues = s.queues := rfl
@[simp] theorem State.popped_owns : (s.popped).owns = s.owns := rfl
@[simp] theorem State.popped_car : (s.popped).car = s.car := rfl
@[simp] theorem State.popped_shares : (s.popped).shares = s.shares := rfl
@[simp] theorem State.popped_probeUnits : (s.popped).probeUnits = s.probeUnits := rfl
@[simp] theorem State.popped_decs : (s.popped).decs = s.decs := rfl
@[simp] theorem State.popped_cmps : (s.popped).cmps = s.cmps := rfl
@[simp] theorem State.popped_draws : (s.popped).draws = s.draws := rfl
@[simp] theorem State.popped_opOuts : (s.popped).opOuts = s.opOuts := rfl
@[simp] theorem State.popped_augs : (s.popped).augs = s.augs := rfl
@[simp] theorem State.popped_augRows : (s.popped).augRows = s.augRows := rfl
@[simp] theorem State.popped_cues : (s.popped).cues = s.cues := rfl
@[simp] theorem State.popped_time : (s.popped).time = s.time := rfl
@[simp] theorem State.popped_buckets : (s.popped).buckets = s.buckets := rfl
@[simp] theorem State.popped_link : (s.popped).link = s.link := rfl
@[simp] theorem State.popped_pins : (s.popped).pins = s.pins := rfl
@[simp] theorem State.popped_flt : (s.popped).flt = s.flt := rfl
@[simp] theorem State.popped_sec : (s.popped).sec = s.sec := rfl
@[simp] theorem State.popped_pwr : (s.popped).pwr = s.pwr := rfl

@[simp] theorem State.withCommand_regs (c : Instr) : (s.withCommand c).regs = s.regs := rfl
@[simp] theorem State.withCommand_staged (c : Instr) : (s.withCommand c).staged = s.staged := rfl
@[simp] theorem State.withCommand_out (c : Instr) : (s.withCommand c).out = s.out := rfl
@[simp] theorem State.withCommand_free (c : Instr) : (s.withCommand c).free = s.free := rfl
@[simp] theorem State.withCommand_beat (c : Instr) : (s.withCommand c).beat = s.beat := rfl
@[simp] theorem State.withCommand_beatOn (c : Instr) : (s.withCommand c).beatOn = s.beatOn := rfl
@[simp] theorem State.withCommand_beatHold (c : Instr) : (s.withCommand c).beatHold = s.beatHold := rfl
@[simp] theorem State.withCommand_mem (c : Instr) : (s.withCommand c).mem = s.mem := rfl
@[simp] theorem State.withCommand_slots (c : Instr) : (s.withCommand c).slots = s.slots := rfl
@[simp] theorem State.withCommand_admission (c : Instr) : (s.withCommand c).admission = s.admission := rfl
@[simp] theorem State.withCommand_rings (c : Instr) : (s.withCommand c).rings = s.rings := rfl
@[simp] theorem State.withCommand_doorbells (c : Instr) : (s.withCommand c).doorbells = s.doorbells := rfl
@[simp] theorem State.withCommand_tiles (c : Instr) : (s.withCommand c).tiles = s.tiles := rfl
@[simp] theorem State.withCommand_fsch (c : Instr) : (s.withCommand c).fsch = s.fsch := rfl
@[simp] theorem State.withCommand_queues (c : Instr) : (s.withCommand c).queues = s.queues := rfl
@[simp] theorem State.withCommand_owns (c : Instr) : (s.withCommand c).owns = s.owns := rfl
@[simp] theorem State.withCommand_car (c : Instr) : (s.withCommand c).car = s.car := rfl
@[simp] theorem State.withCommand_shares (c : Instr) : (s.withCommand c).shares = s.shares := rfl
@[simp] theorem State.withCommand_probeUnits (c : Instr) : (s.withCommand c).probeUnits = s.probeUnits := rfl
@[simp] theorem State.withCommand_decs (c : Instr) : (s.withCommand c).decs = s.decs := rfl
@[simp] theorem State.withCommand_cmps (c : Instr) : (s.withCommand c).cmps = s.cmps := rfl
@[simp] theorem State.withCommand_draws (c : Instr) : (s.withCommand c).draws = s.draws := rfl
@[simp] theorem State.withCommand_opOuts (c : Instr) : (s.withCommand c).opOuts = s.opOuts := rfl
@[simp] theorem State.withCommand_augs (c : Instr) : (s.withCommand c).augs = s.augs := rfl
@[simp] theorem State.withCommand_augRows (c : Instr) : (s.withCommand c).augRows = s.augRows := rfl
@[simp] theorem State.withCommand_cues (c : Instr) : (s.withCommand c).cues = s.cues := rfl
@[simp] theorem State.withCommand_time (c : Instr) : (s.withCommand c).time = s.time := rfl
@[simp] theorem State.withCommand_buckets (c : Instr) : (s.withCommand c).buckets = s.buckets := rfl
@[simp] theorem State.withCommand_link (c : Instr) : (s.withCommand c).link = s.link := rfl
@[simp] theorem State.withCommand_pins (c : Instr) : (s.withCommand c).pins = s.pins := rfl
@[simp] theorem State.withCommand_flt (c : Instr) : (s.withCommand c).flt = s.flt := rfl
@[simp] theorem State.withCommand_sec (c : Instr) : (s.withCommand c).sec = s.sec := rfl
@[simp] theorem State.withCommand_pwr (c : Instr) : (s.withCommand c).pwr = s.pwr := rfl

@[simp] theorem State.popped_pending : s.popped.pending = s.pending.tail := rfl
@[simp] theorem State.withCommand_pending (c : Instr) : (s.withCommand c).pending = c :: s.pending := rfl
@[simp] theorem State.emit_out (m : Msg) : (s.emit m).out = m :: s.out := rfl

end Sys2Proof.Machine
end

