-- ==== Sys2Proof/Laws/Threads.lean ====
section
/-!
SUPPORT. The laws of tiles, threads and their registers, and what issuing an instruction changes.
-/

namespace Sys2Proof.Machine

open Sys2Proof

@[simp] theorem State.tile_setTile_self (s : State) (n : Nat) (t : Tile) : (s.setTile n t).tile n = t := by
  simp [State.tile, State.setTile]

theorem State.tile_setTile_ne (s : State) {n m : Nat} (t : Tile) (h : m ≠ n) : (s.setTile n t).tile m = s.tile m := by
  simp [State.tile, State.setTile, kget_kset_ne _ h]

@[simp] theorem Tile.thread_setThread_self (t : Tile) (k : Nat) (x : Thread) : (t.setThread k x).thread k = x := by
  simp [Tile.thread, Tile.setThread]

theorem Tile.thread_setThread_ne (t : Tile) {k j : Nat} (x : Thread) (h : j ≠ k) :
    (t.setThread k x).thread j = t.thread j := by
  simp [Tile.thread, Tile.setThread, kget_kset_ne _ h]

@[simp] theorem State.thread_setThread_self (s : State) (n k : Nat) (x : Thread) : (s.setThread n k x).thread n k = x := by
  simp [State.thread, State.setThread]

theorem State.thread_setThread_ne (s : State) {n k m j : Nat} (x : Thread) (h : ¬ (m = n ∧ j = k)) :
    (s.setThread n k x).thread m j = s.thread m j := by
  unfold State.thread State.setThread
  by_cases hm : m = n
  · subst hm
    rw [State.tile_setTile_self, Tile.thread_setThread_ne _ _ (by simpa using h)]
  · rw [State.tile_setTile_ne _ _ hm]

theorem State.tile_setThread (s : State) (n k m : Nat) (x : Thread) :
    { (s.setThread n k x).tile m with threads := [] } = { s.tile m with threads := [] } := by
  unfold State.setThread
  by_cases hm : m = n
  · subst hm; rw [State.tile_setTile_self]; rfl
  · rw [State.tile_setTile_ne _ _ hm]

/-- Registers of a thread after a write. -/
@[simp] theorem Thread.vreg_setV_self (x : Thread) (k : Nat) (v : VReg) : (x.setV k v).vreg k = v := by
  simp [Thread.vreg, Thread.setV]
theorem Thread.vreg_setV_ne (x : Thread) {k j : Nat} (v : VReg) (h : j ≠ k) : (x.setV k v).vreg j = x.vreg j := by
  simp [Thread.vreg, Thread.setV, kget_kset_ne _ h]
theorem Thread.sreg_setS_self (x : Thread) {k : Nat} (v : Word) (h : k ≠ 0) : (x.setS k v).sreg k = v := by
  simp [Thread.sreg, Thread.setS, h]
theorem Thread.sreg_setS_ne (x : Thread) {k j : Nat} (v : Word) (h : j ≠ k ∨ j = 0) : (x.setS k v).sreg j = x.sreg j := by
  unfold Thread.sreg Thread.setS
  by_cases hj : j = 0
  · simp [hj]
  · have hjk : j ≠ k := by tauto
    simp only [hj, if_false]
    split
    · rfl
    · exact kget_kset_ne _ hjk _
theorem Thread.mreg_setM_self (x : Thread) {k : Nat} (v : MReg) (h : k ≠ 0) : (x.setM k v).mreg k = v := by
  simp [Thread.mreg, Thread.setM, h]
theorem Thread.mreg_setM_ne (x : Thread) {k j : Nat} (v : MReg) (h : j ≠ k ∨ j = 0) : (x.setM k v).mreg j = x.mreg j := by
  unfold Thread.mreg Thread.setM
  by_cases hj : j = 0
  · simp [hj]
  · have hjk : j ≠ k := by tauto
    simp only [hj, if_false]
    split
    · rfl
    · exact kget_kset_ne _ hjk _

/-- A vector result that is written, with the program counter moved on. -/
theorem vectorWritten_putVF (x : Thread) (d : Nat) (r : Nat × Nat) : VectorWritten d r.1 r.2 x (x.putVF d r).next := by
  refine ⟨rfl, ?_, fun k hk => ?_⟩
  · exact Thread.vreg_setV_self x d _
  · exact Thread.vreg_setV_ne x _ hk

theorem scalarWritten_putSF (x : Thread) (d : Nat) (r : Nat × Nat) : ScalarWritten d r.1 r.2 x (x.putSF d r).next := by
  refine ⟨?_, fun hd => ?_, fun k hk => ?_⟩
  · unfold Thread.putSF Thread.putS Thread.setS
    split <;> rfl
  · exact Thread.sreg_setS_self x _ hd
  · exact Thread.sreg_setS_ne x _ hk

theorem maskWritten_setM (x : Thread) (d v : Nat) : MaskWritten d v x (x.setM d (BitVec.ofNat 512 v)).next := by
  refine ⟨?_, fun hd => ?_, fun k hk => ?_⟩
  · unfold Thread.setM
    split <;> rfl
  · exact Thread.mreg_setM_self x _ hd
  · exact Thread.mreg_setM_ne x _ hk

/-- Counting an event leaves everything but registers alone. -/
theorem State.perf_eq (s : State) (page ev n : Nat) : s.perf page ev n = { s with regs := (s.perf page ev n).regs } :=
  (onlyBits_perf s page ev n).1
@[simp] theorem State.perf_tile (s : State) (page ev n m : Nat) : (s.perf page ev n).tile m = s.tile m := by
  rw [State.perf_eq]; rfl
@[simp] theorem State.perf_thread (s : State) (page ev n m k : Nat) :
    (s.perf page ev n).thread m k = s.thread m k := by
  rw [State.perf_eq]; rfl

/-- A thread's registers written and the issue counted: nothing else changes. -/
theorem threadFrame_setThread_perf (s : State) (tile th ev n : Nat) (x : Thread) :
    ThreadFrame tile th s ((s.setThread tile th x).perf (pgTILE tile) ev n) := by
  refine ⟨?_, ?_, fun m k hk => ?_, fun m => ?_⟩
  · rw [State.perf_eq]; rfl
  · exact (onlyBits_perf (s.setThread tile th x) _ _ _).2
  · rw [State.perf_thread, State.thread_setThread_ne _ _ hk]
  · rw [State.perf_tile, State.tile_setThread]

/-- Issue of an instruction that changes its own thread alone (R146). -/
theorem State.issue_next (s : State) {tile th : Nat} (f : Thread → Thread) (h : s.canIssue tile th = true) :
    (s.issue tile th f).thread tile th = (f (s.thread tile th)).next ∧ ThreadFrame tile th s (s.issue tile th f) := by
  unfold State.issue
  rw [if_pos h]
  exact ⟨by simp, threadFrame_setThread_perf ..⟩

end Sys2Proof.Machine
end

