-- ==== Sys2Proof/Laws/Mem.lean ====
section
/-!
SUPPORT. The laws of memory and of sparse state over all addresses and indexes: every address of a half that is up has a
place, a table whose shadow copy lies in store memory is shadowed, a list of tiles without a waiting thread has none.
-/

namespace Sys2Proof.Machine

open Sys2Proof

theorem kfind_mem {α : Type} : ∀ (m : KMap α) (k : Nat) (v : α), kfind m k = some v → (k, v) ∈ m
  | [], _, _, h => by simp [kfind] at h
  | (j, w) :: m, k, v, h => by
    unfold kfind at h
    split at h
    · rename_i e
      rw [e, Option.some.inj h]
      exact List.mem_cons_self ..
    · exact List.mem_cons_of_mem _ (kfind_mem m k v h)

theorem kget_all {α : Type} (d : Nat → α) (P : α → Prop) (hd : ∀ k, P (d k)) (m : KMap α) (h : ∀ p ∈ m, P p.2) (k : Nat) :
    P (kget d m k) := by
  unfold kget
  cases e : kfind m k with
  | none => exact hd k
  | some v => exact h (k, v) (kfind_mem m k v e)

/-- No thread waits when none of those that are listed does. -/
theorem State.noWaits_of_all (s : State)
    (h : (s.tiles.all fun t => t.2.threads.all fun x => x.2.wait.isNone) = true) : s.noWaits := by
  intro n k
  have ht := kget_all (fun _ => ({} : Tile)) (fun t => ∀ k, (t.thread k).wait = none) (fun _ _ => rfl) s.tiles
    (fun p hp k => kget_all (fun _ => ({} : Thread)) (fun x => x.wait = none) (fun _ => rfl) p.2.threads
      (fun q hq => by simpa using List.all_eq_true.1 (List.all_eq_true.1 h p hp) q hq) k) n
  exact ht k

/-- What is true of every table that is listed is true of every table. -/
theorem State.table_of_all (s : State) (P : Nat → CarTable → Bool)
    (h : (s.car.tables.all fun p => p.2.all (P p.1)) = true) (u : Nat) (t : CarTable) (e : s.table u = some t) :
    P u t = true := by
  unfold State.table kget at e
  cases k : kfind s.car.tables u with
  | none => rw [k] at e; simp at e
  | some v =>
    rw [k] at e
    have := List.all_eq_true.1 h _ (kfind_mem _ _ _ k)
    simp only [Option.getD_some] at e
    simpa [e] using this

/-- Every address of store memory has a place while both halves are up (R366, R368). -/
theorem State.locate_store (s : State) (a : Nat) (h0 : s.halfUp 0 = true) (h1 : s.halfUp 1 = true) (lo : storeBase ≤ a)
    (hi : a < storeTop) : (s.locate a).isSome = true := by
  have hb : storeBase = 0x40_0000_0000 := rfl
  have ht : storeTop = 0x40_A000_0000 := by decide
  have e : hbmTop = 0x40_0000_0000 := rfl
  have hh : halfBytes = 0x5000_0000 := rfl
  rw [hb] at lo
  rw [ht] at hi
  have up : s.halfUp ((a - storeBase) / halfBytes) = true := by
    have : (a - storeBase) / halfBytes = 0 ∨ (a - storeBase) / halfBytes = 1 := by rw [hb, hh]; omega
    rcases this with h | h <;> rw [h] <;> assumption
  unfold State.locate
  rw [if_neg (by rw [e]; omega), if_pos (by rw [ht]; exact hi), if_pos up]
  generalize hk : (a - storeBase) / halfBytes = k
  unfold hbmMap
  have hr : (a - storeBase) % halfBytes < 0x5000_0000 := by rw [hh]; omega
  generalize (a - storeBase) % halfBytes = o at hr
  simp only [List.length_map, List.length_range, Option.isSome_map]
  rw [if_neg (by decide), if_neg (by omega)]
  simp [List.getElem?_map]
  omega

/-- A table whose shadow copies lie in store memory is shadowed. -/
theorem State.shadowed_of (s : State) (t : CarTable) (set : Nat) (h0 : s.halfUp 0 = true) (h1 : s.halfUp 1 = true)
    (lo : storeBase ≤ ((s.slot t.slot).alloc.shadow.map Region.base).getD 0)
    (hi : ∀ r, r < t.replicas → ∀ j, j < t.bells → s.shadowAddr t set r j 0 + 2 ^ 21 ≤ storeTop)
    (hb : ∀ r, r < t.replicas → ∀ j, j < t.bells → ((s.bell (s.physBell t set r j)).all fun p => p.1 < bellSize) = true) :
    s.shadowed t set := by
  constructor
  · intro r j i hr hj hi'
    have h := hi r hr j hj
    have hs : bellSize = 16384 := rfl
    apply s.locate_store _ h0 h1 <;> unfold State.shadowAddr at * <;> omega
  · intro r j i e hr hj hm
    simpa using List.all_eq_true.1 (hb r hr j hj) _ hm

/-- Bells that no two places of a set share. -/
theorem State.bellsApart_of (s : State) (t : CarTable) (set : Nat)
    (h : ∀ r, r < t.replicas → ∀ j, j < t.bells → ∀ r', r' < t.replicas → ∀ j', j' < t.bells →
      s.physBell t set r j = s.physBell t set r' j' → r = r' ∧ j = j') : s.bellsApart t set :=
  fun r j r' j' hr hr' hj hj' => h r hr j hj r' hr' j' hj'

end Sys2Proof.Machine
end

