-- ==== Sys2Proof/WellFormed.lean ====
section
/-!
DEFINITION. Well-formed commands: instruction words that R162 and R163 admit, data of the length that their transfer
has, error sources that the page defines.
-/

namespace Sys2Proof

open Machine

/-- The command is one that the device can receive. -/
def Instr.wf : Instr → Bool
  | .regWrite _ _ _ _ _ _ => true
  | .enable _ _ => true
  | .blockDrained _ => true
  | .sreset _ => true
  | .sresetDone _ => true
  | .shdApply _ => true
  | .cueArm _ _ _ => true
  | .errForce _ _ => true
  | .perfClear _ _ => true
  | .perfClearAll _ => true
  | .errorDetected page src _ => definesSource page src
  | .safeStateComplete => true
  | .quietEnd _ => true
  | .dbgRecovGo _ => true
  | .release => true
  | .inHourExpire => true
  | .dbg1500Go _ _ => true
  | .glbLgrpBind _ => true
  | .hmc0ZoneWrite _ _ => true
  | .cmdqRingEnable _ => true
  | .cmdqDoorbell _ _ _ _ => true
  | .cmdEntryFetch _ entry => match entry with
    | some e => e.length == 64
    | none => true
  | .cplWriteAck _ => true
  | .nop _ => true
  | .planLoad _ _ => true
  | .admissionCopyDone _ => true
  | .planStart _ => true
  | .planStop _ => true
  | .planAbort _ => true
  | .planUnload _ => true
  | .planSetParam _ _ => true
  | .stageStart _ _ _ => true
  | .tileArrive _ => true
  | .stewardArrive _ _ => true
  | .gongTimeout _ _ => true
  | .varith _ _ var mask ty b a d => okV 0x01 var.toNat mask.toNat ty.toNat b.toNat a.toNat d.toNat
  | .vfma _ _ var mask ty b a d => okV 0x02 var.toNat mask.toNat ty.toNat b.toNat a.toNat d.toNat
  | .vlogic _ _ var mask ty b a d => okV 0x03 var.toNat mask.toNat ty.toNat b.toNat a.toNat d.toNat
  | .vunary _ _ var mask ty b a d => okV 0x04 var.toNat mask.toNat ty.toNat b.toNat a.toNat d.toNat
  | .vtrans _ _ var mask ty b a d => okV 0x05 var.toNat mask.toNat ty.toNat b.toNat a.toNat d.toNat
  | .vcmp _ _ var mask ty b a d => okV 0x06 var.toNat mask.toNat ty.toNat b.toNat a.toNat d.toNat
  | .vsel _ _ var mask ty b a d => okV 0x07 var.toNat mask.toNat ty.toNat b.toNat a.toNat d.toNat
  | .vcvt _ _ var mask ty b a d => okV 0x08 var.toNat mask.toNat ty.toNat b.toNat a.toNat d.toNat
  | .vmx _ _ var mask ty b a d => okV 0x09 var.toNat mask.toNat ty.toNat b.toNat a.toNat d.toNat
  | .vdec _ _ var mask ty b a d => okV 0x0A var.toNat mask.toNat ty.toNat b.toNat a.toNat d.toNat
  | .vred _ _ var mask ty b a d => okV 0x0B var.toNat mask.toNat ty.toNat b.toNat a.toNat d.toNat
  | .vperm _ _ var mask ty b a d => okV 0x0C var.toNat mask.toNat ty.toNat b.toNat a.toNat d.toNat
  | .vsortSort64 _ _ mask ty b a d => okV 0x0D 0 mask.toNat ty.toNat b.toNat a.toNat d.toNat
  | .vsortMerge _ _ mask ty b a d => okV 0x0D 1 mask.toNat ty.toNat b.toNat a.toNat d.toNat
  | .vsortTopk _ _ mask ty b a d => okV 0x0D 2 mask.toNat ty.toNat b.toNat a.toNat d.toNat
  | .vhash _ _ var mask ty b a d => okV 0x0E var.toNat mask.toNat ty.toNat b.toNat a.toNat d.toNat
  | .vbucket _ _ var mask ty b a d => okV 0x0F var.toNat mask.toNat ty.toNat b.toNat a.toNat d.toNat
  | .vnorm _ _ var mask ty b a d => okV 0x10 var.toNat mask.toNat ty.toNat b.toNat a.toNat d.toNat
  | .vld _ _ imm f3 a d _ => okI 0x14 imm.toNat f3.toNat a.toNat d.toNat
  | .vst _ _ imm f3 a d => okI 0x15 imm.toNat f3.toNat a.toNat d.toNat
  | .vldx _ _ var mask ty b a d _ => okV 0x16 var.toNat mask.toNat ty.toNat b.toNat a.toNat d.toNat
  | .vstx _ _ var mask ty b a d => okV 0x17 var.toNat mask.toNat ty.toNat b.toNat a.toNat d.toNat
  | .sld _ _ imm f3 a d _ => okI 0x18 imm.toNat f3.toNat a.toNat d.toNat
  | .sst _ _ imm f3 a d => okI 0x19 imm.toNat f3.toNat a.toNat d.toNat
  | .vmovs _ _ imm f3 a d => okI 0x1A imm.toNat f3.toNat a.toNat d.toNat
  | .vins _ _ imm f3 a d => okI 0x1B imm.toNat f3.toNat a.toNat d.toNat
  | .salu _ _ var mask ty b a d => okV 0x20 var.toNat mask.toNat ty.toNat b.toNat a.toNat d.toNat
  | .salui _ _ imm f3 a d => okI 0x21 imm.toNat f3.toNat a.toNat d.toNat
  | .slui _ _ _ _ => true
  | .sconst _ _ imm f3 a d => okI 0x23 imm.toNat f3.toNat a.toNat d.toNat
  | .sparam _ _ imm f3 a d => okI 0x24 imm.toNat f3.toNat a.toNat d.toNat
  | .smisc _ _ imm f3 a d => okI 0x25 imm.toNat f3.toNat a.toNat d.toNat
  | .br _ _ imm b a cond => okB 0x30 imm.toNat b.toNat cond.toNat && (cond.toNat ≤ 5 || a.toNat ≤ 7)
  | .jmp _ _ _ => true
  | .call _ _ _ => true
  | .ret _ _ imm => imm.toNat == 0
  | .endThread _ _ imm => imm.toNat == 0
  | .strmIssue _ _ _ _ => true
  | .strmWait _ _ _ d => d.toNat == 0
  | .strmTake _ _ _ _ => true
  | .strmFree _ _ _ _ => true
  | .eventGet _ _ imm a d => okI 0x39 imm.toNat 0 a.toNat d.toNat
  | .eventDone _ _ imm a d => okI 0x39 imm.toNat 1 a.toNat d.toNat
  | .eventPost _ _ imm a d => okI 0x39 imm.toNat 2 a.toNat d.toNat
  | .eventDelay _ _ imm a d => okI 0x39 imm.toNat 3 a.toNat d.toNat
  | .itemBegin _ _ imm b _ => okB 0x3A imm.toNat b.toNat 0
  | .itemEnd _ _ imm b _ => okB 0x3A imm.toNat b.toNat 1
  | .probeLookup _ _ mask ty b a d => okV 0x40 0 mask.toNat ty.toNat b.toNat a.toNat d.toNat && d.toNat % 2 == 0
  | .probeInsert _ _ mask ty b a d => okV 0x40 1 mask.toNat ty.toNat b.toNat a.toNat d.toNat && d.toNat % 2 == 0
  | .probeUpdate _ _ mask ty b a d => okV 0x40 2 mask.toNat ty.toNat b.toNat a.toNat d.toNat && d.toNat % 2 == 0
  | .csrchSearch _ _ mask ty b a d => okV 0x41 0 mask.toNat ty.toNat b.toNat a.toNat d.toNat && d.toNat % 2 == 0
  | .csrchTokenise _ _ mask ty b a d => okV 0x41 1 mask.toNat ty.toNat b.toNat a.toNat d.toNat
  | .csrchRange _ _ mask ty b a d => okV 0x41 2 mask.toNat ty.toNat b.toNat a.toNat d.toNat
  | .projLoadw _ _ var mask ty b a d => okV 0x42 var.toNat mask.toNat ty.toNat b.toNat a.toNat d.toNat && (var.toNat == 0 || var.toNat == 5)
  | .projMv _ _ var mask ty b a d => okV 0x42 var.toNat mask.toNat ty.toNat b.toNat a.toNat d.toNat && (var.toNat == 1 || var.toNat == 2)
  | .projMvacc _ _ var mask ty b a d => okV 0x42 var.toNat mask.toNat ty.toNat b.toNat a.toNat d.toNat && (var.toNat == 3 || var.toNat == 4)
  | .itemDivert _ _ => true
  | .itemReturn _ _ _ => true
  | .divertTake _ => true
  | .readLineReturn _ _ _ _ _ _ => true
  | .writeAck _ _ _ _ _ _ => true
  | .combineRequest _ _ _ => true
  | .xlateResponse _ _ _ _ => true
  | .pageResponse _ _ _ => true
  | .pfTimeout _ _ => true
  | .bwsplitWindow _ => true
  | .decodeInput _ _ => true
  | .decStreamSwitch _ _ => true
  | .contextRestore _ => true
  | .decAssistReturn _ _ => true
  | .echoCheckDone _ _ _ _ _ _ _ _ => true
  | .probeServe _ _ => true
  | .probeResponse _ => true
  | .gracePass _ => true
  | .hotReplicate _ => true
  | .carSearch _ _ => true
  | .carInsert _ _ => true
  | .shiftDone _ => true
  | .carDelete _ _ => true
  | .carModify _ _ => true
  | .carLoad _ _ => true
  | .carSwap _ => true
  | .carRegap _ => true
  | .windowWrite _ => true
  | .scrubCompare _ _ => true
  | .carLoadDone _ => true
  | .carRegapDone _ => true
  | .augRecordRead _ _ _ _ => true
  | .augReread _ _ _ => true
  | .augWaitExpire _ _ _ => true
  | .batchOpen _ _ => true
  | .ownMap _ _ _ _ _ _ _ => true
  | .ownWrite _ _ => true
  | .batchComplete _ _ => true
  | .batchCommit _ => true
  | .batqCons _ _ _ _ => true
  | .batchDeadline _ _ => true
  | .eventDoorbell _ _ _ _ => true
  | .hostEvent _ _ => true
  | .eventDeliver _ => true
  | .reclaim _ _ => true
  | .delayRelease _ => true
  | .alignRelease _ => true
  | .streamIdle _ _ => true
  | .histClear => true
  | .poolHwmClear => true
  | .watchClear => true
  | .cueFire _ _ => true
  | .timeCuePost _ => true
  | .beatCheck _ => true
  | .timeSnapTake => true
  | .syncEdge _ => true
  | .syncMissing => true
  | .hbmAccess req _ => reqOk req 0 hbmTop
  | .storeAccess req _ => reqOk req storeBase storeTop
  | .hbmScrubRead _ _ _ _ => true
  | .storScrubRead _ _ _ _ => true
  | .hbmTempRead _ _ => true
  | .hbmRefresh _ _ _ _ => true
  | .hphyStep _ _ _ _ => true
  | .cxlMemRead _ _ _ => true
  | .cxlMemWrite _ _ data _ _ _ => data.length == 64
  | .memInv _ _ => true
  | .memSpecRd _ _ => true
  | .memRdFwd _ _ _ => true
  | .memWrFwd _ _ _ => true
  | .snpData _ _ => true
  | .snpInv _ _ => true
  | .snpCur _ _ => true
  | .cxlCacheResponse _ _ => true
  | .configRequest _ _ => true
  | .decoderCommit _ _ _ => true
  | .atsInvalidate _ => true
  | .msixUnmask _ => true
  | .flitRetry _ _ => true
  | .biasSet _ => true
  | .fastLookup _ _ _ _ _ => true
  | .fastLatClear => true
  | .sidebandAccess _ _ => true
  | .linkTrained _ _ => true
  | .secQuoteGo => true
  | .quoteDone _ => true
  | .secExtendGo => true
  | .fuseProgGo _ => true
  | .fuseBurnDone _ _ => true
  | .xspiCmdGo _ => true
  | .xspiCmdDone _ => true
  | .xspiTimeout => true
  | .trngHealthFail => true
  | .powerOnReset _ _ => true
  | .coldReset _ => true
  | .pwrokRise _ => true
  | .warmReset _ _ => true
  | .cxlReset _ _ => true
  | .rstDomainGo _ => true
  | .wdtKick _ => true
  | .wdtExpire _ _ => true
  | .pwrReq _ => true
  | .pwrDomainDone _ => true
  | .switchFail _ => true
  | .powerEstimate _ => true
  | .quadClockGate _ => true
  | .quadClockRestart _ => true
  | .thrmSample temps => temps.length == 32
  | .supvSample mv => mv.length == 10
  | .i3cWrite _ => true
  | .i3cRead _ => true
  | .i3cDaa _ => true

end Sys2Proof
end

