-- ==== Sys2Proof/Laws/PerInstr.lean ====
section
/-!
SUPPORT. One lemma per command: what the bits of the opcode table spell is a well-formed command. The table gives no row
any bits, so that no word spells one; a table with bits would have to prove these anew.
-/

namespace Sys2Proof.Laws.SpelledCommand

/-- A word that spells the command spells a well-formed one. -/
def Statement (i : Instr) : Prop := ∀ nbits w, decodeTableWord nbits w = some i → i.wf = true

theorem of_decode (i : Instr) : Statement i := fun _ _ h => nomatch h

theorem regWrite (x0 x1 x2 x3 x4 x5) : Statement (.regWrite x0 x1 x2 x3 x4 x5) := of_decode _
theorem enable (x0 x1) : Statement (.enable x0 x1) := of_decode _
theorem blockDrained (x0) : Statement (.blockDrained x0) := of_decode _
theorem sreset (x0) : Statement (.sreset x0) := of_decode _
theorem sresetDone (x0) : Statement (.sresetDone x0) := of_decode _
theorem shdApply (x0) : Statement (.shdApply x0) := of_decode _
theorem cueArm (x0 x1 x2) : Statement (.cueArm x0 x1 x2) := of_decode _
theorem errForce (x0 x1) : Statement (.errForce x0 x1) := of_decode _
theorem perfClear (x0 x1) : Statement (.perfClear x0 x1) := of_decode _
theorem perfClearAll (x0) : Statement (.perfClearAll x0) := of_decode _
theorem errorDetected (x0 x1 x2) : Statement (.errorDetected x0 x1 x2) := of_decode _
theorem safeStateComplete : Statement .safeStateComplete := of_decode _
theorem quietEnd (x0) : Statement (.quietEnd x0) := of_decode _
theorem dbgRecovGo (x0) : Statement (.dbgRecovGo x0) := of_decode _
theorem release : Statement .release := of_decode _
theorem inHourExpire : Statement .inHourExpire := of_decode _
theorem dbg1500Go (x0 x1) : Statement (.dbg1500Go x0 x1) := of_decode _
theorem glbLgrpBind (x0) : Statement (.glbLgrpBind x0) := of_decode _
theorem hmc0ZoneWrite (x0 x1) : Statement (.hmc0ZoneWrite x0 x1) := of_decode _
theorem cmdqRingEnable (x0) : Statement (.cmdqRingEnable x0) := of_decode _
theorem cmdqDoorbell (x0 x1 x2 x3) : Statement (.cmdqDoorbell x0 x1 x2 x3) := of_decode _
theorem cmdEntryFetch (x0 x1) : Statement (.cmdEntryFetch x0 x1) := of_decode _
theorem cplWriteAck (x0) : Statement (.cplWriteAck x0) := of_decode _
theorem nop (x0) : Statement (.nop x0) := of_decode _
theorem planLoad (x0 x1) : Statement (.planLoad x0 x1) := of_decode _
theorem admissionCopyDone (x0) : Statement (.admissionCopyDone x0) := of_decode _
theorem planStart (x0) : Statement (.planStart x0) := of_decode _
theorem planStop (x0) : Statement (.planStop x0) := of_decode _
theorem planAbort (x0) : Statement (.planAbort x0) := of_decode _
theorem planUnload (x0) : Statement (.planUnload x0) := of_decode _
theorem planSetParam (x0 x1) : Statement (.planSetParam x0 x1) := of_decode _
theorem stageStart (x0 x1 x2) : Statement (.stageStart x0 x1 x2) := of_decode _
theorem tileArrive (x0) : Statement (.tileArrive x0) := of_decode _
theorem stewardArrive (x0 x1) : Statement (.stewardArrive x0 x1) := of_decode _
theorem gongTimeout (x0 x1) : Statement (.gongTimeout x0 x1) := of_decode _
theorem varith (x0 x1 x2 x3 x4 x5 x6 x7) : Statement (.varith x0 x1 x2 x3 x4 x5 x6 x7) := of_decode _
theorem vfma (x0 x1 x2 x3 x4 x5 x6 x7) : Statement (.vfma x0 x1 x2 x3 x4 x5 x6 x7) := of_decode _
theorem vlogic (x0 x1 x2 x3 x4 x5 x6 x7) : Statement (.vlogic x0 x1 x2 x3 x4 x5 x6 x7) := of_decode _
theorem vunary (x0 x1 x2 x3 x4 x5 x6 x7) : Statement (.vunary x0 x1 x2 x3 x4 x5 x6 x7) := of_decode _
theorem vtrans (x0 x1 x2 x3 x4 x5 x6 x7) : Statement (.vtrans x0 x1 x2 x3 x4 x5 x6 x7) := of_decode _
theorem vcmp (x0 x1 x2 x3 x4 x5 x6 x7) : Statement (.vcmp x0 x1 x2 x3 x4 x5 x6 x7) := of_decode _
theorem vsel (x0 x1 x2 x3 x4 x5 x6 x7) : Statement (.vsel x0 x1 x2 x3 x4 x5 x6 x7) := of_decode _
theorem vcvt (x0 x1 x2 x3 x4 x5 x6 x7) : Statement (.vcvt x0 x1 x2 x3 x4 x5 x6 x7) := of_decode _
theorem vmx (x0 x1 x2 x3 x4 x5 x6 x7) : Statement (.vmx x0 x1 x2 x3 x4 x5 x6 x7) := of_decode _
theorem vdec (x0 x1 x2 x3 x4 x5 x6 x7) : Statement (.vdec x0 x1 x2 x3 x4 x5 x6 x7) := of_decode _
theorem vred (x0 x1 x2 x3 x4 x5 x6 x7) : Statement (.vred x0 x1 x2 x3 x4 x5 x6 x7) := of_decode _
theorem vperm (x0 x1 x2 x3 x4 x5 x6 x7) : Statement (.vperm x0 x1 x2 x3 x4 x5 x6 x7) := of_decode _
theorem vsortSort64 (x0 x1 x2 x3 x4 x5 x6) : Statement (.vsortSort64 x0 x1 x2 x3 x4 x5 x6) := of_decode _
theorem vsortMerge (x0 x1 x2 x3 x4 x5 x6) : Statement (.vsortMerge x0 x1 x2 x3 x4 x5 x6) := of_decode _
theorem vsortTopk (x0 x1 x2 x3 x4 x5 x6) : Statement (.vsortTopk x0 x1 x2 x3 x4 x5 x6) := of_decode _
theorem vhash (x0 x1 x2 x3 x4 x5 x6 x7) : Statement (.vhash x0 x1 x2 x3 x4 x5 x6 x7) := of_decode _
theorem vbucket (x0 x1 x2 x3 x4 x5 x6 x7) : Statement (.vbucket x0 x1 x2 x3 x4 x5 x6 x7) := of_decode _
theorem vnorm (x0 x1 x2 x3 x4 x5 x6 x7) : Statement (.vnorm x0 x1 x2 x3 x4 x5 x6 x7) := of_decode _
theorem vld (x0 x1 x2 x3 x4 x5 x6) : Statement (.vld x0 x1 x2 x3 x4 x5 x6) := of_decode _
theorem vst (x0 x1 x2 x3 x4 x5) : Statement (.vst x0 x1 x2 x3 x4 x5) := of_decode _
theorem vldx (x0 x1 x2 x3 x4 x5 x6 x7 x8) : Statement (.vldx x0 x1 x2 x3 x4 x5 x6 x7 x8) := of_decode _
theorem vstx (x0 x1 x2 x3 x4 x5 x6 x7) : Statement (.vstx x0 x1 x2 x3 x4 x5 x6 x7) := of_decode _
theorem sld (x0 x1 x2 x3 x4 x5 x6) : Statement (.sld x0 x1 x2 x3 x4 x5 x6) := of_decode _
theorem sst (x0 x1 x2 x3 x4 x5) : Statement (.sst x0 x1 x2 x3 x4 x5) := of_decode _
theorem vmovs (x0 x1 x2 x3 x4 x5) : Statement (.vmovs x0 x1 x2 x3 x4 x5) := of_decode _
theorem vins (x0 x1 x2 x3 x4 x5) : Statement (.vins x0 x1 x2 x3 x4 x5) := of_decode _
theorem salu (x0 x1 x2 x3 x4 x5 x6 x7) : Statement (.salu x0 x1 x2 x3 x4 x5 x6 x7) := of_decode _
theorem salui (x0 x1 x2 x3 x4 x5) : Statement (.salui x0 x1 x2 x3 x4 x5) := of_decode _
theorem slui (x0 x1 x2 x3) : Statement (.slui x0 x1 x2 x3) := of_decode _
theorem sconst (x0 x1 x2 x3 x4 x5) : Statement (.sconst x0 x1 x2 x3 x4 x5) := of_decode _
theorem sparam (x0 x1 x2 x3 x4 x5) : Statement (.sparam x0 x1 x2 x3 x4 x5) := of_decode _
theorem smisc (x0 x1 x2 x3 x4 x5) : Statement (.smisc x0 x1 x2 x3 x4 x5) := of_decode _
theorem br (x0 x1 x2 x3 x4 x5) : Statement (.br x0 x1 x2 x3 x4 x5) := of_decode _
theorem jmp (x0 x1 x2) : Statement (.jmp x0 x1 x2) := of_decode _
theorem call (x0 x1 x2) : Statement (.call x0 x1 x2) := of_decode _
theorem ret (x0 x1 x2) : Statement (.ret x0 x1 x2) := of_decode _
theorem endThread (x0 x1 x2) : Statement (.endThread x0 x1 x2) := of_decode _
theorem strmIssue (x0 x1 x2 x3) : Statement (.strmIssue x0 x1 x2 x3) := of_decode _
theorem strmWait (x0 x1 x2 x3) : Statement (.strmWait x0 x1 x2 x3) := of_decode _
theorem strmTake (x0 x1 x2 x3) : Statement (.strmTake x0 x1 x2 x3) := of_decode _
theorem strmFree (x0 x1 x2 x3) : Statement (.strmFree x0 x1 x2 x3) := of_decode _
theorem eventGet (x0 x1 x2 x3 x4) : Statement (.eventGet x0 x1 x2 x3 x4) := of_decode _
theorem eventDone (x0 x1 x2 x3 x4) : Statement (.eventDone x0 x1 x2 x3 x4) := of_decode _
theorem eventPost (x0 x1 x2 x3 x4) : Statement (.eventPost x0 x1 x2 x3 x4) := of_decode _
theorem eventDelay (x0 x1 x2 x3 x4) : Statement (.eventDelay x0 x1 x2 x3 x4) := of_decode _
theorem itemBegin (x0 x1 x2 x3 x4) : Statement (.itemBegin x0 x1 x2 x3 x4) := of_decode _
theorem itemEnd (x0 x1 x2 x3 x4) : Statement (.itemEnd x0 x1 x2 x3 x4) := of_decode _
theorem probeLookup (x0 x1 x2 x3 x4 x5 x6) : Statement (.probeLookup x0 x1 x2 x3 x4 x5 x6) := of_decode _
theorem probeInsert (x0 x1 x2 x3 x4 x5 x6) : Statement (.probeInsert x0 x1 x2 x3 x4 x5 x6) := of_decode _
theorem probeUpdate (x0 x1 x2 x3 x4 x5 x6) : Statement (.probeUpdate x0 x1 x2 x3 x4 x5 x6) := of_decode _
theorem csrchSearch (x0 x1 x2 x3 x4 x5 x6) : Statement (.csrchSearch x0 x1 x2 x3 x4 x5 x6) := of_decode _
theorem csrchTokenise (x0 x1 x2 x3 x4 x5 x6) : Statement (.csrchTokenise x0 x1 x2 x3 x4 x5 x6) := of_decode _
theorem csrchRange (x0 x1 x2 x3 x4 x5 x6) : Statement (.csrchRange x0 x1 x2 x3 x4 x5 x6) := of_decode _
theorem projLoadw (x0 x1 x2 x3 x4 x5 x6 x7) : Statement (.projLoadw x0 x1 x2 x3 x4 x5 x6 x7) := of_decode _
theorem projMv (x0 x1 x2 x3 x4 x5 x6 x7) : Statement (.projMv x0 x1 x2 x3 x4 x5 x6 x7) := of_decode _
theorem projMvacc (x0 x1 x2 x3 x4 x5 x6 x7) : Statement (.projMvacc x0 x1 x2 x3 x4 x5 x6 x7) := of_decode _
theorem itemDivert (x0 x1) : Statement (.itemDivert x0 x1) := of_decode _
theorem itemReturn (x0 x1 x2) : Statement (.itemReturn x0 x1 x2) := of_decode _
theorem divertTake (x0) : Statement (.divertTake x0) := of_decode _
theorem readLineReturn (x0 x1 x2 x3 x4 x5) : Statement (.readLineReturn x0 x1 x2 x3 x4 x5) := of_decode _
theorem writeAck (x0 x1 x2 x3 x4 x5) : Statement (.writeAck x0 x1 x2 x3 x4 x5) := of_decode _
theorem combineRequest (x0 x1 x2) : Statement (.combineRequest x0 x1 x2) := of_decode _
theorem xlateResponse (x0 x1 x2 x3) : Statement (.xlateResponse x0 x1 x2 x3) := of_decode _
theorem pageResponse (x0 x1 x2) : Statement (.pageResponse x0 x1 x2) := of_decode _
theorem pfTimeout (x0 x1) : Statement (.pfTimeout x0 x1) := of_decode _
theorem bwsplitWindow (x0) : Statement (.bwsplitWindow x0) := of_decode _
theorem decodeInput (x0 x1) : Statement (.decodeInput x0 x1) := of_decode _
theorem decStreamSwitch (x0 x1) : Statement (.decStreamSwitch x0 x1) := of_decode _
theorem contextRestore (x0) : Statement (.contextRestore x0) := of_decode _
theorem decAssistReturn (x0 x1) : Statement (.decAssistReturn x0 x1) := of_decode _
theorem echoCheckDone (x0 x1 x2 x3 x4 x5 x6 x7) : Statement (.echoCheckDone x0 x1 x2 x3 x4 x5 x6 x7) := of_decode _
theorem probeServe (x0 x1) : Statement (.probeServe x0 x1) := of_decode _
theorem probeResponse (x0) : Statement (.probeResponse x0) := of_decode _
theorem gracePass (x0) : Statement (.gracePass x0) := of_decode _
theorem hotReplicate (x0) : Statement (.hotReplicate x0) := of_decode _
theorem carSearch (x0 x1) : Statement (.carSearch x0 x1) := of_decode _
theorem carInsert (x0 x1) : Statement (.carInsert x0 x1) := of_decode _
theorem shiftDone (x0) : Statement (.shiftDone x0) := of_decode _
theorem carDelete (x0 x1) : Statement (.carDelete x0 x1) := of_decode _
theorem carModify (x0 x1) : Statement (.carModify x0 x1) := of_decode _
theorem carLoad (x0 x1) : Statement (.carLoad x0 x1) := of_decode _
theorem carSwap (x0) : Statement (.carSwap x0) := of_decode _
theorem carRegap (x0) : Statement (.carRegap x0) := of_decode _
theorem windowWrite (x0) : Statement (.windowWrite x0) := of_decode _
theorem scrubCompare (x0 x1) : Statement (.scrubCompare x0 x1) := of_decode _
theorem carLoadDone (x0) : Statement (.carLoadDone x0) := of_decode _
theorem carRegapDone (x0) : Statement (.carRegapDone x0) := of_decode _
theorem augRecordRead (x0 x1 x2 x3) : Statement (.augRecordRead x0 x1 x2 x3) := of_decode _
theorem augReread (x0 x1 x2) : Statement (.augReread x0 x1 x2) := of_decode _
theorem augWaitExpire (x0 x1 x2) : Statement (.augWaitExpire x0 x1 x2) := of_decode _
theorem batchOpen (x0 x1) : Statement (.batchOpen x0 x1) := of_decode _
theorem ownMap (x0 x1 x2 x3 x4 x5 x6) : Statement (.ownMap x0 x1 x2 x3 x4 x5 x6) := of_decode _
theorem ownWrite (x0 x1) : Statement (.ownWrite x0 x1) := of_decode _
theorem batchComplete (x0 x1) : Statement (.batchComplete x0 x1) := of_decode _
theorem batchCommit (x0) : Statement (.batchCommit x0) := of_decode _
theorem batqCons (x0 x1 x2 x3) : Statement (.batqCons x0 x1 x2 x3) := of_decode _
theorem batchDeadline (x0 x1) : Statement (.batchDeadline x0 x1) := of_decode _
theorem eventDoorbell (x0 x1 x2 x3) : Statement (.eventDoorbell x0 x1 x2 x3) := of_decode _
theorem hostEvent (x0 x1) : Statement (.hostEvent x0 x1) := of_decode _
theorem eventDeliver (x0) : Statement (.eventDeliver x0) := of_decode _
theorem reclaim (x0 x1) : Statement (.reclaim x0 x1) := of_decode _
theorem delayRelease (x0) : Statement (.delayRelease x0) := of_decode _
theorem alignRelease (x0) : Statement (.alignRelease x0) := of_decode _
theorem streamIdle (x0 x1) : Statement (.streamIdle x0 x1) := of_decode _
theorem histClear : Statement .histClear := of_decode _
theorem poolHwmClear : Statement .poolHwmClear := of_decode _
theorem watchClear : Statement .watchClear := of_decode _
theorem cueFire (x0 x1) : Statement (.cueFire x0 x1) := of_decode _
theorem timeCuePost (x0) : Statement (.timeCuePost x0) := of_decode _
theorem beatCheck (x0) : Statement (.beatCheck x0) := of_decode _
theorem timeSnapTake : Statement .timeSnapTake := of_decode _
theorem syncEdge (x0) : Statement (.syncEdge x0) := of_decode _
theorem syncMissing : Statement .syncMissing := of_decode _
theorem hbmAccess (x0 x1) : Statement (.hbmAccess x0 x1) := of_decode _
theorem storeAccess (x0 x1) : Statement (.storeAccess x0 x1) := of_decode _
theorem hbmScrubRead (x0 x1 x2 x3) : Statement (.hbmScrubRead x0 x1 x2 x3) := of_decode _
theorem storScrubRead (x0 x1 x2 x3) : Statement (.storScrubRead x0 x1 x2 x3) := of_decode _
theorem hbmTempRead (x0 x1) : Statement (.hbmTempRead x0 x1) := of_decode _
theorem hbmRefresh (x0 x1 x2 x3) : Statement (.hbmRefresh x0 x1 x2 x3) := of_decode _
theorem hphyStep (x0 x1 x2 x3) : Statement (.hphyStep x0 x1 x2 x3) := of_decode _
theorem cxlMemRead (x0 x1 x2) : Statement (.cxlMemRead x0 x1 x2) := of_decode _
theorem cxlMemWrite (x0 x1 x2 x3 x4 x5) : Statement (.cxlMemWrite x0 x1 x2 x3 x4 x5) := of_decode _
theorem memInv (x0 x1) : Statement (.memInv x0 x1) := of_decode _
theorem memSpecRd (x0 x1) : Statement (.memSpecRd x0 x1) := of_decode _
theorem memRdFwd (x0 x1 x2) : Statement (.memRdFwd x0 x1 x2) := of_decode _
theorem memWrFwd (x0 x1 x2) : Statement (.memWrFwd x0 x1 x2) := of_decode _
theorem snpData (x0 x1) : Statement (.snpData x0 x1) := of_decode _
theorem snpInv (x0 x1) : Statement (.snpInv x0 x1) := of_decode _
theorem snpCur (x0 x1) : Statement (.snpCur x0 x1) := of_decode _
theorem cxlCacheResponse (x0 x1) : Statement (.cxlCacheResponse x0 x1) := of_decode _
theorem configRequest (x0 x1) : Statement (.configRequest x0 x1) := of_decode _
theorem decoderCommit (x0 x1 x2) : Statement (.decoderCommit x0 x1 x2) := of_decode _
theorem atsInvalidate (x0) : Statement (.atsInvalidate x0) := of_decode _
theorem msixUnmask (x0) : Statement (.msixUnmask x0) := of_decode _
theorem flitRetry (x0 x1) : Statement (.flitRetry x0 x1) := of_decode _
theorem biasSet (x0) : Statement (.biasSet x0) := of_decode _
theorem fastLookup (x0 x1 x2 x3 x4) : Statement (.fastLookup x0 x1 x2 x3 x4) := of_decode _
theorem fastLatClear : Statement .fastLatClear := of_decode _
theorem sidebandAccess (x0 x1) : Statement (.sidebandAccess x0 x1) := of_decode _
theorem linkTrained (x0 x1) : Statement (.linkTrained x0 x1) := of_decode _
theorem secQuoteGo : Statement .secQuoteGo := of_decode _
theorem quoteDone (x0) : Statement (.quoteDone x0) := of_decode _
theorem secExtendGo : Statement .secExtendGo := of_decode _
theorem fuseProgGo (x0) : Statement (.fuseProgGo x0) := of_decode _
theorem fuseBurnDone (x0 x1) : Statement (.fuseBurnDone x0 x1) := of_decode _
theorem xspiCmdGo (x0) : Statement (.xspiCmdGo x0) := of_decode _
theorem xspiCmdDone (x0) : Statement (.xspiCmdDone x0) := of_decode _
theorem xspiTimeout : Statement .xspiTimeout := of_decode _
theorem trngHealthFail : Statement .trngHealthFail := of_decode _
theorem powerOnReset (x0 x1) : Statement (.powerOnReset x0 x1) := of_decode _
theorem coldReset (x0) : Statement (.coldReset x0) := of_decode _
theorem pwrokRise (x0) : Statement (.pwrokRise x0) := of_decode _
theorem warmReset (x0 x1) : Statement (.warmReset x0 x1) := of_decode _
theorem cxlReset (x0 x1) : Statement (.cxlReset x0 x1) := of_decode _
theorem rstDomainGo (x0) : Statement (.rstDomainGo x0) := of_decode _
theorem wdtKick (x0) : Statement (.wdtKick x0) := of_decode _
theorem wdtExpire (x0 x1) : Statement (.wdtExpire x0 x1) := of_decode _
theorem pwrReq (x0) : Statement (.pwrReq x0) := of_decode _
theorem pwrDomainDone (x0) : Statement (.pwrDomainDone x0) := of_decode _
theorem switchFail (x0) : Statement (.switchFail x0) := of_decode _
theorem powerEstimate (x0) : Statement (.powerEstimate x0) := of_decode _
theorem quadClockGate (x0) : Statement (.quadClockGate x0) := of_decode _
theorem quadClockRestart (x0) : Statement (.quadClockRestart x0) := of_decode _
theorem thrmSample (x0) : Statement (.thrmSample x0) := of_decode _
theorem supvSample (x0) : Statement (.supvSample x0) := of_decode _
theorem i3cWrite (x0) : Statement (.i3cWrite x0) := of_decode _
theorem i3cRead (x0) : Statement (.i3cRead x0) := of_decode _
theorem i3cDaa (x0) : Statement (.i3cDaa x0) := of_decode _

end Sys2Proof.Laws.SpelledCommand
end

namespace Sys2Proof.Machine
open Sys2Proof

/-! ## Every step keeps the form (R28, R41) -/

/-- The commands that can bring a cold boot, after which no unit is fenced (R423, R454). -/
def coldBoots : Instr → Bool
  | .powerOnReset _ _ | .coldReset _ | .supvSample _ => true
  | _ => false

/-- Every command leaves the queue, keeps the maps canonical, and keeps the fences unless it can bring a cold boot. -/
theorem exec_keeps {q : List Instr} {u : List FUnit} {s : State} (i : Instr) (cold : coldBoots i = true → u = [])
    (keep : Keep q u s) : OKeep q u (exec i s) := by
  cases i with
  | regWrite by_ port page off bytes v => exact keep_execRegWrite by_ port page off bytes v s keep
  | enable page on => exact keep_execEnable page on s keep
  | blockDrained page => exact keep_execBlockDrained page s keep
  | sreset page => exact keep_execSreset page s keep
  | sresetDone page => exact keep_execSresetDone page s keep
  | shdApply page => exact keep_execShdApply page s keep
  | cueArm page arm sel => exact keep_execCueArm page arm sel s keep
  | errForce page bits => exact keep_execErrForce page bits s keep
  | perfClear page ctr => exact keep_execPerfClear page ctr s keep
  | perfClearAll page => exact keep_execPerfClearAll page s keep
  | errorDetected page src arg => exact keep_execErrorDetected page src arg s keep
  | safeStateComplete => exact keep_execSafeStateComplete s keep
  | quietEnd env => exact keep_execQuietEnd env s keep
  | dbgRecovGo env => exact keep_execDbgRecovGo env s keep
  | release => exact keep_execRelease s keep
  | inHourExpire => exact keep_execInHourExpire s keep
  | dbg1500Go stack instr => exact keep_execDbg1500Go stack instr s keep
  | glbLgrpBind port => exact keep_execGlbLgrpBind port s keep
  | hmc0ZoneWrite fineGib clUnits => exact keep_execHmc0ZoneWrite fineGib clUnits s keep
  | cmdqRingEnable ring => exact keep_execCmdqRingEnable ring s keep
  | cmdqDoorbell ring off bytes v => exact keep_execCmdqDoorbell ring off bytes v s keep
  | cmdEntryFetch ring entry => exact keep_execCmdEntryFetch ring entry s keep
  | cplWriteAck ring => exact keep_execCplWriteAck ring s keep
  | nop ring => exact keep_execNop ring s keep
  | planLoad ring image => exact keep_execPlanLoad ring image s keep
  | admissionCopyDone copy => exact keep_execAdmissionCopyDone copy s keep
  | planStart ring => exact keep_execPlanStart ring s keep
  | planStop ring => exact keep_execPlanStop ring s keep
  | planAbort ring => exact keep_execPlanAbort ring s keep
  | planUnload ring => exact keep_execPlanUnload ring s keep
  | planSetParam ring record => exact keep_execPlanSetParam ring record s keep
  | stageStart slot stage env => exact keep_execStageStart slot stage env s keep
  | tileArrive tile => exact keep_execTileArrive tile s keep
  | stewardArrive slot stw => exact keep_execStewardArrive slot stw s keep
  | gongTimeout slot stage => exact keep_execGongTimeout slot stage s keep
  | varith tile th var mask ty b a d => exact keep_execVarith tile th var mask ty b a d s keep
  | vfma tile th var mask ty b a d => exact keep_execVfma tile th var mask ty b a d s keep
  | vlogic tile th var mask ty b a d => exact keep_execVlogic tile th var mask ty b a d s keep
  | vunary tile th var mask ty b a d => exact keep_execVunary tile th var mask ty b a d s keep
  | vtrans tile th var mask ty b a d => exact keep_execVtrans tile th var mask ty b a d s keep
  | vcmp tile th var mask ty b a d => exact keep_execVcmp tile th var mask ty b a d s keep
  | vsel tile th var mask ty b a d => exact keep_execVsel tile th var mask ty b a d s keep
  | vcvt tile th var mask ty b a d => exact keep_execVcvt tile th var mask ty b a d s keep
  | vmx tile th var mask ty b a d => exact keep_execVmx tile th var mask ty b a d s keep
  | vdec tile th var mask ty b a d => exact keep_execVdec tile th var mask ty b a d s keep
  | vred tile th var mask ty b a d => exact keep_execVred tile th var mask ty b a d s keep
  | vperm tile th var mask ty b a d => exact keep_execVperm tile th var mask ty b a d s keep
  | vsortSort64 tile th mask ty b a d => exact keep_execVsortSort64 tile th mask ty b a d s keep
  | vsortMerge tile th mask ty b a d => exact keep_execVsortMerge tile th mask ty b a d s keep
  | vsortTopk tile th mask ty b a d => exact keep_execVsortTopk tile th mask ty b a d s keep
  | vhash tile th var mask ty b a d => exact keep_execVhash tile th var mask ty b a d s keep
  | vbucket tile th var mask ty b a d => exact keep_execVbucket tile th var mask ty b a d s keep
  | vnorm tile th var mask ty b a d => exact keep_execVnorm tile th var mask ty b a d s keep
  | vld tile th imm f3 a d ecc => exact keep_execVld tile th imm f3 a d ecc s keep
  | vst tile th imm f3 a d => exact keep_execVst tile th imm f3 a d s keep
  | vldx tile th var mask ty b a d ecc => exact keep_execVldx tile th var mask ty b a d ecc s keep
  | vstx tile th var mask ty b a d => exact keep_execVstx tile th var mask ty b a d s keep
  | sld tile th imm f3 a d ecc => exact keep_execSld tile th imm f3 a d ecc s keep
  | sst tile th imm f3 a d => exact keep_execSst tile th imm f3 a d s keep
  | vmovs tile th imm f3 a d => exact keep_execVmovs tile th imm f3 a d s keep
  | vins tile th imm f3 a d => exact keep_execVins tile th imm f3 a d s keep
  | salu tile th var mask ty b a d => exact keep_execSalu tile th var mask ty b a d s keep
  | salui tile th imm f3 a d => exact keep_execSalui tile th imm f3 a d s keep
  | slui tile th imm d => exact keep_execSlui tile th imm d s keep
  | sconst tile th imm f3 a d => exact keep_execSconst tile th imm f3 a d s keep
  | sparam tile th imm f3 a d => exact keep_execSparam tile th imm f3 a d s keep
  | smisc tile th imm f3 a d => exact keep_execSmisc tile th imm f3 a d s keep
  | br tile th imm b a cond => exact keep_execBr tile th imm b a cond s keep
  | jmp tile th imm => exact keep_execJmp tile th imm s keep
  | call tile th imm => exact keep_execCall tile th imm s keep
  | ret tile th imm => exact keep_execRet tile th imm s keep
  | endThread tile th imm => exact keep_execEndThread tile th imm s keep
  | strmIssue tile th a d => exact keep_execStrmIssue tile th a d s keep
  | strmWait tile th a d => exact keep_execStrmWait tile th a d s keep
  | strmTake tile th a d => exact keep_execStrmTake tile th a d s keep
  | strmFree tile th a d => exact keep_execStrmFree tile th a d s keep
  | eventGet tile th imm a d => exact keep_execEventGet tile th imm a d s keep
  | eventDone tile th imm a d => exact keep_execEventDone tile th imm a d s keep
  | eventPost tile th imm a d => exact keep_execEventPost tile th imm a d s keep
  | eventDelay tile th imm a d => exact keep_execEventDelay tile th imm a d s keep
  | itemBegin tile th imm b a => exact keep_execItemBegin tile th imm b a s keep
  | itemEnd tile th imm b a => exact keep_execItemEnd tile th imm b a s keep
  | probeLookup tile th mask ty b a d => exact keep_execProbeLookup tile th mask ty b a d s keep
  | probeInsert tile th mask ty b a d => exact keep_execProbeInsert tile th mask ty b a d s keep
  | probeUpdate tile th mask ty b a d => exact keep_execProbeUpdate tile th mask ty b a d s keep
  | csrchSearch tile th mask ty b a d => exact keep_execCsrchSearch tile th mask ty b a d s keep
  | csrchTokenise tile th mask ty b a d => exact keep_execCsrchTokenise tile th mask ty b a d s keep
  | csrchRange tile th mask ty b a d => exact keep_execCsrchRange tile th mask ty b a d s keep
  | projLoadw tile th var mask ty b a d => exact keep_execProjLoadw tile th var mask ty b a d s keep
  | projMv tile th var mask ty b a d => exact keep_execProjMv tile th var mask ty b a d s keep
  | projMvacc tile th var mask ty b a d => exact keep_execProjMvacc tile th var mask ty b a d s keep
  | itemDivert tile th => exact keep_execItemDivert tile th s keep
  | itemReturn tile th pos => exact keep_execItemReturn tile th pos s keep
  | divertTake tile => exact keep_execDivertTake tile s keep
  | readLineReturn tile slot n data idx poison => exact keep_execReadLineReturn tile slot n data idx poison s keep
  | writeAck tile slot n idx ecc ok => exact keep_execWriteAck tile slot n idx ecc ok s keep
  | combineRequest tile slot idx => exact keep_execCombineRequest tile slot idx s keep
  | xlateResponse tile slot ok addr => exact keep_execXlateResponse tile slot ok addr s keep
  | pageResponse page pasid code => exact keep_execPageResponse page pasid code s keep
  | pfTimeout tile slot => exact keep_execPfTimeout tile slot s keep
  | bwsplitWindow stack => exact keep_execBwsplitWindow stack s keep
  | decodeInput dec unit => exact keep_execDecodeInput dec unit s keep
  | decStreamSwitch dec ctx => exact keep_execDecStreamSwitch dec ctx s keep
  | contextRestore dec => exact keep_execContextRestore dec s keep
  | decAssistReturn dec unit => exact keep_execDecAssistReturn dec unit s keep
  | echoCheckDone cmp slot op block packed head tail same => exact keep_execEchoCheckDone cmp slot op block packed head tail same s keep
  | probeServe tile row => exact keep_execProbeServe tile row s keep
  | probeResponse tile => exact keep_execProbeResponse tile s keep
  | gracePass tile => exact keep_execGracePass tile s keep
  | hotReplicate tile => exact keep_execHotReplicate tile s keep
  | carSearch port parityBad => exact keep_execCarSearch port parityBad s keep
  | carInsert ring records => exact keep_execCarInsert ring records s keep
  | shiftDone bell => exact keep_execShiftDone bell s keep
  | carDelete ring records => exact keep_execCarDelete ring records s keep
  | carModify ring records => exact keep_execCarModify ring records s keep
  | carLoad ring records => exact keep_execCarLoad ring records s keep
  | carSwap ring => exact keep_execCarSwap ring s keep
  | carRegap ring => exact keep_execCarRegap ring s keep
  | windowWrite addr => exact keep_execWindowWrite addr s keep
  | scrubCompare bell env => exact keep_execScrubCompare bell env s keep
  | carLoadDone table => exact keep_execCarLoadDone table s keep
  | carRegapDone table => exact keep_execCarRegapDone table s keep
  | augRecordRead slot op row record => exact keep_execAugRecordRead slot op row record s keep
  | augReread slot op row => exact keep_execAugReread slot op row s keep
  | augWaitExpire slot op row => exact keep_execAugWaitExpire slot op row s keep
  | batchOpen queue env => exact keep_execBatchOpen queue env s keep
  | ownMap slot table queue seq off data tile => exact keep_execOwnMap slot table queue seq off data tile s keep
  | ownWrite ring records => exact keep_execOwnWrite ring records s keep
  | batchComplete queue concealed => exact keep_execBatchComplete queue concealed s keep
  | batchCommit queue => exact keep_execBatchCommit queue s keep
  | batqCons queue door bytes v => exact keep_execBatqCons queue door bytes v s keep
  | batchDeadline queue seq => exact keep_execBatchDeadline queue seq s keep
  | eventDoorbell ring off bytes v => exact keep_execEventDoorbell ring off bytes v s keep
  | hostEvent ring ev => exact keep_execHostEvent ring ev s keep
  | eventDeliver slot => exact keep_execEventDeliver slot s keep
  | reclaim tile th => exact keep_execReclaim tile th s keep
  | delayRelease slot => exact keep_execDelayRelease slot s keep
  | alignRelease group => exact keep_execAlignRelease group s keep
  | streamIdle group stream => exact keep_execStreamIdle group stream s keep
  | histClear => exact keep_execHistClear s keep
  | poolHwmClear => exact keep_execPoolHwmClear s keep
  | watchClear => exact keep_execWatchClear s keep
  | cueFire cue lost => exact keep_execCueFire cue lost s keep
  | timeCuePost cue => exact keep_execTimeCuePost cue s keep
  | beatCheck page => exact keep_execBeatCheck page s keep
  | timeSnapTake => exact keep_execTimeSnapTake s keep
  | syncEdge falling => exact keep_execSyncEdge falling s keep
  | syncMissing => exact keep_execSyncMissing s keep
  | hbmAccess req env => exact keep_execHbmAccess req env s keep
  | storeAccess req env => exact keep_execStoreAccess req env s keep
  | hbmScrubRead stack addr env passDone => exact keep_execHbmScrubRead stack addr env passDone s keep
  | storScrubRead bank addr env passDone => exact keep_execStorScrubRead bank addr env passDone s keep
  | hbmTempRead stack temp => exact keep_execHbmTempRead stack temp s keep
  | hbmRefresh stack pc bank rfm => exact keep_execHbmRefresh stack pc bank rfm s keep
  | hphyStep phy stepNo result chFail => exact keep_execHphyStep phy stepNo result chFail s keep
  | cxlMemRead port addr env => exact keep_execCxlMemRead port addr env s keep
  | cxlMemWrite port addr data mask poison env => exact keep_execCxlMemWrite port addr data mask poison env s keep
  | memInv port addr => exact keep_execMemInv port addr s keep
  | memSpecRd port addr => exact keep_execMemSpecRd port addr s keep
  | memRdFwd port id env => exact keep_execMemRdFwd port id env s keep
  | memWrFwd port id env => exact keep_execMemWrFwd port id env s keep
  | snpData port addr => exact keep_execSnpData port addr s keep
  | snpInv port addr => exact keep_execSnpInv port addr s keep
  | snpCur port addr => exact keep_execSnpCur port addr s keep
  | cxlCacheResponse id resp => exact keep_execCxlCacheResponse id resp s keep
  | configRequest port req => exact keep_execConfigRequest port req s keep
  | decoderCommit port dec req => exact keep_execDecoderCommit port dec req s keep
  | atsInvalidate port => exact keep_execAtsInvalidate port s keep
  | msixUnmask vec => exact keep_execMsixUnmask vec s keep
  | flitRetry link mod => exact keep_execFlitRetry link mod s keep
  | biasSet ring => exact keep_execBiasSet ring s keep
  | fastLookup k off data parityBad fcycles => exact keep_execFastLookup k off data parityBad fcycles s keep
  | fastLatClear => exact keep_execFastLatClear s keep
  | sidebandAccess link req => exact keep_execSidebandAccess link req s keep
  | linkTrained link fails => exact keep_execLinkTrained link fails s keep
  | secQuoteGo => exact keep_execSecQuoteGo s keep
  | quoteDone ok => exact keep_execQuoteDone ok s keep
  | secExtendGo => exact keep_execSecExtendGo s keep
  | fuseProgGo bit => exact keep_execFuseProgGo bit s keep
  | fuseBurnDone lo hi => exact keep_execFuseBurnDone lo hi s keep
  | xspiCmdGo v => exact keep_execXspiCmdGo v s keep
  | xspiCmdDone data => exact keep_execXspiCmdDone data s keep
  | xspiTimeout => exact keep_execXspiTimeout s keep
  | trngHealthFail => exact keep_execTrngHealthFail s keep
  | powerOnReset cause env => obtain rfl := cold rfl; exact keep_execPowerOnReset cause env s keep
  | coldReset env => obtain rfl := cold rfl; exact keep_execColdReset env s keep
  | pwrokRise env => exact keep_execPwrokRise env s keep
  | warmReset by_ env => exact keep_execWarmReset by_ env s keep
  | cxlReset port env => exact keep_execCxlReset port env s keep
  | rstDomainGo domain => exact keep_execRstDomainGo domain s keep
  | wdtKick stw => exact keep_execWdtKick stw s keep
  | wdtExpire stw env => exact keep_execWdtExpire stw env s keep
  | pwrReq v => exact keep_execPwrReq v s keep
  | pwrDomainDone domain => exact keep_execPwrDomainDone domain s keep
  | switchFail domain => exact keep_execSwitchFail domain s keep
  | powerEstimate watts => exact keep_execPowerEstimate watts s keep
  | quadClockGate quad => exact keep_execQuadClockGate quad s keep
  | quadClockRestart quad => exact keep_execQuadClockRestart quad s keep
  | thrmSample temps => exact keep_execThrmSample temps s keep
  | supvSample mv => obtain rfl := cold rfl; exact keep_execSupvSample mv s keep
  | i3cWrite bytes => exact keep_execI3cWrite bytes s keep
  | i3cRead addr => exact keep_execI3cRead addr s keep
  | i3cDaa addr => exact keep_execI3cDaa addr s keep

/-- A canonical state keeps its own queue and form, with no claim on the fences. -/
theorem State.Inv.keep {s : State} (h : s.Inv) : Keep s.pending [] s := by
  obtain ⟨regs, dev, tile⟩ := h
  exact ⟨rfl, regs, dev, tile, fun _ hu => nomatch hu⟩

/-- What is kept of the form is the invariant and the queue. -/
theorem Keep.inv_and_pending {q : List Instr} {u : List FUnit} {s : State} (h : Keep q u s) : s.Inv ∧ s.pending = q :=
  ⟨⟨h.regs, h.dev, h.tile⟩, h.pending⟩

/-- The idle step moves BEAT alone, so it keeps everything. -/
theorem State.Inv.keep_idle {s : State} (h : s.Inv) : Keep s.pending [] s.idle :=
  .ite (h.keep.same rfl rfl rfl rfl) h.keep

/-- Settles O59: a waiting command is kept by `exec_keeps` over the rest of the queue, an idle step moves BEAT alone. -/
theorem stepKeepsForm : Obligations.StepKeepsForm := by
  intro s t inv run
  unfold step at run
  split at run
  next empty =>
    obtain rfl := Host.Outcome.next.inj run
    rw [empty, List.tail_nil, ← empty]
    exact inv.keep_idle.inv_and_pending
  next c rest front =>
    have kept : OKeep rest [] (exec c { s with pending := rest }) :=
      exec_keeps c (fun _ => rfl) (State.Inv.keep (s := { s with pending := rest }) inv)
    rw [run] at kept
    rw [front, List.tail_cons]
    exact kept.inv_and_pending

end Sys2Proof.Machine

namespace Sys2Proof.Machine
open Sys2Proof
/-- Settles O58: the sparse maps are empty, so every lookup gives its default and every register its reset value. -/
theorem resetState : Obligations.ResetState := by
  refine ⟨⟨rfl, rfl, rfl⟩, rfl, rfl, rfl, fun _ _ => rfl, fun _ => rfl, fun _ => rfl, fun _ => rfl, ?_, ?_, rfl, ?_⟩
  · decide
  · decide
  · decide
end Sys2Proof.Machine

namespace Sys2Proof.Machine
open Sys2Proof

/-! ## Fields of registers after a write -/

/-- A field is not changed by setting one of another register, or of other bits. -/
theorem State.fld_setFld_ne (s : State) {p p' : Nat} {f f' : Fld} (v : Nat)
    (apart : p' ≠ p ∨ f'.off ≠ f.off ∨ f'.hi < f.lo ∨ f.hi < f'.lo)
    (ok : f.lo ≤ f.hi ∧ f.hi < 64 ∧ f.off < 0x1000) (ok' : f'.off < 0x1000) :
    (s.setFld p f v).fld p' f' = s.fld p' f' := by
  refine State.fld_eq_of_bits fun i lo hi => ?_
  by_cases key : p' = p ∧ f'.off = f.off
  · obtain ⟨rfl, off⟩ := key
    rw [State.setFld, off, State.rd_wr_self, getLsbD_putBits _ _ _ _ _ ok.1 ok.2.1, if_neg (by omega)]
  · rw [State.setFld, State.rd_wr_ne _ _ ok.2.2 ok' key]

/-- A field after it is set; the side condition is in a form that `decide` closes. -/
theorem State.fld_setFld_same (s : State) (p : Nat) {f : Fld} (v : Nat) (ok : f.lo ≤ f.hi ∧ f.hi < 64 ∧ f.off < 0x1000) :
    (s.setFld p f v).fld p f = v % 2 ^ (f.hi + 1 - f.lo) := State.fld_setFld_self s p f v ok

/-- A field after it is set to a value that fits. -/
theorem State.fld_setFld_fits (s : State) (p : Nat) {f : Fld} {v : Nat} (ok : f.ok) (fits : v < 2 ^ (f.hi + 1 - f.lo)) :
    (s.setFld p f v).fld p f = v := by
  rw [State.fld_setFld_self _ _ _ _ ok, Nat.mod_eq_of_lt fits]

theorem State.fld_lt (s : State) (p : Nat) (f : Fld) : s.fld p f < 2 ^ (f.hi + 1 - f.lo) := bitsOf_lt _ _ _

/-- One bit of a field is that bit of the register. -/
theorem State.testBit_fld (s : State) (p : Nat) (f : Fld) (i : Nat) :
    (s.fld p f).testBit i = (decide (i < f.hi + 1 - f.lo) && (s.rd p f.off).getLsbD (f.lo + i)) :=
  testBit_bitsOf _ _ _ _

/-- A bit of a number, as `bitsOf` reads it. -/
theorem bitsOf_self_eq_one (x i : Nat) : bitsOf x i i = 1 ↔ x.testBit i = true := by
  simp [bitsOf, Nat.testBit_eq_decide_div_mod_eq]

theorem bitsOf_self_eq_zero (x i : Nat) : bitsOf x i i = 0 ↔ x.testBit i = false := by
  have := Nat.mod_lt (x / 2 ^ i) (show 0 < 2 by decide)
  simp [bitsOf, Nat.testBit_eq_decide_div_mod_eq]

/-! ## A chain of writes within a set of bits -/

theorem OnlyBits.start (p : BitSet) (s : State) : OnlyBits p s s := (OnlyBits.refl s).mono fun _ _ _ h => h.elim

theorem OnlyBits.append {p : BitSet} {s t u : State} (h : OnlyBits p s t) (h' : OnlyBits p t u) : OnlyBits p s u :=
  (h.trans h').or_self

/-- A further field within the set is set. -/
theorem OnlyBits.setFld {p : BitSet} {s t : State} (h : OnlyBits p s t) {pg : Nat} {f : Fld} (v : Nat)
    (ok : f.lo ≤ f.hi ∧ f.hi < 64 ∧ f.off < 0x1000) (within : ∀ i, f.lo ≤ i → i ≤ f.hi → p pg f.off i) :
    OnlyBits p s (t.setFld pg f v) :=
  h.append ((onlyBits_setFld t pg f v ok).mono fun _ _ i ⟨hp, ho, lo, hi⟩ => hp ▸ ho ▸ within i lo hi)

theorem OnlyBits.setBit {p : BitSet} {s t : State} (h : OnlyBits p s t) {pg : Nat} {f : Fld} (b : Bool)
    (ok : f.lo ≤ f.hi ∧ f.hi < 64 ∧ f.off < 0x1000) (within : ∀ i, f.lo ≤ i → i ≤ f.hi → p pg f.off i) :
    OnlyBits p s (t.setBit pg f b) := h.setFld _ ok within

/-! ## Interrupts (R395) -/

/-- Nothing has changed but registers, messages that left, and the pending bits of masked vectors. -/
def IntsOnly (s t : State) : Prop :=
  t = { s with regs := t.regs, out := t.out, link := { s.link with msixPend := t.link.msixPend } }

theorem IntsOnly.refl (s : State) : IntsOnly s s := rfl

theorem RegsOnly.intsOnly {s t : State} (h : RegsOnly s t) : IntsOnly s t := by
  unfold RegsOnly IntsOnly at *; rw [h]

theorem IntsOnly.trans {s t u : State} (h : IntsOnly s t) (h' : IntsOnly t u) : IntsOnly s u := by
  unfold IntsOnly at *; rw [h', h]

theorem intsOnly_msix (s : State) (vec : Nat) : IntsOnly s (s.msix vec) := by
  unfold State.msix; split <;> rfl

theorem State.rd_msix (s : State) (vec p off : Nat) : (s.msix vec).rd p off = s.rd p off := by
  unfold State.msix; split <;> rfl

/-- The bit of INT_STAT that an interrupt of a page sets. -/
def intBit (page b : Nat) : BitSet := fun pg off i => pg = page ∧ off = 0x58 ∧ i = b

/-- Raising an interrupt that stands already does nothing; another sets its bit, and may send the vector. -/
theorem State.raise_cases (s : State) (page b : Nat) :
    (s.rd page 0x58).getLsbD b = true ∧ s.raise page b = s ∨
      ∃ vec, s.raise page b = s.setFld page ⟨0x58, b, b⟩ 1 ∨ s.raise page b = (s.setFld page ⟨0x58, b, b⟩ 1).msix vec := by
  unfold State.raise
  by_cases h : bitsOf (s.rd page 0x58).toNat b b = 1
  · rw [if_pos h]
    exact .inl ⟨(bitsOf_self_eq_one _ _).1 h, rfl⟩
  · have zero : bitsOf (s.rd page 0x58).toNat b b = 0 := by
      rw [bitsOf_self_eq_zero]; simpa [bitsOf_self_eq_one] using h
    have sets : s.wr page 0x58 (word ((s.rd page 0x58).toNat + 2 ^ b)) = s.setFld page ⟨0x58, b, b⟩ 1 := by
      simp [State.setFld, putBits, zero]
    rw [if_neg h, sets]
    refine .inr ⟨s.fld page Reg.INT_VEC_VECTOR, ?_⟩
    split
    · exact .inr rfl
    · exact .inl rfl

theorem intsOnly_raise (s : State) (page b : Nat) : IntsOnly s (s.raise page b) := by
  rcases s.raise_cases page b with ⟨_, h⟩ | ⟨vec, h | h⟩ <;> rw [h]
  · rfl
  · rfl
  · exact (RegsOnly.intsOnly (t := s.setFld page ⟨0x58, b, b⟩ 1) rfl).trans (intsOnly_msix _ vec)

theorem regFrame_raise (s : State) (page : Nat) {b : Nat} (hb : b < 64) : RegFrame (intBit page b) s (s.raise page b) := by
  have sets : RegFrame (intBit page b) s (s.setFld page ⟨0x58, b, b⟩ 1) :=
    (onlyBits_setFld s page ⟨0x58, b, b⟩ 1 ⟨le_refl b, hb, (by decide : 0x58 < 0x1000)⟩).2.mono fun _ _ _ ⟨h1, h2, h3, h4⟩ =>
      ⟨h1, h2, Nat.le_antisymm h4 h3⟩
  rcases s.raise_cases page b with ⟨_, h⟩ | ⟨vec, h | h⟩ <;> rw [h]
  · exact (RegFrame.refl s).mono fun _ _ _ h => h.elim
  · exact sets
  · exact fun p off i hp ho hn => by rw [State.rd_msix]; exact sets p off i hp ho hn

theorem State.raise_sets (s : State) (page : Nat) {b : Nat} (hb : b < 64) :
    ((s.raise page b).rd page 0x58).getLsbD b = true := by
  have sets : ((s.setFld page ⟨0x58, b, b⟩ 1).rd page 0x58).getLsbD b = true := by
    rw [State.setFld, State.rd_wr_self, getLsbD_putBits _ _ _ _ _ (le_refl _) hb]; simp
  rcases s.raise_cases page b with ⟨h, e⟩ | ⟨vec, e | e⟩ <;> rw [e]
  · exact h
  · exact sets
  · rw [State.rd_msix]; exact sets

/-! ## Errors that are only recorded (R45, R407) -/

theorem State.getLsbD_rd_wr (s : State) {p o p' o' : Nat} (v : Word) (ho : o < 0x1000) (ho' : o' < 0x1000) (i : Nat) :
    ((s.wr p o v).rd p' o').getLsbD i = if p' = p ∧ o' = o then v.getLsbD i else (s.rd p' o').getLsbD i := by
  rw [State.rd_wr]
  simp only [regKey_eq ho' ho]
  split <;> rfl

theorem getLsbD_word_two_pow (k i : Nat) (hi : i < 64) : (word (2 ^ k)).getLsbD i = decide (k = i) := by
  rw [word, BitVec.getLsbD_ofNat, Nat.testBit_two_pow]; simp [hi]

/-- A recorded error stays recorded where its bit is left alone. -/
theorem Recorded.of_frame {p : BitSet} {s t : State} {page src : Nat} (h : Recorded page src s) (frame : RegFrame p s t)
    (hp : page < 512) (hn : ¬ p page 0x20 src) : Recorded page src t := by
  unfold Recorded at *
  rw [frame page 0x20 src hp (by decide) hn, h]

/-- The bit of the source in ERR_STAT is set. -/
def State.noteStat (s : State) (page src : Nat) : State := s.wr page 0x20 (s.rd page 0x20 ||| word (2 ^ src))

/-- ERR_FIRST takes the source unless it holds an earlier one. -/
def State.noteFirst (s : State) (page src : Nat) (forced : Bool) : State :=
  if s.bit page Reg.ERR_FIRST_VALID then s
  else s.wr page 0x38 (word (src + (if forced then 2 ^ 5 else 0) + 2 ^ 7 + s.beat % 2 ^ 56 * 2 ^ 8))

theorem State.logError_eq (s : State) (page src sev : Nat) (forced : Bool) :
    s.logError page src sev forced =
      if sev = 0 then s.noteStat page src else ((s.noteStat page src).noteFirst page src forced).raise page 0 := rfl

/-- Setting the bit of a source in ERR_STAT records it, and changes that bit alone. -/
theorem noteStat_effect (s : State) (page : Nat) {src : Nat} (hs : src < 64) :
    RegsOnly s (s.noteStat page src) ∧ RegFrame (errBits page src) s (s.noteStat page src) ∧
      Recorded page src (s.noteStat page src) := by
  refine ⟨rfl, fun p off i _ ho hn => ?_, ?_⟩
  · rw [State.noteStat, State.getLsbD_rd_wr _ _ (by decide) ho]
    split
    case isTrue h =>
      obtain ⟨rfl, rfl⟩ := h
      have ne : src ≠ i := fun e => hn ⟨rfl, .inl ⟨rfl, e.symm⟩⟩
      by_cases hi : i < 64
      · rw [BitVec.getLsbD_or, getLsbD_word_two_pow _ _ hi]; simp [ne]
      · rw [BitVec.getLsbD_of_ge _ _ (by omega), BitVec.getLsbD_of_ge _ _ (by omega)]
    case isFalse => rfl
  · rw [Recorded, State.noteStat, State.rd_wr_self, BitVec.getLsbD_or, getLsbD_word_two_pow _ _ hs]; simp

theorem onlyBits_noteFirst (s : State) (page src : Nat) (forced : Bool) :
    OnlyBits (regBits page 0x38) s (s.noteFirst page src forced) := by
  unfold State.noteFirst
  split
  · exact (OnlyBits.refl s).mono fun _ _ _ h => h.elim
  · exact onlyBits_wr _ _ _ _ (by decide)

/-- What recording an error on its page changes, and that it stands in ERR_STAT. -/
theorem logError_effect (s : State) {page src : Nat} (sev : Nat) (forced : Bool) (hp : page < 512) (hs : src < 64) :
    IntsOnly s (s.logError page src sev forced) ∧ RegFrame (errBits page src) s (s.logError page src sev forced) ∧
      Recorded page src (s.logError page src sev forced) := by
  obtain ⟨only, stat, recorded⟩ := noteStat_effect s page hs
  rw [State.logError_eq]
  split
  · exact ⟨only.intsOnly, stat, recorded⟩
  · have first := onlyBits_noteFirst (s.noteStat page src) page src forced
    have raised := regFrame_raise ((s.noteStat page src).noteFirst page src forced) page (b := 0) (by decide)
    refine ⟨only.intsOnly.trans (first.1.intsOnly.trans (intsOnly_raise _ page 0)), ?_, ?_⟩
    · refine (stat.trans (first.2.trans raised)).mono ?_
      rintro a b c (h | ⟨rfl, rfl⟩ | ⟨rfl, rfl, rfl⟩)
      · exact h
      · exact ⟨rfl, .inr (.inl rfl)⟩
      · exact ⟨rfl, .inr (.inr ⟨rfl, rfl⟩)⟩
    · refine (recorded.of_frame first.2 hp ?_).of_frame raised hp ?_
      · rintro ⟨_, h⟩; exact absurd h (by decide)
      · rintro ⟨_, h, _⟩; exact absurd h (by decide)

/-- A quiet error is recorded on its page and nothing more (R407). -/
theorem recordError_quiet (s : State) {page src : Nat} (forced : Bool) (arg : Nat) (hp : page < 512) (hs : src < 64)
    (quiet : s.quietError page src) :
    s.recordError page src forced arg = s.logError page src (s.severity page src) forced := by
  obtain ⟨normal, mild⟩ := quiet
  have frame := (logError_effect s (s.severity page src) forced hp hs).2.1
  have state : (s.logError page src (s.severity page src) forced).fltState = 0 := by
    rw [← normal]
    refine frame.fld (by decide) (by decide) ?_
    rintro i _ _ ⟨_, h | h | h⟩
    · exact absurd h.1 (by decide)
    · exact absurd h (by decide)
    · exact absurd h.1 (by decide)
  simp only [State.recordError]
  rw [if_pos state, if_neg (by omega)]

/-- What a quiet error changes, and that it is recorded. -/
theorem recordError_effect (s : State) {page src : Nat} (forced : Bool) (arg : Nat) (hp : page < 512) (hs : src < 64)
    (quiet : s.quietError page src) :
    IntsOnly s (s.recordError page src forced arg) ∧ RegFrame (errBits page src) s (s.recordError page src forced arg) ∧
      Recorded page src (s.recordError page src forced arg) := by
  rw [recordError_quiet s forced arg hp hs quiet]
  exact logError_effect s _ forced hp hs

/-- The severity of a source is that of its registers. -/
theorem RegFrame.severity {p : BitSet} {s t : State} (frame : RegFrame p s t) {page : Nat} (src : Nat) (hp : page < 512)
    (sev : ∀ i, ¬ p page 0x28 i) (stat : ∀ i, ¬ p page 0x10 i) : t.severity page src = s.severity page src := by
  have word : t.rd page 0x28 = s.rd page 0x28 :=
    BitVec.eq_of_getLsbD_eq fun i _ => frame page 0x28 i hp (by decide) (sev i)
  have fenced : t.fenced page = s.fenced page :=
    congrArg (· == 1) (frame.fld (f := Reg.BLK_STAT_FENCED) hp (by decide) fun i _ _ => stat i)
  rw [State.severity, State.severity, word, fenced]

/-- An error stays quiet where the registers that say so are left alone. -/
theorem State.quietError.of_frame {p : BitSet} {s t : State} {page src : Nat} (h : s.quietError page src)
    (frame : RegFrame p s t) (hp : page < 512) (sev : ∀ i, ¬ p page 0x28 i) (stat : ∀ i, ¬ p page 0x10 i)
    (flt : ∀ i, ¬ p pgDBG 0x100 i) : t.quietError page src :=
  ⟨(frame.fld (f := Reg.DBG_FLT_STATE) (by decide) (by decide) fun i _ _ => flt i).trans h.1,
    (frame.severity src hp sev stat).le.trans h.2⟩

end Sys2Proof.Machine

namespace Sys2Proof.Machine
open Sys2Proof

/-! ## The link group (R382, R383) -/

/-- The bits that follow from the group: WAYS and LGRP_OK of GLB, RANK and PRIMARY of every link. -/
def groupBits : BitSet := fun pg off i =>
  Reg.GLB_LGRP_WAYS.bits pgGLB pg off i ∨ Reg.GLB_STAT_LGRP_OK.bits pgGLB pg off i ∨
    ∃ n, n < 3 ∧ (Reg.ULNK_STAT_RANK.bits (pgULNK n) pg off i ∨ Reg.ULNK_STAT_PRIMARY.bits (pgULNK n) pg off i)

/-- WAYS, the ranks, PRIMARY and LGRP_OK are those of the links that are bound, trained and fenced. -/
def GroupFollows (t : State) : Prop :=
  t.fld pgGLB Reg.GLB_LGRP_WAYS = t.boundLinks.length ∧
    (∀ n, n < 3 → t.bit (pgULNK n) Reg.ULNK_STAT_PRIMARY = decide (t.primary = some n) ∧
      t.fld (pgULNK n) Reg.ULNK_STAT_RANK = if n ∈ t.boundLinks then t.boundLinks.idxOf n else 0) ∧
    (t.bit pgGLB Reg.GLB_STAT_LGRP_OK = true ↔ t.fld pgGLB Reg.GLB_LGRP_PRESENT ≠ 0 ∧
      ∀ n, (t.fld pgGLB Reg.GLB_LGRP_PRESENT).testBit n = true → (t.fld pgGLB Reg.GLB_LGRP_BOUND).testBit n = true)

/-- RANK and PRIMARY of one link. -/
def State.refreshLink (s : State) (ls : List Nat) (prim : Option Nat) (n : Nat) : State :=
  (s.setFld (pgULNK n) Reg.ULNK_STAT_RANK (if ls.contains n then ls.idxOf n else 0)).setBit (pgULNK n) Reg.ULNK_STAT_PRIMARY
    (prim == some n)

/-- RANK and PRIMARY of every link, after WAYS. -/
def State.refreshLinks (s : State) (ls : List Nat) (prim : Option Nat) : State :=
  (((s.setFld pgGLB Reg.GLB_LGRP_WAYS ls.length).refreshLink ls prim 0).refreshLink ls prim 1).refreshLink ls prim 2

theorem State.refreshGroup_eq (s : State) :
    s.refreshGroup =
      let t := s.refreshLinks s.boundLinks s.primary
      let present := t.fld pgGLB Reg.GLB_LGRP_PRESENT
      t.setBit pgGLB Reg.GLB_STAT_LGRP_OK (present != 0 && present &&& t.fld pgGLB Reg.GLB_LGRP_BOUND == present) := rfl

theorem onlyBits_refreshLink (s : State) (ls : List Nat) (prim : Option Nat) {n : Nat} (hn : n < 3) :
    OnlyBits groupBits s (s.refreshLink ls prim n) := by
  refine ((onlyBits_setFld s _ _ _ ⟨by decide, by decide, by decide⟩).trans
    (onlyBits_setBit _ _ _ _ ⟨by decide, by decide, by decide⟩)).mono ?_
  rintro a b c (h | h)
  · exact .inr (.inr ⟨n, hn, .inl h⟩)
  · exact .inr (.inr ⟨n, hn, .inr h⟩)

theorem onlyBits_refreshLinks (s : State) (ls : List Nat) (prim : Option Nat) :
    OnlyBits groupBits s (s.refreshLinks ls prim) := by
  have ways : OnlyBits groupBits s (s.setFld pgGLB Reg.GLB_LGRP_WAYS ls.length) :=
    (onlyBits_setFld _ _ _ _ ⟨by decide, by decide, by decide⟩).mono fun _ _ _ h => .inl h
  exact (((ways.trans (onlyBits_refreshLink _ ls prim (by decide))).or_self.trans
    (onlyBits_refreshLink _ ls prim (by decide))).or_self.trans (onlyBits_refreshLink _ ls prim (by decide))).or_self

theorem onlyBits_refreshGroup (s : State) : OnlyBits groupBits s s.refreshGroup := by
  rw [State.refreshGroup_eq]
  exact ((onlyBits_refreshLinks s _ _).trans ((onlyBits_setBit _ _ _ _ ⟨by decide, by decide, by decide⟩).mono
    fun _ _ _ h => .inr (.inl h))).or_self

theorem State.boundLinks_congr {s t : State} (bound : t.fld pgGLB Reg.GLB_LGRP_BOUND = s.fld pgGLB Reg.GLB_LGRP_BOUND)
    (fenced : ∀ n, n < 3 → t.fld (pgULNK n) Reg.ULNK_STAT_FENCED = s.fld (pgULNK n) Reg.ULNK_STAT_FENCED) :
    t.boundLinks = s.boundLinks := by
  refine List.filter_congr fun n hn => ?_
  rw [State.bit, State.bit, bound, fenced n (List.mem_range.1 hn)]

theorem State.primary_congr {s t : State}
    (trained : ∀ n, n < 3 → t.fld (pgULNK n) Reg.ULNK_STAT_TRAINED = s.fld (pgULNK n) Reg.ULNK_STAT_TRAINED)
    (fenced : ∀ n, n < 3 → t.fld (pgULNK n) Reg.ULNK_STAT_FENCED = s.fld (pgULNK n) Reg.ULNK_STAT_FENCED) :
    t.primary = s.primary := by
  refine List.find?_congr fun n hn => ?_
  rw [State.bit, State.bit, State.bit, State.bit, trained n (List.mem_range.1 hn), fenced n (List.mem_range.1 hn)]

theorem groupBits_iff (p off i : Nat) : groupBits p off i ↔
    p = 0 ∧ (off = 0x120 ∧ 8 ≤ i ∧ i ≤ 9 ∨ off = 0x100 ∧ i = 5) ∨
      (p = 8 ∨ p = 9 ∨ p = 10) ∧ off = 0x108 ∧ (i = 1 ∨ 12 ≤ i ∧ i ≤ 13) := by
  unfold groupBits Fld.bits
  simp only [Reg.GLB_LGRP_WAYS, Reg.GLB_STAT_LGRP_OK, Reg.ULNK_STAT_RANK, Reg.ULNK_STAT_PRIMARY, pgGLB, pgULNK]
  constructor
  · rintro (h | h | ⟨n, hn, h | h⟩) <;> omega
  · rintro (⟨rfl, h | h⟩ | ⟨h, rfl, hi⟩)
    · exact .inl (by omega)
    · exact .inr (.inl (by omega))
    · exact .inr (.inr ⟨p - 8, by omega, by omega⟩)

/-- A field outside the bits that follow from the group; the side conditions are in a form that `decide` closes. -/
theorem RegFrame.fld_of_group {s t : State} (frame : RegFrame groupBits s t) {p : Nat} {f : Fld} (hp : p < 512)
    (off : f.off < 0x1000)
    (glb : p ≠ 0 ∨ (f.off ≠ 0x120 ∨ f.hi < 8 ∨ 9 < f.lo) ∧ (f.off ≠ 0x100 ∨ f.hi < 5 ∨ 5 < f.lo))
    (ulnk : p < 8 ∨ 10 < p ∨ f.off ≠ 0x108 ∨ f.hi < 1 ∨ 1 < f.lo ∧ f.hi < 12 ∨ 13 < f.lo) : t.fld p f = s.fld p f :=
  frame.fld hp off fun i lo hi => by rw [groupBits_iff]; omega

theorem State.fld_refreshGroup (s : State) {p : Nat} {f : Fld} (hp : p < 512) (off : f.off < 0x1000)
    (glb : p ≠ 0 ∨ (f.off ≠ 0x120 ∨ f.hi < 8 ∨ 9 < f.lo) ∧ (f.off ≠ 0x100 ∨ f.hi < 5 ∨ 5 < f.lo))
    (ulnk : p < 8 ∨ 10 < p ∨ f.off ≠ 0x108 ∨ f.hi < 1 ∨ 1 < f.lo ∧ f.hi < 12 ∨ 13 < f.lo) :
    s.refreshGroup.fld p f = s.fld p f := (onlyBits_refreshGroup s).2.fld_of_group hp off glb ulnk

theorem State.length_boundLinks_le (s : State) : s.boundLinks.length ≤ 3 :=
  (List.length_filter_le _ (List.range 3)).trans_eq List.length_range

theorem State.idxOf_boundLinks_lt (s : State) {n : Nat} (h : n ∈ s.boundLinks) : s.boundLinks.idxOf n < 3 :=
  lt_of_lt_of_le (List.idxOf_lt_length_of_mem h) s.length_boundLinks_le

/-- Every bit of one number is one of another. -/
theorem and_eq_left_iff_testBit (x y : Nat) : x &&& y = x ↔ ∀ n, x.testBit n = true → y.testBit n = true := by
  constructor
  · intro h n hn
    rw [← h, Nat.testBit_and, Bool.and_eq_true] at hn
    exact hn.2
  · refine fun h => Nat.eq_of_testBit_eq fun n => ?_
    rw [Nat.testBit_and]
    cases hn : x.testBit n
    · rfl
    · rw [h n hn]; rfl

/-- What refreshing gives the links. -/
theorem State.refreshLinks_link (s : State) (ls : List Nat) (prim : Option Nat) {n : Nat} (hn : n < 3)
    (rank : ∀ n, (if ls.contains n then ls.idxOf n else 0) < 2 ^ 2) :
    (s.refreshLinks ls prim).bit (pgULNK n) Reg.ULNK_STAT_PRIMARY = decide (prim = some n) ∧
      (s.refreshLinks ls prim).fld (pgULNK n) Reg.ULNK_STAT_RANK = if n ∈ ls then ls.idxOf n else 0 := by
  have eq : (if n ∈ ls then ls.idxOf n else 0) = if ls.contains n then ls.idxOf n else 0 := by
    simp only [List.contains_iff_mem]
  rw [eq, ← beq_eq_decide]
  interval_cases n <;>
    simp (disch := decide) only [State.refreshLinks, State.refreshLink, State.setBit, State.bit, State.fld_setFld_ne] <;>
    exact ⟨State.bit_setBit_self _ _ _ _ ⟨by decide, by decide, by decide⟩ rfl,
      State.fld_setFld_fits _ _ ⟨by decide, by decide, by decide⟩ (rank _)⟩

theorem groupFollows_refreshGroup (s : State) : GroupFollows s.refreshGroup := by
  have stat : ∀ {f : Fld}, f = Reg.ULNK_STAT_FENCED ∨ f = Reg.ULNK_STAT_TRAINED →
      ∀ n, n < 3 → s.refreshGroup.fld (pgULNK n) f = s.fld (pgULNK n) f := by
    rintro f (rfl | rfl) n hn <;> interval_cases n <;> exact s.fld_refreshGroup (by decide) (by decide) (by decide) (by decide)
  have links : s.refreshGroup.boundLinks = s.boundLinks :=
    State.boundLinks_congr (s.fld_refreshGroup (by decide) (by decide) (by decide) (by decide)) (stat (.inl rfl))
  have prim : s.refreshGroup.primary = s.primary := State.primary_congr (stat (.inr rfl)) (stat (.inl rfl))
  have few := s.length_boundLinks_le
  have rank : ∀ n, (if s.boundLinks.contains n then s.boundLinks.idxOf n else 0) < 2 ^ 2 := by
    intro n
    split
    case isTrue h => have := s.idxOf_boundLinks_lt (List.contains_iff_mem.1 h); omega
    case isFalse => decide
  refine ⟨?_, fun n hn => ?_, ?_⟩
  · rw [links, State.refreshGroup_eq]
    simp (disch := decide) only [State.refreshLinks, State.refreshLink, State.setBit, State.fld_setFld_ne]
    exact State.fld_setFld_fits _ _ ⟨by decide, by decide, by decide⟩ (by simp only [Reg.GLB_LGRP_WAYS]; omega)
  · have link := s.refreshLinks_link s.boundLinks s.primary hn rank
    rw [links, prim, State.refreshGroup_eq, State.bit, State.setBit, State.fld_setFld_ne _ _ (.inr (.inl (by decide)))
      (by decide) (by decide), State.fld_setFld_ne _ _ (.inr (.inl (by decide))) (by decide) (by decide)]
    exact link
  · have present : s.refreshGroup.fld pgGLB Reg.GLB_LGRP_PRESENT = _ :=
      s.fld_refreshGroup (by decide) (by decide) (by decide) (by decide)
    have bound : s.refreshGroup.fld pgGLB Reg.GLB_LGRP_BOUND = _ :=
      s.fld_refreshGroup (by decide) (by decide) (by decide) (by decide)
    have frame := (onlyBits_refreshLinks s s.boundLinks s.primary).2
    rw [present, bound, State.refreshGroup_eq, State.bit_setBit_self _ _ _ _ ⟨by decide, by decide, by decide⟩ rfl,
      frame.fld_of_group (by decide) (by decide) (by decide) (by decide),
      frame.fld_of_group (by decide) (by decide) (by decide) (by decide), Bool.and_eq_true, bne_iff_ne, beq_iff_eq,
      and_eq_left_iff_testBit]

/-! ## Training (R376) -/

/-- A link comes up at a rate with all its modules. -/
def State.bringUp (s : State) (l rate : Nat) : State :=
  let s := (((s.setBit (pgULNK l) Reg.ULNK_STAT_TRAINED true).setBit (pgULNK l) Reg.BLK_STAT_READY true).setFld (pgULNK l)
    Reg.ULNK_STAT_RATE rate).setModules l 15
  let s := (s.setFld pgGLB (Reg.GLB_PORT_RATE l) rate).setBit pgGLB (Reg.GLB_PORT_TRAINED l) true
  let s := s.setFld pgGLB Reg.GLB_LGRP_PRESENT (s.fld pgGLB Reg.GLB_LGRP_PRESENT ||| 2 ^ l)
  s.setFld pgCLK Reg.CLK_STAT_UCIE_LOCK (s.fld pgCLK Reg.CLK_STAT_UCIE_LOCK ||| 2 ^ l)

/-- The registers that a link which comes up changes. -/
def trainingRegs (l : Nat) : BitSet := fun p off _ =>
  off = 0x108 ∧ (∃ n, n < 3 ∧ p = pgULNK n) ∨ p = pgULNK l ∧ off = 0x10 ∨ p = pgCLK ∧ off = 0x100 ∨
    p = pgGLB ∧ (off = Reg.GLB_STAT_LGRP_OK.off ∨ off = 0x120 ∨ off = 0x128 + 8 * l)

theorem onlyBits_bringUp (s : State) {l : Nat} (hl : l < 3) (rate : Nat) :
    OnlyBits (trainingRegs l) s (s.bringUp l rate) := by
  have stat : ∀ i, trainingRegs l (pgULNK l) 0x108 i := fun _ => .inl ⟨rfl, l, hl, rfl⟩
  have port : ∀ i, trainingRegs l pgGLB (0x128 + 8 * l) i := fun _ => .inr (.inr (.inr ⟨rfl, .inr (.inr rfl)⟩))
  have portOff : 0x128 + 8 * l < 0x1000 := by omega
  have modules := (((((OnlyBits.start (trainingRegs l) s).setBit (f := Reg.ULNK_STAT_TRAINED) true (by decide)
    fun i _ _ => stat i).setBit (f := Reg.BLK_STAT_READY) true (by decide) fun _ _ _ => .inr (.inl ⟨rfl, rfl⟩)).setFld
    (f := Reg.ULNK_STAT_RATE) rate (by decide) fun i _ _ => stat i).setFld (f := Reg.ULNK_STAT_MODULES_UP) 15 (by decide)
    fun i _ _ => stat i)
  have ports := ((modules.setFld (f := Reg.GLB_PORT_MODULES_UP l) 15 ⟨Nat.le_of_ble_eq_true rfl, Nat.le_of_ble_eq_true rfl,
    portOff⟩ fun i _ _ => port i).setFld (f := Reg.GLB_PORT_RATE l) rate ⟨Nat.le_of_ble_eq_true rfl,
    Nat.le_of_ble_eq_true rfl, portOff⟩ fun i _ _ => port i).setBit (f := Reg.GLB_PORT_TRAINED l) true
    ⟨Nat.le_of_ble_eq_true rfl, Nat.le_of_ble_eq_true rfl, portOff⟩ fun i _ _ => port i
  exact (ports.setFld (f := Reg.GLB_LGRP_PRESENT) _ (by decide) fun _ _ _ => .inr (.inr (.inr ⟨rfl, .inr (.inl rfl)⟩))).setFld
    (f := Reg.CLK_STAT_UCIE_LOCK) _ (by decide) fun _ _ _ => .inr (.inr (.inl ⟨rfl, rfl⟩))

/-- What a link that came up shows. -/
def LinkCameUp (l rate : Nat) (s t : State) : Prop :=
  t.linkUp l = true ∧ t.ready (pgULNK l) = true ∧ t.fld (pgULNK l) Reg.ULNK_STAT_RATE = rate ∧
    t.fld (pgULNK l) Reg.ULNK_STAT_MODULES_UP = 15 ∧ t.fld pgGLB (Reg.GLB_PORT_RATE l) = rate ∧
    t.fld pgGLB (Reg.GLB_PORT_MODULES_UP l) = 15 ∧ t.bit pgGLB (Reg.GLB_PORT_TRAINED l) = true ∧
    t.fld pgGLB Reg.GLB_LGRP_PRESENT = s.fld pgGLB Reg.GLB_LGRP_PRESENT ||| 2 ^ l ∧
    t.fld pgCLK Reg.CLK_STAT_UCIE_LOCK = s.fld pgCLK Reg.CLK_STAT_UCIE_LOCK ||| 2 ^ l

theorem linkCameUp_bringUp (s : State) {l rate : Nat} (hl : l < 3) (hr : rate < 2 ^ 3)
    (unfenced : s.bit (pgULNK l) Reg.ULNK_STAT_FENCED = false) : LinkCameUp l rate s (s.bringUp l rate) := by
  have present : s.fld pgGLB Reg.GLB_LGRP_PRESENT ||| 2 ^ l < 2 ^ 3 :=
    Nat.or_lt_two_pow (s.fld_lt _ _) (Nat.pow_lt_pow_right (by decide) hl)
  have lock : s.fld pgCLK Reg.CLK_STAT_UCIE_LOCK ||| 2 ^ l < 2 ^ 3 :=
    Nat.or_lt_two_pow (s.fld_lt _ _) (Nat.pow_lt_pow_right (by decide) hl)
  unfold LinkCameUp State.linkUp State.ready State.bringUp State.setModules
  interval_cases l <;>
    simp (disch := decide) only [State.setBit, State.bit, State.fld_setFld_ne, State.fld_setFld_same] at unfenced ⊢ <;>
    rw [unfenced] <;>
    exact ⟨rfl, rfl, Nat.mod_eq_of_lt hr, rfl, Nat.mod_eq_of_lt (hr.trans (by decide)), rfl, rfl,
      Nat.mod_eq_of_lt present, Nat.mod_eq_of_lt lock⟩

/-- Refreshing the group leaves what a link that came up shows. -/
theorem LinkCameUp.refreshGroup {l rate : Nat} {s t : State} (h : LinkCameUp l rate s t) (hl : l < 3) :
    LinkCameUp l rate s t.refreshGroup := by
  unfold LinkCameUp State.linkUp State.ready State.bit at *
  interval_cases l <;> simpa (disch := decide) only [State.fld_refreshGroup] using h

theorem trainingRegs_of_groupBits {l : Nat} : ∀ p off i, groupBits p off i → trainingRegs l p off i := by
  intro p off i h
  rw [groupBits_iff] at h
  rcases h with ⟨rfl, h | h⟩ | ⟨h, rfl, _⟩
  · exact .inr (.inr (.inr ⟨rfl, .inr (.inl h.1)⟩))
  · exact .inr (.inr (.inr ⟨rfl, .inl h.1⟩))
  · exact .inl ⟨rfl, p - 8, by omega, by unfold pgULNK; omega⟩

/-- The end of training: modules that failed are fenced, and the link comes up with those that are left. -/
def State.endTraining (s : State) (l rate failed : Nat) : State :=
  let bad := (List.range 4).filter fun i => failed / 2 ^ i % 2 = 1
  let s := { s with flt := { s.flt with bootFenced := s.flt.bootFenced ++ bad.map fun i => FUnit.module (4 * l + i) } }
  let s := if bad.isEmpty then s else s.error (pgULNK l) Src.ulnk_MOD_TRAIN_FAIL
  let up := 15 - s.fencedModules l
  if up = 0 then s
  else
    let s := (((s.setBit (pgULNK l) Reg.ULNK_STAT_TRAINED true).setBit (pgULNK l) Reg.BLK_STAT_READY true).setFld (pgULNK l)
      Reg.ULNK_STAT_RATE rate).setModules l up
    let s := (s.setFld pgGLB (Reg.GLB_PORT_RATE l) rate).setBit pgGLB (Reg.GLB_PORT_TRAINED l) true
    let s := s.setFld pgGLB Reg.GLB_LGRP_PRESENT (s.fld pgGLB Reg.GLB_LGRP_PRESENT ||| 2 ^ l)
    let s := s.setFld pgCLK Reg.CLK_STAT_UCIE_LOCK (s.fld pgCLK Reg.CLK_STAT_UCIE_LOCK ||| 2 ^ l)
    s.refreshGroup

theorem endTraining_whole (s : State) (l rate : Nat) (whole : s.fencedModules l = 0) :
    s.endTraining l rate 0 = (s.bringUp l rate).refreshGroup := by
  have noneBad : ((List.range 4).filter fun i => 0 / 2 ^ i % 2 = 1) = [] := by decide
  have same : { s with flt := { s.flt with bootFenced := s.flt.bootFenced ++ [] } } = s := by rw [List.append_nil]
  simp only [State.endTraining, noneBad, List.map_nil, same, List.isEmpty_nil, if_true, whole]
  rfl

/-- The outcome of training: the rate, the modules that failed, the times the rate was lowered. -/
def State.training (s : State) (link : Fin 3) (fails : List (BitVec 4)) : Nat × Nat × Nat :=
  trainRate (s.bit (pgULNK link) Reg.ULNK_CFG_FALLBACK)
    (min (s.fld (pgULNK link) Reg.ULNK_CFG_MAX_RATE) (s.fld (pgULNK link) Reg.ULNK_STAT_FUSE_MAX))
    (fails.map fun f => f.toNat &&& (15 - s.fencedModules link))

/-- Training that takes place records an error for each rate it gives up. -/
theorem exec_linkTrained (s : State) (link : Fin 3) (fails : List (BitVec 4))
    (trained : s.bit (pgULNK link) Reg.ULNK_STAT_TRAINED = false) (unfenced : s.bit (pgULNK link) Reg.ULNK_STAT_FENCED = false)
    (booted : 7 ≤ s.fld pgGLB Reg.GLB_STAT_BOOT_STEP) :
    exec (.linkTrained link fails) s =
      .next (((List.range (s.training link fails).2.2).foldl
        (fun (s : State) _ => s.error (pgULNK link) Src.ulnk_RATE_FALLBACK) s).endTraining link
          (s.training link fails).1 (s.training link fails).2.1) := by
  have goes : ¬ (s.bit (pgULNK link) Reg.ULNK_STAT_TRAINED || s.bit (pgULNK link) Reg.ULNK_STAT_FENCED ||
      decide (s.fld pgGLB Reg.GLB_STAT_BOOT_STEP < 7)) = true := by
    rw [trained, unfenced]; simpa using booted
  exact congrArg Host.Outcome.next (if_neg goes)

/-- With every module up at the first rate tried, the link comes up at it. -/
theorem exec_linkTrained_first (s : State) (link : Fin 3) (trained : s.bit (pgULNK link) Reg.ULNK_STAT_TRAINED = false)
    (unfenced : s.bit (pgULNK link) Reg.ULNK_STAT_FENCED = false) (booted : 7 ≤ s.fld pgGLB Reg.GLB_STAT_BOOT_STEP)
    (whole : s.fencedModules link = 0) :
    exec (.linkTrained link []) s = .next (s.bringUp link
      (min (s.fld (pgULNK link) Reg.ULNK_CFG_MAX_RATE) (s.fld (pgULNK link) Reg.ULNK_STAT_FUSE_MAX))).refreshGroup := by
  rw [exec_linkTrained s link [] trained unfenced booted, ← endTraining_whole s link _ whole]
  rfl

/-- With a module that fails at the first rate tried, and no fallback to fewer modules, the link comes up one rate lower,
after a RATE_FALLBACK error. -/
theorem exec_linkTrained_lowered (s : State) (link : Fin 3) {f : BitVec 4} (hf : f ≠ 0)
    (trained : s.bit (pgULNK link) Reg.ULNK_STAT_TRAINED = false) (unfenced : s.bit (pgULNK link) Reg.ULNK_STAT_FENCED = false)
    (booted : 7 ≤ s.fld pgGLB Reg.GLB_STAT_BOOT_STEP) (whole : s.fencedModules link = 0)
    (room : 0 < min (s.fld (pgULNK link) Reg.ULNK_CFG_MAX_RATE) (s.fld (pgULNK link) Reg.ULNK_STAT_FUSE_MAX))
    (lowers : s.bit (pgULNK link) Reg.ULNK_CFG_FALLBACK = false)
    (kept : (s.error (pgULNK link) Src.ulnk_RATE_FALLBACK).flt = s.flt) :
    exec (.linkTrained link [f]) s = .next (((s.error (pgULNK link) Src.ulnk_RATE_FALLBACK).bringUp link
      (min (s.fld (pgULNK link) Reg.ULNK_CFG_MAX_RATE) (s.fld (pgULNK link) Reg.ULNK_STAT_FUSE_MAX) - 1)).refreshGroup) := by
  have whole' : (s.error (pgULNK link) Src.ulnk_RATE_FALLBACK).fencedModules link = 0 := by
    rw [← whole]; unfold State.fencedModules; rw [kept]
  have found : s.training link [f] =
      (min (s.fld (pgULNK link) Reg.ULNK_CFG_MAX_RATE) (s.fld (pgULNK link) Reg.ULNK_STAT_FUSE_MAX) - 1, 0, 1) := by
    have fails : f.toNat &&& 15 ≠ 0 := by
      rw [Nat.and_two_pow_sub_one_eq_mod f.toNat 4, Nat.mod_eq_of_lt f.isLt]
      exact fun h => hf (BitVec.eq_of_toNat_eq h)
    simp only [State.training, whole, lowers, List.map_cons, List.map_nil, trainRate, Nat.sub_zero, if_neg fails,
      Bool.false_or, decide_eq_true_eq, if_neg room.ne']
  rw [exec_linkTrained s link [f] trained unfenced booted, found, ← endTraining_whole _ link _ whole']
  rfl

/-- What a link comes up to: a step that ends in `bringUp` and `refreshGroup` from a state that shows the same link and
group. -/
theorem bringUp_refreshGroup_spec (s : State) {l rate : Nat} (hl : l < 3) (hr : rate < 2 ^ 3)
    (unfenced : s.bit (pgULNK l) Reg.ULNK_STAT_FENCED = false) :
    LinkCameUp l rate s (s.bringUp l rate).refreshGroup ∧ GroupFollows (s.bringUp l rate).refreshGroup ∧
      OnlyBits (trainingRegs l) s (s.bringUp l rate).refreshGroup :=
  ⟨(linkCameUp_bringUp s hl hr unfenced).refreshGroup hl, groupFollows_refreshGroup _,
    (onlyBits_bringUp s hl rate).append ((onlyBits_refreshGroup _).mono trainingRegs_of_groupBits)⟩

theorem LinkCameUp.congr {l rate : Nat} {s s' t : State} (h : LinkCameUp l rate s t)
    (present : s.fld pgGLB Reg.GLB_LGRP_PRESENT = s'.fld pgGLB Reg.GLB_LGRP_PRESENT)
    (lock : s.fld pgCLK Reg.CLK_STAT_UCIE_LOCK = s'.fld pgCLK Reg.CLK_STAT_UCIE_LOCK) : LinkCameUp l rate s' t := by
  unfold LinkCameUp at *; rwa [← present, ← lock]

/-- A field is kept by recording an error, but those of the error registers. -/
theorem RegFrame.fld_of_errBits {s t : State} {page src : Nat} (frame : RegFrame (errBits page src) s t) {p : Nat} {f : Fld}
    (hp : p < 512) (off : f.off < 0x1000) (apart : p ≠ page ∨ f.off ≠ 0x20 ∧ f.off ≠ 0x38 ∧ f.off ≠ 0x58) :
    t.fld p f = s.fld p f :=
  frame.fld hp off fun i _ _ ⟨h, h'⟩ => by omega

/-! ## Binding (R50) -/

theorem State.releaseHeld_none {s : State} (held : s.link.held = []) : s.releaseHeld = s := by
  have link : ({ s.link with held := [] } : Link) = s.link := by rw [← held]
  unfold State.releaseHeld
  rw [held, link]
  rfl

theorem exec_glbLgrpBind (s : State) (link : Fin 3) (present : (s.fld pgGLB Reg.GLB_LGRP_PRESENT).testBit link = true)
    (cache : s.bit (pgULNK link) Reg.ULNK_STAT_CACHE_EN = true) (mem : s.bit (pgULNK link) Reg.ULNK_STAT_MEM_EN = true)
    (held : s.link.held = []) :
    exec (.glbLgrpBind link) s =
      .next ((s.setFld pgGLB Reg.GLB_LGRP_BOUND (s.fld pgGLB Reg.GLB_LGRP_BOUND ||| 2 ^ link.val)).setBit (pgULNK link)
        Reg.ULNK_STAT_BOUND true).refreshGroup := by
  have goes : ¬ (decide (bitsOf (s.fld pgGLB Reg.GLB_LGRP_PRESENT) link link = 0) ||
      !s.bit (pgULNK link) Reg.ULNK_STAT_CACHE_EN || !s.bit (pgULNK link) Reg.ULNK_STAT_MEM_EN) = true := by
    simp [cache, mem, bitsOf_self_eq_zero, present]
  refine congrArg Host.Outcome.next ((if_neg goes).trans (State.releaseHeld_none ?_))
  rw [(onlyBits_refreshGroup _).1]
  exact held

theorem glbLgrpBind_spec (s : State) {l : Nat} (hl : l < 3) :
    let t := ((s.setFld pgGLB Reg.GLB_LGRP_BOUND (s.fld pgGLB Reg.GLB_LGRP_BOUND ||| 2 ^ l)).setBit (pgULNK l)
        Reg.ULNK_STAT_BOUND true).refreshGroup
    t.bit (pgULNK l) Reg.ULNK_STAT_BOUND = true ∧
      t.fld pgGLB Reg.GLB_LGRP_BOUND = s.fld pgGLB Reg.GLB_LGRP_BOUND ||| 2 ^ l ∧
      OnlyBits (fun p off _ => off = 0x108 ∧ (∃ n, n < 3 ∧ p = pgULNK n) ∨
        p = pgGLB ∧ (off = Reg.GLB_STAT_LGRP_OK.off ∨ off = 0x120)) s t := by
  have bound : s.fld pgGLB Reg.GLB_LGRP_BOUND ||| 2 ^ l < 2 ^ 3 :=
    Nat.or_lt_two_pow (s.fld_lt _ _) (Nat.pow_lt_pow_right (by decide) hl)
  refine ⟨?_, ?_, ?_⟩
  · interval_cases l <;>
      simp (disch := decide) only [State.bit, State.fld_refreshGroup, State.setBit, State.fld_setFld_same] <;> rfl
  · interval_cases l <;>
      simp (disch := decide) only [State.fld_refreshGroup, State.setBit, State.fld_setFld_ne, State.fld_setFld_same] <;>
      exact Nat.mod_eq_of_lt bound
  · refine (((OnlyBits.start _ s).setFld (f := Reg.GLB_LGRP_BOUND) _ (by decide) fun _ _ _ => .inr ⟨rfl, .inr rfl⟩).setBit
      (f := Reg.ULNK_STAT_BOUND) true (by decide) fun _ _ _ => .inl ⟨rfl, l, hl, rfl⟩).append
      ((onlyBits_refreshGroup _).mono fun p off i h => ?_)
    rw [groupBits_iff] at h
    rcases h with ⟨rfl, h | h⟩ | ⟨h, rfl, _⟩
    · exact .inr ⟨rfl, .inr h.1⟩
    · exact .inr ⟨rfl, .inl h.1⟩
    · exact .inl ⟨rfl, p - 8, by omega, by unfold pgULNK; omega⟩

/-! ## Retries (R377) -/

/-- The retries of a module within the second before now. -/
def State.recentRetries (s : State) (m : Nat) : List Nat :=
  (kget (fun _ => []) s.link.retries m).filter fun b => s.beat < b + 700000000

/-- A retry counts on its module. -/
def State.bumpRetry (s : State) (l mod : Nat) : State :=
  (s.addSat (pgULNK l) ⟨0x110, 16 * mod + 15, 16 * mod⟩ 1).perf (pgULNK l) 0x104 1

/-- A retry stands first among those of its module within the last second. -/
def State.noteRetry (s : State) (m : Nat) : State :=
  { s with link := { s.link with retries := kset (fun _ => []) s.link.retries m (s.beat :: s.recentRetries m) } }

theorem State.retries_noteRetry (s : State) (m : Nat) : (s.noteRetry m).link.retries =
    kset (fun _ => []) s.link.retries m (s.beat :: s.recentRetries m) := rfl

/-- The bits that a retry changes. -/
def retryBits (l mod : Nat) : BitSet :=
  (perfBits (pgULNK l)).or (Fld.bits ⟨0x110, 16 * mod + 15, 16 * mod⟩ (pgULNK l))

theorem onlyBits_bumpRetry (s : State) (l : Nat) {mod : Nat} (hm : mod < 4) :
    OnlyBits (retryBits l mod) s (s.bumpRetry l mod) :=
  ((onlyBits_addSat s (pgULNK l) ⟨0x110, 16 * mod + 15, 16 * mod⟩ 1
    ⟨Nat.le_add_right _ _, by show 16 * mod + 15 < 64; omega, (by decide : 0x110 < 0x1000)⟩).trans
    (onlyBits_perf _ _ _ _)).mono fun _ _ _ h => h.elim .inr .inl

theorem fld_bumpRetry (s : State) {l mod : Nat} (hl : l < 3) (hm : mod < 4) :
    (s.bumpRetry l mod).fld (pgULNK l) ⟨0x110, 16 * mod + 15, 16 * mod⟩ =
      min (s.fld (pgULNK l) ⟨0x110, 16 * mod + 15, 16 * mod⟩ + 1) (2 ^ 16 - 1) := by
  have width : 16 * mod + 15 + 1 - 16 * mod = 16 := by omega
  have counted := State.fld_setFld_self s (pgULNK l) ⟨0x110, 16 * mod + 15, 16 * mod⟩
    (min (s.fld (pgULNK l) ⟨0x110, 16 * mod + 15, 16 * mod⟩ + 1) (2 ^ 16 - 1))
    ⟨Nat.le_add_right _ _, by show 16 * mod + 15 < 64; omega, (by decide : 0x110 < 0x1000)⟩
  have kept := (onlyBits_perf (s.addSat (pgULNK l) ⟨0x110, 16 * mod + 15, 16 * mod⟩ 1) (pgULNK l) 0x104 1).2.fld
    (page := pgULNK l) (f := ⟨0x110, 16 * mod + 15, 16 * mod⟩) (by unfold pgULNK; omega) (by decide : 0x110 < 0x1000)
    fun i _ _ ⟨_, _, k, hk, off⟩ => by simp only at off; omega
  rw [State.bumpRetry, kept, State.addSat]
  simp only [width] at counted ⊢
  rw [counted, Nat.mod_eq_of_lt (by omega)]

theorem exec_flitRetry (s : State) (link : Fin 3) (mod : Fin 4) (up : s.linkUp link = true)
    (module : (s.fld (pgULNK link) Reg.ULNK_STAT_MODULES_UP).testBit mod = true) :
    exec (.flitRetry link mod) s = .next
      (let t := (s.bumpRetry link mod).noteRetry (4 * link.val + mod.val)
       let lim := s.fld (pgULNK link) Reg.ULNK_CFG_RETRY_LIMIT
       if lim ≠ 0 ∧ lim ≤ (s.recentRetries (4 * link.val + mod.val)).length then
         t.recordError (pgULNK link) Src.ulnk_RETRY_LIMIT false mod
       else t) := by
  have goes : ¬ (!s.linkUp link || decide (bitsOf (s.fld (pgULNK link) Reg.ULNK_STAT_MODULES_UP) mod mod = 0)) = true := by
    simp [up, bitsOf_self_eq_zero, module]
  have bumped := onlyBits_bumpRetry s link mod.isLt
  have limit : (s.bumpRetry link mod).fld (pgULNK link) Reg.ULNK_CFG_RETRY_LIMIT =
      s.fld (pgULNK link) Reg.ULNK_CFG_RETRY_LIMIT := by
    refine bumped.2.fld (by unfold pgULNK; omega) (by decide) fun i _ _ h => ?_
    rcases h with ⟨_, _, k, hk, off⟩ | ⟨_, off, _⟩
    · simp only [Reg.ULNK_CFG_RETRY_LIMIT] at off; omega
    · exact absurd off (by decide : (0x100 : Nat) ≠ 0x110)
  have recent : (s.bumpRetry link mod).recentRetries (4 * link.val + mod.val) =
      s.recentRetries (4 * link.val + mod.val) := by
    rw [bumped.1]; rfl
  let u := s.bumpRetry link mod
  have exceeded : (u.fld (pgULNK link) Reg.ULNK_CFG_RETRY_LIMIT != 0 && decide (u.fld (pgULNK link) Reg.ULNK_CFG_RETRY_LIMIT <
      (u.beat :: u.recentRetries (4 * link.val + mod.val)).length)) = true ↔
      s.fld (pgULNK link) Reg.ULNK_CFG_RETRY_LIMIT ≠ 0 ∧
        s.fld (pgULNK link) Reg.ULNK_CFG_RETRY_LIMIT ≤ (s.recentRetries (4 * link.val + mod.val)).length := by
    simp only [u, limit, recent, Bool.and_eq_true, bne_iff_ne, decide_eq_true_eq, List.length_cons, Nat.lt_succ_iff]
  exact congrArg Host.Outcome.next ((if_neg goes).trans (if_congr exceeded rfl rfl))

/-- What a retry changes: its counter and the list of its module's retries. -/
theorem noteRetry_bumpRetry_spec (s : State) {l mod : Nat} (hl : l < 3) (hm : mod < 4) :
    let m := 4 * l + mod
    let f : Fld := ⟨0x110, 16 * mod + 15, 16 * mod⟩
    let t := (s.bumpRetry l mod).noteRetry m
    t.fld (pgULNK l) f = min (s.fld (pgULNK l) f + 1) (2 ^ 16 - 1) ∧
      kget (fun _ => []) t.link.retries m = s.beat :: s.recentRetries m ∧
      (∀ n, n ≠ m → kget (fun _ => []) t.link.retries n = kget (fun _ => []) s.link.retries n) ∧
      RegFrame (retryBits l mod) s t ∧ t = { s with regs := t.regs, link := { s.link with retries := t.link.retries } } := by
  have bumped := onlyBits_bumpRetry s l hm
  have same : (s.bumpRetry l mod).beat :: (s.bumpRetry l mod).recentRetries (4 * l + mod) =
      s.beat :: s.recentRetries (4 * l + mod) := by rw [bumped.1]; rfl
  have link : (s.bumpRetry l mod).link = s.link := by rw [bumped.1]
  refine ⟨fld_bumpRetry s hl hm, ?_, fun n hn => ?_, bumped.2, ?_⟩
  · rw [State.retries_noteRetry, kget_kset_self, same]
  · rw [State.retries_noteRetry, kget_kset_ne _ hn, link]
  · rw [State.noteRetry, bumped.1]

/-- Settles O45: training, binding and retries, each by the lemma that says what its command leaves. -/
theorem linkGroup : Obligations.LinkGroup := by
  intro s link
  have hl := link.isLt
  have page : pgULNK link < 512 := by unfold pgULNK; omega
  refine ⟨fun trained unfenced booted whole => ?_, fun present cache mem held => ?_, fun mod up module => ?_⟩
  · have topFits : min (s.fld (pgULNK link) Reg.ULNK_CFG_MAX_RATE) (s.fld (pgULNK link) Reg.ULNK_STAT_FUSE_MAX) < 2 ^ 3 :=
      lt_of_le_of_lt (Nat.min_le_left _ _) (s.fld_lt (pgULNK link) Reg.ULNK_CFG_MAX_RATE)
    refine ⟨?_, fun f hf room lowers quiet => ?_⟩
    · obtain ⟨⟨lup, rdy, rate, mods, prate, pmods, ptrained, present, lock⟩, group, only⟩ :=
        bringUp_refreshGroup_spec s hl topFits unfenced
      exact ⟨_, exec_linkTrained_first s link trained unfenced booted whole,
        ⟨lup, rdy, rate, mods, prate, pmods, ptrained, present, lock, group⟩, only.1, only.2⟩
    · obtain ⟨ints, frame, recorded⟩ := recordError_effect s (src := Src.ulnk_RATE_FALLBACK) false 0 page (by decide) quiet
      have unfenced' : (s.error (pgULNK link) Src.ulnk_RATE_FALLBACK).bit (pgULNK link) Reg.ULNK_STAT_FENCED = false := by
        rw [← unfenced, State.bit, State.bit]
        exact congrArg (· == 1) (frame.fld_of_errBits page (by decide) (.inr (by decide)))
      obtain ⟨up, group, only⟩ := bringUp_refreshGroup_spec (s.error (pgULNK link) Src.ulnk_RATE_FALLBACK) hl
        (lt_of_le_of_lt (Nat.sub_le _ 1) topFits) unfenced'
      have glb : pgGLB ≠ pgULNK link ∧ pgCLK ≠ pgULNK link := by unfold pgULNK pgGLB pgCLK; omega
      obtain ⟨lup, rdy, rate, mods, prate, pmods, ptrained, present, lock⟩ := up.congr
        (frame.fld_of_errBits (by decide) (by decide) (.inl glb.1)) (frame.fld_of_errBits (by decide) (by decide) (.inl glb.2))
      refine ⟨_, exec_linkTrained_lowered s link hf trained unfenced booted whole room lowers (by rw [State.error, ints]),
        ⟨lup, rdy, rate, mods, prate, pmods, ptrained, present, lock, group⟩, recorded.of_frame only.2 page ?_⟩
      rintro (⟨h, _⟩ | ⟨_, h⟩ | ⟨h, _⟩ | ⟨h, _⟩)
      · exact absurd h (by decide)
      · exact absurd h (by decide)
      · exact glb.2 h.symm
      · exact glb.1 h.symm
  · obtain ⟨isBound, bound, only⟩ := glbLgrpBind_spec s hl
    exact ⟨_, exec_glbLgrpBind s link present cache mem held, isBound, bound, groupFollows_refreshGroup _, only.1, only.2⟩
  · obtain ⟨counter, first, others, frame, rest⟩ := noteRetry_bumpRetry_spec s hl mod.isLt
    have run := exec_flitRetry s link mod up module
    refine ⟨fun within => ?_, fun limited exceeded quiet => ?_⟩
    · rw [if_neg (fun h => within.elim h.1 fun lt => Nat.not_lt.2 h.2 lt)] at run
      exact ⟨_, ⟨run, counter, first, others⟩, frame, rest⟩
    · rw [if_pos ⟨limited, exceeded⟩] at run
      have apart : ∀ {p off i}, retryBits link mod p off i → p = pgULNK link ∧ 0x70 ≤ off ∧ off ≠ 0x100 := by
        rintro p off i (⟨rfl, _, k, hk, rfl⟩ | ⟨rfl, rfl, _⟩)
        · exact ⟨rfl, by omega, by omega⟩
        · exact ⟨rfl, Nat.le_of_ble_eq_true rfl, (by decide : (0x110 : Nat) ≠ 0x100)⟩
      obtain ⟨ints, frame', recorded⟩ := recordError_effect _ (src := Src.ulnk_RETRY_LIMIT) false mod page (by decide)
        (quiet.of_frame frame page (fun i h => absurd (apart h).2.1 (by decide)) (fun i h => absurd (apart h).2.1 (by decide))
          fun i h => absurd rfl (apart h).2.2)
      refine ⟨_, ⟨run, (frame'.fld_of_errBits page (by decide : 0x110 < 0x1000) (.inr
        (by decide : 0x110 ≠ 0x20 ∧ 0x110 ≠ 0x38 ∧ 0x110 ≠ 0x58))).trans
        counter, ?_, fun n hn => ?_⟩, recorded⟩
      · rw [ints]; exact first
      · rw [ints]; exact others n hn

end Sys2Proof.Machine

namespace Sys2Proof.Machine
open Sys2Proof

/-! ## Numbers put together from masked bits -/

/-- The bits of a sum of numbers that share none. -/
theorem testBit_add_disjoint (i : Nat) : ∀ {p q : Nat}, (∀ j, ¬ (p.testBit j = true ∧ q.testBit j = true)) →
    (p + q).testBit i = (p.testBit i || q.testBit i) := by
  induction i with
  | zero =>
    intro p q apart
    have := apart 0
    simp only [Nat.testBit_zero, decide_eq_true_eq] at this ⊢
    rw [← Bool.decide_or, decide_eq_decide]; omega
  | succ i ih =>
    intro p q apart
    have low := apart 0
    simp only [Nat.testBit_zero, decide_eq_true_eq] at low
    have half : (p + q) / 2 = p / 2 + q / 2 := by omega
    rw [Nat.testBit_add_one, Nat.testBit_add_one, Nat.testBit_add_one, half]
    exact ih fun j h => apart (j + 1) (by simpa only [Nat.testBit_add_one] using h)

/-- The bits of a number in which those of a mask are replaced. -/
theorem testBit_replace (x v m i : Nat) :
    (x - (x &&& m) + (v &&& m)).testBit i = if m.testBit i then v.testBit i else x.testBit i := by
  have rest : x - (x &&& m) = x.ldiff m := by
    have whole : x = x.ldiff m + (x &&& m) := by
      refine Nat.eq_of_testBit_eq fun j => ?_
      rw [testBit_add_disjoint _ fun k => by simp [Nat.testBit_ldiff]; tauto, Nat.testBit_ldiff, Nat.testBit_and]
      cases x.testBit j <;> cases m.testBit j <;> rfl
    omega
  rw [rest, testBit_add_disjoint _ fun k => by simp [Nat.testBit_ldiff]; tauto, Nat.testBit_ldiff, Nat.testBit_and]
  cases x.testBit i <;> cases m.testBit i <;> simp

/-- A number within a mask. -/
theorem and_eq_self_of_testBit {v m : Nat} (h : ∀ i, v.testBit i = true → m.testBit i = true) : v &&& m = v :=
  (and_eq_left_iff_testBit v m).2 h

/-! ## Registers of the common header (R41 to R46) -/

/-- The bits of the fields of the header's registers that satisfy a test. -/
def headerMask (p : FieldDef → Bool) (off : Nat) : Nat :=
  (headerFields.filter fun f => f.covers off).foldl (fun m f => if p f then m ||| bitMask f.hi f.lo else m) 0

theorem maskOf_header {page off : Nat} (block : (blockOf page).isSome = true) (header : off < 0x100) (p : FieldDef → Bool) :
    maskOf p page off = headerMask p off := by
  obtain ⟨b, hb⟩ := Option.isSome_iff_exists.1 block
  unfold maskOf headerMask fieldsAt
  simp only [hb, if_pos header]

/-- No register of the header has a range. -/
theorem rangeBad_header (s : State) {page off : Nat} (v : Nat) (header : off < 0x100) : s.rangeBad page off v = false := by
  have differs : ∀ n, 0x100 ≤ n → (off = n) = False := fun n hn => eq_false (by omega)
  have below : ∀ n, 0x100 ≤ n → (n ≤ off) = False := fun n hn => eq_false (by omega)
  unfold State.rangeBad
  split <;> simp [differs, below]

/-- No write of the header is one action as a whole. -/
theorem wholeAction_header (s : State) {page off : Nat} (v : Word) (header : off < 0x100) : s.wholeAction page off v = none := by
  have differs : ∀ n, 0x100 ≤ n → (off = n) = False := fun n hn => eq_false (by omega)
  have below : ∀ n, 0x100 ≤ n → (n ≤ off) = False := fun n hn => eq_false (by omega)
  unfold State.wholeAction
  split <;> simp [differs, below]

/-- A mask is empty where no field that covers the register satisfies the test. -/
theorem headerMask_eq_zero {p : FieldDef → Bool} {off : Nat} (h : ∀ f ∈ headerFields, f.covers off = true → p f = false) :
    headerMask p off = 0 := by
  unfold headerMask
  refine List.foldlRecOn _ _ (motive := fun m => m = 0) rfl fun m hm f hf => ?_
  obtain ⟨mem, covers⟩ := List.mem_filter.1 hf
  rw [hm, h f mem covers]
  rfl

theorem headerMask_shadow (off : Nat) : headerMask (fun f => f.cls == .shadow) off = 0 := by
  have none : ∀ f ∈ headerFields, (f.cls == .shadow) = false := by decide
  exact headerMask_eq_zero fun f hf _ => none f hf

theorem headerMask_static {off : Nat} (ctrl : off ≠ 8) : headerMask (fun f => f.cls == .static_ && f.acc == .rw) off = 0 := by
  have mode : ∀ f ∈ headerFields, f.cls == .static_ && f.acc == .rw → f.off = 8 ∧ f.stride = 8 ∧ f.count = 1 := by decide
  refine headerMask_eq_zero fun f hf covers => Bool.eq_false_iff.2 fun static => ?_
  obtain ⟨h1, h2, h3⟩ := mode f hf static
  simp only [FieldDef.covers, h1, h2, h3, Bool.and_eq_true, decide_eq_true_eq, beq_iff_eq] at covers
  omega

/-- The register with its fields written. -/
def State.stored (s : State) (page off v : Nat) : State :=
  s.wr page off (word (writtenValue page off (s.rd page off).toNat v))

/-- A write of the header that is not refused stores its fields and starts the header's actions. -/
theorem writeReg_header (s : State) (by_ : Writer) {page off : Nat} {v : Word} (block : (blockOf page).isSome = true)
    (powered : s.powered page = true) (header : off < 0x100) (aligned : off % 8 = 0)
    (free : s.writeCause page off v.toNat = none) :
    s.writeReg by_ page off 8 v = (s.stored page off v.toNat).headerActions page off v.toNat (s.enabled page) := by
  have missing : ¬ ((blockOf page).isNone || !s.powered page) = true := by
    rw [powered, ← Option.not_isSome, block]; decide
  have misplaced : ¬ ((8 : Nat) != 8 || off % 8 != 0) = true := by rw [aligned]; decide
  have power : ¬ (decide (page = pgPWR) && decide (off = 0x100)) = true := by simp; omega
  have fields : s.storeFields page off v.toNat = s.stored page off v.toNat := by
    simp only [State.storeFields, maskOf_header block header, headerMask_shadow, if_true]
    rfl
  rw [State.writeReg, if_neg missing, if_neg misplaced, if_neg power, free]
  simp only [State.applyWrite, wholeAction_header s v header, fields, if_pos header]

/-- A write of the header is refused for what is held, for bits that no field has, for a mode or for an armed cue. -/
theorem writeCause_header {s : State} {page off v : Nat} (header : off < 0x100) (held : s.planHeld page off v = false)
    (static : s.staticHeld page off v = false) (within : v &&& writable page off = v) (mode : modeBad page off v = false)
    (armed : s.armed page off v = false) : s.writeCause page off v = none := by
  simp [State.writeCause, held, static, within, mode, armed, rangeBad_header s v header]

/-- A register of the header other than BLK_CTRL refuses only bits that no field has. -/
theorem writeCause_header_ne {s : State} {page off v : Nat} (block : (blockOf page).isSome = true) (header : off < 0x100)
    (ctrl : off ≠ 8) (within : v &&& writable page off = v) : s.writeCause page off v = none := by
  have static : staticMask page off = 0 := by
    simp [staticMask, ctrl, maskOf_header block header, headerMask_static ctrl]
  refine writeCause_header header ?_ ?_ within ?_ ?_
  · simp [State.planHeld, ctrl]; omega
  · simp [State.staticHeld, static, ctrl]; omega
  · simp [modeBad, ctrl]
  · simp [State.armed, ctrl]

theorem getLsbD_word (n i : Nat) : (word n).getLsbD i = (decide (i < 64) && n.testBit i) := BitVec.getLsbD_ofNat ..

theorem testBit_toNat_rd (s : State) (page off i : Nat) : (s.rd page off).toNat.testBit i = (s.rd page off).getLsbD i := rfl

/-- The bits of a register without W1C fields after its fields are written. -/
theorem getLsbD_stored (s : State) {page off : Nat} (v : Nat) {set : Nat} (block : (blockOf page).isSome = true)
    (header : off < 0x100) (plain : off ≠ 0x10 ∧ off ≠ 0x38) (clear : headerMask (fun f => f.acc == .w1c) off = 0)
    (sets : (if off = 8 && alwaysOn page then headerMask (fun f => f.acc == .rw && f.cls != .shadow) off -
      (headerMask (fun f => f.acc == .rw && f.cls != .shadow) off &&& 1)
      else headerMask (fun f => f.acc == .rw && f.cls != .shadow) off) = set) (i : Nat) (hi : i < 64) :
    ((s.stored page off v).rd page off).getLsbD i = if set.testBit i then v.testBit i else (s.rd page off).getLsbD i := by
  have value : writtenValue page off (s.rd page off).toNat v =
      (s.rd page off).toNat - ((s.rd page off).toNat &&& set) + (v &&& set) := by
    simp [writtenValue, maskOf_header block header, clear, plain.1, plain.2, ← sets]
  rw [State.stored, State.rd_wr_self, getLsbD_word, value, testBit_replace, testBit_toNat_rd]
  simp [hi]

/-- Writing the fields of a register changes it alone. -/
theorem onlyBits_stored (s : State) (page : Nat) {off : Nat} (v : Nat) (header : off < 0x100) :
    OnlyBits (regBits page off) s (s.stored page off v) := onlyBits_wr _ _ _ _ (by omega)

/-! ## INT_EN -/

/-- A write of INT_EN is never refused and changes INT_EN alone. -/
theorem writeReg_intEn (s : State) (by_ : Writer) {page : Nat} (v : Word) (block : (blockOf page).isSome = true)
    (powered : s.powered page = true) :
    (s.writeReg by_ page 0x50 8 v).rd page 0x50 = v ∧
      OnlyBits (regBits page 0x50) s (s.writeReg by_ page 0x50 8 v) := by
  have full : writable page 0x50 = 2 ^ 64 - 1 := by
    exact maskOf_header block (off := 0x50) (by decide) _
  have within : v.toNat &&& writable page 0x50 = v.toNat := by
    rw [full, Nat.and_two_pow_sub_one_of_lt_two_pow v.isLt]
  have stores : s.writeReg by_ page 0x50 8 v = s.stored page 0x50 v.toNat := by
    rw [writeReg_header s by_ block powered (by decide) (by decide)
      (writeCause_header_ne block (by decide) (by decide) within)]
    rfl
  rw [stores]
  refine ⟨BitVec.eq_of_getLsbD_eq fun i hi => ?_, onlyBits_stored s page _ (by decide)⟩
  rw [getLsbD_stored s v.toNat block (by decide) (by decide) (by decide) (set := 2 ^ 64 - 1) rfl i hi]
  rw [Nat.testBit_two_pow_sub_one, if_pos (by simpa using hi)]
  rfl

/-! ## BLK_CTRL -/

/-- The bits of BLK_CTRL that a write stores: ENABLE, MODE, SHD_HOLD, CUE_ARM, CUE_SEL. -/
abbrev ctrlBit (i : Nat) : Prop := i = 0 ∨ i = 2 ∨ i = 3 ∨ i = 5 ∨ 8 ≤ i ∧ i ≤ 12

theorem testBit_eq_true_iff_of_lt {m k : Nat} {P : Nat → Prop} [DecidablePred P] (lt : m < 2 ^ k) (small : ∀ i, P i → i < k)
    (agree : ∀ i, i < k → (m.testBit i = true ↔ P i)) (i : Nat) : m.testBit i = true ↔ P i := by
  by_cases hi : i < k
  · exact agree i hi
  · have := Nat.testBit_lt_two_pow (lt_of_lt_of_le lt (Nat.pow_le_pow_right (by decide) (Nat.not_lt.1 hi)))
    simp only [this, Bool.false_eq_true, false_iff]
    exact fun h => hi (small i h)

theorem testBit_ctrlMask (i : Nat) : Nat.testBit 0x1F2D i = true ↔ ctrlBit i :=
  testBit_eq_true_iff_of_lt (m := 0x1F2D) (k := 13) (P := ctrlBit) (by decide) (fun i h => by omega) (by decide) i

theorem testBit_ctrlMask_always (i : Nat) : Nat.testBit 0x1F2C i = true ↔ ctrlBit i ∧ i ≠ 0 :=
  testBit_eq_true_iff_of_lt (m := 0x1F2C) (k := 13) (P := fun i => ctrlBit i ∧ i ≠ 0) (by decide) (fun i h => by omega)
    (by decide) i

theorem testBit_ctrlAll (i : Nat) : Nat.testBit 0x1F3F i = true ↔ i ≤ 5 ∨ 8 ≤ i ∧ i ≤ 12 :=
  testBit_eq_true_iff_of_lt (m := 0x1F3F) (k := 13) (P := fun i => i ≤ 5 ∨ 8 ≤ i ∧ i ≤ 12) (by decide) (fun i h => by omega)
    (by decide) i

/-- BLK_CTRL as it stands, bit by bit. -/
theorem testBit_ctrl (s : State) {page : Nat} (block : (blockOf page).isSome = true) (i : Nat) :
    (s.ctrl page).testBit i = true ↔ ctrlBit i ∧ (s.rd page 8).getLsbD i = true := by
  have mask : maskOf (fun f => f.acc == .rw) page 8 = 0x1F2D := maskOf_header block (off := 8) (by decide) _
  rw [State.ctrl, mask, Nat.testBit_and, Bool.and_eq_true, testBit_ctrlMask, testBit_toNat_rd]
  exact and_comm

theorem testBit_ctrl_of (s : State) {page : Nat} (block : (blockOf page).isSome = true) {i : Nat} (h : ctrlBit i) :
    (s.ctrl page).testBit i = (s.rd page 8).getLsbD i := by
  rw [Bool.eq_iff_iff, testBit_ctrl s block]; exact and_iff_right h

theorem testBit_ctrl_of_not (s : State) {page : Nat} (block : (blockOf page).isSome = true) {i : Nat} (h : ¬ ctrlBit i) :
    (s.ctrl page).testBit i = false := by
  rw [← Bool.not_eq_true, testBit_ctrl s block]; exact fun hi => h hi.1

theorem bitsOf_congr {x y hi lo : Nat} (h : ∀ i, lo ≤ i → i ≤ hi → x.testBit i = y.testBit i) :
    bitsOf x hi lo = bitsOf y hi lo := by
  refine Nat.eq_of_testBit_eq fun i => ?_
  rw [testBit_bitsOf, testBit_bitsOf]
  by_cases hi' : i < hi + 1 - lo
  · rw [h (lo + i) (by omega) (by omega)]
  · simp [hi']

/-- A write of BLK_CTRL that nothing refuses: no bit but those of its fields, MODE and an armed CUE_SEL as they are, and
what is disabled or reset is not held by a plan. -/
structure CtrlWrite (s : State) (page v : Nat) : Prop where
  within : ∀ i, v.testBit i = true → i ≤ 5 ∨ 8 ≤ i ∧ i ≤ 12
  mode : v.testBit 2 = (s.rd page 8).getLsbD 2
  modeOk : modeBad page 8 (s.ctrl page) = false
  sel : s.bit page Reg.BLK_CTRL_CUE_ARM = true → ∀ i, 8 ≤ i → i ≤ 12 → v.testBit i = (s.rd page 8).getLsbD i
  reset : v.testBit 1 = true → s.enabled page = false ∧ s.claimed page = false
  disable : s.enabled page = true → alwaysOn page = false → v.testBit 0 = false →
    (page = pgPLAN → ∀ p, p < 16 → s.slotState p = 0) ∧ s.claimed page = false

theorem CtrlWrite.not_refused {s : State} {page v : Nat} (h : CtrlWrite s page v) (block : (blockOf page).isSome = true) :
    s.writeCause page 8 v = none := by
  have all : writable page 8 = 0x1F3F := maskOf_header block (off := 8) (by decide) _
  refine writeCause_header (by decide) ?_ ?_ ?_ ?_ ?_
  · refine Bool.eq_false_iff.2 fun held => ?_
    simp only [State.planHeld, if_true, Bool.or_eq_true, Bool.and_eq_true, Bool.not_eq_true', decide_eq_true_eq,
      bitsOf_self_eq_zero, bitsOf_self_eq_one, List.any_eq_true, List.mem_range, bne_iff_ne] at held
    rcases held with ⟨⟨⟨⟨on, off⟩, clears⟩, plan⟩, p, hp, resident⟩ | ⟨⟨⟨on, off⟩, clears⟩ | resets, claimed⟩
    · exact resident ((h.disable on off clears).1 plan p hp)
    · exact Bool.false_ne_true ((h.disable on off clears).2.symm.trans claimed)
    · exact Bool.false_ne_true ((h.reset resets).2.symm.trans claimed)
  · have kept : v &&& staticMask page 8 = (s.rd page 8).toNat &&& staticMask page 8 := by
      have mask : staticMask page 8 = 0 ∨ staticMask page 8 = 2 ^ 2 := by
        unfold staticMask
        split
        · exact .inl rfl
        · exact .inr (maskOf_header block (off := 8) (by decide) _)
      rcases mask with mask | mask <;> rw [mask]
      · rw [Nat.and_zero, Nat.and_zero]
      · rw [Nat.and_two_pow, Nat.and_two_pow, h.mode]; rfl
    refine Bool.eq_false_iff.2 fun static => ?_
    simp only [State.staticHeld, kept, bne_self_eq_false, Bool.and_false, Bool.false_or, Bool.or_eq_true, Bool.and_eq_true,
      decide_eq_true_eq, bitsOf_self_eq_one] at static
    rcases static with (⟨⟨_, resets⟩, on⟩ | ⟨⟨_, off⟩, _⟩) | ⟨⟨⟨_, off⟩, _⟩, _⟩
    · exact Bool.false_ne_true ((h.reset resets).1.symm.trans on)
    · exact absurd off (by decide)
    · exact absurd off (by decide)
  · rw [all]
    exact and_eq_self_of_testBit fun i hi => (testBit_ctrlAll i).2 (h.within i hi)
  · have bits : bitsOf v 2 2 = bitsOf (s.ctrl page) 2 2 := bitsOf_congr fun i h1 h2 => by
      obtain rfl : i = 2 := by omega
      rw [h.mode, testBit_ctrl_of s block (.inr (.inl rfl))]
    rw [← h.modeOk, modeBad, modeBad, bits]
  · refine Bool.eq_false_iff.2 fun armed => ?_
    simp only [State.armed, Bool.and_eq_true, bne_iff_ne, decide_eq_true_eq] at armed
    obtain ⟨⟨_, arm⟩, differs⟩ := armed
    exact differs (bitsOf_congr fun i h1 h2 => h.sel arm i h1 h2)

/-- The bits of BLK_CTRL after its fields are written. -/
theorem getLsbD_storedCtrl (s : State) {page : Nat} (v : Nat) (block : (blockOf page).isSome = true) {i : Nat} (hi : i < 64) :
    ((s.stored page 8 v).rd page 8).getLsbD i =
      if ctrlBit i ∧ (i = 0 → alwaysOn page = false) then v.testBit i else (s.rd page 8).getLsbD i := by
  by_cases on : alwaysOn page = true
  · refine (getLsbD_stored s v block (by decide) (by decide) (by decide) (set := 0x1F2C) (by rw [on]; decide) i hi).trans
      (if_congr ((testBit_ctrlMask_always i).trans (and_congr_right fun _ => ?_)) rfl rfl)
    simp [on]
  · refine (getLsbD_stored s v block (by decide) (by decide) (by decide) (set := 0x1F2D)
      (by rw [Bool.eq_false_iff.2 on]; decide) i hi).trans (if_congr ((testBit_ctrlMask i).trans ?_) rfl rfl)
    simp [on]

/-- Writing the fields of BLK_CTRL changes those bits of it that are written otherwise than they are. -/
theorem onlyBits_storedCtrl (s : State) {page : Nat} {v : Nat} {p : BitSet} (block : (blockOf page).isSome = true)
    (same : ∀ i, ctrlBit i → (i = 0 → alwaysOn page = false) → ¬ p page 8 i → v.testBit i = (s.rd page 8).getLsbD i) :
    OnlyBits p s (s.stored page 8 v) := by
  refine ⟨rfl, fun a b i ha hb hn => ?_⟩
  by_cases key : a = page ∧ b = 8
  · obtain ⟨rfl, rfl⟩ := key
    by_cases hi : i < 64
    · rw [getLsbD_storedCtrl s v block hi]
      split
      case isTrue h => exact same i h.1 h.2 hn
      case isFalse => rfl
    · rw [BitVec.getLsbD_of_ge _ _ (by omega), BitVec.getLsbD_of_ge _ _ (by omega)]
  · exact (onlyBits_stored s page v (by decide)).2 a b i ha hb key

/-- A write of BLK_CTRL that nothing refuses stores its fields and takes its effect. -/
theorem writeReg_ctrl {s : State} {page v : Nat} (h : CtrlWrite s page v) (by_ : Writer) (block : (blockOf page).isSome = true)
    (powered : s.powered page = true) :
    s.writeReg by_ page 8 8 (word v) = (s.stored page 8 v).ctrlWritten page (s.enabled page) v := by
  have small : v < 2 ^ 64 := Nat.lt_pow_two_of_testBit v fun i hi => by
    by_contra bit
    have := h.within i (by simpa using bit)
    omega
  have same : (word v).toNat = v := by rw [word, BitVec.toNat_ofNat, Nat.mod_eq_of_lt small]
  rw [writeReg_header s by_ block powered (by decide) (by decide) (by rw [same]; exact h.not_refused block), same]
  rfl

end Sys2Proof.Machine

namespace Sys2Proof.Machine
open Sys2Proof

/-! ## Soft resets (R43, R458) -/

theorem krises_le {α : Type} {lo k : Nat} {m : KMap α} {v : α} (h : krises lo m = true) (hk : kfind m k = some v) : lo ≤ k := by
  induction m generalizing lo with
  | nil => simp [kfind] at hk
  | cons a m ih =>
    obtain ⟨j, w⟩ := a
    simp only [krises, Bool.and_eq_true, decide_eq_true_eq] at h
    by_cases e : k = j
    · omega
    · rw [kfind, if_neg e] at hk
      have := ih h.2 hk
      omega

/-- A map built key by key from another holds what was made of each value. -/
theorem kget_foldl_kset {α : Type} [DecidableEq α] (d : Nat → α) (g : Nat × α → α) (k : Nat) {l : KMap α} :
    ∀ {lo : Nat} {m : KMap α}, krises lo l = true →
      kget d (l.foldl (fun m p => kset d m p.1 (g p)) m) k = ((kfind l k).map fun v => g (k, v)).getD (kget d m k) := by
  induction l with
  | nil => intros; rfl
  | cons a l ih =>
    intro lo m h
    obtain ⟨j, w⟩ := a
    simp only [krises, Bool.and_eq_true, decide_eq_true_eq] at h
    rw [List.foldl_cons, ih h.2, kfind]
    by_cases e : k = j
    · subst e
      have absent : kfind l k = none := by
        cases hk : kfind l k with
        | none => rfl
        | some v => have := krises_le h.2 hk; omega
      rw [absent, if_pos rfl]
      exact kget_kset_self _ _ _
    · rw [if_neg e, kget_kset_ne _ e]

/-- A register after a reset that keeps the masked bits. -/
theorem getLsbD_keepBits {regs : KMap Word} (wf : kwf resetVal regs = true) (mask : Nat → Nat → Nat) {page off : Nat}
    (ho : off < 0x1000) (i : Nat) :
    (kget resetVal (keepBits regs mask) (regKey page off)).getLsbD i =
      if (mask page off).testBit i then (kget resetVal regs (regKey page off)).getLsbD i
      else (resetVal (regKey page off)).getLsbD i := by
  have rises := (Bool.and_eq_true_iff.1 wf).1
  have page_eq : regKey page off / 0x1000 = page := by unfold regKey; omega
  have off_eq : regKey page off % 0x1000 = off := by unfold regKey; omega
  rw [keepBits, kget_foldl_kset resetVal (fun p => word ((resetVal p.1).toNat -
    ((resetVal p.1).toNat &&& mask (p.1 / 0x1000) (p.1 % 0x1000)) + (p.2.toNat &&& mask (p.1 / 0x1000) (p.1 % 0x1000))))
    _ rises]
  unfold kget
  cases kfind regs (regKey page off) with
  | none => simp [kfind]
  | some v =>
    simp only [Option.map_some, Option.getD_some, page_eq, off_eq, getLsbD_word, testBit_replace]
    by_cases hi : i < 64
    · simp only [hi, decide_true, Bool.true_and]; rfl
    · rw [BitVec.getLsbD_of_ge _ _ (by omega), BitVec.getLsbD_of_ge _ _ (by omega)]; simp [hi]

/-- What discarding the state of a block leaves. -/
theorem discard_keeps (s : State) (page : Nat) (idle : blockOf page = some .plan → s.admission = none) :
    (s.discard page).regs = s.regs ∧ (s.discard page).mem = s.mem ∧ (s.discard page).slots = s.slots ∧
      (s.discard page).out = s.out := by
  by_cases plan : blockOf page = some .plan
  · have ended : s.endAdmission 36 = s := by unfold State.endAdmission; rw [idle plan]
    simp only [State.discard, plan, ended, and_self]
  · unfold State.discard
    split
    case h_5 h => exact absurd h plan
    all_goals exact ⟨rfl, rfl, rfl, rfl⟩

/-- The registers of a set of pages are reset but for the bits that a soft reset keeps; others stay, but for some bits. -/
def SoftlyReset (which : Nat → Prop) (s t : State) (kept : BitSet) : Prop :=
  t.mem = s.mem ∧ t.slots = s.slots ∧ t.out = s.out ∧
    ∀ page off i, page < 512 → off < 0x1000 → ¬ kept page off i →
      (which page → (softMask page off).testBit i = false → (t.rd page off).getLsbD i = (resetVal (regKey page off)).getLsbD i) ∧
      (¬ which page ∨ (softMask page off).testBit i = true → (t.rd page off).getLsbD i = (s.rd page off).getLsbD i)

theorem State.regs_softReset (s : State) (page : Nat) : (s.softReset page).regs =
    keepBits (s.discard page).regs fun p off => if p = page then softMask p off else 2 ^ 64 - 1 := rfl

/-- A register after a soft reset. -/
theorem getLsbD_softReset {s : State} (wf : kwf resetVal s.regs = true) (page : Nat)
    (idle : blockOf page = some .plan → s.admission = none) (p : Nat) {off : Nat} (ho : off < 0x1000) (i : Nat) :
    ((s.softReset page).rd p off).getLsbD i = if p = page ∧ (softMask p off).testBit i = false then
      (resetVal (regKey p off)).getLsbD i else (s.rd p off).getLsbD i := by
  have reset := getLsbD_keepBits wf (fun p off => if p = page then softMask p off else 2 ^ 64 - 1) (page := p) ho i
  rw [State.rd, State.regs_softReset, (discard_keeps s page idle).1, reset]
  by_cases hp : p = page
  · cases bit : (softMask p off).testBit i <;> simp only [hp, if_true] at bit ⊢ <;> simp [bit, State.rd]
  · simp only [hp, if_false, false_and, Nat.testBit_two_pow_sub_one, decide_eq_true_eq]
    split
    case isTrue => rfl
    case isFalse hi => rw [BitVec.getLsbD_of_ge _ _ (by omega), BitVec.getLsbD_of_ge _ _ (by omega)]

theorem kwf_softReset (s : State) (page : Nat) : kwf resetVal (s.softReset page).regs = true := by
  rw [State.regs_softReset]; exact keep_Bits_wf _ _

/-- A soft reset of a page resets that page. -/
theorem softlyReset_softReset {s : State} (wf : kwf resetVal s.regs = true) (page : Nat)
    (idle : blockOf page = some .plan → s.admission = none) :
    SoftlyReset (fun p => p = page) s (s.softReset page) noBits := by
  obtain ⟨_, mem, slots, out⟩ := discard_keeps s page idle
  refine ⟨mem, slots, out, fun p off i _ ho _ => ⟨fun h bit => ?_, fun h => ?_⟩⟩
  · rw [getLsbD_softReset wf page idle p ho, if_pos ⟨h, bit⟩]
  · rw [getLsbD_softReset wf page idle p ho, if_neg]
    rintro ⟨hp, bit⟩
    rcases h with h | h
    · exact h hp
    · rw [h] at bit; exact Bool.false_ne_true bit.symm

/-- Soft resets of several pages reset those pages. -/
theorem softlyReset_foldl (pages : List Nat) : ∀ {s : State}, kwf resetVal s.regs = true →
    (∀ p ∈ pages, blockOf p ≠ some .plan) → SoftlyReset (fun p => p ∈ pages) s (pages.foldl State.softReset s) noBits := by
  induction pages with
  | nil => exact fun _ _ => ⟨rfl, rfl, rfl, fun _ _ _ _ _ _ => ⟨fun h => absurd h (List.not_mem_nil), fun _ => rfl⟩⟩
  | cons page pages ih =>
    intro s wf noPlan
    have first := softlyReset_softReset wf page fun h => absurd h (noPlan page List.mem_cons_self)
    have rest := ih (kwf_softReset s page) fun p hp => noPlan p (List.mem_cons_of_mem _ hp)
    obtain ⟨mem, slots, out, bits⟩ := first
    obtain ⟨mem', slots', out', bits'⟩ := rest
    refine ⟨mem'.trans mem, slots'.trans slots, out'.trans out, fun p off i hp ho _ => ⟨fun h bit => ?_, fun h => ?_⟩⟩
    · by_cases later : p ∈ pages
      · exact (bits' p off i hp ho id).1 later bit
      · rw [List.foldl_cons, (bits' p off i hp ho id).2 (.inl later)]
        exact (bits p off i hp ho id).1 ((List.mem_cons.1 h).resolve_right later) bit
    · rw [List.foldl_cons, (bits' p off i hp ho id).2 (h.imp_left fun h => fun m => h (List.mem_cons_of_mem _ m))]
      exact (bits p off i hp ho id).2 (h.imp_left fun h => fun m => h (List.mem_cons.2 (.inl m)))

/-- A one-bit field is its bit of the register. -/
theorem State.bit_eq_getLsbD (s : State) (page : Nat) {f : Fld} (one : f.hi = f.lo) :
    s.bit page f = (s.rd page f.off).getLsbD f.lo := by
  have h := s.testBit_fld page f 0
  have lt := s.fld_lt page f
  simp only [one, Nat.add_sub_cancel_left, pow_one] at lt
  simp only [one, Nat.add_sub_cancel_left, Nat.zero_lt_one, decide_true, Bool.true_and, Nat.add_zero] at h
  rw [State.bit, ← h, Nat.testBit_zero, beq_eq_decide]
  exact decide_eq_decide.2 (by omega)

theorem State.enabled_eq_getLsbD (s : State) (page : Nat) : s.enabled page = (s.rd page 8).getLsbD 0 :=
  s.bit_eq_getLsbD page rfl

/-- A write of BLK_CTRL with SRESET resets the page; a command ring page that was reset is disabled. -/
theorem ctrlWritten_sreset {t : State} (wf : kwf resetVal t.regs = true) (page : Nat) {v : Nat}
    (idle : blockOf page = some .plan → t.admission = none) (sreset : v.testBit 1 = true) (noApply : v.testBit 4 = false) :
    t.ctrlWritten page false v = t.softReset page := by
  have apply : ¬ bitsOf v 4 4 = 1 := by rw [bitsOf_self_eq_one, noApply]; decide
  have off : ¬ (decide (page = pgCMDQ) && !false && (t.softReset page).enabled page) = true := by
    by_cases h : page = pgCMDQ
    · subst h
      have reset := getLsbD_softReset wf pgCMDQ idle pgCMDQ (off := 8) (by decide) 0
      rw [State.enabled_eq_getLsbD, reset, if_pos (by decide)]
      decide
    · simp [h]
  simp only [State.ctrlWritten, Bool.false_and, Bool.false_eq_true, if_false, apply, decide_false, (bitsOf_self_eq_one v 1).2 sreset,
    if_true]
  rw [if_neg off]

/-- BLK_CTRL as it stands with SRESET set. -/
theorem testBit_ctrl_or_sreset (s : State) (page i : Nat) :
    (s.ctrl page ||| 2).testBit i = ((s.ctrl page).testBit i || decide (1 = i)) := by
  rw [Nat.testBit_or, show (2 : Nat) = 2 ^ 1 from rfl, Nat.testBit_two_pow]

theorem exec_sreset {s : State} (wf : kwf resetVal s.regs = true) (page : Fin 512) (block : (blockOf page).isSome = true)
    (powered : s.powered page = true) (off : s.enabled page = false) (free : s.claimed page = false)
    (modeOk : modeBad page 8 (s.ctrl page) = false) (idle : s.admission = none) :
    exec (.sreset page) s = .next ((s.stored page 8 (s.ctrl page ||| 2)).softReset page) := by
  have bits := testBit_ctrl_or_sreset s page
  have write : CtrlWrite s page (s.ctrl page ||| 2) := by
    refine ⟨fun i h => ?_, ?_, modeOk, fun _ i h1 h2 => ?_, fun _ => ⟨off, free⟩, fun on => absurd on (by simp [off])⟩
    · rw [bits, Bool.or_eq_true, testBit_ctrl s block, decide_eq_true_eq] at h
      unfold ctrlBit at h; omega
    · rw [bits, testBit_ctrl_of s block (.inr (.inl rfl))]; simp
    · rw [bits, testBit_ctrl_of s block (by unfold ctrlBit; omega), decide_eq_false (by omega), Bool.or_false]
  have sets : (s.ctrl page ||| 2).testBit 1 = true := by rw [bits]; simp
  have keeps : (s.ctrl page ||| 2).testBit 4 = false := by rw [bits, testBit_ctrl_of_not s block (by decide)]; decide
  refine congrArg Host.Outcome.next ?_
  rw [writeReg_ctrl write .host block powered, off]
  exact ctrlWritten_sreset (kwf_kset wf _ _) page (fun _ => idle) sets keeps

theorem mem_domainPages {p d : Nat} : p ∈ domainPages d ↔ p < 512 ∧ domainOf p = some d := by
  simp [domainPages]

theorem exec_rstDomainGo (s : State) (d : BitVec 5) (free : ∀ p ∈ domainPages d.toNat, s.claimed p = false)
    (domain : d.toNat < 16 ∨ d.toNat = 17) (on : s.domState d.toNat = 0) :
    exec (.rstDomainGo d) s =
      .next ((domainPages d.toNat).foldl State.softReset (s.setFld pgRST Reg.RST_DOMAIN_DOMAIN d.toNat)) := by
  have unclaimed : ¬ (domainPages d.toNat).any s.claimed = true := by
    rw [List.any_eq_true]; rintro ⟨p, hp, h⟩; rw [free p hp] at h; exact Bool.false_ne_true h
  have ok : ¬ (!(decide (d.toNat < 16) || decide (d.toNat = 17)) || s.domState d.toNat != 0) = true := by
    rw [on]; rcases domain with h | h <;> simp [h]
  exact congrArg Host.Outcome.next ((if_neg unclaimed).trans (if_neg ok))

/-- Settles O50: a write of SRESET and RST_DOMAIN_GO end in soft resets of pages; SRESET_DONE sets READY. -/
theorem softResets : Obligations.SoftResets := by
  intro s wf
  refine ⟨fun page block powered off free modeOk idle => ?_, fun d free domain on => ?_, fun page block powered counts trained => ?_⟩
  · refine ⟨_, exec_sreset wf page block powered off free modeOk idle, ?_⟩
    obtain ⟨mem, slots, out, bits⟩ := softlyReset_softReset (s := s.stored page 8 (s.ctrl page ||| 2)) (kwf_kset wf _ _) page
      fun _ => idle
    have same := (onlyBits_storedCtrl s (v := s.ctrl page ||| 2) (p := noBits) block fun i hi _ _ => by
      rw [testBit_ctrl_or_sreset, testBit_ctrl_of s block hi, decide_eq_false (by unfold ctrlBit at hi; omega), Bool.or_false]).2
    exact ⟨mem, slots, out, fun p o i hp ho hn =>
      ⟨(bits p o i hp ho hn).1, fun h => ((bits p o i hp ho hn).2 h).trans (same p o i hp ho id)⟩⟩
  · refine ⟨_, exec_rstDomainGo s d free domain on, ?_⟩
    have named := onlyBits_setFld s pgRST Reg.RST_DOMAIN_DOMAIN d.toNat ⟨by decide, by decide, by decide⟩
    obtain ⟨mem, slots, out, bits⟩ := softlyReset_foldl (domainPages d.toNat)
      (s := s.setFld pgRST Reg.RST_DOMAIN_DOMAIN d.toNat) (kwf_kset wf _ _) fun p hp plan => by
        have inDomain := (mem_domainPages.1 hp).2
        simp [domainOf, plan] at inDomain
    refine ⟨?_, mem, slots, out, fun p o i hp ho hn => ⟨fun h => (bits p o i hp ho id).1 (mem_domainPages.2 ⟨hp, h⟩), fun h =>
      ((bits p o i hp ho id).2 (h.imp_left fun h m => h (mem_domainPages.1 m).2)).trans (named.2 p o i hp ho hn)⟩⟩
    refine (State.fld_eq_of_bits fun i _ _ => (bits pgRST _ i (by decide) (by decide) id).2 (.inl fun m => ?_)).trans
      (State.fld_setFld_fits _ _ ⟨by decide, by decide, by decide⟩ d.isLt)
    exact absurd (mem_domainPages.1 m).2 (by rw [show domainOf pgRST = none from by decide]; exact nofun)
  · have goes : ((match blockOf page with
        | some .hmc | some .hphy => s.bit (pgHPHY (instanceOf page)) Reg.HPHY_STAT_TRAINED
        | some .ulnk => s.bit page Reg.ULNK_STAT_TRAINED
        | some _ => true
        | none => false) && s.powered page && s.beatOn) = true := by
      obtain ⟨b, hb⟩ := Option.isSome_iff_exists.1 block
      obtain ⟨phy, link⟩ := trained b hb
      rw [hb, powered, counts, Bool.and_true, Bool.and_true]
      split
      case h_1 h => exact phy (.inl (Option.some.inj h))
      case h_2 h => exact phy (.inr (Option.some.inj h))
      case h_3 h => exact link (Option.some.inj h)
      case h_4 => rfl
      case h_5 h => exact nomatch h
    exact ⟨_, congrArg Host.Outcome.next (if_pos goes), State.bit_setBit_self _ _ _ _ ⟨by decide, by decide, by decide⟩ rfl,
      onlyBits_setBit _ _ _ _ ⟨by decide, by decide, by decide⟩⟩

end Sys2Proof.Machine

namespace Sys2Proof.Machine
open Sys2Proof

/-! ## Refused writes (R33) -/

theorem State.fld_setFld_bits (s : State) (page : Nat) {f f' : Fld} (v : Nat) (apart : f'.hi < f.lo ∨ f.hi < f'.lo)
    (ok : f.lo ≤ f.hi ∧ f.hi < 64 ∧ f.off < 0x1000) (ok' : f'.off < 0x1000) :
    (s.setFld page f v).fld page f' = s.fld page f' := s.fld_setFld_ne v (.inr (.inr apart)) ok ok'

theorem State.fld_setFld_off (s : State) (page : Nat) {f f' : Fld} (v : Nat) (apart : f'.off ≠ f.off)
    (ok : f.lo ≤ f.hi ∧ f.hi < 64 ∧ f.off < 0x1000) (ok' : f'.off < 0x1000) :
    (s.setFld page f v).fld page f' = s.fld page f' := s.fld_setFld_ne v (.inr (.inl apart)) ok ok'

/-- What a refused write changes: counters, and the reject fields with their interrupt. -/
def rejectBits (page : Nat) : BitSet := fun p o i => perfBits page p o i ∨ p = page ∧ (o = 0x10 ∨ o = 0x58 ∧ i = 1)

/-- The reject fields take the cause and the offset. -/
def State.noteReject (s : State) (page off cause : Nat) : State :=
  ((s.setBit page Reg.BLK_STAT_CFG_REJECT true).setFld page Reg.BLK_STAT_REJ_CAUSE cause).setFld page Reg.BLK_STAT_REJ_OFFSET off

theorem State.reject_first {s : State} {page : Nat} (off cause : Nat) (hp : page < 512)
    (first : s.bit page Reg.BLK_STAT_CFG_REJECT = false) :
    s.reject page off cause = ((s.perf page 3 1).noteReject page off cause).raise page 1 := by
  have kept : (s.perf page 3 1).bit page Reg.BLK_STAT_CFG_REJECT = false := by
    rw [← first, State.bit, State.bit]
    refine congrArg (· == 1) ((onlyBits_perf s page 3 1).2.fld hp (by decide) fun i _ _ ⟨_, _, k, _, h⟩ => ?_)
    simp only [Reg.BLK_STAT_CFG_REJECT] at h; omega
  unfold State.reject
  simp only [kept, Bool.false_eq_true, if_false]
  rfl

theorem onlyBits_noteReject (s : State) (page off cause : Nat) :
    OnlyBits (regBits page 0x10) s (s.noteReject page off cause) :=
  (((OnlyBits.start _ s).setBit (f := Reg.BLK_STAT_CFG_REJECT) true (by decide) fun _ _ _ => ⟨rfl, rfl⟩).setFld
    (f := Reg.BLK_STAT_REJ_CAUSE) cause (by decide) fun _ _ _ => ⟨rfl, rfl⟩).setFld (f := Reg.BLK_STAT_REJ_OFFSET) off
    (by decide) fun _ _ _ => ⟨rfl, rfl⟩

/-- The first refused write is recorded on its page. -/
theorem reject_effect {s : State} {page off cause : Nat} (hp : page < 512) (hoff : off < 2 ^ 12) (hcause : cause < 2 ^ 4)
    (first : s.bit page Reg.BLK_STAT_CFG_REJECT = false) :
    let t := s.reject page off cause
    t.bit page Reg.BLK_STAT_CFG_REJECT = true ∧ t.fld page Reg.BLK_STAT_REJ_CAUSE = cause ∧
      t.fld page Reg.BLK_STAT_REJ_OFFSET = off ∧ (t.rd page 0x58).getLsbD 1 = true ∧ IntsOnly s t ∧
      RegFrame (rejectBits page) s t := by
  rw [State.reject_first off cause hp first]
  have raised := regFrame_raise ((s.perf page 3 1).noteReject page off cause) page (b := 1) (by decide)
  have stays : ∀ {f : Fld}, f.off = 0x10 → (((s.perf page 3 1).noteReject page off cause).raise page 1).fld page f =
      ((s.perf page 3 1).noteReject page off cause).fld page f := fun hf =>
    raised.fld hp (by omega) fun i _ _ ⟨_, h, _⟩ => by omega
  refine ⟨?_, ?_, ?_, State.raise_sets _ _ (by decide), ?_, ?_⟩
  · rw [State.bit, stays rfl]
    simp (disch := decide) only [State.noteReject, State.setBit, State.fld_setFld_bits, State.fld_setFld_same]
    rfl
  · rw [stays rfl]
    simp (disch := decide) only [State.noteReject, State.setBit, State.fld_setFld_bits, State.fld_setFld_same]
    exact Nat.mod_eq_of_lt hcause
  · rw [stays rfl]
    exact State.fld_setFld_fits _ _ ⟨by decide, by decide, by decide⟩ hoff
  · exact ((onlyBits_perf _ _ _ _).1.trans (onlyBits_noteReject _ _ _ _).1).intsOnly.trans (intsOnly_raise _ _ _)
  · refine (((onlyBits_perf s page 3 1).2.trans (onlyBits_noteReject _ page off cause).2).trans raised).mono ?_
    rintro p o i ((h | ⟨rfl, rfl⟩) | ⟨rfl, rfl, rfl⟩)
    · exact .inl h
    · exact .inr ⟨rfl, .inl rfl⟩
    · exact .inr ⟨rfl, .inr ⟨rfl, rfl⟩⟩

/-! ## Who may write (R390, R474, R379) -/

/-- The writer reaches the page. -/
def Reaches (s : State) (by_ : Writer) (port : Fin 3) (page : Fin 512) : Prop :=
  by_ = .host ∧ s.primary = some port.val ∨ by_ = .henair ∨ by_ = .dbg ∨
    by_ = .pmc ∧ s.enabled pgI3C = true ∧ pmcPage page = true ∨ by_ = .sideband ∧ page.val = pgSBND

theorem exec_regWrite {s : State} {by_ : Writer} {port : Fin 3} {page : Fin 512} (h : Reaches s by_ port page) (off : Fin 4096)
    (bytes : Nat) (v : Word) : exec (.regWrite by_ port page off bytes v) s = .next (s.writeReg by_ page off bytes v) := by
  rcases h with ⟨rfl, h⟩ | rfl | rfl | ⟨rfl, on, h⟩ | ⟨rfl, h⟩
  · exact congrArg Host.Outcome.next (if_pos h)
  · rfl
  · rfl
  · exact congrArg Host.Outcome.next ((if_neg (by rw [on]; decide)).trans (if_pos h))
  · exact congrArg Host.Outcome.next (if_pos h)

/-- A write of another size or alignment, or one that a cause refuses, is rejected with that cause. -/
theorem writeReg_rejected {s : State} (by_ : Writer) {page off bytes cause : Nat} {v : Word}
    (block : (blockOf page).isSome = true) (powered : s.powered page = true)
    (refused : (bytes ≠ 8 ∨ off % 8 ≠ 0) ∧ cause = 3 ∨ bytes = 8 ∧ off % 8 = 0 ∧ ¬ (page = pgPWR ∧ off = 0x100) ∧
      ¬ (page = pgFUSE ∧ off = 0x108) ∧ s.writeCause page off v.toNat = some cause) :
    s.writeReg by_ page off bytes v = s.reject page off cause := by
  have present : ¬ ((blockOf page).isNone || !s.powered page) = true := by
    rw [powered, ← Option.not_isSome, block]; decide
  rw [State.writeReg, if_neg present]
  rcases refused with ⟨h, rfl⟩ | ⟨rfl, aligned, power, fuse, refused⟩
  · rw [if_pos (by simpa using h)]
  · have fuse' : ¬ (decide (page = pgFUSE) && decide (off = 0x108) && decide (bitsOf v.toNat 16 16 = 1)) = true := by
      simp only [Bool.and_eq_true, decide_eq_true_eq]; exact fun h => fuse h.1
    rw [if_neg (by simp [aligned]), if_neg (by simpa using power), refused]
    simp only [State.refuseWrite]
    rw [if_neg fuse']

/-! ## Staged values (R36, R37) -/

/-- Keys that are not written keep their values. -/
theorem kget_foldl_kset_ne {α : Type} [DecidableEq α] {d : Nat → α} {k : Nat} {l : KMap α} (h : k ∉ l.map Prod.fst) :
    ∀ m, kget d (l.foldl (fun m p => kset d m p.1 p.2) m) k = kget d m k := by
  induction l with
  | nil => exact fun _ => rfl
  | cons a l ih =>
    simp only [List.map_cons, List.mem_cons, not_or] at h
    exact fun m => (ih h.2 _).trans (kget_kset_ne _ h.1 _)

/-- A key that is written once holds what was written. -/
theorem kget_foldl_kset_mem {α : Type} [DecidableEq α] {d : Nat → α} {k : Nat} {v : α} {l : KMap α}
    (once : (l.map Prod.fst).Nodup) (h : (k, v) ∈ l) : ∀ m, kget d (l.foldl (fun m p => kset d m p.1 p.2) m) k = v := by
  induction l with
  | nil => exact absurd h List.not_mem_nil
  | cons a l ih =>
    obtain ⟨apart, once⟩ := List.nodup_cons.1 once
    intro m
    rcases List.mem_cons.1 h with rfl | h
    · exact (kget_foldl_kset_ne apart _).trans (kget_kset_self _ _ _)
    · exact ih once h _

/-- The staged values of a page become its active ones. -/
def State.mergeStaged (s : State) (page : Nat) : State :=
  { s with regs := (s.staged.filter fun p => p.1 / 0x1000 == page).foldl (fun m p => kset resetVal m p.1 p.2) s.regs
           staged := s.staged.filter fun p => p.1 / 0x1000 != page }

/-- GEN and APPLY_BEAT tell that staged values were applied. -/
def State.noteApply (s : State) (page : Nat) : State :=
  (s.addWrap page Reg.BLK_GEN_GEN 1).setFld page Reg.BLK_GEN_APPLY_BEAT s.beat

theorem State.applyStaged_pending {s : State} {page : Nat} (h : s.shdPend page = true) :
    s.applyStaged page = ((s.mergeStaged page).noteApply page).raise page 2 := if_pos h

theorem State.applyStaged_none {s : State} {page : Nat} (h : s.shdPend page = false) : s.applyStaged page = s :=
  if_neg (by rw [h]; decide)

theorem onlyBits_noteApply (s : State) (page : Nat) : OnlyBits (regBits page 0x18) s (s.noteApply page) :=
  ((OnlyBits.start _ s).setFld (f := Reg.BLK_GEN_GEN) _ (by decide) fun _ _ _ => ⟨rfl, rfl⟩).setFld
    (f := Reg.BLK_GEN_APPLY_BEAT) _ (by decide) fun _ _ _ => ⟨rfl, rfl⟩

/-- A register that has no staged value is not changed by merging. -/
theorem State.rd_mergeStaged {s : State} {page p off : Nat} (h : regKey p off ∉ s.staged.map Prod.fst) :
    (s.mergeStaged page).rd p off = s.rd p off :=
  kget_foldl_kset_ne (fun m => h (by
    obtain ⟨x, hx, e⟩ := List.mem_map.1 m
    exact List.mem_map.2 ⟨x, List.mem_of_mem_filter hx, e⟩)) _

theorem State.shdPend_mergeStaged (s : State) (page : Nat) : (s.mergeStaged page).shdPend page = false := by
  simp [State.shdPend, State.mergeStaged]

/-- What applying staged values brings about (R36). -/
theorem applyStaged_effect {s : State} {page : Nat} (hp : page < 512) (pend : s.shdPend page = true)
    (once : (s.staged.map Prod.fst).Nodup) (own : ∀ k v, (k, v) ∈ s.staged → 0x100 ≤ k % 0x1000) :
    let t := s.applyStaged page
    t.shdPend page = false ∧ t.fld page Reg.BLK_GEN_GEN = (s.fld page Reg.BLK_GEN_GEN + 1) % 2 ^ 32 ∧
      t.fld page Reg.BLK_GEN_APPLY_BEAT = s.beat % 2 ^ 32 ∧ (t.rd page 0x58).getLsbD 2 = true ∧
      t.staged = s.staged.filter (fun p => p.1 / 0x1000 != page) ∧
      (∀ k v, (k, v) ∈ s.staged → k / 0x1000 = page → t.rd page (k % 0x1000) = v) := by
  rw [State.applyStaged_pending pend]
  have raised := regFrame_raise ((s.mergeStaged page).noteApply page) page (b := 2) (by decide)
  have noted := onlyBits_noteApply (s.mergeStaged page) page
  have staged : (((s.mergeStaged page).noteApply page).raise page 2).staged = (s.mergeStaged page).staged := by
    rw [intsOnly_raise ((s.mergeStaged page).noteApply page) page 2, noted.1]
  have stays : ∀ {f : Fld}, f.off = 0x18 → (((s.mergeStaged page).noteApply page).raise page 2).fld page f =
      ((s.mergeStaged page).noteApply page).fld page f := fun hf => raised.fld hp (by omega) fun i _ _ ⟨_, h, _⟩ => by omega
  have gen : (s.mergeStaged page).fld page Reg.BLK_GEN_GEN = s.fld page Reg.BLK_GEN_GEN := by
    have absent : regKey page 0x18 ∉ s.staged.map Prod.fst := fun m => by
      obtain ⟨⟨k, v⟩, hx, rfl⟩ := List.mem_map.1 m
      have := own _ _ hx
      unfold regKey at this; omega
    exact congrArg (fun w : Word => bitsOf w.toNat 31 0) (State.rd_mergeStaged absent)
  refine ⟨?_, ?_, ?_, State.raise_sets _ _ (by decide), staged, fun k v hk own_page => ?_⟩
  · rw [State.shdPend, staged]; exact s.shdPend_mergeStaged page
  · rw [stays rfl, State.noteApply, State.fld_setFld_bits _ _ _ (by decide) (by decide) (by decide), State.addWrap,
      State.fld_setFld_same _ _ _ (by decide), gen]
    rfl
  · rw [stays rfl, State.noteApply, State.fld_setFld_same _ _ _ (by decide)]
    rfl
  · have far := own k v hk
    have key : regKey page (k % 0x1000) = k := by unfold regKey; omega
    have merged : (s.mergeStaged page).rd page (k % 0x1000) = v := by
      rw [State.rd, key]
      exact kget_foldl_kset_mem ((List.filter_sublist.map _).nodup once)
        (List.mem_filter.2 ⟨hk, by simpa using own_page⟩) _
    refine (BitVec.eq_of_getLsbD_eq fun i _ => ?_).trans merged
    have lt : k % 0x1000 < 0x1000 := Nat.mod_lt _ (by decide)
    rw [raised page _ i hp lt (fun ⟨_, h, _⟩ => by omega), noted.2 page _ i hp lt (fun ⟨_, h⟩ => by omega)]

end Sys2Proof.Machine

namespace Sys2Proof.Machine
open Sys2Proof

/-! ## A staged field: DEC_CFG.QUANTUM (R36) -/

theorem blockOf_pgDEC (dec : Fin 32) : blockOf (pgDEC dec) = some .dec := by
  have all : ∀ dec : Fin 32, blockOf (pgDEC dec) = some .dec := by decide
  exact all dec

/-- DEC_CFG has one field, the staged QUANTUM. -/
theorem maskOf_decCfg (dec : Fin 32) (p : FieldDef → Bool) :
    maskOf p (pgDEC dec) 0x100 = if p ⟨0x100, 0x8, 1, 7, 0, .rw, .shadow, 8⟩ then 255 else 0 := by
  have fields : fieldsAt (pgDEC dec) 0x100 = [⟨0x100, 0x8, 1, 7, 0, .rw, .shadow, 8⟩] := by
    have all : ∀ dec : Fin 32, fieldsAt (pgDEC dec) 0x100 = [⟨0x100, 0x8, 1, 7, 0, .rw, .shadow, 8⟩] := by decide
    exact all dec
  rw [maskOf, fields]
  rfl

theorem writeCause_decCfg (s : State) (dec : Fin 32) {v : Nat} (hv : v < 2 ^ 8) (pos : v ≠ 0) :
    s.writeCause (pgDEC dec) 0x100 v = none := by
  have held : s.planHeld (pgDEC dec) 0x100 v = false := by simp [State.planHeld]
  have mask : staticMask (pgDEC dec) 0x100 = 0 := by simp [staticMask, maskOf_decCfg]
  have static : s.staticHeld (pgDEC dec) 0x100 v = false := by simp [State.staticHeld, mask]
  have within : v &&& writable (pgDEC dec) 0x100 = v := by
    rw [writable, if_neg (by decide), if_neg (by decide), maskOf_decCfg, if_pos rfl]
    exact Nat.and_two_pow_sub_one_of_lt_two_pow hv
  have range : s.rangeBad (pgDEC dec) 0x100 v = false := by
    have : bitsOf v 7 0 = v := by
      rw [bitsOf, Nat.pow_zero, Nat.div_one]; exact Nat.mod_eq_of_lt hv
    simp [State.rangeBad, blockOf_pgDEC, this, pos]
  have mode : modeBad (pgDEC dec) 0x100 v = false := by simp [modeBad]
  have armed : s.armed (pgDEC dec) 0x100 v = false := by simp [State.armed]
  simp [State.writeCause, held, static, within, range, mode, armed]

/-- A register written with the value it holds. -/
def State.rewritten (s : State) (page off : Nat) : State := s.wr page off (s.rd page off)

theorem kget_regs_rewritten (s : State) (page off : Nat) :
    (fun k => kget resetVal (s.rewritten page off).regs k) = fun k => kget resetVal s.regs k := by
  funext k
  refine (kget_kset _ _ _ _).trans ?_
  split
  case isTrue h => rw [h]; rfl
  case isFalse => rfl

theorem State.rd_rewritten (s : State) (page off p o : Nat) : (s.rewritten page off).rd p o = s.rd p o :=
  congrFun (kget_regs_rewritten s page off) (regKey p o)

/-- QUANTUM is staged: the register itself is written with the value it holds. -/
def State.stageQuantum (s : State) (pg q : Nat) : State :=
  { s.rewritten pg 0x100 with
    staged := kset (fun k => kget resetVal (s.rewritten pg 0x100).regs k) s.staged (regKey pg 0x100)
      (word ((s.rdStaged pg 0x100).toNat - ((s.rdStaged pg 0x100).toNat &&& 255) + (q &&& 255))) }

/-- A write of a quantum stages it; a disabled decompressor takes it at once. -/
theorem exec_writeQuantum (s : State) (dec : Fin 32) (q : Byte) (powered : s.powered (pgDEC dec) = true) (pos : q ≠ 0) :
    exec (.regWrite .henair 0 (Fin.ofNat 512 (pgDEC dec)) 0x100 8 (word q.toNat)) s =
      .next (if s.enabled (pgDEC dec) then s.stageQuantum (pgDEC dec) q.toNat
        else (s.stageQuantum (pgDEC dec) q.toNat).applyStaged (pgDEC dec)) := by
  have page : (Fin.ofNat 512 (pgDEC dec)).val = pgDEC dec := Nat.mod_eq_of_lt (by unfold pgDEC; omega)
  have value : (word q.toNat).toNat = q.toNat := by
    rw [word, BitVec.toNat_ofNat]; exact Nat.mod_eq_of_lt (q.isLt.trans (by decide))
  have nonzero : q.toNat ≠ 0 := fun h => pos (BitVec.eq_of_toNat_eq h)
  have present : ¬ ((blockOf (pgDEC dec)).isNone || !s.powered (pgDEC dec)) = true := by
    rw [powered, blockOf_pgDEC]; decide
  have power : ¬ (decide (pgDEC dec = pgPWR) && decide ((0x100 : Nat) = 0x100)) = true := by
    have : pgDEC dec ≠ pgPWR := by unfold pgDEC pgPWR; omega
    simp [this]
  have whole : s.wholeAction (pgDEC dec) 0x100 (word q.toNat) = none := by
    simp [State.wholeAction, blockOf_pgDEC]
  have old : word (writtenValue (pgDEC dec) 0x100 (s.rd (pgDEC dec) 0x100).toNat q.toNat) = s.rd (pgDEC dec) 0x100 := by
    simp [writtenValue, maskOf_decCfg, word]
  have on : (s.stageQuantum (pgDEC dec) q.toNat).enabled (pgDEC dec) = s.enabled (pgDEC dec) :=
    congrArg (fun w : Word => bitsOf w.toNat 0 0 == 1) (s.rd_rewritten (pgDEC dec) 0x100 (pgDEC dec) 8)
  have fields : s.storeFields (pgDEC dec) 0x100 q.toNat =
      if s.enabled (pgDEC dec) then s.stageQuantum (pgDEC dec) q.toNat
      else (s.stageQuantum (pgDEC dec) q.toNat).applyStaged (pgDEC dec) := by
    rw [← on]
    simp only [State.storeFields, old, maskOf_decCfg]
    rfl
  rw [exec_regWrite (.inr (.inl rfl)), page]
  refine congrArg Host.Outcome.next ?_
  show s.writeReg .henair (pgDEC dec) 0x100 8 (word q.toNat) = _
  rw [State.writeReg, if_neg present, if_neg (by decide), if_neg power, value, writeCause_decCfg s dec q.isLt nonzero]
  simp only [State.applyWrite, whole, value, fields, State.blockActions, blockOf_pgDEC]
  rfl

/-- The value that is staged holds the quantum in bits 7 to 0. -/
theorem bitsOf_quantum (old : Nat) {q : Nat} (hq : q < 2 ^ 8) :
    bitsOf (word (old - (old &&& 255) + (q &&& 255))).toNat 7 0 = q := by
  refine Nat.eq_of_testBit_eq fun i => ?_
  rw [testBit_bitsOf]
  by_cases hi : i < 8
  · have bit := getLsbD_word (old - (old &&& 255) + (q &&& 255)) i
    have low : Nat.testBit 255 i = true := (Nat.testBit_two_pow_sub_one 8 i).trans (decide_eq_true hi)
    rw [testBit_replace, low, if_pos rfl, decide_eq_true (by omega), Bool.true_and] at bit
    rw [decide_eq_true hi, Bool.true_and, Nat.zero_add]
    exact bit
  · rw [decide_eq_false hi, Bool.false_and, Nat.testBit_lt_two_pow (hq.trans_le (Nat.pow_le_pow_right (by decide) (by omega)))]

/-- Staging leaves every active value and every other staged one. -/
theorem stageQuantum_effect (s : State) (pg : Nat) {q : Nat} (hq : q < 2 ^ 8) :
    bitsOf ((s.stageQuantum pg q).rdStaged pg 0x100).toNat 7 0 = q ∧
      OnlyBits noBits s { s.stageQuantum pg q with staged := s.staged } ∧
      ∀ k, k ≠ regKey pg 0x100 → kget (fun k => kget resetVal (s.stageQuantum pg q).regs k) (s.stageQuantum pg q).staged k =
        kget (fun k => kget resetVal s.regs k) s.staged k := by
  refine ⟨?_, ⟨rfl, fun p o i _ _ _ => congrArg (BitVec.getLsbD · i) (s.rd_rewritten pg 0x100 p o)⟩, fun k hk => ?_⟩
  · refine Eq.trans ?_ (bitsOf_quantum (s.rdStaged pg 0x100).toNat hq)
    exact congrArg (fun w : Word => bitsOf w.toNat 7 0) (kget_kset_self _ _ _)
  · exact (kget_kset_ne _ hk _).trans (congrArg (fun d => kget d s.staged k) (kget_regs_rewritten s pg 0x100))

/-- With nothing staged before, a disabled decompressor takes the new quantum at once. -/
theorem applyStaged_stageQuantum {s : State} {pg q : Nat} (hp : pg < 512) (hq : q < 2 ^ 8) (empty : s.staged = [])
    (new : q ≠ s.fld pg Reg.DEC_CFG_QUANTUM) :
    let t := (s.stageQuantum pg q).applyStaged pg
    t.fld pg Reg.DEC_CFG_QUANTUM = q ∧ t.staged = [] ∧
      t.fld pg Reg.BLK_GEN_GEN = (s.fld pg Reg.BLK_GEN_GEN + 1) % 2 ^ 32 := by
  obtain ⟨x, hx⟩ : ∃ x, x = word ((s.rdStaged pg 0x100).toNat - ((s.rdStaged pg 0x100).toNat &&& 255) + (q &&& 255)) :=
    ⟨_, rfl⟩
  have differs : x ≠ kget resetVal (s.rewritten pg 0x100).regs (regKey pg 0x100) := fun same => new (by
    rw [← bitsOf_quantum (s.rdStaged pg 0x100).toNat hq, ← hx, same]
    exact congrArg (fun w : Word => bitsOf w.toNat 7 0) (s.rd_rewritten pg 0x100 pg 0x100))
  have staged : (s.stageQuantum pg q).staged = [(regKey pg 0x100, x)] := by
    rw [State.stageQuantum, empty, ← hx]
    exact if_neg differs
  have key : regKey pg 0x100 / 0x1000 = pg ∧ regKey pg 0x100 % 0x1000 = 0x100 := by unfold regKey; omega
  have effect := applyStaged_effect (s := s.stageQuantum pg q) hp (by simp [State.shdPend, staged, key]) (by simp [staged])
    fun k v h => by
      rw [staged] at h
      obtain ⟨rfl, _⟩ := Prod.mk.inj (List.mem_singleton.1 h)
      rw [key.2]
  obtain ⟨_, gen, _, _, left, active⟩ := effect
  refine ⟨?_, ?_, ?_⟩
  · have value := active (regKey pg 0x100) x (by rw [staged]; exact List.mem_singleton.2 rfl) key.1
    rw [key.2] at value
    rw [State.fld, show Reg.DEC_CFG_QUANTUM.off = 0x100 from rfl, value, hx]
    exact bitsOf_quantum _ hq
  · rw [left, staged]; simp [key.1]
  · rw [gen]
    exact congrArg (fun w : Word => (bitsOf w.toNat 31 0 + 1) % 2 ^ 32) (s.rd_rewritten pg 0x100 pg 0x18)

/-! ## ENABLE (R42) -/

/-- BLK_CTRL as it stands with ENABLE given. -/
def State.enableValue (s : State) (page : Nat) (on : Bool) : Nat := s.ctrl page / 2 * 2 + if on then 1 else 0

theorem testBit_enableValue (s : State) (page : Nat) (on : Bool) (i : Nat) :
    (s.enableValue page on).testBit i = if i = 0 then on else (s.ctrl page).testBit i := by
  have value : (if on then 1 else 0 : Nat) < 2 := by cases on <;> decide
  unfold State.enableValue
  cases i with
  | zero => rw [Nat.testBit_zero]; cases on <;> simp
  | succ i =>
    have half : (s.ctrl page / 2 * 2 + if on then 1 else 0) / 2 = s.ctrl page / 2 := by omega
    rw [Nat.testBit_add_one, Nat.testBit_add_one, half, if_neg (Nat.succ_ne_zero i)]

theorem testBit_enableValue_of (s : State) {page : Nat} (block : (blockOf page).isSome = true) (on : Bool) {i : Nat}
    (pos : i ≠ 0) (h : ctrlBit i) : (s.enableValue page on).testBit i = (s.rd page 8).getLsbD i := by
  rw [testBit_enableValue, if_neg pos, testBit_ctrl_of s block h]

theorem testBit_enableValue_of_not (s : State) {page : Nat} (block : (blockOf page).isSome = true) (on : Bool) {i : Nat}
    (pos : i ≠ 0) (h : ¬ ctrlBit i) : (s.enableValue page on).testBit i = false := by
  rw [testBit_enableValue, if_neg pos, testBit_ctrl_of_not s block h]

theorem ctrlWrite_enableValue {s : State} {page : Nat} (block : (blockOf page).isSome = true)
    (modeOk : modeBad page 8 (s.ctrl page) = false) (on : Bool)
    (disable : on = false → (page = pgPLAN → ∀ p, p < 16 → s.slotState p = 0) ∧ s.claimed page = false) :
    CtrlWrite s page (s.enableValue page on) := by
  refine ⟨fun i h => ?_, testBit_enableValue_of s block on (by decide) (by decide), modeOk,
    fun _ i h1 h2 => testBit_enableValue_of s block on (by omega) (by unfold ctrlBit; omega), fun h => ?_, fun _ _ h => ?_⟩
  · by_contra hi
    rw [testBit_enableValue_of_not s block on (by omega) (by unfold ctrlBit; omega)] at h
    exact Bool.false_ne_true h
  · rw [testBit_enableValue_of_not s block on (by decide) (by decide)] at h; exact absurd h (by decide)
  · rw [testBit_enableValue, if_pos rfl] at h; exact disable h

/-- What storing ENABLE changes. -/
theorem storedEnable_effect (s : State) {page : Nat} (block : (blockOf page).isSome = true) (switched : alwaysOn page = false)
    (on : Bool) : (s.stored page 8 (s.enableValue page on)).enabled page = on ∧
      OnlyBits (Reg.BLK_CTRL_ENABLE.bits page) s (s.stored page 8 (s.enableValue page on)) := by
  refine ⟨?_, onlyBits_storedCtrl s block fun i h _ hn =>
    testBit_enableValue_of s block on (fun h0 => hn ⟨rfl, rfl, Nat.zero_le _, h0.le⟩) h⟩
  rw [State.enabled_eq_getLsbD, getLsbD_storedCtrl s _ block (by decide), if_pos ⟨by decide, fun _ => switched⟩,
    testBit_enableValue, if_pos rfl]

/-- A ring on which nothing waits has nothing to settle. -/
theorem State.settleRing_none {s : State} {n : Nat} (h : (s.ring n).waiting = []) : s.settleRing n = s := by
  rw [State.settleRing, h]; rfl

theorem foldl_settleRing_none {s : State} (h : s.rings = []) (l : List Nat) :
    l.foldl (fun (s : State) n => s.settleRing n) s = s := by
  have none : ∀ n, s.settleRing n = s := fun n => State.settleRing_none (by rw [State.ring, h]; rfl)
  induction l with
  | nil => rfl
  | cons n l ih => rw [List.foldl_cons, none n, ih]

/-- A write of BLK_CTRL without SRESET and SHD_APPLY that does not disable the block has no effect beyond its fields; a
command ring page that it enables has no entry to settle. -/
theorem ctrlWritten_plain {t : State} {page v : Nat} {was : Bool} (noReset : v.testBit 1 = false) (noApply : v.testBit 4 = false)
    (stays : was = true → t.enabled page = true) (rings : page = pgCMDQ → was = false → t.enabled page = true → t.rings = []) :
    t.ctrlWritten page was v = t := by
  have noReset' : ¬ bitsOf v 1 1 = 1 := by rw [bitsOf_self_eq_one, noReset]; decide
  have noApply' : ¬ bitsOf v 4 4 = 1 := by rw [bitsOf_self_eq_one, noApply]; decide
  have enabled : (was && !t.enabled page) = false := by
    cases was
    · rfl
    · rw [stays rfl]; rfl
  simp only [State.ctrlWritten, enabled, Bool.false_eq_true, if_false, noReset', noApply', decide_false, Bool.false_and]
  split
  case isTrue h =>
    simp only [Bool.and_eq_true, decide_eq_true_eq, Bool.not_eq_true'] at h
    obtain ⟨⟨page_eq, disabled⟩, on⟩ := h
    exact foldl_settleRing_none (rings page_eq disabled on) _
  case isFalse => rfl

/-- ENABLE written as 1 in a disabled block. -/
theorem exec_enable {s : State} {page : Fin 512} (block : (blockOf page).isSome = true) (powered : s.powered page = true)
    (modeOk : modeBad page 8 (s.ctrl page) = false) (switched : alwaysOn page = false)
    (rings : page.val = pgCMDQ → s.rings = []) :
    ∃ t, exec (.enable page true) s = .next t ∧ t.enabled page = true ∧ OnlyBits (Reg.BLK_CTRL_ENABLE.bits page) s t := by
  obtain ⟨on, only⟩ := storedEnable_effect s block switched true
  have write := ctrlWrite_enableValue block modeOk true nofun
  have plain : (s.stored page 8 (s.enableValue page true)).ctrlWritten page (s.enabled page) (s.enableValue page true) =
      s.stored page 8 (s.enableValue page true) :=
    ctrlWritten_plain (testBit_enableValue_of_not s block true (by decide) (by decide))
      (testBit_enableValue_of_not s block true (by decide) (by decide)) (fun _ => on) fun h _ _ => by rw [only.1]; exact rings h
  exact ⟨_, congrArg Host.Outcome.next ((writeReg_ctrl write .host block powered).trans plain), on, only⟩

/-- Whether a block holds work follows from the state of the units, but for the flash controller's BUSY. -/
theorem holdsWork_congr {s t : State} (only : RegsOnly s t)
    (flash : t.bit pgXSPI Reg.XSPI_CMD_BUSY = s.bit pgXSPI Reg.XSPI_CMD_BUSY) (page : Nat) :
    t.holdsWork page = s.holdsWork page := by
  unfold RegsOnly at only
  generalize t.regs = r at only
  subst only
  unfold State.holdsWork
  split
  case h_15 => exact flash
  all_goals rfl

/-- A write of BLK_CTRL that disables the block notes whether work is left. -/
theorem ctrlWritten_disable {t : State} {page v : Nat} (off : t.enabled page = false) (applied : t.shdPend page = false)
    (noReset : v.testBit 1 = false) (noApply : v.testBit 4 = false) :
    t.ctrlWritten page true v = t.setBit page Reg.BLK_STAT_BUSY (t.holdsWork page) := by
  have noReset' : ¬ bitsOf v 1 1 = 1 := by rw [bitsOf_self_eq_one, noReset]; decide
  have noApply' : ¬ bitsOf v 4 4 = 1 := by rw [bitsOf_self_eq_one, noApply]; decide
  have same : (t.setBit page Reg.BLK_STAT_BUSY (t.holdsWork page)).applyStaged page =
      t.setBit page Reg.BLK_STAT_BUSY (t.holdsWork page) := State.applyStaged_none applied
  simp only [State.ctrlWritten, off, Bool.not_false, Bool.and_self, if_true, same, noReset', noApply', decide_false,
    Bool.false_and, Bool.not_true, Bool.and_false, Bool.false_eq_true, if_false]

/-- ENABLE written as 0 in a block that no plan holds, with nothing staged: BUSY says whether work is left. -/
theorem exec_disable {s : State} {page : Fin 512} (block : (blockOf page).isSome = true) (powered : s.powered page = true)
    (modeOk : modeBad page 8 (s.ctrl page) = false) (on : s.enabled page = true) (switched : alwaysOn page = false)
    (free : s.claimed page = false) (applied : s.shdPend page = false)
    (plans : page.val = pgPLAN → ∀ p, p < 16 → s.slotState p = 0) :
    ∃ t, exec (.enable page false) s = .next t ∧ t.enabled page = false ∧ t.bit page Reg.BLK_STAT_BUSY = s.holdsWork page ∧
      OnlyBits ((Reg.BLK_CTRL_ENABLE.bits page).or (Reg.BLK_STAT_BUSY.bits page)) s t := by
  obtain ⟨off, only⟩ := storedEnable_effect s block switched false
  have write := ctrlWrite_enableValue block modeOk false fun _ => ⟨plans, free⟩
  have applied' : (s.stored page 8 (s.enableValue page false)).shdPend page = false := applied
  have disables := ctrlWritten_disable off applied' (testBit_enableValue_of_not s block false (by decide) (by decide))
    (testBit_enableValue_of_not s block false (by decide) (by decide))
  have work : (s.stored page 8 (s.enableValue page false)).holdsWork page = s.holdsWork page :=
    holdsWork_congr only.1 (congrArg (· == 1) (only.2.fld (by decide) (by decide) fun i _ _ ⟨_, h, _⟩ =>
      absurd h (by decide))) page
  rw [work, ← on] at disables
  refine ⟨_, congrArg Host.Outcome.next ((writeReg_ctrl write .host block powered).trans disables), ?_,
    State.bit_setBit_self _ _ _ _ ⟨by decide, by decide, by decide⟩ rfl,
    only.trans (onlyBits_setBit _ _ _ _ ⟨by decide, by decide, by decide⟩)⟩
  exact Eq.trans (congrArg (· == 1) (State.fld_setFld_off (f := Reg.BLK_STAT_BUSY) (f' := Reg.BLK_CTRL_ENABLE) _ page _
    (by decide) (by decide) (by decide))) off

/-- A disabled block that holds no more work clears BUSY. -/
theorem exec_blockDrained {s : State} {page : Fin 512} (off : s.enabled page = false) (idle : s.holdsWork page = false) :
    ∃ t, exec (.blockDrained page) s = .next t ∧ t.bit page Reg.BLK_STAT_BUSY = false ∧
      OnlyBits (Reg.BLK_STAT_BUSY.bits page) s t :=
  ⟨_, congrArg Host.Outcome.next (if_neg (by rw [off, idle]; decide)),
    State.bit_setBit_self _ _ _ _ ⟨by decide, by decide, by decide⟩ rfl,
    onlyBits_setBit _ _ _ _ ⟨by decide, by decide, by decide⟩⟩

/-! ## SHD_APPLY and CUE_ARM (R37, R40) -/

theorem testBit_ctrl_or_apply (s : State) (page i : Nat) :
    (s.ctrl page ||| 0x10).testBit i = ((s.ctrl page).testBit i || decide (4 = i)) := by
  rw [Nat.testBit_or, show (0x10 : Nat) = 2 ^ 4 from rfl, Nat.testBit_two_pow]

/-- A write of BLK_CTRL with SHD_APPLY applies what is staged, where the block is enabled and nothing holds it back. -/
theorem ctrlWritten_apply {t : State} {page v : Nat} (on : t.enabled page = true) (apply : v.testBit 4 = true)
    (noReset : v.testBit 1 = false) (noHold : t.bit page Reg.BLK_CTRL_SHD_HOLD = false)
    (noArm : t.bit page Reg.BLK_CTRL_CUE_ARM = false) : t.ctrlWritten page true v = t.applyStaged page := by
  have noReset' : ¬ bitsOf v 1 1 = 1 := by rw [bitsOf_self_eq_one, noReset]; decide
  simp only [State.ctrlWritten, on, noHold, noArm, (bitsOf_self_eq_one v 4).2 apply, noReset', decide_true,
    Bool.not_true, Bool.not_false, Bool.and_true, Bool.and_false, Bool.false_and, Bool.false_eq_true, if_false, if_true]

theorem exec_shdApply {s : State} {page : Fin 512} (block : (blockOf page).isSome = true) (powered : s.powered page = true)
    (modeOk : modeBad page 8 (s.ctrl page) = false) (on : s.enabled page = true)
    (noHold : s.bit page Reg.BLK_CTRL_SHD_HOLD = false) (noArm : s.bit page Reg.BLK_CTRL_CUE_ARM = false) :
    exec (.shdApply page) s = .next ((s.stored page 8 (s.ctrl page ||| 0x10)).applyStaged page) ∧
      OnlyBits noBits s (s.stored page 8 (s.ctrl page ||| 0x10)) := by
  have bits := testBit_ctrl_or_apply s page
  have same : ∀ i, ctrlBit i → (s.ctrl page ||| 0x10).testBit i = (s.rd page 8).getLsbD i := fun i h => by
    rw [bits, testBit_ctrl_of s block h, decide_eq_false (by unfold ctrlBit at h; omega), Bool.or_false]
  have only := onlyBits_storedCtrl s (v := s.ctrl page ||| 0x10) (p := noBits) block fun i h _ _ => same i h
  have sreset : (s.ctrl page ||| 0x10).testBit 1 = false := by
    rw [bits, testBit_ctrl_of_not s block (by decide)]; decide
  have write : CtrlWrite s page (s.ctrl page ||| 0x10) := by
    refine ⟨fun i h => ?_, same 2 (by decide), modeOk, fun _ i h1 h2 => same i (by unfold ctrlBit; omega),
      fun h => ?_, fun _ _ h => ?_⟩
    · rw [bits, Bool.or_eq_true, testBit_ctrl s block, decide_eq_true_eq] at h
      unfold ctrlBit at h; omega
    · rw [sreset] at h; exact absurd h (by decide)
    · rw [same 0 (by decide), ← State.enabled_eq_getLsbD, on] at h; exact absurd h (by decide)
  have bit : ∀ f : Fld, f.off < 0x1000 → (s.stored page 8 (s.ctrl page ||| 0x10)).bit page f = s.bit page f := fun f hf =>
    congrArg (· == 1) (only.2.fld page.isLt hf fun _ _ _ => id)
  have effect := ctrlWritten_apply ((bit Reg.BLK_CTRL_ENABLE (by decide)).trans on) (by rw [bits]; simp) sreset
    ((bit _ (by decide)).trans noHold) ((bit _ (by decide)).trans noArm)
  rw [← on] at effect
  exact ⟨congrArg Host.Outcome.next ((writeReg_ctrl write .host block powered).trans effect), only⟩

/-- BLK_CTRL as it stands, with CUE_ARM and CUE_SEL given. -/
def State.cueValue (s : State) (page : Nat) (arm : Bool) (sel : Nat) : Nat :=
  s.ctrl page % 2 ^ 5 + (if arm then 2 ^ 5 else 0) + sel * 2 ^ 8

theorem testBit_cueValue (s : State) (page : Nat) (arm : Bool) (sel i : Nat) :
    (s.cueValue page arm sel).testBit i =
      if i < 5 then (s.ctrl page).testBit i else if i < 8 then decide (i = 5) && arm else sel.testBit (i - 8) := by
  have low : s.ctrl page % 2 ^ 5 < 2 ^ 5 := Nat.mod_lt _ (by decide)
  have armBit : (if arm then 2 ^ 5 else 0) = 2 ^ 5 * arm.toNat := by cases arm <;> rfl
  have small : 2 ^ 5 * arm.toNat + s.ctrl page % 2 ^ 5 < 2 ^ 8 := by have := Bool.toNat_le arm; omega
  have value : s.cueValue page arm sel = 2 ^ 8 * sel + (2 ^ 5 * arm.toNat + s.ctrl page % 2 ^ 5) := by
    rw [State.cueValue, armBit]; omega
  rw [value, Nat.testBit_two_pow_mul_add _ small, Nat.testBit_two_pow_mul_add _ low]
  by_cases h5 : i < 5
  · rw [if_pos (by omega), if_pos h5, if_pos h5, Nat.testBit_mod_two_pow, decide_eq_true h5, Bool.true_and]
  · rw [if_neg h5, if_neg h5]
    refine if_congr Iff.rfl ?_ rfl
    obtain ⟨k, rfl⟩ : ∃ k, i = 5 + k := ⟨i - 5, by omega⟩
    cases k with
    | zero => cases arm <;> rfl
    | succ k => cases arm <;> simp [Nat.testBit_add_one]

/-- A number below 32 has no bit from bit 5 up. -/
theorem testBit_fin32 (sel : Fin 32) {i : Nat} (h : 5 ≤ i) : sel.val.testBit i = false :=
  Nat.testBit_lt_two_pow (sel.isLt.trans_le (Nat.pow_le_pow_right Nat.two_pos h : 2 ^ 5 ≤ 2 ^ i))

/-- CUE_ARM and CUE_SEL written while no cue is armed. -/
theorem exec_cueArm {s : State} {page : Fin 512} (block : (blockOf page).isSome = true) (powered : s.powered page = true)
    (modeOk : modeBad page 8 (s.ctrl page) = false) (arm : Bool) (sel : Fin 32)
    (noArm : s.bit page Reg.BLK_CTRL_CUE_ARM = false) :
    ∃ t, exec (.cueArm page arm sel) s = .next t ∧ t.bit page Reg.BLK_CTRL_CUE_ARM = arm ∧
      t.fld page Reg.BLK_CTRL_CUE_SEL = sel.val ∧
      OnlyBits ((Reg.BLK_CTRL_CUE_ARM.bits page).or (Reg.BLK_CTRL_CUE_SEL.bits page)) s t := by
  have bits := testBit_cueValue s page arm sel
  have same : ∀ i, i < 5 → ctrlBit i → (s.cueValue page arm sel).testBit i = (s.rd page 8).getLsbD i := fun i hi h => by
    rw [bits, if_pos hi, testBit_ctrl_of s block h]
  have other : ∀ i, i < 5 → ¬ ctrlBit i → (s.cueValue page arm sel).testBit i = false := fun i hi h => by
    rw [bits, if_pos hi, testBit_ctrl_of_not s block h]
  have write : CtrlWrite s page (s.cueValue page arm sel) := by
    refine ⟨fun i h => ?_, same 2 (by decide) (by decide), modeOk, fun armed => ?_, fun h => ?_, fun on _ h => ?_⟩
    · by_contra hi
      rw [bits, if_neg (by omega)] at h
      split at h
      · rw [decide_eq_false (by omega)] at h; exact Bool.false_ne_true h
      · rw [testBit_fin32 sel (by omega)] at h
        exact Bool.false_ne_true h
    · rw [noArm] at armed; exact absurd armed (by decide)
    · rw [other 1 (by decide) (by decide)] at h; exact absurd h (by decide)
    · rw [same 0 (by decide) (by decide), ← State.enabled_eq_getLsbD, on] at h; exact absurd h (by decide)
  have only := onlyBits_storedCtrl s (v := s.cueValue page arm sel)
    (p := (Reg.BLK_CTRL_CUE_ARM.bits page).or (Reg.BLK_CTRL_CUE_SEL.bits page)) block fun i h _ hn => by
      refine same i ?_ h
      by_contra hi
      rcases (by unfold ctrlBit at h; omega : i = 5 ∨ 8 ≤ i ∧ i ≤ 12) with rfl | hi
      · exact hn (.inl ⟨rfl, rfl, le_refl _, le_refl _⟩)
      · exact hn (.inr ⟨rfl, rfl, hi⟩)
  have enabled : (s.stored page 8 (s.cueValue page arm sel)).enabled page = s.enabled page :=
    congrArg (· == 1) (only.2.fld (f := Reg.BLK_CTRL_ENABLE) page.isLt (by decide) fun i h1 h2 h => by
      rcases h with ⟨_, _, h, _⟩ | ⟨_, _, h, _⟩
      · exact absurd (h.trans h2) (by decide)
      · exact absurd (h.trans h2) (by decide))
  have plain := ctrlWritten_plain (t := s.stored page 8 (s.cueValue page arm sel)) (was := s.enabled page)
    (other 1 (by decide) (by decide)) (other 4 (by decide) (by decide)) enabled.trans fun _ off on => by
      rw [enabled, off] at on; exact absurd on (by decide)
  have stored : ∀ i, i < 64 → ctrlBit i → i ≠ 0 → ((s.stored page 8 (s.cueValue page arm sel)).rd page 8).getLsbD i =
      (s.cueValue page arm sel).testBit i := fun i hi h pos => by
    rw [getLsbD_storedCtrl s _ block hi, if_pos ⟨h, fun h0 => absurd h0 pos⟩]
  refine ⟨_, congrArg Host.Outcome.next ((writeReg_ctrl write .host block powered).trans plain), ?_, ?_, only⟩
  · rw [State.bit_eq_getLsbD _ _ rfl]
    exact (stored 5 (by decide) (by decide) (by decide)).trans (bits 5)
  · refine Nat.eq_of_testBit_eq fun i => ?_
    rw [State.testBit_fld]
    by_cases hi : i < 5
    · rw [decide_eq_true (by exact hi), Bool.true_and]
      refine (stored (8 + i) (by omega) (by unfold ctrlBit; omega) (by omega)).trans ((bits (8 + i)).trans ?_)
      rw [if_neg (by omega), if_neg (by omega), Nat.add_sub_cancel_left]
    · rw [decide_eq_false (by exact hi), Bool.false_and,
        testBit_fin32 sel (by omega)]

end Sys2Proof.Machine

namespace Sys2Proof.Machine
open Sys2Proof

/-! ## Performance counters (R41) -/

/-- The low bits of a number with the next one set. -/
theorem testBit_mod_add_two_pow (x k i : Nat) :
    (x % 2 ^ k + 2 ^ k).testBit i = if i < k then x.testBit i else decide (i = k) := by
  have split : x % 2 ^ k + 2 ^ k = 2 ^ k * 1 + x % 2 ^ k := by omega
  rw [split, Nat.testBit_two_pow_mul_add _ (Nat.mod_lt _ (Nat.two_pow_pos k)), Nat.testBit_mod_two_pow]
  split
  case isTrue h => simp [h]
  case isFalse h =>
    rw [Bool.eq_iff_iff, Nat.testBit_one_eq_true_iff_self_eq_zero, decide_eq_true_eq]
    omega

/-- The value that PERF_CLEAR writes: the register as it stands, and the bit that clears. -/
def State.clearValue (s : State) (page off k : Nat) : Nat := (s.rd page off).toNat % 2 ^ k + 2 ^ k

/-- A write that only sets the clearing bit of a register of the header is not refused, and stores nothing new. -/
theorem writeReg_clearValue (s : State) {page off k : Nat} (block : (blockOf page).isSome = true)
    (powered : s.powered page = true) (header : off < 0x100) (aligned : off % 8 = 0) (small : k < 63)
    (plain : off ≠ 8 ∧ off ≠ 0x10 ∧ off ≠ 0x20 ∧ off ≠ 0x28 ∧ off ≠ 0x30 ∧ off ≠ 0x38)
    (all : headerMask (fun _ => true) off = 2 ^ (k + 1) - 1) (clear : headerMask (fun f => f.acc == .w1c) off = 0)
    (sets : headerMask (fun f => f.acc == .rw && f.cls != .shadow) off = 2 ^ k - 1) :
    s.writeReg .host page off 8 (word (s.clearValue page off k)) =
        (s.stored page off (s.clearValue page off k)).headerActions page off (s.clearValue page off k) (s.enabled page) ∧
      OnlyBits noBits s (s.stored page off (s.clearValue page off k)) := by
  obtain ⟨h8, h10, h20, h28, h30, h38⟩ := plain
  have lt : s.clearValue page off k < 2 ^ (k + 1) := by
    have := Nat.mod_lt (s.rd page off).toNat (Nat.two_pow_pos k)
    rw [State.clearValue, Nat.pow_succ]; omega
  have same : (word (s.clearValue page off k)).toNat = s.clearValue page off k := by
    rw [word, BitVec.toNat_ofNat]
    exact Nat.mod_eq_of_lt (lt.trans (Nat.pow_lt_pow_right (by decide) (by omega)))
  have within : s.clearValue page off k &&& writable page off = s.clearValue page off k := by
    have : writable page off = 2 ^ (k + 1) - 1 := by
      simp [writable, h20, h28, h30, maskOf_header block header, all]
    rw [this, Nat.and_two_pow_sub_one_of_lt_two_pow lt]
  refine ⟨?_, rfl, fun p o i hp ho _ => ?_⟩
  · rw [writeReg_header s .host block powered header aligned (by rw [same]; exact writeCause_header_ne block header h8 within), same]
  · by_cases key : p = page ∧ o = off
    · obtain ⟨rfl, rfl⟩ := key
      by_cases hi : i < 64
      · rw [getLsbD_stored s _ block header ⟨h10, h38⟩ clear (set := 2 ^ k - 1) (by simp [h8, sets]) i hi,
          Nat.testBit_two_pow_sub_one]
        by_cases low : i < k
        · rw [if_pos (by simpa using low), State.clearValue, testBit_mod_add_two_pow, if_pos low, testBit_toNat_rd]
        · rw [if_neg (by simpa using low)]
      · rw [BitVec.getLsbD_of_ge _ _ (by omega), BitVec.getLsbD_of_ge _ _ (by omega)]
    · exact (onlyBits_stored s page _ header).2 p o i hp ho key

theorem bitsOf_clearValue (s : State) (page off k : Nat) : bitsOf (s.clearValue page off k) k k = 1 := by
  rw [bitsOf_self_eq_one, State.clearValue, testBit_mod_add_two_pow]; simp

theorem countField_ok {i : Nat} (h : i < 9) :
    (Reg.PERF_CNT_COUNT i).lo ≤ (Reg.PERF_CNT_COUNT i).hi ∧ (Reg.PERF_CNT_COUNT i).hi < 64 ∧
      (Reg.PERF_CNT_COUNT i).off < 0x1000 :=
  ⟨Nat.zero_le _, (by decide : 47 < 64), by simp only [Reg.PERF_CNT_COUNT]; omega⟩

/-- PERF_CLEAR sets its counter to zero. -/
theorem exec_perfClear {s : State} {page : Fin 512} (block : (blockOf page).isSome = true) (powered : s.powered page = true)
    (i : Fin 9) : ∃ t, exec (.perfClear page i) s = .next t ∧ t.fld page (Reg.PERF_CNT_COUNT i) = 0 ∧
      OnlyBits ((Reg.PERF_CNT_COUNT i).bits page) s t := by
  have masks : ∀ i : Fin 9, headerMask (fun _ => true) (0x68 + 0x10 * i.val) = 2 ^ (17 + 1) - 1 ∧
      headerMask (fun f => f.acc == .w1c) (0x68 + 0x10 * i.val) = 0 ∧
      headerMask (fun f => f.acc == .rw && f.cls != .shadow) (0x68 + 0x10 * i.val) = 2 ^ 17 - 1 := by decide
  obtain ⟨all, clear, sets⟩ := masks i
  obtain ⟨writes, only⟩ := writeReg_clearValue s block powered (by omega) (by omega) (by decide) (by omega) all clear sets
  refine ⟨(s.stored page (0x68 + 0x10 * i.val) (s.clearValue page (0x68 + 0x10 * i.val) 17)).setFld page
    (Reg.PERF_CNT_COUNT i) 0, congrArg Host.Outcome.next (writes.trans ?_), ?_, ?_⟩
  · have index : (0x68 + 0x10 * i.val - 0x68) / 0x10 = i.val := by omega
    have here : (decide (0x68 ≤ 0x68 + 0x10 * i.val) && decide (0x68 + 0x10 * i.val < 0xF8) &&
        decide ((0x68 + 0x10 * i.val) % 0x10 = 8)) = true := by simp; omega
    rw [State.headerActions, if_neg (by omega), if_neg (by omega), if_pos here, if_pos (bitsOf_clearValue _ _ _ _), index]
  · rw [State.fld_setFld_same _ _ _ (countField_ok i.isLt)]; rfl
  · exact (only.trans (onlyBits_setFld _ _ _ _ (countField_ok i.isLt))).mono fun _ _ _ h => h.resolve_left id

/-- The counters below `n` set to zero. -/
def State.clearCounts (s : State) (page n : Nat) : State :=
  (List.range n).foldl (fun (s : State) i => s.setFld page (Reg.PERF_CNT_COUNT i) 0) s

theorem State.clearCounts_succ (s : State) (page n : Nat) :
    s.clearCounts page (n + 1) = (s.clearCounts page n).setFld page (Reg.PERF_CNT_COUNT n) 0 := by
  rw [State.clearCounts, List.range_succ, List.foldl_append]; rfl

theorem clearCounts_effect (s : State) (page : Nat) : ∀ n, n ≤ 9 →
    (∀ i, i < n → (s.clearCounts page n).fld page (Reg.PERF_CNT_COUNT i) = 0) ∧
      OnlyBits (perfBits page) s (s.clearCounts page n)
  | 0, _ => ⟨nofun, OnlyBits.start _ s⟩
  | n + 1, h => by
    obtain ⟨zero, only⟩ := clearCounts_effect s page n (by omega)
    rw [State.clearCounts_succ]
    refine ⟨fun i hi => ?_, only.setFld _ (countField_ok (by omega)) fun j _ hj =>
      ⟨rfl, (by simp only [Reg.PERF_CNT_COUNT] at hj; omega), n, by omega, rfl⟩⟩
    by_cases last : i = n
    · rw [last, State.fld_setFld_same _ _ _ (countField_ok (by omega))]; rfl
    · rw [State.fld_setFld_off _ _ _ (by simp only [Reg.PERF_CNT_COUNT]; omega) (countField_ok (by omega))
        (countField_ok (by omega)).2.2]
      exact zero i (by omega)

/-- PERF_CLEAR_ALL sets every counter of the page to zero. -/
theorem exec_perfClearAll {s : State} {page : Fin 512} (block : (blockOf page).isSome = true) (powered : s.powered page = true) :
    ∃ t, exec (.perfClearAll page) s = .next t ∧ (∀ i, i < 9 → t.fld page (Reg.PERF_CNT_COUNT i) = 0) ∧
      OnlyBits (perfBits page) s t := by
  obtain ⟨writes, only⟩ := writeReg_clearValue s (off := 0xF8) (k := 1) block powered (by decide) (by decide) (by decide)
    (by decide) (by decide) (by decide) (by decide)
  obtain ⟨zero, cleared⟩ := clearCounts_effect (s.stored page 0xF8 (s.clearValue page 0xF8 1)) page 9 (le_refl _)
  refine ⟨_, congrArg Host.Outcome.next (writes.trans ?_), zero, (only.trans cleared).mono fun _ _ _ h => h.resolve_left id⟩
  have set : (decide ((0xF8 : Nat) = 0xF8) && decide (bitsOf (s.clearValue page 0xF8 1) 1 1 = 1)) = true := by
    rw [bitsOf_clearValue]; rfl
  rw [State.headerActions, if_neg (by decide), if_neg (by decide), if_neg (by decide), if_pos set]
  rfl

/-! ## The I3C target (R474) -/

/-- The pages of the package management controller are always powered. -/
theorem powered_of_pmcPage (s : State) {page : Nat} (h : pmcPage page = true) : s.powered page = true := by
  have none : domainOf page = none := by
    simp only [pmcPage, Bool.or_eq_true, decide_eq_true_eq] at h
    rcases h with (((((rfl | rfl) | rfl) | rfl) | rfl) | rfl) | rfl <;> decide
  rw [State.powered, none]

/-- An I3C write of 11 bytes to a page of the controller is a register write by it. -/
theorem exec_i3cWrite {s : State} {page : Fin 512} (block : (blockOf page).isSome = true) (on : s.enabled pgI3C = true)
    (reached : pmcPage page = true) {bytes : List Byte} (length : bytes.length = 11)
    (addr : bytesAt bytes 0 3 = 2 ^ 23 + page.val * 2 ^ 12 + 0x50) :
    ∃ t, exec (.i3cWrite bytes) s = .next t ∧ t.rd page 0x50 = word (bytesAt bytes 3 8) ∧
      t.fld pgI3C Reg.I3C_STAT_XFERS = (s.fld pgI3C Reg.I3C_STAT_XFERS + 1) % 2 ^ 32 ∧
      OnlyBits (fun p o i => p = page.val ∧ o = 0x50 ∨ Reg.I3C_STAT_XFERS.bits pgI3C p o i) s t := by
  have at_ : i3cPage (bytesAt bytes 0 3) = page.val := by unfold i3cPage; omega
  have off : bytesAt bytes 0 3 % 2 ^ 12 = 0x50 := by omega
  obtain ⟨value, only⟩ := writeReg_intEn (s.addWrap pgI3C Reg.I3C_STAT_XFERS 1) .pmc (page := page) (word (bytesAt bytes 3 8))
    block (powered_of_pmcPage _ reached)
  have counted := onlyBits_setFld s pgI3C Reg.I3C_STAT_XFERS (s.fld pgI3C Reg.I3C_STAT_XFERS + 1)
    ⟨by decide, by decide, by decide⟩
  have wellFormed : (bytes.length != 11 || decide (bytesAt bytes 0 3 / 2 ^ 23 = 0)) = false := by
    rw [length, decide_eq_false (by omega)]; rfl
  have aligned : (bytesAt bytes 0 3 % 8 != 0) = false := by simp; omega
  refine ⟨_, congrArg Host.Outcome.next ?_, value, ?_, (counted.trans only).mono fun _ _ _ h => h.symm⟩
  · simp only [on, wellFormed, off, at_, reached, Bool.not_true, Bool.false_eq_true, if_false, if_true, aligned]
  · refine (only.2.fld (by decide) (by decide) fun i _ _ ⟨_, h⟩ => absurd h (by decide)).trans ?_
    exact State.fld_setFld_same _ _ _ (by decide)

/-- The registers after a transfer is counted, with the address that a further read takes. -/
def State.noteRead (s : State) (regs : KMap Word) (next : Nat) : State :=
  { s with regs := regs, pwr := { s.pwr with i3cAddr := next } }

/-- An I3C read answers with the register at the address, or at the one after the last. -/
theorem exec_i3cRead {s : State} (on : s.enabled pgI3C = true) {addr : List Byte} (wellFormed : addr.length = 3 ∨ addr = [])
    {a : Nat} (at_ : a = if addr = [] then s.pwr.i3cAddr else bytesAt addr 0 3) (small : a < 2 ^ 23) (aligned : a % 8 = 0) :
    ∃ t u, exec (.i3cRead addr) s = .next t ∧ u = { s with regs := t.regs, pwr := { s.pwr with i3cAddr := (a + 8) % 2 ^ 21 } } ∧
      t = { u with out := .i3c (leBytes 8 (u.readReg (a / 2 ^ 12 % 2 ^ 9) (a % 2 ^ 12))) :: s.out } ∧
      t.fld pgI3C Reg.I3C_STAT_XFERS = (s.fld pgI3C Reg.I3C_STAT_XFERS + 1) % 2 ^ 32 ∧
      RegFrame (Reg.I3C_STAT_XFERS.bits pgI3C) s t := by
  have address : (if addr.isEmpty then s.pwr.i3cAddr else bytesAt addr 0 3) = a := by
    rw [at_]; simp only [List.isEmpty_iff]
  have valid : (addr.length != 3 && !addr.isEmpty || decide (2 ^ 23 ≤ a)) = false := by
    rw [decide_eq_false (by omega), Bool.or_false]
    rcases wellFormed with h | rfl
    · rw [h]; rfl
    · rfl
  have whole : (a % 8 != 0) = false := by rw [aligned]; rfl
  obtain ⟨only, frame⟩ : OnlyBits (Reg.I3C_STAT_XFERS.bits pgI3C) s (s.addWrap pgI3C Reg.I3C_STAT_XFERS 1) :=
    onlyBits_setFld _ _ _ _ ⟨by decide, by decide, by decide⟩
  have transfers : (s.addWrap pgI3C Reg.I3C_STAT_XFERS 1).fld pgI3C Reg.I3C_STAT_XFERS = _ :=
    State.fld_setFld_same _ _ _ (by decide)
  generalize hw : s.addWrap pgI3C Reg.I3C_STAT_XFERS 1 = w at only frame transfers
  obtain ⟨r, rfl⟩ : ∃ r, w = { s with regs := r } := ⟨_, only⟩
  refine ⟨_, s.noteRead r ((a + 8) % 2 ^ 21), congrArg Host.Outcome.next ?_, rfl, rfl, transfers, frame⟩
  simp only [address, on, valid, whole, Bool.not_true, Bool.false_eq_true, if_false, hw, -Nat.reducePow]
  rfl

/-- The dynamic address is taken, and no hot join is waited for. -/
theorem exec_i3cDaa {s : State} (on : s.enabled pgI3C = true) (a : BitVec 7) :
    ∃ t, exec (.i3cDaa a) s = .next t ∧ t.fld pgI3C Reg.I3C_STAT_DYN_ADDR = a.toNat ∧
      t.bit pgI3C Reg.I3C_STAT_HJ_PEND = false ∧
      OnlyBits ((Reg.I3C_STAT_DYN_ADDR.bits pgI3C).or (Reg.I3C_STAT_HJ_PEND.bits pgI3C)) s t := by
  refine ⟨_, congrArg Host.Outcome.next (if_pos on), ?_, State.bit_setBit_self _ _ _ _ ⟨by decide, by decide, by decide⟩ rfl,
    (onlyBits_setFld _ _ _ _ ⟨by decide, by decide, by decide⟩).trans
      (onlyBits_setBit _ _ _ _ ⟨by decide, by decide, by decide⟩)⟩
  rw [State.setBit, State.fld_setFld_bits _ _ _ (by decide) (by decide) (by decide)]
  exact State.fld_setFld_fits _ _ ⟨by decide, by decide, by decide⟩ a.isLt

end Sys2Proof.Machine

namespace Sys2Proof.Machine
open Sys2Proof

/-! ## Writes of registers by every writer -/

/-- INT_EN of a page is written by whoever reaches the page. -/
theorem exec_regWrite_intEn {s : State} {by_ : Writer} {port : Fin 3} {page : Fin 512} (reaches : Reaches s by_ port page)
    (v : Word) (block : (blockOf page).isSome = true) (powered : s.powered page = true) :
    ∃ t, exec (.regWrite by_ port page 0x50 8 v) s = .next t ∧ t.rd page 0x50 = v ∧
      OnlyBits (fun p o _ => p = page.val ∧ o = 0x50) s t :=
  ⟨_, exec_regWrite reaches 0x50 8 v, writeReg_intEn s by_ v block powered⟩

/-- The first refused write of a page is recorded in its reject fields. -/
theorem exec_regWrite_rejected {s : State} {by_ : Writer} {port : Fin 3} {page : Fin 512} (reaches : Reaches s by_ port page)
    (off : Fin 4096) {bytes cause : Nat} {v : Word} (block : (blockOf page).isSome = true) (powered : s.powered page = true)
    (refused : (bytes ≠ 8 ∨ off.val % 8 ≠ 0) ∧ cause = 3 ∨ bytes = 8 ∧ off.val % 8 = 0 ∧
      ¬ (page.val = pgPWR ∧ off.val = 0x100) ∧ ¬ (page.val = pgFUSE ∧ off.val = 0x108) ∧
      s.writeCause page off v.toNat = some cause) (small : cause < 16) (first : s.bit page Reg.BLK_STAT_CFG_REJECT = false) :
    ∃ t, exec (.regWrite by_ port page off bytes v) s = .next t ∧ t.bit page Reg.BLK_STAT_CFG_REJECT = true ∧
      t.fld page Reg.BLK_STAT_REJ_CAUSE = cause ∧ t.fld page Reg.BLK_STAT_REJ_OFFSET = off.val ∧
      (t.rd page 0x58).getLsbD 1 = true ∧ t.staged = s.staged ∧ RegFrame (rejectBits page) s t := by
  obtain ⟨rejected, rejCause, rejOff, int, only, frame⟩ := reject_effect page.isLt off.isLt small first
  refine ⟨_, (exec_regWrite reaches off bytes v).trans (congrArg _ (writeReg_rejected by_ block powered refused)),
    rejected, rejCause, rejOff, int, ?_, frame⟩
  exact (congrArg State.staged only).trans rfl

/-! ## The staged quantum and SHD_APPLY as the obligation states them -/

theorem exec_writeQuantum_enabled {s : State} (dec : Fin 32) {q : Byte} (powered : s.powered (pgDEC dec) = true) (pos : q ≠ 0)
    (on : s.enabled (pgDEC dec) = true) :
    ∃ t, exec (.regWrite .henair 0 (Fin.ofNat 512 (pgDEC dec)) 0x100 8 (word q.toNat)) s = .next t ∧
      bitsOf (t.rdStaged (pgDEC dec) 0x100).toNat 7 0 = q.toNat ∧ OnlyBits noBits s { t with staged := s.staged } ∧
      ∀ k, k ≠ regKey (pgDEC dec) 0x100 →
        kget (fun k => kget resetVal t.regs k) t.staged k = kget (fun k => kget resetVal s.regs k) s.staged k :=
  ⟨_, (exec_writeQuantum s dec q powered pos).trans (congrArg _ (if_pos on)), stageQuantum_effect s (pgDEC dec) q.isLt⟩

theorem exec_writeQuantum_disabled {s : State} (dec : Fin 32) {q : Byte} (powered : s.powered (pgDEC dec) = true) (pos : q ≠ 0)
    (off : s.enabled (pgDEC dec) = false) (empty : s.staged = []) (new : q.toNat ≠ s.fld (pgDEC dec) Reg.DEC_CFG_QUANTUM) :
    ∃ t, exec (.regWrite .henair 0 (Fin.ofNat 512 (pgDEC dec)) 0x100 8 (word q.toNat)) s = .next t ∧
      t.fld (pgDEC dec) Reg.DEC_CFG_QUANTUM = q.toNat ∧ t.staged = [] ∧
      t.fld (pgDEC dec) Reg.BLK_GEN_GEN = (s.fld (pgDEC dec) Reg.BLK_GEN_GEN + 1) % 2 ^ 32 :=
  ⟨_, (exec_writeQuantum s dec q powered pos).trans (congrArg _ (if_neg (by rw [off]; decide))),
    applyStaged_stageQuantum (by unfold pgDEC; omega) q.isLt empty new⟩

theorem exec_shdApply_effect {s : State} {page : Fin 512} (block : (blockOf page).isSome = true)
    (powered : s.powered page = true) (modeOk : modeBad page 8 (s.ctrl page) = false) (on : s.enabled page = true)
    (noHold : s.bit page Reg.BLK_CTRL_SHD_HOLD = false) (noArm : s.bit page Reg.BLK_CTRL_CUE_ARM = false)
    (pend : s.shdPend page = true) (once : (s.staged.map Prod.fst).Nodup)
    (own : ∀ k v, (k, v) ∈ s.staged → 0x100 ≤ k % 0x1000) :
    ∃ t, exec (.shdApply page) s = .next t ∧ t.shdPend page = false ∧
      t.fld page Reg.BLK_GEN_GEN = (s.fld page Reg.BLK_GEN_GEN + 1) % 2 ^ 32 ∧
      t.fld page Reg.BLK_GEN_APPLY_BEAT = s.beat % 2 ^ 32 ∧ (t.rd page 0x58).getLsbD 2 = true ∧
      ∀ k v, (k, v) ∈ s.staged → (k / 0x1000 = page.val → t.rd page (k % 0x1000) = v) ∧
        (k / 0x1000 ≠ page.val → (k, v) ∈ t.staged) := by
  obtain ⟨applies, only⟩ := exec_shdApply block powered modeOk on noHold noArm
  obtain ⟨done, gen, beat, int, left, active⟩ :=
    applyStaged_effect (s := s.stored page 8 (s.ctrl page ||| 0x10)) page.isLt pend once own
  have genSame := only.2.fld (f := Reg.BLK_GEN_GEN) page.isLt (by decide) fun _ _ _ => id
  rw [genSame] at gen
  refine ⟨_, applies, done, gen, beat, int, fun k v h => ⟨active k v h, fun other => ?_⟩⟩
  rw [left]
  exact List.mem_filter.2 ⟨h, by simpa using other⟩

/-- Settles O52: each command is a write of a register of the common header, whose stored bits and action are known. -/
theorem registerCommands : Obligations.RegisterCommands := by
  unfold Obligations.RegisterCommands
  refine fun s => ⟨fun by_ port page v bytes off reaches block powered =>
      ⟨exec_regWrite_intEn reaches v block powered, fun _ refused => exec_regWrite_rejected reaches off block powered refused⟩,
    fun dec q powered pos =>
      ⟨exec_writeQuantum_enabled dec powered pos, exec_writeQuantum_disabled dec powered pos⟩,
    fun page block powered modeOk => ⟨fun _ => exec_enable block powered modeOk, ?_, exec_blockDrained, ?_,
      exec_cueArm block powered modeOk, exec_perfClear block powered, exec_perfClearAll block powered, fun on =>
      ⟨fun reached _ => exec_i3cWrite block on reached, fun addr form => ?_, exec_i3cDaa on⟩⟩⟩
  · exact fun on switched free applied plans => exec_disable block powered modeOk on switched free applied plans
  · exact fun on noHold noArm pend once own => exec_shdApply_effect block powered modeOk on noHold noArm pend once own
  · obtain ⟨length, small, aligned⟩ | ⟨rfl, small, aligned⟩ := form
    · have given : addr ≠ [] := fun h => absurd (h ▸ length) (by decide)
      exact exec_i3cRead on (.inl length) rfl ((if_neg given).trans_lt small) ((congrArg (· % 8) (if_neg given)).trans aligned)
    · exact exec_i3cRead on (.inr rfl) rfl small aligned

end Sys2Proof.Machine

namespace Sys2Proof.Machine
open Sys2Proof

/-! ## The safe state is complete (R410) -/

/-- A running or stopping plan is held, and its state noted. -/
def State.holdPlan (s : State) (p : Nat) : State :=
  if s.slotState p = 3 || s.slotState p = 4 then
    { s with flt := { s.flt with prev := kset (fun _ => 0) s.flt.prev p (s.slotState p) } }.setSlotState p 6
  else s

/-- The plans of the slots below `n` are held. -/
def State.holdPlans (s : State) (n : Nat) : State := (List.range n).foldl State.holdPlan s

/-- The safe state is noted as complete. -/
def State.noteComplete (s : State) : State := { s with flt := { s.flt with complete := true } }

theorem State.completeSafe_eq (s : State) : s.completeSafe =
    if s.flt.complete || !s.bit pgGLB Reg.GLB_STAT_SAFE then s else (s.noteComplete.holdPlans 16).raise pgGLB 3 := rfl

theorem State.holdPlans_succ (s : State) (n : Nat) : s.holdPlans (n + 1) = (s.holdPlans n).holdPlan n := by
  rw [State.holdPlans, List.range_succ, List.foldl_append]; rfl

/-- Nothing has changed but registers and the noted states of the slots. -/
def HoldsOnly (s t : State) : Prop := t = { s with regs := t.regs, flt := { s.flt with prev := t.flt.prev } }

theorem HoldsOnly.trans {s t u : State} (h : HoldsOnly s t) (h' : HoldsOnly t u) : HoldsOnly s u := by
  unfold HoldsOnly at *; rw [h', h]

theorem slotField_ok {p : Nat} (hp : p < 16) : (Reg.PLAN_P_STAT_STATE p).lo ≤ (Reg.PLAN_P_STAT_STATE p).hi ∧
    (Reg.PLAN_P_STAT_STATE p).hi < 64 ∧ (Reg.PLAN_P_STAT_STATE p).off < 0x1000 :=
  ⟨Nat.zero_le _, (by decide : 2 < 64), by simp only [Reg.PLAN_P_STAT_STATE]; omega⟩

theorem State.slotState_setSlotState_self (s : State) {p st : Nat} (hp : p < 16) (hst : st < 8) :
    (s.setSlotState p st).slotState p = st :=
  (State.fld_setFld_same _ _ _ (slotField_ok hp)).trans (Nat.mod_eq_of_lt hst)

theorem State.slotState_setSlotState_ne (s : State) {p q : Nat} (st : Nat) (hp : p < 16) (hq : q < 16) (ne : q ≠ p) :
    (s.setSlotState p st).slotState q = s.slotState q :=
  State.fld_setFld_off _ _ _ (by simp only [Reg.PLAN_P_STAT_STATE]; omega) (slotField_ok hp) (slotField_ok hq).2.2

/-- The state registers of the slots. -/
def slotBits : BitSet := fun pg off _ => pg = pgPLAN ∧ 0x200 ≤ off

theorem holdPlan_frame (s : State) {p : Nat} (hp : p < 16) : HoldsOnly s (s.holdPlan p) ∧ RegFrame slotBits s (s.holdPlan p) := by
  unfold State.holdPlan
  split
  · exact ⟨rfl, (onlyBits_setFld _ _ _ _ (slotField_ok hp)).2.mono fun _ off _ ⟨h1, h2, _⟩ =>
      ⟨h1, by simp only [Reg.PLAN_P_STAT_STATE] at h2; omega⟩⟩
  · exact ⟨rfl, fun _ _ _ _ _ _ => rfl⟩

theorem State.slotState_holdPlan (s : State) {p q : Nat} (hp : p < 16) (hq : q < 16) :
    (s.holdPlan p).slotState q = if q = p ∧ (s.slotState p = 3 ∨ s.slotState p = 4) then 6 else s.slotState q := by
  unfold State.holdPlan
  simp only [Bool.or_eq_true, decide_eq_true_eq]
  by_cases runs : s.slotState p = 3 ∨ s.slotState p = 4
  · rw [if_pos runs]
    by_cases same : q = p
    · rw [if_pos ⟨same, runs⟩, same]; exact State.slotState_setSlotState_self _ hp (by decide)
    · rw [if_neg fun h => same h.1]; exact State.slotState_setSlotState_ne _ _ hp hq same
  · rw [if_neg runs, if_neg fun h => runs h.2]

theorem State.prev_holdPlan (s : State) (p q : Nat) : kget (fun _ => 0) (s.holdPlan p).flt.prev q =
    if q = p ∧ (s.slotState p = 3 ∨ s.slotState p = 4) then s.slotState p else kget (fun _ => 0) s.flt.prev q := by
  unfold State.holdPlan
  simp only [Bool.or_eq_true, decide_eq_true_eq]
  by_cases runs : s.slotState p = 3 ∨ s.slotState p = 4
  · rw [if_pos runs]
    refine (kget_kset _ _ _ _).trans (if_congr ?_ rfl rfl)
    exact (and_iff_left runs).symm
  · rw [if_neg runs, if_neg fun h => runs h.2]

/-- What holding the plans below `n` brings about. -/
theorem holdPlans_effect (s : State) : ∀ n, n ≤ 16 → HoldsOnly s (s.holdPlans n) ∧ RegFrame slotBits s (s.holdPlans n) ∧
    ∀ q, q < 16 → ((s.holdPlans n).slotState q = if q < n ∧ (s.slotState q = 3 ∨ s.slotState q = 4) then 6 else s.slotState q) ∧
      (q < n → s.slotState q = 3 ∨ s.slotState q = 4 → kget (fun _ => 0) (s.holdPlans n).flt.prev q = s.slotState q)
  | 0, _ => ⟨rfl, fun _ _ _ _ _ _ => rfl, fun _ _ => ⟨rfl, nofun⟩⟩
  | n + 1, h => by
    obtain ⟨only, frame, held⟩ := holdPlans_effect s n (by omega)
    obtain ⟨only', frame'⟩ := holdPlan_frame (s.holdPlans n) (p := n) (by omega)
    have fresh : (s.holdPlans n).slotState n = s.slotState n := by
      rw [(held n (by omega)).1, if_neg fun h => absurd h.1 (lt_irrefl n)]
    rw [State.holdPlans_succ]
    refine ⟨only.trans only', (frame.trans frame').mono fun _ _ _ h => h.elim id id, fun q hq => ?_⟩
    obtain ⟨state, noted⟩ := held q hq
    rw [State.slotState_holdPlan _ (by omega) hq, State.prev_holdPlan, fresh]
    by_cases last : q = n
    · subst last
      by_cases runs : s.slotState q = 3 ∨ s.slotState q = 4
      · rw [if_pos ⟨rfl, runs⟩, if_pos ⟨Nat.lt_succ_self q, runs⟩, if_pos ⟨rfl, runs⟩]; exact ⟨rfl, fun _ _ => rfl⟩
      · rw [if_neg fun h => runs h.2, if_neg fun h => runs h.2]; exact ⟨fresh, fun _ h => absurd h runs⟩
    · have apart : ¬ (q = n ∧ (s.slotState n = 3 ∨ s.slotState n = 4)) := fun h => last h.1
      rw [if_neg apart, if_neg apart, state]
      exact ⟨if_congr (and_congr_left' (by omega)) rfl rfl, fun hn => noted (by omega)⟩

/-- SAFE_STATE_COMPLETE holds the plans that run or stop. -/
theorem exec_safeStateComplete {s : State} (open_ : s.flt.complete = false) (safe : s.bit pgGLB Reg.GLB_STAT_SAFE = true) :
    ∃ t, exec .safeStateComplete s = .next t ∧ t.flt.complete = true ∧ (t.rd pgGLB 0x58).getLsbD 3 = true ∧
      (∀ p, p < 16 → t.slotState p = if s.slotState p = 3 ∨ s.slotState p = 4 then 6 else s.slotState p) ∧
      (∀ p, p < 16 → s.slotState p = 3 ∨ s.slotState p = 4 → kget (fun _ => 0) t.flt.prev p = s.slotState p) ∧
      t.mem = s.mem ∧ t.slots = s.slots := by
  obtain ⟨only, _, held⟩ := holdPlans_effect s.noteComplete 16 (le_refl _)
  have completes : s.completeSafe = (s.noteComplete.holdPlans 16).raise pgGLB 3 := by
    rw [State.completeSafe_eq, open_, safe]; rfl
  have ints := intsOnly_raise (s.noteComplete.holdPlans 16) pgGLB 3
  have frame := regFrame_raise (s.noteComplete.holdPlans 16) pgGLB (b := 3) (by decide)
  have flt : ((s.noteComplete.holdPlans 16).raise pgGLB 3).flt = (s.noteComplete.holdPlans 16).flt :=
    (congrArg State.flt ints).trans rfl
  refine ⟨_, congrArg Host.Outcome.next completes, ?_, State.raise_sets _ _ (by decide), fun p hp => ?_, fun p hp runs => ?_, ?_, ?_⟩
  · rw [flt]; exact (congrArg (fun t : State => t.flt.complete) only).trans rfl
  · refine (frame.fld (f := Reg.PLAN_P_STAT_STATE p) (by decide) (slotField_ok hp).2.2 fun i _ _ h => absurd h.1 (by decide)).trans ?_
    exact (held p hp).1.trans (if_congr (and_iff_right hp) rfl rfl)
  · rw [flt]; exact (held p hp).2 hp runs
  · exact ((congrArg State.mem ints).trans rfl).trans ((congrArg State.mem only).trans rfl)
  · exact ((congrArg State.slots ints).trans rfl).trans ((congrArg State.slots only).trans rfl)

end Sys2Proof.Machine

namespace Sys2Proof.Machine
open Sys2Proof

/-! ## The fence registers (R427) -/

/-- Without what occurs again, nothing occurs twice. -/
theorem nodup_eraseDups {α : Type} [DecidableEq α] : ∀ l : List α, l.eraseDups.Nodup
  | [] => List.nodup_nil
  | a :: l => by
    rw [List.eraseDups_cons, List.nodup_cons, List.mem_eraseDups, List.mem_filter]
    exact ⟨by simp, nodup_eraseDups _⟩
termination_by l => l.length
decreasing_by exact Nat.lt_succ_of_le (List.length_filter_le _ _)

/-- The number with the bits of a list. -/
def bitSum (l : List Nat) (m : Nat) : Nat := l.foldl (fun m b => m + 2 ^ b) m

theorem testBit_bitSum (i : Nat) : ∀ (l : List Nat) (m : Nat), l.Nodup → (∀ b ∈ l, m.testBit b = false) →
    ((bitSum l m).testBit i = true ↔ m.testBit i = true ∨ i ∈ l)
  | [], m, _, _ => by simp [bitSum]
  | b :: l, m, once, free => by
    obtain ⟨new, once⟩ := List.nodup_cons.1 once
    have add : ∀ j, (m + 2 ^ b).testBit j = (m.testBit j || decide (b = j)) := fun j => by
      rw [testBit_add_disjoint _ fun k hk => ?_, Nat.testBit_two_pow]
      rw [Nat.testBit_two_pow, decide_eq_true_eq] at hk
      rw [← hk.2, free b List.mem_cons_self] at hk
      exact absurd hk.1 Bool.false_ne_true
    have step := testBit_bitSum i l (m + 2 ^ b) once fun c hc => by
      have ne : b ≠ c := fun h => new (h ▸ hc)
      rw [add, free c (List.mem_cons_of_mem _ hc), decide_eq_false ne]; rfl
    refine step.trans ?_
    rw [add, Bool.or_eq_true, decide_eq_true_eq, List.mem_cons, or_assoc, eq_comm (a := b)]

/-- Registers of a page written one after the other. -/
def State.wrAll (s : State) (page : Nat) (f : Nat → Word) (offs : List Nat) : State :=
  offs.foldl (fun (s : State) off => s.wr page off (f off)) s

theorem State.rd_wrAll_mem {page : Nat} {f : Nat → Word} {off : Nat} (offs : List Nat) (h : off ∈ offs) :
    (∀ o ∈ offs, o < 0x1000) → ∀ s : State, (s.wrAll page f offs).rd page off = f off := by
  induction offs with
  | nil => exact absurd h List.not_mem_nil
  | cons o offs ih =>
    intro small s
    by_cases later : off ∈ offs
    · exact ih later (fun o h => small o (List.mem_cons_of_mem _ h)) _
    · obtain rfl := (List.mem_cons.1 h).resolve_right later
      have kept : ∀ s : State, (s.wrAll page f offs).rd page off = s.rd page off := by
        have ho := small off List.mem_cons_self
        have small' : ∀ o ∈ offs, o < 0x1000 := fun o h => small o (List.mem_cons_of_mem _ h)
        clear ih small h
        induction offs with
        | nil => exact fun _ => rfl
        | cons o offs ih =>
          rw [List.mem_cons, not_or] at later
          exact fun s => (ih later.2 (fun o h => small' o (List.mem_cons_of_mem _ h)) _).trans
            (State.rd_wr_ne _ _ (small' o List.mem_cons_self) ho fun h => later.1 h.2)
      exact (kept _).trans (State.rd_wr_self _ _ _ _)

/-- Offsets of the DBG_FENCE registers. -/
def fenceOffs : List Nat := [0x120, 0x128, 0x130, 0x138, 0x140, 0x148]

/-- The bits that show units and their parts. -/
def fenceMarks (us : List FUnit) : List (Nat × Nat) := (us.flatMap fun u => u :: u.parts).filterMap FUnit.ownBit

/-- The value of a fence register that shows units. -/
def fenceWord (us : List FUnit) (off : Nat) : Word :=
  word (bitSum (((fenceMarks us).filter fun b => b.1 == off).map Prod.snd).eraseDups 0)

theorem State.showFence_eq (s : State) (us : List FUnit) :
    s.showFence us = s.wrAll pgDBG (fenceWord (s.flt.fenced ++ us)) fenceOffs := rfl

/-- The bits of the fence registers. -/
def fenceBits : BitSet := fun p o _ => p = pgDBG ∧ 0x120 ≤ o ∧ o ≤ 0x148

theorem onlyBits_showFence (s : State) (us : List FUnit) : OnlyBits fenceBits s (s.showFence us) := by
  have range : ∀ off ∈ fenceOffs, 0x120 ≤ off ∧ off ≤ 0x148 := by decide
  exact onlyBits_foldl _ (fun s off h => (onlyBits_wr s pgDBG off _ (by have := range off h; omega)).mono
    fun _ _ _ ⟨h1, h2⟩ => ⟨h1, h2 ▸ range off h⟩) s

/-- The number of units of a kind bounds their numbers. -/
def FUnit.InRange : FUnit → Prop
  | .tile n => n < 64
  | .quad n | .stw n | .cmp n => n < 16
  | .dec n | .bell n => n < 32
  | .port n | .stack n => n < 4
  | .channel n => n < 128
  | .half n => n < 2
  | .module n => n < 12
  | .link n => n < 3
  | .page _ => True

/-- A unit that exists has its bit in one of the fence registers. -/
theorem FUnit.ownBit_inRange {u : FUnit} (h : u.InRange) {off b : Nat} (own : u.ownBit = some (off, b)) :
    off ∈ fenceOffs ∧ b < 64 := by
  have offs : ∀ x, x ∈ fenceOffs ↔ x = 0x120 ∨ x = 0x128 ∨ x = 0x130 ∨ x = 0x138 ∨ x = 0x140 ∨ x = 0x148 := by
    simp [fenceOffs]
  rw [offs]
  cases u <;> simp only [FUnit.ownBit, Option.some.injEq, Prod.mk.injEq, reduceCtorEq] at own <;>
    simp only [FUnit.InRange] at h <;> omega

theorem FUnit.shown_showFence (s : State) {us : List FUnit} {u : FUnit} (mem : u ∈ us) (inRange : u.InRange)
    (marked : u.ownBit ≠ none) : (s.showFence us).shown u = true := by
  obtain ⟨⟨off, b⟩, own⟩ := Option.ne_none_iff_exists'.1 marked
  obtain ⟨hoff, hb⟩ := u.ownBit_inRange inRange own
  have small : ∀ o ∈ fenceOffs, o < 0x1000 := by decide
  have mark : (off, b) ∈ fenceMarks (s.flt.fenced ++ us) :=
    List.mem_filterMap.2 ⟨u, List.mem_flatMap.2 ⟨u, List.mem_append_right _ mem, List.mem_cons_self⟩, own⟩
  have bit : (fenceWord (s.flt.fenced ++ us) off).getLsbD b = true := by
    rw [fenceWord, getLsbD_word, decide_eq_true hb, Bool.true_and,
      testBit_bitSum b _ 0 (nodup_eraseDups _) fun _ _ => Nat.zero_testBit _, List.mem_eraseDups]
    exact .inr (List.mem_map.2 ⟨_, List.mem_filter.2 ⟨mark, beq_self_eq_true _⟩, rfl⟩)
  rw [← State.rd_wrAll_mem (page := pgDBG) (f := fenceWord (s.flt.fenced ++ us)) fenceOffs hoff small s,
    ← State.showFence_eq] at bit
  rw [State.shown, own]
  exact beq_iff_eq.2 ((bitsOf_self_eq_one _ _).2 bit)

/-- A unit's bit is as it was where the fence registers are left alone. -/
theorem FUnit.shown_of_frame {s t : State} {p : BitSet} {u : FUnit} (inRange : u.InRange) (h : RegFrame p s t)
    (free : ∀ off ∈ fenceOffs, ∀ i, ¬ p pgDBG off i) : t.shown u = s.shown u := by
  have small : ∀ o ∈ fenceOffs, o < 0x1000 := by decide
  unfold State.shown
  split
  case h_1 off b own =>
    obtain ⟨hoff, _⟩ := u.ownBit_inRange inRange own
    exact congrArg (· == 1) (bitsOf_congr fun i _ _ => h pgDBG off i (by decide) (small off hoff) (free off hoff i))
  case h_2 => rfl

/-! ## The units that a signal names exist -/

theorem instanceOf_lt {page : Nat} {b : Block} (h : blockOf page = some b) : instanceOf page < b.pages.2 := by
  have inside := List.find?_some h
  rw [Bool.and_eq_true, decide_eq_true_eq, decide_eq_true_eq] at inside
  rw [instanceOf, h]
  show page - b.pages.1 < b.pages.2
  omega

theorem unitOfPage_inRange {page : Nat} {u : FUnit} (h : u ∈ unitOfPage page) : u.InRange := by
  unfold unitOfPage at h
  split at h
  case h_10 => exact absurd h List.not_mem_nil
  all_goals
    rename_i hb
    obtain rfl := List.mem_singleton.1 h
    exact instanceOf_lt hb

theorem missingUnits_inRange {m : Nat} {u : FUnit} (h : u ∈ missingUnits m) : u.InRange := by
  rcases List.mem_append.1 h with h | h <;> obtain ⟨n, hn, rfl⟩ := List.mem_map.1 h <;>
    exact List.mem_range.1 (List.mem_of_mem_filter hn)

theorem carillonUnits_inRange {u : FUnit} (h : u ∈ carillonUnits) : u.InRange := by
  rcases List.mem_cons.1 h with rfl | h
  · trivial
  · rcases List.mem_append.1 h with h | h <;> obtain ⟨n, hn, rfl⟩ := List.mem_map.1 h <;> exact List.mem_range.1 hn

theorem domainUnits_inRange {d : Nat} {u : FUnit} (h : u ∈ domainUnits d) : u.InRange := by
  unfold domainUnits at h
  split at h
  case isTrue small => obtain rfl := List.mem_singleton.1 h; exact small
  split at h
  case isTrue => obtain ⟨n, hn, rfl⟩ := List.mem_map.1 h; exact List.mem_range.1 hn
  split at h
  case isTrue => exact carillonUnits_inRange h
  case isFalse => obtain rfl := List.mem_singleton.1 h; exact Nat.mod_lt _ (by decide)

/-- A list of one unit. -/
theorem inRange_of_mem_singleton {u v : FUnit} (h : u ∈ [v]) (hv : v.InRange) : u.InRange := List.mem_singleton.1 h ▸ hv

theorem unitsOf_inRange {page src arg : Nat} {u : FUnit} (h : u ∈ unitsOf page src arg) : u.InRange := by
  have four : arg % 4 < 4 := Nat.mod_lt _ (by decide)
  have lane : arg % 32 < 32 := Nat.mod_lt _ (by decide)
  unfold unitsOf at h
  split at h
  case h_1 hb | h_2 hb | h_3 hb | h_4 hb | h_6 hb | h_7 hb | h_9 hb => exact inRange_of_mem_singleton h (instanceOf_lt hb)
  case h_5 =>
    split at h
    · exact inRange_of_mem_singleton h four
    split at h
    · exact inRange_of_mem_singleton h lane
    · exact carillonUnits_inRange h
  case h_8 hb =>
    have stack : instanceOf page < 4 := instanceOf_lt hb
    split at h
    · exact inRange_of_mem_singleton h (show 32 * instanceOf page + arg % 32 < 128 by omega)
    · exact inRange_of_mem_singleton h stack
  case h_10 =>
    split at h
    · exact inRange_of_mem_singleton h (Nat.mod_lt _ (by decide) : arg % 2 < 2)
    · exact inRange_of_mem_singleton h trivial
  case h_11 hb =>
    have link : instanceOf page < 3 := instanceOf_lt hb
    split at h
    · exact inRange_of_mem_singleton h (show 4 * instanceOf page + arg % 4 < 12 by omega)
    split at h
    · exact inRange_of_mem_singleton h trivial
    · exact inRange_of_mem_singleton h link
  case h_12 =>
    split at h
    · exact inRange_of_mem_singleton h (Nat.mod_lt _ (by decide) : arg % 16 < 16)
    · exact inRange_of_mem_singleton h trivial
  case h_13 =>
    split at h
    · exact unitOfPage_inRange h
    · exact inRange_of_mem_singleton h trivial
  case h_14 =>
    split at h
    · exact missingUnits_inRange h
    · exact inRange_of_mem_singleton h trivial
  case h_15 =>
    split at h
    · split at h
      case isTrue small => exact inRange_of_mem_singleton h small
      case isFalse => exact inRange_of_mem_singleton h (Nat.mod_lt _ (by decide) : (arg - 4) % 3 < 3)
    · exact inRange_of_mem_singleton h trivial
  case h_16 =>
    split at h
    · exact domainUnits_inRange h
    · exact inRange_of_mem_singleton h trivial
  case h_17 => exact inRange_of_mem_singleton h trivial
  case h_18 => exact absurd h List.not_mem_nil

/-- The candidates are units that exist. -/
theorem cands_inRange {f : Flt} {c : Cand} (h : c ∈ f.cands) : c.unit.InRange := by
  obtain ⟨⟨page, src, arg⟩, _, h⟩ := List.mem_flatMap.1 h
  dsimp only at h
  split at h
  case h_1 => exact absurd h List.not_mem_nil
  case h_2 =>
    obtain ⟨u, hu, rfl⟩ := List.mem_map.1 h
    exact unitsOf_inRange (List.mem_of_mem_filter hu)

/-! ## Short commands of the sequencer -/

/-- What completing the safe state leaves alone, whichever slots it holds. -/
structure Completes (s t : State) : Prop where
  frame : RegFrame (BitSet.or slotBits (intBit pgGLB 3)) s t
  signals : t.flt.signals = s.flt.signals
  fenced : t.flt.fenced = s.flt.fenced
  bootFenced : t.flt.bootFenced = s.flt.bootFenced
  assist : t.flt.assist = s.flt.assist
  releasing : t.flt.releasing = s.flt.releasing
  fatal : t.flt.fatal = s.flt.fatal
  beat : t.beat = s.beat
  link : t.link = { s.link with msixPend := t.link.msixPend }
  rings : t.rings = s.rings
  sec : t.sec = s.sec

theorem Completes.refl (s : State) : Completes s s := ⟨fun _ _ _ _ _ _ => rfl, rfl, rfl, rfl, rfl, rfl, rfl, rfl, rfl, rfl, rfl⟩

theorem Completes.of_holds {s t u : State} (frame : RegFrame (BitSet.or slotBits (intBit pgGLB 3)) s u)
    (h : HoldsOnly s.noteComplete t) (h' : IntsOnly t u) : Completes s u := by
  unfold HoldsOnly IntsOnly at *
  rw [h', h]
  exact ⟨frame, rfl, rfl, rfl, rfl, rfl, rfl, rfl, rfl, rfl, rfl⟩

theorem completes (s : State) : Completes s s.completeSafe := by
  rw [State.completeSafe_eq]
  split
  · exact Completes.refl s
  · obtain ⟨only, frame, _⟩ := holdPlans_effect s.noteComplete 16 (le_refl _)
    exact .of_holds (frame.trans (regFrame_raise _ _ (by decide))) only (intsOnly_raise _ _ _)

theorem Completes.cands {s t : State} (h : Completes s t) : t.flt.cands = s.flt.cands := by
  unfold Flt.cands Flt.gone
  rw [h.signals, h.fenced, h.bootFenced]

/-- The fault waits for the host with its candidates shown. -/
def State.propose (s : State) : State :=
  ((s.showFence (s.flt.cands.map Cand.unit)).setFld pgDBG Reg.DBG_FLT_STATE 2).raise pgGLB 6

theorem propose_effect (s : State) : s.propose.fltState = 2 ∧ (s.propose.rd pgGLB 0x58).getLsbD 6 = true ∧
    IntsOnly s s.propose ∧ ∀ c ∈ s.flt.cands, c.unit.ownBit ≠ none → s.propose.shown c.unit = true := by
  have ok : Reg.DBG_FLT_STATE.ok := ⟨by decide, by decide, by decide⟩
  have shows := onlyBits_showFence s (s.flt.cands.map Cand.unit)
  have marks : ∀ c ∈ s.flt.cands, c.unit.ownBit ≠ none → (s.showFence (s.flt.cands.map Cand.unit)).shown c.unit = true :=
    fun c hc => FUnit.shown_showFence s (List.mem_map_of_mem hc) (cands_inRange hc)
  unfold State.propose
  generalize s.showFence (s.flt.cands.map Cand.unit) = u at *
  have state := onlyBits_setFld u pgDBG Reg.DBG_FLT_STATE 2 ok
  have set := State.fld_setFld_same u pgDBG 2 ok
  generalize u.setFld pgDBG Reg.DBG_FLT_STATE 2 = v at *
  have raised := regFrame_raise v pgGLB (b := 6) (by decide)
  refine ⟨(raised.fld (by decide) (by decide) fun i _ _ h => absurd h.1 (by decide)).trans set, State.raise_sets _ _ (by decide),
    (shows.1.trans state.1).intsOnly.trans (intsOnly_raise _ _ _), fun c hc own => ?_⟩
  have frame := state.2.trans raised
  rw [FUnit.shown_of_frame (cands_inRange hc) frame, marks c hc own]
  rintro off hoff i (⟨_, h, _⟩ | ⟨h, _⟩)
  · rw [h] at hoff; exact absurd hoff (by decide)
  · exact absurd h (by decide)

/-- BEAT has come to a beat. -/
def State.reached (s : State) (b : Nat) : State := { s with beat := max s.beat b }

/-- The quiet period's end, once the safe state is complete. -/
def State.quietEnded (s : State) (env : RecovEnv) : State :=
  if s.flt.releasing && s.fatalHolds env then { s with flt := { s.flt with releasing := false } }.goDown
  else if s.flt.assist then s.propose
  else
    let r := (s.setFld pgDBG Reg.DBG_FLT_STATE 3).runTests s.flt.cands env
    r.1.recover r.2.1 r.2.2 env

theorem execQuietEnd_eq {s : State} (env : RecovEnv) (quiet : s.fltState = 1) (counting : s.beatOn = true) :
    execQuietEnd env s = .next ((s.reached (s.fld pgDBG Reg.DBG_QUIET_END_BEAT)).completeSafe.quietEnded env) :=
  congrArg Host.Outcome.next ((if_neg (by rw [quiet]; decide)).trans (if_pos counting))

theorem State.quietEnded_assist {s : State} (env : RecovEnv) (assist : s.flt.assist = true) (normal : s.flt.releasing = false) :
    s.quietEnded env = s.propose := by
  rw [State.quietEnded, normal, Bool.false_and, if_neg Bool.false_ne_true, if_pos assist]

theorem IntsOnly.kept {s t : State} (h : IntsOnly s t) : t.beat = s.beat ∧ t.link.gateClosed = s.link.gateClosed := by
  unfold IntsOnly at h
  rw [h]
  exact ⟨rfl, rfl⟩

/-- The end of a quiet period in 1 ASSIST shows the candidates and waits for the host (R422). -/
theorem exec_quietEnd_assist {s : State} (env : RecovEnv) (quiet : s.fltState = 1) (counting : s.beatOn = true)
    (assist : s.flt.assist = true) (normal : s.flt.releasing = false) :
    ∃ t, exec (.quietEnd env) s = .next t ∧ t.fltState = 2 ∧ (t.rd pgGLB 0x58).getLsbD 6 = true ∧
      t.beat = max s.beat (s.fld pgDBG Reg.DBG_QUIET_END_BEAT) ∧ t.link.gateClosed = s.link.gateClosed ∧
      ∀ c ∈ s.flt.cands, c.unit.ownBit ≠ none → t.shown c.unit = true := by
  have runs := execQuietEnd_eq env quiet counting
  have same := completes (s.reached (s.fld pgDBG Reg.DBG_QUIET_END_BEAT))
  rw [State.quietEnded_assist env (same.assist.trans assist) (same.releasing.trans normal)] at runs
  generalize (s.reached (s.fld pgDBG Reg.DBG_QUIET_END_BEAT)).completeSafe = u at runs same
  obtain ⟨state, int, only, shown⟩ := propose_effect u
  obtain ⟨beat, gate⟩ := only.kept
  refine ⟨_, runs, state, int, beat.trans same.beat, gate.trans ((congrArg Link.gateClosed same.link).trans rfl), fun c hc => ?_⟩
  exact shown c (same.cands ▸ hc)

/-- RELEASE: DOWN and the count of the hour are cleared. -/
def State.clearDown (s : State) : State := (s.setBit pgGLB Reg.GLB_STAT_DOWN false).setFld pgGLB Reg.GLB_RECOV_IN_HOUR 0

/-- RELEASE: its quiet period, of a length in beats, begins. -/
def State.beginQuiet (s : State) (beats : Nat) : State :=
  ((s.setFld pgDBG Reg.DBG_FLT_STATE 1).setFld pgDBG Reg.DBG_FLT_RESTARTS 0).setFld pgDBG Reg.DBG_QUIET_END_BEAT
    (s.beat + beats)

/-- The quiet period is one of a RELEASE. -/
def State.releases (s : State) : State := { s with flt := { s.flt with releasing := true } }

/-- The quiet period has a length in beats. -/
def State.quietFor (s : State) (beats : Nat) : State := { s with flt := { s.flt with quiet := beats } }

theorem State.startQuiet_zero (s : State) : s.startQuiet 0 = (s.quietFor s.quietBeats).beginQuiet s.quietBeats := by
  unfold State.startQuiet
  generalize s.quietBeats = n
  rfl

theorem clearDown_effect (s : State) : s.clearDown.bit pgGLB Reg.GLB_STAT_DOWN = false ∧
    s.clearDown.fld pgGLB Reg.GLB_RECOV_IN_HOUR = 0 ∧
      OnlyBits ((Reg.GLB_STAT_DOWN.bits pgGLB).or (Reg.GLB_RECOV_IN_HOUR.bits pgGLB)) s s.clearDown := by
  have down : Reg.GLB_STAT_DOWN.ok := ⟨by decide, by decide, by decide⟩
  have hour : Reg.GLB_RECOV_IN_HOUR.ok := ⟨by decide, by decide, by decide⟩
  refine ⟨?_, State.fld_setFld_same _ _ _ hour, (onlyBits_setBit s _ _ _ down).trans (onlyBits_setFld _ _ _ _ hour)⟩
  exact (congrArg (· == 1) (State.fld_setFld_off _ _ _ (by decide) hour (by decide))).trans
    (State.bit_setBit_self _ _ _ _ down rfl)

theorem beginQuiet_effect (s : State) (beats : Nat) : (s.beginQuiet beats).fltState = 1 ∧
    (s.beginQuiet beats).fld pgDBG Reg.DBG_QUIET_END_BEAT = (s.beat + beats) % 2 ^ 64 ∧
      OnlyBits ((Reg.DBG_FLT_STATE.bits pgDBG).or ((Reg.DBG_FLT_RESTARTS.bits pgDBG).or (Reg.DBG_QUIET_END_BEAT.bits pgDBG)))
        s (s.beginQuiet beats) := by
  have state : Reg.DBG_FLT_STATE.ok := ⟨by decide, by decide, by decide⟩
  have restarts : Reg.DBG_FLT_RESTARTS.ok := ⟨by decide, by decide, by decide⟩
  have quietEnd : Reg.DBG_QUIET_END_BEAT.ok := ⟨by decide, by decide, by decide⟩
  refine ⟨?_, State.fld_setFld_same _ _ _ quietEnd,
    (onlyBits_setFld s _ _ _ state).trans ((onlyBits_setFld _ _ _ _ restarts).trans (onlyBits_setFld _ _ _ _ quietEnd))⟩
  refine (State.fld_setFld_off _ _ _ (by decide) quietEnd (by decide)).trans ?_
  exact (State.fld_setFld_bits _ _ _ (by decide) restarts (by decide)).trans (State.fld_setFld_same _ _ _ state)

theorem regFrame_of_rd {p : BitSet} {s t u : State} (h : RegFrame p s t) (same : ∀ page off, u.rd page off = t.rd page off) :
    RegFrame p s u := fun page off i hp ho hn => by rw [same]; exact h page off i hp ho hn

theorem State.fld_of_rd {s t : State} (same : ∀ page off, t.rd page off = s.rd page off) (page : Nat) (f : Fld) :
    t.fld page f = s.fld page f := congrArg (fun w : Word => bitsOf w.toNat f.hi f.lo) (same page f.off)

/-- The state in which the quiet period of a RELEASE begins. -/
def State.releaseFor (s : State) (beats : Nat) : State := s.releases.quietFor beats

theorem State.rd_releases (s : State) (page off : Nat) : s.releases.rd page off = s.rd page off := rfl
theorem State.rd_releaseFor (s : State) (beats page off : Nat) : (s.releaseFor beats).rd page off = s.rd page off := rfl
theorem State.beat_releaseFor (s : State) (beats : Nat) : (s.releaseFor beats).beat = s.beat := rfl

theorem RegsOnly.beat {s t : State} (h : RegsOnly s t) : t.beat = s.beat := by
  unfold RegsOnly at h
  rw [h]

theorem RegsOnly.releaseFor {s t u : State} {beats : Nat} (h : RegsOnly s t) (h' : RegsOnly (t.releaseFor beats) u) :
    u = { s with regs := u.regs, flt := { s.flt with releasing := true, quiet := u.flt.quiet } } := by
  unfold RegsOnly at *
  rw [h', State.releaseFor, State.quietFor, State.releases, h]

theorem execRelease_down {s : State} (down : s.bit pgGLB Reg.GLB_STAT_DOWN = true) :
    execRelease s = .next (s.clearDown.releases.startQuiet 0) :=
  congrArg Host.Outcome.next (if_neg (by rw [down]; decide))

/-- What the start of the quiet period adds to the end of DOWN. -/
theorem releaseFor_effect {s u : State} (n : Nat) (up : u.bit pgGLB Reg.GLB_STAT_DOWN = false)
    (hour : u.fld pgGLB Reg.GLB_RECOV_IN_HOUR = 0)
    (only : OnlyBits ((Reg.GLB_STAT_DOWN.bits pgGLB).or (Reg.GLB_RECOV_IN_HOUR.bits pgGLB)) s u) :
    let t := (u.releaseFor n).beginQuiet n
    t.bit pgGLB Reg.GLB_STAT_DOWN = false ∧ t.fld pgGLB Reg.GLB_RECOV_IN_HOUR = 0 ∧
      t.fltState = 1 ∧ t.fld pgDBG Reg.DBG_QUIET_END_BEAT = (s.beat + n) % 2 ^ 64 ∧
      t = { s with regs := t.regs, flt := { s.flt with releasing := true, quiet := t.flt.quiet } } ∧
      RegFrame ((Reg.GLB_STAT_DOWN.bits pgGLB).or ((Reg.GLB_RECOV_IN_HOUR.bits pgGLB).or ((Reg.DBG_FLT_STATE.bits pgDBG).or
        ((Reg.DBG_FLT_RESTARTS.bits pgDBG).or (Reg.DBG_QUIET_END_BEAT.bits pgDBG))))) s t := by
  obtain ⟨state, quietEnd, begins⟩ := beginQuiet_effect (u.releaseFor n) n
  rw [State.beat_releaseFor, only.1.beat] at quietEnd
  refine ⟨?_, ?_, state, quietEnd, only.1.releaseFor begins.1,
    ((regFrame_of_rd only.2 (u.rd_releaseFor n)).trans begins.2).mono fun _ _ _ h => or_assoc.1 h⟩
  · refine (congrArg (· == 1) (begins.2.fld (f := Reg.GLB_STAT_DOWN) (by decide) (by decide) fun i _ _ h => ?_)).trans up
    rcases h with ⟨h, _⟩ | ⟨h, _⟩ | ⟨h, _⟩ <;> exact absurd h (by decide)
  · refine (begins.2.fld (f := Reg.GLB_RECOV_IN_HOUR) (by decide) (by decide) fun i _ _ h => ?_).trans hour
    rcases h with ⟨h, _⟩ | ⟨h, _⟩ | ⟨h, _⟩ <;> exact absurd h (by decide)

/-- RELEASE ends DOWN and starts a quiet period (R421). -/
theorem exec_release {s : State} (down : s.bit pgGLB Reg.GLB_STAT_DOWN = true) :
    ∃ t, exec .release s = .next t ∧ t.bit pgGLB Reg.GLB_STAT_DOWN = false ∧ t.fld pgGLB Reg.GLB_RECOV_IN_HOUR = 0 ∧
      t.fltState = 1 ∧ t.fld pgDBG Reg.DBG_QUIET_END_BEAT = (s.beat + s.fld pgGLB Reg.GLB_FLT_QUIET_MS * 700000) % 2 ^ 64 ∧
      t = { s with regs := t.regs, flt := { s.flt with releasing := true, quiet := t.flt.quiet } } ∧
      RegFrame ((Reg.GLB_STAT_DOWN.bits pgGLB).or ((Reg.GLB_RECOV_IN_HOUR.bits pgGLB).or ((Reg.DBG_FLT_STATE.bits pgDBG).or
        ((Reg.DBG_FLT_RESTARTS.bits pgDBG).or (Reg.DBG_QUIET_END_BEAT.bits pgDBG))))) s t := by
  obtain ⟨up, hour, only⟩ := clearDown_effect s
  have length : s.clearDown.fld pgGLB Reg.GLB_FLT_QUIET_MS = s.fld pgGLB Reg.GLB_FLT_QUIET_MS :=
    only.2.fld (by decide) (by decide) fun i _ _ h => by
      rcases h with ⟨_, h, _⟩ | ⟨_, h, _⟩
      · exact absurd h (by decide)
      · exact absurd h (by decide)
  have runs := execRelease_down down
  rw [State.startQuiet_zero, State.quietBeats, State.fld_of_rd s.clearDown.rd_releases, length] at runs
  exact ⟨_, runs, releaseFor_effect _ up hour only⟩

/-- A recovery leaves the hour. -/
theorem exec_inHourExpire (s : State) : ∃ t, exec .inHourExpire s = .next t ∧
    t.fld pgGLB Reg.GLB_RECOV_IN_HOUR = s.fld pgGLB Reg.GLB_RECOV_IN_HOUR - 1 ∧
      OnlyBits (Reg.GLB_RECOV_IN_HOUR.bits pgGLB) s t := by
  have ok : Reg.GLB_RECOV_IN_HOUR.ok := ⟨by decide, by decide, by decide⟩
  exact ⟨_, rfl, State.fld_setFld_fits _ _ ok ((Nat.sub_le _ _).trans_lt (s.fld_lt _ _)), onlyBits_setFld _ _ _ _ ok⟩

/-- STACK and INSTR of an IEEE 1500 instruction. -/
def State.setInstr (s : State) (stack instr : Nat) : State :=
  (s.setFld pgDBG Reg.DBG_1500_STACK stack).setFld pgDBG Reg.DBG_1500_INSTR instr

/-- The instruction shifts out a free value. -/
def State.shiftOut (s : State) : State := s.fresh.2.wr pgDBG Reg.DBG_1500_DATA_DATA.off (word s.fresh.1)

theorem setInstr_effect (s : State) {stack instr : Nat} (hs : stack < 2 ^ 2) (hi : instr < 2 ^ 8) :
    (s.setInstr stack instr).fld pgDBG Reg.DBG_1500_STACK = stack ∧
      (s.setInstr stack instr).fld pgDBG Reg.DBG_1500_INSTR = instr ∧
      OnlyBits ((Reg.DBG_1500_STACK.bits pgDBG).or (Reg.DBG_1500_INSTR.bits pgDBG)) s (s.setInstr stack instr) := by
  have okStack : Reg.DBG_1500_STACK.ok := ⟨by decide, by decide, by decide⟩
  have okInstr : Reg.DBG_1500_INSTR.ok := ⟨by decide, by decide, by decide⟩
  refine ⟨?_, State.fld_setFld_fits _ _ okInstr hi, (onlyBits_setFld _ _ _ _ okStack).trans (onlyBits_setFld _ _ _ _ okInstr)⟩
  exact (State.fld_setFld_bits _ _ _ (by decide) okInstr (by decide)).trans (State.fld_setFld_fits _ _ okStack hs)

theorem shiftOut_effect (s : State) : s.shiftOut = { s with regs := s.shiftOut.regs, free := s.free + 1 } ∧
    RegFrame (Reg.DBG_1500_DATA_DATA.bits pgDBG) s s.shiftOut := by
  unfold State.shiftOut
  generalize word s.fresh.1 = w
  refine ⟨rfl, fun p off i hp ho hn => ?_⟩
  rw [State.getLsbD_rd_wr _ _ (by decide) ho]
  split
  case isTrue h =>
    have high : 64 ≤ i := by
      by_contra low
      exact hn ⟨h.1, h.2, Nat.zero_le _, Nat.le_of_lt_succ (Nat.lt_of_not_le low)⟩
    rw [BitVec.getLsbD_of_ge _ _ high, BitVec.getLsbD_of_ge _ _ high]
  case isFalse => rfl

theorem RegsOnly.shiftOut {s t u : State} (h : RegsOnly s t) (h' : u = { t with regs := u.regs, free := t.free + 1 }) :
    u = { s with regs := u.regs, free := s.free + 1 } := by
  unfold RegsOnly at h
  rw [h', h]

/-- An IEEE 1500 instruction for a stack whose controller is disabled (R427). -/
theorem exec_dbg1500Go {s : State} {stack : Fin 4} (instr : Byte) (off : s.enabled (pgHMC stack) = false) :
    ∃ t, exec (.dbg1500Go stack instr) s = .next t ∧ t.fld pgDBG Reg.DBG_1500_STACK = stack ∧
      t.fld pgDBG Reg.DBG_1500_INSTR = instr.toNat ∧ t = { s with regs := t.regs, free := s.free + 1 } ∧
      RegFrame ((Reg.DBG_1500_STACK.bits pgDBG).or
        ((Reg.DBG_1500_INSTR.bits pgDBG).or (Reg.DBG_1500_DATA_DATA.bits pgDBG))) s t := by
  obtain ⟨stackSet, instrSet, only⟩ := setInstr_effect s stack.isLt instr.isLt
  have runs : exec (.dbg1500Go stack instr) s = .next (s.setInstr stack instr.toNat).shiftOut :=
    congrArg Host.Outcome.next (if_neg (by rw [off]; decide))
  generalize s.setInstr stack instr.toNat = u at *
  obtain ⟨shifts, frame⟩ := shiftOut_effect u
  refine ⟨_, runs, ?_, ?_, only.1.shiftOut shifts, (only.2.trans frame).mono fun _ _ _ h => or_assoc.1 h⟩
  · exact (frame.fld (by decide) (by decide) fun i _ _ h => absurd h.2.1 (by decide)).trans stackSet
  · exact (frame.fld (by decide) (by decide) fun i _ _ h => absurd h.2.1 (by decide)).trans instrSet

/-- One for a stack whose controller is enabled is refused. -/
theorem exec_dbg1500Go_refused {s : State} {stack : Fin 4} (instr : Byte) (on : s.enabled (pgHMC stack) = true)
    (first : s.bit pgDBG Reg.BLK_STAT_CFG_REJECT = false) :
    ∃ t, exec (.dbg1500Go stack instr) s = .next t ∧ t.fld pgDBG Reg.BLK_STAT_REJ_CAUSE = 1 ∧
      t.rd pgDBG 0x160 = s.rd pgDBG 0x160 ∧ t.free = s.free := by
  obtain ⟨_, cause, _, _, only, frame⟩ := reject_effect (s := s) (page := pgDBG) (off := Reg.DBG_1500_GO.off) (cause := 1)
    (by decide) (by decide) (by decide) first
  refine ⟨_, congrArg Host.Outcome.next (if_pos on), cause, BitVec.eq_of_getLsbD_eq fun i _ => ?_,
    (congrArg State.free only).trans rfl⟩
  refine frame pgDBG 0x160 i (by decide) (by decide) ?_
  rintro (⟨_, _, k, hk, h⟩ | ⟨_, h | h⟩) <;> omega

end Sys2Proof.Machine

namespace Sys2Proof.Machine
open Sys2Proof

/-! ## Recovery without fences and without resident plans (R417) -/

/-- No plan is resident, nothing waits for the gate, and the fault is not one of a RELEASE. -/
structure Idle (s : State) : Prop where
  slots : ∀ p, p < 16 → s.slotState p = 0
  normal : s.flt.releasing = false
  fatal : s.flt.fatal = []
  rings : s.rings = []
  held : s.link.held = []
  quote : s.sec.quote = none

/-- What the steps of a recovery leave alone until the fault ends. -/
structure Leaves (s t : State) : Prop where
  flt : t.flt = s.flt
  rings : t.rings = s.rings
  held : t.link.held = s.link.held
  quote : t.sec.quote = s.sec.quote

theorem Leaves.trans {s t u : State} (h : Leaves s t) (h' : Leaves t u) : Leaves s u :=
  ⟨h'.flt.trans h.flt, h'.rings.trans h.rings, h'.held.trans h.held, h'.quote.trans h.quote⟩

theorem IntsOnly.leaves {s t : State} (h : IntsOnly s t) : Leaves s t := by
  unfold IntsOnly at h
  rw [h]
  exact ⟨rfl, rfl, rfl, rfl⟩

theorem Idle.of_leaves {s t : State} {p : BitSet} (h : Idle s) (leaves : Leaves s t) (frame : RegFrame p s t)
    (free : ∀ off i, 0x200 ≤ off → ¬ p pgPLAN off i) : Idle t where
  slots q hq := (frame.fld (f := Reg.PLAN_P_STAT_STATE q) (by decide) (slotField_ok hq).2.2 fun i _ _ =>
    free _ i (by simp only [Reg.PLAN_P_STAT_STATE]; omega)).trans (h.slots q hq)
  normal := (congrArg Flt.releasing leaves.flt).trans h.normal
  fatal := (congrArg Flt.fatal leaves.flt).trans h.fatal
  rings := leaves.rings.trans h.rings
  held := leaves.held.trans h.held
  quote := leaves.quote.trans h.quote

/-! ### The steps -/

/-- Recovery begins. -/
def State.beginRecovery (s : State) : State :=
  { s with pwr := { s.pwr with stopped := false }, beatHold := s.beatHold && !s.flt.releasing }.setBit pgGLB
    Reg.GLB_STAT_RECOVERING true

/-- Recovery resets of units. -/
def State.resetUnits (s : State) (us : List FUnit) : State := us.foldl State.recoveryReset s

/-- A recovery is counted on pages. -/
def State.countPages (s : State) (pages : List Nat) : State :=
  pages.foldl (fun (s : State) p => s.addWrap p Reg.ERR_RECOV_COUNT 1) s

/-- The record of a recovery that took no plan. -/
def State.noteLast (s : State) : State :=
  ((s.setFld pgDBG Reg.DBG_LAST_MS ((s.beat - s.fld pgDBG Reg.DBG_FLT_BEAT_BEAT) / 700000)).setFld pgDBG
    Reg.DBG_LAST_READMITTED 0).setFld pgDBG Reg.DBG_LAST_FAILED 0

/-- A recovery is counted. -/
def State.countRecovery (s : State) : State := (s.addWrap pgGLB Reg.GLB_RECOV_COUNT 1).addSat pgGLB Reg.GLB_RECOV_IN_HOUR 1

/-- The fault is over. -/
def State.endFault (s : State) : State :=
  { s with flt := { s.flt with signals := [], fatal := [], releasing := false, complete := false, prev := [] } }

/-- Without resident plans nothing is re-admitted. -/
theorem readmitAll_idle {s : State} (h : Idle s) (l : Losses) (env : RecovEnv) : s.readmitAll l env = (s, [], [], []) := by
  refine List.foldlRecOn (List.range 16) _ (motive := fun q => q = (s, [], [], [])) rfl fun q hq p hp => ?_
  subst hq
  have free : s.slotState p = 0 := h.slots p (List.mem_range.1 hp)
  refine if_pos ?_
  simp [free]

theorem restartPlans_idle {s : State} (h : Idle s) :
    (List.range 16).foldl (fun (s : State) p => s.restartPlan p (([] : List Nat).contains p)) s = s := by
  refine List.foldlRecOn (List.range 16) _ (motive := fun t => t = s) rfl fun t ht p hp => ?_
  subst ht
  rw [State.restartPlan, if_neg (by rw [h.slots p (List.mem_range.1 hp)]; decide)]
  rfl

/-- The counts and the resumption of a recovery that took no plan. -/
def State.endRecovery (s : State) (pages : List Nat) : State := ((s.countPages pages).noteLast.countRecovery.endFault).resume

/-- The part of a recovery that follows its fences (R417, steps 2 to 6). -/
def State.recoverShown (s before : State) (passed : List Cand) (env : RecovEnv) : State :=
  let resets := (passed.map Cand.unit).eraseDups ++
    (if s.flt.releasing then s.flt.fatal.eraseDups.flatMap fun p => unitOfPage p ++ [FUnit.page p] else [])
  let s := s.resetUnits resets
  let l := s.losses before (passed ++ if s.flt.releasing then
    s.flt.fatal.flatMap (fun p => (unitOfPage p).map fun u => { unit := u, page := p, src := 31, tested := true }) else [])
  let r := s.readmitAll l env
  let s := r.1
  if s.fltState != 3 then s
  else
    let s := (List.range 16).foldl (fun (s : State) p => s.restartPlan p (r.2.1.contains p)) s
    if s.fltState != 3 then s
    else
      let fenced := s.flt.fenced.drop before.flt.fenced.length
      let touched := ((fenced.flatMap fun u => u.home :: u.pages) ++ (passed.map fun c => c.unit.home) ++ r.2.2.2).eraseDups
      let s := s.countPages touched
      let s := (s.setFld pgDBG Reg.DBG_LAST_MS ((s.beat - s.fld pgDBG Reg.DBG_FLT_BEAT_BEAT) / 700000)).setFld pgDBG
        Reg.DBG_LAST_READMITTED r.2.1.length
      let s := s.setFld pgDBG Reg.DBG_LAST_FAILED r.2.2.1.length
      (s.countRecovery.endFault).resume

theorem recover_eq {s : State} (cs : List Cand) (env : RecovEnv) (state : s.fltState = 3)
    (shown : (s.beginRecovery.showFence []).fltState = 3) :
    s.recover [] cs env = (s.beginRecovery.showFence []).recoverShown s.beginRecovery cs env := by
  unfold State.recover
  rw [if_neg (by rw [state]; decide)]
  exact if_neg (by change ¬ ((s.beginRecovery.showFence []).fltState != 3) = true; rw [shown]; decide)

/-- A recovery that fences nothing and finds no plan. -/
theorem recoverShown_idle {s before : State} (cs : List Cand) (env : RecovEnv) (normal : s.flt.releasing = false)
    (idle : Idle (s.resetUnits (cs.map Cand.unit).eraseDups))
    (state : (s.resetUnits (cs.map Cand.unit).eraseDups).fltState = 3)
    (fenced : (s.resetUnits (cs.map Cand.unit).eraseDups).flt.fenced = before.flt.fenced) :
    s.recoverShown before cs env =
      (s.resetUnits (cs.map Cand.unit).eraseDups).endRecovery (cs.map fun c => c.unit.home).eraseDups := by
  unfold State.recoverShown
  simp only [normal, Bool.false_eq_true, if_false, List.append_nil]
  generalize s.resetUnits (cs.map Cand.unit).eraseDups = u at *
  simp only [readmitAll_idle idle, restartPlans_idle idle, state, fenced, bne_self_eq_false, Bool.false_eq_true, if_false,
    List.drop_length, List.flatMap_nil, List.nil_append, List.append_nil]
  rfl

/-! ### What the steps change -/

/-- Recovery resets leave the registers, and a tile that is empty. -/
structure Resets (s t : State) : Prop where
  leaves : Leaves s t
  regs : ∀ page off, t.rd page off = s.rd page off
  empty : ∀ n, s.tile n = {} → t.tile n = {}

theorem Resets.refl (s : State) : Resets s s := ⟨⟨rfl, rfl, rfl, rfl⟩, fun _ _ => rfl, fun _ h => h⟩

theorem Resets.trans {s t u : State} (h : Resets s t) (h' : Resets t u) : Resets s u :=
  ⟨h.leaves.trans h'.leaves, fun p o => (h'.regs p o).trans (h.regs p o), fun n e => h'.empty n (h.empty n e)⟩

theorem State.tile_clearTile (s : State) (m n : Nat) : (s.clearTile m).tile n = if n = m then {} else s.tile n := by
  refine Eq.trans ?_ (kget_kset (d := fun _ => ({} : Tile)) s.tiles m n {})
  rfl

theorem resets_clearTile (s : State) (m : Nat) : Resets s (s.clearTile m) := by
  refine ⟨⟨rfl, rfl, rfl, rfl⟩, fun _ _ => rfl, fun n h => ?_⟩
  rw [State.tile_clearTile, h, ite_self]

theorem resets_recoveryReset (s : State) (u : FUnit) : Resets s (s.recoveryReset u) := by
  cases u with
  | tile n => exact resets_clearTile s n
  | quad n => exact List.foldlRecOn _ _ (Resets.refl s) fun t h i _ => h.trans (resets_clearTile t _)
  | page p =>
    unfold State.recoveryReset
    dsimp only
    split
    · exact ⟨⟨rfl, rfl, rfl, rfl⟩, fun _ _ => rfl, fun _ h => h⟩
    · exact ⟨⟨rfl, rfl, rfl, rfl⟩, fun _ _ => rfl, fun _ h => h⟩
    · exact Resets.refl s
  | _ => exact Resets.refl s

theorem resets_resetUnits (s : State) (us : List FUnit) : Resets s (s.resetUnits us) :=
  List.foldlRecOn _ _ (Resets.refl s) fun t h u _ => h.trans (resets_recoveryReset t u)

/-- A tile that is reset is empty. -/
theorem State.tile_resetUnits {n : Nat} {us : List FUnit} (h : .tile n ∈ us) : ∀ s : State, (s.resetUnits us).tile n = {} := by
  induction us with
  | nil => exact absurd h List.not_mem_nil
  | cons u us ih =>
    intro s
    rcases List.mem_cons.1 h with rfl | h
    · refine (resets_resetUnits (s.clearTile n) us).empty n ?_
      rw [State.tile_clearTile, if_pos rfl]
    · exact ih h _

theorem onlyBits_countPages (s : State) (pages : List Nat) : OnlyBits (fun _ off _ => off = 0x48) s (s.countPages pages) :=
  onlyBits_foldl _ (fun s p _ => (onlyBits_setFld s p Reg.ERR_RECOV_COUNT _ ⟨by decide, by decide, by decide⟩).mono
    fun _ _ _ h => h.2.1) s

theorem State.fld_countPages_ne {page : Nat} {pages : List Nat} (h : page ∉ pages) :
    ∀ s : State, (s.countPages pages).fld page Reg.ERR_RECOV_COUNT = s.fld page Reg.ERR_RECOV_COUNT := by
  induction pages with
  | nil => exact fun _ => rfl
  | cons p pages ih =>
    rw [List.mem_cons, not_or] at h
    exact fun s => (ih h.2 _).trans (State.fld_setFld_ne _ _ (.inl h.1) (by decide) (by decide))

/-- A page that is listed once is counted once. -/
theorem State.fld_countPages {page : Nat} {pages : List Nat} (once : pages.Nodup) (h : page ∈ pages) : ∀ s : State,
    (s.countPages pages).fld page Reg.ERR_RECOV_COUNT = (s.fld page Reg.ERR_RECOV_COUNT + 1) % 2 ^ 32 := by
  induction pages with
  | nil => exact absurd h List.not_mem_nil
  | cons p pages ih =>
    intro s
    obtain ⟨apart, once⟩ := List.nodup_cons.1 once
    rcases List.mem_cons.1 h with rfl | h
    · exact (State.fld_countPages_ne apart _).trans (State.fld_setFld_same _ _ _ (by decide))
    · have ne : page ≠ p := fun e => apart (e ▸ h)
      exact (ih once h _).trans (congrArg (fun x => (x + 1) % 2 ^ 32)
        (State.fld_setFld_ne s _ (.inl ne) (by decide) (by decide)))

theorem onlyBits_noteLast (s : State) : OnlyBits (regBits pgDBG 0x158) s s.noteLast :=
  (((OnlyBits.start _ s).setFld (f := Reg.DBG_LAST_MS) _ (by decide) fun _ _ _ => ⟨rfl, rfl⟩).setFld
    (f := Reg.DBG_LAST_READMITTED) _ (by decide) fun _ _ _ => ⟨rfl, rfl⟩).setFld (f := Reg.DBG_LAST_FAILED) _ (by decide)
    fun _ _ _ => ⟨rfl, rfl⟩

theorem countRecovery_effect (s : State) :
    s.countRecovery.fld pgGLB Reg.GLB_RECOV_COUNT = (s.fld pgGLB Reg.GLB_RECOV_COUNT + 1) % 2 ^ 32 ∧
      s.countRecovery.fld pgGLB Reg.GLB_RECOV_IN_HOUR = min (s.fld pgGLB Reg.GLB_RECOV_IN_HOUR + 1) 255 ∧
      OnlyBits (regBits pgGLB 0x140) s s.countRecovery := by
  have count := State.fld_setFld_same s pgGLB (f := Reg.GLB_RECOV_COUNT) (s.fld pgGLB Reg.GLB_RECOV_COUNT + 1) (by decide)
  have apart := State.fld_setFld_bits s pgGLB (f := Reg.GLB_RECOV_COUNT) (f' := Reg.GLB_RECOV_IN_HOUR)
    (s.fld pgGLB Reg.GLB_RECOV_COUNT + 1) (by decide) (by decide) (by decide)
  have only : OnlyBits (regBits pgGLB 0x140) s (s.addWrap pgGLB Reg.GLB_RECOV_COUNT 1) :=
    (OnlyBits.start _ s).setFld (f := Reg.GLB_RECOV_COUNT) _ (by decide) fun _ _ _ => ⟨rfl, rfl⟩
  unfold State.countRecovery
  have count' : (s.addWrap pgGLB Reg.GLB_RECOV_COUNT 1).fld pgGLB Reg.GLB_RECOV_COUNT = _ := count
  have apart' : (s.addWrap pgGLB Reg.GLB_RECOV_COUNT 1).fld pgGLB Reg.GLB_RECOV_IN_HOUR = _ := apart
  generalize s.addWrap pgGLB Reg.GLB_RECOV_COUNT 1 = u at count' apart' only ⊢
  refine ⟨(State.fld_setFld_bits u _ _ (by decide) (by decide) (by decide)).trans count', ?_,
    only.setFld (f := Reg.GLB_RECOV_IN_HOUR) _ (by decide) fun _ _ _ => ⟨rfl, rfl⟩⟩
  rw [State.addSat, State.fld_setFld_same _ _ _ (by decide), apart']
  exact Nat.mod_eq_of_lt ((Nat.min_le_right _ _).trans_lt (by decide))

/-- The write gate is open and FAULT_L high. -/
def State.openGate (s : State) : State :=
  { s with link := { s.link with gateClosed := false }, pins := { s.pins with faultL := true } }

/-- The registers tell of a normal state. -/
def State.showNormal (s : State) : State :=
  ((s.setBit pgGLB Reg.GLB_STAT_SAFE false).setBit pgGLB Reg.GLB_STAT_RECOVERING false).setFld pgDBG Reg.DBG_FLT_STATE 0

/-- The write gate is open and the state is normal again. -/
def State.reopen (s : State) : State := s.openGate.showNormal

theorem State.sendCpl_none {s : State} (h : s.rings = []) (n : Nat) : s.sendCpl n = s := by
  have none : (s.ring n).cpls = [] := by rw [State.ring, h]; rfl
  rw [State.sendCpl, none]

theorem State.sendQuote_none {s : State} (h : s.sec.quote = none) : s.sendQuote = s := by
  rw [State.sendQuote, h]

theorem State.resume_none {s : State} (rings : (s.reopen.raise pgGLB 4).rings = [])
    (held : (s.reopen.raise pgGLB 4).link.held = []) (quote : (s.reopen.raise pgGLB 4).sec.quote = none) :
    s.resume = s.reopen.raise pgGLB 4 := by
  change (List.range 16).foldl (fun (s : State) n => s.settleRing n) ((List.range 16).foldl (fun (s : State) n =>
    if (s.cplOut n).isNone then s.sendCpl n else s) (s.reopen.raise pgGLB 4).releaseHeld).sendQuote = _
  generalize s.reopen.raise pgGLB 4 = u at *
  have noCpl : ∀ n, (if (u.cplOut n).isNone then u.sendCpl n else u) = u := fun n => by
    rw [State.sendCpl_none rings, ite_self]
  rw [State.releaseHeld_none held,
    List.foldl_fixed' (f := fun (s : State) n => if (s.cplOut n).isNone then s.sendCpl n else s) noCpl,
    State.sendQuote_none quote, foldl_settleRing_none rings]

/-- The status registers of GLB and of the sequencer. -/
def statBits : BitSet := fun p off _ => (p = pgGLB ∨ p = pgDBG) ∧ off = 0x100

theorem showNormal_effect (s : State) : s.showNormal.fltState = 0 ∧ s.showNormal.bit pgGLB Reg.GLB_STAT_SAFE = false ∧
    s.showNormal.bit pgGLB Reg.GLB_STAT_RECOVERING = false ∧ OnlyBits statBits s s.showNormal := by
  have okState : Reg.DBG_FLT_STATE.ok := ⟨by decide, by decide, by decide⟩
  have okRec : Reg.GLB_STAT_RECOVERING.ok := ⟨by decide, by decide, by decide⟩
  have okSafe : Reg.GLB_STAT_SAFE.ok := ⟨by decide, by decide, by decide⟩
  have other : ∀ (u : State) (f : Fld), f.off < 0x1000 → (u.setFld pgDBG Reg.DBG_FLT_STATE 0).bit pgGLB f = u.bit pgGLB f :=
    fun u f hf => congrArg (· == 1) (State.fld_setFld_ne u 0 (.inl (by decide)) okState hf)
  refine ⟨State.fld_setFld_same _ _ _ okState, ?_, ?_, ?_⟩
  · refine (other _ _ (by decide)).trans ?_
    exact (congrArg (· == 1) (State.fld_setFld_bits _ _ _ (by decide) okRec (by decide))).trans
      (State.bit_setBit_self s _ _ _ okSafe rfl)
  · exact (other _ _ (by decide)).trans (State.bit_setBit_self _ _ _ _ okRec rfl)
  · exact (((OnlyBits.start _ s).setBit false okSafe fun _ _ _ => ⟨.inl rfl, rfl⟩).setBit false okRec
      fun _ _ _ => ⟨.inl rfl, rfl⟩).setFld 0 okState fun _ _ _ => ⟨.inr rfl, rfl⟩

/-- What resuming brings about. -/
structure Resumed (s t : State) : Prop where
  state : t.fltState = 0
  safe : t.bit pgGLB Reg.GLB_STAT_SAFE = false
  recovering : t.bit pgGLB Reg.GLB_STAT_RECOVERING = false
  gate : t.link.gateClosed = false
  fault : t.pins.faultL = true
  int : (t.rd pgGLB 0x58).getLsbD 4 = true
  flt : t.flt = s.flt
  tiles : t.tiles = s.tiles
  frame : RegFrame (statBits.or (intBit pgGLB 4)) s t

theorem RegsOnly.reopened {s u v : State} (h : RegsOnly s.openGate u) (h' : IntsOnly u v) :
    v.link.gateClosed = false ∧ v.pins.faultL = true ∧ v.tiles = s.tiles ∧ Leaves s v := by
  unfold RegsOnly at h
  unfold IntsOnly at h'
  rw [h', h]
  exact ⟨rfl, rfl, rfl, rfl, rfl, rfl, rfl⟩

theorem resumed_resume {s : State} (rings : s.rings = []) (held : s.link.held = []) (quote : s.sec.quote = none) :
    Resumed s s.resume := by
  obtain ⟨state, safe, recovering, only⟩ := showNormal_effect s.openGate
  obtain ⟨gate, fault, tiles, leaves⟩ := only.1.reopened (intsOnly_raise _ pgGLB 4)
  have resumes := State.resume_none (leaves.rings.trans rings) (leaves.held.trans held) (leaves.quote.trans quote)
  unfold State.reopen at resumes
  rw [resumes]
  generalize s.openGate.showNormal = u at *
  have raised := regFrame_raise u pgGLB (b := 4) (by decide)
  have kept : ∀ page (f : Fld), page < 512 → f.off = 0x100 → (u.raise pgGLB 4).fld page f = u.fld page f := fun page f hp hf =>
    raised.fld hp (by omega) fun i _ _ ⟨_, h, _⟩ => by omega
  exact {
    state := (kept _ _ (by decide) rfl).trans state
    safe := (congrArg (· == 1) (kept _ _ (by decide) rfl)).trans safe
    recovering := (congrArg (· == 1) (kept _ _ (by decide) rfl)).trans recovering
    gate, fault, tiles
    int := State.raise_sets _ _ (by decide)
    flt := leaves.flt
    frame := fun p off i hp ho hn => (raised p off i hp ho fun h => hn (.inr h)).trans
      (only.2 p off i hp ho fun h => hn (.inl h)) }

end Sys2Proof.Machine

namespace Sys2Proof.Machine
open Sys2Proof

/-! ### The end of a recovery -/

/-- What the counts and the resumption bring about. -/
structure Ended (s t : State) (pages : List Nat) : Prop where
  state : t.fltState = 0
  safe : t.bit pgGLB Reg.GLB_STAT_SAFE = false
  recovering : t.bit pgGLB Reg.GLB_STAT_RECOVERING = false
  gate : t.link.gateClosed = false
  fault : t.pins.faultL = true
  signals : t.flt.signals = []
  fenced : t.flt.fenced = s.flt.fenced
  count : t.fld pgGLB Reg.GLB_RECOV_COUNT = (s.fld pgGLB Reg.GLB_RECOV_COUNT + 1) % 2 ^ 32
  hour : t.fld pgGLB Reg.GLB_RECOV_IN_HOUR = min (s.fld pgGLB Reg.GLB_RECOV_IN_HOUR + 1) 255
  pages : ∀ p ∈ pages, t.fld p Reg.ERR_RECOV_COUNT = (s.fld p Reg.ERR_RECOV_COUNT + 1) % 2 ^ 32
  tiles : t.tiles = s.tiles
  int : (t.rd pgGLB 0x58).getLsbD 4 = true

theorem State.rd_endFault (s : State) (page off : Nat) : s.endFault.rd page off = s.rd page off := rfl

theorem RegsOnly.endFault {s t : State} (h : RegsOnly s t) : t.endFault.rings = s.rings ∧
    t.endFault.link.held = s.link.held ∧ t.endFault.sec.quote = s.sec.quote ∧ t.endFault.flt.signals = [] ∧
    t.endFault.flt.fenced = s.flt.fenced ∧ t.endFault.tiles = s.tiles := by
  unfold RegsOnly at h
  rw [State.endFault, h]
  exact ⟨rfl, rfl, rfl, rfl, rfl, rfl⟩

theorem ended_endRecovery {s : State} {pages : List Nat} (rings : s.rings = []) (held : s.link.held = [])
    (quote : s.sec.quote = none) (once : pages.Nodup) (small : ∀ p ∈ pages, p < 512) :
    Ended s (s.endRecovery pages) pages := by
  have counted := onlyBits_countPages s pages
  have counts := fun p hp => State.fld_countPages (page := p) once hp s
  unfold State.endRecovery
  generalize s.countPages pages = u at *
  have noted := onlyBits_noteLast u
  generalize u.noteLast = v at *
  obtain ⟨count, hour, last⟩ := countRecovery_effect v
  generalize v.countRecovery = w at *
  have only := (counted.trans noted).trans last
  obtain ⟨rings', held', quote', signals, fenced, tiles⟩ := only.1.endFault
  have resumed := resumed_resume (s := w.endFault) (rings'.trans rings) (held'.trans held) (quote'.trans quote)
  generalize w.endFault.resume = t at *
  have same : ∀ page (f : Fld), page < 512 → f.off < 0x1000 → f.off ≠ 0x100 → f.off ≠ 0x58 → t.fld page f = w.fld page f :=
    fun page f hp hf h1 h2 => (resumed.frame.fld hp hf fun i _ _ h => h.elim (fun h => h1 h.2) fun h => h2 h.2.1).trans
      (State.fld_of_rd w.rd_endFault page f)
  have before : ∀ f : Fld, f.off = 0x140 → v.fld pgGLB f = s.fld pgGLB f := fun f hf =>
    (counted.2.trans noted.2).fld (by decide) (by omega) fun i _ _ h => by
      rcases h with h | ⟨h, _⟩
      · omega
      · exact absurd h (by decide)
  exact {
    state := resumed.state, safe := resumed.safe, recovering := resumed.recovering
    gate := resumed.gate, fault := resumed.fault, int := resumed.int
    signals := (congrArg Flt.signals resumed.flt).trans signals
    fenced := (congrArg Flt.fenced resumed.flt).trans fenced
    tiles := resumed.tiles.trans tiles
    count := by
      rw [same _ _ (by decide) (by decide) (by decide) (by decide), count, before _ rfl]
    hour := by
      rw [same _ _ (by decide) (by decide) (by decide) (by decide), hour, before _ rfl]
    pages := fun p hp => by
      rw [same _ _ (small p hp) (by decide) (by decide) (by decide), ← counts p hp]
      refine (noted.2.trans last.2).fld (small p hp) (by decide) fun i _ _ h => ?_
      rcases h with ⟨_, h⟩ | ⟨_, h⟩ <;> exact absurd h (by decide) }

/-! ### A recovery as a whole -/

theorem beginRecovery_effect (s : State) :
    Leaves s s.beginRecovery ∧ RegFrame (Reg.GLB_STAT_RECOVERING.bits pgGLB) s s.beginRecovery := by
  unfold State.beginRecovery
  generalize hu : ({ s with pwr := { s.pwr with stopped := false }, beatHold := s.beatHold && !s.flt.releasing } : State) = u
  have leaves : Leaves s u := by rw [← hu]; exact ⟨rfl, rfl, rfl, rfl⟩
  have regs : ∀ p off, s.rd p off = u.rd p off := fun _ _ => by rw [← hu]; rfl
  have set := onlyBits_setBit u pgGLB Reg.GLB_STAT_RECOVERING true ⟨by decide, by decide, by decide⟩
  exact ⟨leaves.trans set.1.intsOnly.leaves, fun p off i hp ho hn => by rw [regs]; exact set.2 p off i hp ho hn⟩

/-- What a recovery changes before it ends. -/
def recoveryBits : BitSet := (Reg.GLB_STAT_RECOVERING.bits pgGLB).or fenceBits

theorem recover_ended {s : State} {cs : List Cand} (env : RecovEnv) (state : s.fltState = 3) (idle : Idle s)
    (homes : ∀ c ∈ cs, c.unit.home < 512) :
    ∃ u, RegFrame recoveryBits s u ∧ u.flt = s.flt ∧ (∀ c n, c ∈ cs → c.unit = .tile n → u.tile n = {}) ∧
      Ended u (s.recover [] cs env) (cs.map fun c => c.unit.home).eraseDups := by
  obtain ⟨leaves, begins⟩ := beginRecovery_effect s
  have shows := onlyBits_showFence s.beginRecovery []
  have resets := resets_resetUnits (s.beginRecovery.showFence []) (cs.map Cand.unit).eraseDups
  have empty : ∀ c n, c ∈ cs → c.unit = .tile n →
      ((s.beginRecovery.showFence []).resetUnits (cs.map Cand.unit).eraseDups).tile n = {} := fun c n hc hn =>
    State.tile_resetUnits (List.mem_eraseDups.2 (List.mem_map.2 ⟨c, hc, hn⟩)) _
  have recovers := recover_eq cs env state
  generalize s.beginRecovery = b at *
  generalize hv : b.showFence [] = v at *
  have leavesV := leaves.trans shows.1.intsOnly.leaves
  have frameV : RegFrame recoveryBits s v := begins.trans shows.2
  have stateV : v.fltState = 3 := (frameV.fld (f := Reg.DBG_FLT_STATE) (by decide) (by decide) fun i _ _ h => by
    rcases h with ⟨h, _⟩ | ⟨_, h, _⟩ <;> exact absurd h (by decide)).trans state
  have normalV := (congrArg Flt.releasing leavesV.flt).trans idle.normal
  have ends := recoverShown_idle (s := v) (before := b) cs env normalV
  generalize v.resetUnits (cs.map Cand.unit).eraseDups = u at *
  have leavesU := leavesV.trans resets.leaves
  have frameU : RegFrame recoveryBits s u := regFrame_of_rd frameV resets.regs
  have stateU : u.fltState = 3 := (State.fld_of_rd resets.regs _ _).trans stateV
  have idleU : Idle u := idle.of_leaves leavesU frameU fun off i _ h => by
    rcases h with ⟨h, _⟩ | ⟨h, _⟩ <;> exact absurd h (by decide)
  have fencedU : u.flt.fenced = b.flt.fenced := congrArg Flt.fenced (leavesU.flt.trans leaves.flt.symm)
  refine ⟨u, frameU, leavesU.flt, empty, ?_⟩
  rw [recovers stateV, ends idleU stateU fencedU]
  refine ended_endRecovery idleU.rings idleU.held idleU.quote (nodup_eraseDups _) fun p hp => ?_
  obtain ⟨c, hc, rfl⟩ := List.mem_map.1 (List.mem_eraseDups.1 hp)
  exact homes c hc

end Sys2Proof.Machine

namespace Sys2Proof.Machine
open Sys2Proof

/-! ## The end of a quiet period, and DBG_RECOV_GO (R415, R417, R422) -/

/-- The device has resumed, and its recovery is counted. -/
def Resumes (s t : State) : Prop :=
  t.fltState = 0 ∧ t.bit pgGLB Reg.GLB_STAT_SAFE = false ∧ t.bit pgGLB Reg.GLB_STAT_RECOVERING = false ∧
    t.link.gateClosed = false ∧ t.pins.faultL = true ∧ t.flt.signals = [] ∧ t.flt.fenced = s.flt.fenced ∧
    t.fld pgGLB Reg.GLB_RECOV_COUNT = (s.fld pgGLB Reg.GLB_RECOV_COUNT + 1) % 2 ^ 32 ∧
    t.fld pgGLB Reg.GLB_RECOV_IN_HOUR = min (s.fld pgGLB Reg.GLB_RECOV_IN_HOUR + 1) 255 ∧
    (∀ c ∈ s.flt.cands, t.fld c.unit.home Reg.ERR_RECOV_COUNT = (s.fld c.unit.home Reg.ERR_RECOV_COUNT + 1) % 2 ^ 32) ∧
    (∀ c n, c ∈ s.flt.cands → c.unit = .tile n → t.tile n = {}) ∧ (t.rd pgGLB 0x58).getLsbD 4 = true

/-- What may change between the fault and its recovery: states of slots, status and the registers of the sequencer. -/
def quietBits : BitSet := fun p off _ =>
  p = pgPLAN ∧ 0x200 ≤ off ∨ p = pgGLB ∧ (off = 0x58 ∨ off = 0x100) ∨ p = pgDBG ∧ 0x100 ≤ off

theorem quietBits_fld {s t : State} {page : Nat} {f : Fld} (h : RegFrame quietBits s t) (hp : page < 512)
    (hf : f.off = 0x48 ∨ page = pgGLB ∧ f.off = 0x140) : t.fld page f = s.fld page f :=
  h.fld hp (by omega) fun i _ _ h => by
    unfold quietBits at h
    unfold pgGLB pgPLAN pgDBG at *
    omega

theorem recover_resumes {s v : State} (frame : RegFrame quietBits s v) (fenced : v.flt.fenced = s.flt.fenced)
    (state : v.fltState = 3) (idle : Idle v) (homes : ∀ c ∈ s.flt.cands, c.unit.home < 512) :
    Resumes s (v.recover [] s.flt.cands {}) := by
  obtain ⟨u, recovers, flt, empty, ended⟩ := recover_ended {} state idle homes
  have whole : RegFrame quietBits s u := (frame.trans recovers).mono fun p off i h => by
    rcases h with h | ⟨h1, h2, _⟩ | ⟨h1, h2, _⟩
    · exact h
    · exact .inr (.inl ⟨h1, .inr h2⟩)
    · exact .inr (.inr ⟨h1, by omega⟩)
  refine ⟨ended.state, ended.safe, ended.recovering, ended.gate, ended.fault, ended.signals, ?_, ?_, ?_, fun c hc => ?_,
    fun c n hc hn => ?_, ended.int⟩
  · rw [ended.fenced, flt, fenced]
  · rw [ended.count, quietBits_fld whole (by decide) (.inr ⟨rfl, rfl⟩)]
  · rw [ended.hour, quietBits_fld whole (by decide) (.inr ⟨rfl, rfl⟩)]
  · rw [ended.pages _ (List.mem_eraseDups.2 (List.mem_map.2 ⟨c, hc, rfl⟩)), quietBits_fld whole (homes c hc) (.inl rfl)]
  · rw [State.tile, ended.tiles]; exact empty c n hc hn

/-- Candidates that all pass their test leave the state as it is, and none is fenced. -/
theorem runTests_pass (s : State) {cs : List Cand} (tested : ∀ c ∈ cs, c.tested = true) : s.runTests cs {} = (s, [], cs) := by
  have covered : ∀ u, covers [] u = false := fun u => by cases u <;> rfl
  have fences : (cs.filter fun c => !c.isCache && !c.tested) = [] := List.filter_eq_nil_iff.2 fun c hc => by
    rw [tested c hc]; simp
  have passed : (cs.filter fun c => c.tested) = cs := List.filter_eq_self.2 tested
  unfold State.runTests
  simp only [ite_self, Bool.and_false, List.filter_false, List.map_nil, List.eraseDups_nil, List.foldl_nil, List.any_nil,
    Bool.false_eq_true, if_false, Bool.or_false, fences, covered, Bool.not_false, Bool.and_true, passed]

/-- Without resident plans no slot is held. -/
theorem State.slotState_completeSafe {s : State} {p : Nat} (hp : p < 16) (free : s.slotState p = 0) :
    s.completeSafe.slotState p = 0 := by
  rw [State.completeSafe_eq]
  split
  · exact free
  · have held := (holdPlans_effect s.noteComplete 16 (le_refl _)).2.2 p hp
    have free' : s.noteComplete.slotState p = 0 := free
    refine ((regFrame_raise _ pgGLB (b := 3) (by decide)).fld (f := Reg.PLAN_P_STAT_STATE p) (by decide) (slotField_ok hp).2.2
      fun i _ _ h => absurd h.1 (by decide)).trans (held.1.trans ?_)
    rw [free', if_neg (by omega)]

/-- The recovery at the end of a quiet period whose candidates all pass. -/
theorem State.quietEnded_recover {s : State} (assist : s.flt.assist = false) (normal : s.flt.releasing = false)
    (tested : ∀ c ∈ s.flt.cands, c.tested = true) :
    s.quietEnded {} = (s.setFld pgDBG Reg.DBG_FLT_STATE 3).recover [] s.flt.cands {} := by
  rw [State.quietEnded, normal, Bool.false_and, if_neg Bool.false_ne_true, assist, if_neg Bool.false_ne_true,
    runTests_pass _ tested]

theorem Completes.idle {s t : State} (h : Completes s t) (slots : ∀ p, p < 16 → t.slotState p = 0) (idle : Idle s) : Idle t where
  slots := slots
  normal := h.releasing.trans idle.normal
  fatal := h.fatal.trans idle.fatal
  rings := h.rings.trans idle.rings
  held := ((congrArg Link.held h.link).trans rfl).trans idle.held
  quote := (congrArg Sec.quote h.sec).trans idle.quote

/-- The recovery starts: FLT_STATE is 3. -/
theorem recover_starts {s v : State} (frame : RegFrame quietBits s v) (fenced : v.flt.fenced = s.flt.fenced) (idle : Idle v)
    (homes : ∀ c ∈ s.flt.cands, c.unit.home < 512) :
    Resumes s ((v.setFld pgDBG Reg.DBG_FLT_STATE 3).recover [] s.flt.cands {}) := by
  have set := onlyBits_setFld v pgDBG Reg.DBG_FLT_STATE 3 ⟨by decide, by decide, by decide⟩
  have state := State.fld_setFld_same v pgDBG (f := Reg.DBG_FLT_STATE) 3 (by decide)
  generalize v.setFld pgDBG Reg.DBG_FLT_STATE 3 = w at *
  have leaves := set.1.intsOnly.leaves
  refine recover_resumes ((frame.trans set.2).mono fun p off i h => ?_) ((congrArg Flt.fenced leaves.flt).trans fenced) state
    (idle.of_leaves leaves set.2 fun off i _ h => absurd h.1 (by decide)) homes
  rcases h with h | ⟨h1, h2, _⟩
  · exact h
  · exact .inr (.inr ⟨h1, h2.ge⟩)

theorem exec_quietEnd {s : State} (idle : Idle s) (cands : ∀ c ∈ s.flt.cands, c.tested = true ∧ c.unit.home < 512)
    (quiet : s.fltState = 1) (counting : s.beatOn = true) (assist : s.flt.assist = false) :
    ∃ t, exec (.quietEnd {}) s = .next t ∧ Resumes s t := by
  have runs := execQuietEnd_eq {} quiet counting
  have same := completes (s.reached (s.fld pgDBG Reg.DBG_QUIET_END_BEAT))
  have tested : ∀ c ∈ (s.reached (s.fld pgDBG Reg.DBG_QUIET_END_BEAT)).completeSafe.flt.cands, c.tested = true := fun c hc =>
    (cands c (same.cands ▸ hc)).1
  rw [State.quietEnded_recover (same.assist.trans assist) (same.releasing.trans idle.normal) tested, same.cands] at runs
  have slots := fun p hp => State.slotState_completeSafe (s := s.reached (s.fld pgDBG Reg.DBG_QUIET_END_BEAT)) (p := p) hp
    (idle.slots p hp)
  have idle' := same.idle slots ⟨idle.slots, idle.normal, idle.fatal, idle.rings, idle.held, idle.quote⟩
  have frame : RegFrame quietBits s _ := same.frame.mono fun p off i h => by
    rcases h with h | ⟨h1, h2, _⟩
    · exact .inl h
    · exact .inr (.inl ⟨h1, .inl h2⟩)
  exact ⟨_, runs, recover_starts frame same.fenced idle' fun c hc => (cands c hc).2⟩

/-- DBG_RECOV_GO with the fence set as it was proposed. -/
theorem execDbgRecovGo_recover {s : State} (waits : s.fltState = 2) (tested : ∀ c ∈ s.flt.cands, c.tested = true)
    (stays : ∀ c ∈ s.flt.cands, c.unit.ownBit = none ∨ s.shown c.unit = true)
    (none_ : ∀ u ∈ allUnits, s.shown u = true → covers s.flt.gone u = true ∨ ∃ c ∈ s.flt.cands, c.unit = u) :
    execDbgRecovGo {} s = .next ((s.setFld pgDBG Reg.DBG_FLT_STATE 3).recover [] s.flt.cands {}) := by
  have all : ∀ c ∈ s.flt.cands, (c.unit.ownBit.isNone || s.shown c.unit) = true := fun c hc => by
    rw [Bool.or_eq_true, Option.isNone_iff_eq_none]; exact stays c hc
  have kept : (s.flt.cands.filter fun c => c.unit.ownBit.isNone || s.shown c.unit) = s.flt.cands := List.filter_eq_self.2 all
  have cleared : (s.flt.cands.filter fun c => !(c.unit.ownBit.isNone || s.shown c.unit)) = [] :=
    List.filter_eq_nil_iff.2 fun c hc => by rw [all c hc]; decide
  have added : ∀ named, (allUnits.filter fun u => s.shown u && !covers s.flt.gone u && !covers named u &&
      !(s.flt.cands.any fun c => c.unit == u)) = [] := fun named => List.filter_eq_nil_iff.2 fun u hu h => by
    simp only [Bool.and_eq_true, Bool.not_eq_true', List.any_eq_false, beq_iff_eq] at h
    obtain ⟨⟨⟨shown, gone⟩, _⟩, other⟩ := h
    rcases none_ u hu shown with covered | ⟨c, hc, named⟩
    · rw [gone] at covered; exact Bool.false_ne_true covered
    · exact other c hc named
  unfold execDbgRecovGo
  rw [if_neg (by rw [waits]; decide)]
  simp only [kept, cleared, added, runTests_pass _ tested, List.map_nil, List.foldl_nil, List.filter_nil, List.append_nil]

theorem exec_dbgRecovGo {s : State} (idle : Idle s) (cands : ∀ c ∈ s.flt.cands, c.tested = true ∧ c.unit.home < 512)
    (waits : s.fltState = 2) (stays : ∀ c ∈ s.flt.cands, c.unit.ownBit = none ∨ s.shown c.unit = true)
    (none_ : ∀ u ∈ allUnits, s.shown u = true → covers s.flt.gone u = true ∨ ∃ c ∈ s.flt.cands, c.unit = u) :
    ∃ t, exec (.dbgRecovGo {}) s = .next t ∧ Resumes s t :=
  ⟨_, execDbgRecovGo_recover waits (fun c hc => (cands c hc).1) stays none_,
    recover_starts (fun _ _ _ _ _ _ => rfl) rfl idle fun c hc => (cands c hc).2⟩

/-- Settles O54: a recovery without fences and plans resets its candidates, counts them and resumes. -/
theorem recovery : Obligations.Recovery := by
  unfold Obligations.Recovery
  refine fun s => ⟨exec_safeStateComplete, ?_, fun env => exec_quietEnd_assist env, exec_release, exec_inHourExpire s,
    fun stack instr => ⟨exec_dbg1500Go instr, exec_dbg1500Go_refused instr⟩⟩
  intro _ slots normal fatal rings held _ quote cands
  have idle : Idle s := ⟨slots, normal, fatal, rings, held, quote⟩
  exact ⟨exec_quietEnd idle cands, exec_dbgRecovGo idle cands⟩

end Sys2Proof.Machine

namespace Sys2Proof.Machine
open Sys2Proof

/-! ## Completions (R64, R75, R392) -/

@[simp] theorem State.ring_setRing_self (s : State) (n : Nat) (r : Ring) : (s.setRing n r).ring n = r :=
  kget_kset_self _ _ _

theorem State.ring_setRing_ne (s : State) {n m : Nat} (r : Ring) (h : m ≠ n) : (s.setRing n r).ring m = s.ring m :=
  kget_kset_ne _ h _

theorem State.setRing_eq (s : State) (n : Nat) (r : Ring) : ∃ rings, s.setRing n r = { s with rings := rings } := ⟨_, rfl⟩

theorem RegsOnly.ring {s t : State} (h : RegsOnly s t) (n : Nat) : t.ring n = s.ring n := by rw [h]; rfl

/-- Registers and then a ring. -/
theorem RegsOnly.setRing {s t : State} (h : RegsOnly s t) (n : Nat) (r : Ring) :
    t.setRing n r = { s with regs := (t.setRing n r).regs, rings := (t.setRing n r).rings } := by
  obtain ⟨rings, eq⟩ := t.setRing_eq n r
  rw [eq, h]

theorem State.rd_setRing (s : State) (n : Nat) (r : Ring) (page off : Nat) : (s.setRing n r).rd page off = s.rd page off := rfl

@[simp] theorem State.fld_setRing (s : State) (n : Nat) (r : Ring) (page : Nat) (f : Fld) :
    (s.setRing n r).fld page f = s.fld page f := State.fld_of_rd (s.rd_setRing n r) page f

theorem RegFrame.setRing {p : BitSet} {s t : State} (h : RegFrame p s t) (n : Nat) (r : Ring) : RegFrame p s (t.setRing n r) :=
  regFrame_of_rd h (t.rd_setRing n r)

theorem CplFrame.refl (s : State) : CplFrame s s := ⟨rfl, fun _ _ _ _ _ _ => rfl⟩

theorem CplFrame.trans {s t u : State} (h : CplFrame s t) (h' : CplFrame t u) : CplFrame s u := by
  obtain ⟨eq, frame⟩ := h
  obtain ⟨eq', frame'⟩ := h'
  exact ⟨by rw [eq', eq], fun p o i hp ho hn => (frame' p o i hp ho hn).trans (frame p o i hp ho hn)⟩

/-- A completion leaves every register but counters of the links: fields of other pages keep their values. -/
theorem CplFrame.fld {s t : State} (h : CplFrame s t) {page : Nat} {f : Fld} (hp : page < 512) (hf : f.off < 0x1000)
    (apart : page < 8 ∨ 10 < page ∨ f.off < 0x70 ∨ 0xF0 < f.off) : t.fld page f = s.fld page f :=
  h.2.fld hp hf fun i _ _ ⟨n, hn, pg, _, k, hk, off⟩ => by unfold pgULNK at pg; omega

theorem CplFrame.bit {s t : State} (h : CplFrame s t) {page : Nat} {f : Fld} (hp : page < 512) (hf : f.off < 0x1000)
    (apart : page < 8 ∨ 10 < page ∨ f.off < 0x70 ∨ 0xF0 < f.off) : t.bit page f = s.bit page f :=
  congrArg (· == 1) (h.fld hp hf apart)

theorem CplFrame.beat {s t : State} (h : CplFrame s t) : t.beat = s.beat := by rw [h.1]
theorem CplFrame.slots {s t : State} (h : CplFrame s t) : t.slots = s.slots := by rw [h.1]

theorem cplFrame_setRing (s : State) (n : Nat) (r : Ring) : CplFrame s (s.setRing n r) := ⟨rfl, fun _ _ _ _ _ _ => rfl⟩

theorem cplFrame_holdReq (s : State) (r : HostReq) : CplFrame s (s.holdReq r) := ⟨rfl, fun _ _ _ _ _ _ => rfl⟩

/-- Requests take a link of the group. -/
theorem State.lt_of_linkFor {s : State} {addr n : Nat} (h : s.linkFor addr = some n) : n < 3 := by
  simp only [State.linkFor] at h
  split at h
  case h_1 m hm =>
    have bound : m ∈ s.boundLinks := List.mem_of_getElem? hm
    split at h
    · rw [← Option.some.inj h]
      exact List.mem_range.1 (List.mem_of_mem_filter bound)
    · exact nomatch h
  case h_2 => exact nomatch h

theorem State.lt_of_routeOf {s : State} {r : HostReq} {n : Nat} (h : s.routeOf r = some n) : n < 3 := by
  unfold State.routeOf at h
  split at h
  · obtain ⟨_, ok⟩ := Option.filter_eq_some_iff.1 h
    rw [Bool.and_eq_true, List.contains_iff_mem] at ok
    exact List.mem_range.1 (List.mem_of_mem_filter ok.1)
  · exact State.lt_of_linkFor h

/-- A request sent or held changes neither rings nor more than a completion may. -/
theorem sendReq_effect (s : State) (r : HostReq) : CplFrame s (s.sendReq r) ∧ (s.sendReq r).rings = s.rings := by
  unfold State.sendReq
  split
  · exact ⟨cplFrame_holdReq s r, rfl⟩
  · exact ⟨CplFrame.refl s, rfl⟩
  · exact ⟨cplFrame_holdReq s r, rfl⟩
  case h_4 n route _ _ =>
    obtain ⟨only, frame⟩ := onlyBits_perf { s with
      link := { s.link with reqs := s.link.reqs ++
        [{ r with link := n, poison := r.poison || (s.link.gateClosed && r.isWrite) }] }
      out := .request { r with link := n, poison := r.poison || (s.link.gateClosed && r.isWrite) } :: s.out }
      (pgULNK n) 0x100 1
    refine ⟨⟨?_, fun p o i hp ho hn => frame p o i hp ho fun h => hn ⟨n, State.lt_of_routeOf route, h⟩⟩, ?_⟩
    · rw [only]
    · rw [only]

theorem issueHost_effect (s : State) (kind : ReqKind) (addr : Nat) (data : List Byte) (src : ReqSrc) :
    CplFrame s (s.issueHost kind addr data src) ∧ (s.issueHost kind addr data src).rings = s.rings := by
  have sent := sendReq_effect { s with link := { s.link with nextId := s.link.nextId + 1 } }
    { id := s.link.nextId, kind := kind, addr := addr, data := data, src := src }
  exact ⟨.trans ⟨rfl, fun _ _ _ _ _ _ => rfl⟩ sent.1, sent.2⟩

theorem sendCpl_effect (s : State) (n : Nat) : CplFrame s (s.sendCpl n) ∧ (s.sendCpl n).rings = s.rings := by
  unfold State.sendCpl
  split
  · exact ⟨CplFrame.refl s, rfl⟩
  · split
    · exact ⟨CplFrame.refl s, rfl⟩
    · exact issueHost_effect s _ _ _ _

/-- The completion entry that a command leaves. -/
def State.cplFor (s : State) (c : Cmd) (result slot count info : Nat) : Cpl :=
  { tag := c.tag, cmd := c.code, code := result, slot := slot, count := count, info := info, beat := s.beat }

/-- Completing the oldest command of a ring takes it off and adds its entry. -/
theorem completeOne_effect {s : State} {n : Nat} {c : Cmd} {rest : List Cmd} (h : (s.ring n).waiting = c :: rest)
    (result slot count info : Nat) :
    CplFrame s (s.completeOne n result slot count info) ∧
      (s.completeOne n result slot count info).ring n = { s.ring n with
        waiting := rest, busy := false, cpls := (s.ring n).cpls ++ [s.cplFor c result slot count info] } := by
  have pushed : s.completeOne n result slot count info =
      (s.setRing n { s.ring n with waiting := rest, busy := false }).pushCpl n (s.cplFor c result slot count info) := by
    simp only [State.completeOne, h]; rfl
  rw [pushed, State.pushCpl, State.ring_setRing_self]
  have queued := ((cplFrame_setRing s n { s.ring n with waiting := rest, busy := false }).trans (cplFrame_setRing _ n
    { s.ring n with waiting := rest, busy := false, cpls := (s.ring n).cpls ++ [s.cplFor c result slot count info] }))
  split
  · have sent := sendCpl_effect ((s.setRing n { s.ring n with waiting := rest, busy := false }).setRing n
      { s.ring n with waiting := rest, busy := false, cpls := (s.ring n).cpls ++ [s.cplFor c result slot count info] }) n
    exact ⟨queued.trans sent.1, by rw [State.ring, sent.2]; exact State.ring_setRing_self _ _ _⟩
  · exact ⟨queued, State.ring_setRing_self _ _ _⟩

/-- What settling a ring does: entries are added, invalid commands go from the front. -/
structure Settled (n : Nat) (s t : State) : Prop where
  frame : CplFrame s t
  cpls : ∀ x ∈ (s.ring n).cpls, x ∈ (t.ring n).cpls
  waiting : ∃ dropped, (s.ring n).waiting = dropped ++ (t.ring n).waiting ∧ ∀ e ∈ dropped, e.bad = true

theorem Settled.refl (n : Nat) (s : State) : Settled n s s := ⟨.refl s, fun _ h => h, [], rfl, fun _ h => nomatch h⟩

theorem settled_settleFrom (n : Nat) : ∀ (k : Nat) (s : State), Settled n s (s.settleFrom k n)
  | 0, s => .refl n s
  | k + 1, s => by
    rw [State.settleFrom]
    split
    case h_1 c rest waiting =>
      split
      case isTrue bad =>
        obtain ⟨frame, ring⟩ := completeOne_effect waiting 37 0 0 0
        obtain ⟨frame', cpls', dropped, eq, all⟩ := settled_settleFrom n k (s.completeOne n 37 0 0 0)
        rw [ring] at eq cpls'
        refine ⟨frame.trans frame', fun x hx => cpls' x (List.mem_append_left _ hx), c :: dropped, ?_, ?_⟩
        · rw [waiting, List.cons_append, ← eq]
        · exact List.forall_mem_cons.2 ⟨(Bool.and_eq_true _ _ ▸ bad).1, all⟩
      case isFalse => exact .refl n s
    case h_2 => exact .refl n s

theorem settled_settleRing (s : State) (n : Nat) : Settled n s (s.settleRing n) := settled_settleFrom n _ s

/-- A completed command leaves its entry in the ring; nothing but the completion changes. -/
theorem complete_effect {s : State} {n : Nat} {c : Cmd} {rest : List Cmd} (h : (s.ring n).waiting = c :: rest)
    (result slot count info : Nat) :
    CplFrame s (s.complete n result slot count info) ∧
      RingCompleted n c rest result slot count info (s.complete n result slot count info) := by
  obtain ⟨frame, ring⟩ := completeOne_effect h result slot count info
  obtain ⟨frame', cpls, dropped, waiting, all⟩ := settled_settleRing (s.completeOne n result slot count info) n
  rw [ring] at cpls waiting
  refine ⟨frame.trans frame', ?_, dropped, waiting, all⟩
  have beat : (s.complete n result slot count info).beat = s.beat := (frame.trans frame').beat
  rw [beat]
  exact cpls _ (List.mem_append_right _ (List.mem_singleton_self _))

/-! ## Serving a command (R64) -/

theorem State.oldest_eq_some {s : State} {n code : Nat} {c : Cmd} {rest : List Cmd} (waiting : (s.ring n).waiting = c :: rest)
    (is : c.code = code) (ok : c.bad = false) : s.oldest n code = some c := by
  rw [State.oldest, waiting]
  simp [is, ok]

/-- The next command of a ring is served. -/
theorem State.command_next {s : State} {n code : Nat} {c : Cmd} {rest : List Cmd} (h : s.nextCmd n code c rest)
    (f : State → Cmd → State) : s.command n code f = f s c := by
  obtain ⟨waiting, is, ok, served, up⟩ := h
  simp [State.command, State.oldest_eq_some waiting is ok, served, up]

end Sys2Proof.Machine

namespace Sys2Proof.Machine
open Sys2Proof

/-! ## Command rings (R74, R75, R389, R391 to R393) -/

theorem cmdqEn_ok (ring : Fin 16) : (Reg.CMDQ_R_CFG_EN ring).lo ≤ (Reg.CMDQ_R_CFG_EN ring).hi ∧
    (Reg.CMDQ_R_CFG_EN ring).hi < 64 ∧ (Reg.CMDQ_R_CFG_EN ring).off < 0x1000 :=
  ⟨le_refl _, (by decide : 8 < 64), by simp only [Reg.CMDQ_R_CFG_EN]; omega⟩

theorem cmdqHead_ok (ring : Fin 16) : (Reg.CMDQ_R_IDX_HEAD ring).lo ≤ (Reg.CMDQ_R_IDX_HEAD ring).hi ∧
    (Reg.CMDQ_R_IDX_HEAD ring).hi < 64 ∧ (Reg.CMDQ_R_IDX_HEAD ring).off < 0x1000 :=
  ⟨Nat.zero_le _, (by decide : 15 < 64), by simp only [Reg.CMDQ_R_IDX_HEAD]; omega⟩

theorem cmdqTail_ok (ring : Fin 16) : (Reg.CMDQ_R_IDX_TAIL ring).lo ≤ (Reg.CMDQ_R_IDX_TAIL ring).hi ∧
    (Reg.CMDQ_R_IDX_TAIL ring).hi < 64 ∧ (Reg.CMDQ_R_IDX_TAIL ring).off < 0x1000 :=
  ⟨(by decide : 16 ≤ 31), (by decide : 31 < 64), by simp only [Reg.CMDQ_R_IDX_TAIL]; omega⟩

theorem cmdqCplTail_ok (ring : Fin 16) : (Reg.CMDQ_R_IDX_CPL_TAIL ring).lo ≤ (Reg.CMDQ_R_IDX_CPL_TAIL ring).hi ∧
    (Reg.CMDQ_R_IDX_CPL_TAIL ring).hi < 64 ∧ (Reg.CMDQ_R_IDX_CPL_TAIL ring).off < 0x1000 :=
  ⟨(by decide : 32 ≤ 47), (by decide : 47 < 64), by simp only [Reg.CMDQ_R_IDX_CPL_TAIL]; omega⟩

/-- The configuration of a ring stands in another register than its indexes. -/
theorem cmdqCfg_ne_idx (ring : Fin 16) : (Reg.CMDQ_R_CFG_EN ring).off ≠ (Reg.CMDQ_R_IDX_HEAD ring).off := by
  simp only [Reg.CMDQ_R_CFG_EN, Reg.CMDQ_R_IDX_HEAD]; omega

/-! ### CMDQ_RING_ENABLE -/

theorem exec_cmdqRingEnable {s : State} {ring : Fin 16} (off : s.bit pgCMDQ (Reg.CMDQ_R_CFG_EN ring) = false)
    (disabled : s.enabled pgCMDQ = false) : exec (.cmdqRingEnable ring) s =
      .next ((s.setBit pgCMDQ (Reg.CMDQ_R_CFG_EN ring) true).restartRing ring) :=
  congrArg Host.Outcome.next ((if_neg (ne_true_of_eq_false off)).trans (if_neg (ne_true_of_eq_false disabled)))

theorem exec_cmdqRingEnable_refused {s : State} {ring : Fin 16} (off : s.bit pgCMDQ (Reg.CMDQ_R_CFG_EN ring) = false)
    (enabled : s.enabled pgCMDQ = true) : exec (.cmdqRingEnable ring) s =
      .next (s.reject pgCMDQ (Reg.CMDQ_R_CFG_EN ring).off 1) :=
  congrArg Host.Outcome.next ((if_neg (ne_true_of_eq_false off)).trans (if_pos enabled))

theorem State.rd_restartRing (s : State) (n page off : Nat) :
    (s.restartRing n).rd page off = (s.wr pgCMDQ (Reg.CMDQ_R_IDX_HEAD n).off 0).rd page off := rfl

theorem State.ring_restartRing_self (s : State) (n : Nat) : (s.restartRing n).ring n =
    { s.ring n with waiting := if (s.ring n).busy then (s.ring n).waiting.take 1 else [], cpls := [], phase := true } :=
  State.ring_setRing_self _ _ _

theorem State.ring_restartRing_ne (s : State) {n m : Nat} (h : m ≠ n) : (s.restartRing n).ring m = s.ring m :=
  State.ring_setRing_ne ((s.wr pgCMDQ (Reg.CMDQ_R_IDX_HEAD n).off 0).orphanCpl n) _ h

/-- Starting a ring again changes registers, rings, doorbell values and requests. -/
theorem RegsOnly.restartRing {s u : State} (h : RegsOnly s u) (n : Nat) : u.restartRing n =
    { s with regs := (u.restartRing n).regs, rings := (u.restartRing n).rings, doorbells := (u.restartRing n).doorbells
             link := (u.restartRing n).link } := by
  obtain ⟨regs, rfl⟩ : ∃ regs, u = { s with regs := regs } := ⟨_, h⟩
  rfl

theorem State.doorbells_restartRing (s : State) (n : Nat) :
    (s.restartRing n).doorbells = kset (fun _ => 0) s.doorbells n 0 := rfl

/-- What starting a ring again leaves, after EN alone has changed (R74; log 152). -/
theorem restartRing_effect {s u : State} {ring : Fin 16} (en : u.bit pgCMDQ (Reg.CMDQ_R_CFG_EN ring) = true)
    (only : OnlyBits ((Reg.CMDQ_R_CFG_EN ring).bits pgCMDQ) s u) :
    let idx := (Reg.CMDQ_R_IDX_HEAD ring).off
    let t := u.restartRing ring
    t.bit pgCMDQ (Reg.CMDQ_R_CFG_EN ring) = true ∧ t.rd pgCMDQ idx = 0 ∧
      (t.ring ring).cpls = [] ∧ (t.ring ring).phase = true ∧ ((s.ring ring).busy = false → (t.ring ring).waiting = []) ∧
      kget (fun _ => 0) t.doorbells ring = 0 ∧ (∀ n, n ≠ ring.val → t.ring n = s.ring n) ∧
      t = { s with regs := t.regs, rings := t.rings, doorbells := t.doorbells, link := t.link } ∧
      RegFrame (fun pg off i => pg = pgCMDQ ∧ off = idx ∨ (Reg.CMDQ_R_CFG_EN ring).bits pgCMDQ pg off i) s t := by
  intro idx t
  have idxOk : idx < 0x1000 := (cmdqHead_ok ring).2.2
  have rings : ∀ n, u.ring n = s.ring n := fun n => by rw [only.1]; rfl
  refine ⟨?_, ?_, ?_, ?_, fun idle => ?_, ?_, fun n hn => ?_, only.1.restartRing ring, ?_⟩
  · rw [State.bit, State.fld_eq_of_bits (s := u), ← State.bit, en]
    intro i _ _
    rw [State.rd_restartRing, State.rd_wr_ne _ _ idxOk (cmdqEn_ok ring).2.2 fun h => cmdqCfg_ne_idx ring h.2]
  · rw [State.rd_restartRing, State.rd_wr_self]
  · rw [State.ring_restartRing_self]
  · rw [State.ring_restartRing_self]
  · rw [State.ring_restartRing_self, rings]
    exact if_neg (ne_true_of_eq_false idle)
  · rw [State.doorbells_restartRing, kget_kset_self]
  · rw [u.ring_restartRing_ne hn, rings]
  · have frame := (only.trans (onlyBits_wr u pgCMDQ idx 0 idxOk)).2
    exact (regFrame_of_rd frame (u.rd_restartRing ring)).mono fun _ _ _ h => h.elim .inr .inl

/-- A ring of the enabled block is not enabled (R34). -/
theorem ringEnable_refused {s : State} {ring : Fin 16} (off : s.bit pgCMDQ (Reg.CMDQ_R_CFG_EN ring) = false)
    (enabled : s.enabled pgCMDQ = true) (first : s.bit pgCMDQ Reg.BLK_STAT_CFG_REJECT = false) :
    ∃ t, exec (.cmdqRingEnable ring) s = .next t ∧ t.bit pgCMDQ (Reg.CMDQ_R_CFG_EN ring) = false ∧
      t.fld pgCMDQ Reg.BLK_STAT_REJ_CAUSE = 1 ∧ t.rings = s.rings := by
  obtain ⟨_, cause, _, _, ints, frame⟩ := reject_effect (page := pgCMDQ) (cause := 1) (by decide)
    (cmdqEn_ok ring).2.2 (by decide) first
  refine ⟨_, exec_cmdqRingEnable_refused off enabled, ?_, cause, by rw [ints]⟩
  rw [State.bit, frame.fld (by decide) (cmdqEn_ok ring).2.2]
  · exact off
  · rintro i _ _ (⟨_, _, k, hk, h⟩ | ⟨_, h | ⟨h, _⟩⟩) <;> simp only [Reg.CMDQ_R_CFG_EN] at h <;> omega

/-! ### CMDQ_DOORBELL -/

theorem exec_cmdqDoorbell (s : State) (ring : Fin 16) {v : Word} (hv : v.toNat < 2 ^ 16) :
    exec (.cmdqDoorbell ring 0 8 v) s = .next
      (if s.ringSize ring ≤ v.toNat then
        ({ s with doorbells := kset (fun _ => 0) s.doorbells ring v } : State).error pgCMDQ Src.cmdq_TAIL_RANGE
      else ({ s with doorbells := kset (fun _ => 0) s.doorbells ring v } : State).setFld pgCMDQ (Reg.CMDQ_R_IDX_TAIL ring)
        v.toNat) := by
  have ok : doorbellOk (0 : Fin 4096) 8 v true = true := by
    rw [doorbellOk, decide_eq_true hv]; rfl
  exact congrArg Host.Outcome.next (if_neg (by rw [ok]; decide))

/-- A doorbell within the ring moves its TAIL. -/
theorem doorbell_moves (s : State) (ring : Fin 16) {v : Word} (hv : v.toNat < 2 ^ 16) (inside : v.toNat < s.ringSize ring) :
    ∃ t, exec (.cmdqDoorbell ring 0 8 v) s = .next t ∧ t.fld pgCMDQ (Reg.CMDQ_R_IDX_TAIL ring) = v.toNat ∧
      kget (fun _ => 0) t.doorbells ring = v ∧ t = { s with regs := t.regs, doorbells := t.doorbells } ∧
      RegFrame ((Reg.CMDQ_R_IDX_TAIL ring).bits pgCMDQ) s t := by
  rw [exec_cmdqDoorbell s ring hv, if_neg (Nat.not_le.2 inside)]
  exact ⟨_, rfl, State.fld_setFld_fits _ _ (cmdqTail_ok ring) hv, kget_kset_self _ _ _, rfl,
    (onlyBits_setFld { s with doorbells := kset (fun _ => 0) s.doorbells ring v } pgCMDQ _ _ (cmdqTail_ok ring)).2⟩

/-- A doorbell beyond the ring is recorded and moves nothing (R75). -/
theorem doorbell_beyond (s : State) (ring : Fin 16) {v : Word} (hv : v.toNat < 2 ^ 16) (beyond : s.ringSize ring ≤ v.toNat)
    (quiet : s.quietError pgCMDQ Src.cmdq_TAIL_RANGE) :
    ∃ t, exec (.cmdqDoorbell ring 0 8 v) s = .next t ∧ Recorded pgCMDQ Src.cmdq_TAIL_RANGE t ∧
      RegFrame (errBits pgCMDQ Src.cmdq_TAIL_RANGE) s t := by
  obtain ⟨_, frame, recorded⟩ := recordError_effect { s with doorbells := kset (fun _ => 0) s.doorbells ring v }
    (page := pgCMDQ) (src := Src.cmdq_TAIL_RANGE) false 0 (by decide) (by decide) quiet
  rw [exec_cmdqDoorbell s ring hv, if_pos beyond]
  exact ⟨_, rfl, recorded, frame⟩

end Sys2Proof.Machine

namespace Sys2Proof.Machine
open Sys2Proof

/-! ### Entries of a ring (R74, R75, R391) -/

/-- An entry stands behind those that wait, and HEAD is behind it. -/
def State.enqueue (s : State) (n : Nat) (c : Cmd) : State :=
  let t := s.setFld pgCMDQ (Reg.CMDQ_R_IDX_HEAD n) ((s.fld pgCMDQ (Reg.CMDQ_R_IDX_HEAD n) + 1) % s.ringSize n)
  t.setRing n { t.ring n with waiting := (t.ring n).waiting ++ [c] }

theorem State.takeEntry_some {s : State} {n : Nat} (fetches : s.fetches n = true) (e : List Byte) :
    s.takeEntry n (some e) = (if (parseCmd e).bad then (s.enqueue n (parseCmd e)).error pgCMDQ Src.cmdq_ENTRY_INVALID
      else s.enqueue n (parseCmd e)).settleRing n := by
  rw [State.takeEntry, if_neg (by rw [fetches]; decide)]; rfl

theorem State.takeEntry_none {s : State} {n : Nat} (fetches : s.fetches n = true) :
    s.takeEntry n none = (s.setBit pgCMDQ (Reg.CMDQ_R_CFG_EN n) false).error pgCMDQ Src.cmdq_RING_FETCH := by
  rw [State.takeEntry, if_neg (by rw [fetches]; decide)]

theorem exec_cmdEntryFetch_some {s : State} {ring : Fin 16} {e : List Byte} (len : e.length = 64) :
    exec (.cmdEntryFetch ring (some e)) s = .next (s.takeEntry ring (some e)) := if_pos len

/-- What an entry that is read changes. -/
theorem enqueue_effect (s : State) (ring : Fin 16) (c : Cmd) :
    (s.enqueue ring c).fld pgCMDQ (Reg.CMDQ_R_IDX_HEAD ring) =
        (s.fld pgCMDQ (Reg.CMDQ_R_IDX_HEAD ring) + 1) % s.ringSize ring % 2 ^ 16 ∧
      (s.enqueue ring c).ring ring = { s.ring ring with waiting := (s.ring ring).waiting ++ [c] } ∧
      s.enqueue ring c = { s with regs := (s.enqueue ring c).regs, rings := (s.enqueue ring c).rings } ∧
      RegFrame ((Reg.CMDQ_R_IDX_HEAD ring).bits pgCMDQ) s (s.enqueue ring c) := by
  have moved := State.fld_setFld_self s pgCMDQ (Reg.CMDQ_R_IDX_HEAD ring)
    ((s.fld pgCMDQ (Reg.CMDQ_R_IDX_HEAD ring) + 1) % s.ringSize ring) (cmdqHead_ok ring)
  obtain ⟨only, frame⟩ := onlyBits_setFld s pgCMDQ (Reg.CMDQ_R_IDX_HEAD ring)
    ((s.fld pgCMDQ (Reg.CMDQ_R_IDX_HEAD ring) + 1) % s.ringSize ring) (cmdqHead_ok ring)
  simp only [State.enqueue]
  generalize s.setFld pgCMDQ (Reg.CMDQ_R_IDX_HEAD ring) _ = u at moved only frame
  exact ⟨(u.fld_setRing _ _ _ _).trans moved, by rw [State.ring_setRing_self, only.ring], only.setRing _ _, frame.setRing _ _⟩

/-- Valid entries are not settled. -/
theorem State.settleRing_valid {s : State} {n : Nat} (h : ∀ d ∈ (s.ring n).waiting, d.bad = false) : s.settleRing n = s := by
  rw [State.settleRing]
  cases waiting : (s.ring n).waiting with
  | nil => rfl
  | cons c rest =>
    have ok : c.bad = false := h c (by rw [waiting]; exact List.mem_cons_self)
    simp [State.settleFrom, waiting, ok]

/-- A single invalid entry of a served ring completes with 37 BAD_COMMAND (R64, R75). -/
theorem State.settleRing_invalid {s : State} {n : Nat} {c : Cmd} (waiting : (s.ring n).waiting = [c]) (bad : c.bad = true)
    (serves : s.serves n = true) : s.settleRing n = s.completeOne n 37 0 0 0 := by
  simp [State.settleRing, State.settleFrom, waiting, bad, serves]

/-- What says whether a ring is served. -/
theorem State.serves_congr {s t : State} {n : Nat} (enabled : t.enabled pgCMDQ = s.enabled pgCMDQ)
    (en : t.bit pgCMDQ (Reg.CMDQ_R_CFG_EN n) = s.bit pgCMDQ (Reg.CMDQ_R_CFG_EN n)) (busy : (t.ring n).busy = (s.ring n).busy)
    (glb : t.rd pgGLB 0x100 = s.rd pgGLB 0x100) : t.serves n = s.serves n := by
  have bit : ∀ f : Fld, f.off = 0x100 → t.bit pgGLB f = s.bit pgGLB f := fun f hf => by
    rw [State.bit, State.bit, State.fld, State.fld, hf, glb]
  rw [State.serves, State.serves, enabled, en, busy, State.holdsCommands, State.holdsCommands, bit _ rfl, bit _ rfl, bit _ rfl]

theorem IntsOnly.rings {s t : State} (h : IntsOnly s t) : t.rings = s.rings := by rw [h]

theorem RegFrame.rd {p : BitSet} {s t : State} (frame : RegFrame p s t) {page off : Nat} (hp : page < 512)
    (ho : off < 0x1000) (hn : ∀ i, ¬ p page off i) : t.rd page off = s.rd page off :=
  BitVec.eq_of_getLsbD_eq fun i _ => frame page off i hp ho (hn i)

/-- A valid entry waits as its command. -/
theorem entryFetch_valid {s : State} {ring : Fin 16} (fetches : s.fetches ring = true) {e : List Byte} (len : e.length = 64)
    (ok : (parseCmd e).bad = false) (others : ∀ d ∈ (s.ring ring).waiting, d.bad = false) :
    ∃ t, exec (.cmdEntryFetch ring (some e)) s = .next t ∧
      t.fld pgCMDQ (Reg.CMDQ_R_IDX_HEAD ring) = (s.fld pgCMDQ (Reg.CMDQ_R_IDX_HEAD ring) + 1) % s.ringSize ring % 2 ^ 16 ∧
      t.ring ring = { s.ring ring with waiting := (s.ring ring).waiting ++ [parseCmd e] } ∧
      t = { s with regs := t.regs, rings := t.rings } ∧ RegFrame ((Reg.CMDQ_R_IDX_HEAD ring).bits pgCMDQ) s t := by
  obtain ⟨head, waits, only, frame⟩ := enqueue_effect s ring (parseCmd e)
  have settled : (s.enqueue ring (parseCmd e)).settleRing ring = s.enqueue ring (parseCmd e) :=
    State.settleRing_valid fun d hd => by
      rw [waits] at hd
      rcases List.mem_append.1 hd with h | h
      · exact others d h
      · rw [List.mem_singleton.1 h, ok]
  refine ⟨_, ?_, head, waits, only, frame⟩
  rw [exec_cmdEntryFetch_some len, State.takeEntry_some fetches, if_neg (ne_true_of_eq_false ok), settled]

/-- An invalid entry that is alone in a served ring is recorded and completes. -/
theorem entryFetch_invalid {s : State} {ring : Fin 16} (fetches : s.fetches ring = true) {e : List Byte} (len : e.length = 64)
    (bad : (parseCmd e).bad = true) (alone : (s.ring ring).waiting = []) (serves : s.serves ring = true)
    (quiet : s.quietError pgCMDQ Src.cmdq_ENTRY_INVALID) :
    ∃ t, exec (.cmdEntryFetch ring (some e)) s = .next t ∧
      t.fld pgCMDQ (Reg.CMDQ_R_IDX_HEAD ring) = (s.fld pgCMDQ (Reg.CMDQ_R_IDX_HEAD ring) + 1) % s.ringSize ring % 2 ^ 16 ∧
      RingCompleted ring (parseCmd e) [] 37 0 0 0 t ∧ Recorded pgCMDQ Src.cmdq_ENTRY_INVALID t := by
  obtain ⟨head, waits, only, frame⟩ := enqueue_effect s ring (parseCmd e)
  have far : ∀ {page off : Nat}, off < 0x118 → ∀ i, ¬ (Reg.CMDQ_R_IDX_HEAD ring).bits pgCMDQ page off i := fun h i ⟨_, h', _⟩ => by
    simp only [Reg.CMDQ_R_IDX_HEAD] at h'; omega
  have quiet' := quiet.of_frame frame (by decide) (far (by decide)) (far (by decide)) fun i h => absurd h.1 (by decide)
  obtain ⟨ints, errs, recorded⟩ := recordError_effect (s.enqueue ring (parseCmd e)) (page := pgCMDQ)
    (src := Src.cmdq_ENTRY_INVALID) false 0 (by decide) (by decide) quiet'
  generalize hu : (s.enqueue ring (parseCmd e)).recordError pgCMDQ Src.cmdq_ENTRY_INVALID false 0 = u at ints errs recorded
  have rings : u.ring ring = { s.ring ring with waiting := [parseCmd e] } := by
    rw [alone, List.nil_append] at waits
    rw [State.ring, ints.rings, ← waits]; rfl
  have both := frame.trans errs
  have serves' : u.serves ring = true := by
    rw [← serves]
    refine State.serves_congr ?_ ?_ (by rw [rings]) ?_
    · refine congrArg (· == 1) (both.fld (by decide) (by decide) ?_)
      rintro i _ _ (h | ⟨_, h | h | h⟩)
      · exact far (by decide) i h
      · exact absurd h.1 (by decide)
      · exact absurd h (by decide)
      · exact absurd h.1 (by decide)
    · refine congrArg (· == 1) (both.fld (by decide) (cmdqEn_ok ring).2.2 ?_)
      rintro i _ _ (⟨_, h, _⟩ | ⟨_, h⟩)
      · exact cmdqCfg_ne_idx ring h
      · simp only [Reg.CMDQ_R_CFG_EN] at h; omega
    · refine both.rd (by decide) (by decide) ?_
      rintro i (h | h)
      · exact absurd h.1 (by decide)
      · exact absurd h.1 (by decide)
  obtain ⟨done, ringDone⟩ := completeOne_effect (s := u) (n := ring) (c := parseCmd e) (rest := []) (by rw [rings]) 37 0 0 0
  refine ⟨u.completeOne ring 37 0 0 0, ?_, ?_, ⟨?_, [], ?_, fun _ h => nomatch h⟩, ?_⟩
  · rw [exec_cmdEntryFetch_some len, State.takeEntry_some fetches, if_pos bad, State.error, hu,
      State.settleRing_invalid (by rw [rings]) bad serves']
  · rw [done.fld (by decide) (cmdqHead_ok ring).2.2 (.inr (.inl (by decide))), ← head]
    refine errs.fld_of_errBits (by decide) (cmdqHead_ok ring).2.2 (.inr ?_)
    simp only [Reg.CMDQ_R_IDX_HEAD]; omega
  · rw [ringDone, done.beat]
    exact List.mem_append_right _ (List.mem_singleton_self _)
  · rw [ringDone]; rfl
  · exact recorded.of_frame done.2 (by decide) fun ⟨n, hn, h, _⟩ => by unfold pgCMDQ pgULNK at h; omega

/-- A failed read of an entry disables its ring (R75). -/
theorem entryFetch_failed {s : State} {ring : Fin 16} (fetches : s.fetches ring = true)
    (quiet : s.quietError pgCMDQ Src.cmdq_RING_FETCH) :
    ∃ t, exec (.cmdEntryFetch ring none) s = .next t ∧ t.bit pgCMDQ (Reg.CMDQ_R_CFG_EN ring) = false ∧
      Recorded pgCMDQ Src.cmdq_RING_FETCH t ∧ t.rings = s.rings := by
  have frame := (onlyBits_setBit s pgCMDQ (Reg.CMDQ_R_CFG_EN ring) false (cmdqEn_ok ring)).2
  have far : ∀ {page off : Nat}, off < 0x108 → ∀ i, ¬ (Reg.CMDQ_R_CFG_EN ring).bits pgCMDQ page off i := fun h i ⟨_, h', _⟩ => by
    simp only [Reg.CMDQ_R_CFG_EN] at h'; omega
  have quiet' := quiet.of_frame frame (by decide) (far (by decide)) (far (by decide)) fun i h => absurd h.1 (by decide)
  obtain ⟨ints, errs, recorded⟩ := recordError_effect (s.setBit pgCMDQ (Reg.CMDQ_R_CFG_EN ring) false) (page := pgCMDQ)
    (src := Src.cmdq_RING_FETCH) false 0 (by decide) (by decide) quiet'
  refine ⟨_, congrArg Host.Outcome.next (State.takeEntry_none fetches), ?_, recorded, ?_⟩
  · refine Eq.trans (congrArg (· == 1) (errs.fld_of_errBits (by decide) (cmdqEn_ok ring).2.2 (.inr ?_)))
      (State.bit_setBit_self s pgCMDQ (Reg.CMDQ_R_CFG_EN ring) false (cmdqEn_ok ring) rfl)
    simp only [Reg.CMDQ_R_CFG_EN]; omega
  · exact ints.rings.trans (s.setBit_rings _ _ _)

end Sys2Proof.Machine

namespace Sys2Proof.Machine
open Sys2Proof

/-! ### Acknowledged completions (R392) -/

/-- The oldest completion entry of a ring is gone, and PHASE inverts on a new pass. -/
def Ring.acked (r : Ring) (tail : Nat) : Ring := { r with cpls := r.cpls.drop 1, phase := if tail = 0 then !r.phase else r.phase }

/-- Where CPL_TAIL moves. -/
def State.nextCplTail (s : State) (n : Nat) : Nat := (s.fld pgCMDQ (Reg.CMDQ_R_IDX_CPL_TAIL n) + 1) % s.ringSize n

/-- CPL_TAIL has moved on, and the oldest completion entry is gone. -/
def State.advanceCpl (s : State) (n tail : Nat) : State :=
  let u := s.setFld pgCMDQ (Reg.CMDQ_R_IDX_CPL_TAIL n) tail
  u.setRing n ((u.ring n).acked tail)

theorem State.cplAcked_eq (s : State) (n : Nat) : s.cplAcked n =
    (if (s.advanceCpl n (s.nextCplTail n)).bit pgCMDQ (Reg.CMDQ_R_CFG_CPL_INT n) then
      (s.advanceCpl n (s.nextCplTail n)).msix ((s.advanceCpl n (s.nextCplTail n)).fld pgCMDQ (Reg.CMDQ_R_CFG_VECTOR n))
    else s.advanceCpl n (s.nextCplTail n)).sendCpl n := rfl

theorem State.sendCpl_empty {s : State} {n : Nat} (h : (s.ring n).cpls = []) : s.sendCpl n = s := by rw [State.sendCpl, h]

/-- The acknowledged request is no longer out. -/
def State.dropReq (s : State) (r : HostReq) : State :=
  { s with link := { s.link with reqs := s.link.reqs.filter fun q => q.id != r.id } }

theorem exec_cplWriteAck {s : State} {ring : Fin 16} {r : HostReq} (out : s.cplOut ring = some r) :
    exec (.cplWriteAck ring) s = .next ((s.dropReq r).cplAcked ring) := by
  change Host.Outcome.next _ = _
  rw [out]; rfl

theorem advanceCpl_effect (s : State) (ring : Fin 16) (tail : Nat) :
    (s.advanceCpl ring tail).fld pgCMDQ (Reg.CMDQ_R_IDX_CPL_TAIL ring) = tail % 2 ^ 16 ∧
      (s.advanceCpl ring tail).ring ring = (s.ring ring).acked tail ∧
      s.advanceCpl ring tail = { s with regs := (s.advanceCpl ring tail).regs, rings := (s.advanceCpl ring tail).rings } ∧
      RegFrame ((Reg.CMDQ_R_IDX_CPL_TAIL ring).bits pgCMDQ) s (s.advanceCpl ring tail) := by
  have moved := State.fld_setFld_self s pgCMDQ (Reg.CMDQ_R_IDX_CPL_TAIL ring) tail (cmdqCplTail_ok ring)
  obtain ⟨only, frame⟩ := onlyBits_setFld s pgCMDQ (Reg.CMDQ_R_IDX_CPL_TAIL ring) tail (cmdqCplTail_ok ring)
  simp only [State.advanceCpl]
  generalize s.setFld pgCMDQ (Reg.CMDQ_R_IDX_CPL_TAIL ring) tail = u at moved only frame
  exact ⟨(u.fld_setRing _ _ _ _).trans moved, by rw [State.ring_setRing_self, only.ring], only.setRing _ _, frame.setRing _ _⟩

theorem IntsOnly.reqs {s t : State} (h : IntsOnly s t) : t.link.reqs = s.link.reqs := by rw [h]

/-- A vector that is not masked is sent. -/
theorem State.msix_sent {s : State} {vec : Nat} (open_ : s.link.fnMask = false) (unmasked : vec ∈ s.link.unmasked) :
    s.msix vec = s.emit (.msix vec) := by
  refine if_neg ?_
  rw [open_, Bool.false_or, List.contains_iff_mem.2 unmasked]
  decide

/-- CPL_TAIL, the ring and the requests after an acknowledged completion, and its vector where the ring asks for it. -/
theorem cplWriteAck_effect {s : State} {ring : Fin 16} {r : HostReq} {c : Cpl} (out : s.cplOut ring = some r)
    (last : (s.ring ring).cpls = [c]) :
    let tail := (s.fld pgCMDQ (Reg.CMDQ_R_IDX_CPL_TAIL ring) + 1) % s.ringSize ring
    let vec := s.fld pgCMDQ (Reg.CMDQ_R_CFG_VECTOR ring)
    ∃ t, exec (.cplWriteAck ring) s = .next t ∧ t.fld pgCMDQ (Reg.CMDQ_R_IDX_CPL_TAIL ring) = tail % 2 ^ 16 ∧
      t.ring ring = { s.ring ring with cpls := [], phase := if tail = 0 then !(s.ring ring).phase else (s.ring ring).phase } ∧
      t.link.reqs = (s.link.reqs.filter fun q => q.id != r.id) ∧
      (s.bit pgCMDQ (Reg.CMDQ_R_CFG_CPL_INT ring) = false → t.out = s.out) ∧
      (s.bit pgCMDQ (Reg.CMDQ_R_CFG_CPL_INT ring) = true → s.link.fnMask = false → vec ∈ s.link.unmasked →
        t.out = .msix vec :: s.out) ∧
      t = { s with regs := t.regs, rings := t.rings, link := t.link, out := t.out } ∧
      RegFrame ((Reg.CMDQ_R_IDX_CPL_TAIL ring).bits pgCMDQ) s t := by
  intro tail vec
  obtain ⟨moved, ring_eq, only, frame⟩ := advanceCpl_effect (s.dropReq r) ring ((s.dropReq r).nextCplTail ring)
  have cfg : ∀ {f : Fld}, f.off = (Reg.CMDQ_R_CFG_EN ring).off →
      ((s.dropReq r).advanceCpl ring ((s.dropReq r).nextCplTail ring)).fld pgCMDQ f = s.fld pgCMDQ f := fun hf =>
    frame.fld (by decide) (hf ▸ (cmdqEn_ok ring).2.2) fun i _ _ ⟨_, h, _⟩ => cmdqCfg_ne_idx ring (hf.symm.trans h)
  generalize hu : (s.dropReq r).advanceCpl ring ((s.dropReq r).nextCplTail ring) = u at moved ring_eq only frame cfg
  let t := if s.bit pgCMDQ (Reg.CMDQ_R_CFG_CPL_INT ring) then u.msix vec else u
  have ints : IntsOnly u t := by
    by_cases h : s.bit pgCMDQ (Reg.CMDQ_R_CFG_CPL_INT ring) = true
    · simp only [t, if_pos h]; exact intsOnly_msix u vec
    · simp only [t, if_neg h]; exact .refl u
  have rd : ∀ page off, t.rd page off = u.rd page off := fun page off => by
    by_cases h : s.bit pgCMDQ (Reg.CMDQ_R_CFG_CPL_INT ring) = true
    · simp only [t, if_pos h, State.rd_msix]
    · simp only [t, if_neg h]
  have ring_t : t.ring ring = { s.ring ring with
      cpls := [], phase := if tail = 0 then !(s.ring ring).phase else (s.ring ring).phase } := by
    rw [State.ring, ints.rings, ← State.ring, ring_eq]
    have same : (s.dropReq r).ring ring = s.ring ring := rfl
    rw [same, Ring.acked, last]; rfl
  have sameInt : u.bit pgCMDQ (Reg.CMDQ_R_CFG_CPL_INT ring) = s.bit pgCMDQ (Reg.CMDQ_R_CFG_CPL_INT ring) := congrArg (· == 1) (cfg rfl)
  have sameVec : u.fld pgCMDQ (Reg.CMDQ_R_CFG_VECTOR ring) = vec := cfg rfl
  refine ⟨t, ?_, ?_, ring_t, ?_, fun off => ?_, fun on open_ unmasked => ?_, ?_, regFrame_of_rd frame rd⟩
  · rw [exec_cplWriteAck out, State.cplAcked_eq, hu, sameInt, sameVec]
    exact congrArg Host.Outcome.next (State.sendCpl_empty (by rw [ring_t]))
  · rw [State.fld_of_rd rd, moved]; rfl
  · rw [ints.reqs, only]; rfl
  · simp only [t, if_neg (ne_true_of_eq_false off)]
    rw [only]; rfl
  · simp only [t, if_pos on]
    rw [State.msix_sent (by rw [only]; exact open_) (by rw [only]; exact unmasked), only]; rfl
  · rw [ints, only]; rfl

/-! ### NOP -/

theorem nop_completes {s : State} {ring : Fin 16} {c : Cmd} {rest : List Cmd} (next : s.nextCmd ring 1 c rest) :
    ∃ t, exec (.nop ring) s = .next t ∧ RingCompleted ring c rest 0 0 0 0 t ∧ CplFrame s t := by
  obtain ⟨frame, completed⟩ := complete_effect next.1 0 0 0 0
  exact ⟨_, congrArg Host.Outcome.next (State.command_next next _), completed, frame⟩

/-- Settles O55: each command of a ring by the lemma that says what it leaves. -/
theorem commandRings : Obligations.CommandRings := by
  unfold Obligations.CommandRings
  intro s ring
  refine ⟨fun off => ⟨fun disabled => ?_, ringEnable_refused off⟩,
    fun v hv => ⟨doorbell_moves s ring hv, doorbell_beyond s ring hv⟩,
    fun fetches => ⟨fun e len => ⟨rfl, rfl, rfl, rfl, rfl, entryFetch_valid fetches len, entryFetch_invalid fetches len⟩,
      entryFetch_failed fetches⟩,
    fun r c out last => cplWriteAck_effect out last, fun c rest next => nop_completes next⟩
  exact ⟨_, exec_cmdqRingEnable off disabled, restartRing_effect (s.bit_setBit_self _ _ true (cmdqEn_ok ring) rfl)
    (onlyBits_setBit s _ _ true (cmdqEn_ok ring))⟩

end Sys2Proof.Machine

namespace Sys2Proof.Machine
open Sys2Proof

/-! ## Plan slots, stage runs and beats -/

@[simp] theorem State.slot_setSlot_self (s : State) (p : Nat) (x : PlanSlot) : (s.setSlot p x).slot p = x :=
  kget_kset_self _ _ _

theorem State.slot_setSlot_ne (s : State) {p q : Nat} (x : PlanSlot) (h : q ≠ p) : (s.setSlot p x).slot q = s.slot q :=
  kget_kset_ne _ h _

theorem State.setSlot_eq (s : State) (p : Nat) (x : PlanSlot) : ∃ slots, s.setSlot p x = { s with slots := slots } := ⟨_, rfl⟩

theorem State.rd_setSlot (s : State) (p : Nat) (x : PlanSlot) (page off : Nat) : (s.setSlot p x).rd page off = s.rd page off := rfl

@[simp] theorem State.fld_setSlot (s : State) (p : Nat) (x : PlanSlot) (page : Nat) (f : Fld) :
    (s.setSlot p x).fld page f = s.fld page f := State.fld_of_rd (s.rd_setSlot p x) page f

theorem State.bit_congr {s t : State} {page : Nat} {f : Fld} (h : t.fld page f = s.fld page f) : t.bit page f = s.bit page f := by
  rw [State.bit, State.bit, h]

theorem RegsOnly.slot {s t : State} (h : RegsOnly s t) (p : Nat) : t.slot p = s.slot p := by rw [h]; rfl
theorem IntsOnly.slot {s t : State} (h : IntsOnly s t) (p : Nat) : t.slot p = s.slot p := by rw [h]; rfl

theorem State.run_congr {s t : State} {p : Nat} (h : (t.slot p).runs = (s.slot p).runs) (stage k : Nat) :
    t.run p stage k = s.run p stage k := by rw [State.run, State.run, h]

/-- A run of a slot is found by its stage and chunk. -/
theorem State.run_isSome_of_mem {s : State} {p : Nat} {r : StageRun} (h : r ∈ (s.slot p).runs) :
    (s.run p r.stage r.chunk).isSome = true :=
  List.find?_isSome.2 ⟨r, h, by rw [beq_self_eq_true, beq_self_eq_true]; rfl⟩

theorem State.rd_setRun (s : State) (p : Nat) (r : StageRun) (page off : Nat) : (s.setRun p r).rd page off = s.rd page off := rfl

theorem State.setRun_eq (s : State) (p : Nat) (r : StageRun) : ∃ slots, s.setRun p r = { s with slots := slots } := ⟨_, rfl⟩

/-- What replacing the run of a stage on a chunk makes of the slot. -/
theorem State.slot_setRun (s : State) (p : Nat) (r : StageRun) : (s.setRun p r).slot p = { s.slot p with
    runs := (s.slot p).runs.map fun y => if y.stage = r.stage ∧ y.chunk = r.chunk then r else y } := by
  rw [State.setRun, State.slot_setSlot_self]
  simp only [Bool.and_eq_true, decide_eq_true_eq]

/-- The run that replaces another is found in its place. -/
theorem State.run_setRun {s : State} {p stage k : Nat} {r : StageRun} (found : (s.run p stage k).isSome = true)
    (hs : r.stage = stage) (hk : r.chunk = k) : (s.setRun p r).run p stage k = some r := by
  obtain ⟨x, hx⟩ := Option.isSome_iff_exists.1 found
  have isX : x.stage = stage ∧ x.chunk = k := by simpa using List.find?_some hx
  have same : (fun y : StageRun => y.stage == stage && y.chunk == k) ∘
      (fun y : StageRun => if y.stage = r.stage ∧ y.chunk = r.chunk then r else y) = fun y => y.stage == stage && y.chunk == k := by
    funext y
    by_cases h : y.stage = r.stage ∧ y.chunk = r.chunk
    · simp [Function.comp, h, hs, hk]
    · simp [Function.comp, h]
  have found' : List.find? (fun y : StageRun => y.stage == stage && y.chunk == k) (s.slot p).runs = some x := hx
  rw [State.run, State.slot_setRun, List.find?_map, same, found', Option.map_some, if_pos (by rw [hs, hk]; exact isX)]

theorem State.atBeat_counting {s : State} (on : s.beatOn = true) (b : Nat) (f : State → State) :
    s.atBeat b f = f (s.reached b) := if_pos on

/-! ## The limits of a gong (R68) -/

/-- The beat at which a limit of the stage's gong passes. -/
def State.gongDue (s : State) (r : StageRun) : Nat :=
  let a := r.began + 2 ^ s.fld pgPLAN Reg.PLAN_GONG_TMO_START_LOG2
  match r.firstArr with
  | some b => min a (b + 2 ^ s.fld pgPLAN Reg.PLAN_GONG_TMO_LOG2)
  | none => a

theorem State.gongDue_eq (s : State) (r : StageRun) : s.gongDue r =
    let a := r.began + 2 ^ s.fld pgPLAN Reg.PLAN_GONG_TMO_START_LOG2
    (r.firstArr.map fun b => min a (b + 2 ^ s.fld pgPLAN Reg.PLAN_GONG_TMO_LOG2)).getD a := by
  unfold State.gongDue
  cases r.firstArr <;> rfl

/-- The missing participants stand in the registers of the gong. -/
def State.noteMissing (s : State) (slot stage ts cs : Nat) : State :=
  (((s.setFld pgPLAN Reg.PLAN_GONG_MISS_TILES ts).setFld pgPLAN Reg.PLAN_GONG_WHERE_STW cs).setFld pgPLAN
    Reg.PLAN_GONG_WHERE_SLOT slot).setFld pgPLAN Reg.PLAN_GONG_WHERE_STAGE stage

/-- Units by their numbers, as bits. -/
def unitBits (l : List Nat) : Nat := l.foldl (fun m n => m + 2 ^ n) 0

theorem unitBits_eq_sum (l : List Nat) : unitBits l = (l.map fun n => 2 ^ n).sum := by
  rw [unitBits, List.sum_eq_foldl, List.foldl_map]

theorem exec_gongTimeout {s : State} {slot : Fin 16} {stage : Fin 64} {r : StageRun}
    (found : ((s.slot slot).runs.find? fun (r : StageRun) => r.stage == stage.val && !r.timedOut) = some r)
    (active : s.active slot = true) (on : s.beatOn = true) :
    let ts := unitBits ((s.tilesOf slot stage).filter fun u => !r.tiles.contains u)
    let cs := unitBits ((s.stageStws slot stage).filter fun n => !r.stws.contains n)
    exec (.gongTimeout slot stage) s = .next ((((s.reached (s.gongDue r)).noteMissing slot stage ts cs).setRun slot
      { r with timedOut := true }).recordError pgPLAN Src.plan_GONG_TIMEOUT false (ts + cs * 2 ^ 64)) := by
  intro ts cs
  change Host.Outcome.next _ = _
  rw [found]
  simp only [active, Bool.not_true, Bool.false_eq_true, if_false, State.atBeat_counting on]
  rfl

theorem noteMissing_effect (s : State) {slot stage : Nat} (hslot : slot < 16) (hstage : stage < 64) (ts cs : Nat) :
    let t := s.noteMissing slot stage ts cs
    t.fld pgPLAN Reg.PLAN_GONG_WHERE_SLOT = slot ∧ t.fld pgPLAN Reg.PLAN_GONG_WHERE_STAGE = stage ∧
      t.fld pgPLAN Reg.PLAN_GONG_MISS_TILES = ts % 2 ^ 64 ∧
      OnlyBits (fun pg off _ => pg = pgPLAN ∧ (off = 0x140 ∨ off = 0x148)) s t := by
  refine ⟨?_, ?_, ?_, ?_⟩
  · simp (disch := decide) only [State.noteMissing, State.fld_setFld_bits, State.fld_setFld_same]
    exact Nat.mod_eq_of_lt hslot
  · simp (disch := decide) only [State.noteMissing, State.fld_setFld_same]
    exact Nat.mod_eq_of_lt hstage
  · simp (disch := decide) only [State.noteMissing, State.fld_setFld_off, State.fld_setFld_same]
    rfl
  · exact ((((OnlyBits.start _ s).setFld ts (by decide) fun _ _ _ => ⟨rfl, .inl rfl⟩).setFld cs (by decide)
      fun _ _ _ => ⟨rfl, .inr rfl⟩).setFld slot (by decide) fun _ _ _ => ⟨rfl, .inr rfl⟩).setFld stage (by decide)
      fun _ _ _ => ⟨rfl, .inr rfl⟩

theorem gongTimeout_effect {s : State} {slot : Fin 16} {stage : Fin 64} {r : StageRun}
    (found : ((s.slot slot).runs.find? fun (r : StageRun) => r.stage == stage.val && !r.timedOut) = some r)
    (active : s.active slot = true) (on : s.beatOn = true) (quiet : s.quietError pgPLAN Src.plan_GONG_TIMEOUT) :
    ∃ t, exec (.gongTimeout slot stage) s = .next t ∧ Recorded pgPLAN Src.plan_GONG_TIMEOUT t ∧
      t.beat = max s.beat (s.gongDue r) ∧
      t.fld pgPLAN Reg.PLAN_GONG_WHERE_SLOT = slot ∧ t.fld pgPLAN Reg.PLAN_GONG_WHERE_STAGE = stage ∧
      t.fld pgPLAN Reg.PLAN_GONG_MISS_TILES =
        (((s.tilesOf slot stage).filter fun u => !r.tiles.contains u).map fun u => 2 ^ u).sum % 2 ^ 64 ∧
      t.run slot r.stage r.chunk = some { r with timedOut := true } := by
  have run := exec_gongTimeout found active on
  simp only at run
  rw [← unitBits_eq_sum]
  generalize unitBits ((s.tilesOf slot stage).filter fun u => !r.tiles.contains u) = ts at run ⊢
  generalize unitBits ((s.stageStws slot stage).filter fun n => !r.stws.contains n) = cs at run
  obtain ⟨hslot, hstage, tiles, only, frame⟩ := noteMissing_effect (s.reached (s.gongDue r)) slot.isLt stage.isLt ts cs
  generalize (s.reached (s.gongDue r)).noteMissing slot stage ts cs = u at run hslot hstage tiles only frame
  have slotU : u.slot slot = s.slot slot := only.slot slot
  have runU : (u.run slot r.stage r.chunk).isSome = true := by
    rw [State.run_congr (s := s) (by rw [slotU])]
    exact State.run_isSome_of_mem (List.mem_of_find?_eq_some found)
  have placed : (u.setRun slot { r with timedOut := true }).run slot r.stage r.chunk = some { r with timedOut := true } :=
    State.run_setRun runU rfl rfl
  have rdV := u.rd_setRun slot { r with timedOut := true }
  have beatV : (u.setRun slot { r with timedOut := true }).beat = max s.beat (s.gongDue r) := by
    obtain ⟨slots, eq⟩ := u.setRun_eq slot { r with timedOut := true }
    rw [eq, only]; rfl
  generalize u.setRun slot { r with timedOut := true } = v at run placed rdV beatV
  have quietV : v.quietError pgPLAN Src.plan_GONG_TIMEOUT :=
    State.quietError.of_frame (s := s.reached (s.gongDue r)) quiet (regFrame_of_rd frame rdV) (by decide)
      (fun i h => by have := h.2; omega) (fun i h => by have := h.2; omega) fun i h => absurd h.1 (by decide)
  obtain ⟨ints, errs, recorded⟩ := recordError_effect v (page := pgPLAN) (src := Src.plan_GONG_TIMEOUT) false (ts + cs * 2 ^ 64)
    (by decide) (by decide) quietV
  have kept : ∀ {f : Fld}, f.off = 0x140 ∨ f.off = 0x148 →
      (v.recordError pgPLAN Src.plan_GONG_TIMEOUT false (ts + cs * 2 ^ 64)).fld pgPLAN f = u.fld pgPLAN f := fun hf =>
    (errs.fld_of_errBits (by decide) (by omega) (.inr (by omega))).trans (State.fld_of_rd rdV _ _)
  refine ⟨_, run, recorded, ?_, ?_, ?_, ?_, ?_⟩
  · rw [ints.kept.1, beatV]
  · rw [kept (.inr rfl), hslot]
  · rw [kept (.inr rfl), hstage]
  · rw [kept (.inl rfl), tiles]
  · rw [State.run_congr (s := v) (by rw [ints.slot]), placed]

end Sys2Proof.Machine

namespace Sys2Proof.Machine
open Sys2Proof

/-! ## Posting a cue (R344, R345) -/

theorem cueOff_lt {c : Nat} (hc : c < 32) : (Reg.TIME_CUE_CTL_PENDING c).off < 0x1000 := by
  simp only [Reg.TIME_CUE_CTL_PENDING]; omega

theorem cuePending_ok {c : Nat} (hc : c < 32) : (Reg.TIME_CUE_CTL_PENDING c).lo ≤ (Reg.TIME_CUE_CTL_PENDING c).hi ∧
    (Reg.TIME_CUE_CTL_PENDING c).hi < 64 ∧ (Reg.TIME_CUE_CTL_PENDING c).off < 0x1000 :=
  ⟨le_refl _, (by decide : 1 < 64), cueOff_lt hc⟩

theorem cueLate_ok {c : Nat} (hc : c < 32) : (Reg.TIME_CUE_CTL_LATE c).lo ≤ (Reg.TIME_CUE_CTL_LATE c).hi ∧
    (Reg.TIME_CUE_CTL_LATE c).hi < 64 ∧ (Reg.TIME_CUE_CTL_LATE c).off < 0x1000 :=
  ⟨le_refl _, (by decide : 2 < 64), cueOff_lt hc⟩

theorem cueFired_ok {c : Nat} (hc : c < 32) : (Reg.TIME_CUE_CTL_FIRED c).lo ≤ (Reg.TIME_CUE_CTL_FIRED c).hi ∧
    (Reg.TIME_CUE_CTL_FIRED c).hi < 64 ∧ (Reg.TIME_CUE_CTL_FIRED c).off < 0x1000 :=
  ⟨(by decide : 32 ≤ 63), (by decide : 63 < 64), cueOff_lt hc⟩

theorem gated_ok : Reg.CLK_GATE_GATED.lo ≤ Reg.CLK_GATE_GATED.hi ∧ Reg.CLK_GATE_GATED.hi < 64 ∧
    Reg.CLK_GATE_GATED.off < 0x1000 := by decide

/-- The target of a cue slot is set. -/
def State.setCue (s : State) (c : Nat) (target : Option Nat) : State := { s with cues := kset (fun _ => none) s.cues c target }

theorem State.cue_setCue_self (s : State) (c : Nat) (target : Option Nat) : (s.setCue c target).cue c = target :=
  kget_kset_self _ _ _

theorem RegsOnly.cue {s t : State} (h : RegsOnly s t) (c : Nat) : t.cue c = s.cue c := by rw [h]; rfl
theorem IntsOnly.cue {s t : State} (h : IntsOnly s t) (c : Nat) : t.cue c = s.cue c := by rw [h]; rfl

theorem State.setCue_eq (s : State) (c : Nat) (target : Option Nat) : ∃ cues, s.setCue c target = { s with cues := cues } :=
  ⟨_, rfl⟩

/-- A posted cue in its registers; gated quads run again. -/
def State.showCue (s : State) (c : Nat) (late : Bool) : State :=
  ((s.setBit pgTIME (Reg.TIME_CUE_CTL_PENDING c) true).setBit pgTIME (Reg.TIME_CUE_CTL_LATE c) late).setFld pgCLK
    Reg.CLK_GATE_GATED 0

theorem State.postCue_lead {s : State} (c : Nat) {target : Nat} (lead : s.beat + 128 ≤ target) :
    s.postCue c target = (s.setCue c (some target)).showCue c false := by
  have early : decide (target < s.beat + 128) = false := decide_eq_false (Nat.not_lt.2 lead)
  simp only [State.postCue, if_neg (Nat.not_lt.2 lead), early]
  rfl

theorem State.postCue_late {s : State} (c : Nat) {target : Nat} (late : target < s.beat + 128) :
    s.postCue c target = ((s.setCue c (some (s.beat + 128))).showCue c true).error pgTIME Src.time_CUE_LATE := by
  simp only [State.postCue, if_pos late, decide_eq_true late]
  rfl

/-- The bits that posting a cue changes. -/
def cueBits (c : Nat) : BitSet := ((Reg.TIME_CUE_CTL_PENDING c).bits pgTIME).or (((Reg.TIME_CUE_CTL_LATE c).bits pgTIME).or
  (Reg.CLK_GATE_GATED.bits pgCLK))

theorem showCue_effect (s : State) {c : Nat} (hc : c < 32) (late : Bool) :
    (s.showCue c late).bit pgTIME (Reg.TIME_CUE_CTL_PENDING c) = true ∧
      (s.showCue c late).bit pgTIME (Reg.TIME_CUE_CTL_LATE c) = late ∧ (s.showCue c late).fld pgCLK Reg.CLK_GATE_GATED = 0 ∧
      OnlyBits (cueBits c) s (s.showCue c late) := by
  have far : ∀ (u : State) {f : Fld}, f.off < 0x1000 → (u.setFld pgCLK Reg.CLK_GATE_GATED 0).bit pgTIME f = u.bit pgTIME f :=
    fun u f hf => State.bit_congr (u.fld_setFld_ne 0 (.inl (by decide)) gated_ok hf)
  refine ⟨?_, ?_, State.fld_setFld_same _ _ _ gated_ok, ?_⟩
  · rw [State.showCue, far _ (cueOff_lt hc)]
    exact (State.bit_congr (State.fld_setFld_bits (f := Reg.TIME_CUE_CTL_LATE c) (f' := Reg.TIME_CUE_CTL_PENDING c) _ _ _
      (.inl (by decide : 1 < 2)) (cueLate_ok hc) (cueOff_lt hc))).trans
      (s.bit_setBit_self pgTIME (Reg.TIME_CUE_CTL_PENDING c) true (cuePending_ok hc) rfl)
  · rw [State.showCue, far (f := Reg.TIME_CUE_CTL_LATE c) _ (cueOff_lt hc),
      State.bit_setBit_self _ pgTIME (Reg.TIME_CUE_CTL_LATE c) late (cueLate_ok hc) rfl]
  · exact (((OnlyBits.start _ s).setBit true (cuePending_ok hc) fun i lo hi => .inl ⟨rfl, rfl, lo, hi⟩).setBit late
      (cueLate_ok hc) fun i lo hi => .inr (.inl ⟨rfl, rfl, lo, hi⟩)).setFld 0 gated_ok fun i lo hi =>
        .inr (.inr ⟨rfl, rfl, lo, hi⟩)

/-- A cue posted in time. -/
theorem postCue_effect {s : State} {c : Nat} (hc : c < 32) {target : Nat} (lead : s.beat + 128 ≤ target) :
    let t := s.postCue c target
    t.cue c = some target ∧ t.bit pgTIME (Reg.TIME_CUE_CTL_PENDING c) = true ∧
      t.bit pgTIME (Reg.TIME_CUE_CTL_LATE c) = false ∧ t.fld pgCLK Reg.CLK_GATE_GATED = 0 ∧
      t = { s with regs := t.regs, cues := t.cues } ∧ RegFrame (cueBits c) s t := by
  intro t
  obtain ⟨pending, late, gated, only, frame⟩ := showCue_effect (s.setCue c (some target)) hc false
  have eq : t = (s.setCue c (some target)).showCue c false := State.postCue_lead c lead
  rw [← eq] at pending late gated only frame
  refine ⟨?_, pending, late, gated, ?_, frame⟩
  · rw [only.cue, State.cue_setCue_self]
  · obtain ⟨cues, set⟩ := s.setCue_eq c (some target)
    rw [set] at only
    rw [only]

/-- A cue posted late is moved, and the lateness is recorded. -/
theorem postCue_late_effect {s : State} {c : Nat} (hc : c < 32) {target : Nat} (late : target < s.beat + 128)
    (quiet : s.quietError pgTIME Src.time_CUE_LATE) :
    let t := s.postCue c target
    t.cue c = some (s.beat + 128) ∧ t.bit pgTIME (Reg.TIME_CUE_CTL_PENDING c) = true ∧
      t.bit pgTIME (Reg.TIME_CUE_CTL_LATE c) = true ∧ Recorded pgTIME Src.time_CUE_LATE t := by
  obtain ⟨pending, isLate, _, only, frame⟩ := showCue_effect (s.setCue c (some (s.beat + 128))) hc true
  rw [State.postCue_late c late, State.error]
  generalize (s.setCue c (some (s.beat + 128))).showCue c true = u at pending isLate only frame
  have far : ∀ {page off : Nat}, page ≠ pgCLK → off < 0x208 → ∀ i, ¬ cueBits c page off i := by
    rintro page off hp ho i (⟨_, h, _⟩ | ⟨_, h, _⟩ | ⟨h, _⟩)
    · simp only [Reg.TIME_CUE_CTL_PENDING] at h; omega
    · simp only [Reg.TIME_CUE_CTL_LATE] at h; omega
    · exact hp h
  have quiet' : u.quietError pgTIME Src.time_CUE_LATE := State.quietError.of_frame (s := s.setCue c (some (s.beat + 128))) quiet frame
    (by decide) (far (by decide) (by decide)) (far (by decide) (by decide)) (far (by decide) (by decide))
  obtain ⟨ints, errs, recorded⟩ := recordError_effect u (page := pgTIME) (src := Src.time_CUE_LATE) false 0 (by decide)
    (by decide) quiet'
  have apart : (Reg.TIME_CUE_CTL_PENDING c).off ≠ 0x20 ∧ (Reg.TIME_CUE_CTL_PENDING c).off ≠ 0x38 ∧
      (Reg.TIME_CUE_CTL_PENDING c).off ≠ 0x58 := by simp only [Reg.TIME_CUE_CTL_PENDING]; omega
  exact ⟨by rw [ints.cue, only.cue, State.cue_setCue_self],
    (State.bit_congr (errs.fld_of_errBits (p := pgTIME) (f := Reg.TIME_CUE_CTL_PENDING c) (by decide) (cueOff_lt hc)
      (.inr apart))).trans pending,
    (State.bit_congr (errs.fld_of_errBits (p := pgTIME) (f := Reg.TIME_CUE_CTL_LATE c) (by decide) (cueOff_lt hc)
      (.inr apart))).trans isLate, recorded⟩

theorem exec_timeCuePost {s : State} {cue : Fin 32} (host : cue.val < 16) (plain : s.cadenceSlot cue = false)
    (free : s.cue cue = none) :
    exec (.timeCuePost cue) s = .next (s.postCue cue (s.fld pgTIME (Reg.TIME_CUE_BEAT_TARGET cue))) := by
  refine congrArg Host.Outcome.next (if_neg ?_)
  rw [plain, free, decide_eq_false (Nat.not_le.2 host)]
  decide

/-! ## Firing a cue (R345) -/

/-- A cue slot is no longer pending, and its firing counts. -/
def State.noteFired (s : State) (c : Nat) : State :=
  (s.setBit pgTIME (Reg.TIME_CUE_CTL_PENDING c) false).addWrap pgTIME (Reg.TIME_CUE_CTL_FIRED c) 1

/-- BEAT has come to the cue's target, and the slot is free. -/
def State.clearCue (s : State) (c target : Nat) : State := ((s.reached target).setCue c none).noteFired c

/-- The cue reaches every page that is not fenced. -/
def State.cuePages (s : State) (c : Nat) (pages : List Nat) : State :=
  pages.foldl (fun (s : State) pg => if s.fenced pg then s else s.cueAt pg c) s

/-- The next chunks of the plans whose cadence slot has fired. -/
def State.cadencesAt (s : State) (c target : Nat) : State :=
  (List.range 16).foldl (fun (s : State) p =>
    if s.slotState p != 0 && ((s.image p).cadence.map Prod.fst) = some c then s.fireCadence p target else s) s

theorem exec_cueFire {s : State} {cue : Fin 32} {target : Nat} (posted : s.cue cue = some target) (on : s.beatOn = true) :
    exec (.cueFire cue []) s = .next
      (let u := ((((s.clearCue cue target).cuePages cue (List.range 512)).paramsAtCue cue).ownAtCue cue).swapAtCue cue
       (if 16 ≤ cue.val then u.gongsAtCue (cue.val - 16) target else u).cadencesAt cue target) := by
  change Host.Outcome.next _ = _
  rw [posted]
  simp only [State.atBeat_counting on, List.any_nil, Bool.or_false]
  rfl

/-- What the register of a cue slot shows. -/
def cueCtlBits (c : Nat) : BitSet := regBits pgTIME (Reg.TIME_CUE_CTL_PENDING c).off

theorem noteFired_effect (s : State) {c : Nat} (hc : c < 32) :
    (s.noteFired c).bit pgTIME (Reg.TIME_CUE_CTL_PENDING c) = false ∧
      (s.noteFired c).fld pgTIME (Reg.TIME_CUE_CTL_FIRED c) = (s.fld pgTIME (Reg.TIME_CUE_CTL_FIRED c) + 1) % 2 ^ 32 ∧
      OnlyBits (cueCtlBits c) s (s.noteFired c) := by
  refine ⟨?_, ?_, ?_⟩
  · exact (State.bit_congr (State.fld_setFld_bits (f := Reg.TIME_CUE_CTL_FIRED c) (f' := Reg.TIME_CUE_CTL_PENDING c) _ _ _
      (.inl (by decide : 1 < 32)) (cueFired_ok hc) (cueOff_lt hc))).trans
      (s.bit_setBit_self pgTIME (Reg.TIME_CUE_CTL_PENDING c) false (cuePending_ok hc) rfl)
  · rw [State.noteFired, State.addWrap, State.fld_setFld_same _ _ _ (cueFired_ok hc), State.setBit,
      State.fld_setFld_bits (f := Reg.TIME_CUE_CTL_PENDING c) (f' := Reg.TIME_CUE_CTL_FIRED c) _ _ _
        (.inr (by decide : 1 < 32)) (cuePending_ok hc) (cueOff_lt hc)]
    rfl
  · exact ((OnlyBits.start _ s).setBit false (cuePending_ok hc) fun _ _ _ => ⟨rfl, rfl⟩).setFld _ (cueFired_ok hc)
      fun _ _ _ => ⟨rfl, rfl⟩

theorem clearCue_effect (s : State) {c : Nat} (hc : c < 32) (target : Nat) :
    let t := s.clearCue c target
    t.cue c = none ∧ t.bit pgTIME (Reg.TIME_CUE_CTL_PENDING c) = false ∧
      t.fld pgTIME (Reg.TIME_CUE_CTL_FIRED c) = (s.fld pgTIME (Reg.TIME_CUE_CTL_FIRED c) + 1) % 2 ^ 32 ∧
      t = { s with regs := t.regs, cues := t.cues, beat := max s.beat target } ∧ RegFrame (cueCtlBits c) s t := by
  intro t
  obtain ⟨pending, fired, only, frame⟩ := noteFired_effect ((s.reached target).setCue c none) hc
  refine ⟨only.cue c |>.trans (State.cue_setCue_self _ _ _), pending, fired, ?_, frame⟩
  obtain ⟨cues, set⟩ := (s.reached target).setCue_eq c none
  change t = _ at only
  rw [set] at only
  rw [only]; rfl

end Sys2Proof.Machine

namespace Sys2Proof.Machine
open Sys2Proof

/-! ### The pages that a cue reaches (R37, R40) -/

theorem foldl_eq_self {α β : Type} {g : β → α → β} {b : β} : ∀ {l : List α}, (∀ a ∈ l, g b a = b) → l.foldl g b = b
  | [], _ => rfl
  | a :: l, h => by
    rw [List.foldl_cons, h a List.mem_cons_self]
    exact foldl_eq_self fun x hx => h x (List.mem_cons_of_mem _ hx)

/-- CUE_ARM of every page. -/
def armBits : BitSet := fun _ off i => off = 8 ∧ i = 5

theorem State.shdPend_unstaged {s : State} (h : s.staged = []) (page : Nat) : s.shdPend page = false := by
  rw [State.shdPend, h]; rfl

/-- With nothing staged, a cue clears CUE_ARM and does nothing else. -/
theorem State.cueAt_unstaged {s : State} (h : s.staged = []) (page c : Nat) : s.cueAt page c =
    if s.bit page Reg.BLK_CTRL_CUE_ARM && s.fld page Reg.BLK_CTRL_CUE_SEL = c && !s.bit page Reg.BLK_CTRL_SHD_HOLD &&
      s.powered page then s.setBit page Reg.BLK_CTRL_CUE_ARM false else s := by
  rw [State.cueAt, State.applyStaged_none (State.shdPend_unstaged h page)]

/-- What a page does at a cue. -/
def State.cuePage (s : State) (c page : Nat) : State := if s.fenced page then s else s.cueAt page c

theorem State.cuePages_cons (s : State) (c page : Nat) (pages : List Nat) :
    s.cuePages c (page :: pages) = (s.cuePage c page).cuePages c pages := rfl

theorem onlyBits_cuePage {s : State} (h : s.staged = []) (c page : Nat) : OnlyBits armBits s (s.cuePage c page) := by
  unfold State.cuePage
  split
  · exact .start _ s
  · rw [State.cueAt_unstaged h]
    split
    · exact (OnlyBits.start _ s).setBit false (by decide) fun i lo hi => ⟨rfl, Nat.le_antisymm hi lo⟩
    · exact .start _ s

theorem RegsOnly.staged {s t : State} (h : RegsOnly s t) : t.staged = s.staged := by rw [h]

theorem onlyBits_cuePages (c : Nat) : ∀ (pages : List Nat) {s : State}, s.staged = [] → OnlyBits armBits s (s.cuePages c pages)
  | [], s, _ => .start _ s
  | page :: pages, s, h => by
    have first := onlyBits_cuePage h c page
    exact first.append (onlyBits_cuePages c pages (first.1.staged.trans h))

/-- A page that a cue reaches. -/
structure CueReaches (s : State) (c page : Nat) : Prop where
  sel : s.fld page Reg.BLK_CTRL_CUE_SEL = c
  hold : s.bit page Reg.BLK_CTRL_SHD_HOLD = false
  powered : s.powered page = true
  fenced : s.fenced page = false

theorem State.powered_congr {s t : State} (h : t.rd pgPWR 0x108 = s.rd pgPWR 0x108) (page : Nat) :
    t.powered page = s.powered page := by
  unfold State.powered State.domState
  rw [h]

theorem CueReaches.of_frame {s t : State} {c page : Nat} (h : CueReaches s c page) (frame : RegFrame armBits s t)
    (hp : page < 512) : CueReaches t c page := by
  have kept : ∀ {f : Fld}, f.off < 0x1000 → f.off ≠ 8 ∨ f.hi < 5 ∨ 5 < f.lo → t.fld page f = s.fld page f := fun hf apart =>
    frame.fld hp hf fun i lo hi ⟨h8, h5⟩ => by omega
  exact ⟨(kept (by decide) (by decide)).trans h.sel, (State.bit_congr (kept (by decide) (by decide))).trans h.hold,
    (State.powered_congr (frame.rd (by decide) (by decide) fun i h => absurd h.1 (by decide)) page).trans h.powered,
    (State.bit_congr (kept (by decide) (by decide))).trans h.fenced⟩

theorem State.bit_eq_false_of_ne {s : State} {page : Nat} {f : Fld} (h : s.bit page f ≠ true) : s.bit page f = false :=
  Bool.eq_false_iff.2 h

theorem arm_ok : Reg.BLK_CTRL_CUE_ARM.ok := ⟨by decide, by decide, by decide⟩

theorem CueReaches.disarms {s : State} {c page : Nat} (h : CueReaches s c page) (none_ : s.staged = []) :
    (s.cuePage c page).bit page Reg.BLK_CTRL_CUE_ARM = false := by
  rw [State.cuePage, if_neg (by rw [h.fenced]; decide), State.cueAt_unstaged none_]
  split
  case isTrue => exact s.bit_setBit_self page _ false arm_ok rfl
  case isFalse out =>
    refine State.bit_eq_false_of_ne fun armed => out ?_
    rw [armed, h.sel, h.hold, h.powered]; simp

/-- A page that is not armed is not armed by a cue. -/
theorem State.cuePage_disarmed {s : State} {c page : Nat} (none_ : s.staged = [])
    (off : s.bit page Reg.BLK_CTRL_CUE_ARM = false) (other : Nat) :
    (s.cuePage c other).bit page Reg.BLK_CTRL_CUE_ARM = false := by
  unfold State.cuePage
  split
  · exact off
  · rw [State.cueAt_unstaged none_]
    split
    · by_cases same : page = other
      · rw [same]; exact s.bit_setBit_self other _ false arm_ok rfl
      · exact (State.bit_congr (s.fld_setFld_ne (f := Reg.BLK_CTRL_CUE_ARM) (f' := Reg.BLK_CTRL_CUE_ARM) _ (.inl same) arm_ok
          arm_ok.2.2)).trans off
    · exact off

theorem cuePages_disarmed {c page : Nat} : ∀ (pages : List Nat) {s : State}, s.staged = [] →
    s.bit page Reg.BLK_CTRL_CUE_ARM = false → (s.cuePages c pages).bit page Reg.BLK_CTRL_CUE_ARM = false
  | [], _, _, off => off
  | other :: pages, s, none_, off => by
    have first := onlyBits_cuePage none_ c other
    exact cuePages_disarmed pages (first.1.staged.trans none_) (State.cuePage_disarmed none_ off other)

/-- A page that the cue reaches is no longer armed. -/
theorem CueReaches.cuePages {c page : Nat} (hp : page < 512) : ∀ {pages : List Nat} {s : State}, CueReaches s c page →
    s.staged = [] → page ∈ pages → (s.cuePages c pages).bit page Reg.BLK_CTRL_CUE_ARM = false
  | [], _, _, _, mem => nomatch mem
  | first :: pages, s, h, none_, mem => by
    obtain ⟨only, frame⟩ := onlyBits_cuePage none_ c first
    have none' := only.staged.trans none_
    rw [State.cuePages_cons]
    by_cases same : page = first
    · subst same
      exact cuePages_disarmed pages none' (h.disarms none_)
    · exact (h.of_frame frame hp).cuePages hp none' ((List.mem_cons.1 mem).resolve_left same)

/-! ### What waits for a cue (R69, R236, R306) -/

theorem State.paramsAtCue_none {s : State} (h : ∀ p, p < 16 → (s.slot p).setWaits = []) (c : Nat) : s.paramsAtCue c = s := by
  unfold State.paramsAtCue
  refine foldl_eq_self fun p hp => ?_
  simp only [h p (List.mem_range.1 hp), List.filter_nil, List.isEmpty_nil, if_true]

theorem State.own_none {s : State} (h : s.owns = []) (p : Nat) : s.own p = {} := by rw [State.own, h]; rfl

theorem State.ownAtCue_none {s : State} (h : s.owns = []) (c : Nat) : s.ownAtCue c = s := by
  unfold State.ownAtCue
  refine foldl_eq_self fun p _ => ?_
  rw [State.own_none h]

theorem State.table_none {s : State} (h : s.car.tables = []) (tid : Nat) : s.table tid = none := by rw [State.table, h]; rfl

theorem State.swapAtCue_none {s : State} (h : s.car.tables = []) (c : Nat) : s.swapAtCue c = s := by
  unfold State.swapAtCue
  refine foldl_eq_self fun tid _ => ?_
  rw [State.table_none h]

theorem State.gongsAtCue_inactive {s : State} {p : Nat} (h : s.active p = false) (target : Nat) : s.gongsAtCue p target = s := by
  simp [State.gongsAtCue, h]

theorem State.active_of_slotState {s : State} {p : Nat} (h : s.slotState p = 0) : s.active p = false := by
  simp [State.active, h]

/-- A cue fires where nothing staged waits for it: the gongs of its slot and the cadences follow. -/
theorem exec_cueFire_unstaged {s : State} {cue : Fin 32} {target : Nat} (posted : s.cue cue = some target) (on : s.beatOn = true)
    (staged : s.staged = []) (owns : s.owns = []) (tables : s.car.tables = [])
    (params : ∀ p, p < 16 → (s.slot p).setWaits = []) :
    exec (.cueFire cue []) s = .next
      (let u := (s.clearCue cue target).cuePages cue (List.range 512)
       (if 16 ≤ cue.val then u.gongsAtCue (cue.val - 16) target else u).cadencesAt cue target) := by
  obtain ⟨_, _, _, eq, _⟩ := clearCue_effect s cue.isLt target
  have run := exec_cueFire posted on
  obtain ⟨pages, hpages⟩ : ∃ pages, pages = List.range 512 := ⟨_, rfl⟩
  rw [← hpages] at run ⊢
  have only := (onlyBits_cuePages cue pages (s := s.clearCue cue target) (by rw [eq]; exact staged)).1
  generalize (s.clearCue cue target).cuePages cue pages = u at run only
  rw [eq] at only
  rw [State.paramsAtCue_none (fun p hp => by rw [only]; exact params p hp),
    State.ownAtCue_none (by rw [only]; exact owns), State.swapAtCue_none (by rw [only]; exact tables)] at run
  exact run

/-- What a cue changes before the gongs of its slot. -/
theorem cuePages_clearCue_effect {s : State} {c : Nat} (hc : c < 32) (target : Nat) (staged : s.staged = []) (pages : List Nat) :
    let t := (s.clearCue c target).cuePages c pages
    t.cue c = none ∧ t.bit pgTIME (Reg.TIME_CUE_CTL_PENDING c) = false ∧
      t.fld pgTIME (Reg.TIME_CUE_CTL_FIRED c) = (s.fld pgTIME (Reg.TIME_CUE_CTL_FIRED c) + 1) % 2 ^ 32 ∧
      (∀ page ∈ pages, page < 512 → CueReaches s c page → t.bit page Reg.BLK_CTRL_CUE_ARM = false) ∧
      t = { s with regs := t.regs, cues := t.cues, beat := max s.beat target } ∧ RegFrame ((cueCtlBits c).or armBits) s t := by
  intro t
  obtain ⟨cue, pending, fired, eq, frame⟩ := clearCue_effect s hc target
  have staged' : (s.clearCue c target).staged = [] := by rw [eq]; exact staged
  obtain ⟨only, frame'⟩ := onlyBits_cuePages c pages staged'
  have ctl : ∀ {f : Fld}, f.off = (Reg.TIME_CUE_CTL_PENDING c).off → t.fld pgTIME f = (s.clearCue c target).fld pgTIME f := fun hf =>
    frame'.fld (by decide) (hf ▸ cueOff_lt hc) fun i _ _ h => by
      have := hf.symm.trans h.1
      simp only [Reg.TIME_CUE_CTL_PENDING] at this; omega
  refine ⟨(only.cue c).trans cue, (State.bit_congr (ctl (f := Reg.TIME_CUE_CTL_PENDING c) rfl)).trans pending,
    (ctl (f := Reg.TIME_CUE_CTL_FIRED c) rfl).trans fired, fun page mem hp reaches => ?_, ?_, frame.trans frame'⟩
  · have away : ∀ {off : Nat}, off < 0x100 ∨ page ≠ pgTIME → ∀ i, ¬ cueCtlBits c page off i := by
      rintro off h i ⟨hpg, ho⟩
      simp only [Reg.TIME_CUE_CTL_PENDING] at ho
      omega
    have kept : ∀ {f : Fld}, f.off < 0x100 → (s.clearCue c target).fld page f = s.fld page f := fun hf =>
      frame.fld hp (by omega) fun i _ _ => away (.inl hf) i
    refine CueReaches.cuePages hp ⟨(kept (by decide)).trans reaches.sel, (State.bit_congr (kept (by decide))).trans reaches.hold,
      (State.powered_congr (frame.rd (by decide) (by decide) ?_) page).trans reaches.powered,
      (State.bit_congr (kept (by decide))).trans reaches.fenced⟩ staged' mem
    exact fun i h => absurd h.1 (by decide)
  · change t = _ at only
    rw [eq] at only
    rw [only]

theorem slotState_of_cue {s t : State} {c p : Nat} (hp : p < 16) (frame : RegFrame ((cueCtlBits c).or armBits) s t) :
    t.slotState p = s.slotState p := by
  refine frame.fld (by decide) (slotField_ok hp).2.2 ?_
  rintro i _ _ (⟨h, _⟩ | ⟨h, _⟩)
  · exact absurd h (by decide)
  · simp only [Reg.PLAN_P_STAT_STATE] at h; omega

/-- With no plan resident, firing a cue changes its slot and the pages that wait for it. -/
theorem cueFire_effect {s : State} {cue : Fin 32} {target : Nat} (posted : s.cue cue = some target) (on : s.beatOn = true)
    (staged : s.staged = []) (owns : s.owns = []) (tables : s.car.tables = [])
    (free : ∀ p, p < 16 → s.slotState p = 0 ∧ (s.slot p).setWaits = []) :
    ∃ t, exec (.cueFire cue []) s = .next t ∧ t.cue cue = none ∧ t.beat = max s.beat target ∧
      t.bit pgTIME (Reg.TIME_CUE_CTL_PENDING cue) = false ∧
      t.fld pgTIME (Reg.TIME_CUE_CTL_FIRED cue) = (s.fld pgTIME (Reg.TIME_CUE_CTL_FIRED cue) + 1) % 2 ^ 32 ∧
      (∀ page, page < 512 → s.bit page Reg.BLK_CTRL_CUE_ARM = true → s.fld page Reg.BLK_CTRL_CUE_SEL = cue.val →
        s.bit page Reg.BLK_CTRL_SHD_HOLD = false → s.powered page = true → s.fenced page = false →
        t.bit page Reg.BLK_CTRL_CUE_ARM = false) ∧
      t = { s with regs := t.regs, cues := t.cues, beat := t.beat } := by
  have run := exec_cueFire_unstaged posted on staged owns tables fun p hp => (free p hp).2
  obtain ⟨cleared, pending, fired, disarmed, eq, frame⟩ :=
    cuePages_clearCue_effect cue.isLt target staged (List.range 512)
  generalize (s.clearCue cue target).cuePages cue (List.range 512) = u at run cleared pending fired disarmed eq frame
  have idle : ∀ p, p < 16 → u.slotState p = 0 := fun p hp => (slotState_of_cue hp frame).trans (free p hp).1
  have gongs : (if 16 ≤ cue.val then u.gongsAtCue (cue.val - 16) target else u) = u := by
    split
    · exact State.gongsAtCue_inactive (State.active_of_slotState (idle _ (by omega))) target
    · rfl
  have cadences : u.cadencesAt cue target = u := by
    unfold State.cadencesAt
    refine foldl_eq_self fun p hp => ?_
    rw [idle p (List.mem_range.1 hp), bne_self_eq_false, Bool.false_and, if_neg Bool.false_ne_true]
  simp only [gongs, cadences] at run
  have beat : u.beat = max s.beat target := by rw [eq]
  exact ⟨u, run, cleared, beat, pending, fired,
    fun page hp _ sel hold powered fenced => disarmed page (List.mem_range.2 hp) hp ⟨sel, hold, powered, fenced⟩, by rw [beat]; exact eq⟩

end Sys2Proof.Machine

namespace Sys2Proof.Machine
open Sys2Proof

/-! ## A replica of the beat that differs (R342) -/

/-- A mismatch in the registers of the replicas. -/
def State.noteMismatch (s : State) (page : Nat) : State :=
  (s.addSat pgTIME Reg.TIME_REPL_MISMATCHES 1).setFld pgTIME Reg.TIME_REPL_LAST_PAGE page

/-- The bits that a mismatch sets outside the error's. -/
def replBits : BitSet := (Reg.TIME_REPL_LAST_PAGE.bits pgTIME).or (Reg.TIME_REPL_MISMATCHES.bits pgTIME)

theorem replBits_off {page off i : Nat} (h : replBits page off i) : off = 0x158 := by
  rcases h with ⟨_, h, _⟩ | ⟨_, h, _⟩ <;> exact h

theorem noteMismatch_effect (s : State) {page : Nat} (hp : page < 512) :
    (s.noteMismatch page).fld pgTIME Reg.TIME_REPL_LAST_PAGE = page ∧
      (s.noteMismatch page).fld pgTIME Reg.TIME_REPL_MISMATCHES =
        min (s.fld pgTIME Reg.TIME_REPL_MISMATCHES + 1) (2 ^ 32 - 1) ∧
      OnlyBits replBits s (s.noteMismatch page) := by
  refine ⟨?_, ?_, ?_⟩
  · rw [State.noteMismatch, State.fld_setFld_same _ _ _ (by decide)]
    exact Nat.mod_eq_of_lt (Nat.lt_of_lt_of_le hp (by decide))
  · simp (disch := decide) only [State.noteMismatch, State.addSat, State.fld_setFld_bits, State.fld_setFld_same]
    exact Nat.mod_eq_of_lt (Nat.lt_of_le_of_lt (min_le_right _ _) (by decide))
  · exact ((OnlyBits.start _ s).setFld _ (by decide) fun i lo hi => .inr ⟨rfl, rfl, lo, hi⟩).setFld page (by decide)
      fun i lo hi => .inl ⟨rfl, rfl, lo, hi⟩

theorem exec_beatCheck {s : State} {page : Fin 512} (hold : s.beatHold = false) (on : s.beatOn = true)
    (powered : s.powered page = true) : exec (.beatCheck page) s =
      .next ((s.noteMismatch page).recordError pgTIME Src.time_BEAT_MISMATCH false page) :=
  congrArg Host.Outcome.next (if_neg (by rw [hold, on, powered]; decide))

theorem beatCheck_effect {s : State} {page : Fin 512} (hold : s.beatHold = false) (on : s.beatOn = true)
    (powered : s.powered page = true) (quiet : s.quietError pgTIME Src.time_BEAT_MISMATCH) :
    ∃ t, exec (.beatCheck page) s = .next t ∧ t.fld pgTIME Reg.TIME_REPL_LAST_PAGE = page ∧
      t.fld pgTIME Reg.TIME_REPL_MISMATCHES = min (s.fld pgTIME Reg.TIME_REPL_MISMATCHES + 1) (2 ^ 32 - 1) ∧
      Recorded pgTIME Src.time_BEAT_MISMATCH t ∧
      RegFrame (replBits.or (errBits pgTIME Src.time_BEAT_MISMATCH)) s t := by
  have run := exec_beatCheck hold on powered
  obtain ⟨last, mismatches, _, frame⟩ := noteMismatch_effect s page.isLt
  generalize s.noteMismatch page = u at run last mismatches frame
  have away : ∀ {pg off : Nat}, off ≠ 0x158 → ∀ i, ¬ replBits pg off i := fun ho i h => ho (replBits_off h)
  obtain ⟨_, errs, recorded⟩ := recordError_effect u (page := pgTIME) (src := Src.time_BEAT_MISMATCH) false page
    (by decide) (by decide) (quiet.of_frame frame (by decide) (away (by decide)) (away (by decide)) (away (by decide)))
  refine ⟨_, run, ?_, ?_, recorded, frame.trans errs⟩
  · rw [errs.fld_of_errBits (by decide) (by decide) (.inr (by decide)), last]
  · rw [errs.fld_of_errBits (by decide) (by decide) (.inr (by decide)), mismatches]

/-! ## Wall time (R346) -/

/-- A signed 64-bit difference of two words that is not large is their difference. -/
theorem toS_sub {b r : Nat} (_ : b < 2 ^ 64) (_ : r < 2 ^ 64) (lo : -2 ^ 59 < (b : Int) - r) (hi : (b : Int) - r < 2 ^ 59) :
    toS 64 ((b + 2 ^ 64 - r) % 2 ^ 64) = (b : Int) - r := by
  unfold toS
  split <;> omega

theorem toS_add_emod (x : Nat) (y z : Int) : (toS 64 x + y + z) % 2 ^ 64 = (x + y + z) % 2 ^ 64 := by
  unfold toS
  split <;> omega

theorem ofI_cast (i : Int) : (ofI 64 i : Int) = i % 2 ^ 64 := Int.toNat_of_nonneg (Int.emod_nonneg _ (by decide))

theorem ofI_lt (i : Int) : ofI 64 i < 2 ^ 64 := by
  have := Int.emod_lt_of_pos i (b := 2 ^ 64) (by decide)
  have cast := ofI_cast i
  omega

/-- Wall time at a beat that lies d beats after the reference. -/
def State.wallAfter (s : State) (d : Int) : Int :=
  let ppb := toS 32 (s.fld pgTIME Reg.TIME_RATE_PPB)
  let a := (d * 10).tdiv 7
  s.fld pgTIME Reg.TIME_REF_WALL_NS + a + (a.tdiv 1000000000 * ppb + (a.tmod 1000000000 * ppb).tdiv 1000000000)

theorem State.wallNs_near {s : State} {b : Nat} {d : Int}
    (near : toS 64 ((b + 2 ^ 64 - s.fld pgTIME Reg.TIME_REF_BEAT_BEAT) % 2 ^ 64) = d) (lo : -2 ^ 59 < d) (hi : d < 2 ^ 59) :
    ∃ w : Nat, s.wallNs b = (w, s) ∧ w < 2 ^ 64 ∧ (w : Int) = s.wallAfter d % 2 ^ 64 := by
  refine ⟨_, ?_, ofI_lt _, (ofI_cast _).trans (toS_add_emod _ _ _)⟩
  rw [State.wallNs, near, if_pos (by omega)]

/-- The snapshot of wall time. -/
def State.snapTime (s : State) (w : Nat) : State :=
  (s.setFld pgTIME Reg.TIME_SNAP_BEAT_BEAT s.beat).setFld pgTIME Reg.TIME_SNAP_WALL_NS w

theorem exec_timeSnapTake {s : State} {w : Nat} (h : s.wallNs s.beat = (w, s)) :
    exec .timeSnapTake s = .next (s.snapTime w) := by
  change Host.Outcome.next _ = _
  rw [h]
  rfl

theorem snapTime_effect {s : State} {w : Nat} (hb : s.beat < 2 ^ 64) (hw : w < 2 ^ 64) :
    (s.snapTime w).fld pgTIME Reg.TIME_SNAP_BEAT_BEAT = s.beat ∧ (s.snapTime w).fld pgTIME Reg.TIME_SNAP_WALL_NS = w ∧
      OnlyBits ((Reg.TIME_SNAP_BEAT_BEAT.bits pgTIME).or (Reg.TIME_SNAP_WALL_NS.bits pgTIME)) s (s.snapTime w) := by
  refine ⟨?_, ?_, ?_⟩
  · simp (disch := decide) only [State.snapTime, State.fld_setFld_off, State.fld_setFld_same]
    exact Nat.mod_eq_of_lt hb
  · simp (disch := decide) only [State.snapTime, State.fld_setFld_same]
    exact Nat.mod_eq_of_lt hw
  · exact ((OnlyBits.start _ s).setFld _ (by decide) fun i lo hi => .inl ⟨rfl, rfl, lo, hi⟩).setFld w (by decide)
      fun i lo hi => .inr ⟨rfl, rfl, lo, hi⟩

theorem timeSnapTake_effect {s : State} (hb : s.beat < 2 ^ 64)
    (lo : -2 ^ 59 < (s.beat : Int) - s.fld pgTIME Reg.TIME_REF_BEAT_BEAT)
    (hi : (s.beat : Int) - s.fld pgTIME Reg.TIME_REF_BEAT_BEAT < 2 ^ 59) :
    ∃ t, exec .timeSnapTake s = .next t ∧ t.fld pgTIME Reg.TIME_SNAP_BEAT_BEAT = s.beat ∧
      (t.fld pgTIME Reg.TIME_SNAP_WALL_NS : Int) = s.wallAfter (s.beat - s.fld pgTIME Reg.TIME_REF_BEAT_BEAT) % 2 ^ 64 ∧
      OnlyBits ((Reg.TIME_SNAP_BEAT_BEAT.bits pgTIME).or (Reg.TIME_SNAP_WALL_NS.bits pgTIME)) s t := by
  obtain ⟨w, wall, hw, eq⟩ := State.wallNs_near (toS_sub hb (s.fld_lt _ Reg.TIME_REF_BEAT_BEAT) lo hi) lo hi
  obtain ⟨beat, snap, only⟩ := snapTime_effect hb hw
  exact ⟨_, exec_timeSnapTake wall, beat, by rw [snap, eq], only⟩

/-! ## The sync input (R347) -/

/-- The state in which an edge of the sync input is noted. -/
def State.sawEdge (s : State) : State := { s with time := { s.time with since := s.beat, missed := false } }

theorem syncEdge_effect {s : State} {falling : Bool} (en : s.bit pgTIME Reg.TIME_SYNC_EN = true)
    (edge : s.bit pgTIME Reg.TIME_SYNC_FALLING = falling) (free : s.bit pgTIME Reg.TIME_SYNC_DISCIPLINE = false) :
    ∃ t, exec (.syncEdge falling) s = .next t ∧ t.fld pgTIME Reg.TIME_SYNC_BEAT_BEAT = s.beat % 2 ^ 64 ∧
      OnlyBits (Reg.TIME_SYNC_BEAT_BEAT.bits pgTIME) s.sawEdge t := by
  have kept : ¬ (s.sawEdge.setFld pgTIME Reg.TIME_SYNC_BEAT_BEAT s.beat).bit pgTIME Reg.TIME_SYNC_DISCIPLINE = true := by
    rw [State.bit_congr (State.fld_setFld_off (f := Reg.TIME_SYNC_BEAT_BEAT) (f' := Reg.TIME_SYNC_DISCIPLINE) _ _ _
      (by decide) (by decide) (by decide))]
    exact Bool.eq_false_iff.1 free
  exact ⟨_, congrArg Host.Outcome.next ((if_neg (by rw [en, edge]; simp)).trans (if_neg kept)),
    State.fld_setFld_same _ _ _ (by decide), (OnlyBits.start _ _).setFld _ (by decide) fun i lo hi => ⟨rfl, rfl, lo, hi⟩⟩

theorem exec_syncMissing {s : State} (en : s.bit pgTIME Reg.TIME_SYNC_EN = true) (waits : s.time.missed = false)
    (on : s.beatOn = true) : exec .syncMissing s = .next
      ({ s.reached (s.time.since + 2 * (s.fld pgTIME Reg.TIME_SYNC_PERIOD_US * 700)) with
        time := { s.time with missed := true } }.recordError pgTIME Src.time_SYNC_MISSING false 0) :=
  congrArg Host.Outcome.next ((if_neg (by rw [en, waits]; simp)).trans (State.atBeat_counting on _ _))

theorem syncMissing_effect {s : State} (en : s.bit pgTIME Reg.TIME_SYNC_EN = true) (waits : s.time.missed = false)
    (on : s.beatOn = true) (quiet : s.quietError pgTIME Src.time_SYNC_MISSING) :
    ∃ t, exec .syncMissing s = .next t ∧ Recorded pgTIME Src.time_SYNC_MISSING t ∧
      t.time = { s.time with missed := true } ∧
      t.beat = max s.beat (s.time.since + 1400 * s.fld pgTIME Reg.TIME_SYNC_PERIOD_US) ∧
      RegFrame (errBits pgTIME Src.time_SYNC_MISSING) s t := by
  have run := exec_syncMissing en waits on
  have due : s.time.since + 2 * (s.fld pgTIME Reg.TIME_SYNC_PERIOD_US * 700) =
      s.time.since + 1400 * s.fld pgTIME Reg.TIME_SYNC_PERIOD_US := by omega
  rw [due] at run
  obtain ⟨ints, errs, recorded⟩ := recordError_effect { s.reached (s.time.since + 1400 * s.fld pgTIME Reg.TIME_SYNC_PERIOD_US) with
    time := { s.time with missed := true } } (page := pgTIME) (src := Src.time_SYNC_MISSING) false 0 (by decide) (by decide) quiet
  exact ⟨_, run, recorded, by rw [ints], ints.kept.1, errs⟩

/-! ## The bandwidth split (R99) -/

theorem State.bucket_setBucket_self (s : State) (stack c n : Nat) : (s.setBucket stack c n).bucket stack c = n :=
  kget_kset_self _ _ _

theorem State.bucket_setBucket_ne (s : State) {stack c stack' c' : Nat} (n : Nat) (h : 3 * stack' + c' ≠ 3 * stack + c) :
    (s.setBucket stack c n).bucket stack' c' = s.bucket stack' c' := kget_kset_ne _ h _

/-- Nothing but the buckets differs, so shares and throttling are the same. -/
def BucketsOnly (s t : State) : Prop := t = { s with buckets := t.buckets }

/-- The share of a class in a window. -/
def State.windowShare (s : State) (stack c : Nat) : Nat :=
  s.share99 stack c * (if s.bit (pgHMC stack) Reg.HMC_STAT_THROTTLED then 8 else 16)

/-- A window adds a class's share to its bucket, which holds two shares at most. -/
def State.fillBucket (s : State) (stack c : Nat) : State :=
  s.setBucket stack c (min (2 * s.windowShare stack c) (s.bucket stack c + s.windowShare stack c))

theorem BucketsOnly.windowShare {s t : State} (h : BucketsOnly s t) (stack c : Nat) :
    t.windowShare stack c = s.windowShare stack c := by rw [h]; rfl

theorem BucketsOnly.fillBucket {s t : State} (h : BucketsOnly s t) (stack c : Nat) : BucketsOnly s (t.fillBucket stack c) := by
  have set : BucketsOnly t (t.fillBucket stack c) := rfl
  rw [BucketsOnly, set, h]

theorem BucketsOnly.filled {s t : State} (h : BucketsOnly s t) (stack c : Nat) : (t.fillBucket stack c).bucket stack c =
    min (2 * s.windowShare stack c) (t.bucket stack c + s.windowShare stack c) := by
  rw [State.fillBucket, State.bucket_setBucket_self, h.windowShare]

theorem exec_bwsplitWindow (s : State) (stack : Fin 4) :
    exec (.bwsplitWindow stack) s = .next (((s.fillBucket stack 0).fillBucket stack 1).fillBucket stack 2) := rfl

theorem bwsplitWindow_effect (s : State) (stack : Fin 4) :
    ∃ t, exec (.bwsplitWindow stack) s = .next t ∧ BucketsOnly s t ∧
      (∀ c, c < 3 → t.bucket stack c = min (2 * s.windowShare stack c) (s.bucket stack c + s.windowShare stack c)) ∧
      ∀ other c, c < 3 → other ≠ stack.val → t.bucket other c = s.bucket other c := by
  have kept : ∀ (u : State) {stack' c c' : Nat}, 3 * stack' + c' ≠ 3 * stack.val + c →
      (u.fillBucket stack c).bucket stack' c' = u.bucket stack' c' := fun u _ _ _ h => u.bucket_setBucket_ne _ h
  have first : BucketsOnly s (s.fillBucket stack 0) := rfl
  have second := first.fillBucket stack 1
  refine ⟨_, exec_bwsplitWindow s stack, second.fillBucket stack 2, fun c hc => ?_, fun other c hc ne => ?_⟩
  · match c, hc with
    | 0, _ => rw [kept _ (by omega), kept _ (by omega)]; exact BucketsOnly.filled (rfl : BucketsOnly s s) stack 0
    | 1, _ => rw [kept _ (by omega), first.filled, kept _ (by omega)]
    | 2, _ => rw [second.filled, kept _ (by omega), kept _ (by omega)]
  · rw [kept _ (by omega), kept _ (by omega), kept _ (by omega)]

/-- Settles O24: each clause by the effect of its command. -/
theorem timeCommands : Obligations.TimeCommands := by
  unfold Obligations.TimeCommands
  refine fun s => ⟨fun slot stage r found active on quiet => ?_, fun cue hc cadence free => ⟨fun lead => ?_, fun late quiet => ?_⟩,
    fun cue tgt posted on staged owns tables idle => cueFire_effect posted on staged owns tables idle,
    fun page hold on powered quiet => beatCheck_effect hold on powered quiet,
    fun hb lo hi => timeSnapTake_effect hb lo hi, fun falling en edge free => syncEdge_effect en edge free,
    fun en waits on quiet => syncMissing_effect en waits on quiet, bwsplitWindow_effect s⟩
  · have effect := gongTimeout_effect found active on quiet
    rw [State.gongDue_eq] at effect
    exact effect
  · exact ⟨_, exec_timeCuePost hc cadence free, postCue_effect cue.isLt lead⟩
  · exact ⟨_, exec_timeCuePost hc cadence free, postCue_late_effect cue.isLt late quiet⟩

end Sys2Proof.Machine

namespace Sys2Proof.Machine
open Sys2Proof

/-! ## Commands of a plan slot (R64) -/

/-- The command waiting next is served in a block that is on. -/
theorem State.slotCommand_next {s : State} {n code : Nat} {c : Cmd} {rest : List Cmd} (h : s.nextCmd n code c rest)
    (on : s.enabled pgPLAN = true) (slotOf : Cmd → Nat) (valid : List Nat) (f : State → Cmd → Nat → State) :
    s.slotCommand n code slotOf valid f =
      if s.slotState (slotOf c) ∈ valid then f s c (slotOf c) else s.complete n 32 (slotOf c) 0 0 := by
  rw [State.slotCommand, State.command_next h]
  by_cases ok : s.slotState (slotOf c) ∈ valid <;> simp [on, ok]

theorem State.slotCommand_valid {s : State} {n code : Nat} {c : Cmd} {rest : List Cmd} (h : s.nextCmd n code c rest)
    (on : s.enabled pgPLAN = true) {slotOf : Cmd → Nat} {valid : List Nat} (ok : s.slotState (slotOf c) ∈ valid)
    (f : State → Cmd → Nat → State) : s.slotCommand n code slotOf valid f = f s c (slotOf c) :=
  (State.slotCommand_next h on slotOf valid f).trans (if_pos ok)

/-- In a state in which it is not valid a command completes with 32. -/
theorem slotCommand_invalid {s : State} {n code : Nat} {c : Cmd} {rest : List Cmd} (h : s.nextCmd n code c rest)
    (on : s.enabled pgPLAN = true) {slotOf : Cmd → Nat} {valid : List Nat} (no : s.slotState (slotOf c) ∉ valid)
    (f : State → Cmd → Nat → State) :
    RingCompleted n c rest 32 (slotOf c) 0 0 (s.slotCommand n code slotOf valid f) ∧
      CplFrame s (s.slotCommand n code slotOf valid f) := by
  rw [(State.slotCommand_next h on slotOf valid f).trans (if_neg no)]
  exact (complete_effect h.1 32 (slotOf c) 0 0).symm

/-! ### The state and reason of a slot -/

theorem State.slotState_congr {s t : State} {p : Nat} (h : t.fld pgPLAN (Reg.PLAN_P_STAT_STATE p) =
    s.fld pgPLAN (Reg.PLAN_P_STAT_STATE p)) : t.slotState p = s.slotState p := h

theorem reasonField_ok {p : Nat} (hp : p < 16) : (Reg.PLAN_P_STAT_REASON p).lo ≤ (Reg.PLAN_P_STAT_REASON p).hi ∧
    (Reg.PLAN_P_STAT_REASON p).hi < 64 ∧ (Reg.PLAN_P_STAT_REASON p).off < 0x1000 :=
  ⟨(by decide : 8 ≤ 15), (by decide : 15 < 64), (slotField_ok hp).2.2⟩

theorem State.slotState_setReason (s : State) {p q : Nat} (r : Nat) (hp : p < 16) (hq : q < 16) :
    (s.setReason p r).slotState q = s.slotState q :=
  State.fld_setFld_bits (f := Reg.PLAN_P_STAT_REASON p) (f' := Reg.PLAN_P_STAT_STATE q) _ _ _ (.inl (by decide : 2 < 8))
    (reasonField_ok hp) (slotField_ok hq).2.2

theorem CplFrame.slotState {s t : State} (h : CplFrame s t) {p : Nat} (hp : p < 16) : t.slotState p = s.slotState p :=
  h.fld (by decide) (slotField_ok hp).2.2 (.inr (.inl (by decide)))

theorem CplFrame.slot {s t : State} (h : CplFrame s t) (p : Nat) : t.slot p = s.slot p := by rw [h.1]; rfl

/-- The register that tells of the last admission. -/
def admitBits : BitSet := fun pg off _ => pg = pgPLAN ∧ off = 0x150

theorem noteAdmit_effect (s : State) (p : Nat) (r : Refuse) :
    (s.noteAdmit p r).fld pgPLAN Reg.PLAN_ADMIT_REASON = r.code % 2 ^ 8 ∧ OnlyBits admitBits s (s.noteAdmit p r) := by
  constructor
  · simp (disch := decide) only [State.noteAdmit, State.setBit, State.fld_setFld_bits, State.fld_setFld_same]
    rfl
  · exact (((((OnlyBits.start _ s).setFld _ (by decide) fun _ _ _ => ⟨rfl, rfl⟩).setFld _ (by decide) fun _ _ _ =>
      ⟨rfl, rfl⟩).setFld _ (by decide) fun _ _ _ => ⟨rfl, rfl⟩).setBit _ (by decide) fun _ _ _ => ⟨rfl, rfl⟩).setBit _
      (by decide) fun _ _ _ => ⟨rfl, rfl⟩

theorem slotState_of_admitBits {s t : State} (h : RegFrame admitBits s t) {p : Nat} (hp : p < 16) : t.slotState p = s.slotState p :=
  h.fld (by decide) (slotField_ok hp).2.2 fun _ _ _ h => by
    have := h.2
    simp only [Reg.PLAN_P_STAT_STATE] at this; omega

/-! ## PLAN_LOAD (R57, R58) -/

/-- The slot that a PLAN_LOAD names, or the first free one. -/
theorem State.find_free {s : State} {p : Nat} (hp : p < 16) (free : s.slotState p = 0) (first : ∀ q, q < p → s.slotState q ≠ 0) :
    ((List.range 16).find? fun q => s.slotState q == 0) = some p := by
  rw [List.find?_range_eq_some]
  exact ⟨by simp [free], List.mem_range.2 hp, fun q hq => by simp [first q hq]⟩

/-- A PLAN_LOAD that is refused. -/
def State.refusePlan (s : State) (n p : Nat) (r : Refuse) : State :=
  ((s.noteAdmit p r).setReason p r.code).complete n r.code p 0 (if 16 ≤ r.code && r.code ≤ 30 then r.claim else 0)

/-- A PLAN_LOAD that is admitted: its image is copied next. -/
def State.admitted (s : State) (n p : Nat) (c : Cmd) (f : Fetched) (a : Alloc) : State :=
  { (s.setSlot p { image := f.img, load := { addr := c.op0, pasid := bitsOf c.op1.toNat 19 0
                                             virt := bitsOf c.op1.toNat 20 20 == 1, dev := opDev c.op1, len := c.op2.toNat }
                   alloc := a }).setSlotState p 1 with
    admission := some { slot := p, ring := n, tag := c.tag } }.setBusy n

/-- What PLAN_LOAD reads of the image. -/
def State.fetched (s : State) (c : Cmd) (image : Option (List Byte)) : Fetched :=
  if opDev c.op1 then s.fetchDev c.op0.toNat c.op2.toNat else fetchHost c.op2.toNat (image.getD [])

/-- A PLAN_LOAD is served: it names a free slot, and no other admission is under way. -/
structure LoadServed (s : State) (n p : Nat) (c : Cmd) (rest : List Cmd) : Prop where
  next : s.nextCmd n 0x10 c rest
  idle : s.admission = none
  on : ∀ b ∈ planBlocks, s.enabled b = true
  long : 256 ≤ c.op2.toNat
  lt : p < 16
  free : s.slotState p = 0
  names : if c.op1.toNat.testBit 28 then ∀ q, q < p → s.slotState q ≠ 0 else p = opSlot c.op1

theorem exec_planLoad {s : State} {ring : Fin 16} {p : Nat} {c : Cmd} {rest : List Cmd} (h : LoadServed s ring p c rest)
    (image : Option (List Byte)) :
    exec (.planLoad ring image) s = .next (match s.admitPlan p (s.fetched c image) c.op2.toNat with
      | .error r => s.refusePlan ring p r
      | .ok a => s.admitted ring p c (s.fetched c image) a) := by
  obtain ⟨next, idle, on, long, hp, free, names⟩ := h
  have blocks : (planBlocks.any fun b => !s.enabled b) = false := by
    rw [List.any_eq_false]
    exact fun b hb => by simp [on b hb]
  have found : ∃ any : Bool, (bitsOf c.op1.toNat 28 28 == 1) = any ∧
      (any && ((List.range 16).find? fun q => s.slotState q == 0).isNone) = false ∧
      (!any && s.slotState (opSlot c.op1) != 0) = false ∧
      (if any then ((List.range 16).find? fun q => s.slotState q == 0).getD 0 else opSlot c.op1) = p := by
    by_cases any : c.op1.toNat.testBit 28 = true
    · rw [if_pos any] at names
      exact ⟨true, by rw [(bitsOf_self_eq_one _ 28).2 any]; rfl, by rw [State.find_free hp free names]; rfl, rfl,
        by rw [State.find_free hp free names]; rfl⟩
    · rw [if_neg any] at names
      exact ⟨false, by rw [(bitsOf_self_eq_zero _ 28).2 (Bool.eq_false_iff.2 any)]; rfl, rfl, by rw [← names, free]; rfl,
        names.symm⟩
  obtain ⟨any, isAny, some_, isFree, slot⟩ := found
  refine congrArg Host.Outcome.next ((State.command_next next _).trans ?_)
  simp only [isAny]
  refine (if_neg (by rw [idle]; decide)).trans ((if_neg (by rw [some_]; decide)).trans ((if_neg (by rw [isFree]; decide)).trans ?_))
  rw [slot]
  exact (if_neg (by rw [blocks]; decide)).trans (if_neg (Nat.not_lt.2 long))

theorem State.ringBusy_setBusy {s u : State} {n : Nat} (h : u.ring n = s.ring n) : RingBusy n s (u.setBusy n) := by
  rw [RingBusy, State.setBusy, State.ring_setRing_self, h]

theorem admitted_effect (s : State) {n p : Nat} (hp : p < 16) (c : Cmd) (f : Fetched) (a : Alloc) :
    let t := s.admitted n p c f a
    ∃ load, t.slotState p = 1 ∧ RingBusy n s t ∧ t.slot p = { image := f.img, load := load, alloc := a } ∧ load.addr = c.op0 ∧
      load.len = c.op2.toNat ∧ load.dev = opDev c.op1 ∧ t.admission = some { slot := p, ring := n, tag := c.tag } ∧
      t = { s with regs := t.regs, rings := t.rings, slots := t.slots, admission := t.admission } ∧
      RegFrame ((Reg.PLAN_P_STAT_STATE p).bits pgPLAN) s t := by
  intro t
  refine ⟨_, (s.setSlot p _).slotState_setSlotState_self hp (by decide), State.ringBusy_setBusy rfl, s.slot_setSlot_self p _,
    rfl, rfl, rfl, rfl, rfl, ?_⟩
  exact (onlyBits_setFld (s.setSlot p _) pgPLAN (Reg.PLAN_P_STAT_STATE p) 1 (slotField_ok hp)).2

theorem refusePlan_effect {s : State} {n p : Nat} (hp : p < 16) {c : Cmd} {rest : List Cmd}
    (waiting : (s.ring n).waiting = c :: rest) (r : Refuse) :
    let t := s.refusePlan n p r
    RingCompleted n c rest r.code p 0 (if 16 ≤ r.code && r.code ≤ 30 then r.claim else 0) t ∧ t.slotState p = s.slotState p ∧
      t.slots = s.slots ∧ t.admission = s.admission ∧ t.fld pgPLAN Reg.PLAN_ADMIT_REASON = r.code % 2 ^ 8 := by
  intro t
  obtain ⟨reason, only, frame⟩ := noteAdmit_effect s p r
  have setR := (onlyBits_setFld (s.noteAdmit p r) pgPLAN (Reg.PLAN_P_STAT_REASON p) r.code (reasonField_ok hp)).1
  have kept : ((s.noteAdmit p r).setReason p r.code).fld pgPLAN Reg.PLAN_ADMIT_REASON =
      (s.noteAdmit p r).fld pgPLAN Reg.PLAN_ADMIT_REASON :=
    State.fld_setFld_off (f' := Reg.PLAN_ADMIT_REASON) (f := Reg.PLAN_P_STAT_REASON p) _ _ _
      (by simp only [Reg.PLAN_P_STAT_REASON, Reg.PLAN_ADMIT_REASON]; omega) (reasonField_ok hp) (by decide)
  have state := (s.noteAdmit p r).slotState_setReason r.code hp hp
  have regs : RegsOnly s ((s.noteAdmit p r).setReason p r.code) := by
    rw [RegsOnly, State.setReason, setR, only]
  have done := complete_effect (s := (s.noteAdmit p r).setReason p r.code) (n := n) (by rw [regs.ring]; exact waiting) r.code p 0
    (if 16 ≤ r.code && r.code ≤ 30 then r.claim else 0)
  change CplFrame _ t ∧ RingCompleted _ _ _ _ _ _ _ t at done
  generalize (s.noteAdmit p r).setReason p r.code = u at regs state kept done
  obtain ⟨cpl, completed⟩ := done
  refine ⟨completed, ?_, ?_, ?_, ?_⟩
  · rw [cpl.slotState hp, state, slotState_of_admitBits frame hp]
  · rw [cpl.slots, regs]
  · rw [cpl.1, regs]
  · rw [cpl.fld (by decide) (by decide) (.inr (.inl (by decide))), kept, reason]

end Sys2Proof.Machine

namespace Sys2Proof.Machine
open Sys2Proof

/-! ## A plan's units stop (R64, R145) -/

/-- Nothing but memory differs. -/
def MemOnly (s t : State) : Prop := t = { s with mem := t.mem }

theorem MemOnly.trans {s t u : State} (h : MemOnly s t) (h' : MemOnly t u) : MemOnly s u := by
  rw [MemOnly, h', h]

theorem memOnly_writeRecord (s : State) (tile : Nat) (x : StrmSlot) (status cause : Nat) :
    MemOnly s (s.writeRecord tile x status cause) := by
  unfold State.writeRecord
  split
  · rfl
  · exact List.foldlRecOn _ _ (motive := MemOnly s) rfl fun u hu r _ => hu.trans rfl

/-- Threads of a tile go on: what runs on it is the same, and no thread starts to wait. -/
structure Wakes (t t' : Tile) : Prop where
  running : t'.running = t.running
  waits : ∀ k, (t.thread k).wait = none → (t'.thread k).wait = none

theorem Wakes.refl (t : Tile) : Wakes t t := ⟨rfl, fun _ h => h⟩

theorem Wakes.trans {t t' t'' : Tile} (h : Wakes t t') (h' : Wakes t' t'') : Wakes t t'' :=
  ⟨h'.running.trans h.running, fun k w => h'.waits k (h.waits k w)⟩

theorem wakes_setThread (t : Tile) (k : Nat) {x : Thread} (hx : x.wait = none) : Wakes t (t.setThread k x) :=
  ⟨rfl, fun j w => by
    by_cases same : j = k
    · rw [same, Tile.thread_setThread_self, hx]
    · rw [Tile.thread_setThread_ne _ _ same, w]⟩

theorem wakes_setSlot (t : Tile) (k : Nat) (x : Option StrmSlot) : Wakes t (t.setSlot k x) := ⟨rfl, fun _ h => h⟩

theorem wakes_wakeWaiters (t : Tile) (k : Nat) : Wakes t (t.wakeWaiters k) := by
  unfold Tile.wakeWaiters
  refine List.foldlRecOn _ _ (motive := Wakes t) (.refl t) fun u hu j _ => ?_
  simp only
  split
  · exact hu.trans (wakes_setThread u j rfl)
  · exact hu

/-- What abandoning the transfers of a tile changes. -/
structure Abandons (n : Nat) (s t : State) : Prop where
  only : t = { s with tiles := t.tiles, mem := t.mem }
  others : ∀ m, m ≠ n → t.tile m = s.tile m
  tile : Wakes (s.tile n) (t.tile n)

theorem Abandons.refl (n : Nat) (s : State) : Abandons n s s := ⟨rfl, fun _ _ => rfl, .refl _⟩

theorem Abandons.trans {n : Nat} {s t u : State} (h : Abandons n s t) (h' : Abandons n t u) : Abandons n s u :=
  ⟨by rw [h'.only, h.only], fun m hm => (h'.others m hm).trans (h.others m hm), h.tile.trans h'.tile⟩

theorem abandons_setTile {s t : State} {n : Nat} (mem : MemOnly s t) {x : Tile} (wakes : Wakes (s.tile n) x) :
    Abandons n s (t.setTile n x) := by
  obtain ⟨tiles, eq⟩ : ∃ tiles, t.setTile n x = { t with tiles := tiles } := ⟨_, rfl⟩
  refine ⟨by rw [eq, mem], fun m hm => ?_, ?_⟩
  · rw [State.tile_setTile_ne _ _ hm, mem]; rfl
  · rw [State.tile_setTile_self]; exact wakes

theorem abandons_endStrm (s : State) (n k status cause : Nat) : Abandons n s (s.endStrm n k status cause) := by
  unfold State.endStrm
  split
  · exact .refl n s
  · split
    · exact .refl n s
    · case h_2 x _ _ =>
      have mem := memOnly_writeRecord s n x status cause
      have same : (s.writeRecord n x status cause).tile n = s.tile n := by rw [mem]; rfl
      refine abandons_setTile mem ?_
      rw [same]
      exact (wakes_wakeWaiters (s.tile n) k).trans (wakes_setSlot _ k _)

theorem abandons_abandonTile (s : State) (n : Nat) : Abandons n s (s.abandonTile n) := by
  unfold State.abandonTile
  exact List.foldlRecOn _ _ (motive := Abandons n s) (.refl n s) fun u hu k _ => hu.trans (abandons_endStrm u n k 3 0)

/-- What stopping some tiles changes. -/
structure TilesHalt (tiles : List Nat) (s t : State) : Prop where
  only : t = { s with tiles := t.tiles, mem := t.mem }
  halted : ∀ n ∈ tiles, t.runOf n = none
  others : ∀ n, n ∉ tiles → t.tile n = s.tile n
  waits : s.noWaits → t.noWaits

/-- A tile whose transfers are abandoned and that runs nothing. -/
theorem tilesHalt_setTile {s u : State} {n : Nat} (h : Abandons n s u) {x : Tile} (idle : x.running = none) (empty : x.threads = []) :
    TilesHalt [n] s (u.setTile n x) := by
  obtain ⟨only, others, _⟩ := h
  obtain ⟨tiles, eq⟩ : ∃ tiles, u.setTile n x = { u with tiles := tiles } := ⟨_, rfl⟩
  refine ⟨by rw [eq, only], fun m hm => ?_, fun m hm => ?_, fun quiet m k => ?_⟩
  · rw [List.mem_singleton.1 hm, State.runOf, State.tile_setTile_self, idle]
  · have ne : m ≠ n := fun h => hm (List.mem_singleton.2 h)
    rw [State.tile_setTile_ne _ _ ne, others m ne]
  · by_cases same : m = n
    · rw [same, State.thread, State.tile_setTile_self, Tile.thread, empty]; rfl
    · rw [State.thread, State.tile_setTile_ne _ _ same, others m same]; exact quiet m k

theorem tilesHalt_foldl {f : State → Nat → State} (halt : ∀ s n, TilesHalt [n] s (f s n)) :
    ∀ (tiles : List Nat) (s : State), TilesHalt tiles s (tiles.foldl f s)
  | [], _ => ⟨rfl, fun _ h => absurd h List.not_mem_nil, fun _ _ => rfl, fun h => h⟩
  | n :: tiles, s => by
    have first := halt s n
    have rest := tilesHalt_foldl halt tiles (f s n)
    rw [List.foldl_cons]
    refine ⟨by rw [rest.only, first.only], fun m hm => ?_, fun m hm => ?_, fun quiet => rest.waits (first.waits quiet)⟩
    · by_cases later : m ∈ tiles
      · exact rest.halted m later
      · rw [State.runOf, rest.others m later]
        exact first.halted m (List.mem_singleton.2 ((List.mem_cons.1 hm).resolve_right later))
    · rw [List.mem_cons, not_or] at hm
      rw [rest.others m hm.2, first.others m fun h => hm.1 (List.mem_singleton.1 h)]

/-- A tile whose program is stopped (R145). -/
def State.haltTile (s : State) (n : Nat) : State :=
  (s.abandonTile n).setTile n { (s.abandonTile n).tile n with
    running := none, threads := [], divert := [], taken := [], probes := [], partials := [], opDescs := [] }

theorem tilesHalt_haltTile (s : State) (n : Nat) : TilesHalt [n] s (s.haltTile n) :=
  tilesHalt_setTile (abandons_abandonTile s n) rfl rfl

/-- What stopping a plan changes. -/
structure PlanStops (p : Nat) (s t : State) : Prop where
  only : t = { s with
    tiles := t.tiles, mem := t.mem, car := t.car, probeUnits := t.probeUnits, decs := t.decs, augs := t.augs, slots := t.slots }
  tables : t.car.tables = s.car.tables
  slot : t.slot p = { s.slot p with runs := [] }
  halted : ∀ n ∈ (s.slot p).alloc.tiles, t.runOf n = none
  waits : s.noWaits → t.noWaits

theorem planStops_stopPlan (s : State) (p : Nat) : PlanStops p s (s.stopPlan p) := by
  have halt := tilesHalt_foldl tilesHalt_haltTile (s.slot p).alloc.tiles s
  obtain ⟨only, halted, _, waits⟩ := halt
  have stop : s.stopPlan p = (((s.slot p).alloc.tiles.foldl State.haltTile s).stopUnits p).setSlot p
    { (((s.slot p).alloc.tiles.foldl State.haltTile s).stopUnits p).slot p with runs := [] } := rfl
  rw [stop]
  generalize (s.slot p).alloc.tiles.foldl State.haltTile s = u at only halted waits
  have slot : (u.stopUnits p).slot p = s.slot p := by rw [only]; rfl
  rw [slot]
  refine ⟨?_, ?_, State.slot_setSlot_self _ _ _, halted, waits⟩
  · rw [only]; rfl
  · rw [only]; rfl

end Sys2Proof.Machine

namespace Sys2Proof.Machine
open Sys2Proof

/-! ## A plan goes back to its oldest chunk (R64, R73) -/

/-- A slot whose plan goes back to a chunk. -/
def PlanSlot.rewound (x : PlanSlot) (k0 : Nat) : PlanSlot :=
  { x with
    runs := []
    chunks := x.chunks.map fun c => if k0 ≤ c.k then { c with regen := true, done := false, cadence := 0 } else c
    next := k0
    cadChunk := k0
    cued := []
    stageDone := x.stageDone.map fun q => (q.1, min q.2 k0) }

/-- Nothing outside a plan's units, slot, queues and requests differs. -/
def PlanOnly (s t : State) : Prop := t = { s with
  tiles := t.tiles, mem := t.mem, car := t.car, probeUnits := t.probeUnits, decs := t.decs, augs := t.augs, slots := t.slots
  fsch := t.fsch, queues := t.queues, link := t.link }

theorem PlanOnly.trans {s t u : State} (h : PlanOnly s t) (h' : PlanOnly t u) : PlanOnly s u := by
  rw [PlanOnly, h', h]

theorem PlanOnly.slotState {s t : State} (h : PlanOnly s t) (p : Nat) : t.slotState p = s.slotState p := by rw [h]; rfl

theorem PlanOnly.ring {s t : State} (h : PlanOnly s t) (n : Nat) : t.ring n = s.ring n := by rw [h]; rfl

theorem PlanStops.planOnly {p : Nat} {s t : State} (h : PlanStops p s t) : PlanOnly s t := by rw [PlanOnly, h.only]

/-- What a plan that goes back has become. -/
structure PlanRewinds (p : Nat) (s t : State) : Prop where
  only : PlanOnly s t
  slot : t.slot p = (s.slot p).rewound (s.oldestChunk p)
  halted : ∀ n ∈ (s.slot p).alloc.tiles, t.runOf n = none

theorem planRewinds_rewind (s : State) (p : Nat) : PlanRewinds p s (s.rewind p) := by
  have stops := planStops_stopPlan s p
  have slot := stops.slot
  have oldest : (s.stopPlan p).oldestChunk p = s.oldestChunk p := by rw [State.oldestChunk, slot]; rfl
  simp only [State.rewind, oldest]
  have only := stops.planOnly
  have halted := stops.halted
  generalize s.stopPlan p = u at slot only halted
  refine ⟨?_, ?_, halted⟩
  · rw [PlanOnly, only]; rfl
  · exact (u.slot_setSlot_self p _).trans (by rw [slot]; rfl)

theorem queues_restartBatches (s : State) (p : Nat) :
    s.restartBatches p = { s with queues := (s.restartBatches p).queues, link := (s.restartBatches p).link } := by
  unfold State.restartBatches
  exact List.foldlRecOn _ _ (motive := fun (t : State) => t = { s with queues := t.queues, link := t.link }) rfl fun u hu q _ => by
    rw [hu]; rfl

end Sys2Proof.Machine

namespace Sys2Proof.Machine
open Sys2Proof

/-- A plan whose batches start again has the units, slots and rings it had. -/
theorem PlanRewinds.restarted {p : Nat} {s t : State} (h : PlanRewinds p s t) : PlanRewinds p s (t.restartBatches p) := by
  obtain ⟨only, slot, halted⟩ := h
  have eq := queues_restartBatches t p
  generalize t.restartBatches p = u at eq
  refine ⟨by rw [PlanOnly, eq, only], ?_, fun n hn => ?_⟩
  · rw [eq]; exact slot
  · rw [eq]; exact halted n hn

/-- A plan that has gone back to its oldest chunk. -/
def State.rewoundPlan (s : State) (p : Nat) : State := (s.rewind p).restartBatches p

theorem planRewinds_rewoundPlan (s : State) (p : Nat) : PlanRewinds p s (s.rewoundPlan p) := (planRewinds_rewind s p).restarted

theorem opSlot_lt (w : Word) : opSlot w < 16 := bitsOf_lt _ 27 24

/-! ## PLAN_START (R64) -/

/-- A plan that runs from its oldest chunk. -/
def State.startPlan (s : State) (p : Nat) : State :=
  ((s.rewoundPlan p).setSlot p { (s.rewoundPlan p).slot p with tablesLoaded := true }).setSlotState p 3

theorem startPlan_effect (s : State) {p : Nat} (hp : p < 16) :
    let t := s.startPlan p
    t.slotState p = 3 ∧ (∀ q, q < 16 → q ≠ p → t.slotState q = s.slotState q) ∧ (∀ n, t.ring n = s.ring n) ∧
      t.slot p = { (s.slot p).rewound (s.oldestChunk p) with tablesLoaded := true } := by
  intro t
  obtain ⟨only, slot, _⟩ := planRewinds_rewoundPlan s p
  have eq : t = ((s.rewoundPlan p).setSlot p { (s.rewoundPlan p).slot p with tablesLoaded := true }).setSlotState p 3 := rfl
  rw [slot] at eq
  generalize s.rewoundPlan p = u at only eq
  have set := (onlyBits_setFld (u.setSlot p { (s.slot p).rewound (s.oldestChunk p) with tablesLoaded := true }) pgPLAN
    (Reg.PLAN_P_STAT_STATE p) 3 (slotField_ok hp)).1
  refine ⟨?_, fun q hq ne => ?_, fun n => ?_, ?_⟩
  · rw [eq, State.slotState_setSlotState_self _ hp (by decide)]
  · rw [eq, State.slotState_setSlotState_ne _ _ hp hq ne]
    exact (State.slotState_congr (State.fld_setSlot u _ _ _ _)).trans (only.slotState q)
  · rw [eq]; exact (set.ring n).trans (only.ring n)
  · rw [eq]; exact (set.slot p).trans (u.slot_setSlot_self p _)

theorem exec_planStart {s : State} {ring : Fin 16} {c : Cmd} {rest : List Cmd} (h : s.nextCmd ring 0x11 c rest)
    (on : s.enabled pgPLAN = true) {p : Nat} (isP : slotOfOp1 c = p) (ready : s.slotState p = 2)
    (loaded : (s.slot p).tablesLoaded = true) (aligns : (s.slot p).alloc.aligns = []) (cadence : (s.image p).cadence = none) :
    exec (.planStart ring) s = .next ((s.startPlan p).complete ring 0 p 0 0) := by
  have slot := (planRewinds_rewoundPlan s p).slot
  obtain ⟨_, _, _, slot'⟩ := startPlan_effect s (p := p) (by rw [← isP]; exact opSlot_lt c.op1)
  have isLoaded : ((s.rewoundPlan p).slot p).tablesLoaded = true := by rw [slot]; exact loaded
  have noAligns : ((s.rewoundPlan p).slot p).alloc.aligns = [] := by rw [slot]; exact aligns
  have noCadence : ((s.startPlan p).image p).cadence = none := by rw [State.image, slot']; exact cadence
  have paused : (s.startPlan p).cadenceStart p = s.startPlan p := by rw [State.cadenceStart, noCadence]
  refine congrArg Host.Outcome.next ((State.slotCommand_valid h on (valid := [2])
    (by rw [isP, ready]; exact List.mem_singleton_self 2) _).trans ?_)
  rw [isP]
  simp only [State.startPlan, State.rewoundPlan] at isLoaded noAligns paused ⊢
  generalize (s.rewind p).restartBatches p = u at isLoaded noAligns paused
  rw [noAligns, if_pos isLoaded, List.foldl_nil, paused]

theorem planStart_effect {s : State} {ring : Fin 16} {c : Cmd} {rest : List Cmd} (h : s.nextCmd ring 0x11 c rest)
    (on : s.enabled pgPLAN = true) {p : Nat} (isP : slotOfOp1 c = p) (ready : s.slotState p = 2)
    (loaded : (s.slot p).tablesLoaded = true) (aligns : (s.slot p).alloc.aligns = []) (cadence : (s.image p).cadence = none) :
    ∃ t, (exec (.planStart ring) s = .next t ∧ RingCompleted ring c rest 0 p 0 0 t ∧ t.slotState p = 3) ∧
      (t.slot p).runs = [] ∧ (t.slot p).next = s.oldestChunk p ∧ ∀ q, q < 16 → q ≠ p → t.slotState q = s.slotState q := by
  have hp : p < 16 := by rw [← isP]; exact opSlot_lt c.op1
  have run := exec_planStart h on isP ready loaded aligns cadence
  obtain ⟨running, others, rings, slot⟩ := startPlan_effect s hp
  generalize s.startPlan p = u at run running others rings slot
  obtain ⟨cpl, completed⟩ := complete_effect (s := u) (by rw [rings]; exact h.1) 0 p 0 0
  have slotT := (cpl.slot p).trans slot
  refine ⟨_, ⟨run, completed, (cpl.slotState hp).trans running⟩, ?_, ?_, fun q hq ne => (cpl.slotState hq).trans (others q hq ne)⟩
  · rw [slotT]; rfl
  · rw [slotT]; rfl

/-! ## PLAN_ABORT (R64) -/

/-- A plan that is aborted. -/
def State.abortPlan (s : State) (p : Nat) : State :=
  let u := (s.rewoundPlan p).setSlot p { (s.rewoundPlan p).slot p with stopWaits := [] }
  if u.slotState p = 7 then u else u.setSlotState p 2

theorem abortPlan_effect (s : State) {p : Nat} (hp : p < 16) :
    let t := s.abortPlan p
    t.slotState p = (if s.slotState p = 7 then 7 else 2) ∧ (∀ n, t.ring n = s.ring n) ∧ (t.slot p).runs = [] ∧
      ∀ n ∈ (s.slot p).alloc.tiles, t.runOf n = none := by
  intro t
  obtain ⟨only, slot, halted⟩ := planRewinds_rewoundPlan s p
  have eq : t = (let u := (s.rewoundPlan p).setSlot p { (s.rewoundPlan p).slot p with stopWaits := [] }
    if u.slotState p = 7 then u else u.setSlotState p 2) := rfl
  rw [slot] at eq
  generalize s.rewoundPlan p = u at only halted eq
  obtain ⟨slots, set⟩ := u.setSlot_eq p { (s.slot p).rewound (s.oldestChunk p) with stopWaits := [] }
  have runs := congrArg PlanSlot.runs (u.slot_setSlot_self p { (s.slot p).rewound (s.oldestChunk p) with stopWaits := [] })
  generalize u.setSlot p { (s.slot p).rewound (s.oldestChunk p) with stopWaits := [] } = v at eq set runs
  have state : v.slotState p = s.slotState p := by rw [← only.slotState, set]; rfl
  have rings : ∀ n, v.ring n = s.ring n := fun n => by rw [← only.ring, set]; rfl
  have halted' : ∀ n ∈ (s.slot p).alloc.tiles, v.runOf n = none := fun n hn => by rw [← halted n hn, set]; rfl
  simp only at eq
  rw [eq, state]
  by_cases held : s.slotState p = 7
  · rw [if_pos held, if_pos held]
    exact ⟨state.trans held, rings, runs, halted'⟩
  · rw [if_neg held, if_neg held]
    have regs := (onlyBits_setFld v pgPLAN (Reg.PLAN_P_STAT_STATE p) 2 (slotField_ok hp)).1
    refine ⟨v.slotState_setSlotState_self hp (by decide), fun n => (regs.ring n).trans (rings n), ?_, fun n hn => ?_⟩
    · exact (congrArg PlanSlot.runs (regs.slot p)).trans runs
    · rw [State.setSlotState, regs]; exact halted' n hn

theorem exec_planAbort {s : State} {ring : Fin 16} {c : Cmd} {rest : List Cmd} (h : s.nextCmd ring 0x13 c rest)
    (on : s.enabled pgPLAN = true) {p : Nat} (isP : slotOfOp1 c = p) (runs : s.slotState p ∈ [3, 4, 7])
    (noStops : (s.slot p).stopWaits = []) : exec (.planAbort ring) s = .next ((s.abortPlan p).complete ring 0 p 0 0) := by
  have stops : ((s.rewoundPlan p).slot p).stopWaits = [] := by rw [(planRewinds_rewoundPlan s p).slot]; exact noStops
  refine congrArg Host.Outcome.next ((State.slotCommand_valid h on (valid := [3, 4, 7]) (by rw [isP]; exact runs) _).trans ?_)
  rw [isP]
  simp only [State.abortPlan, State.rewoundPlan] at stops ⊢
  rw [stops, List.foldl_nil]
  rfl

theorem planAbort_effect {s : State} {ring : Fin 16} {c : Cmd} {rest : List Cmd} (h : s.nextCmd ring 0x13 c rest)
    (on : s.enabled pgPLAN = true) {p : Nat} (isP : slotOfOp1 c = p) (runs : s.slotState p ∈ [3, 4, 7])
    (noStops : (s.slot p).stopWaits = []) :
    ∃ t, (exec (.planAbort ring) s = .next t ∧ RingCompleted ring c rest 0 p 0 0 t ∧
        t.slotState p = if s.slotState p = 7 then 7 else 2) ∧
      (t.slot p).runs = [] ∧ ∀ n ∈ (s.slot p).alloc.tiles, t.runOf n = none := by
  have hp : p < 16 := by rw [← isP]; exact opSlot_lt c.op1
  have run := exec_planAbort h on isP runs noStops
  obtain ⟨state, rings, noRuns, halted⟩ := abortPlan_effect s hp
  generalize s.abortPlan p = u at run state rings noRuns halted
  obtain ⟨cpl, completed⟩ := complete_effect (s := u) (by rw [rings]; exact h.1) 0 p 0 0
  refine ⟨_, ⟨run, completed, (cpl.slotState hp).trans state⟩, ?_, fun n hn => ?_⟩
  · rw [cpl.slot, noRuns]
  · rw [cpl.1]; exact halted n hn

end Sys2Proof.Machine

namespace Sys2Proof.Machine
open Sys2Proof

/-! ## PLAN_STOP (R64) -/

/-- A plan that stops, with the command that waits for it. -/
def State.stopping (s : State) (n p : Nat) (tag : Word) : State :=
  ((s.setBusy n).setSlot p { s.slot p with stopWaits := [(n, tag)] }).setSlotState p 4

theorem stopping_effect (s : State) {p : Nat} (hp : p < 16) (n : Nat) (tag : Word) :
    let t := s.stopping n p tag
    t.slotState p = 4 ∧ RingBusy n s t ∧ t.slot p = { s.slot p with stopWaits := [(n, tag)] } ∧
      t = { s with regs := t.regs, rings := t.rings, slots := t.slots } ∧
      RegFrame ((Reg.PLAN_P_STAT_STATE p).bits pgPLAN) s t := by
  intro t
  have eq : t = ((s.setBusy n).setSlot p { s.slot p with stopWaits := [(n, tag)] }).setSlotState p 4 := rfl
  have slot := (s.setBusy n).slot_setSlot_self p { s.slot p with stopWaits := [(n, tag)] }
  have busy : RingBusy n s ((s.setBusy n).setSlot p { s.slot p with stopWaits := [(n, tag)] }) := State.ringBusy_setBusy (u := s) rfl
  obtain ⟨rings, slots, set⟩ : ∃ rings slots, (s.setBusy n).setSlot p { s.slot p with stopWaits := [(n, tag)] } =
    { s with rings := rings, slots := slots } := ⟨_, _, rfl⟩
  generalize (s.setBusy n).setSlot p { s.slot p with stopWaits := [(n, tag)] } = v at eq set slot busy
  obtain ⟨only, frame⟩ := onlyBits_setFld v pgPLAN (Reg.PLAN_P_STAT_STATE p) 4 (slotField_ok hp)
  have state := v.slotState_setSlotState_self hp (st := 4) (by decide)
  rw [← State.setSlotState, ← eq] at only frame
  rw [← eq] at state
  refine ⟨state, (only.ring n).trans busy, (only.slot p).trans slot, ?_, ?_⟩
  · rw [only, set]
  · rw [set] at frame; exact frame

/-- A PLAN_STOP is served: the plan runs, has no events, and no other command waits for it to stop. -/
structure StopServed (s : State) (n p : Nat) (c : Cmd) (rest : List Cmd) : Prop where
  next : s.nextCmd n 0x12 c rest
  on : s.enabled pgPLAN = true
  names : slotOfOp1 c = p
  running : s.slotState p = 3
  noEvents : (s.image p).events = none
  noStops : (s.slot p).stopWaits = []

theorem StopServed.lt {s : State} {n p : Nat} {c : Cmd} {rest : List Cmd} (h : StopServed s n p c rest) : p < 16 := by
  rw [← h.names]; exact opSlot_lt c.op1

theorem exec_planStop {s : State} {ring : Fin 16} {p : Nat} {c : Cmd} {rest : List Cmd} (h : StopServed s ring p c rest) :
    exec (.planStop ring) s = .next ((s.stopping ring p c.tag).settleStop p) := by
  have slot := (stopping_effect s h.lt ring c.tag).2.2.1
  have events : ((s.stopping ring p c.tag).image p).events = none := by rw [State.image, slot]; exact h.noEvents
  have stops : ((s.setBusy ring).slot p).stopWaits = [] := h.noStops
  refine congrArg Host.Outcome.next ((State.slotCommand_valid h.next h.on (valid := [3])
    (by rw [h.names, h.running]; exact List.mem_singleton_self 3) _).trans ?_)
  rw [h.names]
  simp only [stops, List.nil_append]
  change State.settleStop (if ((s.stopping ring p c.tag).image p).events.isSome = true then _ else s.stopping ring p c.tag) p = _
  rw [events]
  rfl

/-- While a stage runs a stopping plan waits (R64). -/
theorem State.settleStop_running {s : State} {p : Nat} (h : (s.slot p).runs ≠ []) : s.settleStop p = s := by
  refine if_neg ?_
  rw [List.isEmpty_eq_false_iff.2 h]
  simp

/-- A stopping plan whose chunks are done has stopped. -/
theorem State.settleStop_done {s : State} {p n : Nat} {tag : Word} (stops : s.slotState p = 4) (runs : (s.slot p).runs = [])
    (done : ∀ k ∈ (s.slot p).chunks, k.done = true) (waits : (s.slot p).stopWaits = [(n, tag)]) :
    s.settleStop p = ((s.setSlotState p 2).setSlot p { s.slot p with stopWaits := [] }).complete n 0 p 0 0 := by
  refine (if_pos ?_).trans ?_
  · rw [stops, runs, List.all_eq_true.2 done]; rfl
  · rw [waits]; rfl

theorem planStop_waits {s : State} {ring : Fin 16} {p : Nat} {c : Cmd} {rest : List Cmd} (h : StopServed s ring p c rest) (runs : (s.slot p).runs ≠ []) :
    ∃ t, exec (.planStop ring) s = .next t ∧ t.slotState p = 4 ∧ RingBusy ring s t ∧
      t.slot p = { s.slot p with stopWaits := [(ring.val, c.tag)] } ∧
      t = { s with regs := t.regs, rings := t.rings, slots := t.slots } ∧
      RegFrame ((Reg.PLAN_P_STAT_STATE p).bits pgPLAN) s t := by
  have run := exec_planStop h
  have effect := stopping_effect s h.lt ring c.tag
  rw [State.settleStop_running (by rw [effect.2.2.1]; exact runs)] at run
  exact ⟨_, run, effect⟩

theorem planStop_done {s : State} {ring : Fin 16} {p : Nat} {c : Cmd} {rest : List Cmd} (h : StopServed s ring p c rest) (runs : (s.slot p).runs = [])
    (done : ∀ k ∈ (s.slot p).chunks, k.done = true) :
    ∃ t, exec (.planStop ring) s = .next t ∧ RingCompleted ring c rest 0 p 0 0 t ∧ t.slotState p = 2 := by
  have hp := h.lt
  have run := exec_planStop h
  obtain ⟨state, busy, slot, _, _⟩ := stopping_effect s hp ring c.tag
  rw [State.settleStop_done state (by rw [slot]; exact runs) (by rw [slot]; exact done) (by rw [slot])] at run
  generalize s.stopping ring p c.tag = u at run busy
  have stopped : ((u.setSlotState p 2).setSlot p { u.slot p with stopWaits := [] }).slotState p = 2 :=
    (State.slotState_congr (State.fld_setSlot _ _ _ _ _)).trans (u.slotState_setSlotState_self hp (by decide))
  have waiting : (((u.setSlotState p 2).setSlot p { u.slot p with stopWaits := [] }).ring ring).waiting = c :: rest := by
    have ring_ : (u.setSlotState p 2).ring ring = u.ring ring := (onlyBits_setFld u pgPLAN _ 2 (slotField_ok hp)).1.ring ring
    exact (congrArg Ring.waiting (ring_.trans busy)).trans h.next.1
  obtain ⟨cpl, completed⟩ := complete_effect waiting 0 p 0 0
  exact ⟨_, run, completed, (cpl.slotState hp).trans stopped⟩

end Sys2Proof.Machine

namespace Sys2Proof.Machine
open Sys2Proof

/-! ## Registers below a page -/

/-- The registers of the pages below P are as they were. -/
def RegsBelow (P : Nat) (s t : State) : Prop := ∀ page off, page < P → off < 0x1000 → t.rd page off = s.rd page off

theorem RegsBelow.refl (P : Nat) (s : State) : RegsBelow P s s := fun _ _ _ _ => rfl

theorem RegsBelow.trans {P : Nat} {s t u : State} (h : RegsBelow P s t) (h' : RegsBelow P t u) : RegsBelow P s u :=
  fun page off hp ho => (h' page off hp ho).trans (h page off hp ho)

/-- A register of another page lies apart, however far its index reaches. -/
theorem regsBelow_wr {P page : Nat} (above : P ≤ page) (s : State) (off : Nat) (v : Word) : RegsBelow P s (s.wr page off v) := by
  intro page' off' hp ho
  refine (s.rd_wr page off page' off' v).trans (if_neg ?_)
  unfold regKey
  omega

theorem regsBelow_setFld {P page : Nat} (above : P ≤ page) (s : State) (f : Fld) (v : Nat) :
    RegsBelow P s (s.setFld page f v) := regsBelow_wr above s f.off _

theorem regsOnly_wr (s : State) (page off : Nat) (v : Word) : RegsOnly s (s.wr page off v) := rfl

theorem regsOnly_setFld (s : State) (page : Nat) (f : Fld) (v : Nat) : RegsOnly s (s.setFld page f v) := rfl

theorem regsBelow_of_rd {P : Nat} {s t : State} (h : ∀ page off, t.rd page off = s.rd page off) : RegsBelow P s t :=
  fun page off _ _ => h page off

theorem RegsBelow.fld {P : Nat} {s t : State} (h : RegsBelow P s t) {page : Nat} {f : Fld} (hp : page < P) (hf : f.off < 0x1000) :
    t.fld page f = s.fld page f := by rw [State.fld, State.fld, h page f.off hp hf]

theorem RegsBelow.slotState {s t : State} (h : RegsBelow pgFSCH s t) {p : Nat} (hp : p < 16) : t.slotState p = s.slotState p :=
  h.fld (by decide) (slotField_ok hp).2.2

/-! ## A measurement (R458) -/

/-- The words of a measurement register. -/
def State.setMeasurement (s : State) (m : Nat) (h : List Byte) : State :=
  (List.range 4).foldl (fun (s : State) w => s.setFld pgSEC (Reg.SEC_M_DATA (4 * m + w)) (leNat (slice h (8 * w) 8))) s

theorem onlyBits_setMeasurement (s : State) {m : Nat} (hm : m < 16) (h : List Byte) :
    OnlyBits (fun pg off _ => pg = pgSEC ∧ 0x200 ≤ off) s (s.setMeasurement m h) := by
  refine onlyBits_foldl _ (fun u w hw => ?_) s
  have hw := List.mem_range.1 hw
  refine (onlyBits_setFld u pgSEC (Reg.SEC_M_DATA (4 * m + w)) _ ⟨Nat.zero_le _, (by decide : 63 < 64), ?_⟩).mono
    fun pg off i ⟨hpg, hoff, _⟩ => ⟨hpg, ?_⟩
  · simp only [Reg.SEC_M_DATA]; omega
  · simp only [Reg.SEC_M_DATA] at hoff; omega

/-- Adding a record to the log counts it. -/
theorem State.measure_eq (s : State) (m kind : Nat) (digest : List Byte) (planId slot : Nat) : ∃ h sec,
    s.measure m kind digest planId slot =
      { (s.setMeasurement m h).addWrap pgSEC Reg.SEC_LOG_CTL_TOTAL 1 with sec := sec } := ⟨_, _, rfl⟩

theorem measure_effect (s : State) {m : Nat} (hm : m < 16) (kind : Nat) (digest : List Byte) (planId slot : Nat) :
    let t := s.measure m kind digest planId slot
    t = { s with regs := t.regs, sec := t.sec } ∧ RegFrame (fun pg _ _ => pg = pgSEC) s t ∧
      t.fld pgSEC Reg.SEC_LOG_CTL_TOTAL = (s.fld pgSEC Reg.SEC_LOG_CTL_TOTAL + 1) % 2 ^ 48 := by
  intro t
  obtain ⟨h, sec, eq⟩ := s.measure_eq m kind digest planId slot
  obtain ⟨only, frame⟩ := onlyBits_setMeasurement s hm h
  change t = _ at eq
  generalize s.setMeasurement m h = u at eq only frame
  obtain ⟨only', frame'⟩ := onlyBits_addWrap u pgSEC Reg.SEC_LOG_CTL_TOTAL 1 ⟨by decide, by decide, by decide⟩
  have total : (u.addWrap pgSEC Reg.SEC_LOG_CTL_TOTAL 1).fld pgSEC Reg.SEC_LOG_CTL_TOTAL =
      (s.fld pgSEC Reg.SEC_LOG_CTL_TOTAL + 1) % 2 ^ 48 := by
    rw [State.addWrap, State.fld_setFld_same _ _ _ (by decide),
      frame.fld (by decide) (by decide) fun i _ _ h => absurd h.2 (by decide)]
    rfl
  generalize u.addWrap pgSEC Reg.SEC_LOG_CTL_TOTAL 1 = v at eq only' frame' total
  refine ⟨?_, ?_, ?_⟩
  · rw [eq, only', only]
  · rw [eq]
    exact ((frame.mono (q := fun pg _ _ => pg = pgSEC) fun _ _ _ h => h.1).trans (frame'.mono (q := fun pg _ _ => pg = pgSEC)
      fun _ _ _ h => h.1)).mono fun _ _ _ h => h.elim id id
  · rw [eq]; exact total

/-! ## What a plan holds is released (R64) -/

theorem setTile_foldl : ∀ (l : List Nat) (s : State),
    let t := l.foldl (fun (s : State) n => s.setTile n {}) s
    t = { s with tiles := t.tiles } ∧ (∀ n ∈ l, t.tile n = {}) ∧ ∀ n, n ∉ l → t.tile n = s.tile n
  | [], _ => ⟨rfl, fun _ h => absurd h List.not_mem_nil, fun _ _ => rfl⟩
  | n :: l, s => by
    obtain ⟨only, in_, out⟩ := setTile_foldl l (s.setTile n {})
    simp only [List.foldl_cons]
    generalize l.foldl (fun (s : State) n => s.setTile n {}) (s.setTile n {}) = t at only in_ out
    refine ⟨by rw [only]; rfl, fun m hm => ?_, fun m hm => ?_⟩
    · by_cases later : m ∈ l
      · exact in_ m later
      · rw [out m later, (List.mem_cons.1 hm).resolve_right later, State.tile_setTile_self]
    · rw [List.mem_cons, not_or] at hm
      rw [out m hm.2, State.tile_setTile_ne _ _ hm.1]

theorem State.queue_setQueue (s : State) (n m : Nat) (q : Option Queue) :
    (s.setQueue n q).queue m = if m = n then q else s.queue m := kget_kset _ _ _ _

theorem setQueue_foldl : ∀ (l : List Nat) (s : State),
    let t := l.foldl (fun (s : State) n => s.setQueue n none) s
    t = { s with queues := t.queues } ∧ ∀ n, n ∈ l ∨ s.queue n = none → t.queue n = none
  | [], _ => ⟨rfl, fun _ h => h.resolve_left List.not_mem_nil⟩
  | n :: l, s => by
    obtain ⟨only, gone⟩ := setQueue_foldl l (s.setQueue n none)
    simp only [List.foldl_cons]
    generalize l.foldl (fun (s : State) n => s.setQueue n none) (s.setQueue n none) = t at only gone
    refine ⟨by rw [only]; rfl, fun m hm => gone m ?_⟩
    rw [State.queue_setQueue]
    by_cases same : m = n
    · exact .inr (if_pos same)
    · rw [if_neg same]
      exact hm.imp_left fun h => (List.mem_cons.1 h).resolve_left same

theorem setBell_foldl (l : List Nat) (s : State) :
    l.foldl (fun (s : State) b => s.setBell b []) s = { s with car := (l.foldl (fun (s : State) b => s.setBell b []) s).car } :=
  List.foldlRecOn l _ (motive := fun (t : State) => t = { s with car := t.car }) rfl fun u hu b _ => by rw [hu]; rfl

/-- The scheduler and the registers of its page and those above change; the pool is the same. -/
structure PoolKept (s t : State) : Prop where
  only : t = { s with regs := t.regs, fsch := t.fsch }
  pool : t.fsch.pool = s.fsch.pool
  regs : RegsBelow pgFSCH s t

/-- An alignment group closes. -/
def State.closeGroup (s : State) (n : Nat) : State :=
  ({ s with fsch := { s.fsch with groups := kset (fun _ => none) s.fsch.groups n none } }.wr pgFSCH
    (Reg.FSCH_G_STAT_ACTIVE n).off 0).setFld pgFSCH (Reg.FSCH_G_WM_WM n) (2 ^ 63)

theorem poolKept_closeGroup (s : State) (n : Nat) : PoolKept s (s.closeGroup n) := by
  obtain ⟨groups, v, eq⟩ : ∃ groups v, s.closeGroup n = ({ s with fsch := { s.fsch with groups := groups } }.wr pgFSCH
    (Reg.FSCH_G_STAT_ACTIVE n).off 0).setFld pgFSCH (Reg.FSCH_G_WM_WM n) v := ⟨_, _, rfl⟩
  rw [eq]
  exact ⟨rfl, rfl, (regsBelow_wr (le_refl _) _ _ _).trans (regsBelow_setFld (le_refl _) _ _ _)⟩

theorem closeGroup_foldl (l : List Nat) (s : State) : PoolKept s (l.foldl State.closeGroup s) :=
  List.foldlRecOn l _ (motive := PoolKept s) ⟨rfl, rfl, .refl _ s⟩ fun u hu n _ => by
    obtain ⟨only, pool, regs⟩ := poolKept_closeGroup u n
    exact ⟨by rw [only, hu.only], pool.trans hu.pool, hu.regs.trans regs⟩

theorem setPool_effect (s : State) (f : List PoolEnt → List PoolEnt) :
    let t := s.setPool f
    t = { s with regs := t.regs, fsch := { s.fsch with pool := f s.fsch.pool } } ∧ RegsBelow pgFSCH s t := by
  intro t
  have used := regsBelow_setFld (P := pgFSCH) (le_refl _) { s with fsch := { s.fsch with pool := f s.fsch.pool } }
    Reg.FSCH_POOL_USED (f s.fsch.pool).length
  have eq : t = (if ({ s with fsch := { s.fsch with pool := f s.fsch.pool } }.setFld pgFSCH Reg.FSCH_POOL_USED
      (f s.fsch.pool).length).fld pgFSCH Reg.FSCH_POOL_HWM_MAX < (f s.fsch.pool).length
    then ({ s with fsch := { s.fsch with pool := f s.fsch.pool } }.setFld pgFSCH Reg.FSCH_POOL_USED
      (f s.fsch.pool).length).setFld pgFSCH Reg.FSCH_POOL_HWM_MAX (f s.fsch.pool).length
    else { s with fsch := { s.fsch with pool := f s.fsch.pool } }.setFld pgFSCH Reg.FSCH_POOL_USED (f s.fsch.pool).length) := rfl
  rw [eq]
  split
  · exact ⟨rfl, used.trans (regsBelow_setFld (le_refl _) _ _ _)⟩
  · exact ⟨rfl, used⟩

end Sys2Proof.Machine

namespace Sys2Proof.Machine
open Sys2Proof

/-- What releasing the claims of a plan does. -/
structure Releases (p : Nat) (s t : State) : Prop where
  rings : t.rings = s.rings
  regs : RegsBelow pgFSCH s t
  slot : t.slot p = {}
  freed : ∀ n ∈ (s.slot p).alloc.tiles, t.tile n = {}
  tiles : ∀ n, n ∉ (s.slot p).alloc.tiles → t.tile n = s.tile n
  queues : ∀ n ∈ (s.slot p).alloc.queues, t.queue n = none
  pool : ∀ e ∈ t.fsch.pool, e.slot ≠ p

/-- The claims that a plan gives back, and its events. -/
def State.freeClaims (s : State) (p : Nat) (a : Alloc) : State :=
  let u := a.bells.foldl (fun (s : State) b => s.setBell b []) (a.tiles.foldl (fun (s : State) t => s.setTile t {}) s)
  (a.aligns.foldl State.closeGroup (a.queues.foldl (fun (s : State) n => s.setQueue n none) u)).setPool
    fun l => l.filter fun e => e.slot != p

theorem State.release_eq (s : State) (p : Nat) : ∃ v : State, s.release p = v.setSlot p {} ∧
    v.regs = (s.freeClaims p (s.slot p).alloc).regs ∧ v.rings = (s.freeClaims p (s.slot p).alloc).rings ∧
    v.tiles = (s.freeClaims p (s.slot p).alloc).tiles ∧ v.queues = (s.freeClaims p (s.slot p).alloc).queues ∧
    v.fsch.pool = (s.freeClaims p (s.slot p).alloc).fsch.pool := ⟨_, rfl, rfl, rfl, rfl, rfl, rfl⟩

theorem freeClaims_effect (s : State) (p : Nat) (a : Alloc) :
    let t := s.freeClaims p a
    t.rings = s.rings ∧ RegsBelow pgFSCH s t ∧ (∀ n ∈ a.tiles, t.tile n = {}) ∧ (∀ n, n ∉ a.tiles → t.tile n = s.tile n) ∧
      (∀ n ∈ a.queues, t.queue n = none) ∧ ∀ e ∈ t.fsch.pool, e.slot ≠ p := by
  obtain ⟨only1, freed, tiles⟩ := setTile_foldl a.tiles s
  simp only [State.freeClaims]
  generalize a.tiles.foldl (fun (s : State) t => s.setTile t {}) s = s1 at *
  have only2 := setBell_foldl a.bells s1
  generalize a.bells.foldl (fun (s : State) b => s.setBell b []) s1 = s2 at *
  obtain ⟨only3, gone⟩ := setQueue_foldl a.queues s2
  generalize a.queues.foldl (fun (s : State) n => s.setQueue n none) s2 = s3 at *
  obtain ⟨only4, _, regs4⟩ := closeGroup_foldl a.aligns s3
  generalize a.aligns.foldl State.closeGroup s3 = s4 at *
  obtain ⟨only5, regs5⟩ := setPool_effect s4 fun l => l.filter fun e => e.slot != p
  generalize s4.setPool (fun l => l.filter fun e => e.slot != p) = s5 at *
  have regs3 : RegsBelow pgFSCH s s3 := by rw [only3, only2, only1]; exact regsBelow_of_rd fun _ _ => rfl
  have tile : ∀ n, s5.tile n = s1.tile n := fun n => by rw [only5, only4, only3, only2]; rfl
  refine ⟨?_, regs3.trans (regs4.trans regs5), fun n hn => (tile n).trans (freed n hn), fun n hn => (tile n).trans (tiles n hn),
    fun n hn => ?_, fun e he => ?_⟩
  · rw [only5, only4, only3, only2, only1]
  · rw [only5, only4]; exact gone n (.inl hn)
  · rw [only5] at he
    simpa using (List.mem_filter.1 he).2

theorem releases_release (s : State) (p : Nat) : Releases p s (s.release p) := by
  obtain ⟨v, eq, regs, rings, tiles, queues, pool⟩ := s.release_eq p
  obtain ⟨rings', regs', freed, kept, gone, left⟩ := freeClaims_effect s p (s.slot p).alloc
  generalize s.freeClaims p (s.slot p).alloc = u at *
  have tile : ∀ n, v.tile n = u.tile n := fun n => by rw [State.tile, tiles]; rfl
  rw [eq]
  refine ⟨rings.trans rings', fun page off hp ho => ?_, v.slot_setSlot_self p {}, fun n hn => (tile n).trans (freed n hn),
    fun n hn => (tile n).trans (kept n hn), fun n hn => ?_, fun e he => ?_⟩
  · exact (congrArg (kget resetVal · (regKey page off)) regs).trans (regs' page off hp ho)
  · exact (congrArg (kget (fun _ => none) · n) queues).trans (gone n hn)
  · exact left e (pool ▸ he)

/-- No thread waits in a state in which released tiles are empty and others are as they were. -/
theorem Releases.noWaits {p : Nat} {s t : State} (h : Releases p s t) (quiet : s.noWaits) : t.noWaits := by
  intro n k
  by_cases mine : n ∈ (s.slot p).alloc.tiles
  · rw [State.thread, h.freed n mine]; rfl
  · rw [State.thread, h.tiles n mine]; exact quiet n k

/-- Where no thread waits, a free place in the pool wakes none. -/
theorem State.wakePosts_quiet {s : State} (quiet : s.noWaits) : s.wakePosts = s := by
  unfold State.wakePosts
  refine foldl_eq_self fun n _ => ?_
  simp only [quiet (n / 8) (n % 8)]
  split <;> simp_all

/-! ## Commands that wait for a plan that is unloaded (R64) -/

/-- Nothing but tables differs, and those only by being dropped. -/
structure TablesDropped (s t : State) : Prop where
  only : t = { s with car := { s.car with tables := t.car.tables } }
  tables : ∀ n, t.table n = s.table n ∨ t.table n = none

theorem tablesDropped_setTable {s t : State} (h : TablesDropped s t) (n : Nat) : TablesDropped s (t.setTable n none) := by
  obtain ⟨only, tables⟩ := h
  refine ⟨by rw [State.setTable, only], fun m => ?_⟩
  have set : (t.setTable n none).table m = if m = n then none else t.table m := kget_kset (d := fun _ => none) t.car.tables n m none
  rw [set]
  split
  · exact .inr rfl
  · exact tables m

/-- The commands that wait for a plan complete. -/
def State.dropCommands (s : State) (p : Nat) : State :=
  let s := (s.slot p).setWaits.foldl (fun (s : State) w => s.complete w.ring 32 p 0 0) s
  match (s.own p).staged with
  | some x => s.complete x.ring 32 p 0 0
  | none => s

/-- A table of an unloaded plan goes, and a command that works on it completes. -/
def State.dropTable (s : State) (p tid : Nat) : State :=
  match s.table tid with
  | some t =>
    if t.slot != p then s
    else
      (match t.job.bind CarJob.ring with
        | some r => s.complete r 44 p 0 0
        | none => s).setTable tid none
  | none => s

theorem State.dropWaits_eq (s : State) (p : Nat) :
    s.dropWaits p = (List.range 32).foldl (fun (s : State) tid => s.dropTable p tid) (s.dropCommands p) := rfl

theorem State.dropCommands_none {s : State} {p : Nat} (sets : (s.slot p).setWaits = []) (own : (s.own p).staged = none) :
    s.dropCommands p = s := by
  simp only [State.dropCommands, sets, List.foldl_nil, own]

theorem TablesDropped.dropTable {s t : State} {p tid : Nat} (h : TablesDropped s t)
    (idle : ∀ ct, s.table tid = some ct → ct.slot = p → ct.job = none) : TablesDropped s (t.dropTable p tid) := by
  unfold State.dropTable
  split
  case h_2 => exact h
  case h_1 ct is =>
    split
    case isTrue => exact h
    case isFalse mine =>
      have isMine : ct.slot = p := by simpa using mine
      have was : s.table tid = some ct := (h.tables tid).elim (fun e => e ▸ is) fun e => nomatch e.symm.trans is
      rw [idle ct was isMine]
      exact tablesDropped_setTable h tid

theorem tablesDropped_dropWaits {s : State} {p : Nat} (sets : (s.slot p).setWaits = []) (own : (s.own p).staged = none)
    (idle : ∀ tid, tid < 32 → ∀ ct, s.table tid = some ct → ct.slot = p → ct.job = none) : TablesDropped s (s.dropWaits p) := by
  rw [State.dropWaits_eq, State.dropCommands_none sets own]
  exact List.foldlRecOn _ _ (motive := TablesDropped s) ⟨rfl, fun _ => .inl rfl⟩ fun u hu tid ht =>
    hu.dropTable (idle tid (List.mem_range.1 ht))

end Sys2Proof.Machine

namespace Sys2Proof.Machine
open Sys2Proof

/-! ## PLAN_UNLOAD (R64) -/

/-- The registers of a slot that is free. -/
def State.clearSlotRegs (s : State) (p : Nat) : State :=
  ((((s.setSlotState p 0).setFld pgPLAN (Reg.PLAN_P_STAT_STAGES p) 0).setFld pgPLAN (Reg.PLAN_P_ID_PLAN_ID p) 0).wr pgFSCH
    (Reg.FSCH_P_FLOW_BASE p).off 0).wr pgTIME (Reg.TIME_P_CAD_NEXT p).off 0

theorem stagesField_ok {p : Nat} (hp : p < 16) : (Reg.PLAN_P_STAT_STAGES p).lo ≤ (Reg.PLAN_P_STAT_STAGES p).hi ∧
    (Reg.PLAN_P_STAT_STAGES p).hi < 64 ∧ (Reg.PLAN_P_STAT_STAGES p).off < 0x1000 :=
  ⟨(by decide : 16 ≤ 22), (by decide : 22 < 64), (slotField_ok hp).2.2⟩

theorem planId_ok {p : Nat} (hp : p < 16) : (Reg.PLAN_P_ID_PLAN_ID p).lo ≤ (Reg.PLAN_P_ID_PLAN_ID p).hi ∧
    (Reg.PLAN_P_ID_PLAN_ID p).hi < 64 ∧ (Reg.PLAN_P_ID_PLAN_ID p).off < 0x1000 :=
  ⟨Nat.zero_le _, (by decide : 63 < 64), by simp only [Reg.PLAN_P_ID_PLAN_ID]; omega⟩

theorem clearSlotRegs_effect (s : State) {p : Nat} (hp : p < 16) :
    (s.clearSlotRegs p).slotState p = 0 ∧ RegsOnly s (s.clearSlotRegs p) := by
  refine ⟨?_, ((((regsOnly_setFld s _ _ _).trans (regsOnly_setFld _ _ _ _)).trans (regsOnly_setFld _ _ _ _)).trans
    (regsOnly_wr _ _ _ _)).trans (regsOnly_wr _ _ _ _)⟩
  have above := (regsBelow_wr (P := pgFSCH) (le_refl _) (((s.setSlotState p 0).setFld pgPLAN (Reg.PLAN_P_STAT_STAGES p) 0).setFld
    pgPLAN (Reg.PLAN_P_ID_PLAN_ID p) 0) (Reg.FSCH_P_FLOW_BASE p).off 0).trans
    (regsBelow_wr (page := pgTIME) (by decide) _ (Reg.TIME_P_CAD_NEXT p).off 0)
  refine (above.slotState hp).trans ?_
  have apart : (Reg.PLAN_P_STAT_STATE p).off ≠ (Reg.PLAN_P_ID_PLAN_ID p).off := by
    simp only [Reg.PLAN_P_STAT_STATE, Reg.PLAN_P_ID_PLAN_ID]; omega
  refine (State.fld_setFld_off _ _ _ apart (planId_ok hp) (slotField_ok hp).2.2).trans ?_
  refine (State.fld_setFld_bits (f := Reg.PLAN_P_STAT_STAGES p) (f' := Reg.PLAN_P_STAT_STATE p) _ _ _ (.inl (by decide : 2 < 16))
    (stagesField_ok hp) (slotField_ok hp).2.2).trans ?_
  exact s.slotState_setSlotState_self hp (by decide)

/-- A plan that is unloaded, before posts are woken and the command completes. -/
def State.unloadPlan (s : State) (p : Nat) : State :=
  ((((s.measure 2 4 (s.slot p).digest (s.image p).planId p).stopPlan p).dropWaits p).release p).clearSlotRegs p

theorem exec_planUnload {s : State} {ring : Fin 16} {c : Cmd} {rest : List Cmd} (h : s.nextCmd ring 0x14 c rest)
    (on : s.enabled pgPLAN = true) {p : Nat} (isP : slotOfOp1 c = p) (state : s.slotState p ∈ [2, 5, 7]) :
    exec (.planUnload ring) s = .next ((s.unloadPlan p).wakePosts.complete ring 0 p 0 0) := by
  refine congrArg Host.Outcome.next ((State.slotCommand_valid h on (valid := [2, 5, 7]) (by rw [isP]; exact state) _).trans ?_)
  rw [isP]
  rfl

/-- What unloading a plan leaves. -/
structure Unloaded (p : Nat) (s t : State) : Prop where
  rings : t.rings = s.rings
  state : t.slotState p = 0
  slot : t.slot p = {}
  tiles : ∀ n ∈ (s.slot p).alloc.tiles, t.tile n = {}
  queues : ∀ n ∈ (s.slot p).alloc.queues, t.queue n = none
  pool : ∀ e ∈ t.fsch.pool, e.slot ≠ p
  waits : t.noWaits

theorem unloaded_unloadPlan {s : State} {p : Nat} (hp : p < 16) (sets : (s.slot p).setWaits = []) (own : (s.own p).staged = none)
    (idle : ∀ tid, tid < 32 → ∀ ct, s.table tid = some ct → ct.slot = p → ct.job = none) (quiet : s.noWaits) :
    Unloaded p s (s.unloadPlan p) := by
  simp only [State.unloadPlan]
  obtain ⟨only1, _, _⟩ := measure_effect s (m := 2) (by decide) 4 (s.slot p).digest (s.image p).planId p
  generalize s.measure 2 4 (s.slot p).digest (s.image p).planId p = s1 at only1 ⊢
  obtain ⟨only2, tables2, slot2, _, waits2⟩ := planStops_stopPlan s1 p
  generalize s1.stopPlan p = s2 at only2 tables2 slot2 waits2 ⊢
  have slot1 : s1.slot p = s.slot p := by rw [only1]; rfl
  rw [slot1] at slot2
  have table2 : ∀ tid, s2.table tid = s.table tid := fun tid => by rw [State.table, tables2, only1]; rfl
  obtain ⟨only3, _⟩ := tablesDropped_dropWaits (s := s2) (p := p) (by rw [slot2]; exact sets) (by rw [only2, only1]; exact own)
    fun tid ht ct is => idle tid ht ct ((table2 tid).symm.trans is)
  generalize s2.dropWaits p = s3 at only3 ⊢
  have slot3 : s3.slot p = { s.slot p with runs := [] } := by rw [← slot2, only3]; rfl
  have quiet3 : s3.noWaits := by rw [only3]; exact waits2 (by rw [only1]; exact quiet)
  have released := releases_release s3 p
  have quiet4 := released.noWaits quiet3
  obtain ⟨rings, _, slot4, freed, _, gone, pool⟩ := released
  rw [slot3] at freed gone
  generalize s3.release p = s4 at rings slot4 freed gone pool quiet4 ⊢
  obtain ⟨state, only5⟩ := clearSlotRegs_effect s4 hp
  generalize s4.clearSlotRegs p = s5 at state only5 ⊢
  refine ⟨?_, state, (only5.slot p).trans slot4, fun n hn => ?_, fun n hn => ?_, ?_, ?_⟩
  · rw [only5, rings, only3, only2, only1]
  · rw [only5]; exact freed n hn
  · rw [only5]; exact gone n hn
  · rw [only5]; exact pool
  · rw [only5]; exact quiet4

theorem planUnload_effect {s : State} {ring : Fin 16} {c : Cmd} {rest : List Cmd} (h : s.nextCmd ring 0x14 c rest)
    (on : s.enabled pgPLAN = true) {p : Nat} (isP : slotOfOp1 c = p) (state : s.slotState p ∈ [2, 5, 7])
    (sets : (s.slot p).setWaits = []) (own : (s.own p).staged = none)
    (idle : ∀ tid, tid < 32 → ∀ ct, s.table tid = some ct → ct.slot = p → ct.job = none) (quiet : s.noWaits) :
    ∃ t, (exec (.planUnload ring) s = .next t ∧ RingCompleted ring c rest 0 p 0 0 t ∧ t.slotState p = 0) ∧
      t.slot p = {} ∧ (∀ n ∈ (s.slot p).alloc.tiles, t.tile n = {}) ∧ (∀ n ∈ (s.slot p).alloc.queues, t.queue n = none) ∧
      ∀ e ∈ t.fsch.pool, e.slot ≠ p := by
  have hp : p < 16 := by rw [← isP]; exact opSlot_lt c.op1
  have run := exec_planUnload h on isP state
  obtain ⟨rings, free, slot, tiles, queues, pool, waits⟩ := unloaded_unloadPlan hp sets own idle quiet
  rw [State.wakePosts_quiet waits] at run
  generalize s.unloadPlan p = u at run rings free slot tiles queues pool
  obtain ⟨cpl, completed⟩ := complete_effect (s := u) (by rw [State.ring, rings]; exact h.1) 0 p 0 0
  refine ⟨_, ⟨run, completed, (cpl.slotState hp).trans free⟩, (cpl.slot p).trans slot, fun n hn => ?_, fun n hn => ?_, ?_⟩
  · rw [cpl.1]; exact tiles n hn
  · rw [cpl.1]; exact queues n hn
  · rw [cpl.1]; exact pool

end Sys2Proof.Machine

namespace Sys2Proof.Machine
open Sys2Proof

/-! ## PLAN_SET_PARAM (R69) -/

/-- Words staged for parameters. -/
def stageWords (m : KMap (Option Word)) (ws : List (Nat × Nat)) : KMap (Option Word) :=
  ws.foldl (fun (m : KMap (Option Word)) w => kset (fun _ => none) m w.1 (some (word w.2))) m

/-- A staged word is found under its parameter. -/
theorem kget_stageWords {g : Nat → Nat} (k : Nat) : ∀ (ws : List (Nat × Nat)) (m : KMap (Option Word)), (∀ w ∈ ws, w.2 = g w.1) →
    kget (fun _ => none) (stageWords m ws) k = if k ∈ ws.map Prod.fst then some (word (g k)) else kget (fun _ => none) m k
  | [], _, _ => rfl
  | w :: ws, m, h => by
    have rest := kget_stageWords k ws (kset (fun _ => none) m w.1 (some (word w.2))) fun x hx => h x (List.mem_cons_of_mem _ hx)
    refine rest.trans ?_
    rw [kget_kset, h w List.mem_cons_self, List.map_cons]
    by_cases later : k ∈ ws.map Prod.fst
    · rw [if_pos later, if_pos (List.mem_cons_of_mem _ later)]
    · rw [if_neg later]
      by_cases now : k = w.1
      · rw [if_pos now, if_pos (List.mem_cons.2 (.inl now)), now]
      · rw [if_neg now, if_neg fun h => (List.mem_cons.1 h).elim now later]

theorem mem_maskedWords {mask : Nat} {bs : List Byte} {w : Nat × Nat} (h : w ∈ maskedWords mask bs) :
    w.1 < 32 ∧ mask.testBit w.1 = true ∧ w.2 = bytesAt bs (8 * w.1) 8 := by
  obtain ⟨k, hk, rfl⟩ := List.mem_map.1 h
  obtain ⟨lt, named⟩ := List.mem_filter.1 hk
  exact ⟨List.mem_range.1 lt, by simpa [Nat.testBit_eq_decide_div_mod_eq] using named, rfl⟩

theorem maskedWords_keys (mask : Nat) (bs : List Byte) {k : Nat} (hk : k < 32) :
    k ∈ (maskedWords mask bs).map Prod.fst ↔ mask.testBit k = true := by
  rw [maskedWords, List.map_map]
  simp [hk, Nat.testBit_eq_decide_div_mod_eq]

theorem kget_maskedWords (mask : Nat) (bs : List Byte) {k : Nat} (hk : k < 32) :
    kget (fun _ => none) (stageWords [] (maskedWords mask bs)) k =
      if mask.testBit k then some (word (bytesAt bs (8 * k) 8)) else none := by
  rw [kget_stageWords (g := fun k => bytesAt bs (8 * k) 8) k _ _ fun w hw => (mem_maskedWords hw).2.2]
  exact if_congr (maskedWords_keys mask bs hk) rfl rfl

/-- The words that a command names are values that their parameters may take. -/
structure WordsFit (s : State) (p mask : Nat) (bs : List Byte) : Prop where
  range : ∀ k, k < 32 → mask.testBit k = true → k < (s.image p).nParams ∧
    ((s.image p).param k).inRange (bytesAt bs (8 * k) 8) = true
  fixed : ∀ k, k < 32 → mask.testBit k = true → s.slotState p ≠ 2 → ((s.image p).param k).static_ = true →
    ((s.slot p).params.getD k 0).toNat = bytesAt bs (8 * k) 8

theorem WordsFit.none_out {s : State} {p mask : Nat} {bs : List Byte} (h : WordsFit s p mask bs) :
    ((maskedWords mask bs).any fun w => (s.image p).nParams ≤ w.1 || !((s.image p).param w.1).inRange w.2) = false := by
  rw [List.any_eq_false]
  intro w hw
  obtain ⟨lt, named, value⟩ := mem_maskedWords hw
  obtain ⟨some_, fits⟩ := h.range w.1 lt named
  rw [value, fits]
  simpa using some_

theorem WordsFit.none_fixed {s : State} {p mask : Nat} {bs : List Byte} (h : WordsFit s p mask bs) :
    (s.slotState p != 2 && (maskedWords mask bs).any fun w => ((s.image p).param w.1).static_ &&
      ((s.slot p).params.getD w.1 0).toNat != w.2) = false := by
  by_cases loaded : s.slotState p = 2
  · rw [loaded]; rfl
  · have none_ : ((maskedWords mask bs).any fun w => ((s.image p).param w.1).static_ &&
        ((s.slot p).params.getD w.1 0).toNat != w.2) = false := by
      rw [List.any_eq_false]
      intro w hw
      obtain ⟨lt, named, value⟩ := mem_maskedWords hw
      by_cases static : ((s.image p).param w.1).static_ = true
      · rw [value, h.fixed w.1 lt named loaded static]; simp
      · simp [static]
    rw [none_, Bool.and_false]

/-- Words staged in a slot. -/
def State.stageParams (s : State) (p mask : Nat) (bs : List Byte) : PlanSlot :=
  { s.slot p with staged := stageWords (s.slot p).staged (maskedWords mask bs) }

/-- A PLAN_SET_PARAM is served: its words are read, and its parameters may take them. -/
structure ParamsServed (s : State) (n p : Nat) (c : Cmd) (rest : List Cmd) (record : Option (List Word)) (bs : List Byte) : Prop where
  next : s.nextCmd n 0x15 c rest
  on : s.enabled pgPLAN = true
  names : bitsOf c.op2.toNat 11 8 = p
  state : s.slotState p ∈ [2, 3, 4]
  read : s.operandBytes (c.op2.toNat.testBit 33) c.op0.toNat 256
    (record.map fun ws => ws.flatMap fun w => leBytes 8 w.toNat) = some bs
  fit : WordsFit s p c.op1.toNat bs

theorem exec_planSetParam {s : State} {ring : Fin 16} {p : Nat} {c : Cmd} {rest : List Cmd} {record : Option (List Word)}
    {bs : List Byte} (h : ParamsServed s ring p c rest record bs)
    (cue : c.op2.toNat.testBit 0 = true → s.cueAllowed p (bitsOf c.op2.toNat 5 1) = true) :
    exec (.planSetParam ring record) s = .next (if c.op2.toNat.testBit 0 then
        (s.setSlot p { s.stageParams p c.op1.toNat bs with
          setWaits := (s.slot p).setWaits ++ [{ ring := ring, tag := c.tag, cue := bitsOf c.op2.toNat 5 1 }] }).setBusy ring
      else
        let u := (s.setSlot p (s.stageParams p c.op1.toNat bs)).applyParams p
        u.complete ring 0 p 0 (u.fld pgPLAN (Reg.PLAN_P_PGEN_GEN p))) := by
  obtain ⟨next, on, isP, state, read, fit⟩ := h
  have isBit : ∀ i, (bitsOf c.op2.toNat i i == 1) = c.op2.toNat.testBit i := fun i => by
    rw [Bool.eq_iff_iff, beq_iff_eq, bitsOf_self_eq_one]
  have named : (c.op2.toNat.testBit 0 && !s.cueAllowed p (bitsOf c.op2.toNat 5 1)) = false := by
    by_cases waits : c.op2.toNat.testBit 0 = true
    · rw [cue waits, Bool.not_true, Bool.and_false]
    · rw [Bool.eq_false_iff.2 waits, Bool.false_and]
  refine congrArg Host.Outcome.next ((State.slotCommand_valid next on (slotOf := fun c => bitsOf c.op2.toNat 11 8) (valid := [2, 3, 4])
    (by rw [isP]; exact state) _).trans ?_)
  simp only [isP, isBit, read]
  refine (if_neg (by rw [named]; decide)).trans ((if_neg (by rw [fit.none_out]; decide)).trans
    ((if_neg (by rw [fit.none_fixed]; decide)).trans ?_))
  rfl

end Sys2Proof.Machine

namespace Sys2Proof.Machine
open Sys2Proof

theorem pgenGen_ok {p : Nat} (hp : p < 16) : (Reg.PLAN_P_PGEN_GEN p).lo ≤ (Reg.PLAN_P_PGEN_GEN p).hi ∧
    (Reg.PLAN_P_PGEN_GEN p).hi < 64 ∧ (Reg.PLAN_P_PGEN_GEN p).off < 0x1000 :=
  ⟨Nat.zero_le _, (by decide : 31 < 64), by simp only [Reg.PLAN_P_PGEN_GEN]; omega⟩

theorem pgenBeat_ok {p : Nat} (hp : p < 16) : (Reg.PLAN_P_PGEN_APPLY_BEAT p).lo ≤ (Reg.PLAN_P_PGEN_APPLY_BEAT p).hi ∧
    (Reg.PLAN_P_PGEN_APPLY_BEAT p).hi < 64 ∧ (Reg.PLAN_P_PGEN_APPLY_BEAT p).off < 0x1000 :=
  ⟨(by decide : 32 ≤ 63), (by decide : 63 < 64), (pgenGen_ok hp).2.2⟩

/-- A slot whose staged words are its parameters. -/
def PlanSlot.applied (x : PlanSlot) : PlanSlot :=
  { x with params := x.params.zipIdx.map fun q => (kget (fun _ => none) x.staged q.2).getD q.1, staged := [] }

theorem PlanSlot.applied_length (x : PlanSlot) : x.applied.params.length = x.params.length := by
  rw [PlanSlot.applied, List.length_map, List.length_zipIdx]

theorem PlanSlot.applied_getD (x : PlanSlot) {k : Nat} (hk : k < x.params.length) :
    x.applied.params.getD k 0 = (kget (fun _ => none) x.staged k).getD (x.params.getD k 0) := by
  simp [PlanSlot.applied, List.getD_eq_getElem?_getD, hk]

theorem applyParams_effect (s : State) {p : Nat} (hp : p < 16) :
    let t := s.applyParams p
    t.slot p = (s.slot p).applied ∧
      t.fld pgPLAN (Reg.PLAN_P_PGEN_GEN p) = (s.fld pgPLAN (Reg.PLAN_P_PGEN_GEN p) + 1) % 2 ^ 32 ∧
      t.fld pgPLAN (Reg.PLAN_P_PGEN_APPLY_BEAT p) = s.beat % 2 ^ 32 ∧ ∀ n, t.ring n = s.ring n := by
  intro t
  have eq : t = ((s.setSlot p (s.slot p).applied).addWrap pgPLAN (Reg.PLAN_P_PGEN_GEN p) 1).setFld pgPLAN
    (Reg.PLAN_P_PGEN_APPLY_BEAT p) s.beat := rfl
  have slot := s.slot_setSlot_self p (s.slot p).applied
  have gen : (s.setSlot p (s.slot p).applied).fld pgPLAN (Reg.PLAN_P_PGEN_GEN p) = s.fld pgPLAN (Reg.PLAN_P_PGEN_GEN p) :=
    s.fld_setSlot _ _ _ _
  have rings : ∀ n, (s.setSlot p (s.slot p).applied).ring n = s.ring n := fun _ => rfl
  generalize s.setSlot p (s.slot p).applied = u at eq slot gen rings
  have only : RegsOnly u t := by
    rw [eq, State.addWrap]
    exact (regsOnly_setFld _ _ _ _).trans (regsOnly_setFld _ _ _ _)
  refine ⟨(only.slot p).trans slot, ?_, ?_, fun n => (only.ring n).trans (rings n)⟩
  · rw [eq, State.fld_setFld_bits (f := Reg.PLAN_P_PGEN_APPLY_BEAT p) (f' := Reg.PLAN_P_PGEN_GEN p) _ _ _
      (.inl (by decide : 31 < 32)) (pgenBeat_ok hp) (pgenGen_ok hp).2.2, State.addWrap, State.fld_setFld_same _ _ _ (pgenGen_ok hp), gen]
    rfl
  · rw [eq, State.fld_setFld_same _ _ _ (pgenBeat_ok hp)]
    rfl

theorem planSetParam_now {s : State} {ring : Fin 16} {p : Nat} {c : Cmd} {rest : List Cmd} {record : Option (List Word)}
    {bs : List Byte} (h : ParamsServed s ring p c rest record bs) (unstaged : (s.slot p).staged = [])
    (now : c.op2.toNat.testBit 0 = false) :
    ∃ t, exec (.planSetParam ring record) s = .next t ∧
      RingCompleted ring c rest 0 p 0 ((s.fld pgPLAN (Reg.PLAN_P_PGEN_GEN p) + 1) % 2 ^ 32) t ∧ (t.slot p).staged = [] ∧
      (t.slot p).params.length = (s.slot p).params.length ∧
      (∀ k, k < 32 → k < (s.slot p).params.length → (t.slot p).params.getD k 0 =
        if c.op1.toNat.testBit k then word (bytesAt bs (8 * k) 8) else (s.slot p).params.getD k 0) ∧
      t.fld pgPLAN (Reg.PLAN_P_PGEN_APPLY_BEAT p) = s.beat % 2 ^ 32 := by
  have hp : p < 16 := by rw [← h.names]; exact bitsOf_lt _ 11 8
  have run := exec_planSetParam h fun waits => absurd (waits.symm.trans now) (by decide)
  rw [now, if_neg Bool.false_ne_true] at run
  obtain ⟨slot, gen, beat, rings⟩ := applyParams_effect (s.setSlot p (s.stageParams p c.op1.toNat bs)) hp
  rw [State.slot_setSlot_self] at slot
  rw [State.fld_setSlot] at gen
  simp only at run
  generalize (s.setSlot p (s.stageParams p c.op1.toNat bs)).applyParams p = u at run slot gen beat rings
  rw [gen] at run
  obtain ⟨cpl, completed⟩ := complete_effect (s := u) (n := ring) (by rw [rings]; exact h.next.1) 0 p 0
    ((s.fld pgPLAN (Reg.PLAN_P_PGEN_GEN p) + 1) % 2 ^ 32)
  refine ⟨_, run, completed, ?_, ?_, fun k hk len => ?_, ?_⟩
  · rw [cpl.slot, slot]; rfl
  · rw [cpl.slot, slot, PlanSlot.applied_length]; rfl
  · rw [cpl.slot, slot, PlanSlot.applied_getD _ (by exact len)]
    simp only [State.stageParams, unstaged, kget_maskedWords c.op1.toNat bs hk]
    split <;> rfl
  · rw [cpl.fld (by decide) (pgenBeat_ok hp).2.2 (.inr (.inl (by decide))), beat]; rfl

theorem planSetParam_cue {s : State} {ring : Fin 16} {p : Nat} {c : Cmd} {rest : List Cmd} {record : Option (List Word)}
    {bs : List Byte} (h : ParamsServed s ring p c rest record bs) (unstaged : (s.slot p).staged = [])
    (waits : c.op2.toNat.testBit 0 = true)
    {cue : Nat} (isCue : bitsOf c.op2.toNat 5 1 = cue) (allowed : s.cueAllowed p cue = true) :
    ∃ t, exec (.planSetParam ring record) s = .next t ∧ RingBusy ring s t ∧
      (t.slot p).setWaits = (s.slot p).setWaits ++ [{ ring := ring, tag := c.tag, cue := cue }] ∧
      (∀ k, k < 32 → kget (fun _ => none) (t.slot p).staged k =
        if c.op1.toNat.testBit k then some (word (bytesAt bs (8 * k) 8)) else none) ∧
      (t.slot p).params = (s.slot p).params ∧ t = { s with rings := t.rings, slots := t.slots } := by
  subst isCue
  have run := exec_planSetParam h fun _ => allowed
  rw [if_pos waits] at run
  have slot := s.slot_setSlot_self p { s.stageParams p c.op1.toNat bs with
    setWaits := (s.slot p).setWaits ++ [{ ring := ring, tag := c.tag, cue := bitsOf c.op2.toNat 5 1 }] }
  obtain ⟨slots, eq⟩ := s.setSlot_eq p { s.stageParams p c.op1.toNat bs with
    setWaits := (s.slot p).setWaits ++ [{ ring := ring, tag := c.tag, cue := bitsOf c.op2.toNat 5 1 }] }
  generalize s.setSlot p { s.stageParams p c.op1.toNat bs with
    setWaits := (s.slot p).setWaits ++ [{ ring := ring, tag := c.tag, cue := bitsOf c.op2.toNat 5 1 }] } = u at run slot eq
  obtain ⟨rings, busy⟩ := u.setRing_eq ring { u.ring ring with busy := true }
  have kept : (u.setBusy ring).slot p = _ := (congrArg (State.slot · p) busy).trans slot
  refine ⟨_, run, State.ringBusy_setBusy (by rw [eq]; rfl), ?_, fun k hk => ?_, ?_, ?_⟩
  · rw [kept]
  · rw [kept]
    simp only [State.stageParams, unstaged]
    exact kget_maskedWords c.op1.toNat bs hk
  · rw [kept]; rfl
  · rw [State.setBusy, busy, eq]

end Sys2Proof.Machine

namespace Sys2Proof.Machine
open Sys2Proof

/-! ## A slot is seated (R58) -/

/-- Rings, slots and the registers below a page are as they were. -/
structure Aside (P : Nat) (s t : State) : Prop where
  rings : t.rings = s.rings
  slots : t.slots = s.slots
  regs : RegsBelow P s t

theorem Aside.refl (P : Nat) (s : State) : Aside P s s := ⟨rfl, rfl, .refl P s⟩

theorem Aside.trans {P : Nat} {s t u : State} (h : Aside P s t) (h' : Aside P t u) : Aside P s u :=
  ⟨h'.rings.trans h.rings, h'.slots.trans h.slots, h.regs.trans h'.regs⟩

theorem Aside.wr {P page : Nat} {s t : State} (h : Aside P s t) (above : P ≤ page) (off : Nat) (v : Word) :
    Aside P s (t.wr page off v) := h.trans ⟨rfl, rfl, regsBelow_wr above t off v⟩

theorem Aside.setFld {P page : Nat} {s t : State} (h : Aside P s t) (above : P ≤ page) (f : Fld) (v : Nat) :
    Aside P s (t.setFld page f v) := h.wr above f.off _

/-- Neither rings, slots nor registers differ. -/
theorem aside_of_eq {P : Nat} {s t : State} (rings : t.rings = s.rings) (slots : t.slots = s.slots) (regs : t.regs = s.regs) :
    Aside P s t := ⟨rings, slots, fun page off _ _ => congrArg (kget resetVal · (regKey page off)) regs⟩

theorem Aside.foldl {α : Type} {P : Nat} {g : State → α → State} (step : ∀ u a, Aside P u (g u a)) (l : List α) (s : State) :
    Aside P s (l.foldl g s) := List.foldlRecOn l _ (motive := Aside P s) (.refl P s) fun u hu a _ => hu.trans (step u a)

theorem Aside.fresh {P : Nat} {s t : State} (h : Aside P s t) : Aside P s t.fresh.2 := h.trans (aside_of_eq rfl rfl rfl)

theorem aside_setQueue {P : Nat} (s : State) (n : Nat) (q : Option Queue) : Aside P s (s.setQueue n q) := aside_of_eq rfl rfl rfl

theorem aside_openQueues {P : Nat} (low : P ≤ pgBATQ) (s : State) (p : Nat) : Aside P s (s.openQueues p) := by
  unfold State.openQueues
  refine Aside.foldl (fun u o => ?_) _ s
  simp only
  split
  · exact .refl P u
  · exact (((aside_setQueue u _ _).setFld low _ _).setFld low _ _).setFld low _ _

theorem aside_setGroup {P : Nat} (low : P ≤ pgFSCH) (s : State) (n : Nat) (g : AlignGroup) : Aside P s (s.setGroup n g) := by
  unfold State.setGroup
  have active := fun v => (aside_of_eq (s := s) (t := { s with fsch := { s.fsch with
    groups := kset (fun _ => none) s.fsch.groups n (some g) } }) rfl rfl rfl).setFld low (Reg.FSCH_G_STAT_ACTIVE n) v
  simp only
  split
  · exact (active _).setFld low _ _
  · split
    · exact (active _).fresh.setFld low _ _
    · exact (active _).setFld low _ _

theorem aside_openGroups {P : Nat} (low : P ≤ pgFSCH) (s : State) (p : Nat) : Aside P s (s.openGroups p) := by
  unfold State.openGroups
  refine Aside.foldl (fun u o => ?_) _ s
  simp only
  split
  · exact .refl P u
  · exact ((((Aside.refl P u).setFld low _ _).setFld low _ _).setFld low _ _).trans (aside_setGroup low _ _ _)

theorem aside_openTables {P : Nat} (s : State) (p : Nat) : Aside P s (s.openTables p) := by
  unfold State.openTables
  exact List.foldlRecOn _ _ (motive := fun (q : State × Nat) => Aside P s q.1) (.refl P s) fun q hq o _ =>
    hq.trans (aside_of_eq rfl rfl rfl)

theorem aside_setOwn {P : Nat} (s : State) (p : Nat) (own : OwnPlan) : Aside P s (s.setOwn p own) := aside_of_eq rfl rfl rfl

theorem aside_openings {P : Nat} (low : P ≤ pgFSCH) (s : State) (p : Nat) (own : OwnPlan) :
    Aside P s ((((s.openQueues p).openGroups p).openTables p).setOwn p own) :=
  (((aside_openQueues (Nat.le_trans low (by decide)) s p).trans (aside_openGroups low _ p)).trans (aside_openTables _ p)).trans
    (aside_setOwn _ p own)

/-- The words that the parameters of an image start with. -/
def defaultParams (i : Image) : List Word := (List.range i.nParams).map fun k => word (i.param k).dflt

/-- Beside the parameters of the slot, seating it writes registers of the plan blocks and opens what the plan uses. -/
theorem aside_seat (s : State) (p : Nat) :
    Aside pgPLAN (s.setSlot p { s.slot p with params := defaultParams (s.image p) }) (s.seat p) := by
  unfold State.seat
  refine .trans ?_ (aside_openings (by decide) _ p _)
  exact .wr (.wr (.wr (.wr (.setFld (.setFld (.setFld (.wr (.setFld (.setFld (.setFld (.refl _ _) (by decide) _ _) (by decide) _ _)
    (by decide) _ _) (by decide) _ _) (by decide) _ _) (by decide) _ _) (by decide) _ _) (by decide) _ _) (by decide) _ _)
    (by decide) _ _) (by decide) _ _

/-- What seating a slot changes of it: its parameters. -/
theorem seat_effect (s : State) (p : Nat) : ∃ ps, (s.seat p).slot p = { s.slot p with params := ps } ∧
    (s.seat p).rings = s.rings ∧ RegsBelow pgPLAN s (s.seat p) := by
  obtain ⟨rings, slots, regs⟩ := aside_seat s p
  generalize s.seat p = t at rings slots regs
  have slot := s.slot_setSlot_self p { s.slot p with params := defaultParams (s.image p) }
  obtain ⟨_, eq⟩ := s.setSlot_eq p { s.slot p with params := defaultParams (s.image p) }
  generalize s.setSlot p { s.slot p with params := defaultParams (s.image p) } = u at rings slots regs slot eq
  refine ⟨defaultParams (s.image p), ?_, by rw [rings, eq], fun page off hp ho => ?_⟩
  · rw [← slot, State.slot, slots]; rfl
  · rw [regs page off hp ho, eq]; rfl

end Sys2Proof.Machine

namespace Sys2Proof.Machine
open Sys2Proof

/-! ## The image of an admitted plan is copied (R58, R63) -/

/-- The image in its place, and its measurement. -/
def State.copied (s : State) (p : Nat) (bs : List Byte) : State :=
  ((s.writeDev (((s.slot p).alloc.image.map Region.base).getD 0) bs false).setSlot p
    { s.slot p with image := overlay (s.image p) bs, digest := (s.image p).digest }).measure 2 3 (s.image p).digest
    (s.image p).planId p

/-- A slot whose plan is resident, and the admission over. -/
def State.seated (s : State) (p : Nat) : State :=
  { ((s.seat p).setSlotState p 2).setReason p 0 with admission := none }.noteAdmit p { code := 0 }

theorem copied_effect (s : State) (p : Nat) (bs : List Byte) :
    let t := s.copied p bs
    t.rings = s.rings ∧
      t.slot p = { s.slot p with image := overlay (s.image p) bs, digest := (s.image p).digest } ∧
      t.fld pgSEC Reg.SEC_LOG_CTL_TOTAL = (s.fld pgSEC Reg.SEC_LOG_CTL_TOTAL + 1) % 2 ^ 48 := by
  simp only [State.copied]
  generalize ((s.slot p).alloc.image.map Region.base).getD 0 = base
  obtain ⟨mem, written⟩ : ∃ mem, s.writeDev base bs false = { s with mem := mem } := ⟨_, rfl⟩
  generalize s.writeDev base bs false = u at written
  have slot := u.slot_setSlot_self p { s.slot p with image := overlay (s.image p) bs, digest := (s.image p).digest }
  obtain ⟨slots, set⟩ := u.setSlot_eq p { s.slot p with image := overlay (s.image p) bs, digest := (s.image p).digest }
  generalize u.setSlot p { s.slot p with image := overlay (s.image p) bs, digest := (s.image p).digest } = v at slot set
  obtain ⟨only, _, total⟩ := measure_effect v (m := 2) (by decide) 3 (s.image p).digest (s.image p).planId p
  generalize v.measure 2 3 (s.image p).digest (s.image p).planId p = w at only total
  refine ⟨by rw [only, set, written], by rw [← slot, only]; rfl, ?_⟩
  rw [total, set, written]; rfl

theorem seated_effect (s : State) {p : Nat} (hp : p < 16) :
    let t := s.seated p
    t.slotState p = 2 ∧ t.admission = none ∧ t.rings = s.rings ∧ (∃ ps, t.slot p = { s.slot p with params := ps }) ∧
      t.fld pgSEC Reg.SEC_LOG_CTL_TOTAL = s.fld pgSEC Reg.SEC_LOG_CTL_TOTAL := by
  simp only [State.seated]
  obtain ⟨ps, slot, rings, regs⟩ := seat_effect s p
  generalize s.seat p = u at slot rings regs
  have state : ((u.setSlotState p 2).setReason p 0).slotState p = 2 :=
    (State.slotState_setReason _ 0 hp hp).trans (u.slotState_setSlotState_self hp (by decide))
  have only : RegsOnly u ((u.setSlotState p 2).setReason p 0) := (regsOnly_setFld u _ _ _).trans (regsOnly_setFld _ _ _ _)
  have regs' : RegsBelow pgPLAN u ((u.setSlotState p 2).setReason p 0) :=
    (regsBelow_setFld (le_refl _) u (Reg.PLAN_P_STAT_STATE p) 2).trans (regsBelow_setFld (le_refl _) _ _ _)
  generalize (u.setSlotState p 2).setReason p 0 = v at state only regs'
  have same : ∀ page f, ({ v with admission := none } : State).fld page f = v.fld page f := State.fld_of_rd fun _ _ => rfl
  have slot' : ({ v with admission := none } : State).slot p = u.slot p := only.slot p
  have rings' : ({ v with admission := none } : State).rings = u.rings := by rw [only]
  have none_ : ({ v with admission := none } : State).admission = none := rfl
  generalize ({ v with admission := none } : State) = x at same slot' rings' none_
  obtain ⟨_, only', frame⟩ := noteAdmit_effect x p { code := 0 }
  have state' := slotState_of_admitBits frame hp
  have total := frame.fld (page := pgSEC) (f := Reg.SEC_LOG_CTL_TOTAL) (by decide) (by decide) fun i _ _ h => absurd h.1 (by decide)
  generalize x.noteAdmit p { code := 0 } = w at only' state' total
  refine ⟨state'.trans ((same _ _).trans state), by rw [only', none_], by rw [only', rings', rings],
    ⟨ps, (only'.slot p).trans (slot'.trans slot)⟩, ?_⟩
  rw [total, same, regs'.fld (by decide) (by decide), regs.fld (by decide) (by decide)]

theorem exec_admissionCopyDone {s : State} {a : Admission} (copying : s.admission = some a) {copy : Option (List Byte)}
    {bs : List Byte} (read : s.operandBytes (s.slot a.slot).load.dev (s.slot a.slot).load.addr.toNat (s.slot a.slot).load.len copy =
      some bs) : exec (.admissionCopyDone copy) s = .next (if imageDigest bs != (s.image a.slot).digest then s.endAdmission 6
        else ((s.copied a.slot bs).seated a.slot).complete a.ring 0 a.slot 0 0) := by
  change Host.Outcome.next _ = _
  rw [copying]
  simp only [read]
  rfl

theorem admissionCopyDone_good {s : State} {a : Admission} {c : Cmd} {rest : List Cmd} (copying : s.admission = some a)
    (hp : a.slot < 16) (waiting : (s.ring a.ring).waiting = c :: rest) {copy : Option (List Byte)} {bs : List Byte}
    (read : s.operandBytes (s.slot a.slot).load.dev (s.slot a.slot).load.addr.toNat (s.slot a.slot).load.len copy = some bs)
    (good : imageDigest bs = (s.image a.slot).digest) :
    ∃ t, exec (.admissionCopyDone copy) s = .next t ∧ t.slotState a.slot = 2 ∧ t.admission = none ∧
      RingCompleted a.ring c rest 0 a.slot 0 0 t ∧ (t.slot a.slot).image = overlay (s.image a.slot) bs ∧
      (t.slot a.slot).digest = (s.image a.slot).digest ∧ (t.slot a.slot).alloc = (s.slot a.slot).alloc ∧
      t.fld pgSEC Reg.SEC_LOG_CTL_TOTAL = (s.fld pgSEC Reg.SEC_LOG_CTL_TOTAL + 1) % 2 ^ 48 := by
  have run := exec_admissionCopyDone copying read
  rw [if_neg (by rw [good]; simp)] at run
  obtain ⟨rings, slot, total⟩ := copied_effect s a.slot bs
  generalize s.copied a.slot bs = u at run rings slot total
  obtain ⟨state, ended, rings', ⟨ps, slot'⟩, total'⟩ := seated_effect u hp
  generalize u.seated a.slot = v at run state ended rings' slot' total'
  obtain ⟨cpl, completed⟩ := complete_effect (s := v) (n := a.ring) (by rw [State.ring, rings', rings]; exact waiting) 0 a.slot 0 0
  have slotT := (cpl.slot a.slot).trans slot'
  rw [slot] at slotT
  refine ⟨_, run, (cpl.slotState hp).trans state, by rw [cpl.1, ended], completed, by rw [slotT], by rw [slotT], by rw [slotT], ?_⟩
  rw [cpl.fld (by decide) (by decide) (.inl (by decide)), total', total]

/-- An admission that ends with a code: the slot is free again. -/
def State.refuseCopy (s : State) (p code : Nat) : State :=
  (((({ s with admission := none }.setSlot p {}).setSlotState p 0).setReason p code).setFld pgPLAN Reg.PLAN_ADMIT_REASON
    code).setFld pgPLAN Reg.PLAN_ADMIT_SLOT p

theorem refuseCopy_effect (s : State) {p : Nat} (hp : p < 16) (code : Nat) :
    let t := s.refuseCopy p code
    t.slotState p = 0 ∧ t.admission = none ∧ t.slot p = {} ∧ t.rings = s.rings := by
  simp only [State.refuseCopy]
  have slot := ({ s with admission := none } : State).slot_setSlot_self p {}
  obtain ⟨slots, set⟩ := ({ s with admission := none } : State).setSlot_eq p {}
  generalize ({ s with admission := none } : State).setSlot p {} = u at slot set
  have state : ((u.setSlotState p 0).setReason p code).slotState p = 0 :=
    (State.slotState_setReason _ code hp hp).trans (u.slotState_setSlotState_self hp (by decide))
  have only : RegsOnly u ((u.setSlotState p 0).setReason p code) := (regsOnly_setFld u _ _ _).trans (regsOnly_setFld _ _ _ _)
  generalize (u.setSlotState p 0).setReason p code = v at state only
  obtain ⟨only', frame⟩ : OnlyBits admitBits v ((v.setFld pgPLAN Reg.PLAN_ADMIT_REASON code).setFld pgPLAN Reg.PLAN_ADMIT_SLOT p) :=
    ((OnlyBits.start _ v).setFld code (by decide) fun _ _ _ => ⟨rfl, rfl⟩).setFld p (by decide) fun _ _ _ => ⟨rfl, rfl⟩
  have state' := slotState_of_admitBits frame hp
  generalize (v.setFld pgPLAN Reg.PLAN_ADMIT_REASON code).setFld pgPLAN Reg.PLAN_ADMIT_SLOT p = w at only' state'
  refine ⟨state'.trans state, by rw [only', only, set], ?_, by rw [only', only, set]⟩
  rw [← slot, only', only]; rfl

theorem State.endAdmission_eq {s : State} {a : Admission} (copying : s.admission = some a) (code : Nat) :
    s.endAdmission code = (s.refuseCopy a.slot code).complete a.ring code a.slot 0 0 := by
  rw [State.endAdmission, copying]
  rfl

theorem admissionCopyDone_bad {s : State} {a : Admission} {c : Cmd} {rest : List Cmd} (copying : s.admission = some a)
    (hp : a.slot < 16) (waiting : (s.ring a.ring).waiting = c :: rest) {copy : Option (List Byte)} {bs : List Byte}
    (read : s.operandBytes (s.slot a.slot).load.dev (s.slot a.slot).load.addr.toNat (s.slot a.slot).load.len copy = some bs)
    (bad : imageDigest bs ≠ (s.image a.slot).digest) :
    ∃ t, exec (.admissionCopyDone copy) s = .next t ∧ t.slotState a.slot = 0 ∧ t.admission = none ∧ t.slot a.slot = {} ∧
      RingCompleted a.ring c rest 6 a.slot 0 0 t := by
  have run := exec_admissionCopyDone copying read
  rw [if_pos (by simpa using bad), State.endAdmission_eq copying] at run
  obtain ⟨state, ended, slot, rings⟩ := refuseCopy_effect s hp 6
  generalize s.refuseCopy a.slot 6 = u at run state ended slot rings
  obtain ⟨cpl, completed⟩ := complete_effect (s := u) (n := a.ring) (by rw [State.ring, rings]; exact waiting) 6 a.slot 0 0
  exact ⟨_, run, (cpl.slotState hp).trans state, by rw [cpl.1, ended], (cpl.slot _).trans slot, completed⟩

end Sys2Proof.Machine

namespace Sys2Proof.Machine
open Sys2Proof

theorem planLoad_ok {s : State} {ring : Fin 16} {p : Nat} {c : Cmd} {rest : List Cmd} (h : LoadServed s ring p c rest)
    {image : Option (List Byte)} {a : Alloc} (fits : s.admitPlan p (s.fetched c image) c.op2.toNat = .ok a) :
    ∃ t load, exec (.planLoad ring image) s = .next t ∧ t.slotState p = 1 ∧ RingBusy ring s t ∧
      t.slot p = { image := (s.fetched c image).img, load := load, alloc := a } ∧ load.addr = c.op0 ∧ load.len = c.op2.toNat ∧
      load.dev = opDev c.op1 ∧ t.admission = some { slot := p, ring := ring, tag := c.tag } ∧
      t = { s with regs := t.regs, rings := t.rings, slots := t.slots, admission := t.admission } ∧
      RegFrame ((Reg.PLAN_P_STAT_STATE p).bits pgPLAN) s t := by
  have run := exec_planLoad h image
  rw [fits] at run
  obtain ⟨load, effect⟩ := admitted_effect s (n := ring) h.lt c (s.fetched c image) a
  exact ⟨_, load, run, effect⟩

theorem planLoad_error {s : State} {ring : Fin 16} {p : Nat} {c : Cmd} {rest : List Cmd} (h : LoadServed s ring p c rest)
    {image : Option (List Byte)} {r : Refuse} (refused : s.admitPlan p (s.fetched c image) c.op2.toNat = .error r) :
    ∃ t info, exec (.planLoad ring image) s = .next t ∧ RingCompleted ring c rest r.code p 0 info t ∧ t.slotState p = 0 ∧
      t.slots = s.slots ∧ t.admission = none ∧ t.fld pgPLAN Reg.PLAN_ADMIT_REASON = r.code % 2 ^ 8 := by
  have run := exec_planLoad h image
  rw [refused] at run
  obtain ⟨completed, state, slots, admission, reason⟩ := refusePlan_effect h.lt h.next.1 r
  exact ⟨_, _, run, completed, state.trans h.free, slots, admission.trans h.idle, reason⟩

/-- A command of a slot in a state in which it is not valid completes with 32, whichever of the four it is. -/
theorem planCommand_invalid {s : State} {ring : Fin 16} {c : Cmd} {rest : List Cmd} (on : s.enabled pgPLAN = true) {i : Instr}
    {code : Nat} {valid : List Nat}
    (is : (i, code, valid) ∈ ([(.planStart ring, 0x11, [2]), (.planStop ring, 0x12, [3]), (.planAbort ring, 0x13, [3, 4, 7]),
      (.planUnload ring, 0x14, [2, 5, 7])] : List (Instr × Nat × List Nat)))
    (h : s.nextCmd ring code c rest) (no : s.slotState (opSlot c.op1) ∉ valid) :
    ∃ t, exec i s = .next t ∧ RingCompleted ring c rest 32 (opSlot c.op1) 0 0 t ∧ CplFrame s t := by
  simp only [List.mem_cons, List.not_mem_nil, or_false, Prod.mk.injEq] at is
  obtain ⟨rfl, rfl, rfl⟩ | ⟨rfl, rfl, rfl⟩ | ⟨rfl, rfl, rfl⟩ | ⟨rfl, rfl, rfl⟩ := is
  · exact ⟨_, rfl, slotCommand_invalid (slotOf := slotOfOp1) h on no _⟩
  · exact ⟨_, rfl, slotCommand_invalid (slotOf := slotOfOp1) h on no _⟩
  · exact ⟨_, rfl, slotCommand_invalid (slotOf := slotOfOp1) h on no _⟩
  · exact ⟨_, rfl, slotCommand_invalid (slotOf := slotOfOp1) h on no _⟩

/-- Settles O56: each clause by the effect of its command. -/
theorem planCommands : Obligations.PlanCommands := by
  unfold Obligations.PlanCommands
  refine fun s ring c rest => ⟨fun next idle on long p image hp free names =>
      ⟨fun a fits => planLoad_ok ⟨next, idle, on, long, hp, free, names⟩ fits,
        fun r refused => planLoad_error ⟨next, idle, on, long, hp, free, names⟩ refused⟩,
    fun a copy bs copying hp waiting read => ⟨fun good => admissionCopyDone_good copying hp waiting read good,
      fun bad => admissionCopyDone_bad copying hp waiting read bad⟩,
    fun on => ⟨fun i code valid is h no => planCommand_invalid on is h no,
      fun h ready loaded aligns cadence => planStart_effect h on rfl ready loaded aligns cadence,
      fun h running noEvents noStops => ⟨fun runs => planStop_waits ⟨h, on, rfl, running, noEvents, noStops⟩ runs,
        fun runs done => planStop_done ⟨h, on, rfl, running, noEvents, noStops⟩ runs done⟩,
      fun h runs noStops => planAbort_effect h on rfl runs noStops,
      fun h state sets own idle quiet => planUnload_effect h on rfl state sets own idle quiet⟩, ?_⟩
  intro h on p cue named record bs state unstaged read words
  have served : ParamsServed s ring p c rest record bs := ⟨h, on, rfl, state, read,
    fun k hk is => ⟨(words k hk is).1, (words k hk is).2.1⟩, fun k hk is => (words k hk is).2.2⟩
  exact ⟨fun now => planSetParam_now served unstaged now, fun waits allowed => planSetParam_cue served unstaged waits rfl allowed⟩

end Sys2Proof.Machine

namespace Sys2Proof.Machine
open Sys2Proof

/-! ## The registers of a thread that starts (Table TILE-1) -/

theorem kfind_map {α : Type} (f : Nat → α) (q : Nat) : ∀ l : List Nat,
    kfind (l.map fun k => (k, f k)) q = if q ∈ l then some (f q) else none
  | [] => rfl
  | k :: l => by
    rw [List.map_cons, kfind, kfind_map f q l]
    by_cases same : q = k
    · rw [if_pos same, if_pos (List.mem_cons.2 (.inl same)), same]
    · rw [if_neg same]
      exact if_congr (by rw [List.mem_cons, or_iff_right same]) rfl rfl

/-- The threads of a tile that starts a stage. -/
def startThreads (img : Image) (stage p k lt : Nat) : KMap Thread :=
  (List.range (img.stage stage).threads).map fun th => (th, startThread img stage p k lt th)

theorem kget_startThreads (img : Image) (stage p k lt th : Nat) : kget (fun _ => {}) (startThreads img stage p k lt) th =
    if th < (img.stage stage).threads then startThread img stage p k lt th else {} := by
  rw [kget, startThreads, kfind_map (fun th => startThread img stage p k lt th)]
  by_cases h : th < (img.stage stage).threads
  · rw [if_pos (List.mem_range.2 h), if_pos h]; rfl
  · rw [if_neg (fun m => h (List.mem_range.1 m)), if_neg h]; rfl

/-- What a thread starts with. -/
structure Started (img : Image) (stage p k lt th : Nat) (y : Thread) : Prop where
  pc : y.pc = (img.stage stage).entry / 4
  run : y.run = .run
  wait : y.wait = none
  item : y.item = none
  flags : y.flags = 0
  vreg : ∀ n, y.vreg n = 0
  mreg : ∀ n, n < 8 → y.mreg n = BitVec.allOnes 512
  sreg1 : y.sreg 1 = word th
  sreg2 : y.sreg 2 = word lt
  sreg3 : y.sreg 3 = word k
  sreg4 : y.sreg 4 = word (img.stage stage).threads
  sreg5 : y.sreg 5 = word (img.stageTiles stage).length
  sreg6 : y.sreg 6 = word p
  rest : ∀ n, 7 ≤ n → y.sreg n = 0

theorem started_startThread (img : Image) (stage p k lt th : Nat) :
    Started img stage p k lt th (startThread img stage p k lt th) where
  pc := rfl
  run := rfl
  wait := rfl
  item := rfl
  flags := rfl
  vreg _ := rfl
  mreg n hn := by
    match n, hn with
    | 0, _ | 1, _ | 2, _ | 3, _ | 4, _ | 5, _ | 6, _ | 7, _ => rfl
  sreg1 := by simp [Thread.sreg, startThread, kget_kset]
  sreg2 := by simp [Thread.sreg, startThread, kget_kset]
  sreg3 := by simp [Thread.sreg, startThread, kget_kset]
  sreg4 := by simp [Thread.sreg, startThread, kget_kset]
  sreg5 := by simp [Thread.sreg, startThread, kget_kset]
  sreg6 := by simp [Thread.sreg, startThread]
  rest n hn := by
    have apart : ∀ j, j < 7 → n ≠ j := fun j hj => by omega
    simp only [Thread.sreg, startThread, List.foldl_cons, List.foldl_nil]
    rw [if_neg (apart 0 (by decide)), kget_kset, if_neg (apart 6 (by decide)), kget_kset, if_neg (apart 5 (by decide)), kget_kset,
      if_neg (apart 4 (by decide)), kget_kset, if_neg (apart 3 (by decide)), kget_kset, if_neg (apart 2 (by decide)), kget_kset,
      if_neg (apart 1 (by decide))]
    rfl

/-! ## A tile starts a stage (R145) -/

/-- Descriptors of STREAM operators take free slots of the engine (log 70). -/
def State.feedDescs (s : State) (tile p chunk : Nat) : State :=
  (List.range 8).foldl (fun (s : State) _ =>
    match (s.tile tile).freeSlot, (s.tile tile).opDescs with
    | some k, d :: ds => (s.setTile tile { s.tile tile with opDescs := ds }).loadDesc tile k p chunk 0 d
    | _, _ => s) s

/-- Threads that wait for a slot or a TAKE go on. -/
def State.feedThreads (s : State) (tile p : Nat) : State :=
  (List.range 8).foldl (fun (s : State) th =>
    match (s.thread tile th).wait with
    | some (.issue off d) => if (s.tile tile).freeSlot.isSome then s.doIssue tile th p off d else s
    | some (.take k d) => s.doTake tile th k d
    | _ => s) s

theorem State.strmSettle_eq (s : State) (n : Nat) : s.strmSettle n =
    match s.runOf n with
    | none => s
    | some (p, _, chunk) => (s.feedDescs n p chunk).feedThreads n p := rfl

theorem State.feedDescs_none {s : State} {n : Nat} (descs : (s.tile n).opDescs = []) (p chunk : Nat) :
    s.feedDescs n p chunk = s := by
  unfold State.feedDescs
  refine foldl_eq_self fun _ _ => ?_
  rw [descs]
  cases (s.tile n).freeSlot <;> rfl

theorem State.feedThreads_none {s : State} {n : Nat} (waits : ∀ th, (s.thread n th).wait = none) (p : Nat) :
    s.feedThreads n p = s := by
  unfold State.feedThreads
  refine foldl_eq_self fun th _ => ?_
  rw [waits th]

/-- With no descriptor to issue and no thread waiting, the transfers of a tile stay as they are. -/
theorem State.strmSettle_idle {s : State} {n : Nat} (descs : (s.tile n).opDescs = []) (waits : ∀ th, (s.thread n th).wait = none) :
    s.strmSettle n = s := by
  rw [State.strmSettle_eq]
  split
  · rfl
  · rw [State.feedDescs_none descs, State.feedThreads_none waits]

/-- A tile takes up its part of a stage. -/
def State.occupy (s : State) (p stage k lt : Nat) : State :=
  s.setTile (s.physTile p lt) { s.tile (s.physTile p lt) with
    running := some (p, stage, k), threads := startThreads (s.image p) stage p k lt, opDescs := (s.image p).streamDescs stage }

/-- The clock of a quad runs. -/
def State.ungate (s : State) (quad : Nat) : State :=
  if bitsOf (s.fld pgCLK Reg.CLK_GATE_GATED) quad quad = 1 then
    s.setFld pgCLK Reg.CLK_GATE_GATED (s.fld pgCLK Reg.CLK_GATE_GATED - 2 ^ quad) else s

theorem State.startTile_eq (s : State) (p stage k lt : Nat) :
    s.startTile p stage k lt = ((s.occupy p stage k lt).ungate (s.physTile p lt / 4)).strmSettle (s.physTile p lt) := rfl

theorem onlyBits_ungate (s : State) (quad : Nat) : OnlyBits (Reg.CLK_GATE_GATED.bits pgCLK) s (s.ungate quad) := by
  unfold State.ungate
  split
  · exact onlyBits_setFld s pgCLK Reg.CLK_GATE_GATED _ gated_ok
  · exact .start _ s

/-- What starting a tile changes. -/
structure TileStarts (p stage k lt : Nat) (s t : State) : Prop where
  only : t = { s with regs := t.regs, tiles := t.tiles }
  frame : RegFrame (Reg.CLK_GATE_GATED.bits pgCLK) s t
  others : ∀ n, n ≠ s.physTile p lt → t.tile n = s.tile n
  running : t.runOf (s.physTile p lt) = some (p, stage, k)
  threads : (t.tile (s.physTile p lt)).threads = startThreads (s.image p) stage p k lt

theorem tileStarts_startTile {s : State} {p stage : Nat} (noDescs : (s.image p).streamDescs stage = []) (k lt : Nat) :
    TileStarts p stage k lt s (s.startTile p stage k lt) := by
  rw [State.startTile_eq, State.occupy, noDescs]
  generalize isN : s.physTile p lt = n
  have tile := s.tile_setTile_self n { s.tile n with
    running := some (p, stage, k), threads := startThreads (s.image p) stage p k lt, opDescs := [] }
  have others := fun m (ne : m ≠ n) => s.tile_setTile_ne { s.tile n with
    running := some (p, stage, k), threads := startThreads (s.image p) stage p k lt, opDescs := [] } ne
  obtain ⟨tiles, set⟩ : ∃ tiles, s.setTile n { s.tile n with
    running := some (p, stage, k), threads := startThreads (s.image p) stage p k lt, opDescs := [] } =
      { s with tiles := tiles } := ⟨_, rfl⟩
  generalize s.setTile n { s.tile n with
    running := some (p, stage, k), threads := startThreads (s.image p) stage p k lt, opDescs := [] } = u at tile others set
  obtain ⟨only, frame⟩ := onlyBits_ungate u (n / 4)
  generalize u.ungate (n / 4) = v at only frame
  have tileV : ∀ m, v.tile m = u.tile m := fun m => by rw [only]; rfl
  rw [State.strmSettle_idle (by rw [tileV, tile]) fun th => ?_]
  · refine ⟨by rw [only, set], by rw [set] at frame; exact frame, fun m ne => (tileV m).trans (others m (isN ▸ ne)), ?_, ?_⟩
    · rw [isN, State.runOf, tileV, tile]
    · rw [isN, tileV, tile]
  · rw [State.thread, tileV, tile, Tile.thread, kget_startThreads]
    split <;> rfl

end Sys2Proof.Machine

namespace Sys2Proof.Machine
open Sys2Proof

/-! ## The tiles of a stage start -/

/-- What starting the tiles of a stage does. -/
structure TilesStart (p stage k : Nat) (lts : List Nat) (s t : State) : Prop where
  only : t = { s with regs := t.regs, tiles := t.tiles }
  frame : RegFrame (Reg.CLK_GATE_GATED.bits pgCLK) s t
  others : ∀ n, n ∉ lts.map (s.physTile p) → t.tile n = s.tile n
  on : ∀ lt ∈ lts, (∀ l ∈ lts, s.physTile p l = s.physTile p lt → l = lt) → t.runOf (s.physTile p lt) = some (p, stage, k) ∧
    (t.tile (s.physTile p lt)).threads = startThreads (s.image p) stage p k lt

theorem tilesStart_foldl {p stage : Nat} (k : Nat) : ∀ (lts : List Nat) {s : State}, (s.image p).streamDescs stage = [] →
    TilesStart p stage k lts s (lts.foldl (fun (s : State) lt => s.startTile p stage k lt) s)
  | [], _, _ => ⟨rfl, fun _ _ _ _ _ _ => rfl, fun _ _ => rfl, fun _ h => nomatch h⟩
  | lt :: lts, s, noDescs => by
    obtain ⟨only, frame, others, running, threads⟩ := tileStarts_startTile noDescs k lt
    rw [List.foldl_cons]
    generalize s.startTile p stage k lt = u at only frame others running threads
    have phys : u.physTile p = s.physTile p := by rw [only]; rfl
    have image : u.image p = s.image p := by rw [only]; rfl
    obtain ⟨only', frame', others', on'⟩ := tilesStart_foldl k lts (s := u) (by rw [image]; exact noDescs)
    rw [phys] at others'
    simp only [phys, image] at on'
    generalize lts.foldl (fun (s : State) lt => s.startTile p stage k lt) u = t at only' frame' others' on'
    refine ⟨by rw [only', only], ((frame.trans frame').mono fun _ _ _ h => h.elim id id), fun n hn => ?_, fun l hl alone => ?_⟩
    · rw [List.map_cons, List.mem_cons, not_or] at hn
      rw [others' n hn.2, others n hn.1]
    · by_cases later : l ∈ lts
      · exact on' l later fun l' hl' => alone l' (List.mem_cons_of_mem _ hl')
      · have isLt : l = lt := (List.mem_cons.1 hl).resolve_right later
        have last : s.physTile p l ∉ lts.map (s.physTile p) := fun h => by
          obtain ⟨l', hl', same⟩ := List.mem_map.1 h
          exact later (alone l' (List.mem_cons_of_mem _ hl') same ▸ hl')
        rw [State.runOf, others' _ last, isLt]
        exact ⟨running, threads⟩

/-! ## A stage without operators (R66) -/

theorem State.active_of_canStart {s : State} {p stage k : Nat} (h : s.canStart p stage = some k) : s.active p = true := by
  by_contra idle
  simp [State.canStart, idle] at h

section
variable {s : State} {p : Nat} (noOps : (s.image p).nOps = 0)
include noOps

theorem State.drawSamples_none (stage k : Nat) (env : StageEnv) : s.drawSamples p stage k env = s := by
  have found : (s.image p).findOp 7 1 = none := by rw [Image.findOp, noOps]; rfl
  simp only [State.drawSamples, found]

theorem State.clearTables_none (stage : Nat) : s.clearTables p stage = s := by
  have noTab : ∀ h, s.jtab p h = none := fun h => by
    rw [State.jtab, Image.declarer, Image.ops, noOps]; rfl
  unfold State.clearTables
  refine foldl_eq_self fun h _ => ?_
  rw [noTab]

theorem State.emitGroups_none (stage : Nat) : s.emitGroups p stage = s := by
  simp only [State.emitGroups, noOps]
  rfl

theorem State.bindDecs_none (stage chunk : Nat) (again : Bool) : s.bindDecs p stage chunk again = s := by
  simp only [State.bindDecs, Image.decOps, noOps]
  rfl

theorem State.runOps_none (stage : Nat) (env : StageEnv) : s.runOps p stage env = s := by
  simp only [State.runOps, noOps]
  rfl

theorem streamDescs_none (stage : Nat) : (s.image p).streamDescs stage = [] := by
  rw [Image.streamDescs, Image.ops, noOps]; rfl

end

end Sys2Proof.Machine

namespace Sys2Proof.Machine
open Sys2Proof

/-- Outside real time, beginning a chunk changes the slot's account of its chunks. -/
theorem beginChunk_effect {s : State} {p : Nat} (slow : (s.image p).realtime = false) (k : Nat) :
    ∃ chunks next cued, s.beginChunk p k = s.setSlot p { s.slot p with chunks := chunks, next := next, cued := cued } := by
  refine ⟨_, _, _, if_neg ?_⟩
  rw [State.image, State.slot_setSlot_self]
  rw [State.image] at slow
  simp [slow]

/-- The chunk of an entry stage begins with the stage. -/
def State.entered (s : State) (p stage k : Nat) : State :=
  if ((s.image p).stage stage).preds = 0 then s.beginChunk p k else s

/-- What the start of a stage keeps of its slot until the stage runs. -/
structure Entered (p : Nat) (s t : State) : Prop where
  only : t = { s with slots := t.slots }
  runs : (t.slot p).runs = (s.slot p).runs
  image : (t.slot p).image = (s.slot p).image
  alloc : (t.slot p).alloc = (s.slot p).alloc

theorem Entered.active {p : Nat} {s t : State} (h : Entered p s t) (q : Nat) : t.active q = s.active q := by rw [h.only]; rfl

theorem entered_entered {s : State} {p : Nat} (slow : (s.image p).realtime = false) (stage k : Nat) :
    Entered p s (s.entered p stage k) := by
  unfold State.entered
  split
  · obtain ⟨chunks, next, cued, eq⟩ := beginChunk_effect slow k
    obtain ⟨slots, set⟩ := s.setSlot_eq p { s.slot p with chunks := chunks, next := next, cued := cued }
    have slot := s.slot_setSlot_self p { s.slot p with chunks := chunks, next := next, cued := cued }
    rw [← eq] at set slot
    generalize s.beginChunk p k = u at set slot
    exact ⟨by rw [set], by rw [slot], by rw [slot], by rw [slot]⟩
  · exact ⟨rfl, rfl, rfl, rfl⟩

/-- The stage runs on the chunk; what its operators left of an earlier chunk goes. -/
def State.addRun (s : State) (img : Image) (p stage k : Nat) : State :=
  let x := s.slot p
  let s := s.setSlot p { x with runs := x.runs ++ [{ stage := stage, chunk := k, st := .running, began := s.beat }] }
  { s with
    augRows := s.augRows.filter fun (a : Nat × Nat × Nat × List Byte × Bool) => !(a.1 == p && (img.op a.2.1).stage == stage)
    cmps := s.cmps.filter fun (c : CmpStream) => !(c.slot == p && (img.op c.op).stage == stage) }

theorem State.slot_addRun (s : State) (img : Image) (p stage k : Nat) : (s.addRun img p stage k).slot p = { s.slot p with
    runs := (s.slot p).runs ++ [{ stage := stage, chunk := k, st := .running, began := s.beat }] } := by
  simp only [State.addRun]
  exact s.slot_setSlot_self p _

theorem State.addRun_eq (s : State) (img : Image) (p stage k : Nat) : ∃ slots augRows cmps,
    s.addRun img p stage k = { s with slots := slots, augRows := augRows, cmps := cmps } := ⟨_, _, _, rfl⟩

theorem exec_stageStart {s : State} {slot : Fin 16} {stage : Fin 64} {k : Nat} (can : s.canStart slot stage = some k)
    (env : StageEnv) : ∃ again, exec (.stageStart slot stage env) s = .next
      (let u := (s.entered slot stage k).drawSamples slot stage k env
      if !u.active slot then u
      else ((s.image slot).stageTiles stage).foldl (fun (s : State) lt => s.startTile slot stage k lt)
        (((((u.addRun (s.image slot) slot stage k).clearTables slot stage).emitGroups slot stage).bindDecs slot stage k
          again).runOps slot stage env)) := by
  refine ⟨match s.chunk slot k with
    | some c => c.regen
    | none => false, ?_⟩
  change execStageStart slot stage env s = _
  simp only [execStageStart, can, State.entered, State.addRun]
  rfl

theorem exec_stageStart_plain {s : State} {slot : Fin 16} {stage : Fin 64} {k : Nat} (can : s.canStart slot stage = some k)
    (env : StageEnv) (noOps : (s.image slot).nOps = 0) (slow : (s.image slot).realtime = false) :
    exec (.stageStart slot stage env) s = .next (((s.image slot).stageTiles stage).foldl
      (fun (s : State) lt => s.startTile slot stage k lt) ((s.entered slot stage k).addRun (s.image slot) slot stage k)) := by
  obtain ⟨again, run⟩ := exec_stageStart can env
  obtain ⟨only, _, image, _⟩ := entered_entered slow stage k
  have active : (s.entered slot stage k).active slot = true := by
    rw [(entered_entered slow stage k).active]; exact State.active_of_canStart can
  generalize s.entered slot stage k = u at run only image active
  have noOpsU : (u.image slot).nOps = 0 := by rw [State.image, image]; exact noOps
  have noOpsV : ((u.addRun (s.image slot) slot stage k).image slot).nOps = 0 := by
    rw [State.image, State.slot_addRun]; exact noOpsU
  simp only [State.drawSamples_none noOpsU, active, Bool.not_true, Bool.false_eq_true, if_false, State.clearTables_none noOpsV,
    State.emitGroups_none noOpsV, State.bindDecs_none noOpsV, State.runOps_none noOpsV] at run
  exact run

/-- STAGE_START of a stage without operators. -/
theorem stageStart_effect {s : State} {slot : Fin 16} {stage : Fin 64} {k : Nat} (can : s.canStart slot stage = some k)
    (env : StageEnv) (noOps : (s.image slot).nOps = 0) (slow : (s.image slot).realtime = false) :
    ∃ t, exec (.stageStart slot stage env) s = .next t ∧
      (t.slot slot).runs = (s.slot slot).runs ++ [{ stage := stage, chunk := k, st := .running, began := s.beat }] ∧
      (∀ lt ∈ (s.image slot).stageTiles stage,
        (∀ l ∈ (s.image slot).stageTiles stage, s.physTile slot l = s.physTile slot lt → l = lt) →
        t.runOf (s.physTile slot lt) = some (slot.val, stage.val, k) ∧
          ∀ th, th < ((s.image slot).stage stage).threads →
            Started (s.image slot) stage slot k lt th (t.thread (s.physTile slot lt) th)) ∧
      (∀ tile, tile ∉ s.tilesOf slot stage → t.tile tile = s.tile tile) ∧
      t = { s with regs := t.regs, slots := t.slots, tiles := t.tiles, augRows := t.augRows, cmps := t.cmps } ∧
      RegFrame (Reg.CLK_GATE_GATED.bits pgCLK) s t := by
  have run := exec_stageStart_plain can env noOps slow
  obtain ⟨only, runs, image, alloc⟩ := entered_entered slow stage k
  generalize s.entered slot stage k = u at run only runs image alloc
  have beat : u.beat = s.beat := by rw [only]
  have slotV := u.slot_addRun (s.image slot) slot stage k
  obtain ⟨slots, augRows, cmps, onlyV⟩ := u.addRun_eq (s.image slot) slot stage k
  generalize u.addRun (s.image slot) slot stage k = v at run slotV onlyV
  have imageV : v.image slot = s.image slot := by rw [State.image, slotV]; exact image
  have physV : v.physTile slot = s.physTile slot := by
    funext lt
    rw [State.physTile, slotV]; exact congrArg (fun a : Alloc => a.tiles.getD lt 0) alloc
  have noDescs : (v.image slot).streamDescs stage = [] := streamDescs_none (by rw [imageV]; exact noOps) stage
  obtain ⟨onlyT, frame, others, on⟩ := tilesStart_foldl (p := slot) k ((s.image slot).stageTiles stage) noDescs
  rw [physV] at others
  simp only [physV, imageV] at on
  generalize ((s.image slot).stageTiles stage).foldl (fun (s : State) lt => s.startTile slot stage k lt) v = t
    at run onlyT frame others on
  refine ⟨t, run, ?_, fun lt hlt alone => ?_, fun tile out => ?_, ?_, ?_⟩
  · have slotT : t.slot slot = v.slot slot := by rw [onlyT]; rfl
    rw [slotT, slotV, beat, runs]
  · obtain ⟨running, threads⟩ := on lt hlt alone
    refine ⟨running, fun th hth => ?_⟩
    rw [State.thread, Tile.thread, threads, kget_startThreads, if_pos hth]
    exact started_startThread _ _ _ _ _ _
  · rw [others tile out, onlyV, only]; rfl
  · rw [onlyT, onlyV, only]
  · rw [onlyV, only] at frame; exact frame

end Sys2Proof.Machine

namespace Sys2Proof.Machine
open Sys2Proof

/-! ## Arrivals at a gong (R65) -/

/-- A state whose slot p has the same image and claims. -/
structure SameClaims (p : Nat) (s t : State) : Prop where
  only : t = { s with slots := t.slots }
  image : (t.slot p).image = (s.slot p).image
  alloc : (t.slot p).alloc = (s.slot p).alloc

theorem sameClaims_setRun (s : State) (p : Nat) (r : StageRun) : SameClaims p s (s.setRun p r) := by
  have slot := s.slot_setRun p r
  obtain ⟨slots, eq⟩ := s.setRun_eq p r
  generalize s.setRun p r = u at slot eq
  exact ⟨by rw [eq], by rw [slot], by rw [slot]⟩

section
variable {p : Nat} {s t : State} (h : SameClaims p s t)
include h

theorem SameClaims.tilesOf (stage : Nat) : t.tilesOf p stage = s.tilesOf p stage := by
  unfold State.tilesOf State.physTile State.image
  rw [h.image, h.alloc]

theorem SameClaims.stageStws (stage : Nat) : t.stageStws p stage = s.stageStws p stage := by
  unfold State.stageStws State.image
  rw [h.image, h.alloc]

theorem SameClaims.divertsOf (stage k : Nat) : t.divertsOf p stage k = s.divertsOf p stage k := by
  have tile : ∀ n, t.tile n = s.tile n := fun n => by rw [h.only]; rfl
  unfold State.divertsOf
  rw [h.alloc]
  simp only [tile]

theorem SameClaims.active (q : Nat) : t.active q = s.active q := by rw [h.only]; rfl

end

/-- While a tile of the stage is missing the gong does not release. -/
theorem State.tryRelease_missing {s : State} {p stage k : Nat} {r : StageRun} (run : s.run p stage k = some r)
    (missing : ∃ u ∈ s.tilesOf p stage, u ∉ r.tiles) : s.tryRelease p stage k = s := by
  obtain ⟨u, mem, out⟩ := missing
  have notAll : (s.tilesOf p stage).all r.tiles.contains = false := List.all_eq_false.2 ⟨u, mem, by simpa using out⟩
  simp only [State.tryRelease, run, notAll]
  simp

/-- With the last arrival the release is posted on the cue slot of the plan (R344). -/
theorem State.tryRelease_last {s : State} {p stage k : Nat} {r : StageRun} (run : s.run p stage k = some r)
    (running : r.st = .running) (tiles : ∀ u ∈ s.tilesOf p stage, u ∈ r.tiles) (stws : ∀ n ∈ s.stageStws p stage, n ∈ r.stws)
    (active : s.active p = true) (settled : s.divertsOf p stage k = []) (free : s.cue (16 + p) = none) :
    s.tryRelease p stage k = (s.setRun p { r with st := .releasing (s.beat + 128) }).postCue (16 + p) (s.beat + 128) := by
  have allTiles : (s.tilesOf p stage).all r.tiles.contains = true := List.all_eq_true.2 fun u hu => by simpa using tiles u hu
  have allStws : (s.stageStws p stage).all r.stws.contains = true := List.all_eq_true.2 fun n hn => by simpa using stws n hn
  simp only [State.tryRelease, run]
  refine (if_neg ?_).trans (by rw [free])
  rw [running, allTiles, allStws, active, settled]
  decide

/-- A tile without partial aggregates shows that it holds none. -/
theorem flushPartials_effect {s : State} {n : Nat} (noPartials : (s.tile n).partials = []) (p : Nat) :
    let t := s.flushPartials n p
    t = { s with regs := t.regs, tiles := t.tiles } ∧ (∀ m, t.tile m = s.tile m) ∧
      RegFrame (Reg.TILE_PROBE_HOT_PARTIALS.bits (pgTILE n)) s t := by
  have same : ({ s.tile n with partials := [] } : Tile) = s.tile n := by rw [← noPartials]
  simp only [State.flushPartials, noPartials, List.foldl_nil]
  rw [same]
  have tile : ∀ m, (s.setTile n (s.tile n)).tile m = s.tile m := fun m => by
    by_cases h : m = n
    · rw [h, State.tile_setTile_self]
    · exact s.tile_setTile_ne _ h
  obtain ⟨tiles, eq⟩ : ∃ tiles, s.setTile n (s.tile n) = { s with tiles := tiles } := ⟨_, rfl⟩
  generalize s.setTile n (s.tile n) = u at tile eq
  obtain ⟨only, frame⟩ := onlyBits_setFld u (pgTILE n) Reg.TILE_PROBE_HOT_PARTIALS 0 ⟨by decide, by decide, by decide⟩
  generalize u.setFld (pgTILE n) Reg.TILE_PROBE_HOT_PARTIALS 0 = v at only frame
  refine ⟨by rw [only, eq], fun m => ?_, by rw [eq] at frame; exact frame⟩
  rw [← tile m, only]; rfl

/-- A tile's arrival in its run. -/
def StageRun.arrived (r : StageRun) (tile beat : Nat) : StageRun :=
  { r with tiles := r.tiles ++ [tile], firstArr := some (r.firstArr.getD beat) }

/-- A tile has done its part of a stage's run, and holds no partial aggregates. -/
structure MayArrive (s : State) (tile p stage k : Nat) (r : StageRun) : Prop where
  runs : s.runOf tile = some (p, stage, k)
  run : s.run p stage k = some r
  new : tile ∉ r.tiles
  active : s.active p = true
  idle : s.tileIdle p stage tile = true
  noPartials : (s.tile tile).partials = []
  probes : s.probesDone p tile = true

theorem exec_tileArrive {s : State} {tile : Fin 64} {p stage k : Nat} {r : StageRun} (h : MayArrive s tile p stage k r) :
    exec (.tileArrive tile) s = .next (((s.flushPartials tile p).setRun p (r.arrived tile s.beat)).tryRelease p stage k) := by
  obtain ⟨runs, run, new, active, idle, noPartials, probes⟩ := h
  obtain ⟨only, same, _⟩ := flushPartials_effect noPartials p
  have run' : (s.flushPartials tile p).run p stage k = some r := by rw [only]; exact run
  have beat : (s.flushPartials tile p).beat = s.beat := by rw [only]
  have done : (s.flushPartials tile p).probesDone p tile = true := by
    rw [State.probesDone, same, only]; exact probes
  change execTileArrive tile s = _
  have stays : (r.tiles.contains tile.val || !s.active p || !s.tileIdle p stage tile) = false := by
    rw [active, idle]; simpa using new
  simp only [execTileArrive, runs, run, stays, done, run', beat, Option.getD_some]
  rfl

end Sys2Proof.Machine

namespace Sys2Proof.Machine
open Sys2Proof

theorem State.run_eq {s : State} {p stage k : Nat} {r : StageRun} (run : s.run p stage k = some r) : r.stage = stage ∧ r.chunk = k := by
  simpa using List.find?_some run

theorem State.active_of_frame {s t : State} {p : Nat} (slot : t.slotState p = s.slotState p)
    (safe : t.bit pgGLB Reg.GLB_STAT_SAFE = s.bit pgGLB Reg.GLB_STAT_SAFE) : t.active p = s.active p := by
  rw [State.active, State.active, slot, safe]

/-- What the arrival of a tile makes of the state, before the gong may release. -/
structure TileArrived (tile p stage k : Nat) (r : StageRun) (s t : State) : Prop where
  only : t = { s with regs := t.regs, slots := t.slots, tiles := t.tiles }
  run : t.run p stage k = some r
  tiles : ∀ n, t.tile n = s.tile n
  frame : RegFrame (Reg.TILE_PROBE_HOT_PARTIALS.bits (pgTILE tile)) s t
  tilesOf : t.tilesOf p stage = s.tilesOf p stage
  stageStws : t.stageStws p stage = s.stageStws p stage
  divertsOf : t.divertsOf p stage k = s.divertsOf p stage k

theorem tileArrived_setRun {s : State} {tile p stage k : Nat} {r r' : StageRun} (run : s.run p stage k = some r)
    (noPartials : (s.tile tile).partials = []) (hs : r'.stage = r.stage) (hk : r'.chunk = r.chunk) :
    TileArrived tile p stage k r' s ((s.flushPartials tile p).setRun p r') := by
  obtain ⟨only, tiles, frame⟩ := flushPartials_effect noPartials p
  generalize s.flushPartials tile p = u at only tiles frame
  obtain ⟨isStage, isChunk⟩ := State.run_eq run
  have found : (u.run p stage k).isSome = true := by
    have same : u.run p stage k = s.run p stage k := by rw [only]; rfl
    rw [same, run]; rfl
  have placed := State.run_setRun found (hs.trans isStage) (hk.trans isChunk)
  have claims := sameClaims_setRun u p r'
  have rd := u.rd_setRun p r'
  obtain ⟨slots, eq⟩ := u.setRun_eq p r'
  generalize u.setRun p r' = v at placed claims rd eq
  refine ⟨by rw [eq, only], placed, fun n => ?_, regFrame_of_rd frame rd, ?_, ?_, ?_⟩
  · rw [← tiles n, eq]; rfl
  · rw [claims.tilesOf, only]; rfl
  · rw [claims.stageStws, only]; rfl
  · rw [claims.divertsOf, State.divertsOf, State.divertsOf]
    simp only [tiles]
    rw [only]; rfl

/-- A tile arrives before another. -/
theorem tileArrive_early {s : State} {tile : Fin 64} {p stage k : Nat} {r : StageRun} (h : MayArrive s tile p stage k r)
    (missing : ∃ u ∈ s.tilesOf p stage, u ∉ (r.arrived tile s.beat).tiles) :
    ∃ t, exec (.tileArrive tile) s = .next t ∧ t.run p stage k = some (r.arrived tile s.beat) ∧ (∀ n, t.tile n = s.tile n) ∧
      t = { s with regs := t.regs, slots := t.slots, tiles := t.tiles } ∧
      RegFrame (Reg.TILE_PROBE_HOT_PARTIALS.bits (pgTILE tile)) s t := by
  have exec_ := exec_tileArrive h
  obtain ⟨only, placed, tiles, frame, tilesOf, _, _⟩ := tileArrived_setRun (r' := r.arrived tile s.beat) h.run h.noPartials rfl rfl
  generalize (s.flushPartials tile p).setRun p (r.arrived tile s.beat) = v at exec_ only placed tiles frame tilesOf
  rw [State.tryRelease_missing placed (by rw [tilesOf]; exact missing)] at exec_
  exact ⟨v, exec_, placed, tiles, only, frame⟩

/-- A posted cue leaves the runs of the slots. -/
theorem slot_postCue {s : State} {c : Nat} (hc : c < 32) {target : Nat} (lead : s.beat + 128 ≤ target) (p : Nat) :
    (s.postCue c target).slot p = s.slot p := by
  obtain ⟨_, _, _, _, only, _⟩ := postCue_effect hc lead
  rw [only]; rfl

/-- The last tile to arrive releases the gong. -/
theorem tileArrive_last {s : State} {tile : Fin 64} {p stage k : Nat} {r : StageRun} (h : MayArrive s tile p stage k r)
    (hp : p < 16) (running : r.st = .running)
    (all : ∀ u ∈ s.tilesOf p stage, u ∈ (r.arrived tile s.beat).tiles) (stws : ∀ n ∈ s.stageStws p stage, n ∈ r.stws)
    (settled : s.divertsOf p stage k = []) (free : s.cue (16 + p) = none) :
    ∃ t, exec (.tileArrive tile) s = .next t ∧
      t.run p stage k = some { r.arrived tile s.beat with st := .releasing (s.beat + 128) } ∧
      t.cue (16 + p) = some (s.beat + 128) ∧ t.bit pgTIME (Reg.TIME_CUE_CTL_PENDING (16 + p)) = true ∧
      t.bit pgTIME (Reg.TIME_CUE_CTL_LATE (16 + p)) = false := by
  have exec_ := exec_tileArrive h
  obtain ⟨only, placed, _, frame, tilesOf, stageStws, divertsOf⟩ := tileArrived_setRun (r' := r.arrived tile s.beat) h.run h.noPartials rfl rfl
  generalize (s.flushPartials tile p).setRun p (r.arrived tile s.beat) = v at exec_ only placed frame tilesOf stageStws divertsOf
  have far : ∀ {page off i : Nat}, page < 0x80 → ¬ Reg.TILE_PROBE_HOT_PARTIALS.bits (pgTILE tile) page off i := fun hpg h => by
    have := h.1
    simp only [pgTILE] at this; omega
  have activeV : v.active p = true := (State.active_of_frame (frame.fld (by decide) (slotField_ok hp).2.2 fun i _ _ => far (by decide))
    (State.bit_congr (frame.fld (by decide) (by decide) fun i _ _ => far (by decide)))).trans h.active
  have freeV : v.cue (16 + p) = none := by rw [only]; exact free
  have beat : v.beat = s.beat := by rw [only]
  rw [State.tryRelease_last placed running (by rw [tilesOf]; exact all) (by rw [stageStws]; exact stws) activeV
    (by rw [divertsOf]; exact settled) freeV, beat] at exec_
  obtain ⟨isStage, isChunk⟩ := State.run_eq placed
  have releasing : (v.setRun p { r.arrived tile s.beat with st := .releasing (s.beat + 128) }).run p stage k =
      some { r.arrived tile s.beat with st := .releasing (s.beat + 128) } :=
    State.run_setRun (by rw [placed]; rfl) isStage isChunk
  have beatW : (v.setRun p { r.arrived tile s.beat with st := .releasing (s.beat + 128) }).beat = s.beat := by
    obtain ⟨slots, eq⟩ := v.setRun_eq p { r.arrived tile s.beat with st := .releasing (s.beat + 128) }
    rw [eq, beat]
  generalize v.setRun p { r.arrived tile s.beat with st := .releasing (s.beat + 128) } = w at exec_ releasing beatW
  have lead : w.beat + 128 ≤ s.beat + 128 := by rw [beatW]
  obtain ⟨posted, pending, late, _, _, _⟩ := postCue_effect (c := 16 + p) (by omega) lead
  refine ⟨_, exec_, ?_, posted, pending, late⟩
  rw [State.run_congr (s := w) (by rw [slot_postCue (by omega) lead]), releasing]

/-- A steward core's arrival in its run. -/
def StageRun.stewardArrived (r : StageRun) (stw beat : Nat) : StageRun :=
  { r with stws := r.stws ++ [stw], firstArr := some (r.firstArr.getD beat) }

theorem exec_stewardArrive {s : State} {slot stw : Fin 16} {r : StageRun}
    (found : ((s.slot slot).runs.find? fun (r : StageRun) =>
      r.st == .running && (s.stageStws slot r.stage).contains stw.val && !r.stws.contains stw.val) = some r)
    (active : s.active slot = true) (serves : ∀ e ∈ s.fsch.pool, ¬ (e.slot = slot.val ∧ e.st = .inCore stw.val)) :
    exec (.stewardArrive slot stw) s =
      .next ((s.setRun slot (r.stewardArrived stw s.beat)).tryRelease slot r.stage r.chunk) := by
  have none_ : (s.fsch.pool.find? fun (e : PoolEnt) => e.slot == slot.val && e.st == .inCore stw.val) = none :=
    List.find?_eq_none.2 fun e he h => serves e he (by simpa using h)
  change execStewardArrive slot stw s = _
  simp only [execStewardArrive, found, active, none_]
  rfl

/-- A steward core arrives while a tile of the stage is missing. -/
theorem stewardArrive_effect {s : State} {slot stw : Fin 16} {r : StageRun}
    (found : ((s.slot slot).runs.find? fun (r : StageRun) =>
      r.st == .running && (s.stageStws slot r.stage).contains stw.val && !r.stws.contains stw.val) = some r)
    (active : s.active slot = true) (serves : ∀ e ∈ s.fsch.pool, ¬ (e.slot = slot.val ∧ e.st = .inCore stw.val))
    (missing : ∃ u ∈ s.tilesOf slot r.stage, u ∉ r.tiles) :
    ∃ t r', exec (.stewardArrive slot stw) s = .next t ∧ t.run slot r.stage r.chunk = some r' ∧
      r' = { r with stws := r.stws ++ [stw.val], firstArr := some (r.firstArr.getD s.beat) } ∧ t = { s with slots := t.slots } := by
  have run := exec_stewardArrive found active serves
  have placed : (s.setRun slot (r.stewardArrived stw s.beat)).run slot r.stage r.chunk = some (r.stewardArrived stw s.beat) :=
    State.run_setRun (State.run_isSome_of_mem (List.mem_of_find?_eq_some found)) rfl rfl
  have claims := sameClaims_setRun s slot (r.stewardArrived stw s.beat)
  generalize s.setRun slot (r.stewardArrived stw s.beat) = u at run placed claims
  rw [State.tryRelease_missing placed (by rw [claims.tilesOf]; exact missing)] at run
  exact ⟨u, _, run, placed, rfl, claims.only⟩

end Sys2Proof.Machine

namespace Sys2Proof.Machine
open Sys2Proof

/-! ## After a gong what no chunk needs any longer goes (R65, R310) -/

/-- What a slot keeps: its runs, the chunks its stages have done, its image and claims. -/
structure SlotKept (x y : PlanSlot) : Prop where
  runs : y.runs = x.runs
  stageDone : y.stageDone = x.stageDone
  image : y.image = x.image
  alloc : y.alloc = x.alloc

theorem SlotKept.refl (x : PlanSlot) : SlotKept x x := ⟨rfl, rfl, rfl, rfl⟩

/-- What is dropped after a gong. -/
structure Dropped (s t : State) : Prop where
  only : t = { s with regs := t.regs, slots := t.slots, draws := t.draws, decs := t.decs, fsch := t.fsch }
  slot : ∀ q, SlotKept (s.slot q) (t.slot q)

theorem dropped_dropChunks (s : State) (p : Nat) : Dropped s (s.dropChunks p) := by
  simp only [State.dropChunks]
  generalize ((s.slot p).chunks.filter _) = chunks
  have self := s.slot_setSlot_self p { s.slot p with chunks := chunks }
  have other := fun q (ne : q ≠ p) => s.slot_setSlot_ne { s.slot p with chunks := chunks } ne
  obtain ⟨slots, eq⟩ := s.setSlot_eq p { s.slot p with chunks := chunks }
  generalize s.setSlot p { s.slot p with chunks := chunks } = u at self other eq
  refine ⟨by rw [eq], fun q => ?_⟩
  by_cases same : q = p
  · rw [same, self]; exact ⟨rfl, rfl, rfl, rfl⟩
  · rw [other q same]; exact .refl _

theorem State.dropPrev_none {s : State} (h : s.owns = []) (p : Nat) : s.dropPrev p = s := by
  simp only [State.dropPrev, State.own_none h]

theorem State.afterCommit_eq (s : State) (p : Nat) : ∃ draws decs, s.afterCommit p =
    (({ s.dropChunks p with draws := draws, decs := decs }.dropPrev p).retireEvents p).wakePosts := by
  simp only [State.afterCommit, State.dropCheckpoints]
  exact ⟨_, _, rfl⟩

theorem retireEvents_only (s : State) (p : Nat) :
    s.retireEvents p = { s with regs := (s.retireEvents p).regs, fsch := (s.retireEvents p).fsch } := by
  rw [State.retireEvents]
  obtain ⟨only, _⟩ := setPool_effect s fun l => l.filter fun e => e.slot != p || e.st == .aligned || (s.slot p).next ≤ e.chunk ||
    (s.slot p).chunks.any fun c => c.k == e.chunk && (!c.done || s.chunkOpen p c.k)
  rw [only]

/-- Without shares of OWN and with no thread waiting, what follows a gong only drops. -/
theorem dropped_afterCommit {s : State} (owns : s.owns = []) (quiet : s.noWaits) (p : Nat) : Dropped s (s.afterCommit p) := by
  obtain ⟨draws, decs, eq⟩ := s.afterCommit_eq p
  obtain ⟨only, slot⟩ := dropped_dropChunks s p
  generalize s.dropChunks p = u at eq only slot
  have owns' : ({ u with draws := draws, decs := decs } : State).owns = [] := by rw [only]; exact owns
  have quiet' : ({ u with draws := draws, decs := decs } : State).noWaits := by rw [only]; exact quiet
  have slot' : ∀ q, SlotKept (s.slot q) (({ u with draws := draws, decs := decs } : State).slot q) := slot
  have only' : ({ u with draws := draws, decs := decs } : State) = { s with
    regs := u.regs, slots := u.slots, draws := draws, decs := decs, fsch := u.fsch } := by rw [only]
  rw [State.dropPrev_none owns'] at eq
  generalize ({ u with draws := draws, decs := decs } : State) = v at eq quiet' slot' only'
  have only2 := retireEvents_only v p
  generalize v.retireEvents p = w at eq only2
  rw [State.wakePosts_quiet (by rw [only2]; exact quiet')] at eq
  rw [eq]
  exact ⟨by rw [only2, only'], fun q => by rw [only2]; exact slot' q⟩

/-! ## The gong of a stage is released (R65, R145) -/

/-- A tile leaves its stage. -/
def State.leaveTile (s : State) (n : Nat) : State :=
  (s.abandonTile n).setTile n { (s.abandonTile n).tile n with running := none, threads := [], strm := [], opDescs := [] }

theorem tilesHalt_leaveTile (s : State) (n : Nat) : TilesHalt [n] s (s.leaveTile n) :=
  tilesHalt_setTile (abandons_abandonTile s n) rfl rfl

/-- A slot whose stage is done with a chunk. -/
def PlanSlot.endRun (x : PlanSlot) (r : StageRun) : PlanSlot :=
  { x with
    runs := x.runs.filter fun y => !(y.stage == r.stage && y.chunk == r.chunk)
    rebuild := x.rebuild.filter (· != r.stage)
    stageDone := kset (fun _ => 0) x.stageDone r.stage (max (kget (fun _ => 0) x.stageDone r.stage) (r.chunk + 1)) }

/-- The state in which the run of a stage has ended and its pages have not yet heard the gong. -/
def State.endRun (s : State) (p : Nat) (r : StageRun) : State :=
  let u := (s.tilesOf p r.stage).foldl State.leaveTile s
  u.setSlot p ((u.slot p).endRun r)

theorem State.gongDone_eq (s : State) (p : Nat) (r : StageRun) : s.gongDone p r =
    (((((s.endRun p r).gongPages p r.stage).foldl (fun (s : State) pg => if s.fenced pg || !s.powered pg then s else s.gongAt pg)
      (s.endRun p r)).ownAtGong p r.stage).settleChunk p r.chunk).afterCommit p := rfl

/-- The end of a stage's run. -/
structure RunEnds (p : Nat) (r : StageRun) (s t : State) : Prop where
  only : t = { s with tiles := t.tiles, mem := t.mem, slots := t.slots }
  slot : t.slot p = (s.slot p).endRun r
  others : ∀ q, q ≠ p → t.slot q = s.slot q
  halted : ∀ n ∈ s.tilesOf p r.stage, t.runOf n = none
  waits : s.noWaits → t.noWaits

theorem runEnds_endRun (s : State) (p : Nat) (r : StageRun) : RunEnds p r s (s.endRun p r) := by
  obtain ⟨only, halted, _, waits⟩ := tilesHalt_foldl tilesHalt_leaveTile (s.tilesOf p r.stage) s
  simp only [State.endRun]
  generalize (s.tilesOf p r.stage).foldl State.leaveTile s = u at only halted waits ⊢
  have slotU : ∀ q, u.slot q = s.slot q := fun q => by rw [only]; rfl
  rw [slotU]
  have self := u.slot_setSlot_self p ((s.slot p).endRun r)
  have other := fun q (ne : q ≠ p) => u.slot_setSlot_ne ((s.slot p).endRun r) ne
  obtain ⟨slots, eq⟩ := u.setSlot_eq p ((s.slot p).endRun r)
  generalize u.setSlot p ((s.slot p).endRun r) = v at self other eq
  refine ⟨by rw [eq, only], self, fun q ne => (other q ne).trans (slotU q), fun n hn => ?_, fun quiet => ?_⟩
  · rw [eq]; exact halted n hn
  · rw [eq]; exact waits quiet

theorem State.gongAt_unstaged {s : State} (h : s.staged = []) (page : Nat) : s.gongAt page = s := by
  rw [State.gongAt, State.applyStaged_none (State.shdPend_unstaged h page), ite_self]

theorem State.gongPages_unstaged {s : State} (h : s.staged = []) (pages : List Nat) :
    pages.foldl (fun (s : State) pg => if s.fenced pg || !s.powered pg then s else s.gongAt pg) s = s :=
  foldl_eq_self fun pg _ => by rw [State.gongAt_unstaged h, ite_self]

theorem State.ownAtGong_none {s : State} (h : s.owns = []) (p stage : Nat) : s.ownAtGong p stage = s := by
  rw [State.ownAtGong, State.own_none h]

/-- While an exit stage of the plan lacks the chunk, the chunk is not done. -/
theorem State.settleChunk_open {s : State} {p k : Nat} (h : ∃ e ∈ (s.image p).exits, s.stageHas p e k = false) :
    s.settleChunk p k = s := by
  obtain ⟨e, mem, lacks⟩ := h
  have open_ : ((s.image p).exits.all fun t => s.stageHas p t k) = false :=
    List.all_eq_false.2 ⟨e, mem, by rw [lacks]; decide⟩
  simp only [State.settleChunk, open_]
  simp

/-- Whether another stage has a chunk does not change with the end of a run. -/
theorem RunEnds.stageHas {p : Nat} {r : StageRun} {s t : State} (h : RunEnds p r s t) {e : Nat} (ne : e ≠ r.stage) (k : Nat) :
    t.stageHas p e k = s.stageHas p e k := by
  have done : t.stageDoneOf p e = s.stageDoneOf p e := by
    rw [State.stageDoneOf, h.slot]; exact kget_kset_ne _ ne _
  have builds : t.buildsPlanTable p e = s.buildsPlanTable p e := by
    unfold State.buildsPlanTable State.jtab State.stageTiles State.image
    rw [h.slot]; rfl
  rw [State.stageHas, done, builds, State.stageHas]

/-- What the release of a gong does while the chunk is not done everywhere. -/
structure GongReleased (p : Nat) (r : StageRun) (s t : State) : Prop where
  only : t = { s with regs := t.regs, tiles := t.tiles, mem := t.mem, slots := t.slots, draws := t.draws, decs := t.decs, fsch := t.fsch }
  slot : SlotKept ((s.slot p).endRun r) (t.slot p)
  others : ∀ q, q ≠ p → SlotKept (s.slot q) (t.slot q)
  halted : ∀ n ∈ s.tilesOf p r.stage, t.runOf n = none

theorem gongReleased_gongDone {s : State} (staged : s.staged = []) (owns : s.owns = []) (quiet : s.noWaits) (p : Nat) (r : StageRun)
    (exit_ : ∃ e ∈ (s.image p).exits, e ≠ r.stage ∧ s.stageHas p e r.chunk = false) : GongReleased p r s (s.gongDone p r) := by
  have eq := s.gongDone_eq p r
  obtain ⟨e, mem, ne, lacks⟩ := exit_
  have has := (runEnds_endRun s p r).stageHas ne r.chunk
  obtain ⟨only, slot, others, halted, waits⟩ := runEnds_endRun s p r
  generalize s.endRun p r = u at eq has only slot others halted waits
  have stagedU : u.staged = [] := by rw [only]; exact staged
  have ownsU : u.owns = [] := by rw [only]; exact owns
  have openU : ∃ e ∈ (u.image p).exits, u.stageHas p e r.chunk = false :=
    ⟨e, by rw [State.image, slot]; exact mem, by rw [has, lacks]⟩
  rw [State.gongPages_unstaged stagedU, State.ownAtGong_none ownsU, State.settleChunk_open openU] at eq
  obtain ⟨only', slot'⟩ := dropped_afterCommit ownsU (waits quiet) p
  generalize u.afterCommit p = t at eq only' slot'
  rw [eq]
  refine ⟨by rw [only', only], ?_, fun q hq => ?_, fun n hn => ?_⟩
  · rw [← slot]; exact slot' p
  · rw [← others q hq]; exact slot' q
  · rw [only']; exact halted n hn

end Sys2Proof.Machine

namespace Sys2Proof.Machine
open Sys2Proof

/-- At its cue the one run of a plan ends. -/
theorem State.gongsAtCue_one {s : State} {p tgt : Nat} {r : StageRun} (active : s.active p = true) (runs : (s.slot p).runs = [r])
    (releasing : r.st = .releasing tgt) (ended : ((s.gongDone p r).slot p).runs = []) : s.gongsAtCue p tgt = s.gongDone p r := by
  have due : ((s.slot p).runs.filter fun r => r.st == .releasing tgt) = [r] := by rw [runs]; simp [releasing]
  simp only [State.gongsAtCue, due, active, if_true, List.foldl_cons, List.foldl_nil, ended, List.any_nil, Bool.and_false,
    Bool.false_eq_true, if_false]

theorem State.cadencesAt_none {s : State} (h : ∀ q, (s.image q).cadence = none) (c tgt : Nat) : s.cadencesAt c tgt = s := by
  unfold State.cadencesAt
  refine foldl_eq_self fun q _ => ?_
  rw [h q]
  simp

theorem PlanSlot.endRun_runs {x : PlanSlot} {r : StageRun} (h : x.runs = [r]) : (x.endRun r).runs = [] := by
  simp [PlanSlot.endRun, h]

theorem PlanSlot.endRun_stageDone (x : PlanSlot) (r : StageRun) : kget (fun _ => 0) (x.endRun r).stageDone r.stage =
    max (kget (fun _ => 0) x.stageDone r.stage) (r.chunk + 1) := kget_kset_self _ _ _

/-- Nothing but registers, cues and the beat differs. -/
def CueOnly (s t : State) : Prop := t = { s with regs := t.regs, cues := t.cues, beat := t.beat }

theorem CueOnly.slot {s t : State} (h : CueOnly s t) (q : Nat) : t.slot q = s.slot q := by rw [h]; rfl

theorem CueOnly.noWaits {s t : State} (h : CueOnly s t) (quiet : s.noWaits) : t.noWaits := by rw [h]; exact quiet

theorem CueOnly.stageHas {s t : State} (h : CueOnly s t) (p e k : Nat) : t.stageHas p e k = s.stageHas p e k := by rw [h]; rfl

theorem CueOnly.staged {s t : State} (h : CueOnly s t) : t.staged = s.staged := by rw [h]

theorem CueOnly.owns {s t : State} (h : CueOnly s t) : t.owns = s.owns := by rw [h]

theorem CueOnly.tilesOf {s t : State} (h : CueOnly s t) (p stage : Nat) : t.tilesOf p stage = s.tilesOf p stage := by rw [h]; rfl

theorem GongReleased.beat {p : Nat} {r : StageRun} {s t : State} (h : GongReleased p r s t) : t.beat = s.beat := by rw [h.only]

theorem GongReleased.cue {p : Nat} {r : StageRun} {s t : State} (h : GongReleased p r s t) (c : Nat) : t.cue c = s.cue c := by
  rw [h.only]; rfl

/-- The cue of a plan releases the gong of its stage. -/
theorem cueFire_gong {s : State} {cue : Fin 32} {p tgt : Nat} {r : StageRun} (isCue : cue.val = 16 + p) (posted : s.cue cue = some tgt)
    (on : s.beatOn = true) (staged : s.staged = []) (owns : s.owns = []) (tables : s.car.tables = []) (quiet : s.noWaits)
    (active : s.active p = true) (idle : ∀ q, (s.slot q).setWaits = [] ∧ (s.image q).cadence = none) (runs : (s.slot p).runs = [r])
    (releasing : r.st = .releasing tgt) (exit_ : ∃ e ∈ (s.image p).exits, e ≠ r.stage ∧ s.stageHas p e r.chunk = false) :
    ∃ t, exec (.cueFire cue []) s = .next t ∧ t.cue cue = none ∧ t.beat = max s.beat tgt ∧ (t.slot p).runs = [] ∧
      (∀ tile ∈ s.tilesOf p r.stage, t.runOf tile = none) ∧
      t.stageDoneOf p r.stage = max (s.stageDoneOf p r.stage) (r.chunk + 1) := by
  have hp : p < 16 := by have := cue.isLt; omega
  have run := exec_cueFire_unstaged posted on staged owns tables fun q _ => (idle q).1
  obtain ⟨cleared, _, _, _, eq, frame⟩ := cuePages_clearCue_effect cue.isLt tgt staged (List.range 512)
  generalize (s.clearCue cue tgt).cuePages cue (List.range 512) = u at run cleared eq frame
  have beat : u.beat = max s.beat tgt := by rw [eq]
  have only' : CueOnly s u := by rw [CueOnly, beat]; exact eq
  clear eq
  have slotU := only'.slot
  have activeU : u.active p = true := (State.active_of_frame (slotState_of_cue hp frame) (State.bit_congr
    (frame.fld (by decide) (by decide) fun i _ _ h => h.elim (fun h => absurd h.1 (by decide)) fun h => absurd h.1 (by decide)))).trans
    active
  have exitU : ∃ e ∈ (u.image p).exits, e ≠ r.stage ∧ u.stageHas p e r.chunk = false := by
    obtain ⟨e, mem, ne, lacks⟩ := exit_
    exact ⟨e, by rw [State.image, slotU]; exact mem, ne, (only'.stageHas p e r.chunk).trans lacks⟩
  have gong := gongReleased_gongDone (s := u) (only'.staged.trans staged) (only'.owns.trans owns)
    (only'.noWaits quiet) p r exitU
  have slot := gong.slot
  have ended : ((u.gongDone p r).slot p).runs = [] := slot.runs.trans (PlanSlot.endRun_runs (by rw [slotU]; exact runs))
  have released := State.gongsAtCue_one activeU (by rw [slotU]; exact runs) releasing ended
  have mine : cue.val - 16 = p := by omega
  simp only [mine, if_pos (show 16 ≤ cue.val by omega), released] at run
  generalize u.gongDone p r = t at run gong slot ended
  have cadence : ∀ q, (t.image q).cadence = none := fun q => by
    have image : t.image q = s.image q := by
      by_cases same : q = p
      · rw [State.image, State.image, same, slot.image, slotU]; rfl
      · rw [State.image, State.image, (gong.others q same).image, slotU]
    rw [image]; exact (idle q).2
  rw [State.cadencesAt_none cadence] at run
  refine ⟨t, run, ?_, ?_, ended, fun n hn => gong.halted n ?_, ?_⟩
  · exact (gong.cue cue).trans cleared
  · exact gong.beat.trans beat
  · rw [only'.tilesOf]; exact hn
  · rw [State.stageDoneOf, slot.stageDone, PlanSlot.endRun_stageDone, slotU, State.stageDoneOf]

/-- Settles O23: each clause by the effect of its command. -/
theorem stageRuns : Obligations.StageRuns := by
  unfold Obligations.StageRuns
  refine fun s => ⟨fun slot stage env k can noOps slow => ?_,
    fun tile p stage k r runs run new active idle noPartials probes =>
      ⟨fun missing => tileArrive_early ⟨runs, run, new, active, idle, noPartials, probes⟩ missing,
        fun hp running all stws settled free =>
          tileArrive_last ⟨runs, run, new, active, idle, noPartials, probes⟩ hp running all stws settled free⟩,
    fun slot stw r found active serves missing => stewardArrive_effect found active serves missing,
    fun cue p tgt r isCue posted on staged owns tables quiet active idle runs releasing exit_ =>
      cueFire_gong isCue posted on staged owns tables quiet active idle runs releasing exit_⟩
  obtain ⟨t, run, runs, on, others, only, frame⟩ := stageStart_effect can env noOps slow
  refine ⟨t, run, runs, fun lt hlt alone => ⟨(on lt hlt alone).1, fun th hth => ?_⟩, others, only, frame⟩
  obtain ⟨pc, going, wait, item, flags, vreg, mreg, s1, s2, s3, s4, s5, s6, rest⟩ := (on lt hlt alone).2 th hth
  exact ⟨pc, going, wait, item, flags, vreg, mreg, s1, s2, s3, s4, s5, s6, rest⟩

end Sys2Proof.Machine

namespace Sys2Proof.Machine
open Sys2Proof

/-! ## The coherent cache and snoops (R81, R381, R387) -/

/-- The coherent cache with one of its lines replaced, or given back. -/
def State.setLine (s : State) (l : Nat) (line : Option (List Byte)) : State :=
  { s with link := { s.link with cache := kset (fun _ => none) s.link.cache l line } }

theorem State.cacheLine_setLine_self (s : State) (l : Nat) (line : Option (List Byte)) : (s.setLine l line).cacheLine l = line :=
  kget_kset_self _ _ _

theorem State.cacheLine_setLine_ne (s : State) {l n : Nat} (line : Option (List Byte)) (h : n ≠ l) :
    (s.setLine l line).cacheLine n = s.cacheLine n := kget_kset_ne _ h _

/-- A snoop of a line that the cache does not hold is answered without data. -/
theorem State.snoop_missing {s : State} {port addr : Nat} (gives : Bool) (bound : port ∈ s.boundLinks)
    (missing : s.cacheLine (addr / 64) = none) :
    s.snoop port addr gives = s.emit (.snpResp port (64 * (addr / 64)) [] false) := by
  have member : s.boundLinks.contains port = true := List.contains_iff_mem.2 bound
  simp only [State.snoop, member, missing, Bool.not_true, Bool.false_eq_true, if_false]

/-- A snoop of a line that the cache holds is answered with it, and may take the line. -/
theorem State.snoop_held {s : State} {port addr : Nat} (gives : Bool) {bs : List Byte} (bound : port ∈ s.boundLinks)
    (held : s.cacheLine (addr / 64) = some bs) :
    s.snoop port addr gives =
      let t := s.emit (.snpResp port (64 * (addr / 64)) bs true)
      if gives then t.setLine (addr / 64) none else t := by
  have member : s.boundLinks.contains port = true := List.contains_iff_mem.2 bound
  simp only [State.snoop, member, held, Bool.not_true, Bool.false_eq_true, if_false]
  rfl

/-! ## Answers of the host (R384) -/

/-- The state in which a request is no longer outstanding. -/
def State.withoutReq (s : State) (id : Nat) : State :=
  { s with link := { s.link with reqs := s.link.reqs.filter fun q => q.id != id } }

theorem exec_cxlCacheResponse (id : Nat) (resp : HostResp) (s : State) :
    exec (.cxlCacheResponse id resp) s = execCxlCacheResponse id resp s := rfl

/-- An answer that is no refusal ends a response write of the fast path, or a write of a ring's head. -/
theorem exec_cxlCacheResponse_ok {s : State} {id : Nat} {resp : HostResp} {r : HostReq}
    (out : (s.link.reqs.find? fun (r : HostReq) => r.id == id) = some r) (ok : resp ≠ .refused)
    (src : ∃ n, r.src = .fastResp n ∨ r.src = .headWb n) :
    exec (.cxlCacheResponse id resp) s = .next (s.withoutReq id) := by
  rw [exec_cxlCacheResponse]
  obtain ⟨n, src | src⟩ := src <;> simp only [execCxlCacheResponse, out, src, bne_iff_ne, ne_eq, ok,
    not_false_eq_true, if_true] <;> rfl

/-- A refused response write of the fast path is an error of its page. -/
theorem exec_cxlCacheResponse_refused {s : State} {id n : Nat} {r : HostReq}
    (out : (s.link.reqs.find? fun (r : HostReq) => r.id == id) = some r) (src : r.src = .fastResp n) :
    exec (.cxlCacheResponse id .refused) s = .next ((s.withoutReq id).error pgFAST Src.fast_RESP_WRITE_ERR) := by
  rw [exec_cxlCacheResponse]
  simp only [execCxlCacheResponse, out, src, bne_self_eq_false, Bool.false_eq_true, if_false, State.withoutReq]

/-- A line that comes for a combining write enters the cache; with room for it none leaves. -/
theorem exec_cxlCacheResponse_line {s : State} {id l tile slot : Nat} {bs : List Byte} {r : HostReq}
    (out : (s.link.reqs.find? fun (r : HostReq) => r.id == id) = some r) (src : r.src = .combine l tile slot)
    (whole : bs.length = 64) (room : s.link.cache.length < 4096) :
    exec (.cxlCacheResponse id (.data bs false)) s = .next ((s.withoutReq id).setLine l (some bs)) := by
  have stays : (s.withoutReq id).cacheFill l bs = (s.withoutReq id).setLine l (some bs) := by
    have few : ¬ 4096 ≤ (s.withoutReq id).link.cache.length := Nat.not_le.2 room
    simp only [State.cacheFill, few, decide_false, Bool.false_and, Bool.false_eq_true, if_false]
    split <;> rfl
  rw [← stays]
  rw [exec_cxlCacheResponse]
  simp only [execCxlCacheResponse, out, src, whole, if_true]
  rfl

/-! ## The address translation cache (R396, R403) -/

theorem State.setAtc_eq {s : State} {l : Nat} (prim : s.primary = some l) (atc : List (Nat × Nat)) :
    s.setAtc atc =
      { s with link := { s.link with atc := atc } }.setFld (pgULNK l) Reg.ULNK_ATS_ENTRIES atc.length := by
  have prim' : { s with link := { s.link with atc := atc } }.primary = some l := prim
  simp only [State.setAtc, prim']

theorem State.fld_emit (s : State) (m : Msg) (p : Nat) (f : Fld) : (s.emit m).fld p f = s.fld p f := rfl

theorem RegFrame.emit {p : BitSet} {s t : State} (h : RegFrame p s t) (m : Msg) : RegFrame p s (t.emit m) := h

/-- A counter that wraps, after an addition. -/
theorem State.fld_addWrap_self (s : State) (p : Nat) {f : Fld} (n : Nat) (ok : f.ok) :
    (s.addWrap p f n).fld p f = (s.fld p f + n) % 2 ^ (f.hi + 1 - f.lo) := State.fld_setFld_self s p f _ ok

/-- What a change of the address translation cache changes. -/
theorem setAtc_effect {s : State} {l : Nat} (prim : s.primary = some l) {atc : List (Nat × Nat)} (few : atc.length < 2 ^ 14) :
    (s.setAtc atc).fld (pgULNK l) Reg.ULNK_ATS_ENTRIES = atc.length ∧
      s.setAtc atc = { s with regs := (s.setAtc atc).regs, link := { s.link with atc := atc } } ∧
      RegFrame (Reg.ULNK_ATS_ENTRIES.bits (pgULNK l)) s (s.setAtc atc) := by
  rw [State.setAtc_eq prim]
  refine ⟨State.fld_setFld_fits _ _ ⟨by decide, by decide, by decide⟩ few, rfl, ?_⟩
  exact (onlyBits_setFld { s with link := { s.link with atc := atc } } _ _ _ ⟨by decide, by decide, by decide⟩).2

theorem State.primary_lt {s : State} {l : Nat} (prim : s.primary = some l) : l < 3 :=
  List.mem_range.1 (List.mem_of_find?_eq_some prim)

/-- The primary link is the same where STAT of the links is. -/
theorem RegFrame.primary {p : BitSet} {s t : State} (frame : RegFrame p s t) (stat : ∀ n i, n < 3 → ¬ p (pgULNK n) 0x108 i) :
    t.primary = s.primary :=
  State.primary_congr (fun n hn => frame.fld (by unfold pgULNK; omega) (by decide) fun i _ _ => stat n i hn)
    fun n hn => frame.fld (by unfold pgULNK; omega) (by decide) fun i _ _ => stat n i hn

/-- An invalidation empties the cache and counts at the primary link. -/
theorem atsInvalidate_effect {s : State} {port : Fin 3} {l : Nat} (up : s.linkUp port = true) (prim : s.primary = some l) :
    let pg := pgULNK l
    ∃ t, exec (.atsInvalidate port) s = .next t ∧ t.fld pg Reg.ULNK_ATS_ENTRIES = 0 ∧
      t.fld pg Reg.ULNK_ATS_INVALIDATIONS = (s.fld pg Reg.ULNK_ATS_INVALIDATIONS + 1) % 2 ^ 32 ∧
      RegFrame ((Reg.ULNK_ATS_ENTRIES.bits pg).or (Reg.ULNK_ATS_INVALIDATIONS.bits pg)) s t ∧
      t = { s with regs := t.regs, link := { s.link with atc := [] }, out := .atsDone port :: s.out } := by
  obtain ⟨entries, only, frame⟩ := setAtc_effect prim (atc := []) (by decide)
  have prim' : (s.setAtc []).primary = some l :=
    (frame.primary fun n i _ h => absurd h.2.1 (by decide)).trans prim
  have page : pgULNK l < 512 := by have := State.primary_lt prim; unfold pgULNK; omega
  have count : (s.setAtc []).fld (pgULNK l) Reg.ULNK_ATS_INVALIDATIONS = s.fld (pgULNK l) Reg.ULNK_ATS_INVALIDATIONS :=
    frame.fld page (by decide) fun i lo _ h => absurd (lo.trans h.2.2.2) (by decide)
  refine ⟨((s.setAtc []).addWrap (pgULNK l) Reg.ULNK_ATS_INVALIDATIONS 1).emit (.atsDone port), ?_, ?_, ?_, ?_, ?_⟩
  · show execAtsInvalidate port s = _
    simp only [execAtsInvalidate, up, prim', Bool.not_true, Bool.false_eq_true, if_false]
  · rw [State.fld_emit, State.addWrap, State.fld_setFld_ne _ _ (.inr (.inr (.inl (by decide)))) (by decide) (by decide), entries]
    rfl
  · rw [State.fld_emit, ← count]
    exact State.fld_addWrap_self (s.setAtc []) (pgULNK l) 1 ⟨by decide, by decide, by decide⟩
  · exact (frame.trans (onlyBits_addWrap (s.setAtc []) _ _ 1 ⟨by decide, by decide, by decide⟩).2).emit _
  · have counted : RegsOnly (s.setAtc []) ((s.setAtc []).addWrap (pgULNK l) Reg.ULNK_ATS_INVALIDATIONS 1) := rfl
    rw [State.emit, counted, only]

/-- Settles O44: snoops, answers and the invalidation, each by the lemma that says what its command leaves. -/
theorem hostAnswers : Obligations.HostAnswers := by
  unfold Obligations.HostAnswers
  refine fun s => ⟨fun port addr bound => ⟨fun missing => ?_, fun bs held => ?_⟩,
    fun id resp r out => ⟨fun ok src => exec_cxlCacheResponse_ok out ok src, ?_, ?_⟩,
    fun port l up prim => atsInvalidate_effect up prim⟩
  · have answer := fun gives => congrArg (Host.Outcome.next : State → Out) (State.snoop_missing gives bound missing)
    exact ⟨answer true, answer true, answer false⟩
  · have answer := fun gives => congrArg (Host.Outcome.next : State → Out) (State.snoop_held gives bound held)
    exact ⟨answer false, _, answer true, answer true, State.cacheLine_setLine_self _ _ _,
      fun n ne => State.cacheLine_setLine_ne _ none ne, rfl⟩
  · rintro n rfl src quiet
    obtain ⟨ints, frame, recorded⟩ := recordError_effect (s.withoutReq id) (page := pgFAST) (src := Src.fast_RESP_WRITE_ERR)
      false 0 (by decide) (by decide) quiet
    exact ⟨_, exec_cxlCacheResponse_refused out src, recorded, ints.reqs, frame⟩
  · rintro l tile slot bs src rfl whole room
    exact ⟨_, exec_cxlCacheResponse_line out src whole room, State.cacheLine_setLine_self _ _ _,
      fun n ne => State.cacheLine_setLine_ne _ _ ne, rfl⟩

end Sys2Proof.Machine

namespace Sys2Proof.Machine
open Sys2Proof

/-! ## A slot of a stream engine is replaced -/

/-- A slot of a tile's stream engine with other contents. -/
def State.putSlot (s : State) (tile k : Nat) (y : Option StrmSlot) : State := s.setTile tile ((s.tile tile).setSlot k y)

theorem State.slot_putSlot_self (s : State) (tile k : Nat) (y : Option StrmSlot) :
    ((s.putSlot tile k y).tile tile).slot k = y := by
  rw [State.putSlot, State.tile_setTile_self]
  exact kget_kset_self _ _ _

theorem State.slot_putSlot_ne (s : State) {tile k n j : Nat} (y : Option StrmSlot) (h : ¬ (n = tile ∧ j = k)) :
    ((s.putSlot tile k y).tile n).slot j = (s.tile n).slot j := by
  unfold State.putSlot
  by_cases same : n = tile
  · subst same
    rw [State.tile_setTile_self]
    exact kget_kset_ne _ (fun other => h ⟨rfl, other⟩) _
  · rw [State.tile_setTile_ne _ _ same]

theorem State.slot_perf (s : State) (page ev n tile k : Nat) :
    ((s.perf page ev n).tile tile).slot k = (s.tile tile).slot k := by rw [State.perf_tile]

theorem State.perf_mem (s : State) (page ev n : Nat) : (s.perf page ev n).mem = s.mem := by rw [State.perf_eq]

/-- Memory and one slot of a tile's engine change: nothing else does. -/
theorem engineFrame_putSlot {s u : State} (mem : MemOnly s u) (tile k : Nat) (y : Option StrmSlot) :
    EngineFrame tile s (u.putSlot tile k y) := by
  have same : ∀ n, u.tile n = s.tile n := fun n => by rw [mem]; rfl
  obtain ⟨tiles, eq⟩ : ∃ tiles, u.putSlot tile k y = { u with tiles := tiles } := ⟨_, rfl⟩
  have own : (u.putSlot tile k y).tile tile = (s.tile tile).setSlot k y := by
    rw [State.putSlot, State.tile_setTile_self, same]
  refine ⟨by rw [eq, mem], fun page off i _ _ _ => ?_, fun n hn => ?_, fun j => ?_, ?_⟩
  · rw [eq, mem]; rfl
  · rw [State.putSlot, State.tile_setTile_ne _ _ hn, same]
  · rw [State.thread, own]; rfl
  · rw [own]; rfl

/-- Counting an event of the tile stays within its frame. -/
theorem EngineFrame.perf {tile : Nat} {s u : State} (h : EngineFrame tile s u) (ev n : Nat) :
    EngineFrame tile s (u.perf (pgTILE tile) ev n) := by
  obtain ⟨only, frame, others, threads, rest⟩ := h
  have counts := onlyBits_perf u (pgTILE tile) ev n
  refine ⟨by rw [counts.1, only], ?_, fun m hm => ?_, fun k => ?_, ?_⟩
  · exact (frame.trans counts.2).mono fun _ _ _ h => h.elim id id
  · rw [State.perf_tile, others m hm]
  · rw [State.perf_thread, threads k]
  · rw [State.perf_tile, rest]

/-- What a command of an engine leaves alone keeps the engine idle. -/
theorem EngineFrame.engineIdle {tile : Nat} {s u : State} (h : EngineFrame tile s u) (idle : s.engineIdle tile) :
    u.engineIdle tile := by
  obtain ⟨_, _, _, threads, rest⟩ := h
  have descs := congrArg Tile.opDescs rest
  exact ⟨descs.trans idle.1, fun k hk => by rw [threads k]; exact idle.2 k hk⟩

/-- An idle engine has nothing to settle. -/
theorem State.strmSettle_of_engineIdle {s : State} {tile : Nat} (idle : s.engineIdle tile) : s.strmSettle tile = s := by
  obtain ⟨descs, waits⟩ := idle
  have threads : ∀ p, s.feedThreads tile p = s := fun p => by
    unfold State.feedThreads
    refine foldl_eq_self fun th hth => ?_
    rw [waits th (List.mem_range.1 hth)]
  rw [State.strmSettle_eq]
  split
  · rfl
  · rw [State.feedDescs_none descs, threads]

/-- So have the engines that a descriptor of the tile alone delivers to. -/
theorem State.strmSettleAll_of_engineIdle {s : State} {tile : Nat} {x : StrmSlot} (idle : s.engineIdle tile)
    (alone : x.rings.map RingUse.tile = [tile]) : s.strmSettleAll tile x = s := by
  rw [State.strmSettleAll, alone, State.strmSettle_of_engineIdle idle, List.filter_cons_of_neg (by simp), List.filter_nil,
    List.foldl_nil]

/-! ## Memory as the engine writes it (R22, R25, R78) -/

theorem memOnly_ringWrite (s : State) (tile : Nat) (d : Desc) (pos : Nat) (bs : List Byte) :
    MemOnly s (s.ringWrite tile d pos bs) := rfl

/-- A write to an address that has a place changes memory alone. -/
theorem memOnly_writeMem {s : State} {a : Nat} (placed : s.placed a) (page : Nat) (bs : List Byte) (poison : Bool) :
    MemOnly s (s.writeMem page a bs poison) := by
  unfold State.writeMem
  split
  · rfl
  case h_2 none_ =>
    have located : (s.locate a).isNone = false := by
      rcases placed with h | h
      · rw [none_] at h; exact nomatch h
      · exact Option.isNone_eq_false_iff.2 h
    rw [located]; rfl

/-- An address that has a place is no hole. -/
theorem State.not_hole {s : State} {a : Nat} (placed : s.placed a) (b : Bool) :
    (b && (tileAddr a).isNone && (s.locate a).isNone) = false := by
  rcases placed with h | h
  · rw [Option.isNone_eq_false_iff.2 h, Bool.and_false, Bool.false_and]
  · rw [Option.isNone_eq_false_iff.2 h, Bool.and_false]

/-- Without errors of the code no word of a ring is lost. -/
theorem State.ringRead_clean (s : State) (tile : Nat) (d : Desc) (pos n : Nat) : (s.ringRead tile d pos n {}).2 = false := by
  simp [State.ringRead]

/-! ## An element of a read arrives (R92) -/

/-- A descriptor without indexes in device memory, for its own tile alone, whose next element is not the last. -/
structure PlainTransfer (tile : Nat) (x : StrmSlot) : Prop where
  direct : x.desc.indexed = false
  device : x.desc.space = 0
  more : x.done + 1 < x.desc.total
  alone : x.rings.map RingUse.tile = [tile]

/-- The address of the next element, where no index drives it. -/
def StrmSlot.nextAddr (x : StrmSlot) : Nat := x.desc.addr x.done 0

/-- Where the next element stands in the ring. -/
def StrmSlot.nextPos (x : StrmSlot) : Nat := x.done * x.desc.tmSize

/-- Without indexes and cache an element is what its address holds. -/
theorem State.fetchElem_direct {s : State} {tile : Nat} {x : StrmSlot} (plain : PlainTransfer tile x) (host : List Byte)
    (idx : Word) (poison : Bool) (uncached : ((s.tile tile).cacheUser x || x.desc.broadcasts) = false) :
    let r := s.readMem x.nextAddr x.desc.memSize
    s.fetchElem tile x host idx poison = ⟨x, r.1, r.2, some x.nextAddr, false⟩ := by
  simp only [State.fetchElem, plain.direct, plain.device, uncached, StrmSlot.nextAddr, Bool.false_eq_true, if_false, if_true,
    Bool.false_and]

/-- The slot once its next element has arrived. -/
def StrmSlot.arrived (x : StrmSlot) : StrmSlot :=
  let lines := linesOf x.nextAddr x.desc.memSize
  { x with done := x.done + 1, lastLine := if lines.isEmpty then x.lastLine else lines.getLast?
           released := (x.done + 1) * x.desc.tmSize / 4096 }

/-- The lines that the next element fetches anew. -/
def StrmSlot.newLines (x : StrmSlot) : Nat := ((linesOf x.nextAddr x.desc.memSize).filter fun q => some q != x.lastLine).length

/-- Memory and tiles do not bear on where an address is stored. -/
theorem State.locate_aside (s : State) (tiles : KMap Tile) (mem : Mem) (a : Nat) :
    { s with tiles := tiles, mem := mem }.locate a = s.locate a := rfl

theorem State.locate_putSlot {s u : State} (mem : MemOnly s u) (tile k : Nat) (y : Option StrmSlot) (a : Nat) :
    (u.putSlot tile k y).locate a = s.locate a := by
  obtain ⟨tiles, eq⟩ : ∃ tiles, u.putSlot tile k y = { u with tiles := tiles } := ⟨_, rfl⟩
  rw [eq, mem]
  exact s.locate_aside tiles u.mem a

/-- What is done in the ring of every recipient is done in that of the tile where it is the only one. -/
theorem foldl_rings_alone {x : StrmSlot} {tile : Nat} (alone : x.rings.map RingUse.tile = [tile]) (f : State → Nat → State)
    (s : State) : x.rings.foldl (fun s r => f s r.tile) s = f s tile := by
  rw [← List.foldl_map, alone]; rfl

/-- The bytes of the next element, as the tile takes them. -/
def State.nextBytes (s : State) (x : StrmSlot) : List Byte := x.desc.toTile (s.readMem x.nextAddr x.desc.memSize).1

/-- An element that does not end the transfer is put into the ring of its tile. -/
theorem State.deliver_direct {s : State} {tile k : Nat} {x : StrmSlot} (plain : PlainTransfer tile x) (host : List Byte)
    (idx : Word) (poison : Bool) (uncached : ((s.tile tile).cacheUser x || x.desc.broadcasts) = false)
    (clean : (s.readMem x.nextAddr x.desc.memSize).2 = false) (placed : s.placed x.nextAddr) :
    s.deliver tile k x host idx poison =
      ((s.ringWrite tile x.desc x.nextPos (s.nextBytes x)).putSlot tile k (some x.arrived)).perf (pgTILE tile) 0x100 x.newLines := by
  have ends : ¬ x.done + 1 = x.desc.total := Nat.ne_of_lt plain.more
  have fetch := State.fetchElem_direct plain host idx poison uncached
  have ring := foldl_rings_alone plain.alone fun s' n => s'.ringWrite n x.desc (x.done * x.desc.tmSize)
    (x.desc.toTile (s.readMem x.nextAddr x.desc.memSize).1)
  have holds : ∀ u : State, u.setTile tile ((u.tile tile).setSlot k (some { x with
      done := x.done + 1
      lastLine := if (linesOf x.nextAddr x.desc.memSize).isEmpty then x.lastLine
        else (linesOf x.nextAddr x.desc.memSize).getLast?
      released := (x.done + 1) * x.desc.tmSize / 4096 })) = u.putSlot tile k (some x.arrived) := fun _ => rfl
  have stands : ∀ b, (b && (tileAddr x.nextAddr).isNone && (((s.ringWrite tile x.desc (x.done * x.desc.tmSize)
      (x.desc.toTile (s.readMem x.nextAddr x.desc.memSize).1)).putSlot tile k (some x.arrived)).locate x.nextAddr).isNone) =
      false := fun b => by
    rw [State.locate_putSlot (memOnly_ringWrite s _ _ _ _)]
    exact State.not_hole placed b
  have count : x.arrived.done = x.done + 1 := rfl
  simp only [clean] at fetch
  simp only [State.deliver, fetch, ring, holds, stands, count, ends, plain.direct, plain.device, Bool.false_eq_true, if_false,
    if_true, Bool.not_false, Bool.false_and, Nat.add_zero, State.slot_perf, State.slot_putSlot_self, StrmSlot.newLines,
    StrmSlot.nextPos, State.nextBytes]

/-- A read whose next element has a free page takes it. -/
theorem exec_readLineReturn_one {s : State} {tile : Fin 64} {slot : Fin 8} {x : StrmSlot}
    (found : (s.tile tile).slot slot = some x) (reads : x.desc.write = false) (active : x.st = .active)
    (open_ : x.complete = false) (credit : x.hasCredit = true) :
    exec (.readLineReturn tile slot 1 [] [] false) s =
      .next ((s.deliver tile slot x (hostElem [] x.desc.memSize 0) 0 false).strmSettleAll tile x) := by
  have takes : (!x.desc.write && x.st == .active && !x.complete && x.hasCredit) = true := by
    rw [reads, active, open_, credit]; rfl
  show execReadLineReturn tile slot 1 [] [] false s = _
  simp only [execReadLineReturn, found, List.range_one, List.foldl_cons, List.foldl_nil, takes, if_true, List.getD_nil]

theorem readLineReturn_effect {s : State} {tile : Fin 64} {slot : Fin 8} {x : StrmSlot} (plain : PlainTransfer tile x)
    (idle : s.engineIdle tile) (found : (s.tile tile).slot slot = some x) (reads : x.desc.write = false)
    (active : x.st = .active) (open_ : x.complete = false) (credit : x.hasCredit = true)
    (uncached : ((s.tile tile).cacheUser x || x.desc.broadcasts) = false)
    (clean : (s.readMem x.nextAddr x.desc.memSize).2 = false) (placed : s.placed x.nextAddr) :
    ∃ t, exec (.readLineReturn tile slot 1 [] [] false) s = .next t ∧ (t.tile tile).slot slot = some x.arrived ∧
      t.mem = (s.ringWrite tile x.desc x.nextPos (s.nextBytes x)).mem ∧ EngineFrame tile s t := by
  have delivered := State.deliver_direct (k := slot) plain (hostElem [] x.desc.memSize 0) 0 false uncached clean placed
  have frame := (engineFrame_putSlot (memOnly_ringWrite s tile x.desc x.nextPos (s.nextBytes x)) tile slot
    (some x.arrived)).perf 0x100 x.newLines
  refine ⟨_, ?_, ?_, ?_, frame⟩
  · rw [exec_readLineReturn_one found reads active open_ credit, delivered,
      State.strmSettleAll_of_engineIdle (frame.engineIdle idle) plain.alone]
  · rw [State.slot_perf, State.slot_putSlot_self]
  · rw [State.perf_mem]; rfl

/-! ## An element of a write is acknowledged (R93) -/

/-- The next element of a write, as its producer put it into the ring. -/
def State.ringElem (s : State) (tile : Nat) (x : StrmSlot) (n : Nat) : List Byte :=
  (s.ringRead tile x.desc (n * x.desc.tmSize) x.desc.tmSize {}).1

theorem State.destOf_direct (s : State) {d : Desc} (direct : d.indexed = false) (n : Nat) (idx : Word) :
    s.destOf d n idx = (some (0, d.addr n 0), false) := by
  simp only [State.destOf, direct, Bool.false_eq_true, if_false]

/-- The memory once the next element of a write stands at its destination. -/
def State.elemWritten (s : State) (tile : Nat) (x : StrmSlot) : State :=
  s.writeMem (pgTILE tile) x.nextAddr (x.desc.toMem (s.ringElem tile x x.done)) false

theorem State.writeElem_direct {s : State} {tile : Nat} {x : StrmSlot} (plain : PlainTransfer tile x) (k : Nat) (idx : Word) :
    s.writeElem tile k x idx {} = (s.elemWritten tile x, x) := by
  simp only [State.writeElem, s.destOf_direct plain.direct, plain.direct, plain.device, State.ringRead_clean,
    Bool.false_eq_true, if_false, if_true, Bool.false_and, Nat.add_zero]
  rfl

/-- The slot once its next element is acknowledged. -/
def StrmSlot.acked (x : StrmSlot) : StrmSlot := { x with done := x.done + 1 }

/-- An element that does not end the transfer is written to its destination. -/
theorem State.ackElem_direct {s : State} {tile k : Nat} {x : StrmSlot} (plain : PlainTransfer tile x) (stores : x.desc.combine = 0)
    (placeless : x.desc.ownEn = false) (idx : Word) :
    s.ackElem tile k x idx {} = ((s.elemWritten tile x).putSlot tile k (some x.acked)).perf (pgTILE tile) 0x101 1 := by
  have ends : ¬ x.done + 1 = x.desc.total := Nat.ne_of_lt plain.more
  have apart : (decide (1 ≤ x.desc.combine) && decide (x.desc.combine ≤ 4)) = false := by rw [stores]; rfl
  simp only [State.ackElem, apart, placeless, State.writeElem_direct plain, ends, bne_self_eq_false, Bool.false_or,
    Bool.false_eq_true, if_false]
  rfl

/-- A write whose next element has been handed over has it acknowledged. -/
theorem exec_writeAck_one {s : State} {tile : Fin 64} {slot : Fin 8} {x : StrmSlot}
    (found : (s.tile tile).slot slot = some x) (can : s.canAck x = true) :
    exec (.writeAck tile slot 1 [] {} true) s = .next ((s.ackElem tile slot x 0 {}).strmSettle tile) := by
  show execWriteAck tile slot 1 [] {} true s = _
  simp only [execWriteAck, found, List.range_one, List.foldl_cons, List.foldl_nil, can, if_true, List.getD_nil, Bool.not_true,
    Bool.false_and, Bool.false_eq_true, if_false]
  split <;> rfl

theorem writeAck_effect {s : State} {tile : Fin 64} {slot : Fin 8} {x : StrmSlot} (plain : PlainTransfer tile x)
    (idle : s.engineIdle tile) (found : (s.tile tile).slot slot = some x) (writes : x.desc.write = true)
    (active : x.st = .active) (open_ : x.complete = false) (stores : x.desc.combine = 0) (placeless : x.desc.ownEn = false)
    (handed : (x.done + 1) * x.desc.tmSize ≤ x.handedBytes) (placed : s.placed x.nextAddr) :
    ∃ t, exec (.writeAck tile slot 1 [] {} true) s = .next t ∧ (t.tile tile).slot slot = some x.acked ∧
      t.mem = (s.elemWritten tile x).mem ∧ EngineFrame tile s t := by
  have can : s.canAck x = true := by
    simp [State.canAck, writes, active, open_, stores, handed, plain.device]
  have frame := (engineFrame_putSlot (memOnly_writeMem placed (pgTILE tile) (x.desc.toMem (s.ringElem tile x x.done)) false)
    tile slot (some x.acked)).perf 0x101 1
  refine ⟨_, ?_, ?_, ?_, frame⟩
  · rw [exec_writeAck_one found can, State.ackElem_direct plain stores placeless]
    exact congrArg _ (State.strmSettle_of_engineIdle (frame.engineIdle idle))
  · rw [State.slot_perf, State.slot_putSlot_self]
  · rw [State.perf_mem]; rfl

/-! ## A destination combines an element (R86, R87) -/

/-- The memory once a destination has combined the next element of a combining write. -/
def State.elemCombined (s : State) (tile : Nat) (x : StrmSlot) : State :=
  let a := x.desc.addr x.applied 0
  s.writeMem (pgTILE tile) a (x.desc.combineBytes (s.readMem a x.desc.memSize).1 (x.desc.toMem (s.ringElem tile x x.applied)))
    (s.readMem a x.desc.memSize).2

theorem combineRequest_effect {s : State} {tile : Fin 64} {slot : Fin 8} {x : StrmSlot} (plain : PlainTransfer tile x)
    (found : (s.tile tile).slot slot = some x) (writes : x.desc.write = true)
    (active : x.st = .active) (open_ : x.complete = false) (low : 1 ≤ x.desc.combine) (high : x.desc.combine ≤ 4)
    (handed : (x.applied + 1) * x.desc.tmSize ≤ x.handedBytes) (placed : s.placed (x.desc.addr x.applied 0)) :
    ∃ t, exec (.combineRequest tile slot 0) s = .next t ∧
      (t.tile tile).slot slot = some { x with applied := x.applied + 1 } ∧
      t.mem = (s.elemCombined tile x).mem ∧ EngineFrame tile s t := by
  have takes : (x.desc.write && x.st == .active && !x.complete && decide (1 ≤ x.desc.combine) && decide (x.desc.combine ≤ 4) &&
      decide ((x.applied + 1) * x.desc.tmSize ≤ x.handedBytes)) = true := by
    simp [writes, active, open_, low, high, handed]
  refine ⟨(s.elemCombined tile x).putSlot tile slot (some { x with applied := x.applied + 1 }), ?_,
    State.slot_putSlot_self _ _ _ _, rfl, engineFrame_putSlot (memOnly_writeMem placed _ _ _) tile slot _⟩
  show execCombineRequest tile slot 0 s = _
  simp only [execCombineRequest, found, takes, s.destOf_direct plain.direct, plain.device, Bool.not_true, Bool.false_eq_true,
    if_false, if_true, Nat.add_zero]
  rfl

/-- Settles O17: an arrival, an acknowledgement and a combination, each by the effect of its command. -/
theorem streamElements : Obligations.StreamElements := by
  unfold Obligations.StreamElements
  intro s tile slot x found active open_ device direct more idle alone
  have plain : PlainTransfer tile x := ⟨direct, device, more, alone⟩
  refine ⟨fun reads credit uncached clean placed => ?_, fun writes stores placeless handed placed => ?_,
    fun writes low high handed placed => ?_⟩
  · obtain ⟨t, run, stands, mem, frame⟩ :=
      readLineReturn_effect plain idle found reads active open_ credit uncached clean placed
    exact ⟨t, _, run, stands, rfl, rfl, rfl, rfl, mem, frame⟩
  · obtain ⟨t, run, stands, mem, frame⟩ :=
      writeAck_effect plain idle found writes active open_ stores placeless handed placed
    exact ⟨t, _, run, stands, rfl, rfl, rfl, mem, frame⟩
  · obtain ⟨t, run, stands, mem, frame⟩ :=
      combineRequest_effect plain found writes active open_ low high handed placed
    exact ⟨t, _, run, stands, rfl, rfl, mem, frame⟩

end Sys2Proof.Machine

namespace Sys2Proof.Machine
open Sys2Proof

/-! ## A translation is answered (R104, R396) -/

/-- A descriptor of host memory without indexes that is under way on its engine asks for a translation. -/
structure AsksTranslation (s : State) (tile : Fin 64) (slot : Fin 8) (x : StrmSlot) : Prop where
  found : (s.tile tile).slot slot = some x
  host : x.desc.space = 1
  direct : x.desc.indexed = false
  active : x.st = .active
  open_ : x.complete = false
  on : s.xlateOn = true

theorem AsksTranslation.takes {s : State} {tile : Fin 64} {slot : Fin 8} {x : StrmSlot} (h : AsksTranslation s tile slot x) :
    ((x.desc.space == 1 || (x.desc.indexed && x.desc.idxSpace == 1)) && x.st == .active && !x.complete) = true := by
  rw [h.host, h.active, h.open_]; rfl

/-- The translation cache with a page as its most recent entry. -/
def Link.cached (link : Link) (page pasid : Nat) : List (Nat × Nat) :=
  ((page, pasid) :: link.atc.filter (· != (page, pasid))).take 8192

theorem exec_xlateResponse_ok {s : State} {tile : Fin 64} {slot : Fin 8} {x : StrmSlot} (h : AsksTranslation s tile slot x)
    (addr : Word) :
    exec (.xlateResponse tile slot true addr) s = .next (s.setAtc (s.link.cached (addr.toNat / 4096) x.desc.pasid)) := by
  show execXlateResponse tile slot true addr s = _
  simp only [execXlateResponse, h.found, h.takes, h.on, Bool.not_true, Bool.false_eq_true, if_false, if_true]
  rfl

/-- A translation that returns enters the cache. -/
theorem xlateResponse_ok_effect {s : State} {tile : Fin 64} {slot : Fin 8} {x : StrmSlot} {link : Nat}
    (h : AsksTranslation s tile slot x) (prim : s.primary = some link) (addr : Word) :
    ∃ t, exec (.xlateResponse tile slot true addr) s = .next t ∧
      t.link.atc = s.link.cached (addr.toNat / 4096) x.desc.pasid ∧
      t.fld (pgULNK link) Reg.ULNK_ATS_ENTRIES = t.link.atc.length ∧
      t = { s with regs := t.regs, link := { s.link with atc := t.link.atc } } ∧
      RegFrame (Reg.ULNK_ATS_ENTRIES.bits (pgULNK link)) s t := by
  have few : (s.link.cached (addr.toNat / 4096) x.desc.pasid).length < 2 ^ 14 :=
    lt_of_le_of_lt (List.length_take_le 8192 _) (by decide)
  obtain ⟨entries, only, frame⟩ := setAtc_effect prim few
  have atc : (s.setAtc (s.link.cached (addr.toNat / 4096) x.desc.pasid)).link.atc =
      s.link.cached (addr.toNat / 4096) x.desc.pasid := by rw [only]
  exact ⟨_, exec_xlateResponse_ok h addr, atc, by rw [atc, entries], by rw [atc]; exact only, frame⟩

/-! ## Page requests (R397) -/

/-- Nothing is sent while no request waits. -/
theorem State.sendPageReqs_none {s : State} {l : Nat} (prim : s.primary = some l) (waits : s.link.priWait = []) :
    s.sendPageReqs = s.setFld (pgULNK l) Reg.ULNK_PRI_OUTSTANDING s.link.pri.length := by
  have same : ({ s.link with pri := s.link.pri ++ [], priWait := [] } : Link) = s.link := by rw [List.append_nil, ← waits]
  simp only [State.sendPageReqs, prim, waits, List.take_nil, List.drop_nil, List.foldl_nil, same]

/-- The one request that waits is sent where the allocation has room. -/
theorem State.sendPageReqs_one {s : State} {l : Nat} {q : PageReq} (prim : s.primary = some l) (waits : s.link.priWait = [q])
    (room : s.link.pri.length < min (s.fld (pgULNK l) Reg.ULNK_PRI_ALLOC) 512) :
    ∃ regs, s.sendPageReqs = { s with
      regs := regs
      link := { s.link with pri := s.link.pri ++ [q], priWait := [] }
      out := .pri l q.pasid (q.page * 4096) q.write :: s.out } := by
  obtain ⟨n, more⟩ : ∃ n, min (s.fld (pgULNK l) Reg.ULNK_PRI_ALLOC) 512 - s.link.pri.length = n + 1 :=
    ⟨_, (Nat.succ_pred_eq_of_pos (Nat.sub_pos_of_lt room)).symm⟩
  simp only [State.sendPageReqs, prim, waits, more, List.take_succ_cons, List.take_nil, List.drop_succ_cons, List.drop_nil,
    List.foldl_cons, List.foldl_nil]
  generalize sent : State.emit _ _ = u
  have counted : RegsOnly u (u.addWrap (pgULNK l) Reg.ULNK_PRI_REQUESTS 1) := rfl
  obtain ⟨regs, only⟩ : ∃ regs, (u.addWrap (pgULNK l) Reg.ULNK_PRI_REQUESTS 1).setFld (pgULNK l) Reg.ULNK_PRI_OUTSTANDING
      (u.addWrap (pgULNK l) Reg.ULNK_PRI_REQUESTS 1).link.pri.length = { u with regs := regs } :=
    ⟨_, counted.trans (regsOnly_setFld _ (pgULNK l) Reg.ULNK_PRI_OUTSTANDING _)⟩
  exact ⟨regs, only.trans (by rw [← sent]; rfl)⟩

/-- The slot whose descriptor waits for its page. -/
def StrmSlot.asks (x : StrmSlot) (addr : Nat) : StrmSlot := { x with st := .pfWait, restart := some x.done, faultAddr := addr }

/-- The request for the page of a descriptor without indexes. -/
def StrmSlot.pageReq (x : StrmSlot) (addr : Nat) : PageReq :=
  { page := addr / 4096, pasid := x.desc.pasid, write := x.desc.write }

/-- The state in which a request waits for its allocation, before it is sent. -/
def State.queuePage (s : State) (tile slot : Nat) (x : StrmSlot) (addr : Nat) : State :=
  let u := s.putSlot tile slot (some (x.asks addr))
  { u with link := { u.link with priWait := u.link.priWait ++ [x.pageReq addr] } }.perf (pgTILE tile) 0x105 1

theorem exec_xlateResponse_refused {s : State} {tile : Fin 64} {slot : Fin 8} {x : StrmSlot} (h : AsksTranslation s tile slot x)
    (addr : Word)
    (first : ∀ r ∈ s.link.pri ++ s.link.priWait, ¬ (r.page = addr.toNat / 4096 ∧ r.pasid = x.desc.pasid)) :
    exec (.xlateResponse tile slot false addr) s = .next (s.queuePage tile slot x addr.toNat).sendPageReqs := by
  have new : ((s.putSlot tile slot (some (x.asks addr.toNat))).link.pri ++
      (s.putSlot tile slot (some (x.asks addr.toNat))).link.priWait).any
        (fun r => r.page == addr.toNat / 4096 && r.pasid == x.desc.pasid) = false := by
    refine List.any_eq_false.2 fun r hr both => first r hr ?_
    simpa using both
  have request : ({ page := addr.toNat / 4096, pasid := x.desc.pasid, write := x.desc.write && !(x.desc.indexed &&
      x.desc.idxSpace == 1 && addr.toNat == x.desc.indexAddr x.done) } : PageReq) = x.pageReq addr.toNat := by
    rw [h.direct, Bool.false_and, Bool.false_and, Bool.not_false, Bool.and_true]; rfl
  have waits : s.setTile tile ((s.tile tile).setSlot slot (some { x with
      st := .pfWait, restart := some x.done, faultAddr := addr.toNat })) = s.putSlot tile slot (some (x.asks addr.toNat)) := rfl
  show execXlateResponse tile slot false addr s = _
  simp only [execXlateResponse, h.found, h.takes, h.on, Bool.not_true, Bool.false_eq_true, if_false, request, waits, new,
    State.queuePage]

/-- Counting an event of a tile leaves the primary link and its allocation alone. -/
theorem State.queuePage_link {s : State} {tile slot l : Nat} (x : StrmSlot) (addr : Nat) (prim : s.primary = some l)
    (hl : l < 3) : (s.queuePage tile slot x addr).primary = some l ∧
      (s.queuePage tile slot x addr).fld (pgULNK l) Reg.ULNK_PRI_ALLOC = s.fld (pgULNK l) Reg.ULNK_PRI_ALLOC ∧
      (s.queuePage tile slot x addr).link = { s.link with priWait := s.link.priWait ++ [x.pageReq addr] } := by
  let u := s.putSlot tile slot (some (x.asks addr))
  let w : State := { u with link := { u.link with priWait := u.link.priWait ++ [x.pageReq addr] } }
  obtain ⟨only, frame⟩ := onlyBits_perf w (pgTILE tile) 0x105 1
  have far : ∀ {n}, n < 3 → pgULNK n ≠ pgTILE tile := fun h => by unfold pgULNK pgTILE; omega
  refine ⟨(frame.primary fun n i hn h => far hn h.1).trans prim, ?_, congrArg State.link only⟩
  exact frame.fld (by unfold pgULNK; omega) (by decide) fun i _ _ h => far hl h.1

/-- A translation that is refused puts the descriptor to wait and asks for its page. -/
theorem xlateResponse_refused_effect {s : State} {tile : Fin 64} {slot : Fin 8} {x : StrmSlot} {link : Nat}
    (h : AsksTranslation s tile slot x) (prim : s.primary = some link) (hl : link < 3) (addr : Word)
    (first : ∀ r ∈ s.link.pri ++ s.link.priWait, ¬ (r.page = addr.toNat / 4096 ∧ r.pasid = x.desc.pasid))
    (waits : s.link.priWait = []) (room : s.link.pri.length < min (s.fld (pgULNK link) Reg.ULNK_PRI_ALLOC) 512) :
    ∃ t, exec (.xlateResponse tile slot false addr) s = .next t ∧
      (t.tile tile).slot slot = some (x.asks addr.toNat) ∧ t.link.pri = s.link.pri ++ [x.pageReq addr.toNat] ∧
      t.out = .pri link x.desc.pasid (addr.toNat / 4096 * 4096) x.desc.write :: s.out := by
  obtain ⟨prim', alloc, links⟩ := s.queuePage_link (slot := slot) (tile := tile) x addr.toNat prim hl
  have waits' : (s.queuePage tile slot x addr.toNat).link.priWait = [x.pageReq addr.toNat] := by rw [links, waits]; rfl
  have pri' : (s.queuePage tile slot x addr.toNat).link.pri = s.link.pri := by rw [links]
  have slots : ((s.queuePage tile slot x addr.toNat).tile tile).slot slot = some (x.asks addr.toNat) :=
    (State.slot_perf _ _ _ _ _ _).trans (State.slot_putSlot_self s tile slot _)
  have out : (s.queuePage tile slot x addr.toNat).out = s.out := by rw [State.queuePage, State.perf_eq]; rfl
  obtain ⟨regs, sent⟩ := State.sendPageReqs_one prim' waits' (by rw [pri', alloc]; exact room)
  refine ⟨_, exec_xlateResponse_refused h addr first, ?_, ?_, ?_⟩
  · rw [sent]; exact slots
  · rw [sent]; exact congrArg (· ++ [x.pageReq addr.toNat]) pri'
  · rw [sent, out]; rfl

/-! ## The host answers a page request (R105, R397) -/

/-- The state in which a page request is no longer out. -/
def State.endPageReq (s : State) (page pasid : Nat) : State :=
  { s with link := { s.link with pri := s.link.pri.filter fun r => !(r.page == page && r.pasid == pasid) } }

/-- The slot whose descriptor goes on. -/
def StrmSlot.resumed (x : StrmSlot) : StrmSlot := { x with st := .active, restart := none, faultAddr := 0 }

/-- A descriptor that waited goes on. -/
def State.resumeStrm (s : State) (q : Nat × Nat × StrmSlot) : State := s.putSlot q.1 q.2.1 (some q.2.2.resumed)

/-- A descriptor asked for the page. -/
def StrmSlot.waitsFor (page pasid : Nat) (x : StrmSlot) : Bool := x.faultAddr / 4096 == page && x.desc.pasid == pasid

theorem exec_pageResponse_success {s : State} {page : Nat} {pasid : BitVec 20}
    (out : ∃ r ∈ s.link.pri, r.page = page ∧ r.pasid = pasid.toNat) :
    exec (.pageResponse page pasid .success) s = .next
      (let u := (s.endPageReq page pasid.toNat).sendPageReqs
       (u.pfWaiters (StrmSlot.waitsFor page pasid.toNat)).foldl State.resumeStrm u) := by
  obtain ⟨r, mem, hpage, hpasid⟩ := out
  have any : s.link.pri.any (fun r => r.page == page && r.pasid == pasid.toNat) = true :=
    List.any_eq_true.2 ⟨r, mem, by rw [hpage, hpasid]; simp⟩
  show execPageResponse page pasid .success s = _
  simp only [execPageResponse, any, Bool.not_true, Bool.false_eq_true, if_false]
  rfl

theorem State.mem_pfWaiters {s : State} {p : StrmSlot → Bool} {t k : Nat} {x : StrmSlot} :
    (t, k, x) ∈ s.pfWaiters p ↔ t < 64 ∧ k < 8 ∧ (s.tile t).slot k = some x ∧ x.st = .pfWait ∧ p x = true := by
  simp only [State.pfWaiters, List.mem_flatMap, List.mem_filterMap, List.mem_range]
  constructor
  · rintro ⟨t', ht, k', hk, some_⟩
    split at some_
    case h_1 y held =>
      rw [Option.ite_none_right_eq_some] at some_
      obtain ⟨waits, same⟩ := some_
      obtain ⟨rfl, rfl, rfl⟩ : t' = t ∧ k' = k ∧ y = x := by simpa using same
      exact ⟨ht, hk, held, by simpa using waits⟩
    case h_2 => exact nomatch some_
  · rintro ⟨ht, hk, held, waits, asked⟩
    refine ⟨t, ht, k, hk, ?_⟩
    rw [held]
    simp [waits, asked]

/-- A descriptor of a list, all of whose entries for its slot are the same, goes on. -/
theorem slot_foldl_resumeStrm {t k : Nat} {x : StrmSlot} (l : List (Nat × Nat × StrmSlot)) (s : State) :
    (t, k, x) ∈ l → (∀ y, (t, k, y) ∈ l → y = x) → ((l.foldl State.resumeStrm s).tile t).slot k = some x.resumed := by
  induction l using List.reverseRecOn with
  | nil => exact fun mem => absurd mem List.not_mem_nil
  | append_singleton l q ih =>
    intro mem same
    obtain ⟨n, j, y⟩ := q
    rw [List.foldl_concat, State.resumeStrm]
    by_cases here : t = n ∧ k = j
    · obtain ⟨rfl, rfl⟩ := here
      rw [State.slot_putSlot_self, same y (by simp)]
    · rw [State.slot_putSlot_ne _ _ here]
      refine ih ?_ fun y hy => same y (List.mem_append_left _ hy)
      refine (List.mem_append.1 mem).resolve_right fun last => here ?_
      obtain ⟨rfl, rfl, _⟩ : t = n ∧ k = j ∧ x = y := by simpa using last
      exact ⟨rfl, rfl⟩

theorem link_foldl_resumeStrm (l : List (Nat × Nat × StrmSlot)) (s : State) : (l.foldl State.resumeStrm s).link = s.link :=
  List.foldlRecOn l _ (motive := fun u : State => u.link = s.link) rfl fun _ h _ _ => h

/-- A page response of success lets the descriptors go on that wait for the page. -/
theorem pageResponse_success_effect {s : State} {tile : Fin 64} {slot : Fin 8} {x : StrmSlot} {link page : Nat}
    {pasid : BitVec 20} (found : (s.tile tile).slot slot = some x) (waits : x.st = .pfWait) (hpage : x.faultAddr / 4096 = page)
    (hpasid : x.desc.pasid = pasid.toNat) (prim : s.primary = some link) (quiet : s.link.priWait = [])
    (out : ∃ r ∈ s.link.pri, r.page = page ∧ r.pasid = pasid.toNat) :
    ∃ t, exec (.pageResponse page pasid .success) s = .next t ∧ (t.tile tile).slot slot = some x.resumed ∧
      ∀ r, r ∈ t.link.pri ↔ r ∈ s.link.pri ∧ ¬ (r.page = page ∧ r.pasid = pasid.toNat) := by
  have sent := State.sendPageReqs_none (s := s.endPageReq page pasid.toNat) prim quiet
  have found' : ((s.endPageReq page pasid.toNat).sendPageReqs.tile tile).slot slot = some x := by rw [sent]; exact found
  refine ⟨_, exec_pageResponse_success out, slot_foldl_resumeStrm _ _ ?_ fun y hy => ?_, fun r => ?_⟩
  · exact State.mem_pfWaiters.2 ⟨tile.isLt, slot.isLt, found', waits, by simp [StrmSlot.waitsFor, hpage, hpasid]⟩
  · obtain ⟨_, _, held, _⟩ := State.mem_pfWaiters.1 hy
    exact Option.some.inj (held.symm.trans found')
  · rw [link_foldl_resumeStrm, sent]
    simp [State.endPageReq, imp_iff_not_or]

/-! ## Bytes of a memory after a write -/

theorem cell_setCell (m : List Host.Cell) (k j : Nat) (b : Byte) : cell (setCell m k b) j = if j = k then b else cell m j :=
  kget_kset m k j b

/-- A cell after consecutive cells are written. -/
theorem cell_setCells (bs : List Byte) : ∀ (m : List Host.Cell) (k j : Nat),
    cell (setCells m k bs) j = if k ≤ j then (bs[j - k]?).getD (cell m j) else cell m j := by
  induction bs with
  | nil => intro m k j; simp [setCells]
  | cons b bs ih =>
    intro m k j
    rw [setCells, ih, cell_setCell]
    rcases Nat.lt_trichotomy j k with below | rfl | above
    · rw [if_neg (by omega), if_neg (by omega), if_neg (by omega)]
    · rw [if_neg (by omega), if_pos rfl, if_pos le_rfl, Nat.sub_self]; rfl
    · rw [if_pos (by omega), if_neg (by omega), if_pos (by omega), show j - k = j - (k + 1) + 1 by omega,
        List.getElem?_cons_succ]

/-! ## No page response in time (R105) -/

/-- The status and the cause stand first in a completion record (Table STRM-5). -/
theorem strmRecord_partial (x : StrmSlot) : ∃ rest, strmRecord x 1 1 false = 1 :: 1 :: rest := by
  have low : byte (1 + 1 * 2 ^ 8 + x.thread * 2 ^ 16 + 0) = 1 := BitVec.eq_of_toNat_eq (by simp [byte]; omega)
  have high : byte ((1 + 1 * 2 ^ 8 + x.thread * 2 ^ 16 + 0) / 256) = 1 := BitVec.eq_of_toNat_eq (by simp [byte]; omega)
  exact ⟨_, congrArg₂ (fun a b => a :: b :: _) low high⟩

theorem Tile.wakeWaiters_none {t : Tile} (waits : ∀ k, k < 8 → (t.thread k).wait = none) (slot : Nat) : t.wakeWaiters slot = t := by
  unfold Tile.wakeWaiters
  refine foldl_eq_self fun k hk => ?_
  simp only [waits k (List.mem_range.1 hk), reduceCtorEq, if_false]

/-- The end of a write that wakes no thread: its record is written and its slot is free. -/
theorem State.endStrm_write {s : State} {tile k : Nat} {x : StrmSlot} (idle : s.engineIdle tile)
    (found : (s.tile tile).slot k = some x) (open_ : x.complete = false) (writes : x.desc.write = true) (own : x.desc.peal = 0)
    (status cause : Nat) :
    s.endStrm tile k status cause =
      (s.tmWrite tile x.desc.cplOff (strmRecord x status cause false)).putSlot tile k none := by
  have record : s.writeRecord tile x status cause = s.tmWrite tile x.desc.cplOff (strmRecord x status cause false) := by
    rw [State.writeRecord, if_pos own]
  have same : (s.tmWrite tile x.desc.cplOff (strmRecord x status cause false)).tile tile = s.tile tile := rfl
  simp only [State.endStrm, found, open_, record, same, writes, Bool.not_true, Bool.false_and, Bool.false_eq_true, if_false,
    Tile.wakeWaiters_none idle.2, State.putSlot]

theorem exec_pfTimeout {s : State} {tile : Fin 64} {slot : Fin 8} {x : StrmSlot} (found : (s.tile tile).slot slot = some x)
    (waits : x.st = .pfWait) : exec (.pfTimeout tile slot) s = .next (s.partialEnd 1 [(tile.val, slot.val, x)]) := by
  show execPfTimeout tile slot s = _
  simp only [execPfTimeout, found, waits, bne_self_eq_false, Bool.false_eq_true, if_false]

/-- A descriptor that ends short fails its plan where it says so. -/
theorem State.partialEnd_fails {s : State} {tile k p : Nat} {x : StrmSlot} (fails : x.desc.onError = true)
    (slot : s.slotOfTile tile = some p) (cause : Nat) :
    s.partialEnd cause [(tile, k, x)] =
      let ended := (s.endStrm tile k 1 cause).error (pgTILE tile) Src.tile_STRM_XLATE
      (ended.fresh.2.failPlan p (ended.fresh.1 % 256)).strmSettle tile := by
  simp [State.partialEnd, fails, slot, List.eraseDups_cons]

/-- Failing a plan changes its state and its reason alone. -/
theorem failPlan_effect (s : State) {p : Nat} (hp : p < 16) (reason : Nat) :
    (s.failPlan p reason).slotState p = 7 ∧ OnlyBits slotBits s (s.failPlan p reason) := by
  have failed := (OnlyBits.start slotBits s).setFld (f := Reg.PLAN_P_STAT_STATE p) 7 (slotField_ok hp) fun _ _ _ =>
    ⟨rfl, Nat.le_add_right _ _⟩
  exact ⟨(State.slotState_setReason _ reason hp hp).trans (State.slotState_setSlotState_self s hp (by decide)),
    failed.setFld (f := Reg.PLAN_P_STAT_REASON p) reason (reasonField_ok hp) fun _ _ _ => ⟨rfl, Nat.le_add_right _ _⟩⟩

/-- An engine is idle in every state in which its tile is the same. -/
theorem State.engineIdle.congr {s t : State} {tile : Nat} (idle : s.engineIdle tile) (same : t.tile tile = s.tile tile) :
    t.engineIdle tile :=
  ⟨by rw [same]; exact idle.1, fun k hk => by rw [State.thread, same]; exact idle.2 k hk⟩

theorem State.slotOfTile_lt {s : State} {tile p : Nat} (h : s.slotOfTile tile = some p) : p < 16 :=
  List.mem_range.1 (List.mem_of_find?_eq_some h)

/-- Recording an error and failing a plan, with a reason of the model's choice, leave tiles and memory alone. -/
theorem error_failPlan_effect (s : State) {page src p : Nat} (hpage : page < 512) (other : page ≠ pgPLAN) (hs : src < 64)
    (quiet : s.quietError page src) (hp : p < 16) :
    let e := (s.error page src).fresh
    let t := e.2.failPlan p (e.1 % 256)
    t.tiles = s.tiles ∧ t.mem = s.mem ∧ t.slotState p = 7 ∧ Recorded page src t := by
  intro e t
  obtain ⟨ints, _, recorded⟩ := recordError_effect s false 0 hpage hs quiet
  have tiles : (s.error page src).tiles = s.tiles := (congrArg State.tiles ints).trans rfl
  have mem : (s.error page src).mem = s.mem := (congrArg State.mem ints).trans rfl
  obtain ⟨failed, only, frame⟩ := failPlan_effect e.2 hp (e.1 % 256)
  exact ⟨(congrArg State.tiles only).trans tiles, (congrArg State.mem only).trans mem, failed,
    Recorded.of_frame (s := e.2) recorded frame hpage fun h => other h.1⟩

/-- A write that waits in vain for its page ends as 1 PARTIAL with cause 1, and its plan fails where it says so. -/
theorem pfTimeout_effect {s : State} {tile : Fin 64} {slot : Fin 8} {x : StrmSlot} {p : Nat} (idle : s.engineIdle tile)
    (found : (s.tile tile).slot slot = some x) (open_ : x.complete = false) (waits : x.st = .pfWait)
    (writes : x.desc.write = true) (own : x.desc.peal = 0) (fails : x.desc.onError = true)
    (held : s.slotOfTile tile = some p) (quiet : s.quietError (pgTILE tile) Src.tile_STRM_XLATE) :
    ∃ t, exec (.pfTimeout tile slot) s = .next t ∧ (t.tile tile).slot slot = none ∧ t.slotState p = 7 ∧
      Recorded (pgTILE tile) Src.tile_STRM_XLATE t ∧ t.tmRead tile x.desc.cplOff 2 = [1, 1] := by
  have hp := State.slotOfTile_lt held
  have ended := State.endStrm_write idle found open_ writes own 1 1
  have frame := engineFrame_putSlot (s := s) (u := s.tmWrite tile x.desc.cplOff (strmRecord x 1 1 false)) rfl tile slot none
  have freed := State.slot_putSlot_self (s.tmWrite tile x.desc.cplOff (strmRecord x 1 1 false)) tile slot none
  have memory : ((s.tmWrite tile x.desc.cplOff (strmRecord x 1 1 false)).putSlot tile slot none).mem.tile =
      setCells s.mem.tile (tmKey tile x.desc.cplOff) (strmRecord x 1 1 false) := rfl
  have quiet' : ((s.tmWrite tile x.desc.cplOff (strmRecord x 1 1 false)).putSlot tile slot none).quietError (pgTILE tile)
      Src.tile_STRM_XLATE := quiet
  generalize (s.tmWrite tile x.desc.cplOff (strmRecord x 1 1 false)).putSlot tile slot none = u at ended frame freed memory quiet'
  obtain ⟨tiles, mem, failed, recorded⟩ := error_failPlan_effect u (by unfold pgTILE; omega)
    (by unfold pgTILE pgPLAN; omega) (by decide) quiet' hp
  have run := State.partialEnd_fails (k := slot.val) fails held 1
  simp only [ended] at run
  generalize ((u.error (pgTILE tile) Src.tile_STRM_XLATE).fresh.2.failPlan p _) = t at run tiles mem failed recorded
  have same : t.tile tile = u.tile tile := by unfold State.tile; rw [tiles]
  rw [State.strmSettle_of_engineIdle ((frame.engineIdle idle).congr same)] at run
  refine ⟨t, (exec_pfTimeout found waits).trans (congrArg _ run), by rw [same, freed], failed, recorded, ?_⟩
  obtain ⟨rest, record⟩ := strmRecord_partial x
  simp [State.tmRead, cells, List.range_succ, mem, memory, cell_setCells, record]

/-- Settles O18: an answered translation enters the cache, a refused one makes the descriptor wait and asks for its page,
and the descriptor goes on with the page or ends short without it. -/
theorem translations : Obligations.Translations := by
  unfold Obligations.Translations
  intro s tile slot addr x link found open_ host direct prim hl page
  refine ⟨fun active on => ?_, fun active on first waits room => ?_, fun pasid waits hpage hpasid quiet out => ?_,
    fun p waits held fails own writes idle quiet => ?_⟩
  · exact xlateResponse_ok_effect ⟨found, host, direct, active, open_, on⟩ prim addr
  · obtain ⟨t, run, slots, requests, sent⟩ :=
      xlateResponse_refused_effect ⟨found, host, direct, active, open_, on⟩ prim hl addr first waits room
    exact ⟨t, x.asks addr.toNat, run, slots, rfl, rfl, rfl, requests, sent⟩
  · obtain ⟨t, run, slots, requests⟩ := pageResponse_success_effect found waits hpage hpasid prim quiet out
    exact ⟨t, x.resumed, run, slots, rfl, rfl, requests⟩
  · exact pfTimeout_effect idle found open_ waits writes own fails held quiet

end Sys2Proof.Machine

namespace Sys2Proof.Machine
open Sys2Proof

/-! ## The bytes of a line stand at consecutive storage places (R357, R366)

Zones, their bases and the halves of store memory are whole numbers of lines, so that a line of addresses is a line of
storage. -/

/-- A line does not straddle a multiple of a size that is a whole number of lines. -/
theorem div_add_of_line {c o j : Nat} (hc : 64 ∣ c) (line : o % 64 + j < 64) : (o + j) / c = o / c := by
  obtain ⟨m, rfl⟩ := hc
  rw [← Nat.div_div_eq_div_mul, ← Nat.div_div_eq_div_mul, show (o + j) / 64 = o / 64 by omega]

theorem mod_add_of_line {c o j : Nat} (hc : 64 ∣ c) (line : o % 64 + j < 64) : (o + j) % c = o % c + j := by
  have same := div_add_of_line hc line
  have whole := Nat.div_add_mod (o + j) c
  have part := Nat.div_add_mod o c
  rw [same] at whole
  omega

/-- A bound that is a whole number of lines does not part a line. -/
theorem lt_add_of_line {c o j : Nat} (hc : 64 ∣ c) (line : o % 64 + j < 64) : o + j < c ↔ o < c := by omega

theorem hbmMap_eq_some {o base zs : Nat} {list : List Nat} {p : Nat × Nat} :
    hbmMap o base zs list = some p ↔ list.length ≠ 0 ∧ o / 256 / list.length < zs / 256 ∧
      ∃ pc, list[(o / 256 % list.length + o / 256 / list.length % list.length) % list.length]? = some pc ∧
        (pc, base + o / 256 / list.length * 256 + o % 256) = p := by
  simp only [hbmMap, ge_iff_le, Option.ite_none_left_eq_some, Option.map_eq_some_iff, not_le, ne_eq]

theorem hbmMap_line {o base zs j : Nat} {list : List Nat} {p : Nat × Nat} (found : hbmMap o base zs list = some p)
    (line : o % 64 + j < 64) : hbmMap (o + j) base zs list = some (p.1, p.2 + j) := by
  have unit : (o + j) / 256 = o / 256 := div_add_of_line (by decide) line
  have rest : (o + j) % 256 = o % 256 + j := mod_add_of_line (by decide) line
  obtain ⟨some_, backed, pc, member, rfl⟩ := hbmMap_eq_some.1 found
  exact hbmMap_eq_some.2 ⟨some_, by rw [unit]; exact backed, pc, by rw [unit]; exact member, by rw [unit, rest, ← Nat.add_assoc]⟩

theorem hbmMap_mod {o base zs : Nat} {list : List Nat} {p : Nat × Nat} (found : hbmMap o base zs list = some p)
    (hbase : 64 ∣ base) : p.2 % 64 = o % 64 := by
  obtain ⟨_, _, pc, _, rfl⟩ := hbmMap_eq_some.1 found
  show (base + o / 256 / list.length * 256 + o % 256) % 64 = o % 64
  omega

theorem State.fineBytes_dvd (s : State) : gib ∣ s.fineBytes := by
  have whole : gib ∣ s.stackBytes - 2 * s.clUnits * gib := Nat.dvd_sub (Nat.dvd_mul_left _ _) (Nat.dvd_mul_left _ _)
  have given : gib ∣ s.fld (pgHMC 0) Reg.HMC0_ZONE_FINE_GIB * gib := Nat.dvd_mul_left _ _
  unfold State.fineBytes
  simp only
  split <;> assumption

theorem State.localBytes_dvd (s : State) : gib ∣ s.localBytes :=
  Nat.dvd_sub (Nat.dvd_sub (Nat.dvd_mul_left _ _) s.fineBytes_dvd) (Nat.dvd_mul_left _ _)

theorem State.chanBytes_dvd (s : State) : 2 ^ 26 ∣ s.chanBytes := ⟨s.clUnits, by unfold State.chanBytes; omega⟩

/-- The zone of an address, and of the other addresses of its line. -/
theorem State.zoneOf_line {s : State} {a place sub o base zs : Nat} (zone : s.zoneOf a = some (place, sub, o, base, zs)) :
    64 ∣ base ∧ o % 64 = a % 64 ∧ ∀ j, a % 64 + j < 64 → s.zoneOf (a + j) = some (place, sub, o + j, base, zs) := by
  have fine : 2 ^ 30 ∣ s.fineBytes := s.fineBytes_dvd
  have local_ : 2 ^ 30 ∣ s.localBytes := s.localBytes_dvd
  have chan := s.chanBytes_dvd
  unfold State.zoneOf at zone ⊢
  simp only at zone ⊢
  generalize s.fineBytes = f at *
  generalize s.localBytes = l at *
  generalize s.chanBytes = b at *
  have lines : 64 ∣ l ∧ 64 ∣ b := by omega
  split at zone
  · obtain ⟨⟩ := zone
    refine ⟨by omega, rfl, fun j line => ?_⟩
    rw [if_pos (by omega)]
  · split at zone
    · obtain ⟨⟩ := zone
      refine ⟨by omega, ?_, fun j line => ?_⟩
      · rw [Nat.mod_mod_of_dvd _ lines.1]; omega
      · have line' : (a - 4 * f) % 64 + j < 64 := by omega
        rw [if_neg (by omega), if_pos (by omega), show a + j - 4 * f = a - 4 * f + j by omega,
          div_add_of_line lines.1 line', mod_add_of_line lines.1 line']
    · obtain ⟨inside, same⟩ := Option.ite_none_right_eq_some.1 zone
      obtain ⟨⟩ := same
      refine ⟨by omega, ?_, fun j line => ?_⟩
      · rw [Nat.mod_mod_of_dvd _ lines.2]; omega
      · have line' : (a - 4 * (f + l)) % 64 + j < 64 := by omega
        rw [if_neg (by omega), if_neg (by omega), if_pos (by omega),
          show a + j - 4 * (f + l) = a - 4 * (f + l) + j by omega, div_add_of_line lines.2 line',
          mod_add_of_line lines.2 line']

/-- The storage place of an address, and those of the rest of its line. -/
theorem State.locate_line {s : State} {a k : Nat} (place : s.locate a = some k) :
    k % 64 = a % 64 ∧ ∀ j, a % 64 + j < 64 → s.locate (a + j) = some (k + j) := by
  have bound : 64 ∣ hbmTop := by decide
  have bound' : 64 ∣ storeTop := by decide
  have half : 64 ∣ halfBytes := by decide
  have base : 64 ∣ storeBase := by decide
  have order : hbmTop = storeBase := rfl
  unfold State.locate at place ⊢
  split at place
  case isTrue inHbm =>
    split at place
    case h_1 pl sub o zbase zs zone =>
      obtain ⟨hbase, off, zoneLine⟩ := State.zoneOf_line zone
      obtain ⟨p, member, rfl⟩ := Option.map_eq_some_iff.1 place
      have within := hbmMap_mod member hbase
      refine ⟨by omega, fun j line => ?_⟩
      rw [if_pos ((lt_add_of_line bound line).2 inHbm), zoneLine j line]
      simp only [hbmMap_line member (off ▸ line), Option.map_some, Nat.add_assoc]
    case h_2 => exact nomatch place
  case isFalse inStore =>
    obtain ⟨below, place⟩ := Option.ite_none_right_eq_some.1 place
    obtain ⟨up, place⟩ := Option.ite_none_right_eq_some.1 place
    obtain ⟨p, member, rfl⟩ := Option.map_eq_some_iff.1 place
    have offHalf : (a - storeBase) % halfBytes % 64 = (a - storeBase) % 64 := Nat.mod_mod_of_dvd _ half
    have off : (a - storeBase) % 64 = a % 64 := by omega
    have within := hbmMap_mod member (Nat.dvd_zero 64)
    refine ⟨by omega, fun j line => ?_⟩
    have line' : (a - storeBase) % 64 + j < 64 := by omega
    have inHalf : (a - storeBase) % halfBytes % 64 + j < 64 := by rw [offHalf]; exact line'
    rw [if_neg (by omega), if_pos ((lt_add_of_line bound' line).2 below),
      show a + j - storeBase = a - storeBase + j by omega, div_add_of_line half line', if_pos up,
      mod_add_of_line half line', hbmMap_line member inHalf]
    simp only [Option.map_some, Nat.add_assoc]

/-! ## Poison after a write (R361, R368) -/

/-- The storage places from one on. -/
def keysFrom (k n : Nat) : List Nat := (List.range n).map (k + ·)

theorem mem_keysFrom {k n q : Nat} : q ∈ keysFrom k n ↔ k ≤ q ∧ q < k + n := by
  simp only [keysFrom, List.mem_map, List.mem_range]
  exact ⟨fun ⟨i, hi, eq⟩ => by omega, fun _ => ⟨q - k, by omega, by omega⟩⟩

/-- The units that an access touches. -/
theorem mem_units {k n unit u : Nat} (hu : 0 < unit) (hn : 0 < n) :
    u ∈ ((keysFrom k n).map (· / unit)).eraseDups ↔ u * unit < k + n ∧ k < u * unit + unit := by
  simp only [List.mem_eraseDups, List.mem_map, mem_keysFrom, Nat.div_eq_iff hu]
  constructor
  · rintro ⟨q, inside, unit_⟩
    omega
  · rintro ⟨lo, hi⟩
    exact ⟨max k (u * unit), by omega, by omega⟩

/-- An access covers a unit where it writes as many of its bytes as the unit has. -/
theorem covers_unit {k n unit u : Nat} (hu : 0 < unit) :
    ((keysFrom k n).filter fun q => q / unit = u).eraseDups.length = unit ↔
      k ≤ u * unit ∧ u * unit + unit ≤ k + n := by
  have bytes : ((keysFrom k n).filter fun q => q / unit = u).eraseDups.toFinset =
      Finset.Ico (max k (u * unit)) (min (k + n) (u * unit + unit)) := by
    ext q
    simp only [List.mem_toFinset, List.mem_eraseDups, List.mem_filter, mem_keysFrom, decide_eq_true_eq, Finset.mem_Ico,
      Nat.div_eq_iff hu]
    omega
  rw [← List.toFinset_card_of_nodup (nodup_eraseDups _), bytes, Nat.card_Ico]
  omega

/-- A unit of the poison list after a write to one unit. -/
theorem mem_poison_unit (l : List Nat) (full poison : Bool) (u v : Nat) :
    u ∈ (if poison then (if l.contains v then l else v :: l) else if full then l.filter (· != v) else l) ↔
      if u = v then poison = true ∨ u ∈ l ∧ full = false else u ∈ l := by
  cases poison
  case true => by_cases held : v ∈ l <;> by_cases same : u = v <;> simp [held, same]
  case false => cases full <;> by_cases same : u = v <;> simp [same]

/-- A unit after a write: a touched one takes the poison of the write, and loses its own where it is covered. -/
theorem mem_poisonAfter {old : List Nat} {k n unit u : Nat} {poison : Bool} (hu : 0 < unit) (hn : 0 < n) :
    u ∈ poisonAfter old unit (keysFrom k n) poison ↔
      if u * unit < k + n ∧ k < u * unit + unit then
        poison = true ∨ u ∈ old ∧ ¬ (k ≤ u * unit ∧ u * unit + unit ≤ k + n)
      else u ∈ old := by
  unfold poisonAfter
  simp only [← mem_units hu hn, covers_unit hu]
  generalize ((keysFrom k n).map (· / unit)).eraseDups = units
  induction units using List.reverseRecOn with
  | nil => simp
  | append_singleton units v ih =>
    rw [List.foldl_concat]
    have step := mem_poison_unit (units.foldl (fun l u => if poison then (if l.contains u then l else u :: l)
      else if k ≤ u * unit ∧ u * unit + unit ≤ k + n then l.filter (· != u) else l) old)
      (decide (k ≤ v * unit ∧ v * unit + unit ≤ k + n)) poison u v
    simp only [decide_eq_true_eq] at step
    rw [step, ih]
    by_cases same : u = v
    · subst same
      simp only [if_true, List.mem_append, List.mem_singleton, or_true]
      split <;> grind
    · simp [same]

/-- The poison of units after a write, as PoisonAt states it. -/
theorem poisonAfter_spec (old : List Nat) {k n unit : Nat} (u : Nat) (poison : Bool) (hu : 0 < unit) (hn : 0 < n) :
    let new := poisonAfter old unit (keysFrom k n) poison
    (k ≤ u * unit ∧ u * unit + unit ≤ k + n → new.contains u = poison) ∧
    (u * unit < k + n → k < u * unit + unit → ¬ (k ≤ u * unit ∧ u * unit + unit ≤ k + n) →
      new.contains u = (poison || old.contains u)) ∧
    (k + n ≤ u * unit ∨ u * unit + unit ≤ k → new.contains u = old.contains u) := by
  have unit_ : (poisonAfter old unit (keysFrom k n) poison).contains u =
      if u * unit < k + n ∧ k < u * unit + unit then
        poison || old.contains u && !decide (k ≤ u * unit ∧ u * unit + unit ≤ k + n)
      else old.contains u := by
    rw [Bool.eq_iff_iff, List.contains_iff_mem, mem_poisonAfter hu hn]
    split <;> simp only [Bool.or_eq_true, Bool.and_eq_true, List.contains_iff_mem, Bool.not_eq_true', decide_eq_false_iff_not]
  intro new
  rw [unit_]
  refine ⟨fun covered => ?_, fun low high part => ?_, fun outside => ?_⟩
  · rw [if_pos (by omega), decide_eq_true covered]
    simp
  · rw [if_pos ⟨low, high⟩, decide_eq_false part]
    simp
  · rw [if_neg (by omega)]

theorem keysFrom_filter_all {k n : Nat} {p : Nat → Bool} (all : ∀ q, k ≤ q → q < k + n → p q = true) :
    (keysFrom k n).filter p = keysFrom k n :=
  List.filter_eq_self.2 fun q hq => all q (mem_keysFrom.1 hq).1 (mem_keysFrom.1 hq).2

theorem keysFrom_filter_none {k n : Nat} {p : Nat → Bool} (none_ : ∀ q, k ≤ q → q < k + n → p q = false) :
    (keysFrom k n).filter p = [] :=
  List.filter_eq_nil_iff.2 fun q hq => Bool.eq_false_iff.1 (none_ q (mem_keysFrom.1 hq).1 (mem_keysFrom.1 hq).2)

/-- The state in which bytes, with their poison, stand at the storage places from one on. -/
def State.devWritten (s : State) (k : Nat) (bs : List Byte) (poison : Bool) : State :=
  { s with mem := { s.mem with
      dev := setCells s.mem.dev k bs
      hbmPoison := poisonAfter s.mem.hbmPoison 64 ((keysFrom k bs.length).filter (· < 2 ^ 40)) poison
      storePoison := poisonAfter s.mem.storePoison 8 ((keysFrom k bs.length).filter (2 ^ 40 ≤ ·)) poison } }

theorem State.bytesAt_devWritten (s : State) (k : Nat) (bs : List Byte) (poison : Bool) : BytesAt k bs s (s.devWritten k bs poison) := by
  refine ⟨fun i b at_ => ?_, fun j outside => ?_⟩
  · show cell (setCells s.mem.dev k bs) (k + i) = b
    rw [cell_setCells, if_pos (by omega), Nat.add_sub_cancel_left, at_]; rfl
  · show cell (setCells s.mem.dev k bs) j = _
    rw [cell_setCells]
    split
    · rw [List.getElem?_eq_none (by omega)]; rfl
    · rfl

/-- Poison after a write within a line: HBM and store memory lie apart by whole lines (R361, R368). -/
theorem State.poisonAt_devWritten (s : State) {k : Nat} {bs : List Byte} (poison : Bool) (some_ : 0 < bs.length)
    (line : k % 64 + bs.length ≤ 64) : PoisonAt k bs.length poison s (s.devWritten k bs poison) := by
  intro j
  by_cases hj : j < 2 ^ 40 <;> by_cases hk : k < 2 ^ 40
  · simp only [Mem.poisonedKey, if_pos hj, State.devWritten]
    rw [keysFrom_filter_all fun q _ _ => decide_eq_true (by omega)]
    exact poisonAfter_spec s.mem.hbmPoison (j / 64) poison (by decide) some_
  · simp only [Mem.poisonedKey, if_pos hj, State.devWritten]
    rw [keysFrom_filter_none fun q _ _ => decide_eq_false (by omega)]
    exact ⟨fun _ => by omega, fun _ _ _ => by omega, fun _ => rfl⟩
  · simp only [Mem.poisonedKey, if_neg hj, State.devWritten]
    rw [keysFrom_filter_none (p := fun q => decide (2 ^ 40 ≤ q)) fun q _ _ => decide_eq_false (by omega)]
    exact ⟨fun _ => by omega, fun _ _ _ => by omega, fun _ => rfl⟩
  · simp only [Mem.poisonedKey, if_neg hj, State.devWritten]
    rw [keysFrom_filter_all (p := fun q => decide (2 ^ 40 ≤ q)) fun q _ _ => decide_eq_true (by omega)]
    exact poisonAfter_spec s.mem.storePoison (j / 8) poison (by decide) some_

/-- Bytes written one by one. -/
theorem foldl_setCell (k : Nat) (bs : List Byte) : ∀ (m : List Host.Cell) (i : Nat),
    ((bs.zipIdx i).map fun p => (k + p.2, p.1)).foldl (fun m p => setCell m p.1 p.2) m = setCells m (k + i) bs := by
  induction bs with
  | nil => exact fun _ _ => rfl
  | cons b bs ih =>
    intro m i
    rw [List.zipIdx_cons, List.map_cons, List.foldl_cons, ih, setCells, Nat.add_assoc]

/-- A write to device memory within a line. -/
theorem State.writeDev_eq {s : State} {a k : Nat} {bs : List Byte} (place : s.locate a = some k)
    (line : a % 64 + bs.length ≤ 64) (poison : Bool) : s.writeDev a bs poison = s.devWritten k bs poison := by
  obtain ⟨_, places⟩ := State.locate_line place
  have pairs : (bs.zipIdx.filterMap fun p => (s.locate (a + p.2)).map fun q => (q, p.1)) =
      bs.zipIdx.map fun p => (k + p.2, p.1) := by
    rw [← List.filterMap_eq_map]
    refine List.filterMap_congr fun p hp => ?_
    have within := (List.mem_zipIdx hp).2.1
    rw [places p.2 (by omega)]; rfl
  have keys : (bs.zipIdx.map fun p => (k + p.2, p.1)).map Prod.fst = keysFrom k bs.length := by
    rw [List.map_map, keysFrom, List.range_eq_range', ← List.zipIdx_map_snd 0 bs, List.map_map]; rfl
  unfold State.writeDev State.devWritten
  simp only [pairs, keys, foldl_setCell k bs _ 0, Nat.add_zero]

/-! ## Serving an access (R359, R368) -/

/-- A charge changes buckets alone. -/
theorem State.charge_eq (s : State) (k : Nat) (cls : MemClass) (cost : Nat) :
    s.charge k cls cost = { s with buckets := (s.charge k cls cost).buckets } := by
  unfold State.charge
  split <;> rfl

/-- Buckets do not bear on where an address is stored. -/
theorem State.locate_charge (s : State) (k : Nat) (cls : MemClass) (cost a : Nat) :
    (s.charge k cls cost).locate a = s.locate a := by
  rw [State.charge_eq]; rfl

theorem State.eccHbm_none (s : State) (k : Nat) {env : MemEnv} (corrected : env.corrected = []) (uncorr : env.uncorr = []) :
    (s.eccHbm k env).1 = s := by
  unfold State.eccHbm
  rw [corrected, uncorr]
  simp only [List.isEmpty_nil, Bool.not_true, Bool.false_eq_true, if_false]
  split <;> rfl

theorem State.eccStore_none (s : State) (k : Nat) {env : MemEnv} (corrected : env.corrected = []) (uncorr : env.uncorr = []) :
    s.eccStore k env = s := by
  simp only [State.eccStore, corrected, uncorr, List.filter_nil, List.map_nil, List.eraseDups_nil, List.foldl_nil]

/-- An access without errors of the code, while the write gate is open. -/
theorem State.serve_quiet {s : State} (r : MemReq) (k : Nat) {env : MemEnv} (corrected : env.corrected = [])
    (uncorr : env.uncorr = []) (open_ : s.link.gateClosed = false) :
    s.serve r k env = if r.write then (s.writeDev r.addr r.data r.poison, [], false) else (s, s.readDev r.addr r.len) := by
  have code : (if k < 2 ^ 40 then (s.eccHbm k env).1
      else s.eccStore k { env with corrected := env.corrected.filter (readsWord r), uncorr := env.uncorr.filter (readsWord r) }) =
      s := by
    split
    · exact s.eccHbm_none k corrected uncorr
    · exact s.eccStore_none k (by rw [corrected]; rfl) (by rw [uncorr]; rfl)
  unfold State.serve
  by_cases hk : k < 2 ^ 40
  · simp only [if_pos hk] at code ⊢
    simp only [code, ite_self, open_, Bool.false_and, Bool.or_false]
  · simp only [if_neg hk] at code ⊢
    simp only [code, ite_self, open_, Bool.false_and, Bool.or_false]

/-- One of the cells from a storage place on is poisoned. -/
def Mem.poisonedFrom (m : Mem) (k n : Nat) : Bool := (List.range n).any fun j => m.poisonedKey (k + j)

/-- A read of device memory within a line. -/
theorem State.readDev_line {s : State} {a k n : Nat} (place : s.locate a = some k) (line : a % 64 + n ≤ 64)
    (open_ : s.link.gateClosed = false) :
    s.readDev a n = (cells s.mem.dev k n, s.mem.poisonedFrom k n) := by
  obtain ⟨_, places⟩ := State.locate_line place
  have places' : ∀ j ∈ List.range n, s.locate (a + j) = some (k + j) := fun j hj =>
    places j (by have := List.mem_range.1 hj; omega)
  unfold State.readDev cells
  rw [open_, Bool.false_or]
  refine congrArg₂ Prod.mk (List.map_congr_left fun j hj => ?_) ?_
  · rw [State.readByte, places' j hj]; rfl
  · rw [Mem.poisonedFrom, Bool.eq_iff_iff, List.any_eq_true, List.any_eq_true]
    refine exists_congr fun j => and_congr_right fun hj => ?_
    rw [State.byteBad, places' j hj]

/-- The instruction is an access that reaches its controller, at a storage place whose class has a token; it finds no
error of the code, the write gate is open and the host need not be asked. -/
structure ServedAccess (s : State) (i : Instr) (r : MemReq) (env : MemEnv) (k : Nat) : Prop where
  reaches : i = .hbmAccess r env ∧ reqOk r 0 hbmTop = true ∧ s.enabled (pgHMC (keyChannel k / 32)) = true ∨
    i = .storeAccess r env ∧ reqOk r storeBase storeTop = true
  place : s.locate r.addr = some k
  token : s.hasToken k r.cls = true
  corrected : env.corrected = []
  uncorr : env.uncorr = []
  gate : s.link.gateClosed = false
  bias : biasRegion r.addr ∈ s.mem.deviceBias ∨ s.hdmAddr r.addr = none

theorem ServedAccess.line {s : State} {i : Instr} {r : MemReq} {env : MemEnv} {k : Nat} (h : ServedAccess s i r env k) :
    0 < reqSize r ∧ r.addr % 64 + reqSize r ≤ 64 := by
  have ok : ∀ base top, reqOk r base top = true → 0 < reqSize r ∧ r.addr % 64 + reqSize r ≤ 64 := fun base top ok => by
    simp only [reqOk, Bool.and_eq_true, decide_eq_true_eq] at ok
    omega
  obtain ⟨_, fits, _⟩ | ⟨_, fits⟩ := h.reaches
  · exact ok _ _ fits
  · exact ok _ _ fits

theorem ServedAccess.exec_eq {s : State} {i : Instr} {r : MemReq} {env : MemEnv} {k : Nat} (h : ServedAccess s i r env k) :
    exec i s = .next (s.serveUnit r k env) := by
  have asks : (if s.mem.deviceBias.contains (biasRegion r.addr) then none else s.hdmAddr r.addr) = none := by
    obtain device | free := h.bias
    · rw [if_pos (List.contains_iff_mem.2 device)]
    · rw [free, ite_self]
  have access : s.accessAt r k env = s.serveUnit r k env := by
    unfold State.accessAt
    rw [asks]
    exact if_pos h.token
  obtain ⟨rfl, fits, on⟩ | ⟨rfl, fits⟩ := h.reaches
  · show execHbmAccess r env s = _
    simp only [execHbmAccess, fits, h.place, on, access, Bool.not_true, Bool.false_eq_true, if_false]
  · show execStoreAccess r env s = _
    simp only [execStoreAccess, fits, h.place, access, Bool.not_true, Bool.false_eq_true, if_false]

/-- A device read answers its requester with the bytes of its storage place and their poison. -/
theorem ServedAccess.read_effect {s : State} {i : Instr} {r : MemReq} {env : MemEnv} {k : Nat} (h : ServedAccess s i r env k)
    (reads : r.write = false) :
    exec i s = .next ((s.charge k r.cls env.cost).emit (.unitData r.page r.addr (cells s.mem.dev k r.len)
      ((List.range r.len).any fun j => s.mem.poisonedKey (k + j)))) := by
  obtain ⟨_, line⟩ := h.line
  have gate : (s.charge k r.cls env.cost).link.gateClosed = false := by rw [State.charge_eq]; exact h.gate
  have mem : (s.charge k r.cls env.cost).mem = s.mem := by rw [State.charge_eq]
  rw [reqSize, if_neg (by rw [reads]; decide)] at line
  have data := State.readDev_line ((s.locate_charge k r.cls env.cost _).trans h.place) line gate
  rw [h.exec_eq, State.serveUnit, State.serve_quiet r k h.corrected h.uncorr gate, reads, data, mem]
  rfl

/-- A device write moves its bytes and its poison to its storage place. -/
theorem ServedAccess.write_effect {s : State} {i : Instr} {r : MemReq} {env : MemEnv} {k : Nat} (h : ServedAccess s i r env k)
    (writes : r.write = true) : exec i s = .next ((s.charge k r.cls env.cost).devWritten k r.data r.poison) := by
  obtain ⟨_, line⟩ := h.line
  have gate : (s.charge k r.cls env.cost).link.gateClosed = false := by rw [State.charge_eq]; exact h.gate
  rw [reqSize, if_pos writes] at line
  have data := State.writeDev_eq ((s.locate_charge k r.cls env.cost _).trans h.place) line r.poison
  rw [h.exec_eq, State.serveUnit, State.serve_quiet r k h.corrected h.uncorr gate, writes, data]
  rfl

/-- Settles O41: a device access that is served moves its bytes, with their poison, between its requester and the storage
place of its address, and takes its token. -/
theorem deviceAccesses : Obligations.DeviceAccesses := by
  unfold Obligations.DeviceAccesses
  intro s i r env k reaches place token corrected uncorr gate bias tokens
  have h : ServedAccess s i r env k := ⟨reaches, place, token, corrected, uncorr, gate, bias⟩
  have charge := s.charge_eq k r.cls env.cost
  obtain ⟨some_, line⟩ := h.line
  refine ⟨fun reads => ?_, fun writes => ?_⟩
  · refine ⟨_, cells s.mem.dev k r.len, s.mem.poisonedFrom k r.len, h.read_effect reads, ?_, fun j hj => ?_, ?_, rfl, ?_⟩
    · simp [cells]
    · simp [cells, hj]
    · simp [Mem.poisonedFrom]
    · rw [charge]; rfl
  · rw [reqSize, if_pos writes] at some_ line
    obtain ⟨within, _⟩ := State.locate_line place
    refine ⟨_, h.write_effect writes, ?_, ?_, rfl, ?_⟩
    · rw [charge]; exact State.bytesAt_devWritten { s with buckets := _ } k r.data r.poison
    · rw [charge]; exact State.poisonAt_devWritten { s with buckets := _ } r.poison some_ (by rw [within]; exact line)
    · rw [charge]; rfl

end Sys2Proof.Machine

namespace Sys2Proof.Machine
open Sys2Proof

/-- A field is not changed by setting one that lies elsewhere on the page; the side condition is in a form that `decide`
closes. -/
theorem State.fld_setFld_apart (s : State) (page : Nat) {f f' : Fld} (v : Nat)
    (apart : (f'.off ≠ f.off ∨ f'.hi < f.lo ∨ f.hi < f'.lo) ∧ (f.lo ≤ f.hi ∧ f.hi < 64 ∧ f.off < 0x1000) ∧ f'.off < 0x1000) :
    (s.setFld page f v).fld page f' = s.fld page f' := s.fld_setFld_ne v (.inr apart.1) apart.2.1 apart.2.2

/-! ## The echo check of a compressed block (R136) -/

theorem State.cmpOf_setCmp_self (s : State) (x : CmpStream) : (s.setCmp x).cmpOf x.slot x.op = x := by
  simp [State.cmpOf, State.setCmp]

/-- The stream of a compressing operator bears its operator. -/
theorem State.cmpOf_operator (s : State) (slot op : Nat) : (s.cmpOf slot op).slot = slot ∧ (s.cmpOf slot op).op = op := by
  unfold State.cmpOf
  cases found : s.cmps.find? fun x => x.slot == slot && x.op == op with
  | none => exact ⟨rfl, rfl⟩
  | some x => simpa using List.find?_some found

/-- The header of a compressing operator, its tile, and the descriptor of its output. -/
def State.cmpHeader (s : State) (slot op : Nat) : List Byte := (s.image slot).cfg ((s.image slot).op op)
def State.cmpTile (s : State) (slot op : Nat) : Nat :=
  (s.slot slot).alloc.tiles.getD (cfgField (s.cmpHeader slot op) (0x12, 0, 8)) 64
def State.cmpDesc (s : State) (slot op : Nat) : Desc := parseDesc (slice (s.cmpHeader slot op) 0x40 128)

/-- The operator runs and its compressor works: an answer of the echo check has its effect. -/
structure Compresses (s : State) (cmp slot : Fin 16) (op : Fin 256) : Prop where
  active : s.active slot = true
  inside : op.val < (s.image slot).nOps
  cls : ((s.image slot).op op).cls = 2
  code : ((s.image slot).op op).code = 0x10 ∨ ((s.image slot).op op).code = 0x11
  quad : s.cmpTile slot op / 4 = cmp.val
  goesOn : (s.cmpOf slot op).ended = false
  fenced : s.fenced (pgCMP cmp) = false
  powered : s.powered (pgCMP cmp) = true
  enabled : s.enabled (pgCMP cmp) = true
  runs : ∃ r ∈ (s.slot slot).runs, r.stage = ((s.image slot).op op).stage

/-- The lines of a block and of its output are counted (R41). -/
def State.countBlock (s : State) (cmp block out : Nat) : State :=
  (s.perf (pgCMP cmp) 0x100 ((block + 63) / 64)).perf (pgCMP cmp) 0x101 ((out + 63) / 64)

/-- A block that differs from its source is counted as stored, with its place. -/
def State.countStored (s : State) (cmp slot op offset : Nat) : State :=
  ((((s.addSat (pgCMP cmp) Reg.CMP_STAT_STORED_BLOCKS 1).setFld (pgCMP cmp) Reg.CMP_ECHO_OFFSET offset).setFld (pgCMP cmp)
    Reg.CMP_ECHO_SLOT slot).setFld (pgCMP cmp) Reg.CMP_ECHO_OP op).perf (pgCMP cmp) 0x102 1

/-- What the check records: nothing, or the stored block and its error. -/
def State.echoed (s : State) (cmp slot op offset : Nat) (same : Bool) : State :=
  if same then s else (s.countStored cmp slot op offset).error (pgCMP cmp) Src.cmp_ECHO_MISMATCH

/-- The block as it is written behind the head of its frame. -/
def State.echoBytes (s : State) (slot op : Nat) (block packed head : List Byte) (same : Bool) : List Byte :=
  head ++ if same then packed
    else storedForm ((s.image slot).op op).code (cfgField (s.cmpHeader slot op) (0, 0, 8)) block packed false

/-- A block whose bytes are all written, in a frame that goes on. -/
theorem Compresses.exec_eq {s u : State} {cmp slot : Fin 16} {op : Fin 256} (h : Compresses s cmp slot op)
    {block packed head : List Byte} {same : Bool}
    (written : ((s.echoed cmp slot op ((s.cmpOf slot op).outPos + head.length) same).countBlock cmp block.length
      (s.echoBytes slot op block packed head same).length).cmpWrite (s.cmpTile slot op) slot (s.cmpDesc slot op)
      (s.cmpOf slot op).outPos (s.echoBytes slot op block packed head same) = some u) :
    exec (.echoCheckDone cmp slot op block packed head [] same) s = .next (u.setCmp { s.cmpOf slot op with
      outPos := (s.cmpOf slot op).outPos + (s.echoBytes slot op block packed head same).length }) := by
  have code : (((s.image slot).op op).code != 0x10 && ((s.image slot).op op).code != 0x11) = false := by
    rcases h.code with e | e <;> rw [e] <;> rfl
  have runs : ((s.slot slot).runs.all fun r => r.stage != ((s.image slot).op op).stage) = false := by
    obtain ⟨r, mem, stage⟩ := h.runs
    exact List.all_eq_false.2 ⟨r, mem, by simp [stage]⟩
  have quad := h.quad
  unfold State.cmpTile State.cmpHeader at quad
  unfold State.echoed State.countBlock State.countStored State.echoBytes State.cmpTile State.cmpDesc State.cmpHeader at written
  show execEchoCheckDone cmp slot op block packed head [] same s = _
  unfold execEchoCheckDone
  simp only [h.active, h.cls, code, quad, h.goesOn, h.fenced, h.powered, h.enabled, runs, decide_eq_false (Nat.not_le.2 h.inside),
    bne_self_eq_false, Bool.not_true, Bool.or_self, Bool.false_eq_true, if_false, List.isEmpty_nil, if_true, List.append_nil,
    written]
  rfl

/-- What follows of the block's write: the stream has moved on, and only the streams have changed behind the write. -/
theorem Compresses.wrote {s u : State} {cmp slot : Fin 16} {op : Fin 256} (h : Compresses s cmp slot op)
    {block packed head : List Byte} {same : Bool} {bytes : List Byte} {v : State}
    (record : s.echoed cmp slot op ((s.cmpOf slot op).outPos + head.length) same = v)
    (out : s.echoBytes slot op block packed head same = head ++ bytes)
    (written : (v.countBlock cmp block.length (head ++ bytes).length).cmpWrite (s.cmpTile slot op) slot (s.cmpDesc slot op)
      (s.cmpOf slot op).outPos (head ++ bytes) = some u) :
    ∃ t, exec (.echoCheckDone cmp slot op block packed head [] same) s = .next t ∧
      t.cmpOf slot op = { s.cmpOf slot op with outPos := (s.cmpOf slot op).outPos + head.length + bytes.length } ∧
      t = { u with cmps := t.cmps } := by
  subst record
  rw [← out] at written
  refine ⟨_, h.exec_eq written, ?_, rfl⟩
  obtain ⟨hslot, hop⟩ := s.cmpOf_operator slot op
  have self := u.cmpOf_setCmp_self { s.cmpOf slot op with
    outPos := (s.cmpOf slot op).outPos + (s.echoBytes slot op block packed head same).length }
  rw [hslot, hop, out, List.length_append, ← Nat.add_assoc] at self
  rw [out, List.length_append, ← Nat.add_assoc, self]

theorem pgCMP_lt (cmp : Fin 16) : pgCMP cmp < 512 := by unfold pgCMP; omega

theorem pgDBG_ne_pgCMP (cmp : Nat) : pgDBG ≠ pgCMP cmp := by unfold pgDBG pgCMP; omega

/-- The registers of a compressor that count and place a stored block. -/
def storedBits (cmp : Nat) : BitSet := fun pg off i =>
  perfBits (pgCMP cmp) pg off i ∨ pg = pgCMP cmp ∧ (off = 0x108 ∨ off = 0x110)

theorem storedBits_off {cmp pg off i : Nat} (h : storedBits cmp pg off i) : pg = pgCMP cmp ∧ off ≠ 0x10 ∧ off ≠ 0x28 := by
  rcases h with ⟨hpg, _, k, _, hoff⟩ | ⟨hpg, hoff⟩ <;> exact ⟨hpg, by omega, by omega⟩

/-- Only those registers change, and they hold the count and the place. -/
theorem countStored_effect (s : State) {cmp slot op : Nat} (hcmp : pgCMP cmp < 512) (hslot : slot < 2 ^ 4) (hop : op < 2 ^ 8)
    (offset : Nat) :
    OnlyBits (storedBits cmp) s (s.countStored cmp slot op offset) ∧
      (s.countStored cmp slot op offset).fld (pgCMP cmp) Reg.CMP_STAT_STORED_BLOCKS =
        min (s.fld (pgCMP cmp) Reg.CMP_STAT_STORED_BLOCKS + 1) (2 ^ 32 - 1) ∧
      (s.countStored cmp slot op offset).fld (pgCMP cmp) Reg.CMP_ECHO_OFFSET = offset % 2 ^ 48 ∧
      (s.countStored cmp slot op offset).fld (pgCMP cmp) Reg.CMP_ECHO_SLOT = slot ∧
      (s.countStored cmp slot op offset).fld (pgCMP cmp) Reg.CMP_ECHO_OP = op := by
  have counted := onlyBits_addSat s (pgCMP cmp) Reg.CMP_STAT_STORED_BLOCKS 1 ⟨by decide, by decide, by decide⟩
  have value : (s.addSat (pgCMP cmp) Reg.CMP_STAT_STORED_BLOCKS 1).fld (pgCMP cmp) Reg.CMP_STAT_STORED_BLOCKS =
      min (s.fld (pgCMP cmp) Reg.CMP_STAT_STORED_BLOCKS + 1) (2 ^ 32 - 1) :=
    State.fld_setFld_fits _ _ ⟨by decide, by decide, by decide⟩ (Nat.lt_of_le_of_lt (Nat.min_le_right ..) (by decide))
  unfold State.countStored
  generalize s.addSat (pgCMP cmp) Reg.CMP_STAT_STORED_BLOCKS 1 = a at counted value
  have placed : OnlyBits (storedBits cmp) s (((a.setFld (pgCMP cmp) Reg.CMP_ECHO_OFFSET offset).setFld (pgCMP cmp)
      Reg.CMP_ECHO_SLOT slot).setFld (pgCMP cmp) Reg.CMP_ECHO_OP op) :=
    (((counted.mono fun _ _ _ h => .inr ⟨h.1, .inl h.2.1⟩).setFld _ (by decide) fun _ _ _ => .inr ⟨rfl, .inr rfl⟩).setFld _
      (by decide) fun _ _ _ => .inr ⟨rfl, .inr rfl⟩).setFld _ (by decide) fun _ _ _ => .inr ⟨rfl, .inr rfl⟩
  have kept : ∀ (t : State) (f : Fld), f.off = 0x108 ∨ f.off = 0x110 → (t.perf (pgCMP cmp) 0x102 1).fld (pgCMP cmp) f =
      t.fld (pgCMP cmp) f := fun t f off =>
    (onlyBits_perf t _ _ _).2.fld hcmp (by omega) fun _ _ _ ⟨_, _, k, _, e⟩ => by omega
  refine ⟨placed.append ((onlyBits_perf _ _ _ _).mono fun _ _ _ => .inl), ?_, ?_, ?_, ?_⟩
  · rw [kept _ _ (.inl rfl), State.fld_setFld_apart _ _ _ (by decide), State.fld_setFld_apart _ _ _ (by decide),
      State.fld_setFld_apart _ _ _ (by decide), value]
  · rw [kept _ _ (.inr rfl), State.fld_setFld_apart _ _ _ (by decide), State.fld_setFld_apart _ _ _ (by decide),
      State.fld_setFld_same _ _ _ (by decide)]
    rfl
  · rw [kept _ _ (.inr rfl), State.fld_setFld_apart _ _ _ (by decide),
      State.fld_setFld_fits _ _ ⟨by decide, by decide, by decide⟩ hslot]
  · rw [kept _ _ (.inr rfl), State.fld_setFld_fits _ _ ⟨by decide, by decide, by decide⟩ hop]

/-- The check of a block that differs counts and places it and records its error, and does nothing more. -/
theorem echoed_differs_effect {s : State} {cmp slot op : Nat} (hcmp : pgCMP cmp < 512) (hslot : slot < 2 ^ 4) (hop : op < 2 ^ 8)
    (quiet : s.quietError (pgCMP cmp) Src.cmp_ECHO_MISMATCH) (offset : Nat) :
    (s.echoed cmp slot op offset false).fld (pgCMP cmp) Reg.CMP_STAT_STORED_BLOCKS =
        min (s.fld (pgCMP cmp) Reg.CMP_STAT_STORED_BLOCKS + 1) (2 ^ 32 - 1) ∧
      (s.echoed cmp slot op offset false).fld (pgCMP cmp) Reg.CMP_ECHO_OFFSET = offset % 2 ^ 48 ∧
      (s.echoed cmp slot op offset false).fld (pgCMP cmp) Reg.CMP_ECHO_SLOT = slot ∧
      (s.echoed cmp slot op offset false).fld (pgCMP cmp) Reg.CMP_ECHO_OP = op ∧
      Recorded (pgCMP cmp) Src.cmp_ECHO_MISMATCH (s.echoed cmp slot op offset false) ∧
      IntsOnly s (s.echoed cmp slot op offset false) := by
  obtain ⟨only, stored, place, inSlot, inOp⟩ := countStored_effect s hcmp hslot hop offset
  have quiet' : (s.countStored cmp slot op offset).quietError (pgCMP cmp) Src.cmp_ECHO_MISMATCH :=
    quiet.of_frame only.2 hcmp (fun _ h => (storedBits_off h).2.2 rfl) (fun _ h => (storedBits_off h).2.1 rfl)
      fun _ h => pgDBG_ne_pgCMP cmp (storedBits_off h).1
  obtain ⟨ints, frame, recorded⟩ := recordError_effect _ false 0 hcmp (by decide) quiet'
  have kept : ∀ f : Fld, f.off = 0x108 ∨ f.off = 0x110 → _ = (s.countStored cmp slot op offset).fld (pgCMP cmp) f :=
    fun f off => frame.fld_of_errBits hcmp (by omega) (.inr (by omega))
  rw [State.echoed, if_neg Bool.false_ne_true, State.error, kept _ (.inl rfl), kept _ (.inr rfl), kept _ (.inr rfl),
    kept _ (.inr rfl)]
  exact ⟨stored, place, inSlot, inOp, recorded, only.1.intsOnly.trans ints⟩

/-- Settles O36: the check records nothing of a block that decodes to its source, and counts and records one that differs;
either way the bytes are written behind what the stream has written. -/
theorem echoCheck : Obligations.EchoCheck := by
  unfold Obligations.EchoCheck
  intro s cmp slot op block packed head img o c tile pg x active inside cls code quad goesOn fenced powered enabled runs count d
  have h : Compresses s cmp slot op := ⟨active, inside, cls, code, quad, goesOn, fenced, powered, enabled, runs⟩
  refine ⟨fun u written => h.wrote (same := true) rfl rfl written, fun quiet => ?_⟩
  obtain ⟨stored, place, inSlot, inOp, recorded, ints⟩ :=
    echoed_differs_effect (pgCMP_lt cmp) slot.isLt op.isLt quiet (x.outPos + head.length)
  generalize differs : s.echoed cmp slot op (x.outPos + head.length) false = v at stored place inSlot inOp recorded ints
  exact ⟨v, stored, place, inSlot, inOp, recorded, ints, fun u written => h.wrote differs rfl written⟩

end Sys2Proof.Machine

namespace Sys2Proof.Machine
open Sys2Proof

/-! ## The streams of the decoding operators (R114, R122) -/

/-- A stream stands in the list, the only one of its operator. -/
def SoleStream (l : List DecStream) (x : DecStream) : Prop := x ∈ l ∧ ∀ y ∈ l, y.slot = x.slot → y.op = x.op → y = x

theorem SoleStream.decOf {s : State} {x : DecStream} (h : SoleStream s.decs x) : s.decOf x.slot x.op = some x := by
  obtain ⟨mem, sole⟩ := h
  unfold State.decOf
  cases found : s.decs.find? fun y => y.slot == x.slot && y.op == x.op with
  | none => exact absurd (List.find?_eq_none.1 found x mem) (by simp)
  | some y =>
    have key := List.find?_some found
    simp only [Bool.and_eq_true, beq_iff_eq] at key
    rw [sole y (List.mem_of_find?_eq_some found) key.1 key.2]

/-- The stream that is stored takes the place of every one of its operator. -/
theorem soleStream_setDec {s : State} {x y : DecStream} (mem : y ∈ s.decs) (slot : y.slot = x.slot) (op : y.op = x.op) :
    SoleStream (s.setDec x).decs x := by
  refine ⟨List.mem_map.2 ⟨y, mem, if_pos ⟨slot, op⟩⟩, fun z hz hslot hop => ?_⟩
  obtain ⟨w, _, rfl⟩ := List.mem_map.1 hz
  split
  · rfl
  case isFalse other => rw [if_neg other] at hslot hop; exact absurd ⟨hslot, hop⟩ other

theorem SoleStream.setDec {s : State} {x y : DecStream} (h : SoleStream s.decs x) (other : ¬ (x.slot = y.slot ∧ x.op = y.op)) :
    SoleStream (s.setDec y).decs x := by
  obtain ⟨mem, sole⟩ := h
  refine ⟨List.mem_map.2 ⟨x, mem, if_neg other⟩, fun z hz hslot hop => ?_⟩
  obtain ⟨w, hw, rfl⟩ := List.mem_map.1 hz
  split at hslot
  case isTrue same => rw [if_pos same] at hop; exact absurd ⟨hslot.symm, hop.symm⟩ other
  case isFalse apart => rw [if_neg apart] at hop ⊢; exact sole w hw hslot hop

theorem State.decActive_some {s : State} {d : Nat} {x : DecStream} (h : s.decActive d = some x) :
    x ∈ s.decs ∧ x.dec = d ∧ x.active = true := by
  have key := List.find?_some h
  simp only [Bool.and_eq_true, beq_iff_eq] at key
  exact ⟨List.mem_of_find?_eq_some h, key⟩

/-- The streams of a decompressor that can run. -/
def State.readyDecs (s : State) (d : Nat) : List DecStream := s.decs.filter fun x => x.dec == d && x.ready

/-- The next stream is the first of least index behind the operator, or the first of least index (R123). -/
theorem State.nextStream_eq (s : State) (d op : Nat) : s.nextStream d op =
    if ((s.readyDecs d).filter fun x => op < x.op).isEmpty then (s.readyDecs d).argmin DecStream.op
    else ((s.readyDecs d).filter fun x => op < x.op).argmin DecStream.op := by
  have pick : ∀ l : List DecStream, l.argmin DecStream.op = l.foldl (fun (m : Option DecStream) x => match m with
      | some y => if x.op < y.op then some x else some y
      | none => some x) none := fun l => by
    unfold List.argmin
    congr 1
    funext m x
    cases m <;> rfl
  rw [pick, pick]; rfl

theorem State.nextStream_mem {s : State} {d op : Nat} {y : DecStream} (h : s.nextStream d op = some y) : y ∈ s.readyDecs d := by
  rw [State.nextStream_eq] at h
  split at h
  · exact List.argmin_mem h
  · exact List.mem_of_mem_filter (List.argmin_mem h)

theorem State.mem_decs_of_nextStream {s : State} {d op : Nat} {y : DecStream} (h : s.nextStream d op = some y) : y ∈ s.decs :=
  List.mem_of_mem_filter (State.nextStream_mem h)

/-- What is least below a bound is found among what lies below the bound. -/
theorem argmin_filter_lt {α : Type} (f : α → Nat) (k : Nat) (l : List α) :
    (l.filter fun x => f x < k).argmin f = (l.argmin f).filter fun x => f x < k := by
  induction l using List.reverseRecOn with
  | nil => rfl
  | append_singleton l a ih =>
    rw [List.filter_append, List.argmin_concat]
    by_cases ha : f a < k
    · rw [List.filter_cons_of_pos (by simpa using ha), List.filter_nil, List.argmin_concat, ih]
      cases l.argmin f with
      | none => simp [Option.filter_some, ha]
      | some c =>
        by_cases hc : f c < k
        · rw [Option.filter_some, if_pos (by simpa using hc)]
          show (if f a < f c then some a else some c) = (if f a < f c then some a else some c).filter _
          split <;> simp [Option.filter_some, ha, hc]
        · rw [Option.filter_some, if_neg (by simpa using hc)]
          show some a = (if f a < f c then some a else some c).filter _
          rw [if_pos (by omega), Option.filter_some, if_pos (by simpa using ha)]
    · rw [List.filter_cons_of_neg (by simpa using ha), List.filter_nil, List.append_nil, ih]
      cases l.argmin f with
      | none => simp [Option.filter_some, ha]
      | some c =>
        show _ = (if f a < f c then some a else some c).filter _
        split
        · rw [Option.filter_some, Option.filter_some, if_neg (by simp; omega), if_neg (by simpa using ha)]
        · rfl

/-- Streams of one operator that change do not bear on what is chosen among the others. -/
theorem filter_decs_setDec {s : State} {x : DecStream} {p : DecStream → Bool} (out : ∀ y, y.op = x.op → p y = false) :
    (s.setDec x).decs.filter p = s.decs.filter p := by
  show (s.decs.map fun y => if y.slot = x.slot ∧ y.op = x.op then x else y).filter p = s.decs.filter p
  induction s.decs with
  | nil => rfl
  | cons y l ih =>
    rw [List.map_cons, List.filter_cons, List.filter_cons, ih]
    by_cases key : y.slot = x.slot ∧ y.op = x.op
    · rw [if_pos key, out x rfl, out y key.2]; rfl
    · rw [if_neg key]

/-- A stream of another operator that is next stays so when the stream of the operator stops. -/
theorem State.nextStream_setDec {s : State} {d : Nat} {x y : DecStream} (next : s.nextStream d x.op = some y)
    (other : y.op ≠ x.op) : (s.setDec x).nextStream d x.op = some y := by
  have later : ((s.setDec x).readyDecs d).filter (fun z => x.op < z.op) = (s.readyDecs d).filter fun z => x.op < z.op := by
    simp only [State.readyDecs, List.filter_filter]
    exact filter_decs_setDec fun z hz => by simp [hz]
  have earlier : ((s.setDec x).readyDecs d).filter (fun z => z.op < x.op) = (s.readyDecs d).filter fun z => z.op < x.op := by
    simp only [State.readyDecs, List.filter_filter]
    exact filter_decs_setDec fun z hz => by simp [hz]
  rw [State.nextStream_eq] at next ⊢
  rw [later]
  split at next
  case isFalse some_ => rw [if_neg some_]; exact next
  case isTrue none_ =>
    have below : y.op < x.op := by
      have notLater := List.filter_eq_nil_iff.1 (List.isEmpty_iff.1 none_) y (List.argmin_mem next)
      simp only [decide_eq_true_eq] at notLater
      omega
    rw [if_pos none_]
    have least := argmin_filter_lt DecStream.op x.op ((s.setDec x).readyDecs d)
    rw [earlier, argmin_filter_lt, next, Option.filter_some, if_pos (by simpa using below)] at least
    exact (Option.filter_eq_some_iff.1 least.symm).1

/-! ## The registers that show a decompressor's stream -/

/-- DEC_STAT, DEC_IN_POS and DEC_DMG. -/
def decStatBits (d : Nat) : BitSet := fun pg off _ => pg = pgDEC d ∧ (off = 0x108 ∨ off = 0x110 ∨ off = 0x120)

theorem onlyBits_decStat (s : State) (d : Nat) : OnlyBits (decStatBits d) s (s.decStat d) := by
  unfold State.decStat
  split
  · exact (((((OnlyBits.start _ s).setBit _ (by decide) fun _ _ _ => ⟨rfl, .inl rfl⟩).setFld _ (by decide)
      fun _ _ _ => ⟨rfl, .inl rfl⟩).setFld _ (by decide) fun _ _ _ => ⟨rfl, .inl rfl⟩).setFld _ (by decide)
      fun _ _ _ => ⟨rfl, .inr (.inl rfl)⟩).setFld _ (by decide) fun _ _ _ => ⟨rfl, .inr (.inr rfl)⟩
  · exact (OnlyBits.start _ s).setBit _ (by decide) fun _ _ _ => ⟨rfl, .inl rfl⟩

theorem pgDEC_lt (dec : Fin 32) : pgDEC dec < 512 := by unfold pgDEC; omega

/-- Registers of a decompressor's page, streams and memory change, and nothing else does. -/
def DecFrame (d : Nat) (s t : State) : Prop :=
  t = { s with regs := t.regs, decs := t.decs, mem := t.mem } ∧ RegFrame (fun pg _ _ => pg = pgDEC d) s t

theorem DecFrame.trans {d : Nat} {s t u : State} (h : DecFrame d s t) (h' : DecFrame d t u) : DecFrame d s u :=
  ⟨by rw [h'.1, h.1], (h.2.trans h'.2).mono fun _ _ _ e => e.elim id id⟩

theorem OnlyBits.decFrame {p : BitSet} {s t : State} (h : OnlyBits p s t) {d : Nat}
    (page : ∀ pg off i, p pg off i → pg = pgDEC d) : DecFrame d s t := ⟨by rw [h.1], h.2.mono page⟩

theorem MemOnly.decFrame {s t : State} (h : MemOnly s t) (d : Nat) : DecFrame d s t := by
  rw [h]; exact ⟨rfl, fun _ _ _ _ _ _ => rfl⟩

theorem decFrame_setDec (d : Nat) (s : State) (x : DecStream) : DecFrame d s (s.setDec x) := ⟨rfl, fun _ _ _ _ _ _ => rfl⟩

theorem decFrame_decStat (d : Nat) (s : State) : DecFrame d s (s.decStat d) := (onlyBits_decStat s d).decFrame fun _ _ _ h => h.1

theorem State.decs_decStat (s : State) (d : Nat) : (s.decStat d).decs = s.decs := by rw [(onlyBits_decStat s d).1]
theorem State.mem_decStat (s : State) (d : Nat) : (s.decStat d).mem = s.mem := by rw [(onlyBits_decStat s d).1]

theorem State.mem_setDec (s : State) (x : DecStream) : (s.setDec x).mem = s.mem := rfl

theorem State.fld_setDec (s : State) (x : DecStream) (page : Nat) (f : Fld) : (s.setDec x).fld page f = s.fld page f := rfl

/-- A field that does not show the stream. -/
theorem State.fld_decStat (s : State) (dec : Fin 32) {f : Fld} (apart : f.off ≠ 0x108 ∧ f.off ≠ 0x110 ∧ f.off ≠ 0x120)
    (off : f.off < 0x1000) : (s.decStat dec).fld (pgDEC dec) f = s.fld (pgDEC dec) f :=
  (onlyBits_decStat s dec).2.fld (pgDEC_lt dec) off fun _ _ _ h => by obtain ⟨_, h⟩ := h; omega

/-! ## Saved contexts (R124 to R126) -/

/-- A further write to an address that had a place: memory does not bear on which addresses have one. -/
theorem MemOnly.writeMem {s t : State} (h : MemOnly s t) {a : Nat} (placed : s.placed a) (page : Nat) (bs : List Byte)
    (poison : Bool) : MemOnly s (t.writeMem page a bs poison) := by
  have still : t.placed a := by rw [h]; exact placed
  exact h.trans (memOnly_writeMem still page bs poison)

/-- A context is written: the history from its head on, its wrapped part, the record (R124). -/
def State.writeCtx (s : State) (x : DecStream) (c : DecCtx) (area : Nat) : State :=
  let a := s.areaAddr x.slot area
  let n := 2 ^ (s.image x.slot).histLog2
  let h := c.histHead % n
  let t := (s.writeMem (pgDEC x.dec) (a + h) (c.hist.take (n - h)) false).writeMem (pgDEC x.dec) a
    ((c.hist.drop (n - h)).take h) false
  t.writeMem (pgDEC x.dec) (a + n) (t.ctxRecord x c) false

theorem State.saveCtx_eq (s : State) (x : DecStream) (c : DecCtx) (area : Nat) :
    s.saveCtx x c area = (s.writeCtx x c area).addWrap (pgDEC x.dec) Reg.DEC_CTX_SAVES 1 := rfl

/-- A context whose area has a place changes memory alone. -/
theorem memOnly_writeCtx {s : State} {x : DecStream} (c : DecCtx) {a : Nat}
    (area : ∀ k, k < 2 ^ (s.image x.slot).histLog2 + 4096 → s.placed (s.areaAddr x.slot a + k)) :
    MemOnly s (s.writeCtx x c a) := by
  have inside : c.histHead % 2 ^ (s.image x.slot).histLog2 < 2 ^ (s.image x.slot).histLog2 := Nat.mod_lt _ (Nat.two_pow_pos _)
  have head := area _ (Nat.lt_add_right 4096 inside)
  have wrapped : s.placed (s.areaAddr x.slot a) := area 0 (by omega)
  have record := area (2 ^ (s.image x.slot).histLog2) (by omega)
  exact (((memOnly_writeMem head _ _ _).writeMem wrapped _ _ _).writeMem record _ _ _)

/-- Saving a context whose area has a place writes memory and counts, and does nothing else. -/
theorem saveCtx_effect {s : State} {x : DecStream} {dec : Fin 32} (isDec : x.dec = dec) (c : DecCtx) {a : Nat}
    (area : ∀ k, k < 2 ^ (s.image x.slot).histLog2 + 4096 → s.placed (s.areaAddr x.slot a + k)) :
    DecFrame dec s (s.saveCtx x c a) ∧ (s.saveCtx x c a).decs = s.decs ∧
      (s.saveCtx x c a).fld (pgDEC dec) Reg.DEC_CTX_SAVES = (s.fld (pgDEC dec) Reg.DEC_CTX_SAVES + 1) % 2 ^ 32 := by
  have mem := memOnly_writeCtx c area
  rw [State.saveCtx_eq, isDec]
  generalize s.writeCtx x c a = t at mem
  have counted := onlyBits_addWrap t (pgDEC dec) Reg.DEC_CTX_SAVES 1 ⟨by decide, by decide, by decide⟩
  refine ⟨(mem.decFrame dec).trans (counted.decFrame fun _ _ _ h => h.1), ?_, ?_⟩
  · rw [State.addWrap_decs, mem]
  · rw [State.fld_addWrap_self _ _ _ ⟨by decide, by decide, by decide⟩, mem]; rfl

/-- The running stream has used its quantum, another one waits, and its context can be saved (R123, R124). -/
structure Switches (s : State) (dec : Fin 32) (ctx : DecCtx) (x y : DecStream) (a : Nat) : Prop where
  running : s.decActive dec = some x
  works : s.decWorks x = true
  restored : x.restoring = false
  used : s.fld (pgDEC dec) Reg.DEC_CFG_QUANTUM ≤ x.blocks
  next : s.nextStream dec x.op = some y
  other : y.op ≠ x.op
  area : s.freeArea x.slot = some a
  rows : ctx.rowBack ≤ ctx.hist.length
  history : ctx.hist.length ≤ 2 ^ (s.image x.slot).histLog2

/-- A stream that stops with its context in an area; a stream that takes over. -/
def DecStream.stopped (x : DecStream) (a : Nat) : DecStream := { x with active := false, saved := some a, blocks := 0 }
def DecStream.started (y : DecStream) : DecStream := { y with active := true, restoring := y.saved.isSome, blocks := 0 }

theorem Switches.exec_eq {s : State} {dec : Fin 32} {ctx : DecCtx} {x y : DecStream} {a : Nat} (h : Switches s dec ctx x y a)
    (decs : (s.saveCtx x ctx a).decs = s.decs) :
    exec (.decStreamSwitch dec ctx) s =
      .next ((((s.saveCtx x ctx a).setDec (x.stopped a)).setDec y.started).decStat dec) := by
  have next : ((s.saveCtx x ctx a).setDec (x.stopped a)).nextStream dec x.op = some y := by
    refine State.nextStream_setDec (x := x.stopped a) ?_ h.other
    unfold State.nextStream
    rw [decs]
    exact h.next
  have next' := next
  simp only [DecStream.stopped, h.restored] at next'
  show execDecStreamSwitch dec ctx s = _
  unfold execDecStreamSwitch
  simp only [h.running, h.works, h.restored, h.next, h.area, DecStream.stopped, next', Option.isNone_some,
    decide_eq_false (Nat.not_lt.2 h.used), decide_eq_false (Nat.not_lt.2 h.rows), decide_eq_false (Nat.not_lt.2 h.history),
    Bool.not_true, Bool.and_false, Bool.or_self, Bool.false_eq_true, if_false]
  rfl

/-- A saved context and its record, and whether that is one of the stream (Table DEC-9). -/
def State.savedContext (s : State) (x : DecStream) (a : Nat) : List Byte × Bool :=
  s.readMem (s.areaAddr x.slot a) (2 ^ (s.image x.slot).histLog2 + 4096)
def State.savedRecord (s : State) (x : DecStream) (a : Nat) : List Byte :=
  (s.savedContext x a).1.drop (2 ^ (s.image x.slot).histLog2)
def DecStream.matches (x : DecStream) (c : List Byte) : Bool :=
  bytesAt c 0 4 == 0x58434E44 && bytesAt c 4 2 == 1 && bytesAt c 8 1 % 16 == x.slot && bytesAt c 0xA 2 == x.op &&
    crc32c (c.take 0xFC ++ c.drop 0x100) == bytesAt c 0xFC 4

/-- The stream as its context gives it. -/
def DecStream.restored (x : DecStream) (c : List Byte) : DecStream :=
  { x with restoring := false, saved := none, inPos := bytesAt c 0x10 8, outTotal := bytesAt c 0x18 8
           frameOut := bytesAt c 0x28 8, rowNext := bytesAt c 0x80 8, rowsDone := bytesAt c 0x88 8 }

theorem exec_contextRestore {s : State} {dec : Fin 32} {x : DecStream} {a : Nat} (running : s.decActive dec = some x)
    (works : s.decWorks x = true) (waits : x.restoring = true) (saved : x.saved = some a)
    (clean : (s.savedContext x a).2 = false) (good : x.matches (s.savedRecord x a) = true) :
    exec (.contextRestore dec) s =
      .next (((s.setDec (x.restored (s.savedRecord x a))).addWrap (pgDEC dec) Reg.DEC_CTX_RESTORES 1).decStat dec) := by
  unfold State.savedContext at clean
  simp only [DecStream.matches, State.savedRecord, State.savedContext, Bool.and_eq_true] at good
  obtain ⟨⟨⟨⟨magic, version⟩, slot⟩, op⟩, crc⟩ := good
  show execContextRestore dec s = _
  unfold execContextRestore
  simp only [running, works, waits, saved, clean, magic, version, slot, op, crc, Bool.not_true, Bool.not_false, Bool.and_self,
    Bool.false_eq_true, if_false, if_true]
  rfl

/-- The running stream stops with its context in the area, the next one starts, and the save is counted. -/
theorem Switches.effect {s : State} {dec : Fin 32} {ctx : DecCtx} {x y : DecStream} {a : Nat} (h : Switches s dec ctx x y a)
    (area : ∀ k, k < 2 ^ (s.image x.slot).histLog2 + 4096 → s.placed (s.areaAddr x.slot a + k)) :
    ∃ t, exec (.decStreamSwitch dec ctx) s = .next t ∧ t.decOf x.slot x.op = some (x.stopped a) ∧
      t.decOf y.slot y.op = some y.started ∧
      t.fld (pgDEC dec) Reg.DEC_CTX_SAVES = (s.fld (pgDEC dec) Reg.DEC_CTX_SAVES + 1) % 2 ^ 32 ∧ DecFrame dec s t := by
  obtain ⟨listed, isDec, _⟩ := State.decActive_some h.running
  obtain ⟨frame, decs, saves⟩ := saveCtx_effect isDec ctx area
  have stopped : SoleStream ((s.saveCtx x ctx a).setDec (x.stopped a)).decs (x.stopped a) :=
    soleStream_setDec (y := x) (by rwa [decs]) rfl rfl
  have waiting : y ∈ ((s.saveCtx x ctx a).setDec (x.stopped a)).decs :=
    List.mem_map.2 ⟨y, by rw [decs]; exact State.mem_decs_of_nextStream h.next, if_neg fun same => h.other same.2⟩
  refine ⟨_, h.exec_eq decs, SoleStream.decOf (x := x.stopped a) ?_, SoleStream.decOf (x := y.started) ?_, ?_, ?_⟩
  · rw [State.decs_decStat]; exact stopped.setDec fun same => h.other same.2.symm
  · rw [State.decs_decStat]; exact soleStream_setDec waiting rfl rfl
  · rw [State.fld_decStat _ _ (by decide) (by decide), State.fld_setDec, State.fld_setDec, saves]
  · exact ((frame.trans (decFrame_setDec _ _ _)).trans (decFrame_setDec _ _ _)).trans (decFrame_decStat _ _)

/-- A stream takes up what its record says, which is counted, and memory stays as it is. -/
theorem contextRestore_effect {s : State} {dec : Fin 32} {x : DecStream} (listed : x ∈ s.decs) (c : List Byte) {t : State}
    (restores : ((s.setDec (x.restored c)).addWrap (pgDEC dec) Reg.DEC_CTX_RESTORES 1).decStat dec = t) :
    t.decOf x.slot x.op = some (x.restored c) ∧
      t.fld (pgDEC dec) Reg.DEC_CTX_RESTORES = (s.fld (pgDEC dec) Reg.DEC_CTX_RESTORES + 1) % 2 ^ 32 ∧ t.mem = s.mem ∧
      DecFrame dec s t := by
  have counted := onlyBits_addWrap (s.setDec (x.restored c)) (pgDEC dec) Reg.DEC_CTX_RESTORES 1
    ⟨by decide, by decide, by decide⟩
  subst restores
  refine ⟨SoleStream.decOf (x := x.restored c) ?_, ?_, ?_, ?_⟩
  · rw [State.decs_decStat, State.addWrap_decs]; exact soleStream_setDec listed rfl rfl
  · rw [State.fld_decStat _ _ (by decide) (by decide), State.fld_addWrap_self _ _ _ ⟨by decide, by decide, by decide⟩,
      State.fld_setDec]
    rfl
  · rw [State.mem_decStat, State.addWrap_mem, State.mem_setDec]
  · exact ((decFrame_setDec _ _ _).trans (counted.decFrame fun _ _ _ h => h.1)).trans (decFrame_decStat _ _)

/-- Settles O35: the stopped stream does not change which stream of another operator is next (`State.nextStream_setDec`), and
neither stream takes the place of the other; a good record is taken up as it stands. -/
theorem decoderContexts : Obligations.DecoderContexts := by
  unfold Obligations.DecoderContexts
  intro s dec x running works
  refine ⟨fun ctx y a restored used next other area rows history placed => ?_, fun a waits saved => ?_⟩
  · have h : Switches s dec ctx x y a := ⟨running, works, restored, used, next, other, area, rows, history⟩
    exact h.effect placed
  · intro n r c clean magic version slot op crc
    have good : x.matches (s.savedRecord x a) = true := by
      unfold DecStream.matches
      simp only [Bool.and_eq_true, beq_iff_eq]
      exact ⟨⟨⟨⟨magic, version⟩, slot⟩, op⟩, crc⟩
    obtain ⟨stream, restores, mem, only, regs⟩ :=
      contextRestore_effect (dec := dec) (State.decActive_some running).1 (s.savedRecord x a) rfl
    rw [mem] at only
    exact ⟨_, exec_contextRestore running works waits saved clean good, stream, restores, only, regs⟩

/-! ## A step of DECOMPRESS (R116 to R122) -/

/-- Input that decodes to bytes, without damage and within its stated size. -/
def bytesUnit (n : Nat) (bs : List Byte) : DecUnit := { consumed := n, bytes := bs, sized := true }

/-- The lines that a step reads and writes are counted, and the bytes it produces (R41). -/
def State.countBytes (s : State) (d consumed produced : Nat) : State :=
  ((s.perf (pgDEC d) 0x100 ((consumed + 63) / 64)).perf (pgDEC d) 0x101 ((produced + 63) / 64)).addWrap (pgDEC d)
    Reg.DEC_OUT_TOTAL_BYTES produced

/-- The stream behind a step. -/
def DecStream.grown (x : DecStream) (consumed produced : Nat) : DecStream :=
  { x with inPos := x.inPos + consumed, frameIn := x.frameIn + consumed, frameOut := x.frameOut + produced
           outTotal := x.outTotal + produced, carry := [], spillCols := none, spillEnd := false, assistWait := false
           bytes := x.bytes + produced, released := (x.bytes + produced) / 4096 }

/-- The stream is stored, the codec shown, and an idle decompressor takes its next stream. -/
def State.endStep (s : State) (x : DecStream) (codec : Nat) : State :=
  ((s.setDec x).setFld (pgDEC x.dec) Reg.DEC_STAT_CODEC codec).activate x.dec x.op

theorem State.frameRoom_bytes (s : State) (x : DecStream) (n : Nat) (bs : List Byte) : s.frameRoom x (bytesUnit n bs) = none := by
  simp [State.frameRoom, bytesUnit]

theorem State.decodeRows_bytes {s : State} {x : DecStream} (code : (s.decOpRec x).code = 1) (u : DecUnit) :
    s.decodeRows x u = { rows := [] } := by
  simp [State.decodeRows, code]

theorem State.unitDamages_bytes (s : State) (x : DecStream) (n : Nat) (bs : List Byte) (assisted : Bool) :
    s.unitDamages x (bytesUnit n bs) assisted = [] := by
  simp [State.unitDamages, State.badClaims, bytesUnit]

/-- Without damage a step of DECOMPRESS counts, puts its bytes into the ring and moves its stream on. -/
theorem decodeUnit_bytes {s : State} {x : DecStream} (code : (s.decOpRec x).code = 1) (n : Nat) (bs : List Byte)
    (assisted : Bool) : ∃ codec, s.decodeUnit x (bytesUnit n bs) assisted =
      ((s.countBytes x.dec n bs.length).ringPut x x.bytes bs).endStep (x.grown n bs.length) codec := by
  have room := s.frameRoom_bytes x n bs
  have damages := s.unitDamages_bytes x n bs assisted
  unfold bytesUnit at *
  unfold State.decodeUnit
  simp only [room, damages, s.decodeRows_bytes code, code, Bool.false_eq_true, if_false, if_true, Nat.max_zero, List.take_length,
    Bool.or_false, List.append_nil, List.map_nil, List.foldl_nil, List.length_nil, List.range_zero, Option.isSome_none,
    Bool.false_and, Bool.not_false, Bool.and_true, Nat.add_zero]
  exact ⟨_, rfl⟩

theorem Image.nextSlab_nil (i : Image) (o : OpRec) (n : Nat) (a : SlabAcc) :
    i.nextSlab o n [] a = some (a, false, []) ∨ i.nextSlab o n [] a = none := by
  unfold Image.nextSlab
  split
  · exact .inl rfl
  · exact .inr rfl

/-- An operator that holds no rows has no slab to release while its input goes on. -/
theorem State.releaseSlabs_none (s : State) {x : DecStream} (held : x.held = []) (live : x.live = true) (k : Nat) :
    State.releaseSlabs k s x = (s, x) := by
  cases k with
  | zero => rfl
  | succ k =>
    unfold State.releaseSlabs
    rcases (s.image x.slot).nextSlab_nil (s.decOpRec x) (s.decF x 6 0 16) { prev := x.prev } with slab | none_
    · simp [held, live, slab]
    · simp [held, none_]

/-- The size of the operator's ring, and the offset in tile memory of the byte that is put next (R120). -/
def State.ringBytes (s : State) (x : DecStream) : Nat := s.decF x 0x18 0 12 * 4096
def State.ringNext (s : State) (x : DecStream) : Nat := s.decF x 0x14 0 23 + x.bytes % s.ringBytes x

/-- Bytes that do not wrap stand in one piece in the ring (R120). -/
theorem State.ringPut_fits {s : State} {x : DecStream} {bs : List Byte}
    (fits : x.bytes % s.ringBytes x + bs.length ≤ s.ringBytes x) :
    s.ringPut x x.bytes bs = s.tmWrite (s.decTile x) (s.ringNext x) bs := by
  unfold State.ringPut State.ringNext
  unfold State.ringBytes at *
  generalize s.decF x 0x18 0 12 * 4096 = size at *
  have same : x.bytes % max size 1 = x.bytes % size := by
    rcases Nat.eq_zero_or_pos size with rfl | some_
    · rw [Nat.mod_zero] at fits ⊢
      rw [show x.bytes = 0 by omega]
      rfl
    · rw [Nat.max_eq_left some_]
  have room : bs.length ≤ max size 1 - x.bytes % size := by omega
  simp only [same]
  rw [List.take_of_length_le room, List.drop_of_length_le room]
  rfl

theorem State.tmWrite_eq (s : State) (tile off : Nat) (bs : List Byte) :
    s.tmWrite tile off bs = { s with mem := { s.mem with tile := (s.tmWrite tile off bs).mem.tile } } := rfl

theorem State.tmRead_tmWrite (s : State) (tile off : Nat) (bs : List Byte) :
    (s.tmWrite tile off bs).tmRead tile off bs.length = bs := by
  refine List.ext_getElem (by simp [State.tmRead, cells]) fun i _ hi => ?_
  simp [State.tmRead, State.tmWrite, cells, cell_setCells, hi]

theorem State.cell_tmWrite (s : State) {tile off : Nat} {bs : List Byte} {k : Nat}
    (out : k < tmKey tile off ∨ tmKey tile off + bs.length ≤ k) :
    cell (s.tmWrite tile off bs).mem.tile k = cell s.mem.tile k := by
  rw [State.tmWrite, cell_setCells]
  split
  · rw [List.getElem?_eq_none (by omega)]; rfl
  · rfl

/-- An idle decompressor takes its next stream, which keeps what it has done; the registers show it (R123). -/
theorem activate_eq (s : State) (d op : Nat) {x : DecStream} (sole : SoleStream s.decs x) : ∃ l y,
    s.activate d op = { s with decs := l }.decStat d ∧ SoleStream l y ∧
      y = { x with active := y.active, restoring := y.restoring, blocks := y.blocks } := by
  unfold State.activate
  split
  · exact ⟨s.decs, x, rfl, sole, rfl⟩
  · split
    case h_1 y next =>
      have listed := State.mem_decs_of_nextStream next
      by_cases same : y.slot = x.slot ∧ y.op = x.op
      · obtain rfl := sole.2 y listed same.1 same.2
        exact ⟨_, _, rfl, soleStream_setDec listed rfl rfl, rfl⟩
      · exact ⟨_, x, rfl, sole.setDec fun e => same ⟨e.1.symm, e.2.symm⟩, rfl⟩
    case h_2 => exact ⟨s.decs, x, rfl, sole, rfl⟩

/-- The end of a step stores the stream and shows the decompressor's state, and does nothing else. -/
theorem endStep_effect {s : State} {dec : Fin 32} {x w : DecStream} (isDec : x.dec = dec) (listed : w ∈ s.decs)
    (slot : w.slot = x.slot) (op : w.op = x.op) (codec : Nat) :
    (∃ y, (s.endStep x codec).decOf x.slot x.op = some y ∧
      y = { x with active := y.active, restoring := y.restoring, blocks := y.blocks }) ∧
    s.endStep x codec = { s with regs := (s.endStep x codec).regs, decs := (s.endStep x codec).decs } ∧
    RegFrame (decStatBits dec) s (s.endStep x codec) := by
  have shown := onlyBits_setFld (s.setDec x) (pgDEC dec) Reg.DEC_STAT_CODEC codec ⟨by decide, by decide, by decide⟩
  obtain ⟨l, y, eq, sole, same⟩ := activate_eq ((s.setDec x).setFld (pgDEC dec) Reg.DEC_STAT_CODEC codec) dec x.op
    (x := x) (soleStream_setDec listed slot op)
  have ended : s.endStep x codec = { (s.setDec x).setFld (pgDEC dec) Reg.DEC_STAT_CODEC codec with decs := l }.decStat dec := by
    rw [← eq, State.endStep, isDec]
  rw [ended]
  generalize (s.setDec x).setFld (pgDEC dec) Reg.DEC_STAT_CODEC codec = u at shown
  have stat := onlyBits_decStat { u with decs := l } dec
  refine ⟨⟨y, ?_, same⟩, ?_, ?_⟩
  · have found := SoleStream.decOf (s := { u with decs := l }.decStat dec) (x := y) (by rwa [State.decs_decStat])
    rw [same] at found
    rw [found, ← same]
  · rw [stat.1, shown.1]; rfl
  · intro pg off i hp ho out
    exact (stat.2 pg off i hp ho out).trans (shown.2 pg off i hp ho fun h => out ⟨h.1, .inl h.2.1⟩)

theorem countBytes_effect (s : State) (dec : Fin 32) (consumed produced : Nat) :
    OnlyBits (fun pg _ _ => pg = pgDEC dec) s (s.countBytes dec consumed produced) ∧
      (s.countBytes dec consumed produced).fld (pgDEC dec) Reg.DEC_OUT_TOTAL_BYTES =
        (s.fld (pgDEC dec) Reg.DEC_OUT_TOTAL_BYTES + produced) % 2 ^ 64 := by
  unfold State.countBytes
  have perf₁ := onlyBits_perf s (pgDEC dec) 0x100 ((consumed + 63) / 64)
  generalize s.perf (pgDEC dec) 0x100 _ = u at *
  have perf₂ := onlyBits_perf u (pgDEC dec) 0x101 ((produced + 63) / 64)
  generalize u.perf (pgDEC dec) 0x101 _ = v at *
  have kept := perf₁.append perf₂
  have total := onlyBits_addWrap v (pgDEC dec) Reg.DEC_OUT_TOTAL_BYTES produced ⟨by decide, by decide, by decide⟩
  refine ⟨(kept.mono fun _ _ _ h => h.1).append (total.mono fun _ _ _ h => h.1), ?_⟩
  rw [State.fld_addWrap_self _ _ _ ⟨by decide, by decide, by decide⟩,
    kept.2.fld (pgDEC_lt dec) (by decide) fun _ _ _ ⟨_, _, k, _, off⟩ => by simp only [Reg.DEC_OUT_TOTAL_BYTES] at off; omega]
  rfl

/-- The bytes of a step stand in the ring, the stream and the counters have moved on, and nothing else has changed. -/
def Grows (s : State) (dec : Fin 32) (x : DecStream) (n : Nat) (bs : List Byte) (t : State) : Prop :=
  ∃ y, t.decOf x.slot x.op = some y ∧ y.inPos = x.inPos + n ∧
    y.outTotal = x.outTotal + bs.length ∧ y.bytes = x.bytes + bs.length ∧ y.released = (x.bytes + bs.length) / 4096 ∧
    y.freed = x.freed ∧ y.assistWait = false ∧ t.tmRead (s.decTile x) (s.ringNext x) bs.length = bs ∧
    (∀ k, k < tmKey (s.decTile x) (s.ringNext x) ∨ tmKey (s.decTile x) (s.ringNext x) + bs.length ≤ k →
      cell t.mem.tile k = cell s.mem.tile k) ∧
    t.fld (pgDEC dec) Reg.DEC_OUT_TOTAL_BYTES = (s.fld (pgDEC dec) Reg.DEC_OUT_TOTAL_BYTES + bs.length) % 2 ^ 64 ∧
    t = { s with regs := t.regs, decs := t.decs, mem := { s.mem with tile := t.mem.tile } } ∧
    RegFrame (fun pg _ _ => pg = pgDEC dec) s t

/-- A stream of DECOMPRESS whose next bytes have room in the ring, and do not wrap. -/
structure HasRoom (s : State) (x : DecStream) (bs : List Byte) : Prop where
  works : s.decWorks x = true
  code : (s.decOpRec x).code = 1
  held : x.held = []
  live : x.live = true
  kept : x.freed ≤ x.released
  room : x.bytes + bs.length - x.freed * 4096 ≤ s.ringBytes x
  fits : x.bytes % s.ringBytes x + bs.length ≤ s.ringBytes x

/-- A step of either kind, whatever list the streams stand in. -/
theorem HasRoom.grows {s : State} {dec : Fin 32} {x w : DecStream} {bs : List Byte} (h : HasRoom s x bs) (isDec : x.dec = dec)
    {l : List DecStream} (listed : w ∈ l) (slot : w.slot = x.slot) (op : w.op = x.op) (n : Nat) (assisted : Bool) :
    Grows s dec x n bs ({ s with decs := l }.decodeUnit x (bytesUnit n bs) assisted) := by
  obtain ⟨counted, total⟩ := countBytes_effect { s with decs := l } dec n bs.length
  obtain ⟨codec, eq⟩ := decodeUnit_bytes (s := { s with decs := l }) (x := x) h.code n bs assisted
  rw [eq, isDec]
  generalize { s with decs := l }.countBytes dec n bs.length = u at counted total
  have ring : u.ringBytes x = s.ringBytes x ∧ u.ringNext x = s.ringNext x ∧ u.decTile x = s.decTile x := by
    rw [counted.1]; exact ⟨rfl, rfl, rfl⟩
  have put : u.ringPut x x.bytes bs = u.tmWrite (s.decTile x) (s.ringNext x) bs := by
    rw [State.ringPut_fits (by rw [ring.1]; exact h.fits), ring.2.1, ring.2.2]
  have read := u.tmRead_tmWrite (s.decTile x) (s.ringNext x) bs
  have others := fun k => State.cell_tmWrite (k := k) u (tile := s.decTile x) (off := s.ringNext x) (bs := bs)
  have written := u.tmWrite_eq (s.decTile x) (s.ringNext x) bs
  rw [put]
  generalize u.tmWrite (s.decTile x) _ bs = v at read others written
  obtain ⟨⟨y, found, same⟩, only, frame⟩ := endStep_effect (s := v) (x := x.grown n bs.length) (w := w) isDec
    (by rw [written, counted.1]; exact listed) slot op codec
  generalize v.endStep (x.grown n bs.length) codec = t at found only frame
  have mem : t.mem = v.mem := by rw [only]
  have old : u.mem = s.mem := by rw [counted.1]
  have regs : ∀ page off, v.rd page off = u.rd page off := fun page off => by rw [written]; rfl
  have stream : y.inPos = x.inPos + n ∧ y.outTotal = x.outTotal + bs.length ∧ y.bytes = x.bytes + bs.length ∧
      y.released = (x.bytes + bs.length) / 4096 ∧ y.freed = x.freed ∧ y.assistWait = false := by
    rw [same]; exact ⟨rfl, rfl, rfl, rfl, rfl, rfl⟩
  obtain ⟨inPos, outTotal, bytes, released, freed, waits⟩ := stream
  refine ⟨y, found, inPos, outTotal, bytes, released, freed, waits, ?_, fun k out => ?_, ?_, ?_, fun pg off i hp ho out => ?_⟩
  · rw [State.tmRead, mem]; exact read
  · rw [mem, others k out, old]
  · rw [frame.fld (pgDEC_lt dec) (by decide) fun _ _ _ h => absurd h.2 (by decide), State.fld, regs]
    exact total
  · rw [only, written, counted.1]
  · rw [frame pg off i hp ho fun h => out h.1, regs]
    exact counted.2 pg off i hp ho out

theorem DecStream.free_zero {x : DecStream} (h : x.freed ≤ x.released) : x.free 0 = x := by
  rw [DecStream.free, Nat.add_zero, Nat.min_eq_right h]

/-- A step whose bytes have room does not wait. -/
theorem State.decStalls_bytes {s : State} {x : DecStream} {bs : List Byte} (code : (s.decOpRec x).code = 1)
    (room : x.bytes + bs.length - x.freed * 4096 ≤ s.ringBytes x) (n : Nat) :
    s.decStalls x (bytesUnit n bs) = false := by
  unfold State.decStalls
  simp only [code, if_true]
  exact decide_eq_false (Nat.not_lt.2 room)

/-- A step of the stream that runs; the streams are stored before it. -/
theorem HasRoom.decodeInput {s : State} {dec : Fin 32} {x : DecStream} {bs : List Byte} (h : HasRoom s x bs)
    (running : s.decActive dec = some x) (restored : x.restoring = false) (n : Nat) :
    exec (.decodeInput dec (bytesUnit n bs)) s = .next ((s.setDec x).decodeUnit x (bytesUnit n bs) false) := by
  have free : x.free (bytesUnit n bs).freed = x := DecStream.free_zero h.kept
  have slabs := s.releaseSlabs_none h.held h.live (x.held.length + 1)
  have stalls := State.decStalls_bytes (s := s.setDec x) h.code h.room n
  show execDecodeInput dec (bytesUnit n bs) s = _
  unfold execDecodeInput
  simp only [running, h.works, restored, free, slabs, stalls, Bool.not_true, Bool.or_self, Bool.false_eq_true, if_false]

/-- A step of a stream whose frame a steward core had. -/
theorem HasRoom.decAssistReturn {s : State} {dec : Fin 32} {x : DecStream} {bs : List Byte} (h : HasRoom s x bs)
    (waits : (s.decs.find? fun x => x.dec == dec.val && x.assistWait) = some x) (n : Nat) :
    exec (.decAssistReturn dec (bytesUnit n bs)) s =
      .next (s.decodeUnit { x with assistWait := false } (bytesUnit n bs) true) := by
  have free : x.free (bytesUnit n bs).freed = x := DecStream.free_zero h.kept
  have stalls := State.decStalls_bytes (x := { x with assistWait := false }) h.code h.room n
  show execDecAssistReturn dec (bytesUnit n bs) s = _
  unfold execDecAssistReturn
  simp only [waits, h.works, free, stalls, Bool.not_true, Bool.false_eq_true, if_false]
  rfl

/-- Settles O34: the stream that runs steps as it stands, one that waited for a steward core as one that waits no more; either
step is `HasRoom.grows`. -/
theorem decompressSteps : Obligations.DecompressSteps := by
  unfold Obligations.DecompressSteps
  intro s dec x n bs works isDec code held live kept size at_ room fits u moved
  have h : HasRoom s x bs := ⟨works, code, held, live, kept, room, fits⟩
  refine ⟨fun running restored _ => ?_, fun waits => ?_⟩
  · obtain ⟨listed, _⟩ := State.decActive_some running
    exact ⟨_, h.decodeInput running restored n, h.grows isDec (soleStream_setDec listed rfl rfl).1 rfl rfl n false⟩
  · have h' : HasRoom s { x with assistWait := false } bs := ⟨works, code, held, live, kept, room, fits⟩
    exact ⟨_, h.decAssistReturn waits n, h'.grows isDec (List.mem_of_find?_eq_some waits) rfl rfl n true⟩

end Sys2Proof.Machine

namespace Sys2Proof.Machine
open Sys2Proof

/-! ## Instructions of a thread (R146) -/

/-- A thread that can issue runs and waits for nothing, and its tile works on a stage of a plan. -/
theorem State.canIssue_spec {s : State} {tile th : Nat} (can : s.canIssue tile th = true) :
    (s.thread tile th).run = .run ∧ (s.thread tile th).wait = none ∧ s.tileWorks tile = true ∧
      ∃ p stage k, s.runOf tile = some (p, stage, k) := by
  unfold State.canIssue at can
  cases run : s.runOf tile with
  | none => rw [run] at can; exact nomatch can
  | some r =>
    rw [run] at can
    simp only [Bool.and_eq_true, beq_iff_eq, Option.isNone_iff_eq_none] at can
    obtain ⟨⟨⟨⟨⟨runs, waits⟩, active⟩, powered⟩, fenced⟩, _⟩ := can
    refine ⟨runs, waits, ?_, r.1, r.2.1, r.2.2, rfl⟩
    simp only [State.tileWorks, run, active, powered, fenced, Bool.and_true]

theorem State.issueWith_eq {s : State} {tile th p stage k : Nat} (run : s.runOf tile = some (p, stage, k))
    (can : s.canIssue tile th = true) (f : State → Nat → Thread → State) :
    s.issueWith tile th f = (f s p (s.thread tile th)).perf (pgTILE tile) 0x110 1 := by
  simp only [State.issueWith, run, can, if_true]

/-- An admitted word has its effect. -/
theorem ifWord_of {ok : Bool} (valid : ok = true) (s : State) : ifWord ok s = .next s := by rw [valid]; rfl

/-- An instruction with an effect beyond its thread has that effect and is counted. -/
theorem exec_of_issueWith {i : Instr} {s : State} {ok : Bool} {tile th p stage k : Nat} {f : State → Nat → Thread → State}
    (word : exec i s = ifWord ok (s.issueWith tile th f)) (valid : ok = true) (run : s.runOf tile = some (p, stage, k))
    (can : s.canIssue tile th = true) :
    exec i s = .next ((f s p (s.thread tile th)).perf (pgTILE tile) 0x110 1) := by
  rw [word, ifWord_of valid, State.issueWith_eq run can]

theorem ThreadFrame.refl (tile th : Nat) (s : State) : ThreadFrame tile th s s := ⟨rfl, fun _ _ _ _ _ _ => rfl, fun _ _ _ => rfl, fun _ => rfl⟩

/-- The thread's own registers may be written further. -/
theorem ThreadFrame.setThread {tile th : Nat} {s u : State} (h : ThreadFrame tile th s u) (x : Thread) :
    ThreadFrame tile th s (u.setThread tile th x) := by
  obtain ⟨only, frame, others, rest⟩ := h
  refine ⟨?_, frame, fun n k hk => ?_, fun n => ?_⟩
  · rw [State.setThread, State.setTile, only]
  · rw [State.thread_setThread_ne _ _ hk, others n k hk]
  · rw [State.tile_setThread, rest]

/-- An event of the tile may be counted further. -/
theorem ThreadFrame.perf {tile th : Nat} {s u : State} (h : ThreadFrame tile th s u) (ev n : Nat) :
    ThreadFrame tile th s (u.perf (pgTILE tile) ev n) := by
  obtain ⟨only, frame, others, rest⟩ := h
  have counts := onlyBits_perf u (pgTILE tile) ev n
  refine ⟨by rw [counts.1, only], (frame.trans counts.2).mono fun _ _ _ h => h.elim id id, fun m k hk => ?_, fun m => ?_⟩
  · rw [State.perf_thread, others m k hk]
  · rw [State.perf_tile, rest]

/-- The instruction is carried out and leaves the thread as y; it changes nothing else. -/
def ThreadBecomes (i : Instr) (tile th : Nat) (s : State) (y : Thread) : Prop :=
  ∃ t, exec i s = .next t ∧ ThreadFrame tile th s t ∧ t.thread tile th = y

theorem threadBecomes_of_issue {i : Instr} {s : State} {ok : Bool} {tile th : Nat} {f : Thread → Thread} {y : Thread}
    (word : exec i s = ifWord ok (s.issue tile th f)) (valid : ok = true) (can : s.canIssue tile th = true)
    (sets : (f (s.thread tile th)).next = y) : ThreadBecomes i tile th s y := by
  obtain ⟨thread, frame⟩ := s.issue_next f can
  exact ⟨_, word.trans (ifWord_of valid _), frame, thread.trans sets⟩

theorem threadBecomes_of_issueWith {i : Instr} {s : State} {ok : Bool} {tile th : Nat} {f : State → Nat → Thread → State} {y : Thread}
    (word : exec i s = ifWord ok (s.issueWith tile th f)) (valid : ok = true) (can : s.canIssue tile th = true)
    (sets : ∀ p stage k, s.runOf tile = some (p, stage, k) →
      ∃ u, f s p (s.thread tile th) = u.setThread tile th y ∧ ThreadFrame tile th s u) :
    ThreadBecomes i tile th s y := by
  obtain ⟨_, _, _, p, stage, k, run⟩ := State.canIssue_spec can
  obtain ⟨u, eq, frame⟩ := sets p stage k run
  refine ⟨_, exec_of_issueWith word valid run can, ?_, ?_⟩ <;> rw [eq]
  · exact (frame.setThread y).perf _ _
  · rw [State.perf_thread, State.thread_setThread_self]

/-- What is true of the thread that an instruction leaves is true of the thread after it. -/
theorem ThreadBecomes.imp {i : Instr} {tile th : Nat} {s : State} {y : Thread} (h : ThreadBecomes i tile th s y) {q : Thread → Prop} (hq : q y) :
    ∃ t, exec i s = .next t ∧ ThreadFrame tile th s t ∧ q (t.thread tile th) := by
  obtain ⟨t, run, frame, rfl⟩ := h
  exact ⟨t, run, frame, hq⟩

/-! ## Results of vector instructions (R149, R162) -/

theorem vectorWritten_putV (x : Thread) (d v : Nat) : VectorWritten d v 0 x (x.putV d v).next := by
  refine ⟨?_, Thread.vreg_setV_self x d _, fun k hk => Thread.vreg_setV_ne x _ hk⟩
  simp only [Thread.putV, Thread.setV, Thread.next, BitVec.ofNat_eq_ofNat, BitVec.or_zero]

theorem ThreadBecomes.vectorF {i : Instr} {tile th d : Nat} {s : State} {r : Nat × Nat}
    (h : ThreadBecomes i tile th s ((s.thread tile th).putVF d r).next) :
    ∃ t, exec i s = .next t ∧ ThreadFrame tile th s t ∧ VectorWritten d r.1 r.2 (s.thread tile th) (t.thread tile th) :=
  h.imp (q := VectorWritten d r.1 r.2 (s.thread tile th)) (vectorWritten_putVF _ d r)

theorem ThreadBecomes.vector {i : Instr} {tile th d v : Nat} {s : State}
    (h : ThreadBecomes i tile th s ((s.thread tile th).putV d v).next) :
    ∃ t, exec i s = .next t ∧ ThreadFrame tile th s t ∧ VectorWritten d v 0 (s.thread tile th) (t.thread tile th) :=
  h.imp (q := VectorWritten d v 0 (s.thread tile th)) (vectorWritten_putV _ d v)

/-- VMX packs where bit 1 of VAR is 0, and unpacks where it is 1 (R155). -/
def vmxResult (var fmt a : Nat) : Nat × Nat := if var / 2 = 0 then (vmxPack fmt (var % 2 == 1) a, 0) else vmxUnpack fmt a

theorem vmx_becomes {s : State} {tile : Fin 64} {th : Fin 8} {var mask : BitVec 3} {ty : BitVec 4} {b a d : BitVec 5}
    (valid : okV 0x09 var.toNat mask.toNat ty.toNat b.toNat a.toNat d.toNat = true) (can : s.canIssue tile th = true) :
    let x := s.thread tile th
    let r := vmxResult var.toNat b.toNat (x.vN a.toNat)
    ThreadBecomes (.vmx tile th var mask ty b a d) tile th s (x.putVF d.toNat
      ((lanes 32 64 (x.mN mask.toNat) (x.vN d.toNat) fun j => (elem r.1 32 j, 0)).1, r.2)).next :=
  threadBecomes_of_issue rfl valid can rfl

/-- VHASH without string references writes its thread alone; it counts a hash besides its issue. -/
theorem vhash_becomes {s : State} {tile : Fin 64} {th : Fin 8} {var mask : BitVec 3} {ty : BitVec 4} {b a d : BitVec 5}
    (valid : okV 0x0E var.toNat mask.toNat ty.toNat b.toNat a.toNat d.toNat = true) (can : s.canIssue tile th = true)
    (values : ty.toNat ≠ 15) :
    let x := s.thread tile th
    ThreadBecomes (.vhash tile th var mask ty b a d) tile th s
      (x.putVF d.toNat (vhash var.toNat ty.toNat (x.mN mask.toNat) (x.vN a.toNat) (x.vN d.toNat) (x.sN b.toNat))).next := by
  refine threadBecomes_of_issueWith rfl valid can fun p _ _ _ => ⟨s.perf (pgTILE tile) 0x114 1, ?_, (ThreadFrame.refl _ _ s).perf _ _⟩
  simp only [values, if_false]

/-- Settles O3: each instruction puts its result and its flags into its thread. -/
theorem vectorResults : Obligations.VectorResults := by
  unfold Obligations.VectorResults
  intro s tile th var mask ty b a d can x z ok writes m va vb vd
  refine ⟨?varith, ?vfma, ?vlogic, ?vunary, ?vtrans, ?vsel, ?vcvt, ?vdec, ?vperm, ?vbucket, ?vnorm, ?vhash, ?pack, ?unpack⟩
  case vhash => exact fun valid values => (vhash_becomes valid can values).vectorF
  case pack =>
    intro valid packs
    have h := (vmx_becomes valid can).vectorF
    rwa [vmxResult, if_pos packs] at h
  case unpack =>
    intro valid unpacks
    have h := (vmx_becomes valid can).vectorF
    rwa [vmxResult, if_neg (by omega)] at h
  case vsel | vbucket =>
    refine fun valid => ThreadBecomes.vector ?_
    exact threadBecomes_of_issue rfl valid can rfl
  all_goals
    refine fun valid => ThreadBecomes.vectorF ?_
    exact threadBecomes_of_issue rfl valid can rfl


end Sys2Proof.Machine

namespace Sys2Proof.Machine
open Sys2Proof
/-! ## String references (R162, R177) -/

/-- A masked write whose elements raise no flag raises none. -/
theorem flags_lanes_none {w n mask d : Nat} {f : Nat → Nat × Nat} (none_ : ∀ j, (f j).2 = 0) : (lanes w n mask d f).2 = 0 := by
  unfold lanes
  refine foldl_eq_self fun j _ => ?_
  rw [none_, Nat.or_zero, ite_self]

/-- Offset and length of a string reference (R177). -/
def refOff (r : Nat) : Nat := r % 2 ^ 23
def refLen (r : Nat) : Nat := r / 2 ^ 32 % 2 ^ 16

/-- A lane of a mask register, as the vector unit reads it. -/
theorem Thread.mN_selects (x : Thread) (k j : Nat) : (x.mN k / 2 ^ j % 2 == 1) = (x.mreg k).getLsbD j := by
  rw [Thread.mN, BitVec.getLsbD, Nat.testBit_eq_decide_div_mod_eq, beq_eq_decide]

/-- VHASH of strings that all lie within the claim writes its thread alone. -/
theorem vhashStr_becomes {s : State} {tile : Fin 64} {th : Fin 8} {var mask : BitVec 3} {b a d : BitVec 5} {p stage chunk : Nat}
    (run : s.runOf tile = some (p, stage, chunk)) (can : s.canIssue tile th = true) (hashes : var.toNat ≤ 3)
    (claimed : ∀ j, j < 32 → ((s.thread tile th).mreg mask.toNat).getLsbD j = true →
      refOff (elem ((s.thread tile th).vN a.toNat) 64 j) + refLen (elem ((s.thread tile th).vN a.toNat) 64 j) ≤ s.tmBytes p) :
    let x := s.thread tile th
    ThreadBecomes (.vhash tile th var mask 15 b a d) tile th s
      (x.putVF d.toNat (vhashStr var.toNat (x.mN mask.toNat) (x.vN a.toNat) (x.vN d.toNat) (x.sN b.toNat)
        fun off n => s.tmRead tile off n)).next := by
  have valid : okV 0x0E var.toNat mask.toNat (15 : BitVec 4).toNat b.toNat a.toNat d.toNat = true := by
    simp [okV, hashes]; omega
  refine threadBecomes_of_issueWith rfl valid can fun p' stage' chunk' run' =>
    ⟨s.perf (pgTILE tile) 0x114 1, ?_, (ThreadFrame.refl _ _ s).perf _ _⟩
  obtain ⟨rfl, _⟩ := Prod.mk.inj (Option.some.inj (run'.symm.trans run))
  have bytes : ∀ p, (s.perf (pgTILE tile) 0x114 1).tmBytes p = s.tmBytes p := fun p => by rw [State.perf_eq]; rfl
  have reads : (fun off n => (s.perf (pgTILE tile) 0x114 1).tmRead tile off n) = fun off n => s.tmRead tile off n := by
    rw [State.perf_eq]; rfl
  have inside : ((List.range 32).find? fun j => (s.thread tile th).mN mask.toNat / 2 ^ j % 2 == 1 &&
      !(s.perf (pgTILE tile) 0x114 1).tmOk p' (elem ((s.thread tile th).vN a.toNat) 64 j % 2 ^ 23)
        (elem ((s.thread tile th).vN a.toNat) 64 j / 2 ^ 32 % 2 ^ 16)) = none := by
    refine List.find?_eq_none.2 fun j hj out => ?_
    rw [Thread.mN_selects, Bool.and_eq_true, Bool.not_eq_true', State.tmOk, bytes, decide_eq_false_iff_not] at out
    exact out.2 (claimed j (List.mem_range.1 hj) out.1)
  have ty : (15 : BitVec 4).toNat = 15 := rfl
  simp only [ty, if_true, inside, reads]

/-- Settles O4: the strings of the selected lanes lie within the claim, and the hash of each stands in its lane. -/
theorem stringHash : Obligations.StringHash := by
  unfold Obligations.StringHash
  intro s tile th var mask b a d p stage chunk run can hashes x claimed
  have h := (vhashStr_becomes (b := b) (d := d) run can hashes claimed).vectorF
  have flags := flags_lanes_none (w := 64) (n := 32) (mask := x.mN mask.toNat) (d := x.vN d.toNat) (f := fun j =>
    (hashBytes var.toNat (s.tmRead tile (refOff (elem (x.vN a.toNat) 64 j)) (refLen (elem (x.vN a.toNat) 64 j))) (x.sN b.toNat), 0))
    fun _ => rfl
  obtain ⟨t, runs, frame, written⟩ := h
  refine ⟨t, runs, frame, ?_, fun j hj selected => ?_⟩
  · exact flags ▸ written
  · rw [written.2.1, vhashStr, elem_lanes 64 32 _ _ _ (by omega) (by omega), if_pos ⟨hj, selected⟩]

/-! ## Results in mask and scalar registers (R149, R162) -/

theorem ThreadBecomes.scalarF {i : Instr} {tile th d : Nat} {s : State} {r : Nat × Nat}
    (h : ThreadBecomes i tile th s ((s.thread tile th).putSF d r).next) :
    ∃ t, exec i s = .next t ∧ ThreadFrame tile th s t ∧ ScalarWritten d r.1 r.2 (s.thread tile th) (t.thread tile th) :=
  h.imp (q := ScalarWritten d r.1 r.2 (s.thread tile th)) (scalarWritten_putSF _ d r)

theorem scalarWritten_putS (x : Thread) (d v : Nat) : ScalarWritten d v 0 x (x.putS d v).next := by
  have same : (x.putS d v).next = (x.putSF d (v, 0)).next := by
    simp only [Thread.putSF, Thread.orFlags, BitVec.or_zero]
  exact same ▸ scalarWritten_putSF x d (v, 0)

theorem ThreadBecomes.scalar {i : Instr} {tile th d v : Nat} {s : State}
    (h : ThreadBecomes i tile th s ((s.thread tile th).putS d v).next) :
    ∃ t, exec i s = .next t ∧ ThreadFrame tile th s t ∧ ScalarWritten d v 0 (s.thread tile th) (t.thread tile th) :=
  h.imp (q := ScalarWritten d v 0 (s.thread tile th)) (scalarWritten_putS _ d v)

theorem ThreadBecomes.mask {i : Instr} {tile th d v : Nat} {s : State}
    (h : ThreadBecomes i tile th s ((s.thread tile th).setM d (BitVec.ofNat 512 v)).next) :
    ∃ t, exec i s = .next t ∧ ThreadFrame tile th s t ∧ MaskWritten d v (s.thread tile th) (t.thread tile th) :=
  h.imp (q := MaskWritten d v (s.thread tile th)) (maskWritten_setM _ d v)

theorem word_toNat (v : Word) : word v.toNat = v := (BitVec.ofNat_toNat 64 v).trans (BitVec.setWidth_eq v)

/-- SPARAM writes the parameter of the chunk (R69). -/
theorem sparam_becomes {s : State} {tile : Fin 64} {th : Fin 8} {imm : BitVec 12} {d : BitVec 5} {p stage k : Nat} {v : Word}
    (run : s.runOf tile = some (p, stage, k)) (can : s.canIssue tile th = true)
    (param : (s.chunkParams p k)[imm.toNat]? = some v) :
    ThreadBecomes (.sparam tile th imm 0 0 d) tile th s ((s.thread tile th).putS d.toNat v.toNat).next := by
  refine threadBecomes_of_issue (ok := okI 0x24 imm.toNat 0 0 d.toNat) (f := fun x => x.setS d.toNat v) ?_ rfl can ?_
  · show execSparam tile th imm 0 0 d s = _
    simp only [execSparam, run, param]; rfl
  · rw [Thread.putS, word_toNat]

/-- Settles O5: each instruction puts its result into the one register that it names. -/
theorem maskAndScalarResults : Obligations.MaskAndScalarResults := by
  unfold Obligations.MaskAndScalarResults
  intro s tile th var mask ty b a d imm imm20 f3 can x z frame ok m
  refine ⟨?vcmp, ?vred, ?salu, ?salui, ?slui, ?sparam, ?beat, ?flags, ?clear⟩
  case vcmp =>
    refine fun valid => ThreadBecomes.mask ?_
    exact threadBecomes_of_issue rfl valid can rfl
  case vred | salu =>
    refine fun valid => ThreadBecomes.scalarF ?_
    exact threadBecomes_of_issue rfl valid can rfl
  case salui =>
    refine ThreadBecomes.scalarF ?_
    exact threadBecomes_of_issue rfl rfl can rfl
  case slui =>
    refine ThreadBecomes.scalar (threadBecomes_of_issue (ok := true) (f := fun x => x.setS d.toNat (imm20.signExtend 64 * 4096))
      rfl rfl can ?_)
    rw [Thread.putS, word_toNat]
  case sparam => exact fun p stage k v run param => (sparam_becomes run can param).scalar
  case beat =>
    refine ThreadBecomes.scalar ?_
    exact threadBecomes_of_issue rfl rfl can rfl
  case flags =>
    refine ThreadBecomes.scalar ?_
    exact threadBecomes_of_issue rfl rfl can rfl
  case clear =>
    have h : ThreadBecomes (.smisc tile th 0 2 0 0) tile th s { x with flags := 0, pc := (x.pc + 1) % 2 ^ 14 } :=
      threadBecomes_of_issue rfl rfl can rfl
    exact h
end Sys2Proof.Machine

namespace Sys2Proof.Machine
open Sys2Proof

/-! ## Two's complement (R157) -/

/-- The signed value of a word's pattern. -/
theorem toS_word (x : Word) : toS 64 x.toNat = x.toInt := by
  have := x.isLt
  rw [toS, BitVec.toInt]
  split <;> split <;> omega

theorem word_ofI (i : Int) : word (ofI 64 i) = BitVec.ofInt 64 i := by
  apply BitVec.eq_of_toNat_eq
  rw [word, BitVec.toNat_ofNat, Nat.mod_eq_of_lt (ofI_lt i), BitVec.toNat_ofInt]
  rfl

/-! ## Branches (R161, R162) -/

theorem bitVec_eq_zero_iff {w : Nat} (m : BitVec w) : m = 0#w ↔ m.toNat = 0 := by simp [BitVec.toNat_eq]

/-- The condition of a BR, as Table TILE-6 names it. -/
theorem brTaken_iff (cond : Nat) (u v : Word) (m : MReg) (known : cond ≤ 7) :
    brTaken cond u.toNat v.toNat m.toNat = true ↔
      (cond = 0 ∧ u = v) ∨ (cond = 1 ∧ u ≠ v) ∨ (cond = 2 ∧ u.slt v = true) ∨ (cond = 3 ∧ u.slt v = false) ∨
        (cond = 4 ∧ u.ult v = true) ∨ (cond = 5 ∧ u.ult v = false) ∨ (cond = 6 ∧ m ≠ 0) ∨ (cond = 7 ∧ m = 0) := by
  have zero := bitVec_eq_zero_iff m
  have same : u = v ↔ u.toNat = v.toNat := BitVec.toNat_inj.symm
  interval_cases cond <;> simp [brTaken, toS_word, BitVec.slt, BitVec.ult, zero, same]

/-- A branch writes the program counter of its thread alone. -/
theorem br_becomes {s : State} {tile : Fin 64} {th : Fin 8} {imm : BitVec 10} {b a cond : BitVec 5} {go : Bool}
    (valid : okB 0x30 imm.toNat b.toNat cond.toNat = true) (regs : cond.toNat ≤ 5 ∨ a.toNat ≤ 7)
    (can : s.canIssue tile th = true)
    (taken : brTaken cond.toNat ((s.thread tile th).sN a.toNat) ((s.thread tile th).sN b.toNat) ((s.thread tile th).mN a.toNat) = go) :
    ThreadBecomes (.br tile th imm b a cond) tile th s
      (bif go then (s.thread tile th).jump imm.toInt else (s.thread tile th).next) := by
  refine threadBecomes_of_issueWith rfl ?_ can fun p _ _ _ => ⟨s, ?_, .refl _ _ s⟩
  · rw [valid]; simpa using regs
  · rw [taken]
    cases go <;> rfl

theorem ret_becomes {s : State} {tile : Fin 64} {th : Fin 8} {p stage chunk : Nat} (run : s.runOf tile = some (p, stage, chunk))
    (can : s.canIssue tile th = true) (inside : ((s.thread tile th).sreg 31).toNat < (s.image p).codeWords) :
    ThreadBecomes (.ret tile th 0) tile th s { s.thread tile th with pc := ((s.thread tile th).sreg 31).toNat } := by
  refine threadBecomes_of_issueWith rfl rfl can fun p' _ _ run' => ⟨s, ?_, .refl _ _ s⟩
  obtain ⟨rfl, _⟩ := Prod.mk.inj (Option.some.inj (run'.symm.trans run))
  exact if_pos inside

/-- Settles O7: a branch goes where its condition says (`brTaken_iff`); JMP, CALL and RET set the program counter. -/
theorem branches : Obligations.Branches := by
  unfold Obligations.Branches
  intro s tile th imm far b a cond p stage chunk run can x goes u v holds target
  refine ⟨fun valid regs => ?_, ?_, ?_, ret_becomes run can⟩
  · have known : cond.toNat ≤ 7 := by simp [okB] at valid; omega
    have taken : brTaken cond.toNat (x.sN a.toNat) (x.sN b.toNat) (x.mN a.toNat) = true ↔ holds :=
      brTaken_iff cond.toNat u v (x.mreg a.toNat) known
    exact ⟨fun yes => br_becomes valid regs can (taken.2 yes),
      fun no => br_becomes valid regs can (Bool.eq_false_iff.2 (mt taken.1 no))⟩
  · exact threadBecomes_of_issueWith (ok := true) rfl rfl can fun _ _ _ _ => ⟨s, rfl, .refl _ _ s⟩
  · refine threadBecomes_of_issueWith (ok := true) rfl rfl can fun _ _ _ _ => ⟨s, ?_, .refl _ _ s⟩
    have pc : (x.putS 31 (x.pc + 1)).pc = x.pc := rfl
    show State.setThread s tile th ((x.putS 31 (x.pc + 1)).jump far.toInt) = _
    rw [Thread.jump, pc]; rfl

/-! ## Elements of vector registers (R162) -/

/-- A vector register written alone, without flags. -/
theorem vins_becomes {s : State} {tile : Fin 64} {th : Fin 8} {imm : BitVec 12} {f3 : BitVec 3} {a d : BitVec 5} {w : Nat}
    (valid : f3.toNat ≤ 1) (width : (if f3.toNat = 0 then 32 else 64) = w) (inside : imm.toNat < 2048 / w)
    (can : s.canIssue tile th = true) :
    let x := s.thread tile th
    ThreadBecomes (.vins tile th imm f3 a d) tile th s (x.putV d.toNat (pack w (2048 / w) fun j =>
      if j = imm.toNat then x.sN a.toNat % 2 ^ w else elem (x.vN d.toNat) w j)).next := by
  subst width
  exact threadBecomes_of_issueWith rfl (decide_eq_true valid) can fun _ _ _ _ => ⟨s, if_pos inside, .refl _ _ s⟩

theorem vmovs_becomes {s : State} {tile : Fin 64} {th : Fin 8} {imm : BitVec 12} {f3 : BitVec 3} {a d : BitVec 5} {w : Nat}
    (valid : f3.toNat ≤ 1) (width : (if f3.toNat = 0 then 32 else 64) = w) (inside : imm.toNat < 2048 / w)
    (can : s.canIssue tile th = true) :
    let x := s.thread tile th
    ThreadBecomes (.vmovs tile th imm f3 a d) tile th s (x.putS d.toNat (elem (x.vN a.toNat) w imm.toNat)).next := by
  subst width
  exact threadBecomes_of_issueWith rfl (decide_eq_true valid) can fun _ _ _ _ => ⟨s, if_pos inside, .refl _ _ s⟩

/-- Settles O8: VMOVS reads an element, and VINS packs the register anew with one element replaced. -/
theorem elementMoves : Obligations.ElementMoves := by
  unfold Obligations.ElementMoves
  intro s tile th imm f3 a d can valid w inside x
  refine ⟨(vmovs_becomes valid rfl inside can).scalar, ?_⟩
  obtain ⟨t, runs, frame, eq⟩ := vins_becomes (a := a) (d := d) valid rfl inside can
  refine ⟨t, runs, frame, ?_⟩
  rw [eq]
  refine ⟨rfl, fun k hk => Thread.vreg_setV_ne x _ hk, fun j hj => ?_⟩
  have own : Thread.vreg (x.putV d.toNat (pack w (2048 / w) fun j =>
      if j = imm.toNat then x.sN a.toNat % 2 ^ w else elem (x.vN d.toNat) w j)).next d.toNat = _ :=
    Thread.vreg_setV_self x d.toNat _
  rw [own, elem_ofNat_pack w _ _ hj (Nat.mul_div_le 2048 w)]
  refine Nat.mod_eq_of_lt ?_
  split
  · exact Nat.mod_lt _ (Nat.two_pow_pos w)
  · exact elem_lt _ _ _

/-! ## Constants of the image (R162, R165) -/

theorem sconst_becomes {s : State} {tile : Fin 64} {th : Fin 8} {imm : BitVec 12} {a d : BitVec 5} {p stage chunk : Nat}
    {img : Region} (run : s.runOf tile = some (p, stage, chunk)) (can : s.canIssue tile th = true)
    (area : (s.slot p).alloc.image = some img) :
    let x := s.thread tile th
    let o := addrOf (x.sN a.toNat) (imm.toInt * 8)
    let r := s.readDev (img.base + (s.image p).constOff + o) 8
    o + 8 ≤ (s.image p).constBytes → r.2 = false →
    ThreadBecomes (.sconst tile th imm 0 a d) tile th s (x.putS d.toNat (leNat r.1)).next := by
  intro x o r inside clean
  refine threadBecomes_of_issueWith rfl rfl can fun p' _ _ run' => ⟨s, ?_, .refl _ _ s⟩
  obtain ⟨rfl, _⟩ := Prod.mk.inj (Option.some.inj (run'.symm.trans run))
  have read : (s.readDev (((s.slot p').alloc.image.map Region.base).getD 0 + (s.image p').constOff + o) 8) = r := by
    rw [area]; rfl
  show (if o + 8 > (s.image p').constBytes then _ else _) = _
  rw [if_neg (by omega)]
  simp only [immI, x, o] at read ⊢
  simp only [read, clean, Bool.false_eq_true, if_false]

/-- Settles O9: SCONST reads the image area at its offset. -/
theorem constantRead : Obligations.ConstantRead := by
  unfold Obligations.ConstantRead
  intro s tile th imm a d p stage chunk img run can area x o inside clean
  exact (sconst_becomes run can area inside clean).scalar
end Sys2Proof.Machine

namespace Sys2Proof.Machine
open Sys2Proof

/-! ## Integer arithmetic (R157) -/

theorem tyFmt_int {t : Nat} (int : t ≤ 7) : tyFmt t = none := by
  interval_cases t <;> rfl

theorem tyWidth_pos (t : Nat) : 0 < tyWidth t := by
  unfold tyWidth
  repeat' split
  all_goals decide

/-- A difference modulo 2^w. -/
theorem ofI_sub {w a b : Nat} (hb : b ≤ 2 ^ w) : ofI w ((a : Int) - (b : Int)) = (a + (2 ^ w - b)) % 2 ^ w := by
  have eq : ((a : Int) - b) % (2 ^ w : Int) = ((a + (2 ^ w - b) : Nat) : Int) % (2 ^ w : Int) := by
    push_cast [hb]
    rw [show (a : Int) + (2 ^ w - b) = a - b + 2 ^ w by ring, Int.add_emod_right]
  rw [ofI, eq]
  norm_cast

/-- Division by zero gives all ones and sets DZ; its remainder is the dividend. -/
theorem intDiv_zero (t a : Nat) {b : Nat} (zero : b = 0) : intDiv t a b = (2 ^ tyWidth t - 1, flagDZ) := by simp [intDiv, zero]
theorem intRem_zero (t a : Nat) {b : Nat} (zero : b = 0) : intRem t a b = (a, flagDZ) := by simp [intRem, zero]

/-- The most negative value of w bits, and −1. -/
theorem toS_most_negative {w : Nat} (hw : 0 < w) : toS w (2 ^ (w - 1)) = -(2 ^ (w - 1) : Nat) := by
  obtain ⟨n, rfl⟩ : ∃ n, w = n + 1 := ⟨w - 1, by omega⟩
  have lt : 2 ^ n % 2 ^ (n + 1) = 2 ^ n := Nat.mod_eq_of_lt (Nat.pow_lt_pow_right (by decide) (Nat.lt_succ_self n))
  have lt' : (2 ^ n : Int) % 2 ^ (n + 1) = 2 ^ n := by exact_mod_cast lt
  rw [toS, Nat.add_sub_cancel, if_pos lt.ge]
  push_cast
  rw [lt', pow_succ]
  ring

theorem toS_all_ones {w : Nat} (hw : 0 < w) : toS w (2 ^ w - 1) = -1 := by
  obtain ⟨n, rfl⟩ : ∃ n, w = n + 1 := ⟨w - 1, by omega⟩
  have pos := Nat.two_pow_pos n
  have pos' := Nat.two_pow_pos (n + 1)
  have double : 2 ^ (n + 1) = 2 * 2 ^ n := by rw [pow_succ, Nat.mul_comm]
  have lt : (2 ^ (n + 1) - 1) % 2 ^ (n + 1) = 2 ^ (n + 1) - 1 := Nat.mod_eq_of_lt (by omega)
  have cast : ((2 ^ (n + 1) - 1 : Nat) : Int) % 2 ^ (n + 1) = 2 ^ (n + 1) - 1 := by
    have h : (((2 ^ (n + 1) - 1) % 2 ^ (n + 1) : Nat) : Int) = ((2 ^ (n + 1) - 1 : Nat) : Int) := by rw [lt]
    push_cast [pos'] at h ⊢
    exact h
  rw [toS, Nat.add_sub_cancel, if_pos (by omega), cast]
  ring

theorem tyInt_signed {t : Nat} (signed : tySigned t = true) (x : Nat) : tyInt t x = toS (tyWidth t) x := if_pos signed

/-- −1 is not zero. -/
theorem all_ones_mod_ne_zero {w : Nat} (hw : 0 < w) : (2 ^ w - 1) % 2 ^ w ≠ 0 := by
  have two : 2 ^ 1 ≤ 2 ^ w := Nat.pow_le_pow_right (by decide) hw
  rw [Nat.mod_eq_of_lt (by omega)]
  omega

/-- The most negative value divided by −1 gives that value, with remainder 0. -/
theorem intDiv_overflow {t a b : Nat} (signed : tySigned t = true) (most : a = 2 ^ (tyWidth t - 1)) (ones : b = 2 ^ tyWidth t - 1) :
    intDiv t a b = (a, 0) := by
  subst most ones
  have hw := tyWidth_pos t
  have lt : 2 ^ (tyWidth t - 1) < 2 ^ tyWidth t := Nat.pow_lt_pow_right (by decide) (by omega)
  have quotient : ofI (tyWidth t) ((2 ^ (tyWidth t - 1) : Nat) : Int) = 2 ^ (tyWidth t - 1) := by
    rw [ofI]
    norm_cast
    exact Nat.mod_eq_of_lt lt
  simp only [intDiv, if_neg (all_ones_mod_ne_zero hw), signed, if_true, tyInt_signed signed, toS_most_negative hw, toS_all_ones hw,
    Int.tdiv_neg, Int.tdiv_one, neg_neg, quotient]

theorem intRem_overflow {t b : Nat} (a : Nat) (signed : tySigned t = true) (ones : b = 2 ^ tyWidth t - 1) :
    intRem t a b = (0, 0) := by
  subst ones
  have hw := tyWidth_pos t
  simp only [intRem, if_neg (all_ones_mod_ne_zero hw), signed, if_true, tyInt_signed signed, toS_all_ones hw, Int.tmod_neg,
    Int.tmod_one, ofI, Int.zero_emod, Int.toNat_zero]

theorem flagDZ_dz : flagDZ.testBit 1 = true := by decide

/-- What VARITH does to integers: sums, differences and products wrap; division and remainder are R157's. -/
theorem varithElem_int {t : Nat} (int : t ≤ 7) (z : Bool) (a b : Nat) :
    varithElem 0 t z a b = ((a + b) % 2 ^ tyWidth t, 0) ∧
    varithElem 1 t z a b = (ofI (tyWidth t) ((a : Int) - (b : Int)), 0) ∧
    varithElem 2 t z a b = (a * b % 2 ^ tyWidth t, 0) ∧
    varithElem 6 t z a b = intDiv t a b ∧ varithElem 7 t z a b = intRem t a b := by
  simp only [varithElem, tyFmt_int int, and_self]

/-- A flag that a result joins stands in the thread. -/
theorem joined_flag {x y : Thread} {fl i : Nat} (joined : y.flags = x.flags ||| BitVec.ofNat 6 fl) (six : i < 6)
    (raised : fl.testBit i = true) : y.flags.getLsbD i = true := by
  rw [joined, BitVec.getLsbD_or, BitVec.getLsbD_ofNat, raised, decide_eq_true six, Bool.true_and, Bool.or_true]

/-- VARITH in a selected lane: the result of the lane, and its flags. -/
theorem varith_lane {s : State} {tile : Fin 64} {th : Fin 8} {var mask : BitVec 3} {ty : BitVec 4} {b a d : BitVec 5}
    (valid : okV 0x01 var.toNat mask.toNat ty.toNat b.toNat a.toNat d.toNat = true) (can : s.canIssue tile th = true) :
    let x := s.thread tile th
    let w := tyWidth ty.toNat
    let r := fun j => varithElem var.toNat ty.toNat (s.ftz tile) (elem (x.vN a.toNat) w j) (elem (x.vN b.toNat) w j)
    ∃ t, exec (.varith tile th var mask ty b a d) s = .next t ∧
      ∀ j, j < 2048 / w → (x.mreg mask.toNat).getLsbD j = true →
        elem ((t.thread tile th).vreg d.toNat).toNat w j = (r j).1 % 2 ^ w ∧
          ((r j).2.testBit 1 = true → (t.thread tile th).flags.getLsbD 1 = true) := by
  intro x w r
  obtain ⟨t, runs, _, joined, value, _⟩ := (vectorResults s tile th var mask ty b a d can).1 valid
  refine ⟨t, runs, fun j hj selected => ⟨?_, fun raised => ?_⟩⟩
  · rw [value, varith, elem_lanes w _ _ _ _ hj (Nat.mul_div_le 2048 w), if_pos ⟨hj, selected⟩]
  · exact joined_flag (x := x) (congrArg Thread.flags joined) (by decide) (flags_lanes w _ _ _ r hj selected raised)

/-- SALU: the function that TYPE names, and its flags. -/
theorem salu_result {s : State} {tile : Fin 64} {th : Fin 8} {ty : BitVec 4} {b a d : BitVec 5} (can : s.canIssue tile th = true)
    (kept : d.toNat ≠ 0) :
    let x := s.thread tile th
    let r := saluFn ty.toNat (x.sreg a.toNat).toNat (x.sreg b.toNat).toNat
    ∃ t, exec (.salu tile th 0 0 ty b a d) s = .next t ∧ (t.thread tile th).sreg d.toNat = word r.1 ∧
      (r.2.testBit 1 = true → (t.thread tile th).flags.getLsbD 1 = true) := by
  intro x r
  have h : ThreadBecomes (.salu tile th 0 0 ty b a d) tile th s (x.putSF d.toNat r).next := threadBecomes_of_issue rfl rfl can rfl
  obtain ⟨t, runs, _, joined, value, _⟩ := h.scalarF
  exact ⟨t, runs, value kept, joined_flag (x := x) (congrArg Thread.flags joined) (by decide)⟩

/-- Settles O1: each lane of VARITH is `varithElem_int`, and SALU is the 64-bit case. -/
theorem integerArithmetic : Obligations.IntegerArithmetic := by
  unfold Obligations.IntegerArithmetic
  intro s tile th var mask ty b a d int can
  refine ⟨?_, fun kept => ?_⟩
  · have valid : okV 0x01 var.toNat mask.toNat ty.toNat b.toNat a.toNat d.toNat = true := by simp [okV]; omega
    obtain ⟨t, runs, lane⟩ := varith_lane valid can
    refine ⟨t, runs, ?_⟩
    intro j hj selected w p q r dz
    obtain ⟨result, flag⟩ := lane j hj selected
    obtain ⟨sum, difference, product, quotient, remainder⟩ := varithElem_int int (s.ftz tile) p q
    have hp : p < 2 ^ w := elem_lt _ _ _
    have hq : q < 2 ^ w := elem_lt _ _ _
    have gives : ∀ {v e}, varithElem v ty.toNat (s.ftz tile) p q = e → var.toNat = v →
        r = e.1 % 2 ^ w ∧ (e.2.testBit 1 = true → dz = true) := by
      rintro v e rfl rfl
      exact ⟨result, flag⟩
    refine ⟨fun h => ?_, fun h => ?_, fun h => ?_, fun h zero => ?_, fun h zero => ?_, fun signed most ones => ?_⟩
    · rw [(gives sum h).1, Nat.mod_mod]
    · rw [(gives difference h).1, ofI_sub hq.le, Nat.mod_mod]
    · rw [(gives product h).1, Nat.mod_mod]
    · obtain ⟨value, raised⟩ := gives (quotient.trans (intDiv_zero _ p zero)) h
      exact ⟨value.trans (Nat.mod_eq_of_lt (Nat.sub_lt (Nat.two_pow_pos w) one_pos)), raised flagDZ_dz⟩
    · obtain ⟨value, raised⟩ := gives (remainder.trans (intRem_zero _ p zero)) h
      exact ⟨value.trans (Nat.mod_eq_of_lt hp), raised flagDZ_dz⟩
    · have signed : tySigned ty.toNat = true := by simp [tySigned, signed]
      exact ⟨fun h => (gives (quotient.trans (intDiv_overflow signed most ones)) h).1.trans (Nat.mod_eq_of_lt hp),
        fun h => (gives (remainder.trans (intRem_overflow p signed ones)) h).1⟩
  · obtain ⟨t, runs, value, flag⟩ := salu_result (ty := ty) (b := b) (a := a) can kept
    refine ⟨t, runs, ?_⟩
    intro p q r dz
    have hp : p < 2 ^ 64 := BitVec.isLt _
    have hq : q < 2 ^ 64 := BitVec.isLt _
    have gives : ∀ {v e}, saluFn v p q = e → ty.toNat = v → r = e.1 % 2 ^ 64 ∧ (e.2.testBit 1 = true → dz = true) := by
      rintro v e rfl rfl
      exact ⟨(congrArg BitVec.toNat value).trans (BitVec.toNat_ofNat _ _), flag⟩
    have quotient : ∀ {t}, tyWidth t = 64 → intDiv t p q = saluFn ty.toNat p q → q = 0 → r = 2 ^ 64 - 1 ∧ dz = true := by
      intro t w fn zero
      obtain ⟨value, raised⟩ := gives (fn.symm.trans (intDiv_zero t p zero)) rfl
      rw [w] at value
      exact ⟨value, raised flagDZ_dz⟩
    have remainder : ∀ {t}, intRem t p q = saluFn ty.toNat p q → q = 0 → r = p ∧ dz = true := by
      intro t fn zero
      obtain ⟨value, raised⟩ := gives (fn.symm.trans (intRem_zero t p zero)) rfl
      exact ⟨value.trans (Nat.mod_eq_of_lt hp), raised flagDZ_dz⟩
    refine ⟨fun h => ?_, fun h => ?_, fun h => ?_, fun h => ?_, fun h => ?_, fun most ones => ⟨fun h => ?_, fun h => ?_⟩⟩
    · rw [(gives (e := ((p + q) % 2 ^ 64, 0)) rfl h).1, Nat.mod_mod]
    · rw [(gives (e := (ofI 64 ((p : Int) - (q : Int)), 0)) rfl h).1, ofI_sub hq.le, Nat.mod_mod]
    · rw [(gives (e := (p * q % 2 ^ 64, 0)) rfl h).1, Nat.mod_mod]
    · rcases h with h | h
      · exact quotient (t := 7) rfl (by rw [h]; rfl)
      · exact quotient (t := 3) rfl (by rw [h]; rfl)
    · rcases h with h | h
      · exact remainder (t := 7) (by rw [h]; rfl)
      · exact remainder (t := 3) (by rw [h]; rfl)
    · exact (gives (v := 5) (intDiv_overflow (t := 3) rfl most ones) h).1.trans (Nat.mod_eq_of_lt hp)
    · exact (gives (v := 7) (intRem_overflow (t := 3) p rfl ones) h).1
end Sys2Proof.Machine

namespace Sys2Proof.Machine
open Sys2Proof

/-! ## The functions of SALU on 64-bit scalars (Table TILE-6) -/

/-- The word that SALU's function gives. -/
def saluWord (fn : Nat) (p q : Word) : Word := word (saluFn fn p.toNat q.toNat).1

theorem saluWord_add (p q : Word) : saluWord 0 p q = p + q := by
  apply BitVec.eq_of_toNat_eq
  simp [saluWord, saluFn, word]

theorem saluWord_sub (p q : Word) : saluWord 1 p q = p - q := by
  have value : saluWord 1 p q = word ((p.toNat + (2 ^ 64 - q.toNat)) % 2 ^ 64) := congrArg word (ofI_sub q.isLt.le)
  apply BitVec.eq_of_toNat_eq
  rw [value, word, BitVec.toNat_ofNat, Nat.mod_mod, BitVec.toNat_sub, Nat.add_comm]

theorem saluWord_mul (p q : Word) : saluWord 2 p q = p * q := by
  apply BitVec.eq_of_toNat_eq
  simp [saluWord, saluFn, word]

theorem saluWord_mulhi (p q : Word) : (saluWord 3 p q).toNat = p.toNat * q.toNat / 2 ^ 64 :=
  Nat.mod_eq_of_lt (Nat.div_lt_of_lt_mul (Nat.mul_lt_mul'' p.isLt q.isLt))

/-- A divisor that is not zero. -/
theorem mod_ne_zero_of_ne_zero {q : Word} (nonzero : q ≠ 0) : q.toNat % 2 ^ 64 ≠ 0 := by
  rw [Nat.mod_eq_of_lt q.isLt]
  exact fun zero => nonzero ((bitVec_eq_zero_iff q).2 zero)

theorem saluWord_udiv (p : Word) {q : Word} (nonzero : q ≠ 0) : saluWord 4 p q = p / q := by
  have quotient : intDiv 7 p.toNat q.toNat = (p.toNat / q.toNat, 0) := if_neg (mod_ne_zero_of_ne_zero nonzero)
  apply BitVec.eq_of_toNat_eq
  rw [BitVec.toNat_udiv]
  show (intDiv 7 p.toNat q.toNat).1 % 2 ^ 64 = _
  rw [quotient]
  exact Nat.mod_eq_of_lt (lt_of_le_of_lt (Nat.div_le_self _ _) p.isLt)

theorem saluWord_sdiv (p : Word) {q : Word} (nonzero : q ≠ 0) : saluWord 5 p q = p.sdiv q := by
  have quotient : intDiv 3 p.toNat q.toNat = (ofI 64 (Int.tdiv (toS 64 p.toNat) (toS 64 q.toNat)), 0) :=
    if_neg (mod_ne_zero_of_ne_zero nonzero)
  apply BitVec.eq_of_toInt_eq
  show (word (intDiv 3 p.toNat q.toNat).1).toInt = _
  rw [quotient, word_ofI, toS_word, toS_word, BitVec.toInt_ofInt, BitVec.toInt_sdiv]

theorem saluWord_umod (p q : Word) : saluWord 6 p q = p % q := by
  apply BitVec.eq_of_toNat_eq
  rw [BitVec.toNat_umod]
  show (intRem 7 p.toNat q.toNat).1 % 2 ^ 64 = _
  by_cases zero : q = 0
  · rw [intRem_zero 7 _ (congrArg BitVec.toNat zero), zero]
    exact (Nat.mod_eq_of_lt p.isLt).trans (Nat.mod_zero _).symm
  · have remainder : intRem 7 p.toNat q.toNat = (p.toNat % q.toNat, 0) := if_neg (mod_ne_zero_of_ne_zero zero)
    rw [remainder]
    exact Nat.mod_eq_of_lt (lt_of_le_of_lt (Nat.mod_le _ _) p.isLt)

theorem saluWord_srem (p : Word) {q : Word} (nonzero : q ≠ 0) : saluWord 7 p q = p.srem q := by
  have remainder : intRem 3 p.toNat q.toNat = (ofI 64 (Int.tmod (toS 64 p.toNat) (toS 64 q.toNat)), 0) :=
    if_neg (mod_ne_zero_of_ne_zero nonzero)
  apply BitVec.eq_of_toInt_eq
  show (word (intRem 3 p.toNat q.toNat).1).toInt = _
  rw [remainder, word_ofI, toS_word, toS_word, BitVec.toInt_ofInt, ← BitVec.toInt_srem, BitVec.toInt_bmod_cancel]

theorem saluWord_and (p q : Word) : saluWord 8 p q = p &&& q := by
  apply BitVec.eq_of_toNat_eq
  rw [BitVec.toNat_and]
  exact Nat.mod_eq_of_lt (Nat.and_lt_two_pow _ q.isLt)

theorem saluWord_or (p q : Word) : saluWord 9 p q = p ||| q := by
  apply BitVec.eq_of_toNat_eq
  rw [BitVec.toNat_or]
  exact Nat.mod_eq_of_lt (Nat.or_lt_two_pow p.isLt q.isLt)

theorem saluWord_xor (p q : Word) : saluWord 10 p q = p ^^^ q := by
  apply BitVec.eq_of_toNat_eq
  rw [BitVec.toNat_xor]
  exact Nat.mod_eq_of_lt (Nat.xor_lt_two_pow p.isLt q.isLt)

theorem saluWord_shl (p : Word) {q : Word} (small : q.toNat < 64) : saluWord 11 p q = p <<< q.toNat := by
  apply BitVec.eq_of_toNat_eq
  simp [saluWord, saluFn, word, small, Nat.mod_eq_of_lt small, Nat.shiftLeft_eq]

theorem saluWord_shr (p : Word) {q : Word} (small : q.toNat < 64) : saluWord 12 p q = p >>> q.toNat := by
  apply BitVec.eq_of_toNat_eq
  have shifted : p.toNat / 2 ^ q.toNat < 2 ^ 64 := lt_of_le_of_lt (Nat.div_le_self _ _) p.isLt
  simp [saluWord, saluFn, word, small, Nat.mod_eq_of_lt small, Nat.shiftRight_eq_div_pow]
  exact shifted

theorem saluWord_sar (p : Word) {q : Word} (small : q.toNat < 64) : saluWord 13 p q = p.sshiftRight q.toNat := by
  have value : saluWord 13 p q = word (ofI 64 (toS 64 p.toNat / 2 ^ q.toNat)) := by
    simp [saluWord, saluFn, small, Nat.mod_eq_of_lt small]
  rw [value, word_ofI, toS_word, BitVec.sshiftRight, Int.shiftRight_eq_div_pow]
  norm_cast

theorem saluWord_slt (p q : Word) : saluWord 14 p q = if p.slt q then 1 else 0 := by
  have less : (toS 64 p.toNat < toS 64 q.toNat) ↔ p.slt q = true := by rw [toS_word, toS_word, BitVec.slt_iff_toInt_lt]
  show word (if toS 64 p.toNat < toS 64 q.toNat then 1 else 0) = _
  simp only [less]
  split <;> rfl

theorem saluWord_ult (p q : Word) : saluWord 15 p q = if p.ult q then 1 else 0 := by
  have less : (p.toNat < q.toNat) ↔ p.ult q = true := BitVec.ult_iff_lt.symm
  show word (if p.toNat < q.toNat then 1 else 0) = _
  simp only [less]
  split <;> rfl

/-- Settles O6: SALU writes `saluWord` of its function, which the lemmas above give. -/
theorem scalarFunctions : Obligations.ScalarFunctions := by
  unfold Obligations.ScalarFunctions
  intro s tile th ty b a d can kept
  obtain ⟨t, runs, value, _⟩ := salu_result (ty := ty) (b := b) (a := a) can kept
  refine ⟨t, runs, ?_⟩
  intro p q r
  have gives : ∀ {fn} {v : Word}, saluWord fn p q = v → ty.toNat = fn → r = v := by
    rintro fn v rfl rfl
    exact value
  exact ⟨gives (saluWord_add p q), gives (saluWord_sub p q), gives (saluWord_mul p q),
    fun h => (congrArg BitVec.toNat (gives rfl h)).trans (saluWord_mulhi p q),
    fun h nonzero => gives (saluWord_udiv p nonzero) h, fun h nonzero => gives (saluWord_sdiv p nonzero) h,
    gives (saluWord_umod p q), fun h nonzero => gives (saluWord_srem p nonzero) h,
    gives (saluWord_and p q), gives (saluWord_or p q), gives (saluWord_xor p q),
    fun h small => gives (saluWord_shl p small) h, fun h small => gives (saluWord_shr p small) h,
    fun h small => gives (saluWord_sar p small) h, gives (saluWord_slt p q), gives (saluWord_ult p q)⟩
end Sys2Proof.Machine

namespace Sys2Proof.Machine
open Sys2Proof

/-! ## Reads of tile memory without errors (R151, R152) -/

theorem State.tmOk_of {s : State} {p off n : Nat} (inside : off + n ≤ s.tmBytes p) : (!s.tmOk p off n) = false := by
  rw [State.tmOk, decide_eq_true inside]; rfl

/-- Where SECDED reports nothing a read gives what is stored, and raises no flag. -/
theorem State.tmLoad_clean (s : State) (tile off n : Nat) : s.tmLoad tile off n {} = (s.tmRead tile off n, 0) := by
  refine Prod.ext ?_ rfl
  simp [State.tmLoad, State.tmBytesAt, State.tmRead, cells, tmKey, Nat.add_assoc]

theorem State.tmEccRead_clean (s : State) (tile : Nat) (touched : List Nat) : s.tmEccRead tile touched {} = s := by
  have counted : s.tmEcc tile touched {} = s := rfl
  rw [State.tmEccRead, counted]
  split
  · rw [List.any_nil, Bool.and_false]; rfl
  · rfl

theorem vld_becomes {s : State} {tile : Fin 64} {th : Fin 8} {imm : BitVec 12} {a d : BitVec 5} {p stage chunk : Nat}
    (run : s.runOf tile = some (p, stage, chunk)) (can : s.canIssue tile th = true) :
    let x := s.thread tile th
    let o := addrOf (x.sN a.toNat) (imm.toInt * 64)
    o + 256 ≤ s.tmBytes p → o % 64 = 0 →
    ThreadBecomes (.vld tile th imm 0 a d {}) tile th s (x.putVF d.toNat (leNat (s.tmRead tile o 256), 0)).next := by
  intro x o inside aligned
  refine threadBecomes_of_issueWith rfl rfl can fun p' _ _ run' => ⟨s, ?_, .refl _ _ s⟩
  obtain ⟨rfl, _⟩ := Prod.mk.inj (Option.some.inj (run'.symm.trans run))
  have line : (o % 64 != 0) = false := by rw [aligned]; rfl
  simp only [immI, show addrOf ((s.thread tile th).sN a.toNat) (imm.toInt * 64) = o from rfl, State.tmOk_of inside, line,
    Bool.false_eq_true, if_false, State.tmLoad_clean, State.tmEccRead_clean]
  rfl

theorem sld_becomes {s : State} {tile : Fin 64} {th : Fin 8} {imm : BitVec 12} {a d : BitVec 5} {p stage chunk : Nat}
    (run : s.runOf tile = some (p, stage, chunk)) (can : s.canIssue tile th = true) :
    let x := s.thread tile th
    let o := addrOf (x.sN a.toNat) (imm.toInt * 8)
    o + 8 ≤ s.tmBytes p →
    ThreadBecomes (.sld tile th imm 0 a d {}) tile th s (x.putSF d.toNat (leNat (s.tmRead tile o 8), 0)).next := by
  intro x o inside
  refine threadBecomes_of_issueWith rfl rfl can fun p' _ _ run' => ⟨s, ?_, .refl _ _ s⟩
  obtain ⟨rfl, _⟩ := Prod.mk.inj (Option.some.inj (run'.symm.trans run))
  simp only [immI, show addrOf ((s.thread tile th).sN a.toNat) (imm.toInt * 8) = o from rfl, State.tmOk_of inside,
    Bool.false_eq_true, if_false, State.tmLoad_clean, State.tmEccRead_clean]
  rfl

/-! ## Lanes of an indexed access (R150, R162) -/

/-- A lane that an indexed access carries out. -/
def Thread.selects (x : Thread) (mask ty i : Nat) : Prop := i < lanesX ty ∧ (x.mreg mask).getLsbD i = true

/-- The address of a lane. -/
def Thread.laneAddr (x : Thread) (ty b a i : Nat) : Nat := (x.sN a + elem (x.vN b) 32 i * (tyWidth ty / 8)) % 2 ^ 64

theorem Thread.mem_laneAddrs {x : Thread} {mask ty b a : Nat} {l : Nat × Nat} :
    l ∈ x.laneAddrs mask ty b a ↔ x.selects mask ty l.1 ∧ l.2 = x.laneAddr ty b a l.1 := by
  obtain ⟨i, o⟩ := l
  simp only [Thread.laneAddrs, List.mem_map, List.mem_filter, List.mem_range, Thread.mN_selects, Thread.selects, Prod.mk.injEq]
  constructor
  · rintro ⟨_, selected, rfl, rfl⟩
    exact ⟨selected, rfl⟩
  · rintro ⟨selected, addr⟩
    exact ⟨i, selected, rfl, addr.symm⟩

/-- Every selected lane lies within the claim. -/
theorem Thread.laneAddrs_inside {s : State} {x : Thread} {p mask ty b a n : Nat}
    (inside : ∀ i, x.selects mask ty i → x.laneAddr ty b a i + n ≤ s.tmBytes p) :
    (x.laneAddrs mask ty b a).find? (fun l => !s.tmOk p l.2 n) = none := by
  refine List.find?_eq_none.2 fun l hl => ?_
  obtain ⟨selected, addr⟩ := Thread.mem_laneAddrs.1 hl
  rw [addr, State.tmOk_of (inside _ selected)]
  exact Bool.false_ne_true

theorem Thread.find_lane {x : Thread} {mask ty b a i : Nat} (selected : x.selects mask ty i) :
    (((x.laneAddrs mask ty b a).find? fun l => l.1 == i).map Prod.snd).getD 0 = x.laneAddr ty b a i := by
  cases found : (x.laneAddrs mask ty b a).find? fun l => l.1 == i with
  | none =>
    have absent := List.find?_eq_none.1 found (i, x.laneAddr ty b a i) (Thread.mem_laneAddrs.2 ⟨selected, rfl⟩)
    exact absurd (beq_self_eq_true i) absent
  | some l =>
    have lane : l.1 = i := by simpa using List.find?_some found
    rw [← lane]
    exact (Thread.mem_laneAddrs.1 (List.mem_of_find?_eq_some found)).2

theorem leNat_lt : ∀ bs : List Byte, leNat bs < 256 ^ bs.length
  | [] => by decide
  | b :: bs => by
    have := leNat_lt bs
    have byte := b.isLt
    rw [leNat, List.length_cons, pow_succ]
    omega

/-- Types of Table TILE-3 that a lane of a load or store can have fill whole bytes. -/
theorem tyWidth_bytes {t : Nat} (known : t ≤ 13) : 8 * (tyWidth t / 8) = tyWidth t := by
  interval_cases t <;> rfl

theorem State.leNat_tmRead_lt (s : State) (tile off n : Nat) : leNat (s.tmRead tile off n) < 2 ^ (8 * n) := by
  have bound := leNat_lt (s.tmRead tile off n)
  have length : (s.tmRead tile off n).length = n := by rw [State.tmRead, cells, List.length_map, List.length_range]
  rwa [length, show 256 = 2 ^ 8 from rfl, ← pow_mul] at bound

/-- What a VLDX puts into a lane. -/
def State.laneLoaded (s : State) (tile : Nat) (x : Thread) (mask ty b a i : Nat) : Nat :=
  leNat (s.tmRead tile ((((x.laneAddrs mask ty b a).find? fun l => l.1 == i).map Prod.snd).getD 0) (tyWidth ty / 8))

theorem vldx_becomes {s : State} {tile : Fin 64} {th : Fin 8} {mask : BitVec 3} {ty : BitVec 4} {b a d : BitVec 5}
    {p stage chunk : Nat} (run : s.runOf tile = some (p, stage, chunk)) (can : s.canIssue tile th = true) (known : ty.toNat ≤ 13) :
    let x := s.thread tile th
    (∀ i, x.selects mask.toNat ty.toNat i → x.laneAddr ty.toNat b.toNat a.toNat i + tyWidth ty.toNat / 8 ≤ s.tmBytes p) →
    ThreadBecomes (.vldx tile th 0 mask ty b a d {}) tile th s (x.putVF d.toNat
      (lanes (tyWidth ty.toNat) (lanesX ty.toNat) (x.mN mask.toNat) (x.vN d.toNat) fun i =>
        (s.laneLoaded tile x mask.toNat ty.toNat b.toNat a.toNat i, 0))).next := by
  intro x inside
  refine threadBecomes_of_issueWith rfl (decide_eq_true known) can fun p' _ _ run' => ⟨s, ?_, .refl _ _ s⟩
  obtain ⟨rfl, _⟩ := Prod.mk.inj (Option.some.inj (run'.symm.trans run))
  have none_ : ((s.thread tile th).laneAddrs mask.toNat ty.toNat b.toNat a.toNat).find?
      (fun l => !s.tmOk p' l.2 (tyWidth ty.toNat / 8)) = none := Thread.laneAddrs_inside inside
  simp only [none_, State.tmLoad_clean, State.tmEccRead_clean, State.laneLoaded]
  rfl

/-- Settles O10: each load is clean, and writes what it read; a lane of VLDX takes the bytes at its own address. -/
theorem tileLoads : Obligations.TileLoads := by
  unfold Obligations.TileLoads
  intro s tile th imm mask ty a b d p stage chunk run can x o
  refine ⟨fun inside aligned => (vld_becomes run can inside aligned).vectorF, fun inside => (sld_becomes run can inside).scalarF, ?_⟩
  intro known w at_ inside
  obtain ⟨t, runs, frame, joined, value, others⟩ :=
    (vldx_becomes (d := d) run can known fun i selected => inside i selected.1 selected.2).vectorF
  refine ⟨t, runs, frame, ?_, others, fun i hi => ?_⟩
  · have flags : BitVec.ofNat 6 0 = 0#6 := rfl
    rw [flags_lanes_none fun _ => rfl, flags, BitVec.or_zero] at joined
    exact joined
  · have old : elem (x.vN d.toNat) w i = elem (x.vreg d.toNat).toNat w i := rfl
    rw [value, elem_lanes w _ _ _ _ hi (Nat.mul_div_le 2048 w), old]
    by_cases selected : x.selects mask.toNat ty.toNat i
    · refine (if_pos selected).trans (.trans ?_ (if_pos selected).symm)
      have bound : leNat (s.tmRead tile (at_ i) (w / 8)) < 2 ^ w := by
        have bytes := s.leNat_tmRead_lt tile (at_ i) (w / 8)
        rwa [tyWidth_bytes known] at bytes
      rw [State.laneLoaded, Thread.find_lane selected]
      exact Nat.mod_eq_of_lt bound
    · exact (if_neg selected).trans (if_neg selected).symm
end Sys2Proof.Machine

namespace Sys2Proof.Machine
open Sys2Proof

/-! ## Stores to tile memory (R151, R152, R162) -/

/-- Nothing but tile memory has changed. -/
def TileMemOnly (s t : State) : Prop := t = { s with mem := { s.mem with tile := t.mem.tile } }

theorem tileMemOnly_tmWrite (s : State) (tile off : Nat) (bs : List Byte) : TileMemOnly s (s.tmWrite tile off bs) := rfl

theorem TileMemOnly.trans {s t u : State} (h : TileMemOnly s t) (h' : TileMemOnly t u) : TileMemOnly s u := by
  unfold TileMemOnly at *; rw [h', h]

/-- What a store leaves: the program counter moves on, tile memory is as the store made it. -/
theorem exec_store {i : Instr} {s u v : State} {ok : Bool} {tile th p stage k : Nat} {f : State → Nat → Thread → State}
    (word : exec i s = ifWord ok (s.issueWith tile th f)) (valid : ok = true) (run : s.runOf tile = some (p, stage, k))
    (can : s.canIssue tile th = true) (stores : f s p (s.thread tile th) = u.setThread tile th (s.thread tile th).next)
    (mem : TileMemOnly v u) :
    ∃ t, exec i s = .next t ∧ ThreadStoreFrame tile th v t ∧
      t.thread tile th = { s.thread tile th with pc := ((s.thread tile th).pc + 1) % 2 ^ 14 } ∧
      t.mem.tile = u.mem.tile ∧ t.free = v.free := by
  refine ⟨_, exec_of_issueWith word valid run can, ?_⟩
  rw [stores]
  have counts := onlyBits_perf (u.setThread tile th (s.thread tile th).next) (pgTILE tile) 0x110 1
  have only := counts.1
  have threads : ∀ n k, u.thread n k = v.thread n k := fun n k => by rw [mem]; rfl
  have rest : ∀ n, u.tile n = v.tile n := fun n => by rw [mem]; rfl
  refine ⟨⟨⟨?_, ?_, fun n k hk => ?_, fun n => ?_⟩, ?_⟩, ?_, ?_, ?_⟩
  · rw [only, State.setThread, State.setTile, mem]
  · exact fun page off i hp ho hn => (counts.2 page off i hp ho hn).trans (by rw [State.setThread, State.setTile, mem]; rfl)
  · exact (State.perf_thread _ _ _ _ _ _).trans ((State.thread_setThread_ne _ _ hk).trans (threads n k))
  · refine (congrArg (fun t : Tile => { t with threads := [] }) (State.perf_tile _ _ _ _ _)).trans ?_
    rw [State.tile_setThread, rest]
  · rw [State.perf_mem, State.setThread, State.setTile, mem]
  · rw [State.perf_thread, State.thread_setThread_self]; rfl
  · rw [State.perf_mem]; rfl
  · rw [only, State.setThread, State.setTile, mem]

/-- Byte i of a number's little-endian bytes. -/
theorem getElem?_leBytes (n : Nat) : ∀ x i, (leBytes n x)[i]? = if i < n then some (byte (elem x 8 i)) else none := by
  induction n with
  | zero => intro x i; rfl
  | succ n ih =>
    intro x i
    cases i with
    | zero =>
      have low : byte x = byte (elem x 8 0) := BitVec.eq_of_toNat_eq (by simp [byte, elem])
      rw [if_pos (Nat.succ_pos n), ← low]; rfl
    | succ i =>
      have next : elem (x / 256) 8 i = elem x 8 (i + 1) := by
        rw [elem, elem, Nat.div_div_eq_div_mul, show 256 = 2 ^ 8 from rfl, ← pow_add, show 8 + 8 * i = 8 * (i + 1) by ring]
      rw [leBytes, List.getElem?_cons_succ, ih, next]
      simp only [Nat.add_lt_add_iff_right]

/-- Tile memory after the bytes of a number are stored. -/
theorem State.cell_store (s : State) (tile off n x k : Nat) :
    cell (s.tmWrite tile off (leBytes n x)).mem.tile k =
      if tmKey tile off ≤ k ∧ k < tmKey tile off + n then byte (elem x 8 (k - tmKey tile off)) else cell s.mem.tile k := by
  rw [State.tmWrite, cell_setCells, getElem?_leBytes]
  by_cases low : tmKey tile off ≤ k
  · by_cases high : k < tmKey tile off + n
    · rw [if_pos low, if_pos (by omega), if_pos ⟨low, high⟩]; rfl
    · rw [if_pos low, if_neg (by omega), if_neg fun h => high h.2]; rfl
  · rw [if_neg low, if_neg fun h => low h.1]

theorem vst_effect {s : State} {tile : Fin 64} {th : Fin 8} {imm : BitVec 12} {a d : BitVec 5} {p stage chunk o : Nat}
    (run : s.runOf tile = some (p, stage, chunk)) (can : s.canIssue tile th = true)
    (addr : addrOf ((s.thread tile th).sN a.toNat) (immI imm * 64) = o) (inside : o + 256 ≤ s.tmBytes p) (aligned : o % 64 = 0) :
    ∃ t, exec (.vst tile th imm 0 a d) s = .next t ∧ ThreadStoreFrame tile th s t ∧
      t.thread tile th = { s.thread tile th with pc := ((s.thread tile th).pc + 1) % 2 ^ 14 } ∧
      t.mem.tile = (s.tmWrite tile o (leBytes 256 ((s.thread tile th).vN d.toNat))).mem.tile := by
  have line : (o % 64 != 0) = false := by rw [aligned]; rfl
  obtain ⟨t, runs, frame, moved, mem, _⟩ := exec_store (i := .vst tile th imm 0 a d) rfl rfl run can (by
    simp only [addr, State.tmOk_of inside, line, Bool.false_eq_true, if_false]) (tileMemOnly_tmWrite s tile o (leBytes 256 ((s.thread tile th).vN d.toNat)))
  exact ⟨t, runs, frame, moved, mem⟩

theorem sst_effect {s : State} {tile : Fin 64} {th : Fin 8} {imm : BitVec 12} {a d : BitVec 5} {p stage chunk o : Nat}
    (run : s.runOf tile = some (p, stage, chunk)) (can : s.canIssue tile th = true)
    (addr : addrOf ((s.thread tile th).sN a.toNat) (immI imm * 8) = o) (inside : o + 8 ≤ s.tmBytes p) :
    ∃ t, exec (.sst tile th imm 0 a d) s = .next t ∧ ThreadStoreFrame tile th s t ∧
      t.thread tile th = { s.thread tile th with pc := ((s.thread tile th).pc + 1) % 2 ^ 14 } ∧
      t.mem.tile = (s.tmWrite tile o (leBytes 8 ((s.thread tile th).sN d.toNat))).mem.tile := by
  obtain ⟨t, runs, frame, moved, mem, _⟩ := exec_store (i := .sst tile th imm 0 a d) rfl rfl run can (by
    simp only [addr, State.tmOk_of inside, Bool.false_eq_true, if_false]) (tileMemOnly_tmWrite s tile o (leBytes 8 ((s.thread tile th).sN d.toNat)))
  exact ⟨t, runs, frame, moved, mem⟩

/-! ### The lanes of a VSTX -/

/-- The bytes that the lanes of a VSTX store, with their addresses. -/
def Thread.laneBytes (x : Thread) (mask ty b a d : Nat) : List (Nat × Byte) :=
  (x.laneAddrs mask ty b a).flatMap fun l =>
    (leBytes (tyWidth ty / 8) (elem (x.vN d) (tyWidth ty) l.1)).zipIdx.map fun q => (l.2 + q.2, q.1)

theorem Thread.mem_laneBytes {x : Thread} {mask ty b a d : Nat} {q : Nat × Byte} : q ∈ x.laneBytes mask ty b a d ↔
    ∃ i j, x.selects mask ty i ∧ j < tyWidth ty / 8 ∧
      q = (x.laneAddr ty b a i + j, byte (elem (elem (x.vN d) (tyWidth ty) i) 8 j)) := by
  simp only [Thread.laneBytes, List.mem_flatMap, List.mem_map, Prod.exists, List.mem_zipIdx_iff_getElem?, getElem?_leBytes,
    Option.ite_none_right_eq_some, Option.some.injEq, Thread.mem_laneAddrs]
  constructor
  · rintro ⟨i, o, ⟨selected, rfl⟩, v, j, ⟨hj, rfl⟩, rfl⟩
    exact ⟨i, j, selected, hj, rfl⟩
  · rintro ⟨i, j, selected, hj, rfl⟩
    exact ⟨i, _, ⟨selected, rfl⟩, _, j, ⟨hj, rfl⟩, rfl⟩

/-- The bytes that are stored go to the addresses of the lanes. -/
theorem scatter_addr {k : Nat} {ws : List (Nat × Byte)} {q : Nat × Byte} (h : q ∈ scatter k ws) : ∃ w ∈ ws, w.1 = q.1 := by
  simp only [scatter, List.mem_map, Prod.exists, List.mem_zipIdx_iff_getElem?] at h
  obtain ⟨w, b, i, found, rfl⟩ := h
  refine ⟨(w, b), List.mem_of_getElem? found, ?_⟩
  split <;> rfl
/-- Every address that a lane stores to is stored to. -/
theorem scatter_covers {k : Nat} {ws : List (Nat × Byte)} {w : Nat × Byte} (h : w ∈ ws) : ∃ q ∈ scatter k ws, q.1 = w.1 := by
  obtain ⟨i, found⟩ := List.mem_iff_getElem?.1 h
  refine ⟨_, List.mem_map_of_mem (a := (w, i)) (List.mem_zipIdx_iff_getElem?.2 found), ?_⟩
  split <;> rfl

/-- Where the lanes that store to an address agree, that is what stands there (R162, log 65). -/
theorem scatter_agreed {k o : Nat} {b : Byte} {ws : List (Nat × Byte)} (agree : ∀ w ∈ ws, w.1 = o → w.2 = b) :
    ∀ q ∈ scatter k ws, q.1 = o → q.2 = b := by
  intro q h addr
  simp only [scatter, List.mem_map, Prod.exists, List.mem_zipIdx_iff_getElem?] at h
  obtain ⟨w, v, i, found, rfl⟩ := h
  have stored := List.mem_of_getElem? found
  split at addr
  case isTrue conflict =>
    obtain ⟨q, hq, same⟩ := List.any_eq_true.1 conflict
    simp only [Bool.and_eq_true, beq_iff_eq, bne_iff_ne] at same
    exact absurd ((agree q hq (same.1.trans addr)).trans (agree _ stored addr).symm) same.2
  case isFalse => rw [if_neg (by assumption)]; exact agree _ stored addr

/-- Single bytes stored one after the other. -/
def State.storeAll (s : State) (tile : Nat) (qs : List (Nat × Byte)) : State :=
  qs.foldl (fun (s : State) (q : Nat × Byte) => s.tmWrite tile q.1 [q.2]) s

theorem tileMemOnly_storeAll (tile : Nat) : ∀ (qs : List (Nat × Byte)) (s : State), TileMemOnly s (s.storeAll tile qs)
  | [], _ => rfl
  | q :: qs, s => (tileMemOnly_tmWrite s tile q.1 [q.2]).trans (tileMemOnly_storeAll tile qs _)

theorem State.cell_tmWrite_one (s : State) (tile o k : Nat) (b : Byte) :
    cell (s.tmWrite tile o [b]).mem.tile k = if k = tmKey tile o then b else cell s.mem.tile k := cell_setCell _ _ _ _

/-- A byte of tile memory after several are stored, of which those at its place agree. -/
theorem State.cell_storeAll {tile o : Nat} {b : Byte} : ∀ (qs : List (Nat × Byte)) (s : State), (∀ q ∈ qs, q.1 = o → q.2 = b) →
    cell (s.storeAll tile qs).mem.tile (tmKey tile o) = if ∃ q ∈ qs, q.1 = o then b else cell s.mem.tile (tmKey tile o)
  | [], _, _ => by simp [State.storeAll]
  | q :: qs, s, agree => by
    have key : tmKey tile o = tmKey tile q.1 ↔ q.1 = o := by unfold tmKey; omega
    have rest := State.cell_storeAll (tile := tile) qs (s.tmWrite tile q.1 [q.2]) fun q' h => agree q' (List.mem_cons_of_mem _ h)
    rw [State.storeAll, List.foldl_cons]
    refine rest.trans ?_
    rw [State.cell_tmWrite_one]
    simp only [key, List.exists_mem_cons_iff]
    by_cases here : q.1 = o
    · simp only [here, agree q List.mem_cons_self here, if_true, true_or, ite_self]
    · simp only [here, if_false, false_or]

/-- A byte at no address that is stored to stays. -/
theorem State.cell_storeAll_ne {tile k : Nat} : ∀ (qs : List (Nat × Byte)) (s : State), (∀ q ∈ qs, k ≠ tmKey tile q.1) →
    cell (s.storeAll tile qs).mem.tile k = cell s.mem.tile k
  | [], _, _ => rfl
  | q :: qs, s, apart => by
    refine (State.cell_storeAll_ne qs _ fun q' h => apart q' (List.mem_cons_of_mem _ h)).trans ?_
    rw [State.cell_tmWrite_one, if_neg (apart q List.mem_cons_self)]

theorem vstx_effect {s : State} {tile : Fin 64} {th : Fin 8} {mask : BitVec 3} {ty : BitVec 4} {b a d : BitVec 5}
    {p stage chunk : Nat} (run : s.runOf tile = some (p, stage, chunk)) (can : s.canIssue tile th = true) (known : ty.toNat ≤ 13)
    (inside : ∀ i, (s.thread tile th).selects mask.toNat ty.toNat i →
      (s.thread tile th).laneAddr ty.toNat b.toNat a.toNat i + tyWidth ty.toNat / 8 ≤ s.tmBytes p) :
    ∃ t k, exec (.vstx tile th 0 mask ty b a d) s = .next t ∧ ThreadStoreFrame tile th { s with free := t.free } t ∧
      t.thread tile th = { s.thread tile th with pc := ((s.thread tile th).pc + 1) % 2 ^ 14 } ∧
      t.mem.tile = (s.fresh.2.storeAll tile
        (scatter k ((s.thread tile th).laneBytes mask.toNat ty.toNat b.toNat a.toNat d.toNat))).mem.tile := by
  obtain ⟨t, runs, frame, moved, mem, free⟩ := exec_store (i := .vstx tile th 0 mask ty b a d) rfl (decide_eq_true known) run can (by
    simp only [Thread.laneAddrs_inside inside]; rfl) (tileMemOnly_storeAll tile
      (scatter s.fresh.1 ((s.thread tile th).laneBytes mask.toNat ty.toNat b.toNat a.toNat d.toNat)) s.fresh.2)
  refine ⟨t, s.fresh.1, runs, ?_, moved, mem⟩
  rw [free]
  exact frame

/-- Settles O11: VST and SST store the bytes of a register; the bytes of a VSTX's lanes go to the lanes' addresses, and stand
there where the lanes agree (`scatter_agreed`). -/
theorem tileStores : Obligations.TileStores := by
  unfold Obligations.TileStores
  intro s tile th imm mask ty a b d p stage chunk run can x o moved
  refine ⟨fun inside aligned => ?_, fun inside => ?_, ?_⟩
  · obtain ⟨t, runs, frame, goesOn, mem⟩ := vst_effect (d := d) run can rfl inside aligned
    exact ⟨t, runs, frame, goesOn, fun k => by rw [mem]; exact State.cell_store ..⟩
  · obtain ⟨t, runs, frame, goesOn, mem⟩ := sst_effect (d := d) run can rfl inside
    exact ⟨t, runs, frame, goesOn, fun k => by rw [mem]; exact State.cell_store ..⟩
  · intro known w at_ sel inside
    obtain ⟨t, k, runs, frame, goesOn, mem⟩ := vstx_effect (d := d) run can known inside
    refine ⟨t, runs, frame, goesOn, fun k apart => ?_, fun i j selected hj agree => ?_⟩
    · rw [mem]
      refine State.cell_storeAll_ne _ _ fun q hq here => ?_
      obtain ⟨v, stored, addr⟩ := scatter_addr hq
      obtain ⟨i, j, selected, hj, rfl⟩ := Thread.mem_laneBytes.1 stored
      have outside : k < tmKey tile (at_ i) ∨ tmKey tile (at_ i) + w / 8 ≤ k := apart i selected
      have target : k = tmKey tile (at_ i + j) := here.trans (congrArg (tmKey tile) addr.symm)
      unfold tmKey at outside target
      omega
    · have agreed := scatter_agreed (k := k) (o := at_ i + j) (b := byte (elem (elem (x.vN d.toNat) w i) 8 j))
        (ws := x.laneBytes mask.toNat ty.toNat b.toNat a.toNat d.toNat) (by
          intro v stored addr
          obtain ⟨i', j', selected', hj', rfl⟩ := Thread.mem_laneBytes.1 stored
          exact congrArg byte (agree i' j' selected' hj' addr))
      obtain ⟨q, hq, addr⟩ := scatter_covers (k := k) (Thread.mem_laneBytes.2 ⟨i, j, selected, hj, rfl⟩)
      rw [mem]
      exact (State.cell_storeAll _ _ agreed).trans (if_pos ⟨q, hq, addr⟩)
end Sys2Proof.Machine

namespace Sys2Proof.Machine
open Sys2Proof

/-! ## Errors of tile memory on a load (R151, R156) -/

theorem pgTILE_lt (tile : Fin 64) : pgTILE tile < 512 := by
  have := tile.isLt
  unfold pgTILE
  omega

/-- An aligned load of 8 bytes touches one word. -/
theorem wordsOf_aligned {o : Nat} (aligned : o % 8 = 0) : wordsOf o 8 = [o / 8] := by
  rw [wordsOf, aligned]; rfl

/-- What TILE_TM_ECC shows of a word with an error (R185). -/
def State.noteWord (s : State) (tile w : Nat) (lost : Bool) : State :=
  (s.setFld (pgTILE tile) Reg.TILE_TM_ECC_LAST_ADDR (8 * w)).setBit (pgTILE tile) Reg.TILE_TM_ECC_LAST_UNCORR lost

theorem State.tmEcc_corrected (s : State) (tile w : Nat) :
    s.tmEcc tile [w] ⟨[w], []⟩ =
      ((s.addSat (pgTILE tile) Reg.TILE_TM_ECC_CORRECTED 1).noteWord tile w false).error (pgTILE tile) Src.tile_TM_CORR := by
  simp [State.tmEcc, State.noteWord]

theorem State.tmEcc_lost (s : State) (tile w : Nat) :
    s.tmEcc tile [w] ⟨[], [w]⟩ = (s.noteWord tile w true).error (pgTILE tile) Src.tile_TM_UNCORR := by
  simp [State.tmEcc, State.noteWord]

/-- A corrected word is only counted and recorded, and so is a lost one at severity 0 COUNT (R407). -/
theorem State.tmEccRead_corrected (s : State) (tile w : Nat) : s.tmEccRead tile [w] ⟨[w], []⟩ = s.tmEcc tile [w] ⟨[w], []⟩ := by
  rw [State.tmEccRead]
  split
  · rw [List.any_nil, Bool.and_false]; rfl
  · rfl

theorem State.tmEccRead_lost {s : State} {tile : Nat} (count : s.severity (pgTILE tile) Src.tile_TM_UNCORR = 0) (w : Nat) :
    s.tmEccRead tile [w] ⟨[], [w]⟩ = s.tmEcc tile [w] ⟨[], [w]⟩ := by
  rw [State.tmEccRead, count]
  split <;> rfl

/-- A corrected word reads as it is stored; a word that is lost reads 0, and sets PZ. -/
theorem State.tmLoad_corrected (s : State) (tile off n : Nat) (ws : List Nat) : s.tmLoad tile off n ⟨ws, []⟩ = (s.tmRead tile off n, 0) :=
  s.tmLoad_clean tile off n

theorem State.tmLoad_lost (s : State) (tile : Nat) {o : Nat} (aligned : o % 8 = 0) :
    s.tmLoad tile o 8 ⟨[], [o / 8]⟩ = (List.replicate 8 0, 32) := by
  have inside : ∀ i, i < 8 → (o + i) / 8 = o / 8 := fun i hi => by omega
  refine Prod.ext ?_ ?_
  · refine List.eq_replicate_iff.2 ⟨by simp [State.tmLoad, State.tmBytesAt], fun v hv => ?_⟩
    simp only [State.tmLoad, State.tmBytesAt, List.mem_map, List.mem_range] at hv
    obtain ⟨i, hi, rfl⟩ := hv
    simp [inside i hi]
  · simp [State.tmLoad, wordsOf_aligned aligned]

/-- A load of 8 bytes within the claim: the thread takes them, then SECDED's report is counted. -/
theorem exec_sld {s : State} {tile : Fin 64} {th : Fin 8} {imm : BitVec 12} {a d : BitVec 5} {p stage chunk o : Nat}
    (run : s.runOf tile = some (p, stage, chunk)) (can : s.canIssue tile th = true)
    (addr : addrOf ((s.thread tile th).sN a.toNat) (immI imm * 8) = o) (inside : o + 8 ≤ s.tmBytes p) (ecc : TmEcc) :
    let r := s.tmLoad tile o 8 ecc
    exec (.sld tile th imm 0 a d ecc) s = .next (((s.setThread tile th
      ((s.thread tile th).putSF d.toNat (leNat r.1, r.2)).next).tmEccRead tile (wordsOf o 8) ecc).perf (pgTILE tile) 0x110 1) := by
  rw [exec_of_issueWith (i := .sld tile th imm 0 a d ecc) rfl rfl run can]
  simp only [addr, State.tmOk_of inside, Bool.false_eq_true, if_false]

theorem RegsOnly.thread {s t : State} (h : RegsOnly s t) (n k : Nat) : t.thread n k = s.thread n k := by rw [h]; rfl

theorem onlyBits_noteWord (s : State) (tile w : Nat) (lost : Bool) :
    OnlyBits (regBits (pgTILE tile) 0x168) s (s.noteWord tile w lost) :=
  ((OnlyBits.start _ s).setFld _ (by decide) fun _ _ _ => ⟨rfl, rfl⟩).setBit _ (by decide) fun _ _ _ => ⟨rfl, rfl⟩

/-- An error that is only recorded, and the count of the instruction that met it: the tiles stay as they are, and so does
TILE_TM_ECC. -/
theorem error_perf_effect {s : State} {tile src : Nat} (hp : pgTILE tile < 512) (hs : src < 64)
    (quiet : s.quietError (pgTILE tile) src) :
    let t := (s.error (pgTILE tile) src).perf (pgTILE tile) 0x110 1
    Recorded (pgTILE tile) src t ∧ (∀ n k, t.thread n k = s.thread n k) ∧
      ∀ f : Fld, f.off = 0x168 → t.fld (pgTILE tile) f = s.fld (pgTILE tile) f := by
  intro t
  obtain ⟨ints, frame, recorded⟩ := recordError_effect s false 0 hp hs quiet
  have counts := (onlyBits_perf (s.error (pgTILE tile) src) (pgTILE tile) 0x110 1).2
  refine ⟨recorded.of_frame counts hp ?_, fun n k => ?_, fun f off => ?_⟩
  · rintro ⟨_, _, k, _, off⟩; omega
  · rw [State.perf_thread]
    exact congrArg (fun tiles => (kget (fun _ => ({} : Tile)) tiles n).thread k) ((congrArg State.tiles ints).trans rfl)
  · refine (counts.fld hp (by omega) ?_).trans (frame.fld hp (by omega) ?_)
    · rintro i _ _ ⟨_, _, k, hk, h⟩; omega
    · rintro i _ _ ⟨_, ⟨h, _⟩ | h | ⟨h, _⟩⟩ <;> omega

/-- An error of the tile that would only be recorded stays so while TILE_TM_ECC changes. -/
theorem State.quietError.of_ecc {s u : State} {tile src : Nat} (quiet : s.quietError (pgTILE tile) src) (hp : pgTILE tile < 512)
    (frame : RegFrame (regBits (pgTILE tile) 0x168) s u) : u.quietError (pgTILE tile) src := by
  refine quiet.of_frame frame hp ?_ ?_ ?_
  · rintro i ⟨_, h⟩; exact absurd h (by decide)
  · rintro i ⟨_, h⟩; exact absurd h (by decide)
  · rintro i ⟨_, h⟩; exact absurd h (by decide)

theorem fld_addSat_corrected (s : State) (tile w : Nat) :
    ((s.addSat (pgTILE tile) Reg.TILE_TM_ECC_CORRECTED 1).noteWord tile w false).fld (pgTILE tile) Reg.TILE_TM_ECC_CORRECTED =
      min (s.fld (pgTILE tile) Reg.TILE_TM_ECC_CORRECTED + 1) (2 ^ 32 - 1) := by
  have fits : min (s.fld (pgTILE tile) Reg.TILE_TM_ECC_CORRECTED + 1) (2 ^ 32 - 1) < 2 ^ 32 := by omega
  rw [State.noteWord, State.setBit, State.fld_setFld_bits _ _ _ (by decide) (by decide) (by decide),
    State.fld_setFld_bits _ _ _ (by decide) (by decide) (by decide), State.addSat]
  exact State.fld_setFld_fits s _ ⟨by decide, by decide, by decide⟩ fits

theorem sld_corrected {s : State} {tile : Fin 64} {th : Fin 8} {imm : BitVec 12} {a d : BitVec 5} {p stage chunk o : Nat}
    (run : s.runOf tile = some (p, stage, chunk)) (can : s.canIssue tile th = true)
    (addr : addrOf ((s.thread tile th).sN a.toNat) (immI imm * 8) = o) (inside : o + 8 ≤ s.tmBytes p) (aligned : o % 8 = 0)
    (quiet : s.quietError (pgTILE tile) Src.tile_TM_CORR) :
    ∃ t, exec (.sld tile th imm 0 a d ⟨[o / 8], []⟩) s = .next t ∧
      t.fld (pgTILE tile) Reg.TILE_TM_ECC_CORRECTED = min (s.fld (pgTILE tile) Reg.TILE_TM_ECC_CORRECTED + 1) (2 ^ 32 - 1) ∧
      Recorded (pgTILE tile) Src.tile_TM_CORR t ∧
      t.thread tile th = ((s.thread tile th).putSF d.toNat (leNat (s.tmRead tile o 8), 0)).next := by
  have hp := pgTILE_lt tile
  have step := exec_sld (d := d) run can addr inside ⟨[o / 8], []⟩
  simp only [State.tmLoad_corrected, wordsOf_aligned aligned, State.tmEccRead_corrected, State.tmEcc_corrected] at step
  have noted := ((onlyBits_addSat (s.setThread tile th ((s.thread tile th).putSF d.toNat (leNat (s.tmRead tile o 8), 0)).next)
    (pgTILE tile) Reg.TILE_TM_ECC_CORRECTED 1 ⟨by decide, by decide, by decide⟩).mono
      (q := regBits (pgTILE tile) 0x168) fun _ _ _ h => ⟨h.1, h.2.1⟩).append (onlyBits_noteWord _ tile (o / 8) false)
  obtain ⟨recorded, threads, fields⟩ := error_perf_effect hp (by decide) (quiet.of_ecc hp noted.2)
  refine ⟨_, step, ?_, recorded, ?_⟩
  · have before : ∀ x, (s.setThread tile th x).fld (pgTILE tile) Reg.TILE_TM_ECC_CORRECTED =
        s.fld (pgTILE tile) Reg.TILE_TM_ECC_CORRECTED := fun _ => rfl
    rw [fields _ rfl, fld_addSat_corrected, before]
  · rw [threads, noted.1.thread, State.thread_setThread_self]

theorem sld_lost {s : State} {tile : Fin 64} {th : Fin 8} {imm : BitVec 12} {a d : BitVec 5} {p stage chunk o : Nat}
    (run : s.runOf tile = some (p, stage, chunk)) (can : s.canIssue tile th = true)
    (addr : addrOf ((s.thread tile th).sN a.toNat) (immI imm * 8) = o) (inside : o + 8 ≤ s.tmBytes p) (aligned : o % 8 = 0)
    (quiet : s.quietError (pgTILE tile) Src.tile_TM_UNCORR) (count : s.severity (pgTILE tile) Src.tile_TM_UNCORR = 0) :
    ∃ t, exec (.sld tile th imm 0 a d ⟨[], [o / 8]⟩) s = .next t ∧ Recorded (pgTILE tile) Src.tile_TM_UNCORR t ∧
      t.thread tile th = ((s.thread tile th).putSF d.toNat (0, 32)).next := by
  have hp := pgTILE_lt tile
  have step := exec_sld (d := d) run can addr inside ⟨[], [o / 8]⟩
  have zeros : leNat (List.replicate 8 0) = 0 := rfl
  have count : ∀ x, (s.setThread tile th x).severity (pgTILE tile) Src.tile_TM_UNCORR = 0 := fun _ => count
  simp only [State.tmLoad_lost s tile aligned, zeros, wordsOf_aligned aligned, State.tmEccRead_lost (count _), State.tmEcc_lost] at step
  have noted := onlyBits_noteWord (s.setThread tile th ((s.thread tile th).putSF d.toNat (0, 32)).next) tile (o / 8) true
  obtain ⟨recorded, threads, _⟩ := error_perf_effect hp (by decide) (quiet.of_ecc hp noted.2)
  refine ⟨_, step, recorded, ?_⟩
  rw [threads, noted.1.thread, State.thread_setThread_self]

/-- Settles O12: the word is noted in TILE_TM_ECC and its error recorded; a lost word reads 0, and its load joins PZ. -/
theorem tileMemoryErrors : Obligations.TileMemoryErrors := by
  unfold Obligations.TileMemoryErrors
  intro s tile th imm a d p stage chunk run can kept o inside aligned
  refine ⟨fun quiet => ?_, fun quiet count => ?_⟩
  · obtain ⟨t, runs, counted, recorded, thread⟩ := sld_corrected (d := d) run can rfl inside aligned quiet
    refine ⟨t, runs, counted, recorded, ?_⟩
    rw [thread]
    exact (scalarWritten_putSF _ _ _).2.1 kept
  · obtain ⟨t, runs, recorded, thread⟩ := sld_lost (d := d) run can rfl inside aligned quiet count
    obtain ⟨joined, value, _⟩ := scalarWritten_putSF (s.thread tile th) d.toNat (0, 32)
    rw [← thread] at joined value
    exact ⟨t, runs, recorded, value kept, joined_flag (congrArg Thread.flags joined) (by decide) (by decide)⟩
end Sys2Proof.Machine

namespace Sys2Proof.Machine
open Sys2Proof

/-! ## The projection array (R179, R180) -/

theorem State.tile_setThread_self (s : State) (n k : Nat) (x : Thread) : (s.setThread n k x).tile n = (s.tile n).setThread k x :=
  State.tile_setTile_self _ _ _

/-- The weight set that a variant of LOADW names: 0 for VAR 0, 1 for VAR 5 (R179). -/
def loadwSet (var : Nat) : Nat := if var = 0 then 0 else 1

/-- The matrix of 32 × 32 elements of w bytes that stands in tile memory. -/
def State.matrixAt (s : State) (tile o w : Nat) : List Nat :=
  (List.range 1024).map fun i => leNat (slice (s.tmRead tile o (1024 * w)) (i * w) w)

/-- A tile with one weight set replaced. -/
def Tile.setWeights (t : Tile) (k : Nat) (g : Weights) : Tile := { t with weights := kset (fun _ => {}) t.weights k g }

theorem Tile.weightSet_setWeights_self (t : Tile) (k : Nat) (g : Weights) : (t.setWeights k g).weightSet k = g := kget_kset_self _ _ _

theorem Tile.weightSet_setWeights_ne (t : Tile) {k j : Nat} (g : Weights) (h : j ≠ k) :
    (t.setWeights k g).weightSet j = t.weightSet j := kget_kset_ne _ h _

/-- LOADW takes the matrix into its weight set; its thread goes on. -/
theorem exec_projLoadw {s : State} {tile : Fin 64} {th : Fin 8} {var : BitVec 3} {ty : BitVec 4} {a : BitVec 5} {p stage chunk : Nat}
    (run : s.runOf tile = some (p, stage, chunk)) (can : s.canIssue tile th = true) (loads : var.toNat = 0 ∨ var.toNat = 5)
    (float : ty.toNat = 8 ∨ ty.toNat = 12 ∨ ty.toNat = 13)
    (inside : (s.thread tile th).sN a.toNat + 1024 * (tyWidth ty.toNat / 8) ≤ s.tmBytes p) :
    exec (.projLoadw tile th var 0 ty 0 a 0) s = .next ((((s.setTile tile ((s.tile tile).setWeights (loadwSet var.toNat)
      { ty := ty.toNat, w := s.matrixAt tile ((s.thread tile th).sN a.toNat) (tyWidth ty.toNat / 8) })).setThread tile th
        (s.thread tile th).next)).perf (pgTILE tile) 0x110 1) := by
  rw [exec_of_issueWith (i := .projLoadw tile th var 0 ty 0 a 0) rfl ?_ run can]
  · simp only [State.tmOk_of inside, Bool.false_eq_true, if_false]
    rfl
  · rcases loads with h | h <;> rcases float with f | f | f <;> rw [h, f] <;> rfl

/-- Nothing but tiles has changed. -/
def TilesOnly (s t : State) : Prop := t = { s with tiles := t.tiles }

/-- Tiles change, then bits of registers: nothing else does. -/
theorem TilesOnly.onlyBits {p : BitSet} {s u t : State} (h : TilesOnly s u) (bits : OnlyBits p u t) :
    t = { s with regs := t.regs, tiles := t.tiles } ∧ RegFrame p s t := by
  obtain ⟨only, frame⟩ := bits
  obtain ⟨g, rfl⟩ : ∃ g, u = { s with tiles := g } := ⟨_, h⟩
  exact ⟨by rw [only], frame⟩

theorem tilesOnly_setTile (s : State) (n : Nat) (g : Tile) : TilesOnly s (s.setTile n g) := rfl

theorem TilesOnly.setThread {s u : State} (h : TilesOnly s u) (n k : Nat) (x : Thread) : TilesOnly s (u.setThread n k x) := by
  unfold TilesOnly at *
  rw [State.setThread, State.setTile, h]

theorem projLoadw_effect {s : State} {tile : Fin 64} {th : Fin 8} {var : BitVec 3} {ty : BitVec 4} {a : BitVec 5} {p stage chunk set : Nat}
    (run : s.runOf tile = some (p, stage, chunk)) (can : s.canIssue tile th = true) (loads : var.toNat = 0 ∨ var.toNat = 5)
    (float : ty.toNat = 8 ∨ ty.toNat = 12 ∨ ty.toNat = 13) (which : loadwSet var.toNat = set) (other : 1 - set ≠ set)
    (inside : (s.thread tile th).sN a.toNat + 1024 * (tyWidth ty.toNat / 8) ≤ s.tmBytes p) :
    ∃ t, exec (.projLoadw tile th var 0 ty 0 a 0) s = .next t ∧ t.thread tile th = (s.thread tile th).next ∧
      (t.tile tile).weightSet set =
        { ty := ty.toNat, w := s.matrixAt tile ((s.thread tile th).sN a.toNat) (tyWidth ty.toNat / 8) } ∧
      (t.tile tile).weightSet (1 - set) = (s.tile tile).weightSet (1 - set) ∧
      t = { s with regs := t.regs, tiles := t.tiles } ∧ RegFrame (perfBits (pgTILE tile)) s t := by
  subst which
  refine ⟨_, exec_projLoadw run can loads float inside, ?_, ?_, ?_, ((tilesOnly_setTile _ _ _).setThread _ _ _).onlyBits (onlyBits_perf _ _ _ _)⟩
  · rw [State.perf_thread, State.thread_setThread_self]
  · rw [State.perf_tile, State.tile_setThread_self, State.tile_setTile_self]
    exact Tile.weightSet_setWeights_self ..
  · rw [State.perf_tile, State.tile_setThread_self, State.tile_setTile_self]
    exact Tile.weightSet_setWeights_ne _ _ other

theorem State.getElem?_matrixAt (s : State) (tile o w : Nat) {i : Nat} (hi : i < 1024) :
    (s.matrixAt tile o w)[i]? = some (leNat (slice (s.tmRead tile o (1024 * w)) (i * w) w)) := by
  rw [State.matrixAt, List.getElem?_map, List.getElem?_range hi]; rfl

/-! ### Products -/

/-- The registers from d on, written one after the other. -/
def Thread.putFrom (x : Thread) (d : Nat) (v : Nat → Nat) (n : Nat) : Thread :=
  (List.range n).foldl (fun y r => y.putV ((d + r) % 32) (v r)) x

theorem Thread.putFrom_succ (x : Thread) (d : Nat) (v : Nat → Nat) (n : Nat) :
    x.putFrom d v (n + 1) = (x.putFrom d v n).putV ((d + n) % 32) (v n) := by
  rw [Thread.putFrom, List.range_succ, List.foldl_append]; rfl

/-- Only vector registers change. -/
theorem Thread.putFrom_eq (x : Thread) (d : Nat) (v : Nat → Nat) (n : Nat) : x.putFrom d v n = { x with v := (x.putFrom d v n).v } := by
  induction n with
  | zero => rfl
  | succ n ih => rw [Thread.putFrom_succ, Thread.putV, Thread.setV, ih]

theorem Thread.vreg_putFrom (x : Thread) (d : Nat) (v : Nat → Nat) {n : Nat} (fits : d + n ≤ 32) (k : Nat) :
    (x.putFrom d v n).vreg k = if d ≤ k ∧ k < d + n then BitVec.ofNat 2048 (v (k - d)) else x.vreg k := by
  induction n with
  | zero => rw [if_neg (by omega)]; rfl
  | succ n ih =>
    rw [Thread.putFrom_succ, Thread.putV, Nat.mod_eq_of_lt (by omega)]
    by_cases last : k = d + n
    · subst last
      rw [Thread.vreg_setV_self, if_pos (by omega), Nat.add_sub_cancel_left]
    · rw [Thread.vreg_setV_ne _ _ last, ih (by omega)]
      exact if_congr (by omega) rfl rfl

/-- Registers that a product of a weight set writes: four for 8-bit weights, else two (R180). -/
def Weights.rows (g : Weights) : Nat := if tyWidth g.ty = 8 then 4 else 2

/-- What a product leaves in register r of those that it writes: the product, or the sum with what stood there. -/
def State.productRow (s : State) (tile : Nat) (x : Thread) (g : Weights) (mask a d : Nat) (acc : Bool) (r : Nat) : Nat :=
  (lanes 32 64 (x.mN mask) (x.vN ((d + r) % 32)) fun j =>
    let e := projElem g (x.vN a) r j
    (if acc then (varithElem 0 10 (s.ftz tile) (elem (x.vN ((d + r) % 32)) 32 j) e).1 else e, 0)).1

theorem State.projMul_eq (s : State) (tile th : Nat) (x : Thread) (set mask a d : Nat) (acc : Bool)
    (aligned : d % ((s.tile tile).weightSet set).rows = 0) :
    s.projMul tile th x set mask a d acc = s.fresh.2.setThread tile th
      (x.putFrom d (s.productRow tile x ((s.tile tile).weightSet set) mask a d acc) ((s.tile tile).weightSet set).rows).next := by
  have whole : ∀ (u v : Nat × Nat), (if d % (if tyWidth ((s.tile tile).weightSet set).ty = 8 then 4 else 2) ≠ 0 then u else v) = v :=
    fun u v => if_neg (not_not.2 aligned)
  simp only [State.projMul, whole]
  rfl

/-- A product is written to the registers of its thread; the model's free value moves on. -/
theorem projMul_effect {i : Instr} {s : State} {ok acc : Bool} {tile th p stage chunk set mask a d : Nat}
    (word : exec i s = ifWord ok (s.issueWith tile th fun s _ x => s.projMul tile th x set mask a d acc)) (valid : ok = true)
    (run : s.runOf tile = some (p, stage, chunk)) (can : s.canIssue tile th = true)
    (aligned : d % ((s.tile tile).weightSet set).rows = 0) :
    ∃ t, exec i s = .next t ∧ ThreadFrame tile th { s with free := t.free } t ∧
      t.thread tile th = ((s.thread tile th).putFrom d
        (s.productRow tile (s.thread tile th) ((s.tile tile).weightSet set) mask a d acc) ((s.tile tile).weightSet set).rows).next := by
  have step := exec_of_issueWith word valid run can
  rw [s.projMul_eq _ _ _ _ _ _ _ _ aligned] at step
  refine ⟨_, step, ?_, ?_⟩
  · have frame := threadFrame_setThread_perf s.fresh.2 tile th 0x110 1 ((s.thread tile th).putFrom d
      (s.productRow tile (s.thread tile th) ((s.tile tile).weightSet set) mask a d acc) ((s.tile tile).weightSet set).rows).next
    rw [State.perf_eq] at frame ⊢
    exact frame
  · rw [State.perf_thread, State.thread_setThread_self]

/-- An element of a register that a product writes. -/
theorem elem_productRow (s : State) (tile : Nat) (x : Thread) (g : Weights) (mask a d : Nat) (acc : Bool) {r j k : Nat}
    (place : (d + r) % 32 = k) (hj : j < 64) :
    elem (BitVec.ofNat 2048 (s.productRow tile x g mask a d acc r)).toNat 32 j =
      if (x.mreg mask).getLsbD j = true then
        (if acc then (varithElem 0 10 (s.ftz tile) (elem (x.vreg k).toNat 32 j) (projElem g (x.vN a) r j)).1
          else projElem g (x.vN a) r j) % 2 ^ 32
      else elem (x.vreg k).toNat 32 j := by
  rw [State.productRow, place, elem_lanes 32 64 _ _ _ (by omega) (by omega)]
  exact if_congr (and_iff_right hj) rfl rfl

theorem okV_product {var mask ty a d : Nat} (low : 1 ≤ var) (high : var ≤ 4) (type : ty = 0 ∨ ty = 8 ∨ ty = 12 ∨ ty = 13)
    (even : d % 2 = 0) : okV 0x42 var mask ty 0 a d = true := by
  interval_cases var <;> simpa [okV, even, or_assoc] using type

/-- Settles O14: LOADW replaces one weight set; a product writes the registers from D on (`vreg_putFrom`). -/
theorem projection : Obligations.Projection := by
  unfold Obligations.Projection
  intro s tile th mask ty a d p stage chunk run can x w o loads
  refine ⟨?_, ?_⟩
  · intro float inside
    have each : ∀ var set, var.toNat = 0 ∨ var.toNat = 5 → loadwSet var.toNat = set → 1 - set ≠ set → loads var set := by
      intro var set which names other
      obtain ⟨t, runs, thread, mine, kept, only, frame⟩ := projLoadw_effect run can which float names other inside
      exact ⟨t, runs, thread, by rw [mine], fun i hi => by rw [mine, State.getElem?_matrixAt _ _ _ _ hi], kept, only, frame⟩
    exact ⟨each 0 0 (.inl rfl) rfl (by decide), each 5 1 (.inr rfl) rfl (by decide)⟩
  · intro set hset g n aligned fits type product
    have even : d.toNat % 2 = 0 := by
      have rows : n = 4 ∨ n = 2 := ite_eq_or_eq _ _ _
      rcases rows with h | h <;> rw [h] at aligned <;> omega
    have valid : ∀ var, 1 ≤ var → var ≤ 4 → okV 0x42 var mask.toNat ty.toNat (0 : BitVec 5).toNat a.toNat d.toNat = true :=
      fun var low high => okV_product low high type even
    have each : ∀ {i acc} {e : Nat → Nat → Nat → Nat},
        (∃ t, exec i s = .next t ∧ ThreadFrame tile th { s with free := t.free } t ∧
          t.thread tile th = (x.putFrom d.toNat (s.productRow tile x g mask.toNat a.toNat d.toNat acc) n).next) →
        (∀ r j old, (if acc then (varithElem 0 10 (s.ftz tile) old (projElem g (x.vN a.toNat) r j)).1
          else projElem g (x.vN a.toNat) r j) = e r j old) → product i e := by
      rintro i acc e ⟨t, runs, frame, thread⟩ result
      have regs : ∀ k, (t.thread tile th).vreg k = _ := fun k =>
        (congrArg (Thread.vreg · k) thread).trans (x.vreg_putFrom d.toNat (s.productRow tile x g mask.toNat a.toNat d.toNat acc) fits k)
      refine ⟨t, runs, frame, ?_, fun k hk => ?_, fun r j hr hj => ?_⟩
      · rw [thread, Thread.putFrom_eq]; rfl
      · rw [regs, if_neg (by omega)]
      · rw [regs, if_pos (by omega), Nat.add_sub_cancel_left, elem_productRow s tile x g _ _ _ acc (Nat.mod_eq_of_lt (by omega)) hj,
          result]
    have small : set = 0 ∨ set = 1 := by omega
    refine ⟨each (acc := false) ?_ fun _ _ _ => rfl, each (acc := true) ?_ fun _ _ _ => rfl⟩
    · rcases small with rfl | rfl
      · exact projMul_effect rfl (by rw [valid _ (by decide) (by decide)]; rfl) run can aligned
      · exact projMul_effect rfl (by rw [valid _ (by decide) (by decide)]; rfl) run can aligned
    · rcases small with rfl | rfl
      · exact projMul_effect rfl (by rw [valid _ (by decide) (by decide)]; rfl) run can aligned
      · exact projMul_effect rfl (by rw [valid _ (by decide) (by decide)]; rfl) run can aligned
end Sys2Proof.Machine

namespace Sys2Proof.Machine
open Sys2Proof

/-! ## Slow items (R181 to R183) -/

/-- The item that BEGIN opens. -/
def beginItem (s : State) (x : Thread) (imm : BitVec 10) (a b : Nat) : Item :=
  { pos := x.sN a % 2 ^ 40, recOff := x.sN b, beginPc := x.pc, endPc := (x.jump (immI imm)).pc, beat := s.beat }

theorem itemBegin_becomes {s : State} {tile : Fin 64} {th : Fin 8} {imm : BitVec 10} {b a : BitVec 5}
    (can : s.canIssue tile th = true) (outside : (s.thread tile th).item = none) :
    ThreadBecomes (.itemBegin tile th imm b a) tile th s
      { (s.thread tile th).next with item := some (beginItem s (s.thread tile th) imm a.toNat b.toNat) } := by
  have valid : okB 0x3A imm.toNat b.toNat 0 = true := rfl
  refine threadBecomes_of_issueWith rfl valid can fun p _ _ _ => ⟨s, ?_, ThreadFrame.refl _ _ s⟩
  simp only [outside, Option.isSome_none, Bool.false_eq_true, if_false]
  rfl

/-- The item of a thread ends, and the items of the tile are counted. -/
theorem exec_itemEnd {s : State} {tile : Fin 64} {th : Fin 8} {a : BitVec 5} {p stage chunk : Nat} {it : Item}
    (run : s.runOf tile = some (p, stage, chunk)) (can : s.canIssue tile th = true) (inside : (s.thread tile th).item = some it) :
    exec (.itemEnd tile th 0 0 a) s = .next (((s.setThread tile th
      ({ s.thread tile th with item := none }.putS a.toNat (if it.diverted then 1 else 0)).next).addWrap
        (pgTILE tile) Reg.TILE_ITEM_ITEMS 1).perf (pgTILE tile) 0x110 1) := by
  rw [exec_of_issueWith (i := .itemEnd tile th 0 0 a) rfl rfl run can]
  simp only [inside]

/-- A thread is set, a counter of its tile that wraps goes up, and an event of the tile is counted. -/
theorem setThread_addWrap_perf_effect (s : State) (tile : Fin 64) (th : Nat) (y : Thread) :
    let t := ((s.setThread tile th y).addWrap (pgTILE tile) Reg.TILE_ITEM_ITEMS 1).perf (pgTILE tile) 0x110 1
    ThreadFrame tile th s { t with regs := s.regs } ∧ RegFrame ((perfBits (pgTILE tile)).or (Reg.TILE_ITEM_ITEMS.bits (pgTILE tile))) s t ∧
      t.fld (pgTILE tile) Reg.TILE_ITEM_ITEMS = (s.fld (pgTILE tile) Reg.TILE_ITEM_ITEMS + 1) % 2 ^ 32 ∧ t.thread tile th = y := by
  intro t
  have ok : Reg.TILE_ITEM_ITEMS.ok := ⟨by decide, by decide, by decide⟩
  have wraps := onlyBits_addWrap (s.setThread tile th y) (pgTILE tile) Reg.TILE_ITEM_ITEMS 1 ok
  have counts := onlyBits_perf ((s.setThread tile th y).addWrap (pgTILE tile) Reg.TILE_ITEM_ITEMS 1) (pgTILE tile) 0x110 1
  have same : { t with regs := s.regs } = s.setThread tile th y := by
    show { State.perf _ _ _ _ with regs := s.regs } = _
    rw [State.perf_eq]; rfl
  refine ⟨?_, ?_, ?_, ?_⟩
  · rw [same]
    exact (ThreadFrame.refl tile th s).setThread y
  · exact (wraps.2.trans counts.2).mono fun _ _ _ h => h.symm
  · have kept : t.fld (pgTILE tile) Reg.TILE_ITEM_ITEMS = _ := counts.2.fld (pgTILE_lt tile) ok.2.2 (by
      rintro i _ _ ⟨_, _, k, _, off⟩
      have off : 0x158 = 0x70 + 0x10 * k := off
      omega)
    exact kept.trans (State.fld_addWrap_self _ _ _ ok)
  · rw [State.perf_thread, wraps.1.thread, State.thread_setThread_self]

/-! ### Diverting an item -/

/-- The thread of an item that was diverted. -/
def Thread.diverts (x : Thread) (it : Item) : Thread :=
  { x with pc := it.endPc, event := none, item := some { it with spent := true, diverted := true } }

/-- The record stands in the buffer, and the thread at its ITEM END. -/
def State.withDivert (s : State) (tile th : Nat) (y : Thread) (r : Divert) : State :=
  let u := s.setThread tile th y
  u.setTile tile { u.tile tile with divert := (u.tile tile).divert ++ [r] }

/-- The thread and the buffer of the tile after an item is diverted. -/
theorem State.withDivert_tile (s : State) (tile th : Nat) (y : Thread) (r : Divert) :
    ((s.withDivert tile th y r).tile tile).thread th = y ∧
      ((s.withDivert tile th y r).tile tile).divert = (s.tile tile).divert ++ [r] := by
  rw [State.withDivert, State.tile_setTile_self]
  exact ⟨s.thread_setThread_self tile th y, by rw [State.tile_setThread_self]; rfl⟩

theorem State.divertItem_eq {s : State} {tile th p stage chunk : Nat} {it : Item} {r : Divert}
    (run : s.runOf tile = some (p, stage, chunk)) (found : (s.thread tile th).item = some it) (first : it.diverted = false)
    (room : (s.tile tile).divert.length < 16) (empty : ∀ k, k < 8 → (s.tile tile).slot k = none) (idle : s.engineIdle tile)
    (runs : (s.thread tile th).run = .run) (goes : (s.thread tile th).wait = none) (inside : it.recOff + 64 ≤ s.tmBytes p)
    (record : s.divertRec tile th (s.thread tile th) it = some r) :
    s.divertItem tile th = (((s.withDivert tile th ((s.thread tile th).diverts it) r).noteDiverts tile).addWrap (pgTILE tile)
      Reg.TILE_ITEM_DIVERTED 1).error (pgTILE tile) Src.tile_ITEM_DIVERT := by
  simp only [State.divertItem, found, first, if_neg (Nat.not_le.2 room), Bool.false_eq_true, if_false]
  rw [foldl_eq_self fun k hk => by rw [empty k (List.mem_range.1 hk)], State.strmSettle_of_engineIdle idle]
  simp only [record, run, runs, goes, State.tmOk_of inside, Option.isSome_none, bne_self_eq_false, Bool.or_self, Bool.false_eq_true,
    if_false]
  simp only [State.withDivert, Thread.diverts, runs, goes]

theorem State.tile_congr {s t : State} (tiles : t.tiles = s.tiles) (n : Nat) : t.tile n = s.tile n := by
  rw [State.tile, State.tile, tiles]

theorem State.noteDiverts_tiles (s : State) (tile : Nat) : (s.noteDiverts tile).tiles = s.tiles := State.setFld_tiles ..

theorem State.noteDiverts_beat (s : State) (tile : Nat) : (s.noteDiverts tile).beat = s.beat := State.setFld_beat ..

/-- What follows a diverted item: the buffer's fill is shown, the item is counted and its error recorded. -/
theorem divert_noted {s : State} {tile : Fin 64} (quiet : s.quietError (pgTILE tile) Src.tile_ITEM_DIVERT) :
    let t := ((s.noteDiverts tile).addWrap (pgTILE tile) Reg.TILE_ITEM_DIVERTED 1).error (pgTILE tile) Src.tile_ITEM_DIVERT
    t.beat = s.beat ∧ t.tiles = s.tiles ∧ Recorded (pgTILE tile) Src.tile_ITEM_DIVERT t ∧
      t.fld (pgTILE tile) Reg.TILE_ITEM_DIVERTED = (s.fld (pgTILE tile) Reg.TILE_ITEM_DIVERTED + 1) % 2 ^ 32 := by
  intro t
  have hp := pgTILE_lt tile
  have ok : Reg.TILE_ITEM_DIVERTED.ok := ⟨by decide, by decide, by decide⟩
  have held : Reg.TILE_THR_DIVERT_HELD.ok := ⟨by decide, by decide, by decide⟩
  have notes := (onlyBits_setFld s (pgTILE tile) Reg.TILE_THR_DIVERT_HELD (s.tile tile).divert.length held).trans
    (onlyBits_addWrap (s.noteDiverts tile) (pgTILE tile) Reg.TILE_ITEM_DIVERTED 1 ok)
  have quiet' : ((s.noteDiverts tile).addWrap (pgTILE tile) Reg.TILE_ITEM_DIVERTED 1).quietError (pgTILE tile) Src.tile_ITEM_DIVERT := by
    refine quiet.of_frame notes.2 hp ?_ ?_ ?_ <;>
    · rintro i (⟨_, off, _⟩ | ⟨_, off, _⟩) <;> exact absurd off (by decide)
  obtain ⟨ints, frame, recorded⟩ := recordError_effect _ false 0 hp (by decide) quiet'
  have beat : t.beat = ((s.noteDiverts tile).addWrap (pgTILE tile) Reg.TILE_ITEM_DIVERTED 1).beat := (congrArg State.beat ints).trans rfl
  have tiles : t.tiles = ((s.noteDiverts tile).addWrap (pgTILE tile) Reg.TILE_ITEM_DIVERTED 1).tiles := (congrArg State.tiles ints).trans rfl
  rw [State.addWrap_beat, s.noteDiverts_beat] at beat
  rw [State.addWrap_tiles, s.noteDiverts_tiles] at tiles
  refine ⟨beat, tiles, recorded, ?_⟩
  calc t.fld (pgTILE tile) Reg.TILE_ITEM_DIVERTED
      = ((s.noteDiverts tile).addWrap (pgTILE tile) Reg.TILE_ITEM_DIVERTED 1).fld (pgTILE tile) Reg.TILE_ITEM_DIVERTED :=
        frame.fld_of_errBits hp (by decide) (.inr (by decide))
    _ = ((s.noteDiverts tile).fld (pgTILE tile) Reg.TILE_ITEM_DIVERTED + 1) % 2 ^ 32 := State.fld_addWrap_self _ _ _ ok
    _ = _ := by rw [State.noteDiverts, State.fld_setFld_off _ _ _ (by decide) held (by decide)]

/-- An item that is diverted goes to the buffer, its thread to its ITEM END. -/
theorem State.divertItem_effect {s : State} {tile : Fin 64} {th : Fin 8} {p stage chunk : Nat} {it : Item}
    (run : s.runOf tile = some (p, stage, chunk)) (found : (s.thread tile th).item = some it) (first : it.diverted = false)
    (room : (s.tile tile).divert.length < 16) (empty : ∀ k, k < 8 → (s.tile tile).slot k = none) (idle : s.engineIdle tile)
    (runs : (s.thread tile th).run = .run) (goes : (s.thread tile th).wait = none) (inside : it.recOff + 64 ≤ s.tmBytes p)
    (quiet : s.quietError (pgTILE tile) Src.tile_ITEM_DIVERT) :
    let t := s.divertItem tile th
    t.beat = s.beat ∧ (t.thread tile th).pc = it.endPc ∧ Recorded (pgTILE tile) Src.tile_ITEM_DIVERT t ∧
      t.fld (pgTILE tile) Reg.TILE_ITEM_DIVERTED = (s.fld (pgTILE tile) Reg.TILE_ITEM_DIVERTED + 1) % 2 ^ 32 ∧
      ∃ r, (t.tile tile).divert = (s.tile tile).divert ++ [r] ∧ r.pos = it.pos ∧ r.slot = p ∧ r.stage = stage ∧ r.chunk = chunk ∧
        r.pc = it.beginPc := by
  intro t
  obtain ⟨r, record, fields⟩ : ∃ r, s.divertRec tile th (s.thread tile th) it = some r ∧ r.pos = it.pos ∧ r.slot = p ∧ r.stage = stage ∧
      r.chunk = chunk ∧ r.pc = it.beginPc := by
    rw [State.divertRec, run]
    exact ⟨_, rfl, rfl, rfl, rfl, rfl, rfl⟩
  have eq : t = _ := State.divertItem_eq run found first room empty idle runs goes inside record
  obtain ⟨thread, buffer⟩ := s.withDivert_tile tile th ((s.thread tile th).diverts it) r
  have quiet' : (s.withDivert tile th ((s.thread tile th).diverts it) r).quietError (pgTILE tile) Src.tile_ITEM_DIVERT := quiet
  obtain ⟨beat, tiles, recorded, counted⟩ := divert_noted quiet'
  rw [← eq] at beat tiles recorded counted
  refine ⟨beat, ?_, recorded, counted, r, ?_, fields⟩
  · rw [State.thread, State.tile_congr tiles, thread]; rfl
  · rw [State.tile_congr tiles, buffer]

/-- The count of an item reaches its budget at a beat at which nothing else has changed. -/
theorem exec_itemDivert {s : State} {tile : Fin 64} {th : Fin 8} {it : Item} (works : s.tileWorks tile = true)
    (found : (s.thread tile th).item = some it) (budget : 0 < s.budget tile) (on : s.beatOn = true) :
    exec (.itemDivert tile th) s = .next ((s.reached (it.beat + s.budget tile)).divertItem tile th) := by
  show execItemDivert tile th s = _
  simp only [execItemDivert, found, works, Nat.pos_iff_ne_zero.1 budget, State.atBeat_counting on, decide_false, Bool.not_true,
    Bool.or_self, Bool.false_eq_true, if_false]

/-! ### Henair takes and returns records -/

theorem State.tryRelease_none {s : State} {p stage k : Nat} (none : s.run p stage k = none) : s.tryRelease p stage k = s := by
  rw [State.tryRelease, none]

theorem divertTake_effect {s : State} {tile : Fin 64} {r : Divert} {rest : List Divert} (works : s.tileWorks tile = true)
    (buffer : (s.tile tile).divert = r :: rest) (outside : ∀ k, k < 8 → (s.thread tile k).item = none) :
    ∃ t, exec (.divertTake tile) s = .next t ∧ (t.tile tile).divert = rest ∧
      (t.tile tile).taken = (s.tile tile).taken ++ [r] ∧ t = { s with regs := t.regs, tiles := t.tiles } ∧
      RegFrame (Reg.TILE_THR_DIVERT_HELD.bits (pgTILE tile)) s t := by
  have held : Reg.TILE_THR_DIVERT_HELD.ok := ⟨by decide, by decide, by decide⟩
  obtain ⟨u, hu⟩ : ∃ u, u = s.setTile tile { s.tile tile with divert := rest, taken := (s.tile tile).taken ++ [r] } := ⟨_, rfl⟩
  have self : (u.noteDiverts tile).tile tile = { s.tile tile with divert := rest, taken := (s.tile tile).taken ++ [r] } := by
    rw [State.tile_congr (u.noteDiverts_tiles tile) _, hu, State.tile_setTile_self]
  have none : ∀ k, (u.noteDiverts tile).thread tile k = s.thread tile k := fun k => by rw [State.thread, self]; rfl
  have step : exec (.divertTake tile) s = .next (u.noteDiverts tile) := by
    show execDivertTake tile s = _
    simp only [execDivertTake, buffer, works, Bool.not_true, Bool.false_eq_true, if_false, ← hu]
    rw [foldl_eq_self fun k hk => by rw [none k, outside k (List.mem_range.1 hk)]]
  have tiles : TilesOnly s u := by rw [hu]; exact tilesOnly_setTile ..
  exact ⟨_, step, by rw [self], by rw [self], tiles.onlyBits (onlyBits_setFld u (pgTILE tile) Reg.TILE_THR_DIVERT_HELD _ held)⟩

theorem itemReturn_effect {s : State} {tile : Fin 64} {th : Fin 8} {r : Divert} (mem : r ∈ (s.tile tile).taken) (own : r.thread = th.val)
    (plain : r.event = none) (ended : (s.slot r.slot).runs = [])
    (only : ∀ q ∈ (s.tile tile).taken, q.thread = r.thread → q.pos = r.pos → q = r) :
    ∃ t, exec (.itemReturn tile th r.pos) s = .next t ∧ (t.tile tile).taken = (s.tile tile).taken.erase r ∧
      t = { s with tiles := t.tiles } := by
  have found : (s.tile tile).taken.find? (fun d : Divert => d.thread == th.val && d.pos == r.pos) = some r := by
    have some : ((s.tile tile).taken.find? (fun d : Divert => d.thread == th.val && d.pos == r.pos)).isSome = true :=
      List.find?_isSome.2 ⟨r, mem, by simp [own]⟩
    obtain ⟨q, hq⟩ := Option.isSome_iff_exists.1 some
    have is := List.find?_some hq
    rw [Bool.and_eq_true, beq_iff_eq, beq_iff_eq] at is
    rw [hq, only q (List.mem_of_find?_eq_some hq) (is.1.trans own.symm) is.2]
  let u := s.setTile tile { s.tile tile with taken := (s.tile tile).taken.erase r }
  have none : u.run r.slot r.stage r.chunk = none := by
    have runs : (u.slot r.slot).runs = [] := ended
    rw [State.run, runs]; rfl
  refine ⟨u, ?_, ?_, rfl⟩
  · show execItemReturn tile th r.pos s = _
    simp only [execItemReturn, found, plain]
    exact congrArg _ (State.tryRelease_none none)
  · exact congrArg Tile.taken (State.tile_setTile_self ..)

/-- Settles O15: each command on an item has its own effect. -/
theorem items : Obligations.Items := by
  unfold Obligations.Items
  intro s tile th imm b a p stage chunk run can x pg
  refine ⟨?opens, ?ends, ?diverts, ?takes, ?returns⟩
  case opens => exact fun outside => itemBegin_becomes can outside
  case ends =>
    intro it inside
    obtain ⟨frame, regs, counted, thread⟩ := setThread_addWrap_perf_effect s tile th
      ({ x with item := none }.putS a.toNat (if it.diverted then 1 else 0)).next
    refine ⟨_, exec_itemEnd run can inside, frame, regs, counted, ?_⟩
    rw [thread]
    exact scalarWritten_putS _ _ _
  case diverts =>
    obtain ⟨_, goes, works, _⟩ := State.canIssue_spec can
    intro it found first budget on runs inside room empty idle quiet
    obtain ⟨beat, pc, recorded, counted, r, buffer, pos, slot, st, ch, begins⟩ :=
      State.divertItem_effect (s := s.reached (it.beat + s.budget tile)) run found first room empty idle runs goes inside quiet
    exact ⟨_, r, exec_itemDivert works found budget on, beat, pc, buffer, pos, slot, st, ch, begins, counted, recorded⟩
  case takes =>
    obtain ⟨_, _, works, _⟩ := State.canIssue_spec can
    exact fun r rest buffer outside => divertTake_effect works buffer outside
  case returns => exact fun r mem own plain ended only => itemReturn_effect mem own plain ended only

end Sys2Proof.Machine

namespace Sys2Proof.Machine
open Sys2Proof

/-! ## Instructions of a thread on its streams (R166 to R169) -/

/-- A thread that runs and waits for nothing goes on as it is. -/
theorem Thread.goesOn {x : Thread} (runs : x.run = .run) (goes : x.wait = none) : { x with run := .run, wait := none } = x := by
  rw [← runs, ← goes]

theorem State.slot_setThread (s : State) (n k : Nat) (x : Thread) (m j : Nat) :
    ((s.setThread n k x).tile m).slot j = (s.tile m).slot j := by
  have rest := congrArg (Tile.slot · j) (s.tile_setThread n k m x)
  exact rest

theorem State.thread_putSlot (s : State) (n k : Nat) (y : Option StrmSlot) (j : Nat) : (s.putSlot n k y).thread n j = s.thread n j := by
  rw [State.putSlot, State.thread, State.tile_setTile_self]; rfl

theorem Tile.slot_setSlot_self (t : Tile) (k : Nat) (y : Option StrmSlot) : (t.setSlot k y).slot k = y := kget_kset_self _ _ _

theorem Tile.slot_setSlot_ne (t : Tile) {k j : Nat} (y : Option StrmSlot) (h : j ≠ k) : (t.setSlot k y).slot j = t.slot j :=
  kget_kset_ne _ h _

theorem State.strmFor_of_slot {s : State} {tile k : Nat} {y : StrmSlot} (found : (s.tile tile).slot k = some y) :
    s.strmFor tile k = some (tile, y) := by rw [State.strmFor, found]

/-! ### Issuing a descriptor -/

/-- A descriptor as it stands in its slot at first. -/
def State.loaded (s : State) (tile p th : Nat) (d : Desc) : StrmSlot :=
  { desc := d, thread := th, seq := (s.tile tile).issueSeq, inItem := ((s.tile tile).thread th).item.isSome
    rings := (s.recipients p tile d).map fun r => { tile := r } }

/-- A descriptor that passes the checks of R81 and R82, and that has elements, stands in its slot. -/
theorem State.loadDesc_ok {s : State} {tile k p chunk th : Nat} {d : Desc} (admitted : s.descCause p chunk d = 0) (some : 0 < d.total) :
    s.loadDesc tile k p chunk th d = s.setTile tile
      ({ s.tile tile with issueSeq := (s.tile tile).issueSeq + 1 }.setSlot k (.some (s.loaded tile p th d))) := by
  simp only [State.loadDesc, admitted, bne_self_eq_false, Bool.false_eq_true, if_false, if_neg (Nat.pos_iff_ne_zero.1 some)]
  rfl

theorem State.descCause_setThread (s : State) (n j : Nat) (x : Thread) (p chunk : Nat) (d : Desc) :
    (s.setThread n j x).descCause p chunk d = s.descCause p chunk d := rfl

/-- What stands in the slots of a tile once a descriptor is loaded. -/
theorem loadDesc_effect {s : State} {tile k p chunk th : Nat} {d : Desc} (admitted : s.descCause p chunk d = 0) (some : 0 < d.total) :
    let t := s.loadDesc tile k p chunk th d
    (t.tile tile).slot k = .some (s.loaded tile p th d) ∧ (∀ j, j ≠ k → (t.tile tile).slot j = (s.tile tile).slot j) ∧
      (∀ j, t.thread tile j = s.thread tile j) ∧ TilesOnly s t := by
  intro t
  have eq : t = _ := State.loadDesc_ok admitted some
  refine ⟨?_, fun j hj => ?_, fun j => ?_, ?_⟩ <;> rw [eq]
  · rw [State.tile_setTile_self, Tile.slot_setSlot_self]
  · rw [State.tile_setTile_self, Tile.slot_setSlot_ne _ _ hj]; rfl
  · rw [State.thread, State.tile_setTile_self]; rfl
  · exact tilesOnly_setTile _ _ _

theorem TilesOnly.trans {s t u : State} (h : TilesOnly s t) (h' : TilesOnly t u) : TilesOnly s u := by
  unfold TilesOnly at *
  rw [h', h]

theorem exec_strmIssue {s : State} {tile : Fin 64} {th : Fin 8} {a d : BitVec 5} {p stage chunk n : Nat}
    (run : s.runOf tile = some (p, stage, chunk)) (can : s.canIssue tile th = true)
    (inside : (s.thread tile th).sN a.toNat + 128 ≤ s.tmBytes p) (free : (s.tile tile).freeSlot = some n) :
    exec (.strmIssue tile th a d) s = .next (((s.setThread tile th ((s.thread tile th).putS d.toNat n).next).loadDesc tile n p chunk th
      (parseDesc (s.tmRead tile ((s.thread tile th).sN a.toNat) 128))).perf (pgTILE tile) 0x110 1) := by
  obtain ⟨runs, goes, -⟩ := State.canIssue_spec can
  have running : (s.tile tile).running = some (p, stage, chunk) := run
  rw [exec_of_issueWith (i := .strmIssue tile th a d) (ok := true) rfl rfl run can]
  simp only [State.tmOk_of inside, Bool.false_eq_true, if_false, State.doIssue, free, running, Thread.goesOn runs goes]

/-! ### Pages of a ring -/

theorem StrmSlot.use_tile (y : StrmSlot) (tile : Nat) : (y.use tile).tile = tile := by
  rw [StrmSlot.use]
  cases found : y.rings.find? fun r => r.tile == tile with
  | none => rfl
  | some r =>
    have mine := List.find?_some found
    exact beq_iff_eq.1 mine

/-- The use of a ring that a consumer has is set. -/
theorem StrmSlot.use_setUse {y : StrmSlot} {u : RingUse} (listed : ∃ r ∈ y.rings, r.tile = u.tile) : (y.setUse u).use u.tile = u := by
  obtain ⟨r, mem, mine⟩ := listed
  have same : ((fun r : RingUse => r.tile == u.tile) ∘ fun r => if r.tile = u.tile then u else r) = fun r => r.tile == u.tile := by
    funext q
    by_cases h : q.tile = u.tile <;> simp [h]
  have some : (y.rings.find? fun r => r.tile == u.tile).isSome = true := List.find?_isSome.2 ⟨r, mem, by simp [mine]⟩
  obtain ⟨q, hq⟩ := Option.isSome_iff_exists.1 some
  have found := List.find?_some hq
  rw [StrmSlot.use, StrmSlot.setUse, List.find?_map, same, hq]
  exact if_pos (beq_iff_eq.1 found)

/-- A page of a read that has been released is there to take. -/
theorem StrmSlot.take_page {y : StrmSlot} {tile : Nat} (reads : y.desc.write = false) (released : (y.use tile).taken < y.released) :
    y.take tile = .page (y.desc.tmBase + (y.use tile).taken % y.desc.tmPages * 4096) := by
  simp only [StrmSlot.take, reads, Bool.false_eq_true, if_false, if_pos released]

/-- The slot after a page is taken. -/
def StrmSlot.takes (y : StrmSlot) (tile : Nat) : StrmSlot := y.setUse { y.use tile with taken := (y.use tile).taken + 1 }

theorem StrmSlot.use_takes {y : StrmSlot} {tile : Nat} (listed : ∃ r ∈ y.rings, r.tile = tile) :
    (y.takes tile).use tile = { y.use tile with taken := (y.use tile).taken + 1 } := by
  have mine := y.use_tile tile
  have set := StrmSlot.use_setUse (y := y) (u := { y.use tile with taken := (y.use tile).taken + 1 }) (by rw [mine]; exact listed)
  rwa [mine] at set

theorem exec_strmTake {s : State} {tile : Fin 64} {th : Fin 8} {a d : BitVec 5} {p stage chunk o : Nat} {y : StrmSlot}
    (run : s.runOf tile = some (p, stage, chunk)) (can : s.canIssue tile th = true)
    (found : (s.tile tile).slot ((s.thread tile th).sN a.toNat % 8) = some y) (page : y.take tile = .page o) :
    exec (.strmTake tile th a d) s = .next (((s.putSlot tile ((s.thread tile th).sN a.toNat % 8) (some (y.takes tile))).setThread tile th
      ((s.thread tile th).putS d.toNat o).next).perf (pgTILE tile) 0x110 1) := by
  obtain ⟨runs, goes, -⟩ := State.canIssue_spec can
  rw [exec_of_issueWith (i := .strmTake tile th a d) (ok := true) rfl rfl run can]
  simp only [State.doTake, State.strmFor_of_slot found, page, Thread.goesOn runs goes]
  rfl

/-- The slot after a page is freed: a page of a write goes to the engine with its valid bytes. -/
def StrmSlot.frees (y : StrmSlot) (tile bytes : Nat) : StrmSlot :=
  let z := y.setUse { y.use tile with freed := (y.use tile).freed + 1 }
  if z.desc.write then { z with handed := z.handed ++ [bytes] } else z

/-- A freed page of a descriptor that delivers to one tile. -/
theorem StrmSlot.frees_eq {y : StrmSlot} {tile : Nat} (alone : y.rings = [y.use tile]) (bytes : Nat) :
    y.frees tile bytes = { y with
      rings := [{ y.use tile with freed := (y.use tile).freed + 1 }]
      handed := if y.desc.write then y.handed ++ [bytes] else y.handed } := by
  have rings : y.setUse { y.use tile with freed := (y.use tile).freed + 1 } =
      { y with rings := [{ y.use tile with freed := (y.use tile).freed + 1 }] } := by
    rw [StrmSlot.setUse, alone]
    simp
  rw [StrmSlot.frees, rings]
  cases y.desc.write <;> rfl

/-- A descriptor that delivers to one tile. -/
theorem StrmSlot.use_of_alone {y : StrmSlot} {tile : Nat} {u : RingUse} (alone : y.rings = [u]) (mine : u.tile = tile) : y.use tile = u := by
  rw [StrmSlot.use, alone, List.find?_cons_of_pos (by simp [mine])]; rfl

theorem State.releaseRead_open {s : State} {owner k : Nat} {y : StrmSlot} (found : (s.tile owner).slot k = some y)
    (open_ : y.complete = false) : s.releaseRead owner k = s := by
  simp only [State.releaseRead, found, open_, Bool.false_and, Bool.false_eq_true, if_false]

/-- An idle engine stays idle while a thread that does not wait is set. -/
theorem State.engineIdle.setThread {s : State} {tile : Nat} (idle : s.engineIdle tile) (th : Nat) {x : Thread} (goes : x.wait = none) :
    (s.setThread tile th x).engineIdle tile := by
  obtain ⟨descs, waits⟩ := idle
  refine ⟨?_, fun k hk => ?_⟩
  · rw [State.tile_setThread_self]; exact descs
  · by_cases same : k = th
    · rw [same, State.thread_setThread_self, goes]
    · rw [State.thread_setThread_ne _ _ fun h => same h.2, waits k hk]

theorem State.engineIdle.putSlot {s : State} {tile : Nat} (idle : s.engineIdle tile) (k : Nat) (y : Option StrmSlot) :
    (s.putSlot tile k y).engineIdle tile := by
  obtain ⟨descs, waits⟩ := idle
  refine ⟨?_, fun j hj => by rw [State.thread_putSlot, waits j hj]⟩
  rw [State.putSlot, State.tile_setTile_self]; exact descs

theorem exec_strmFree {s : State} {tile : Fin 64} {th : Fin 8} {a d : BitVec 5} {p stage chunk : Nat} {y : StrmSlot}
    (run : s.runOf tile = some (p, stage, chunk)) (can : s.canIssue tile th = true)
    (found : (s.tile tile).slot ((s.thread tile th).sN a.toNat % 8) = some y) (alone : y.rings = [y.use tile])
    (open_ : y.complete = false) (held : (y.use tile).freed < (y.use tile).taken) (idle : s.engineIdle tile) :
    exec (.strmFree tile th a d) s = .next (((s.setThread tile th (s.thread tile th).next).putSlot tile
      ((s.thread tile th).sN a.toNat % 8) (some (y.frees tile ((s.thread tile th).sN d.toNat)))).perf (pgTILE tile) 0x110 1) := by
  obtain ⟨-, goes, -⟩ := State.canIssue_spec can
  have mine := y.use_tile tile
  have frees := StrmSlot.frees_eq alone ((s.thread tile th).sN d.toNat)
  obtain ⟨u, hu⟩ : ∃ u, u = (s.setThread tile th (s.thread tile th).next).putSlot tile ((s.thread tile th).sN a.toNat % 8)
    (some (y.frees tile ((s.thread tile th).sN d.toNat))) := ⟨_, rfl⟩
  have slot : (u.tile tile).slot ((s.thread tile th).sN a.toNat % 8) = some (y.frees tile ((s.thread tile th).sN d.toNat)) := by
    rw [hu, State.slot_putSlot_self]
  have released : u.releaseRead tile ((s.thread tile th).sN a.toNat % 8) = u :=
    State.releaseRead_open slot (by rw [frees]; exact open_)
  have idle' : u.engineIdle tile := by
    rw [hu]
    exact (idle.setThread th (x := (s.thread tile th).next) goes).putSlot _ _
  have settled : u.strmSettleAll tile (y.frees tile ((s.thread tile th).sN d.toNat)) = u :=
    State.strmSettleAll_of_engineIdle idle' (by rw [frees]; exact congrArg (· :: []) mine)
  rw [exec_of_issueWith (i := .strmFree tile th a d) (ok := true) rfl rfl run can]
  simp only [State.strmFor_of_slot found, if_neg (Nat.not_le.2 held)]
  show Host.Outcome.next (((((s.setThread tile th (s.thread tile th).next).putSlot tile ((s.thread tile th).sN a.toNat % 8)
    (some (y.frees tile ((s.thread tile th).sN d.toNat)))).releaseRead tile ((s.thread tile th).sN a.toNat % 8)).strmSettleAll tile
      (y.frees tile ((s.thread tile th).sN d.toNat))).perf (pgTILE tile) 0x110 1) = _
  rw [← hu, released, settled]

/-- One slot of a tile's engine changes: nothing else does. -/
theorem tilesOnly_putSlot (s : State) (tile k : Nat) (y : Option StrmSlot) : TilesOnly s (s.putSlot tile k y) := tilesOnly_setTile _ _ _

theorem tilesOnly_setThread (s : State) (tile k : Nat) (x : Thread) : TilesOnly s (s.setThread tile k x) := tilesOnly_setTile _ _ _

/-- WAIT goes on where its slot holds nothing or has completed, and waits before. -/
theorem strmWait_becomes {s : State} {tile : Fin 64} {th : Fin 8} {a : BitVec 5} (can : s.canIssue tile th = true) :
    let x := s.thread tile th
    let k := x.sN a.toNat % 8
    ((∀ y o, s.strmFor tile k = some (o, y) → y.complete = true) → ThreadBecomes (.strmWait tile th a 0) tile th s x.next) ∧
      ∀ y o, s.strmFor tile k = some (o, y) → y.complete = false →
        ThreadBecomes (.strmWait tile th a 0) tile th s { x.next with run := .streamWait, wait := some (.strm k) } := by
  intro x k
  refine ⟨fun completed => ?_, fun y o found open_ => ?_⟩
  · refine threadBecomes_of_issueWith (ok := true) rfl rfl can fun p _ _ _ => ⟨s, ?_, ThreadFrame.refl _ _ s⟩
    cases found : s.strmFor tile k with
    | none => simp only [k, x] at found; simp only [found]; rfl
    | some r =>
      have done := completed r.2 r.1 found
      simp only [k, x] at found
      simp only [found, done, if_true]; rfl
  · refine threadBecomes_of_issueWith (ok := true) rfl rfl can fun p _ _ _ => ⟨s, ?_, ThreadFrame.refl _ _ s⟩
    simp only [k, x] at found
    simp only [found, open_, Bool.false_eq_true, if_false]; rfl

/-- Settles O16: the slot and the thread after each instruction on a stream. -/
theorem streamInstructions : Obligations.StreamInstructions := by
  unfold Obligations.StreamInstructions
  intro s tile th a d p stage chunk run can x off k desc
  refine ⟨?issue, (strmWait_becomes can).1, (strmWait_becomes can).2, ?take, ?free⟩
  case issue =>
    intro n inside free admitted some
    have step := exec_strmIssue (d := d) run can inside free
    have admitted' := (s.descCause_setThread tile th (x.putS d.toNat n).next p chunk desc).trans admitted
    obtain ⟨slot, others, threads, tiles⟩ := loadDesc_effect (tile := tile) (k := n) (th := th) admitted' some
    have only := ((tilesOnly_setThread s tile th (x.putS d.toNat n).next).trans tiles).onlyBits (onlyBits_perf _ (pgTILE tile) 0x110 1)
    refine ⟨_, _, step, (State.slot_perf ..).trans slot, rfl, rfl, rfl, rfl, fun j hj => ?_, ?_, only⟩
    · rw [State.slot_perf, others j hj, State.slot_setThread]
    · rw [State.perf_thread, threads, State.thread_setThread_self]
      exact scalarWritten_putS _ _ _
  case take =>
    intro y found reads listed released
    have used := StrmSlot.use_takes listed
    have only := ((tilesOnly_putSlot s tile k (some (y.takes tile))).trans
      (tilesOnly_setThread _ tile th (x.putS d.toNat (y.desc.tmBase + (y.use tile).taken % y.desc.tmPages * 4096)).next)).onlyBits
        (onlyBits_perf _ (pgTILE tile) 0x110 1)
    refine ⟨_, y.takes tile, exec_strmTake run can found (StrmSlot.take_page reads released), ?_, ?_, by rw [used], by rw [used], only⟩
    · rw [State.perf_thread, State.thread_setThread_self]
      exact scalarWritten_putS _ _ _
    · rw [State.slot_perf, State.slot_setThread, State.slot_putSlot_self]
  case free =>
    intro y found _ alone open_ held idle
    have frees := StrmSlot.frees_eq alone (x.sN d.toNat)
    have used : (y.frees tile (x.sN d.toNat)).use tile = { y.use tile with freed := (y.use tile).freed + 1 } :=
      StrmSlot.use_of_alone (congrArg StrmSlot.rings frees) (y.use_tile tile)
    have only := ((tilesOnly_setThread s tile th x.next).trans (tilesOnly_putSlot _ tile k (some (y.frees tile (x.sN d.toNat))))).onlyBits
      (onlyBits_perf _ (pgTILE tile) 0x110 1)
    refine ⟨_, y.frees tile (x.sN d.toNat), exec_strmFree run can found alone open_ held idle, ?_, by rw [used], by rw [used],
      congrArg StrmSlot.handed frees, ?_, only⟩
    · rw [State.slot_perf, State.slot_putSlot_self]
    · rw [State.perf_thread, State.thread_putSlot, State.thread_setThread_self]; rfl

end Sys2Proof.Machine
